-- ==== Sys2Proof/Word.lean ====
section
/-! DEFINITION. The word types of the module and the plain data that commands carry.

A control-space register, a descriptor word and a record word are 64 bits (R6, R30, R33, R43); memory is bytes.
The other types of this file are the facts that a command brings from outside the block. -/

namespace Sys2Proof

/-- One 64-bit word of control space, of a descriptor or of a record. -/
abbrev Word := BitVec 64

/-- One byte of memory. -/
abbrev Byte := BitVec 8

/-- The bit pattern of one FP32 value. -/
abbrev F32 := BitVec 32

/-- Who makes an access to control space. `hl n` is the host driver through BAR0 of link n (R493), `core` a server core,
`rig` a rigging core, `i3c` the management bus (R612), `move` a MOVE op (R134). -/
inductive Agent where
  | hl (n : Nat)
  | core
  | rig
  | i3c
  | move
  deriving DecidableEq, Repr

/-- What a core does to a line that it wins for itself: a store, LR, SC (R410, R412, R421), CBO.ZERO (R426), CBO.CLEAN or CBO.FLUSH (R405, R416). -/
inductive StoreKind where
  | store
  | lr
  | sc
  | zero
  | clean
  | flush
  deriving DecidableEq, Repr

/-- The outcome of a targeted self-test (R587). A located outcome names the repairable element: a physical column, a
lane, a row, a way, as a number in the element's own numbering. -/
inductive SelfTest where
  | transient
  | located (k : Nat)
  | unlocated
  deriving DecidableEq, Repr

/-- One hawser block as a port receives it (Table 17.4): its trailer fields, its flits, and whether the receiver's CRC
and FEC checks hold (R533). `tag` is trailer bytes 0 to 31, byte 0 lowest. `extra` is content that the spec gives a message without a place in the
block: for a NODE block OPCLASS, OP and EXT0 to EXT2 (R364); for a collective's exchange GID, collective number, OPCLASS, OP, EXT0 to EXT2, BROWS and
the FMT of A (R338). -/
structure Block where
  tag     : BitVec 256
  nflits  : Nat
  offset  : Nat
  dst     : Nat
  src     : Nat
  seq     : Nat
  ack     : Nat
  retry   : Bool
  crcOk   : Bool
  flits   : List Byte
  extra   : List Nat
  deriving DecidableEq, Repr

/-- Temperatures of one reading (R605), in °C: `none` where the sensor's readout fails (R607). -/
structure Temps where
  dies     : List (Option Int)   -- C0 to C3, then the hub
  hbm      : List (Option Int)   -- stacks S0 to S15
  packages : List (Option Int)   -- LPDDR5X packages 0 to 15
  inlet    : Int
  outlet   : Int
  deriving DecidableEq, Repr

/-- What the bring-up of steps 3 to 10 of Table 18.2 finds: fuse bits read with disagreement, carrier dies that answer
on the hub ends, good lanes by bundle direction, and the memory channels that fail training or wipe. -/
structure Bringup where
  softFuses  : Nat                    -- logical fuse bits whose three fuses disagree (R555)
  dieMap     : List (Option Nat)      -- carrier die that answers for identity 0 to 3, `none`: on neither hub end
  consistent : Bool                   -- R530, second and third conditions
  margins    : List (List Nat)        -- 64 bundle directions (2b + dir): margin of each of 36 lanes, 0 untrained
  hbmBad     : List (Nat × Nat)       -- (stack, channel) that fails training or wipe (R368, R565)
  dtcBad     : List Nat               -- deep-tier channels that fail training or wipe
  deriving DecidableEq, Repr

end Sys2Proof
end

