-- ==== Sys2Proof/Syntax.lean ====
section
/-! DEFINITION. The commands: one constructor for each row of spec/opcode_table.json, in the table's order.

Operands are what the row's event carries from outside: the register and the value written, the queue `q` and serial
`s` of an op, the unit, quad, bundle, port or link concerned, a measured value, a received block. A physical fact that
the spec leaves to the world (which unit of memory a device returns wrong, what a self-test finds, what a wire carries)
is an operand. `errs` lists the 64-byte units a read finds wrong, as (unit address, wrong symbols); `first n` name the
run of work units (tiles, rows, blocks, planes, records) that one piece of an op performs; on an MXE, `quad n` name a quad and the steps it streams. -/

namespace Sys2Proof

/-- A run of consecutive steps of one band on one quad (R143, R144, R166): plane `p`, column tile `c`, `h` row tiles from `r0`, the slices `lo` to
`hi - 1` of its part (R195), and the steps `start` to `stop - 1`, a step being 32 rows of one pass (R169). -/
structure Run where
  quad  : Nat
  p     : Nat
  c     : Nat
  r0    : Nat
  h     : Nat
  lo    : Nat
  hi    : Nat
  start : Nat
  stop  : Nat
  deriving DecidableEq, Repr

/-- What one piece of an op covers (R76): the kind of its unit by first index of Table 3.2 (255: no scheduled unit), its direction on a link (R77), the
work units `first` to `first + n - 1`, a range `lo` to `hi - 1` inside one of them where the owning chapter lets a piece take a part, and on an MXE its
runs of passes. -/
structure Part where
  kind  : Nat
  dir   : Nat
  first : Nat
  n     : Nat
  lo    : Nat
  hi    : Nat
  runs  : List Run
  deriving DecidableEq, Repr

/-- A command of the block. -/
inductive Instr where
  /-- REGISTER_WRITE (R8). A write to a register that has no row of its own sets its fields as its access code states. -/
  | registerWrite (ag : Agent) (addr width : Nat) (v : Word)
  /-- DOORBELL (R45). A write to RIG_QTAIL submits descriptors if the new value is in range, and otherwise is ignored with DBERR set. -/
  | doorbell (q : Nat) (t : BitVec 32)
  /-- EN_SET (R50). Writing RIG_QCTL.EN to 1 checks SIZE and the ring addresses, then moves the queue to RUNNING or HALTED or sets CFGERR. -/
  | enSet (q : Nat)
  /-- EN_CLEAR (R50). Writing RIG_QCTL.EN to 0 stops take-in and leaves started ops to run to their end. -/
  | enClear (q : Nat)
  /-- FLUSH (R50). RIG_QCTL.FLUSH enters FLUSHING and cancels every submitted descriptor that has not started. -/
  | flush (q : Nat)
  /-- FLUSH_END (R50). Once the last started op has ended and every cancelled record is written, the flush ends, retires failed ops and aligns the counters. -/
  | flushEnd (q : Nat)
  /-- RESUME (R50). RIG_QCTL.RESUME on a halted queue clears HALT and RINGERR, retires failed ops and retries a failed ring access. -/
  | resume (q : Nat)
  /-- TAKE_IN (R51). The module reads a descriptor and its records and runs the take-in checks in order, accepting the descriptor or ending it with a rejection status. -/
  | takeIn (q : Nat) (errs : List (Nat × Nat))
  /-- PRODUCER_TAKEN_IN (R53). A queue that waits at take-in resumes once the producer it names has been taken in on the other queue. -/
  | producerTakenIn (q : Nat)
  /-- OP_START (R54). An op starts once all its dependencies are satisfied; an op without work starts and ends in one beat. -/
  | opStart (q s : Nat)
  /-- NOP (R41). NOP completes with OK once its dependencies are satisfied. -/
  | nop (q s : Nat)
  /-- WAIT (R42). WAIT polls a 64-bit word until it reaches a threshold or EXT0 beats pass. -/
  | wait (q s : Nat)
  /-- WAIT_READ (R42). Once per beat, a WAIT reads its word and completes OK, WAIT_TIMEOUT or with a read failure. -/
  | waitRead (q s : Nat) (errs : List (Nat × Nat))
  /-- COMPLETION_RECORD (R48). A ready completion record is written to the completion ring once any fence condition holds and the ring has room. -/
  | completionRecord (q s : Nat)
  /-- BEAT_BOUNDARY (R71). At each beat boundary BEAT_NOW advances and every scheduled unit sees the boundary. -/
  | beatBoundary (p1 p10 p1000 inv : Nat)
  /-- PIECE_PLAN (R78). The Rigger plans a piece onto a unit's running total of capacity and gives it a planned beat. -/
  | piecePlan (q s : Nat) (split : List Part) (idx unit : Nat)
  /-- PIECE_COMMIT (R80). The Rigger commits a planned piece to its unit within BEAT_HORIZON beats of its planned beat. -/
  | pieceCommit (q s idx : Nat)
  /-- STAGING (R149). The Rigger stages an operand held elsewhere into the tile store of the die whose unit reads it. -/
  | staging (q s idx role : Nat) (path : List Nat)
  /-- PIECE_START (R81). A committed piece starts once the previous piece has ended, its inputs are ready and the horizon has been reached. -/
  | pieceStart (q s idx : Nat) (errs : List (Nat × Nat)) (vxe : Nat)
  /-- PIECE_END (R92). A piece ends, its lateness updates the unit's offset, and its op ends when its last piece does. -/
  | pieceEnd (q s idx cyc : Nat) (waitTier waitData : Bool)
  /-- RE_BASE (R96). At the next boundary after an offset exceeds BEAT_SLIPLIM, the Rigger moves every unended piece later by D beats. -/
  | reBase
  /-- GET_INFO (R108). The mailbox command returns the firmware version. -/
  | getInfo (ag : Agent) (m : Nat) (seq : BitVec 16)
  /-- SET_PIPELINE (R88). The mailbox command sets a context's stage count, stage index, micro-batch count and pipeline mode. -/
  | setPipeline (ag : Agent) (m : Nat) (seq : BitVec 16)
  /-- GET_PIPELINE (R108). The mailbox command returns r and the context's current pipeline setting. -/
  | getPipeline (ag : Agent) (m : Nat) (seq : BitVec 16)
  /-- SET_SLIPLIM (R108). The mailbox command sets BEAT_SLIPLIM. -/
  | setSliplim (ag : Agent) (m : Nat) (seq : BitVec 16)
  /-- SET_MARGIN (R108). The mailbox command sets BEAT_MARGIN, effective at the next beat boundary. -/
  | setMargin (ag : Agent) (m : Nat) (seq : BitVec 16)
  /-- READ_PLAN (R108). The mailbox command writes the plan records of a context's committed pieces to a buffer. -/
  | readPlan (ag : Agent) (m : Nat) (seq : BitVec 16)
  /-- CLEAR_COUNTERS (R98). The mailbox command clears the BEAT_SLIPTAB counters and RIG_HINTMISS. -/
  | clearCounters (ag : Agent) (m : Nat) (seq : BitVec 16)
  /-- REBASE (R98). The mailbox command performs a re-base even when no offset exceeds the limit. -/
  | rebase (ag : Agent) (m : Nat) (seq : BitVec 16)
  /-- RIG_WCTL (R136). A write to a watch slot's control register takes effect at the next boundary, and arming a slot clears COUNT. -/
  | rigWctl (ag : Agent) (slot : Nat) (v : Word)
  /-- TRIPPED_CLEAR (R138). A W1C write of TRIPPED takes effect at the boundary that closes the current beat. -/
  | trippedClear (ag : Agent) (slot : Nat)
  /-- MATMUL (R163). Computes D = op(A) · op(B), with an optional preload, over planes. -/
  | matmul (q s unit vxe quad n : Nat)
  /-- MATMUL_ROWS (R161). Computes each result row from the row of A that an index list names. -/
  | matmulRows (q s unit vxe quad n : Nat)
  /-- MATMUL_BLOCKDIAG (R162). Multiplies each tile of A by plane j of B in one pass. -/
  | matmulBlockdiag (q s unit vxe quad n : Nat)
  /-- TILE_QUEUE_ROOM (R148). An MXE or stem engine stopped on a full tile queue resumes streaming once an entry is freed. -/
  | tileQueueRoom (unit : Nat)
  /-- COLUMN_ERROR (R172). A column residue detection stops the MXE, discards its piece, takes the MXE out of service and re-places its work. -/
  | columnError (mxe quad col : Nat)
  /-- PASS_ERROR (R172). A parity or double-bit accumulator detection stops the MXE, discards its piece and re-places its work. -/
  | passError (mxe quad det : Nat)
  /-- TARGETED_SELF_TEST (R587). A targeted self-test of a withheld element ends TRANSIENT or LASTING, and the element is returned, repaired or kept out. -/
  | targetedSelfTest (dom inst : Nat) (out : SelfTest)
  /-- MXE_COLMAP (R176). A rigging-core write to the spare column map is applied, or is ignored with MAPERR set. -/
  | mxeColmap (ag : Agent) (n : Nat) (v : Word)
  /-- MXE_INJ_COLUMN_RESIDUE (R178). Arms one column residue injection in a quad. -/
  | mxeInjColumnResidue (ag : Agent) (n quad col : Nat)
  /-- MXE_INJ_WEIGHT_REGISTER_PARITY (R178). Arms one weight register parity injection. -/
  | mxeInjWeightRegisterParity (ag : Agent) (n quad : Nat)
  /-- MXE_INJ_A_STREAM_PARITY (R178). Arms one A-stream parity injection. -/
  | mxeInjAStreamParity (ag : Agent) (n quad : Nat)
  /-- MXE_INJ_TURN_LOADER_PARITY (R178). Arms one turn loader parity injection. -/
  | mxeInjTurnLoaderParity (ag : Agent) (n quad : Nat)
  /-- INJECTION_EXPIRY (R178). An armed injection that has not been used within 65,536 beats expires unrecorded. -/
  | injectionExpiry
  /-- ACCUMULATOR_ECC (R202). A slot read corrects a single-bit error, and a double-bit error is handled as a pass error. -/
  | accumulatorEcc (mxe quad : Nat) (two : Bool)
  /-- MXE_ACCINJ_ONE_BIT (R203). Arms the inversion of one bit of the next slot read. -/
  | mxeAccinjOneBit (ag : Agent) (n quad : Nat)
  /-- MXE_ACCINJ_TWO_BITS (R203). Arms the inversion of two bits of the next slot read. -/
  | mxeAccinjTwoBits (ag : Agent) (n quad : Nat)
  /-- NODE_TILE_LOST (R197). A node tile with a bad TCRC, or lost with its sending unit, is computed again by a surviving unit. -/
  | nodeTileLost (q s unit : Nat)
  /-- EPILOGUE (R215). At a 32-cycle boundary, the VXE runs the epilogue of a waiting tile queue entry ahead of VECTOR work. -/
  | epilogue (vxe : Nat)
  /-- ELTWISE (R228). Applies an element-wise function to A, B and C. -/
  | eltwise (q s unit first n : Nat)
  /-- ROWREDUCE (R231). Reduces each row of A to one value. -/
  | rowreduce (q s unit first n : Nat)
  /-- ROWNORM (R232). Applies a layer or RMS norm to each row. -/
  | rownorm (q s unit first n : Nat)
  /-- PERMUTE (R233). Gathers each row's elements through an index object. -/
  | permute (q s unit first n : Nat)
  /-- SHUFFLE (R233). Rearranges each row in a fixed pattern. -/
  | shuffle (q s unit first n : Nat)
  /-- PACK (R234). Encodes A into block format with the scales given. -/
  | pack (q s unit first n : Nat)
  /-- UNPACK (R234). Splits block-format A into elements, scales and zero points. -/
  | unpack (q s unit first n : Nat)
  /-- COMPRESS (R235). Packs the masked elements of each row to the front of the row. -/
  | compress (q s unit first n : Nat)
  /-- EXPAND (R235). Places A's elements at the masked positions of each row. -/
  | expand (q s unit first n : Nat)
  /-- PAIR_ERROR (R238). A VXE detection takes both the VXE and its MXE out of service and re-places their work. -/
  | pairError (vxe det : Nat)
  /-- VXE_INJ_TQ_ECC_ONE_BIT (R239). Arms a one-bit tile queue ECC injection. -/
  | vxeInjTqEccOneBit (ag : Agent) (n : Nat)
  /-- VXE_INJ_TQ_ECC_TWO_BITS (R239). Arms a two-bit tile queue ECC injection. -/
  | vxeInjTqEccTwoBits (ag : Agent) (n : Nat)
  /-- VXE_INJ_LANE_PARITY (R239). Arms a lane parity injection. -/
  | vxeInjLaneParity (ag : Agent) (n : Nat)
  /-- VXE_INJ_PERMUTE_PARITY (R239). Arms a permute network parity injection. -/
  | vxeInjPermuteParity (ag : Agent) (n : Nat)
  /-- ATTN_FWD (R265). Computes attention output and row statistics over the admitted tile pairs. -/
  | attnFwd (q s unit quad n : Nat)
  /-- ATTN_BWD (R269). Computes dQ, dK and dV, recomputing scores or reading them from the score store. -/
  | attnBwd (q s unit quad n : Nat)
  /-- SEQSET (R257). Applies records that set or clear sequence page directory entries. -/
  | seqset (q s unit first n : Nat)
  /-- ASQ_DIRCLR (R263). A write with GO set starts clearing every directory entry of a context. -/
  | asqDirclr (ag : Agent) (v : Word)
  /-- ASQ_DIRCLR_DONE (R263). The directory clear ends and BUSY clears. -/
  | asqDirclrDone
  /-- DIRECTORY_ECC (R262). A directory entry read corrects a single-bit error, and an uncorrectable read ends the op DATA_ERR and invalidates the entry. -/
  | directoryEcc (die index : Nat) (two : Bool) (q s : Nat)
  /-- ASQ_ERROR (R275). An ASQ detection takes the ASQ out of service and re-places its pairs. -/
  | asqError (die det : Nat)
  /-- ASQ_INJ_DIR_ECC_ONE_BIT (R276). Arms a one-bit directory ECC injection. -/
  | asqInjDirEccOneBit (ag : Agent) (n : Nat)
  /-- ASQ_INJ_DIR_ECC_TWO_BITS (R276). Arms a two-bit directory ECC injection. -/
  | asqInjDirEccTwoBits (ag : Agent) (n : Nat)
  /-- ASQ_INJ_EXPONENT_PARITY (R276). Arms an exponent unit parity injection. -/
  | asqInjExponentParity (ag : Agent) (n : Nat)
  /-- ASQ_INJ_GATHER_PARITY (R276). Arms a page gather parity injection. -/
  | asqInjGatherParity (ag : Agent) (n : Nat)
  /-- CONV_FWD (R285). Runs a forward convolution on the MXEs. -/
  | convFwd (q s unit vxe quad n : Nat)
  /-- CONV_BWD_DATA (R285). Runs the backward-data convolution on the MXEs. -/
  | convBwdData (q s unit vxe quad n : Nat)
  /-- CONV_BWD_WEIGHT (R287). Runs the backward-weight convolution on the MXEs. -/
  | convBwdWeight (q s unit vxe quad n : Nat)
  /-- STEM_FWD (R293). Runs a forward convolution on the stem engines. -/
  | stemFwd (q s unit vxe n : Nat)
  /-- STEM_BWD_DATA (R293). Runs the backward-data convolution on the stem engines. -/
  | stemBwdData (q s unit vxe n : Nat)
  /-- STEM_BWD_WEIGHT (R293). Runs the backward-weight convolution on the stem engines. -/
  | stemBwdWeight (q s unit vxe n : Nat)
  /-- STEM_ERROR (R298). A stem engine detection stops the engine, discards its piece and re-places its work. -/
  | stemError (die det : Nat)
  /-- STM_INJ_LANE_RESIDUE (R298). Arms a lane residue injection. -/
  | stmInjLaneResidue (ag : Agent) (n : Nat)
  /-- STM_INJ_TERM_PARITY (R298). Arms a term buffer parity injection. -/
  | stmInjTermParity (ag : Agent) (n : Nat)
  /-- STM_INJ_GATHER_PARITY (R298). Arms a window gather parity injection. -/
  | stmInjGatherParity (ag : Agent) (n : Nat)
  /-- APPLY (R309). Applies the update recurrence to the parameter blocks of a range. -/
  | apply (q s unit first n : Nat)
  /-- GRAM (R324). Folds the Gram product of each block group into its statistic plane. -/
  | gram (q s unit vxe quad n : Nat)
  /-- ROOT (R325). Forms the inverse roots of statistic planes by iteration. -/
  | root (q s unit first n : Nat)
  /-- UU_ERROR (R330). A UU detection takes the UU out of service and migrates its unapplied blocks. -/
  | uuError (n det : Nat)
  /-- UU_INJ_DATAPATH_RESIDUE (R331). Arms a datapath residue injection. -/
  | uuInjDatapathResidue (ag : Agent) (n : Nat)
  /-- UU_INJ_RECORD_PARITY (R331). Arms a record parity injection. -/
  | uuInjRecordParity (ag : Agent) (n : Nat)
  /-- UU_INJ_ENCODER_PARITY (R331). Arms an encoder parity injection. -/
  | uuInjEncoderParity (ag : Agent) (n : Nat)
  /-- SYNC (R342). Acts as a barrier over a group of modules. -/
  | sync (q s : Nat) (data : List Block)
  /-- XALLGATHER (R347). Copies each member's owned shards to every member. -/
  | xallgather (q s bucket : Nat) (data : List Block)
  /-- XSEND (R352). Sends A to a peer rank once the peer is ready. -/
  | xsend (q s : Nat)
  /-- XRECV (R353). Receives tiles from a peer rank into D. -/
  | xrecv (q s : Nat)
  /-- XALLREDUCE (R346). Writes the rank-ordered sum of the members' A to every member's D. -/
  | xallreduce (q s bucket : Nat) (data : List Block)
  /-- XREDUCESCATTER (R347). Writes each member's owned shard sums to its D. -/
  | xreducescatter (q s bucket : Nat) (data : List Block)
  /-- COLLECTIVE_ADMIT (R341). A collective waiting on the 16-in-flight limit starts when another collective of its group ends. -/
  | collectiveAdmit (q s : Nat)
  /-- LIMIT (R355). A cascade op whose LIMIT expires before its partners announce themselves ends LINK_LOST. -/
  | limit (q s rank : Nat)
  /-- DATA (R532). A DATA block of a tile message is received, written, or forwarded as a relay. -/
  | data (port : Nat) (b : Block)
  /-- NODE (R196). A NODE block carrying a node tile is received by the accumulator store that the plan names. -/
  | node (port : Nat) (b : Block)
  /-- E2EACK (R534). The end-to-end acknowledgement of a message makes the sender's write visible. -/
  | e2eack (port : Nat) (b : Block)
  /-- READY (R352). The ready notice of an XRECV lets the matching XSEND move data. -/
  | ready (port : Nat) (b : Block)
  /-- ABANDON (R355). An abandonment notice ends the matching cascade op LINK_LOST and is forwarded along the ring. -/
  | abandon (port : Nat) (b : Block)
  /-- ALIGN (R358): a block at a port: a neighbour's request with its send time `t1`, or, where `answer`, the answer with all four timestamps in 1/16 ns and
  whether the upstream is ALIGNED. -/
  | align (port : Nat) (answer : Bool) (t1 t2 t3 t4 : Int) (upAligned : Bool)
  /-- ALIGN_EXCHANGE (R358). Every 1,000 beats, or every 1 ms before the first offset, a module sends ALIGN to its upstream. -/
  | alignExchange
  /-- RETRY (R533). A trailer with RETRY set makes the sender resend every block after ACK. -/
  | retry (port ack : Nat)
  /-- IDENT (R536). With FEC lock, an IDENT exchange brings the port UP, or marks it FAILED on a loop. -/
  | ident (port : Nat) (farSerial : Word) (farPort : Nat)
  /-- ADVERT (R539). A candidate's advertisement is kept if best, sets the upstream, and is forwarded with one more hop. -/
  | advert (port : Nat) (serial : Word) (hops : Nat) (closed : Bool)
  /-- JOIN (R539). A JOIN toward the best candidate is forwarded, or recorded at the candidate. -/
  | join (port : Nat) (serial : Word)
  /-- ELECTION_CLOSE (R539). 40 ms after the last JOIN, the lowest candidate closes the election, becomes zenith and assigns addresses. -/
  | electionClose
  /-- ADDR (R539). An ADDR block gives a module its cascade address and is passed down the tree. -/
  | addr (port : Nat) (serial : Word) (addr : Nat)
  /-- ROUTE (R539). A ROUTE block updates each module's ports of fewest hops toward an address. -/
  | route (port addr hops : Nat)
  /-- NOZENITH (R540). A module that has heard no ADVERT 100 ms after its first port came UP shows NOZENITH. -/
  | nozenith
  /-- ZENITH_LOST (R542). When the zenith or every route to it is lost, affected modules enter HOLDOVER and discovery runs again. -/
  | zenithLost (elected : Bool)
  /-- REDUCE_ACC (R383). Adds a contribution into D in the fixed order of the sequence. -/
  | reduceAcc (q s unit first n : Nat)
  /-- CONTRIBUTION_RELEASE (R383). A contribution held at the slice is added once its predecessors have been added or have ended. -/
  | contributionRelease (q s tile : Nat)
  /-- CLASS_A_DETECTION (R394). A failed class A tile read re-commits the producer's pieces, or ends the op DATA_ERR beyond the replay limit. -/
  | classADetection (q s idx role tile : Nat)
  /-- MSC_WRITE (R374). A write accepted by an MSC slice becomes visible to every later read through it. -/
  | mscWrite (cls : Nat) (addr : Nat) (data : List Byte) (errs : List (Nat × Nat))
  /-- MSC_ECC (R376). An MSC line read corrects a single-bit error and handles a double-bit error by class and state. -/
  | mscEcc (slice set way addr : Nat) (two dirty : Bool)
  /-- ADD (R377). The atomic adds the operand, modulo 2^width. -/
  | add (addr width : Nat) (v : Word)
  /-- AND (R377). The atomic takes the bitwise AND. -/
  | and (addr width : Nat) (v : Word)
  /-- OR (R377). The atomic takes the bitwise OR. -/
  | or (addr width : Nat) (v : Word)
  /-- XOR (R377). The atomic takes the bitwise XOR. -/
  | xor (addr width : Nat) (v : Word)
  /-- SWAP (R377). The atomic writes the operand. -/
  | swap (addr width : Nat) (v : Word)
  /-- CAS (R377). The atomic writes the operand if the old value equals the compare value. -/
  | cas (addr width : Nat) (cmp v : Word)
  /-- SMIN (R377). The atomic writes the signed minimum. -/
  | smin (addr width : Nat) (v : Word)
  /-- SMAX (R377). The atomic writes the signed maximum. -/
  | smax (addr width : Nat) (v : Word)
  /-- UMIN (R377). The atomic writes the unsigned minimum. -/
  | umin (addr width : Nat) (v : Word)
  /-- UMAX (R377). The atomic writes the unsigned maximum. -/
  | umax (addr width : Nat) (v : Word)
  /-- FADD32 (R377). The atomic adds an FP32 operand under RNE. -/
  | fadd32 (addr : Nat) (v : Word)
  /-- FADD64 (R377). The atomic adds an FP64 operand under RNE. -/
  | fadd64 (addr : Nat) (v : Word)
  /-- TEMPERATURE_READOUT (R397). Every millisecond the HBC reads the stack temperature and sets the refresh rate. -/
  | temperatureReadout (stack : Nat) (temp : Option Int)
  /-- PATROL_SCRUB (R398). Each PERIOD, every class W unit is read, corrected units are rewritten and uncorrectable ones poisoned. -/
  | patrolScrub (stack : Nat) (errs : List (Nat × Nat))
  /-- CHANNEL_DRAINED (R400). Once the top slots are migrated and the rest re-striped, the channel is MAPPED_OUT and HBC_CAP falls. -/
  | channelDrained (stack chan : Nat)
  /-- HBC_INJ_W_ONE_SYMBOL (R404). Arms a one-symbol class W injection. -/
  | hbcInjWOneSymbol (ag : Agent) (n pc : Nat)
  /-- HBC_INJ_W_FOUR_SYMBOLS (R404). Arms a four-symbol class W injection. -/
  | hbcInjWFourSymbols (ag : Agent) (n pc : Nat)
  /-- HBC_INJ_A_CRC (R404). Arms a class A CRC injection. -/
  | hbcInjACrc (ag : Agent) (n pc : Nat)
  /-- HBC_INJ_READOUT_FAILURE (R404). Arms a temperature readout failure. -/
  | hbcInjReadoutFailure (ag : Agent) (n : Nat)
  /-- MSC_INJ_ONE_BIT (R404). Arms a one-bit MSC error. -/
  | mscInjOneBit (ag : Agent) (n : Nat)
  /-- MSC_INJ_TWO_BITS (R404). Arms a two-bit MSC error. -/
  | mscInjTwoBits (ag : Agent) (n : Nat)
  /-- CORE_READ (R410). A core read reaches the directory and is granted E or S. -/
  | coreRead (core addr width : Nat)
  /-- CORE_WRITE (R410). A core write or LR reaches the directory, invalidates other copies and is granted M or E. -/
  | coreWrite (core addr width : Nat) (v : Word) (kind : StoreKind)
  /-- ENGINE_READ (R414). An engine read to a HELD group consults the directory and makes the holder write back. -/
  | engineRead (addr : Nat)
  /-- ENGINE_WRITE (R415). An engine write to a HELD group invalidates every core copy before it becomes visible. -/
  | engineWrite (ctx addr : Nat) (data : List Byte)
  /-- FAR_ATOMIC (R423). A core atomic recalls every copy of its line and is performed at the MSC slice. -/
  | farAtomic (core op addr width : Nat) (cmp v : Word)
  /-- FAMOADD_W (R422). The custom instruction performs FADD32 at the MSC. -/
  | famoaddW (core addr : Nat) (v : Word)
  /-- FAMOADD_D (R422). The custom instruction performs FADD64 at the MSC. -/
  | famoaddD (core addr : Nat) (v : Word)
  /-- EVICTION (R410). Eviction of the last copy of a line writes back dirty data and leaves the line UNCACHED. -/
  | eviction (core addr : Nat) (toL3 : Bool)
  /-- PROBE (R412). A directory probe reaches a core and waits while the line is in its hold. -/
  | probe (core addr : Nat)
  /-- HOLD_END (R412). The hold on a won line ends, and a waiting probe is answered. -/
  | holdEnd (core addr : Nat)
  /-- DEAD_AGENT (R413). A core that has not answered a probe within 100 µs causes a coherent-domain failure. -/
  | deadAgent (core : Nat)
  /-- UNCORRECTABLE_COHERENCE_ERROR (R413). An uncorrectable directory read causes a coherent-domain failure. -/
  | uncorrectableCoherenceError (core : Nat)
  /-- ENGINES_PARKED (R429). Once every engine has parked, the domain enters RECOVERING and lost lines are poisoned and pages reverted. -/
  | enginesParked (unreadable : Bool)
  /-- RECOVERY_COMPLETE (R431). Recovery ends: affected ops end DOMAIN_DOWN, engines resume and the domain is HELD. -/
  | recoveryComplete
  /-- RELEASE (R428). RIG_CDCTL.RELEASE in HELD clears the L3 and directory and releases the cores. -/
  | release (ag : Agent)
  /-- CORE_ECC (R425). A core cache ECC error is corrected, refetched, or marks the line poisoned. -/
  | coreEcc (core addr : Nat) (two : Bool)
  /-- POISONED_LINE_ACCESS (R426). A load, fetch, AMO or LR of a poisoned line takes a precise access fault. -/
  | poisonedLineAccess (core addr : Nat)
  /-- RIG_CDINJ_L2_ONE_BIT (R434). Arms a one-bit L2 injection. -/
  | rigCdinjL2OneBit (ag : Agent) (group : Nat)
  /-- RIG_CDINJ_L2_TWO_BITS (R434). Arms a two-bit injection in a dirty L2 line. -/
  | rigCdinjL2TwoBits (ag : Agent) (group : Nat)
  /-- RIG_CDINJ_L3_TWO_BITS (R434). Arms a two-bit injection in a dirty L3 line. -/
  | rigCdinjL3TwoBits (ag : Agent) (group : Nat)
  /-- RIG_CDINJ_DIRECTORY (R434). Arms an uncorrectable directory injection. -/
  | rigCdinjDirectory (ag : Agent) (group : Nat)
  /-- RIG_CDINJ_DEAD_AGENT (R434). Arms a dead-agent injection. -/
  | rigCdinjDeadAgent (ag : Agent) (group : Nat)
  /-- FIRST_WRITE (R448). The first accepted write to an unassigned group places it in a tier and stack, or is refused for lack of room. -/
  | firstWrite (q s role group : Nat)
  /-- MIGRATION_START (R450). The Rigger begins copying a group to another place. -/
  | migrationStart (group tier stack : Nat)
  /-- MIGRATION_SWITCH (R451). When every chunk is copied and none is marked, dirty lines are written back and the entry flips. -/
  | migrationSwitch (group : Nat)
  /-- MIGRATION_ABANDON (R450). A migration whose destination fails or runs out of room is abandoned. -/
  | migrationAbandon (group : Nat)
  /-- TIR_RELEASE (R453). A write returns a run of groups to UNASSIGNED. -/
  | tirRelease (ag : Agent) (v : Word)
  /-- TRN_INV (R463). A write with GO set starts the invalidation of a context's segment range. -/
  | trnInv (ag : Agent) (v : Word)
  /-- RANGE_ACK (R462). A unit acknowledges the range once its transfers under the old translation have finished. -/
  | rangeAck (unit : Nat)
  /-- TRN_INV_DONE (R463). The invalidation completes, BUSY clears and INVCNT increments. -/
  | trnInvDone
  /-- COPY (R459). Copies A into D, converting when the formats differ. -/
  | copy (q s unit first n : Nat)
  /-- FILL (R459). Fills D with a converted immediate. -/
  | fill (q s unit first n : Nat)
  /-- PLACE (R461). Moves the groups of an extent to a tier and pins them there. -/
  | place (q s unit first n : Nat)
  /-- SECTOR_REBUILD (R457). Failed deep-tier sectors are rebuilt, found uncorrectable, or treated as a class A detection. -/
  | sectorRebuild (group chunk failed : Nat)
  /-- DEEP_TIER_SCRUB (R457). Every 24 hours the controllers scrub every class W chunk. -/
  | deepTierScrub (errs : List (Nat × Nat × Nat))
  /-- DTC_INJ_ONE_SECTOR (R457). Arms the failure of one sector. -/
  | dtcInjOneSector (ag : Agent) (n : Nat)
  /-- DTC_INJ_THREE_SECTORS (R457). Arms the failure of three sectors. -/
  | dtcInjThreeSectors (ag : Agent) (n : Nat)
  /-- DTC_INJ_CLASS_A_SECTOR (R457). Arms the failure of a class A sector. -/
  | dtcInjClassASector (ag : Agent) (n : Nat)
  /-- BATCH (R471). Decodes sample-list rows into batch positions and writes the manifest. -/
  | batch (q s : Nat)
  /-- ITEM (R480). The engine starts an item, checks its age and claim, and decodes or rejects it. -/
  | item (q s : Nat)
  /-- INTAKE_ERROR (R489). An intake detection stops the sample, restores the cursor and takes the engine out of service. -/
  | intakeError (det : Nat)
  /-- ITK_INJ_HUFFMAN_PARITY (R489). Arms a Huffman table parity injection. -/
  | itkInjHuffmanParity (ag : Agent)
  /-- ITK_INJ_TRANSFORM_RESIDUE (R489). Arms a transform residue injection. -/
  | itkInjTransformResidue (ag : Agent)
  /-- ITK_INJ_ECC_ONE_BIT (R489). Arms a one-bit line buffer ECC injection. -/
  | itkInjEccOneBit (ag : Agent)
  /-- ITK_INJ_ECC_TWO_BITS (R489). Arms a two-bit line buffer ECC injection. -/
  | itkInjEccTwoBits (ag : Agent)
  /-- BAR0_ACCESS_REFUSED (R494). A BAR0 access of bad size, alignment or offset is not performed and is counted. -/
  | bar0AccessRefused (link offset size : Nat) (write : Bool)
  /-- MAP (R500). The bias command maps a window page to host memory. -/
  | map (ag : Agent) (entry : Nat)
  /-- TODEVICE (R500). The bias command turns a SHARED page into a DEVICE page. -/
  | todevice (ag : Agent) (entry : Nat)
  /-- TOSHARED (R500). The bias command writes back the page's lines and makes it SHARED. -/
  | toshared (ag : Agent) (entry : Nat)
  /-- UNMAP (R500). The bias command writes back the page's lines and unmaps the page. -/
  | unmap (ag : Agent) (entry : Nat)
  /-- BIA_CMD_COMPLETE (R501). A bias command completes, RESULT is written and BUSY and PENDING clear. -/
  | biaCmdComplete
  /-- HOST_SNOOP (R503). A host snoop is answered from the coherent domain's copies. -/
  | hostSnoop (link addr kind : Nat)
  /-- FLUSHING_READ (R505). The completion of a flushing read ends a fence's wait for DEVICE writes. -/
  | flushingRead (link : Nat)
  /-- COMPLETION_TIMEOUT (R508). A host read without a completion within CTO ends its op HOST_LOST. -/
  | completionTimeout (link q s slot : Nat)
  /-- UNSUPPORTED_REQUEST (R508). A host read completing with UR or CA ends its op ADDR_FAULT. -/
  | unsupportedRequest (link q s slot : Nat)
  /-- PERST_HIGH (R510). HLn_PERST_N high with receivers detected starts link training. -/
  | perstHigh (link : Nat)
  /-- DL_ACTIVE (R510). Training reaches DL_Active and the link is UP. -/
  | dlActive (link width speed : Nat) (cxl : Bool)
  /-- RECOVERY_ENTERED (R510). The link enters RECOVERY and holds its requests. -/
  | recoveryEntered (link : Nat)
  /-- L0_REGAINED (R510). The link regains L0 and replays. -/
  | l0Regained (link : Nat)
  /-- HOST_RESET (R512). A host reset drops the link's requests, reverts every bias entry and disables host-bound queues. -/
  | hostReset (link : Nat) (perst : Bool)
  /-- TMB_NOW (R517). A read of TMB_NOW latches the fraction for the reading path. -/
  | tmbNow (path : Nat)
  /-- PTM_DIALOG (R518). Every PERIOD a PTM dialog runs and, if it succeeds, writes a correlation record. -/
  | ptmDialog (link : Nat) (host t1 t4 turn : Nat) (frac : BitVec 16) (ok : Bool)
  /-- PPS_OUT (R520). At each second of module time PPS_OUT rises. -/
  | ppsOut
  /-- TOD_TX (R520). 10 ms after a PPS edge a time code frame is sent. -/
  | todTx
  /-- TMB_OUTCTL (R521). Enabling a time output starts it at the next boundary. -/
  | tmbOutctl (ag : Agent) (v : Word)
  /-- HLK_INJ_FLIT_CRC (R522). Arms a host flit CRC injection. -/
  | hlkInjFlitCrc (ag : Agent) (n : Nat)
  /-- HLK_INJ_COMPLETION_TIMEOUT (R522). Arms a completion timeout on the next read. -/
  | hlkInjCompletionTimeout (ag : Agent) (n : Nat)
  /-- HLK_INJ_FORCED_RECOVERY (R522). Arms a forced link recovery. -/
  | hlkInjForcedRecovery (ag : Agent) (n : Nat)
  /-- STRAND_FLIT_CRC (R525). A strand flit that fails its CRC is replayed go-back-N. -/
  | strandFlitCrc (bundle dir lane : Nat)
  /-- LANE_PARITY_ALARM (R529). A lane with 8 parity errors in 1 ms or loss of lock is tested, swapped or degraded. -/
  | laneParityAlarm (bundle dir lane : Nat) (out : SelfTest)
  /-- STL_INJ_LANE_PARITY (R546). Arms a strand lane parity injection. -/
  | stlInjLaneParity (ag : Agent) (bundle dir lane : Nat)
  /-- STL_INJ_FLIT_CRC (R546). Arms a strand flit CRC injection. -/
  | stlInjFlitCrc (ag : Agent) (bundle dir lane : Nat)
  /-- PORT_TRAINING (R536). At self-ready or 100 ms after a failed training a port trains. -/
  | portTraining (port : Nat)
  /-- NO_LOCK (R536). A port without lock 60 ms after self-ready returns to DOWN. -/
  | noLock (port : Nat)
  /-- UNCORRECTABLE_CODEWORDS (R536). 16 uncorrectable codewords in 1 ms, or loss of lock, send an UP port to RETRAIN. -/
  | uncorrectableCodewords (port : Nat)
  /-- LOCK_REGAINED (R536). A retraining port regains lock within 10 ms and resends its buffer. -/
  | lockRegained (port : Nat)
  /-- RETRAIN_FAIL (R536). A third failed retrain within 1 s, or no lock in 10 ms, sends the port to DOWN. -/
  | retrainFail (port : Nat)
  /-- HWP_PINJ_UNCORRECTABLE_CODEWORD (R546). Arms an uncorrectable codeword. -/
  | hwpPinjUncorrectableCodeword (ag : Agent) (n : Nat)
  /-- HWP_PINJ_CRC_ERROR (R546). Arms a block CRC error. -/
  | hwpPinjCrcError (ag : Agent) (n : Nat)
  /-- HWP_PINJ_FORCED_RETRAIN (R546). Arms a forced retrain. -/
  | hwpPinjForcedRetrain (ag : Agent) (n : Nat)
  /-- POR (R547). POWER_GOOD rising causes a module reset. -/
  | por
  /-- PIN (R548). MOD_RESET_N held low for 1 µs causes a module reset. -/
  | pin (low : Bool)
  /-- RSC_RST (R547). A write with the right KEY and GO causes a module reset. -/
  | rscRst (ag : Agent) (v : Word)
  /-- WDOG (R593). Expiry of RSC_WDOG starts a module reset. -/
  | wdog
  /-- ESCAL (R585). A step to RESET starts a module reset. -/
  | escal
  /-- THERM (R606). A thermal trip enters and holds a reset. -/
  | therm (clear : Bool)
  /-- SUPPLY (R547). An input or rail fault holds a reset. -/
  | supply (clear : Bool)
  /-- DEBUG (R547). An authenticated debug session requests a reset. -/
  | debug
  /-- RESET_RELEASE (R551). When held conditions clear, the domains are released in counted order. -/
  | resetRelease (b : Bringup)
  /-- OPTLOAD (R553). OPTSEL is read twice and the option code is taken or the attempt restarted. -/
  | optload (c1 c2 : Nat)
  /-- BOOT_WINDOW_WRITE (R558). A host write to the boot window is accepted in BOOTWAIT or dropped. -/
  | bootWindowWrite (link offset : Nat) (data : List Byte)
  /-- GO (R560). SEC_BOOTCMD.GO in BOOTWAIT starts image verification. -/
  | go (ag : Agent)
  /-- ABORT (R562). SEC_BOOTCMD.ABORT abandons verification and reopens the window. -/
  | abort (ag : Agent)
  /-- VERIFY_RESULT (R560). Verification ends with a RESULT; OK loads the image. -/
  | verifyResult
  /-- SELF_READY (R552). Once the image is loaded, the wipe has ended and discovery is complete, the module writes staged fuses and declares self-ready. -/
  | selfReady
  /-- SEC_ATTCMD (R568). GO in READY forms and signs an attestation quote. -/
  | secAttcmd (ag : Agent)
  /-- SEC_REVOKE (R566). A write stages key slots for revocation at the next start. -/
  | secRevoke (ag : Agent) (v : Word)
  /-- KICK (R569). A write of KICK restarts the RSC_WDOG period. -/
  | kick (ag : Agent) (v : Word)
  /-- FLT_QHEAD (R575). A write consumes records, or is ignored with HEADERR set. -/
  | fltQhead (ag : Agent) (h : BitVec 32)
  /-- OVF_CLEAR (R576). A W1C write of OVF clears OVF, FIRSTLOST and FIRSTSEQ. -/
  | ovfClear (ag : Agent)
  /-- WINDOW_CLOSE (R580). An instance's recovery window closes after its hold. -/
  | windowClose (dom inst : Nat)
  /-- DIE_RECOVERY (R583). At the next boundary a die's engines leave service, are tested and are returned. -/
  | dieRecovery (die : Nat) (failed : List Nat) (isolated : Bool)
  /-- MODULE_RECOVERY (R584). Engines park, elements are tested, plans are rebuilt and engines resume. -/
  | moduleRecovery (beats : Nat) (failed : List Nat) (isolated : Bool)
  /-- PARTNER_LOST (R586). A partner unreachable for 200 ms, or without E2EACK for 100 ms, is declared lost. -/
  | partnerLost (addr port : Nat)
  /-- UNIT_WATCHDOG (R591). A piece without progress for 1,000 µs fires its unit's watchdog. -/
  | unitWatchdog (unit : Nat)
  /-- CORE_WATCHDOG (R592). An unkicked rigging core is held in reset and a module recovery begins. -/
  | coreWatchdog (core : Nat)
  /-- TILE_STORE_ECC (R590). A tile-store single-bit error is corrected, and a double-bit error is handled by case. -/
  | tileStoreEcc (addr : Nat) (two : Bool) (case q s slot : Nat)
  /-- FLT_INJ_UNIT_WATCHDOG (R595). Arms a stall that fires the unit watchdog. -/
  | fltInjUnitWatchdog (ag : Agent) (target : Nat)
  /-- FLT_INJ_TILE_STORE_ONE_BIT (R595). Arms a one-bit tile-store error. -/
  | fltInjTileStoreOneBit (ag : Agent) (target : Nat)
  /-- FLT_INJ_TILE_STORE_TWO_BITS (R595). Arms a two-bit tile-store error. -/
  | fltInjTileStoreTwoBits (ag : Agent) (target : Nat)
  /-- FLT_INJ_TCRC (R595). Arms an inverted TCRC on the next tile. -/
  | fltInjTcrc (ag : Agent) (target : Nat)
  /-- FLT_INJ_RFM_ALARM (R595). Arms a refresh-management alarm. -/
  | fltInjRfmAlarm (ag : Agent) (target : Nat)
  /-- FLT_INJ_LANE_LOCK_LOSS (R595). Arms a loss of lock on a strand lane. -/
  | fltInjLaneLockLoss (ag : Agent) (target : Nat)
  /-- FLT_INJ_HOST_UR (R595). Arms a UR completion on the next host read. -/
  | fltInjHostUr (ag : Agent) (target : Nat)
  /-- FLT_INJ_OFFSET (R595). Arms a 40 ns error on the next offset. -/
  | fltInjOffset (ag : Agent) (target : Nat)
  /-- FLT_INJ_CORE_WATCHDOG (R595). Arms the expiry of a rigging core watchdog. -/
  | fltInjCoreWatchdog (ag : Agent) (target : Nat)
  /-- FLT_INJ_QUEUE_TWO_BITS (R595). Arms a two-bit error in the next fault-queue slot. -/
  | fltInjQueueTwoBits (ag : Agent) (target : Nat)
  /-- FLT_INJ_FUSE (R595). Arms an inverted fuse read at the next fuse sense. -/
  | fltInjFuse (ag : Agent) (target : Nat)
  /-- WAKE (R598). In OFF, input in range with PWR_EN or PERST high starts conversion. -/
  | wake (input : Nat) (pwrEn perst0 perst1 : Bool)
  /-- RAILS_IN_REGULATION (R598). When every rail is in regulation, the module is ON and POWER_GOOD rises. -/
  | railsInRegulation
  /-- RAMP_TIMEOUT (R598). Rails not in regulation within 50 ms send the module to LATCHOFF. -/
  | rampTimeout
  /-- RAIL_FAULT (R598). A rail or input fault drops POWER_GOOD and holds SUPPLY. -/
  | railFault (rail : Nat)
  /-- PWR_EN_FALL (R598). PWR_EN falling powers the module OFF. -/
  | pwrEnFall
  /-- PWR_OFF (R598). A write with the right KEY and GO powers the module OFF. -/
  | pwrOff (ag : Agent) (v : Word)
  /-- INPUT_BELOW_40V (R598). An input below 40 V turns conversion off. -/
  | inputBelow40v
  /-- CONVERSION_OFF (R598). A sensor at 125 °C or above sends the module to LATCHOFF. -/
  | conversionOff
  /-- LATCHOFF_EXIT (R598). Input below 5 V, or PWR_EN cycled, leaves LATCHOFF. -/
  | latchoffExit (input : Nat) (cycled : Bool)
  /-- PWR_CAPHOST (R600). A write sets the host cap, effective at the next boundary. -/
  | pwrCaphost (ag : Agent) (v : Word)
  /-- PWR_CAPBMC (R600). A write sets the BMC cap, effective at the next boundary. -/
  | pwrCapbmc (ag : Agent) (v : Word)
  /-- CAPFAIL (R603). 10 ms at 1.5 GHz above the cap sets CAPFAIL. -/
  | capfail (p10 : Nat)
  /-- MZLOSS (R604). Loss of one mezzanine's 50 V drops the clock and halves engine capacity. -/
  | mzloss (n : Nat)
  /-- SENSOR_READING (R605). Every 1 ms the temperatures are read, holds set or ended and alerts raised. -/
  | sensorReading (t : Temps)
  /-- THERMAL_TRIP (R606). A part at its trip threshold drives THERM_TRIP_N and enters THERM. -/
  | thermalTrip (part : Nat) (temp : Int)
  /-- TRIP_CLEAR (R606). After every part has stood 15 °C below its trip threshold for 1 s, THERM releases. -/
  | tripClear
  /-- CAGE_PRESENCE (R609). A presence pin change switches the cage supply. -/
  | cagePresence (cage pos : Nat) (low : Bool)
  /-- CAGE_OVERCURRENT (R609). Overcurrent shuts a cage supply off. -/
  | cageOvercurrent (cage : Nat)
  /-- SETDASA (R612). The I3C CCC assigns a dynamic address from the static address. -/
  | setdasa (addr : Nat)
  /-- ENTDAA (R612). The I3C CCC runs dynamic address assignment. -/
  | entdaa (addr : Nat)
  /-- EXTEST (R614). The JTAG instruction drives boundary pins while reset is held. -/
  | extest
  /-- IDCODE (R614). The JTAG instruction returns 0x0161_6E4B. -/
  | idcode
  /-- SAMPLE_PRELOAD (R614). The JTAG instruction samples pins while reset is held. -/
  | samplePreload
  /-- DBGAUTH (R615). The JTAG instruction issues a challenge and opens a debug session on a valid signature. -/
  | dbgauth (random : BitVec 256) (req : Word) (key sig : List Byte)
  /-- DBGACC (R615). The JTAG instruction gives an open session access. -/
  | dbgacc (code arg : Nat) (v : Word)
  /-- BYPASS (R614). The JTAG instruction selects the bypass register. -/
  | bypass
  /-- PWR_INJ_INPUT_ALERT (R618). Arms an input alert reading. -/
  | pwrInjInputAlert (ag : Agent) (target : Nat)
  /-- PWR_INJ_INPUT_FAULT (R618). Arms an input fault. -/
  | pwrInjInputFault (ag : Agent) (target : Nat)
  /-- PWR_INJ_RAIL_FAULT (R618). Arms a rail fault. -/
  | pwrInjRailFault (ag : Agent) (target : Nat)
  /-- PWR_INJ_CAPFAIL (R618). Arms a cap failure. -/
  | pwrInjCapfail (ag : Agent) (target : Nat)
  /-- PWR_INJ_HOT (R618). Arms a part at its alert threshold. -/
  | pwrInjHot (ag : Agent) (target : Nat)
  /-- PWR_INJ_TRIP (R618). Arms a thermal trip. -/
  | pwrInjTrip (ag : Agent) (target : Nat)
  /-- PWR_INJ_HBM_HOT (R618). Arms an HBM stack at 105 °C. -/
  | pwrInjHbmHot (ag : Agent) (target : Nat)
  /-- PWR_INJ_COOLANT (R618). Arms a coolant alert. -/
  | pwrInjCoolant (ag : Agent) (target : Nat)
  /-- PWR_INJ_SENSOR (R618). Arms a sensor readout failure. -/
  | pwrInjSensor (ag : Agent) (target : Nat)
  /-- PWR_INJ_MEZZANINE (R618). Arms a mezzanine supply loss. -/
  | pwrInjMezzanine (ag : Agent) (target : Nat)
  /-- MAILBOX_RESPONSE (R107). The Rigger ends a mailbox command: it writes RIG_MBXRSP completely, clears BUSY and, with IRQEN set, signals the interrupt. -/
  | mailboxResponse (m : Nat)
  /-- TIR_RELEASE_DONE (R453). The group release started by TIR_RELEASE completes and TIR_STAT.BUSY clears. -/
  | tirReleaseDone
  /-- ATTESTATION_QUOTE (R568). The security block finishes forming and signing the quote, writes SEC_OUT and sets SEC_ATTSTAT.RESULT, clearing BUSY. -/
  | attestationQuote
  /-- MEZZANINE_SUPPLY_RETURN (R604). The lost 50 V of a mezzanine returns: PWR_STAT.MZnP is set, a DET 0x89 record is formed, PWR_CAPEFF rises at the next boundary and capacity is restored step by step. -/
  | mezzanineSupplyReturn (n : Nat)
  /-- GLOBAL_OBSERVATION (R505). The host returns global observation for a CXL.cache write to a SHARED page, which makes the write visible and can end a fence's wait. -/
  | globalObservation (link q s : Nat)
  deriving DecidableEq, Repr

end Sys2Proof
end

