-- ==== Sys2Proof/WellFormed.lean ====
section
/-! DEFINITION. Well-formed commands: every operand that names a unit, queue, port, link or address lies in the range that the spec gives it. -/

namespace Sys2Proof

/-- An agent that exists: a link is 0 or 1. -/
def agentOk (a : Agent) : Bool :=
  match a with
  | .hl n => decide (n < 2)
  | _ => true

/-- Does a part name a kind of Table 3.2 by its first index, a direction, and quads? -/
def partOk (x : Part) : Bool :=
  [0, 16, 32, 36, 40, 56, 152, 184, 255].contains x.kind && decide (x.dir < 2) && x.runs.all (fun r => decide (r.quad < 4))

/-- Do the operands of a command lie in their ranges? -/
def wellFormed (i : Instr) : Bool :=
  match i with
  | .registerWrite ag addr width _ => agentOk ag && decide (addr < 2 ^ 64) && decide (width = 4 ∨ width = 8)
  | .doorbell q _ => decide (q < 1024)
  | .enSet q => decide (q < 1024)
  | .enClear q => decide (q < 1024)
  | .flush q => decide (q < 1024)
  | .flushEnd q => decide (q < 1024)
  | .resume q => decide (q < 1024)
  | .takeIn q _ => decide (q < 1024)
  | .producerTakenIn q => decide (q < 1024)
  | .opStart q s => decide (q < 1024) && decide (s < 2 ^ 32)
  | .nop q s => decide (q < 1024) && decide (s < 2 ^ 32)
  | .wait q s => decide (q < 1024) && decide (s < 2 ^ 32)
  | .waitRead q s _ => decide (q < 1024) && decide (s < 2 ^ 32)
  | .completionRecord q s => decide (q < 1024) && decide (s < 2 ^ 32)
  | .beatBoundary _ _ _ _ => true
  | .piecePlan q s split _ unit => decide (q < 1024) && decide (s < 2 ^ 32) && split.all partOk && decide (unit < 256)
  | .pieceCommit q s _ => decide (q < 1024) && decide (s < 2 ^ 32)
  | .staging q s _ _ _ => decide (q < 1024) && decide (s < 2 ^ 32)
  | .pieceStart q s _ _ vxe => decide (q < 1024) && decide (s < 2 ^ 32) && decide (vxe < 16)
  | .pieceEnd q s _ _ _ _ => decide (q < 1024) && decide (s < 2 ^ 32)
  | .reBase => true
  | .getInfo ag m _ => agentOk ag && decide (m < 2)
  | .setPipeline ag m _ => agentOk ag && decide (m < 2)
  | .getPipeline ag m _ => agentOk ag && decide (m < 2)
  | .setSliplim ag m _ => agentOk ag && decide (m < 2)
  | .setMargin ag m _ => agentOk ag && decide (m < 2)
  | .readPlan ag m _ => agentOk ag && decide (m < 2)
  | .clearCounters ag m _ => agentOk ag && decide (m < 2)
  | .rebase ag m _ => agentOk ag && decide (m < 2)
  | .rigWctl ag slot _ => agentOk ag && decide (slot < 8)
  | .trippedClear ag slot => agentOk ag && decide (slot < 8)
  | .matmul q s unit vxe quad _ => decide (q < 1024) && decide (s < 2 ^ 32) && decide (unit < 256) && decide (vxe < 16) && decide (quad < 4)
  | .matmulRows q s unit vxe quad _ => decide (q < 1024) && decide (s < 2 ^ 32) && decide (unit < 256) && decide (vxe < 16) && decide (quad < 4)
  | .matmulBlockdiag q s unit vxe quad _ => decide (q < 1024) && decide (s < 2 ^ 32) && decide (unit < 256) && decide (vxe < 16) && decide (quad < 4)
  | .tileQueueRoom unit => decide (unit < 256)
  | .columnError mxe quad _ => decide (mxe < 16) && decide (quad < 4)
  | .passError mxe quad _ => decide (mxe < 16) && decide (quad < 4)
  | .targetedSelfTest _ _ _ => true
  | .mxeColmap ag n _ => agentOk ag && decide (n < 16)
  | .mxeInjColumnResidue ag n quad _ => agentOk ag && decide (n < 16) && decide (quad < 4)
  | .mxeInjWeightRegisterParity ag n quad => agentOk ag && decide (n < 16) && decide (quad < 4)
  | .mxeInjAStreamParity ag n quad => agentOk ag && decide (n < 16) && decide (quad < 4)
  | .mxeInjTurnLoaderParity ag n quad => agentOk ag && decide (n < 16) && decide (quad < 4)
  | .injectionExpiry => true
  | .accumulatorEcc mxe quad _ => decide (mxe < 16) && decide (quad < 4)
  | .mxeAccinjOneBit ag n quad => agentOk ag && decide (n < 16) && decide (quad < 4)
  | .mxeAccinjTwoBits ag n quad => agentOk ag && decide (n < 16) && decide (quad < 4)
  | .nodeTileLost q s unit => decide (q < 1024) && decide (s < 2 ^ 32) && decide (unit < 256)
  | .epilogue vxe => decide (vxe < 16)
  | .eltwise q s unit _ _ => decide (q < 1024) && decide (s < 2 ^ 32) && decide (unit < 256)
  | .rowreduce q s unit _ _ => decide (q < 1024) && decide (s < 2 ^ 32) && decide (unit < 256)
  | .rownorm q s unit _ _ => decide (q < 1024) && decide (s < 2 ^ 32) && decide (unit < 256)
  | .permute q s unit _ _ => decide (q < 1024) && decide (s < 2 ^ 32) && decide (unit < 256)
  | .shuffle q s unit _ _ => decide (q < 1024) && decide (s < 2 ^ 32) && decide (unit < 256)
  | .pack q s unit _ _ => decide (q < 1024) && decide (s < 2 ^ 32) && decide (unit < 256)
  | .unpack q s unit _ _ => decide (q < 1024) && decide (s < 2 ^ 32) && decide (unit < 256)
  | .compress q s unit _ _ => decide (q < 1024) && decide (s < 2 ^ 32) && decide (unit < 256)
  | .expand q s unit _ _ => decide (q < 1024) && decide (s < 2 ^ 32) && decide (unit < 256)
  | .pairError vxe _ => decide (vxe < 16)
  | .vxeInjTqEccOneBit ag n => agentOk ag && decide (n < 16)
  | .vxeInjTqEccTwoBits ag n => agentOk ag && decide (n < 16)
  | .vxeInjLaneParity ag n => agentOk ag && decide (n < 16)
  | .vxeInjPermuteParity ag n => agentOk ag && decide (n < 16)
  | .attnFwd q s unit quad _ => decide (q < 1024) && decide (s < 2 ^ 32) && decide (unit < 256) && decide (quad < 4)
  | .attnBwd q s unit quad _ => decide (q < 1024) && decide (s < 2 ^ 32) && decide (unit < 256) && decide (quad < 4)
  | .seqset q s unit _ _ => decide (q < 1024) && decide (s < 2 ^ 32) && decide (unit < 256)
  | .asqDirclr ag _ => agentOk ag
  | .asqDirclrDone => true
  | .directoryEcc die _ _ q s => decide (die < 4) && decide (q < 1024) && decide (s < 2 ^ 32)
  | .asqError die _ => decide (die < 4)
  | .asqInjDirEccOneBit ag n => agentOk ag && decide (n < 4)
  | .asqInjDirEccTwoBits ag n => agentOk ag && decide (n < 4)
  | .asqInjExponentParity ag n => agentOk ag && decide (n < 4)
  | .asqInjGatherParity ag n => agentOk ag && decide (n < 4)
  | .convFwd q s unit vxe quad _ => decide (q < 1024) && decide (s < 2 ^ 32) && decide (unit < 256) && decide (vxe < 16) && decide (quad < 4)
  | .convBwdData q s unit vxe quad _ => decide (q < 1024) && decide (s < 2 ^ 32) && decide (unit < 256) && decide (vxe < 16) && decide (quad < 4)
  | .convBwdWeight q s unit vxe quad _ => decide (q < 1024) && decide (s < 2 ^ 32) && decide (unit < 256) && decide (vxe < 16) && decide (quad < 4)
  | .stemFwd q s unit vxe _ => decide (q < 1024) && decide (s < 2 ^ 32) && decide (unit < 256) && decide (vxe < 16)
  | .stemBwdData q s unit vxe _ => decide (q < 1024) && decide (s < 2 ^ 32) && decide (unit < 256) && decide (vxe < 16)
  | .stemBwdWeight q s unit vxe _ => decide (q < 1024) && decide (s < 2 ^ 32) && decide (unit < 256) && decide (vxe < 16)
  | .stemError die _ => decide (die < 4)
  | .stmInjLaneResidue ag n => agentOk ag && decide (n < 4)
  | .stmInjTermParity ag n => agentOk ag && decide (n < 4)
  | .stmInjGatherParity ag n => agentOk ag && decide (n < 4)
  | .apply q s unit _ _ => decide (q < 1024) && decide (s < 2 ^ 32) && decide (unit < 256)
  | .gram q s unit vxe quad _ => decide (q < 1024) && decide (s < 2 ^ 32) && decide (unit < 256) && decide (vxe < 16) && decide (quad < 4)
  | .root q s unit _ _ => decide (q < 1024) && decide (s < 2 ^ 32) && decide (unit < 256)
  | .uuError n _ => decide (n < 16)
  | .uuInjDatapathResidue ag n => agentOk ag && decide (n < 16)
  | .uuInjRecordParity ag n => agentOk ag && decide (n < 16)
  | .uuInjEncoderParity ag n => agentOk ag && decide (n < 16)
  | .sync q s _ => decide (q < 1024) && decide (s < 2 ^ 32)
  | .xallgather q s _ _ => decide (q < 1024) && decide (s < 2 ^ 32)
  | .xsend q s => decide (q < 1024) && decide (s < 2 ^ 32)
  | .xrecv q s => decide (q < 1024) && decide (s < 2 ^ 32)
  | .xallreduce q s _ _ => decide (q < 1024) && decide (s < 2 ^ 32)
  | .xreducescatter q s _ _ => decide (q < 1024) && decide (s < 2 ^ 32)
  | .collectiveAdmit q s => decide (q < 1024) && decide (s < 2 ^ 32)
  | .limit q s _ => decide (q < 1024) && decide (s < 2 ^ 32)
  | .data port _ => decide (port < 96)
  | .node port _ => decide (port < 96)
  | .e2eack port _ => decide (port < 96)
  | .ready port _ => decide (port < 96)
  | .abandon port _ => decide (port < 96)
  | .align port _ _ _ _ _ _ => decide (port < 96)
  | .alignExchange => true
  | .retry port _ => decide (port < 96)
  | .ident port _ _ => decide (port < 96)
  | .advert port _ _ _ => decide (port < 96)
  | .join port _ => decide (port < 96)
  | .electionClose => true
  | .addr port _ addr => decide (port < 96) && decide (addr < 4096)
  | .route port addr _ => decide (port < 96) && decide (addr < 4096)
  | .nozenith => true
  | .zenithLost _ => true
  | .reduceAcc q s unit _ _ => decide (q < 1024) && decide (s < 2 ^ 32) && decide (unit < 256)
  | .contributionRelease q s _ => decide (q < 1024) && decide (s < 2 ^ 32)
  | .classADetection q s _ _ _ => decide (q < 1024) && decide (s < 2 ^ 32)
  | .mscWrite _ addr _ _ => decide (addr < 2 ^ 64)
  | .mscEcc slice _ _ addr _ _ => decide (slice < 17) && decide (addr < 2 ^ 64)
  | .add addr width _ => decide (addr < 2 ^ 64) && decide (width = 4 ∨ width = 8)
  | .and addr width _ => decide (addr < 2 ^ 64) && decide (width = 4 ∨ width = 8)
  | .or addr width _ => decide (addr < 2 ^ 64) && decide (width = 4 ∨ width = 8)
  | .xor addr width _ => decide (addr < 2 ^ 64) && decide (width = 4 ∨ width = 8)
  | .swap addr width _ => decide (addr < 2 ^ 64) && decide (width = 4 ∨ width = 8)
  | .cas addr width _ _ => decide (addr < 2 ^ 64) && decide (width = 4 ∨ width = 8)
  | .smin addr width _ => decide (addr < 2 ^ 64) && decide (width = 4 ∨ width = 8)
  | .smax addr width _ => decide (addr < 2 ^ 64) && decide (width = 4 ∨ width = 8)
  | .umin addr width _ => decide (addr < 2 ^ 64) && decide (width = 4 ∨ width = 8)
  | .umax addr width _ => decide (addr < 2 ^ 64) && decide (width = 4 ∨ width = 8)
  | .fadd32 addr _ => decide (addr < 2 ^ 64)
  | .fadd64 addr _ => decide (addr < 2 ^ 64)
  | .temperatureReadout stack _ => decide (stack < 32)
  | .patrolScrub stack _ => decide (stack < 16)
  | .channelDrained stack chan => decide (stack < 16) && decide (chan < 16)
  | .hbcInjWOneSymbol ag n _ => agentOk ag && decide (n < 16)
  | .hbcInjWFourSymbols ag n _ => agentOk ag && decide (n < 16)
  | .hbcInjACrc ag n _ => agentOk ag && decide (n < 16)
  | .hbcInjReadoutFailure ag n => agentOk ag && decide (n < 16)
  | .mscInjOneBit ag n => agentOk ag && decide (n < 17)
  | .mscInjTwoBits ag n => agentOk ag && decide (n < 17)
  | .coreRead core addr width => decide (core < 64) && decide (addr < 2 ^ 64) && decide (0 < width ∧ width ≤ 8)
  | .coreWrite core addr width _ _ => decide (core < 64) && decide (addr < 2 ^ 64) && decide (0 < width ∧ width ≤ 8)
  | .engineRead addr => decide (addr < 2 ^ 64)
  | .engineWrite _ addr _ => decide (addr < 2 ^ 64)
  | .farAtomic core _ addr width _ _ => decide (core < 64) && decide (addr < 2 ^ 64) && decide (width = 4 ∨ width = 8)
  | .famoaddW core addr _ => decide (core < 64) && decide (addr < 2 ^ 64)
  | .famoaddD core addr _ => decide (core < 64) && decide (addr < 2 ^ 64)
  | .eviction core addr _ => decide (core < 65) && decide (addr < 2 ^ 64)
  | .probe core addr => decide (core < 65) && decide (addr < 2 ^ 64)
  | .holdEnd core addr => decide (core < 65) && decide (addr < 2 ^ 64)
  | .deadAgent core => decide (core < 64)
  | .uncorrectableCoherenceError core => decide (core < 64)
  | .enginesParked _ => true
  | .recoveryComplete => true
  | .release ag => agentOk ag
  | .coreEcc core addr _ => decide (core < 65) && decide (addr < 2 ^ 64)
  | .poisonedLineAccess core addr => decide (core < 64) && decide (addr < 2 ^ 64)
  | .rigCdinjL2OneBit ag group => agentOk ag && decide (group < 8)
  | .rigCdinjL2TwoBits ag group => agentOk ag && decide (group < 8)
  | .rigCdinjL3TwoBits ag group => agentOk ag && decide (group < 8)
  | .rigCdinjDirectory ag group => agentOk ag && decide (group < 8)
  | .rigCdinjDeadAgent ag group => agentOk ag && decide (group < 8)
  | .firstWrite q s _ group => decide (q < 1024) && decide (s < 2 ^ 32) && decide (group < 2 ^ 20)
  | .migrationStart group _ stack => decide (group < 2 ^ 20) && decide (stack < 16)
  | .migrationSwitch group => decide (group < 2 ^ 20)
  | .migrationAbandon group => decide (group < 2 ^ 20)
  | .tirRelease ag _ => agentOk ag
  | .trnInv ag _ => agentOk ag
  | .rangeAck unit => decide (unit < 256)
  | .trnInvDone => true
  | .copy q s unit _ _ => decide (q < 1024) && decide (s < 2 ^ 32) && decide (unit < 256)
  | .fill q s unit _ _ => decide (q < 1024) && decide (s < 2 ^ 32) && decide (unit < 256)
  | .place q s unit _ _ => decide (q < 1024) && decide (s < 2 ^ 32) && decide (unit < 256)
  | .sectorRebuild group _ _ => decide (group < 2 ^ 20)
  | .deepTierScrub _ => true
  | .dtcInjOneSector ag n => agentOk ag && decide (n < 16)
  | .dtcInjThreeSectors ag n => agentOk ag && decide (n < 16)
  | .dtcInjClassASector ag n => agentOk ag && decide (n < 16)
  | .batch q s => decide (q < 1024) && decide (s < 2 ^ 32)
  | .item q s => decide (q < 1024) && decide (s < 2 ^ 32)
  | .intakeError _ => true
  | .itkInjHuffmanParity ag => agentOk ag
  | .itkInjTransformResidue ag => agentOk ag
  | .itkInjEccOneBit ag => agentOk ag
  | .itkInjEccTwoBits ag => agentOk ag
  | .bar0AccessRefused link _ _ _ => decide (link < 2)
  | .map ag entry => agentOk ag && decide (entry < 65536)
  | .todevice ag entry => agentOk ag && decide (entry < 65536)
  | .toshared ag entry => agentOk ag && decide (entry < 65536)
  | .unmap ag entry => agentOk ag && decide (entry < 65536)
  | .biaCmdComplete => true
  | .hostSnoop link addr _ => decide (link < 2) && decide (addr < 2 ^ 64)
  | .flushingRead link => decide (link < 2)
  | .completionTimeout link q s slot => decide (link < 2) && decide (q < 1024) && decide (s < 2 ^ 32) && decide (slot < 4)
  | .unsupportedRequest link q s slot => decide (link < 2) && decide (q < 1024) && decide (s < 2 ^ 32) && decide (slot < 4)
  | .perstHigh link => decide (link < 2)
  | .dlActive link _ _ _ => decide (link < 2)
  | .recoveryEntered link => decide (link < 2)
  | .l0Regained link => decide (link < 2)
  | .hostReset link _ => decide (link < 2)
  | .tmbNow _ => true
  | .ptmDialog link _ _ _ _ _ _ => decide (link < 2)
  | .ppsOut => true
  | .todTx => true
  | .tmbOutctl ag _ => agentOk ag
  | .hlkInjFlitCrc ag n => agentOk ag && decide (n < 2)
  | .hlkInjCompletionTimeout ag n => agentOk ag && decide (n < 2)
  | .hlkInjForcedRecovery ag n => agentOk ag && decide (n < 2)
  | .strandFlitCrc bundle dir lane => decide (bundle < 32) && decide (dir < 2) && decide (lane < 36)
  | .laneParityAlarm bundle dir lane _ => decide (bundle < 32) && decide (dir < 2) && decide (lane < 36)
  | .stlInjLaneParity ag bundle dir lane => agentOk ag && decide (bundle < 32) && decide (dir < 2) && decide (lane < 36)
  | .stlInjFlitCrc ag bundle dir lane => agentOk ag && decide (bundle < 32) && decide (dir < 2) && decide (lane < 36)
  | .portTraining port => decide (port < 96)
  | .noLock port => decide (port < 96)
  | .uncorrectableCodewords port => decide (port < 96)
  | .lockRegained port => decide (port < 96)
  | .retrainFail port => decide (port < 96)
  | .hwpPinjUncorrectableCodeword ag n => agentOk ag && decide (n < 96)
  | .hwpPinjCrcError ag n => agentOk ag && decide (n < 96)
  | .hwpPinjForcedRetrain ag n => agentOk ag && decide (n < 96)
  | .por => true
  | .pin _ => true
  | .rscRst ag _ => agentOk ag
  | .wdog => true
  | .escal => true
  | .therm _ => true
  | .supply _ => true
  | .debug => true
  | .resetRelease _ => true
  | .optload _ _ => true
  | .bootWindowWrite link _ _ => decide (link < 2)
  | .go ag => agentOk ag
  | .abort ag => agentOk ag
  | .verifyResult => true
  | .selfReady => true
  | .secAttcmd ag => agentOk ag
  | .secRevoke ag _ => agentOk ag
  | .kick ag _ => agentOk ag
  | .fltQhead ag _ => agentOk ag
  | .ovfClear ag => agentOk ag
  | .windowClose _ _ => true
  | .dieRecovery die _ _ => decide (die < 4)
  | .moduleRecovery _ _ _ => true
  | .partnerLost addr port => decide (addr < 4096) && decide (port < 96)
  | .unitWatchdog unit => decide (unit < 256)
  | .coreWatchdog core => decide (core < 8)
  | .tileStoreEcc addr _ _ q s slot => decide (addr < 2 ^ 64) && decide (q < 1024) && decide (s < 2 ^ 32) && decide (slot < 4)
  | .fltInjUnitWatchdog ag _ => agentOk ag
  | .fltInjTileStoreOneBit ag _ => agentOk ag
  | .fltInjTileStoreTwoBits ag _ => agentOk ag
  | .fltInjTcrc ag _ => agentOk ag
  | .fltInjRfmAlarm ag _ => agentOk ag
  | .fltInjLaneLockLoss ag _ => agentOk ag
  | .fltInjHostUr ag _ => agentOk ag
  | .fltInjOffset ag _ => agentOk ag
  | .fltInjCoreWatchdog ag _ => agentOk ag
  | .fltInjQueueTwoBits ag _ => agentOk ag
  | .fltInjFuse ag _ => agentOk ag
  | .wake _ _ _ _ => true
  | .railsInRegulation => true
  | .rampTimeout => true
  | .railFault _ => true
  | .pwrEnFall => true
  | .pwrOff ag _ => agentOk ag
  | .inputBelow40v => true
  | .conversionOff => true
  | .latchoffExit _ _ => true
  | .pwrCaphost ag _ => agentOk ag
  | .pwrCapbmc ag _ => agentOk ag
  | .capfail _ => true
  | .mzloss n => decide (n < 2)
  | .sensorReading _ => true
  | .thermalTrip _ _ => true
  | .tripClear => true
  | .cagePresence cage pos _ => decide (cage < 8) && decide (pos < 3)
  | .cageOvercurrent cage => decide (cage < 8)
  | .setdasa addr => decide (addr < 128)
  | .entdaa addr => decide (addr < 128)
  | .extest => true
  | .idcode => true
  | .samplePreload => true
  | .dbgauth _ _ _ _ => true
  | .dbgacc _ _ _ => true
  | .bypass => true
  | .pwrInjInputAlert ag _ => agentOk ag
  | .pwrInjInputFault ag _ => agentOk ag
  | .pwrInjRailFault ag _ => agentOk ag
  | .pwrInjCapfail ag _ => agentOk ag
  | .pwrInjHot ag _ => agentOk ag
  | .pwrInjTrip ag _ => agentOk ag
  | .pwrInjHbmHot ag _ => agentOk ag
  | .pwrInjCoolant ag _ => agentOk ag
  | .pwrInjSensor ag _ => agentOk ag
  | .pwrInjMezzanine ag _ => agentOk ag
  | .mailboxResponse m => decide (m < 2)
  | .tirReleaseDone => true
  | .attestationQuote => true
  | .mezzanineSupplyReturn n => decide (n < 2)
  | .globalObservation link q s => decide (link < 2) && decide (q < 1024) && decide (s < 2 ^ 32)

end Sys2Proof
end

