-- ==== Sys2Proof/Config.lean ====
section
/-! DEFINITION. The values that the spec leaves open: constants without a body, so that nothing can be proved of them
but what holds whatever they are. Each is named in the assumption log. -/

namespace Sys2Proof.Config

/-- A byte of a result object whose content the spec leaves unspecified (R62, R131, R356): `k` is a count of such events, `a` the
address of the byte. -/
opaque freeByte (k a : Nat) : Byte

/-- A byte of host memory that no command has written: link, bus address. The module does not own it. -/
opaque hostByte (link a : Nat) : Byte

/-- The firmware version that GET_INFO returns (R108). -/
opaque firmwareVersion : BitVec 32

/-- The element codes of a block NaN in formats 0x18 to 0x1B (R121 fixes the scale alone): format, element index. -/
opaque nanElement (fmt n : Nat) : Nat

/-- Exponent-plane bytes of a chunk in codec mode PLANE (R455 and R456 fix no coding): bytes the mode takes, from the chunk's
bytes. -/
opaque planeBytes (fmt : Nat) (chunk : List Byte) : Nat

/-- Free deep-tier sectors at self-ready (Table 14.11), from the number of channels mapped out. -/
opaque deepSectors (mappedOut : Nat) : Nat

/-- Of `n` lines that a request touches in an MSC slice, how many hit: the hints of engine requests are the Rigger's (R375), so the
spec does not fix it. `k` is a count of such events. -/
opaque mscHits (k n : Nat) : Nat

/-- Where an MSC slice holds the line of an address (way · 4,096 + set), and whether it is dirty: the spec gives no choice of way, and an injected error of
a line (R404) names one. `k` counts such events. -/
opaque mscLine (k a : Nat) : Nat
opaque mscDirty (k a : Nat) : Bool

/-- Cycles that an MXE waited for room in a tile queue (R216): timing inside a beat. `k` counts such events. -/
opaque stallCycles (k : Nat) : Nat

/-- Is an error of 6 or more symbols detected (R390)? Otherwise it is miscorrected. -/
opaque detects (k a : Nat) : Bool

/-- SHA3-512 of a byte string (R559, R568). -/
opaque sha3 (m : List Byte) : List Byte

/-- ML-DSA-87 verification: public key, message, signature (R559, R615). -/
opaque mldsaVerify (key msg sig : List Byte) : Bool

/-- ML-DSA-87 key derivation and signing in the security block (R567, R568). -/
opaque mldsaPublic (seed : List Byte) : List Byte
opaque mldsaSign (seed msg : List Byte) : List Byte

/-- The row of a pseudo-channel that holds an HBM address: rows are chosen by the HBC and not visible outside it (R369), but records name them. -/
opaque hbmRow (a : Nat) : BitVec 24

/-- The end number of a strand bundle on its die (side 0: ENDA, 1: ENDB): the carrier's wiring, which die discovery reports (R523). -/
opaque bundleEnd (b side : Nat) : Nat

/-- µs from POWER_GOOD at which a step of the start ended (Table 17.7 gives bounds): `k` counts such events. -/
opaque startTime (k : Nat) : Nat

end Sys2Proof.Config
end

