-- ==== Sys2Proof/Machine/Bits.lean ====
section
/-! DEFINITION. Bit fields, saturating counts, byte order (R6: little-endian) and the two checksums the spec names. -/

namespace Sys2Proof.Machine

/-- Bits hi:lo of a 64-bit word, as a number. -/
def bits (w : Word) (hi lo : Nat) : Nat := w.toNat / 2 ^ lo % 2 ^ (hi + 1 - lo)

/-- Bit `i` of a 64-bit word. -/
def bit (w : Word) (i : Nat) : Bool := bits w i i == 1

/-- The word `w` with bits hi:lo replaced by the low bits of `v`. -/
def putBits (w : Word) (hi lo v : Nat) : Word :=
  let n := 2 ^ (hi + 1 - lo)
  BitVec.ofNat 64 (w.toNat - bits w hi lo * 2 ^ lo + v % n * 2 ^ lo)

/-- A word built from its fields, each (lsb, value); the fields are disjoint. -/
def word (fs : List (Nat × Nat)) : Word :=
  BitVec.ofNat 64 (fs.foldl (fun a f => a + f.2 * 2 ^ f.1) 0)

/-- 1 for true, 0 for false. -/
def b2n (b : Bool) : Nat := if b then 1 else 0

/-- The largest value of a counter of `n` bits, where a saturating counter stops. -/
def satMax (n : Nat) : Nat := 2 ^ n - 1

/-- `a + b`, saturating at `n` bits. -/
def satAdd (n a b : Nat) : Nat := min (a + b) (satMax n)

/-- `a ÷ b` rounded up (0 when `b` is 0). -/
def ceilDiv (a b : Nat) : Nat := (a + b - 1) / b

/-- The `n` bytes of a number, lowest first (R6). -/
def bytesOf : Nat → Nat → List Byte
  | 0, _ => []
  | n + 1, v => BitVec.ofNat 8 v :: bytesOf n (v / 256)

/-- The number whose bytes, lowest first, are given (R6). -/
def ofBytes : List Byte → Nat
  | [] => 0
  | b :: bs => b.toNat + 256 * ofBytes bs

/-- A number read as two's complement in `n` bits. -/
def sext (n v : Nat) : Int := if v % 2 ^ n < 2 ^ (n - 1) then (v % 2 ^ n : Int) else (v % 2 ^ n : Int) - 2 ^ n

/-- The low `n` bits of an integer. -/
def trunc (n : Nat) (i : Int) : Nat := (i % (2 ^ n : Int)).toNat

/-- Exclusive or of all bits: 1 when the number of ones is odd. -/
def parity : Nat → Nat → Nat
  | 0, _ => 0
  | n + 1, v => (v % 2 + parity n (v / 2)) % 2

/-- One bit-serial step, `k` times, of a CRC that shifts towards the high end. -/
def crcShift (width poly : Nat) : Nat → Nat → Nat
  | 0, c => c
  | k + 1, c =>
    let c2 := c * 2 % 2 ^ width
    crcShift width poly k (if c / 2 ^ (width - 1) % 2 = 1 then c2.xor poly else c2)

/-- CRC-16 with polynomial 0x1021 and initial value 0xFFFF, high bit first (Table 2.11, TCRC). -/
def crc16 (bs : List Byte) : Nat :=
  bs.foldl (fun c b => crcShift 16 0x1021 8 (c.xor (b.toNat * 256))) 0xFFFF

/-- One bit-serial step, `k` times, of a CRC that shifts towards the low end. -/
def crcShiftLow (poly : Nat) : Nat → Nat → Nat
  | 0, c => c
  | k + 1, c => crcShiftLow poly k (if c % 2 = 1 then (c / 2).xor poly else c / 2)

/-- CRC-32C: reflected polynomial 0x82F6_3B78, initial value and final exclusive or all ones. -/
def crc32c (bs : List Byte) : Nat :=
  (bs.foldl (fun c b => crcShiftLow 0x82F63B78 8 (c.xor b.toNat)) 0xFFFFFFFF).xor 0xFFFFFFFF

end Sys2Proof.Machine
end

