-- ==== Sys2Proof/Machine/Float.lean ====
section
/-! DEFINITION. Exact numbers, the roundings of Table 4.3 and the primitives of R213.

A number is kept exactly, as ± m · 2^e, so that a sum or product is formed without loss and rounded where the spec rounds
it. Rounding is one function, `roundMag`; everything else is integer arithmetic. -/

namespace Sys2Proof.Machine

/-- A value as the arithmetic sees it: NaN (payloads are not carried, R115), an infinity, or ± m · 2^e. -/
inductive Num where
  | nan
  | inf (neg : Bool)
  | fin (neg : Bool) (m : Nat) (e : Int)
  deriving DecidableEq, Repr

/-- Rounding modes (Table 4.3); `srd u` carries the 16 random bits of R124 for the element. -/
inductive Rnd where
  | rne
  | rtz
  | rdn
  | rup
  | srd (u : Nat)
  deriving DecidableEq, Repr

namespace Num

/-- +0. -/
def zero : Num := .fin false 0 0

/-- 1. -/
def one : Num := .fin false 1 0

/-- An integer. -/
def ofInt (i : Int) : Num := .fin (decide (i < 0)) i.natAbs 0

/-- Is the value NaN? -/
def isNan : Num → Bool
  | .nan => true
  | _ => false

/-- Is the value infinite? -/
def isInf : Num → Bool
  | .inf _ => true
  | _ => false

/-- Is the value finite? -/
def isFin : Num → Bool
  | .fin _ _ _ => true
  | _ => false

/-- Is the value ±0? -/
def isZero : Num → Bool
  | .fin _ m _ => m == 0
  | _ => false

/-- The sign bit; a NaN has none. -/
def isNeg : Num → Bool
  | .nan => false
  | .inf n => n
  | .fin n _ _ => n

/-- Negation; NaN stays NaN. -/
def neg : Num → Num
  | .nan => .nan
  | .inf n => .inf (!n)
  | .fin n m e => .fin (!n) m e

/-- The magnitude. -/
def abs : Num → Num
  | .nan => .nan
  | .inf _ => .inf false
  | .fin _ m e => .fin false m e

/-- The exact product (R142); 0 × ∞ is NaN. -/
def mul : Num → Num → Num
  | .nan, _ => .nan
  | _, .nan => .nan
  | .inf a, .inf b => .inf (a != b)
  | .inf a, .fin b m _ => if m = 0 then .nan else .inf (a != b)
  | .fin a m _, .inf b => if m = 0 then .nan else .inf (a != b)
  | .fin a m e, .fin b n f => .fin (a != b) (m * n) (e + f)

/-- The value of a finite number as an integer multiple of 2^q, for q at or below its exponent. -/
def scaled (q : Int) : Num → Int
  | .fin n m e => (if n then -1 else 1) * (m * 2 ^ (e - q).toNat : Nat)
  | _ => 0

/-- The least exponent among finite terms. -/
def minExp : List Num → Int → Int
  | [], q => q
  | .fin _ _ e :: xs, q => minExp xs (min e q)
  | _ :: xs, q => minExp xs q

/-- The exact sum of the terms: NaN and infinities by R190, a zero sum by R189. -/
def sum (xs : List Num) : Num :=
  if xs.any isNan then .nan
  else
    let p := xs.any (fun x => x.isInf && !x.isNeg)
    let n := xs.any (fun x => x.isInf && x.isNeg)
    if p && n then .nan
    else if p then .inf false
    else if n then .inf true
    else
      let q := minExp xs 0
      let t : Int := xs.foldl (fun a x => a + x.scaled q) 0
      if t = 0 then .fin (!xs.isEmpty && xs.all isNeg) 0 0
      else .fin (decide (t < 0)) t.natAbs q

/-- The exact sum of two values. -/
def add (x y : Num) : Num := sum [x, y]

/-- x < y for values neither of which is NaN; ±0 are equal. -/
def lt : Num → Num → Bool
  | .nan, _ => false
  | _, .nan => false
  | .inf a, .inf b => a && !b
  | .inf a, .fin _ _ _ => a
  | .fin _ _ _, .inf b => !b
  | .fin a m e, .fin b n f =>
    let q := min e f
    decide ((Num.fin a m e).scaled q < (Num.fin b n f).scaled q)

/-- The larger (`hi`) or smaller of two values, NaN if either is; max(+0, −0) = +0 and min(+0, −0) = −0 (Table 7.8). -/
def pick (hi : Bool) (x y : Num) : Num :=
  if x.isNan || y.isNan then .nan
  else if x.lt y then (if hi then y else x)
  else if y.lt x then (if hi then x else y)
  else if x.isNeg = hi then y else x

end Num

/-- floor(log₂ m) + e of a non-zero finite value. -/
def expOf (m : Nat) (e : Int) : Int := (Nat.log2 m : Int) + e

/-- Does rounding `rem / 2^d` away from the truncated magnitude `k` take place? `rem < 2^d`. -/
def roundUp (r : Rnd) (neg : Bool) (k rem den : Nat) : Bool :=
  match r with
  | .rne => decide (den < 2 * rem) || (decide (2 * rem = den) && decide (k % 2 = 1))
  | .rtz => false
  | .rdn => neg && decide (rem ≠ 0)
  | .rup => !neg && decide (rem ≠ 0)
  | .srd u => decide (u < rem * 2 ^ 16 / den)

/-- The magnitude m · 2^e rounded to a multiple of 2^q: the multiple. -/
def roundMag (r : Rnd) (neg : Bool) (m : Nat) (e q : Int) : Nat :=
  if q ≤ e then m * 2 ^ (e - q).toNat
  else
    let den := 2 ^ (q - e).toNat
    let k := m / den
    let rem := m % den
    if roundUp r neg k rem den then k + 1 else k

/-- The quotient a/b rounded to an integer magnitude. -/
def roundQuot (r : Rnd) (neg : Bool) (a b : Nat) : Nat :=
  let k := a / b
  if roundUp r neg k (a % b) b then k + 1 else k

/-- The exponent of the unit in the last place of a format with `p` significant bits and least normal exponent `emin`, at
the magnitude m · 2^e (the subnormal spacing below the least normal). -/
def ulpExp (p : Nat) (emin : Int) (m : Nat) (e : Int) : Int := max (expOf m e) emin - (p - 1)

/-- Round a value to `p` significant bits with least normal exponent `emin` and overflow to infinity at 2^(emax+1): the
node roundings of R184 and R191 and every rounding of R213. -/
def Num.round (r : Rnd) (p : Nat) (emin emax : Int) (x : Num) : Num :=
  match x with
  | .fin n m e =>
    if m = 0 then .fin n 0 0
    else
      let q := ulpExp p emin m e
      let k := roundMag r n m e q
      if k = 0 then .fin n 0 0
      else if emax < expOf k q then .inf n else .fin n k q
  | y => y

/-- RNE to FP32. -/
def Num.r32 (x : Num) : Num := x.round .rne 24 (-126) 127

/-- RNE to BF16. -/
def Num.rBf16 (x : Num) : Num := x.round .rne 8 (-126) 127

/-- RNE to FP64. -/
def Num.r64 (x : Num) : Num := x.round .rne 53 (-1022) 1023

/-- The bits of an IEEE-style format with `eb` exponent and `mb` mantissa bits, for a value already in the format. -/
def ieeeBits (eb mb : Nat) (x : Num) : Nat :=
  let bias : Int := 2 ^ (eb - 1) - 1
  let top := 2 ^ eb - 1
  let s := fun (n : Bool) => b2n n * 2 ^ (eb + mb)
  match x with
  | .nan => top * 2 ^ mb + 2 ^ (mb - 1)
  | .inf n => s n + top * 2 ^ mb
  | .fin n m e =>
    if m = 0 then s n
    else
      let ex := expOf m e
      if ex < 1 - bias then s n + m * 2 ^ (e - (1 - bias - mb)).toNat / 2 ^ ((1 - bias - mb) - e).toNat
      else
        let q := ex - mb
        let k := m * 2 ^ (e - q).toNat / 2 ^ (q - e).toNat
        s n + (ex + bias).toNat * 2 ^ mb + (k - 2 ^ mb)

/-- The value of IEEE-style bits. -/
def ieeeNum (eb mb : Nat) (b : Nat) : Num :=
  let bias : Int := 2 ^ (eb - 1) - 1
  let top := 2 ^ eb - 1
  let f := b % 2 ^ mb
  let ex := b / 2 ^ mb % 2 ^ eb
  let n := b / 2 ^ (eb + mb) % 2 == 1
  if ex = top then (if f = 0 then .inf n else .nan)
  else if ex = 0 then .fin n f (1 - bias - mb)
  else .fin n (f + 2 ^ mb) (ex - bias - mb)

/-- FP32 bits of a value, rounded RNE; NaN is canonical (R115). -/
def Num.toF32 (x : Num) : F32 := BitVec.ofNat 32 (ieeeBits 8 23 x.r32)

/-- The value of FP32 bits. -/
def f32 (b : F32) : Num := ieeeNum 8 23 b.toNat

/-- The value of the FP32 bits in the low half of a number. -/
def f32n (b : Nat) : Num := ieeeNum 8 23 (b % 2 ^ 32)

/-! ### The primitives of R213 -/

/-- Sticky quotient: a value within the last place of (a/b) · 2^e that rounds as the exact quotient does. -/
def quot (neg : Bool) (a b : Nat) (e : Int) : Num :=
  let sh := 80 + Nat.log2 b - Nat.log2 a
  let q := a * 2 ^ sh / b
  let sticky := b2n (decide (a * 2 ^ sh % b ≠ 0))
  .fin neg (2 * q + sticky) (e - sh - 1)

/-- x ÷ y, to be rounded; IEEE special values. -/
def Num.div (x y : Num) : Num :=
  match x, y with
  | .nan, _ => .nan
  | _, .nan => .nan
  | .inf _, .inf _ => .nan
  | .inf a, .fin b _ _ => .inf (a != b)
  | .fin a _ _, .inf b => .fin (a != b) 0 0
  | .fin a m e, .fin b n f =>
    if n = 0 then (if m = 0 then .nan else .inf (a != b))
    else if m = 0 then .fin (a != b) 0 0
    else quot (a != b) m n (e - f)

/-- Integer square root, bit by bit from bit `k` down. -/
def isqrtFrom : Nat → Nat → Nat → Nat
  | 0, n, r => if (r + 1) * (r + 1) ≤ n then r + 1 else r
  | k + 1, n, r =>
    let r2 := r + 2 ^ (k + 1)
    isqrtFrom k n (if r2 * r2 ≤ n then r2 else r)

/-- floor(√n). -/
def isqrt (n : Nat) : Nat := isqrtFrom (Nat.log2 n / 2 + 1) n 0

/-- √x, to be rounded. -/
def Num.sqrt : Num → Num
  | .nan => .nan
  | .inf n => if n then .nan else .inf false
  | .fin n m e =>
    if m = 0 then .fin n 0 0
    else if n then .nan
    else
      let e2 := if e % 2 = 0 then e - 160 else e - 161
      let a := m * 2 ^ (e - e2).toNat
      let r := isqrt a
      .fin false (2 * r + b2n (decide (r * r ≠ a))) (e2 / 2 - 1)

/-- 1 ÷ √x, to be rounded. -/
def Num.rsqrt : Num → Num
  | .nan => .nan
  | .inf n => if n then .nan else .fin false 0 0
  | .fin n m e =>
    if m = 0 then .inf n
    else if n then .nan
    else
      let m2 := if e % 2 = 0 then m else 2 * m
      let e2 := if e % 2 = 0 then e else e - 1
      let k := 160 + 2 * Nat.log2 m2
      let r := isqrt (2 ^ k / m2)
      .fin false (2 * r + b2n (decide (r * r * m2 ≠ 2 ^ k))) (-(k / 2 : Nat) - e2 / 2 - 1)

/-- Fractional bits of the fixed-point series below. -/
def fixBits : Nat := 420

/-- One in fixed point. -/
def fixOne : Nat := 2 ^ fixBits

/-- Taylor series of e^y − term by term: `acc` + `term` · y^k/k!, for y ≥ 0 in fixed point. -/
def expTaylor : Nat → Nat → Nat → Nat → Nat → Nat
  | 0, _, _, _, acc => acc
  | f + 1, y, k, term, acc =>
    let t := term * y / fixOne / k
    expTaylor f y (k + 1) t (acc + t)

/-- Square `k` times in fixed point. -/
def fixSquare : Nat → Nat → Nat
  | 0, v => v
  | k + 1, v => fixSquare k (v * v / fixOne)

/-- e^y in fixed point for 0 ≤ y < 256 in fixed point. -/
def fixExp (y : Nat) : Nat := fixSquare 9 (expTaylor 90 (y / 512) 1 fixOne fixOne)

/-- The magnitude of a finite value in fixed point. -/
def toFix (m : Nat) (e : Int) : Nat :=
  m * 2 ^ (e + fixBits).toNat / 2 ^ (-(e + fixBits)).toNat

/-- e^x, to be rounded (overflow beyond 90, below the halfway of the least subnormal beyond −105). -/
def Num.exp : Num → Num
  | .nan => .nan
  | .inf n => if n then .fin false 0 0 else .inf false
  | .fin n m e =>
    if m = 0 then .one
    else if 7 < expOf m e then (if n then .fin false 1 (-300) else .fin false 1 300)
    else
      let v := fixExp (toFix m e)
      if n then quot false fixOne v 0 else .fin false v (-(fixBits : Int))

/-- atanh series: Σ t^(2k+1)/(2k+1), t in fixed point below one half. -/
def atanhSeries : Nat → Nat → Nat → Nat → Nat → Nat
  | 0, _, _, _, acc => acc
  | f + 1, t2, k, p, acc => atanhSeries f t2 (k + 2) (p * t2 / fixOne) (acc + p / k)

/-- ln((1+t)/(1−t)) in fixed point. -/
def fixLogT (t : Nat) : Nat := 2 * atanhSeries 140 (t * t / fixOne) 1 t 0

/-- ln 2 in fixed point. -/
def fixLn2 : Nat := fixLogT (fixOne / 3)

/-- ln x, to be rounded. -/
def Num.log : Num → Num
  | .nan => .nan
  | .inf n => if n then .nan else .inf false
  | .fin n m e =>
    if m = 0 then .inf true
    else if n then .nan
    else
      let ex := expOf m e
      let z := toFix m (e - ex)                 -- 1 ≤ z < 2
      let l := fixLogT ((z - fixOne) * fixOne / (z + fixOne))
      let t : Int := ex * fixLn2 + l
      if t = 0 then .zero else .fin (decide (t < 0)) t.natAbs (-(fixBits : Int))

/-- atan series for π: Σ (−1)^k / ((2k+1) n^(2k+1)). -/
def atanInv : Nat → Nat → Nat → Nat → Bool → Int → Int
  | 0, _, _, _, _, acc => acc
  | f + 1, n2, k, p, s, acc =>
    atanInv f n2 (k + 2) (p / n2) (!s) (if s then acc - (p / k : Nat) else acc + (p / k : Nat))

/-- π in fixed point (Machin). -/
def fixPi : Nat :=
  (16 * atanInv 100 25 1 (fixOne / 5) false 0 - 4 * atanInv 40 57121 1 (fixOne / 239) false 0).toNat

/-- The series of erf without its factor: Σ (−1)^k x^(2k+1) / (k! (2k+1)), p = x^(2k+1)/k!. -/
def erfSeries : Nat → Nat → Nat → Nat → Bool → Int → Int
  | 0, _, _, _, _, acc => acc
  | f + 1, x2, k, p, s, acc =>
    let t : Int := (p / (2 * k + 1) : Nat)
    erfSeries f x2 (k + 1) (p * x2 / fixOne / (k + 1)) (!s) (if s then acc - t else acc + t)

/-- erf x, to be rounded (it rounds to ±1 from 4 on). -/
def Num.erf : Num → Num
  | .nan => .nan
  | .inf n => .fin n 1 0
  | .fin n m e =>
    if m = 0 then .fin n 0 0
    else if 2 ≤ expOf m e then .fin n 1 0
    else
      let x := toFix m e
      let s := (erfSeries 190 (x * x / fixOne) 0 x false 0).toNat
      .fin n (2 * s * fixOne / isqrt (fixPi * fixOne)) (-(fixBits : Int))

/-- tanh x, to be rounded (it rounds to ±1 from 16 on). -/
def Num.tanh : Num → Num
  | .nan => .nan
  | .inf n => .fin n 1 0
  | .fin n m e =>
    if m = 0 then .fin n 0 0
    else if 4 ≤ expOf m e then .fin n 1 0
    else
      let w := fixExp (2 * toFix m e)
      let r := (w - fixOne) * fixOne / (w + fixOne)
      if r = 0 then .fin n m e else .fin n r (-(fixBits : Int))

end Sys2Proof.Machine
end

