-- ==== Sys2Proof/Machine/Formats.lean ====
section
/-! DEFINITION. Number formats (chapter 04): codes, element encodings, block scales, conversions, and the places of
elements and side data within a tile (R440). -/

namespace Sys2Proof.Machine

/-- Element encodings of Table 4.2, and the integers. -/
inductive Elem where
  | ieee (eb mb : Nat)     -- FP32, BF16, FP16, E5M2
  | e4m3
  | small (eb mb : Nat)    -- E3M2, E2M3, E2M1: no infinity, no NaN
  | mxint8
  | int32
  | uint8
  deriving DecidableEq, Repr

/-- What a format code stands for (Table 4.1). -/
inductive Kind where
  | plain (e : Elem)
  | hist
  | mx (e : Elem)                 -- E8M0 scale, blocks of 32
  | intz (width blk : Nat)        -- BF16 scale and INT8 zero point
  | lut4
  deriving DecidableEq, Repr

/-- FP32, BF16 and the others by name. -/
def fFP32 : Nat := 0x01
def fBF16 : Nat := 0x02
def fFP16 : Nat := 0x03
def fINT32 : Nat := 0x07
def fUINT8 : Nat := 0x08
def fHIST : Nat := 0x09
def fLUT4 : Nat := 0x1C

/-- The kind of a code with bit 5 dropped where it is admitted (R110, R111); `none`: undefined. -/
def fmtKind (c : Nat) : Option Kind :=
  let base := if 0x30 ≤ c ∧ c ≤ 0x35 ∨ 0x38 ≤ c ∧ c ≤ 0x3B then c - 0x20 else c
  match base with
  | 0x01 => some (.plain (.ieee 8 23))
  | 0x02 => some (.plain (.ieee 8 7))
  | 0x03 => some (.plain (.ieee 5 10))
  | 0x04 => some (.plain .e4m3)
  | 0x05 => some (.plain (.ieee 5 2))
  | 0x06 => some (.plain (.small 2 1))
  | 0x07 => some (.plain .int32)
  | 0x08 => some (.plain .uint8)
  | 0x09 => some .hist
  | 0x10 => some (.mx .e4m3)
  | 0x11 => some (.mx (.ieee 5 2))
  | 0x12 => some (.mx (.small 3 2))
  | 0x13 => some (.mx (.small 2 3))
  | 0x14 => some (.mx (.small 2 1))
  | 0x15 => some (.mx .mxint8)
  | 0x18 => some (.intz 8 32)
  | 0x19 => some (.intz 8 16)
  | 0x1A => some (.intz 4 32)
  | 0x1B => some (.intz 4 16)
  | 0x1C => some .lut4
  | _ => none

/-- FMT bit 5: blocks run along columns (R111). -/
def colAxis (c : Nat) : Bool := decide (c / 32 % 2 = 1)

/-- Width of an element encoding in bits. -/
def Elem.width : Elem → Nat
  | .ieee eb mb => 1 + eb + mb
  | .e4m3 => 8
  | .small eb mb => 1 + eb + mb
  | .mxint8 => 8
  | .int32 => 32
  | .uint8 => 8

/-- Element width of a format in bits (0 for HIST and undefined codes). -/
def fmtWidth (c : Nat) : Nat :=
  match fmtKind c with
  | some (.plain e) => e.width
  | some (.mx e) => e.width
  | some (.intz w _) => w
  | some .lut4 => 4
  | _ => 0

/-- Block size of a format, 0 where it has no blocks. -/
def fmtBlk (c : Nat) : Nat :=
  match fmtKind c with
  | some (.mx _) => 32
  | some (.intz _ b) => b
  | _ => 0

/-- Side bytes of one block (LUT4's table is one per tile and is counted in `fmtTile`). -/
def fmtSide (c : Nat) : Nat :=
  match fmtKind c with
  | some (.mx _) => 1
  | some (.intz _ _) => 3
  | _ => 0

/-- Bytes of a full tile (Table 4.1): 128 × 128 elements and the side data. -/
def fmtTile (c : Nat) : Nat :=
  2048 * fmtWidth c + (if fmtBlk c = 0 then 0 else 16384 / fmtBlk c * fmtSide c) +
    (if fmtKind c = some .lut4 then 32 else 0)

/-- The stride between tiles (R439). -/
def fmtStride (c : Nat) : Nat := ceilDiv (fmtTile c) 64 * 64

/-- A floating-point format, plain or block (Table 4.1 without integers, HIST; LUT4 counts, its entries are BF16). The spec does not say whether 0x18 to
0x1B, integer elements under a BF16 scale, are one: here they are, for BIAS too (DESIGN CHOICE, log entry 159). -/
def fmtFloat (c : Nat) : Bool :=
  match fmtKind c with
  | some (.plain (.ieee _ _)) => true
  | some (.plain .e4m3) => true
  | some (.plain (.small _ _)) => true
  | some (.mx _) => true
  | some (.intz _ _) => true
  | some .lut4 => true
  | _ => false

/-- SBSIZE of a tile tag (R112). -/
def fmtSb (c : Nat) : Nat := if fmtBlk c = 32 then 2 else if fmtBlk c = 16 then 1 else 0

/-! ### Elements -/

/-- Decode one element. -/
def Elem.decode (e : Elem) (b : Nat) : Num :=
  match e with
  | .ieee eb mb => ieeeNum eb mb b
  | .e4m3 =>
    if b % 128 = 127 then .nan
    else if b / 8 % 16 = 0 then .fin (b / 128 % 2 == 1) (b % 8) (-9)
    else .fin (b / 128 % 2 == 1) (b % 8 + 8) ((b / 8 % 16 : Nat) - 10)
  | .small eb mb =>
    let bias : Int := 2 ^ (eb - 1) - 1
    let ex := b / 2 ^ mb % 2 ^ eb
    let n := b / 2 ^ (eb + mb) % 2 == 1
    if ex = 0 then .fin n (b % 2 ^ mb) (1 - bias - mb) else .fin n (b % 2 ^ mb + 2 ^ mb) (ex - bias - mb)
  | .mxint8 => let v := sext 8 b; .fin (decide (v < 0)) v.natAbs (-6)
  | .int32 => .ofInt (sext 32 b)
  | .uint8 => .ofInt (b % 256 : Nat)

/-- Significant bits, least normal exponent and max finite magnitude (m, e) of a floating element (Table 4.2). -/
def Elem.range : Elem → Nat × Int × Nat × Int
  | .ieee eb mb =>
    let bias : Int := 2 ^ (eb - 1) - 1
    (mb + 1, 1 - bias, 2 ^ (mb + 1) - 1, bias - mb)
  | .e4m3 => (4, -6, 14, 5)
  | .small eb mb =>
    let bias : Int := 2 ^ (eb - 1) - 1
    (mb + 1, 1 - bias, 2 ^ (mb + 1) - 1, 2 ^ eb - 1 - bias - mb)
  | .mxint8 => (7, 0, 127, -6)
  | _ => (1, 0, 0, 0)

/-- floor(log₂) of the max finite value, R118's emax. -/
def Elem.emax : Elem → Int
  | .ieee _ _ => 15
  | .e4m3 => 8
  | .small 3 _ => 4
  | .small _ _ => 2
  | _ => 0

/-- One converted element: its bits, and whether the conversion took the overflow column (OVR) or rounded a non-zero finite
value to zero (UFZ), for R135. -/
structure Conv where
  code : Nat
  ovr  : Bool
  ufz  : Bool
  deriving DecidableEq, Repr

/-- The bits of a finite value of the element's own grid. -/
def Elem.finBits (e : Elem) (n : Bool) (m : Nat) (x : Int) : Nat :=
  match e with
  | .ieee eb mb => ieeeBits eb mb (.fin n m x)
  | .e4m3 => ieeeBits 4 3 (.fin n m x)
  | .small eb mb => ieeeBits eb mb (.fin n m x)
  | .mxint8 => trunc 8 ((Num.fin n m x).scaled (-6))
  | _ => 0

/-- The largest finite value, with sign. -/
def Elem.maxBits (e : Elem) (n : Bool) : Nat :=
  let (_, _, m, x) := e.range
  e.finBits n m x

/-- Does a directed or nearest rounding carry an overflow of this sign to infinity (Table 4.4, OVF IEEE)? -/
def toInfinity (r : Rnd) (n : Bool) : Bool :=
  match r with
  | .rne => true
  | .rdn => n
  | .rup => !n
  | _ => false

/-- Round a finite magnitude to the element's precision with an unbounded exponent: (multiple, unit exponent, beyond max finite). -/
def Elem.roundFin (e : Elem) (r : Rnd) (n : Bool) (m : Nat) (x : Int) : Nat × Int × Bool :=
  let (p, emin, mm, mx) := e.range
  let q := if e = .mxint8 then -6 else ulpExp p emin m x
  let k := roundMag r n m x q
  (k, q, decide ((Num.fin false mm mx).lt (.fin false k q)))

/-- An integer destination (Table 4.4): rounded, clamped to lo..hi. -/
def convInt (r : Rnd) (lo hi : Int) (bits : Nat) (x : Num) : Conv :=
  match x with
  | .nan => ⟨0, false, false⟩
  | .inf n => ⟨trunc bits (if n then lo else hi), false, false⟩
  | .fin n m e =>
    let k := roundMag r n m e 0
    let v : Int := if n then -(k : Int) else k
    if v < lo then ⟨trunc bits lo, true, false⟩
    else if hi < v then ⟨trunc bits hi, true, false⟩
    else ⟨trunc bits v, false, decide (m ≠ 0) && decide (k = 0)⟩

/-- Convert to an unscaled element (R126, Table 4.4). -/
def Elem.conv (e : Elem) (r : Rnd) (sat : Bool) (x : Num) : Conv :=
  match e with
  | .int32 => convInt r (-2 ^ 31) (2 ^ 31 - 1) 32 x
  | .uint8 => convInt r 0 255 8 x
  | .ieee eb mb =>
    match x with
    | .nan => ⟨ieeeBits eb mb .nan, false, false⟩
    | .inf n => ⟨ieeeBits eb mb (.inf n), false, false⟩
    | .fin n m x =>
      if m = 0 then ⟨ieeeBits eb mb (.fin n 0 0), false, false⟩
      else
        let (k, q, big) := e.roundFin r n m x
        if big then
          (if !sat && toInfinity r n then ⟨ieeeBits eb mb (.inf n), true, false⟩ else ⟨e.maxBits n, true, false⟩)
        else ⟨e.finBits n k q, false, decide (k = 0)⟩
  | .e4m3 =>
    match x with
    | .nan => ⟨0x7F, false, false⟩
    | .inf n => ⟨if sat then e.maxBits n else 0x7F, false, false⟩
    | .fin n m x =>
      if m = 0 then ⟨e.finBits n 0 0, false, false⟩
      else
        let (k, q, big) := e.roundFin r n m x
        if big then ⟨if sat then e.maxBits n else 0x7F, true, false⟩ else ⟨e.finBits n k q, false, decide (k = 0)⟩
  | .small _ _ | .mxint8 =>
    match x with
    | .nan => ⟨0, false, false⟩
    | .inf n => ⟨e.maxBits n, false, false⟩
    | .fin n m x =>
      if m = 0 then ⟨e.finBits n 0 0, false, false⟩
      else
        let (k, q, big) := e.roundFin r n m x
        if big then ⟨e.maxBits n, true, false⟩ else ⟨e.finBits n k q, false, decide (k = 0)⟩

/-! ### Blocks -/

/-- The value of an E8M0 scale byte (R117). -/
def e8m0 (b : Nat) : Num := if b % 256 = 255 then .nan else .fin false 1 ((b % 256 : Nat) - 127)

/-- The value of BF16 bits. -/
def bf16 (b : Nat) : Num := ieeeNum 8 7 b

/-- The value of element code `q` of a block with side data `side` (the number its bytes form, lowest first): R117, R121. -/
def blockValue (k : Kind) (side q : Nat) : Num :=
  match k with
  | .mx e => (e8m0 side).mul (e.decode q)
  | .intz w _ => (Num.ofInt (sext w q - sext 8 (side / 65536))).mul (bf16 (side % 65536))
  | _ => .nan

/-- The largest magnitude among valid values; `none` where one is NaN or infinite. -/
def amaxOf : List (Option Num) → Option (Nat × Int)
  | [] => some (0, 0)
  | none :: vs => amaxOf vs
  | some (.fin _ m e) :: vs =>
    match amaxOf vs with
    | none => none
    | some (m2, e2) => if (Num.fin false m2 e2).lt (.fin false m e) then some (m, e) else some (m2, e2)
  | some _ :: _ => none

/-- An element against scale 2^k, clamped to the max finite value (R118, R119). -/
def mxCode (e : Elem) (r : Rnd) (k : Int) (v : Option Num) : Nat :=
  match v with
  | some (.fin n m x) => (e.conv r true (.fin n m (x - k))).code
  | _ => 0

/-- An element against BF16 scale s = sm · 2^se and zero point z, clamped to lo..hi (R121, R234). -/
def intCode (w : Nat) (r : Rnd) (sm : Nat) (se : Int) (z lo hi : Int) (v : Option Num) : Nat :=
  match v with
  | some (.fin n m x) =>
    let d := x - se
    let k := roundQuot r n (m * 2 ^ d.toNat) (sm * 2 ^ (-d).toNat)
    let q : Int := (if n then -(k : Int) else k) + z
    trunc w (max lo (min hi q))
  | _ => 0

/-- A block encoded: element codes, side data as a number, and whether it is a block NaN (scale 0xFF or NaN). -/
structure Blk where
  codes : List Nat
  side  : Nat
  bad   : Bool
  deriving DecidableEq, Repr

/-- The codes of a block NaN: zero bytes in formats 0x10 to 0x15 (R118), open in 0x18 to 0x1B. -/
def nanBlock (fmt : Nat) (k : Kind) (n : Nat) : Blk :=
  match k with
  | .intz w _ => ⟨(List.range n).map (fun i => Config.nanElement fmt i % 2 ^ w), 0x7FC0, true⟩
  | _ => ⟨List.replicate n 0, 255, true⟩

/-- Encode a block with the scale of R118 or R121. `vs` are the values in block order, `none` where invalid (R120); `rs` the
roundings of its elements. -/
def encodeBlock (fmt : Nat) (rs : List Rnd) (vs : List (Option Num)) : Blk :=
  match fmtKind fmt, amaxOf vs with
  | some (.mx e), some (m, x) =>
    let k := if m = 0 then 0 else max (-127) (min 127 (expOf m x - e.emax))
    ⟨(vs.zip rs).map (fun p => mxCode e p.2 k p.1), (k + 127).toNat, false⟩
  | some (.intz w _), some (m, x) =>
    let qmax := 2 ^ (w - 1) - 1
    let s := if m = 0 then Num.one else (quot false m qmax x).rBf16
    let s := if s.isZero then Num.fin false 1 (-133) else s
    match s with
    | .fin _ sm se =>
      ⟨(vs.zip rs).map (fun p => intCode w p.2 sm se 0 (-(qmax : Int)) qmax p.1), ieeeBits 8 7 s, false⟩
    | _ => nanBlock fmt (.intz w 32) vs.length
  | some k, none => nanBlock fmt k vs.length
  | _, _ => ⟨List.replicate vs.length 0, 0, false⟩

/-- Encode a block with a given FP32 scale and zero point (PACK, R234). -/
def packBlock (fmt : Nat) (rs : List Rnd) (s : Num) (zp : Int) (vs : List (Option Num)) : Blk :=
  match fmtKind fmt with
  | some (.mx e) =>
    match s, amaxOf vs with
    | .fin _ m x, some _ =>
      if m = 0 then nanBlock fmt (.mx e) vs.length
      else
        let k := max (-127) (expOf m x)
        ⟨(vs.zip rs).map (fun p => mxCode e p.2 k p.1), (k + 127).toNat, false⟩
    | _, _ => nanBlock fmt (.mx e) vs.length
  | some (.intz w b) =>
    let z := max (-128) (min 127 zp)
    let void := { nanBlock fmt (.intz w b) vs.length with side := 0x7FC0 + trunc 8 z * 65536 }
    match s.rBf16, amaxOf vs with
    | .fin n m x, some _ =>
      if m = 0 then void
      else
        let flip := fun (v : Option Num) => if n then v.map Num.neg else v
        ⟨(vs.zip rs).map (fun p => intCode w p.2 m x z (-2 ^ (w - 1)) (2 ^ (w - 1) - 1) (flip p.1)),
          ieeeBits 8 7 (.fin n m x) + trunc 8 z * 65536, false⟩
    | _, _ => void
  | _ => ⟨List.replicate vs.length 0, 0, false⟩

/-! ### Places within a tile (R440) -/

/-- The number n of element (i, j) of a tile. -/
def elemNo (fmt i j : Nat) : Nat := if colAxis fmt then 128 * j + i else 128 * i + j

/-- The number of the block that holds element (i, j): line ℓ, block k of the line. -/
def blockNo (fmt i j : Nat) : Nat :=
  let b := fmtBlk fmt
  if colAxis fmt then j * (128 / b) + i / b else i * (128 / b) + j / b

/-- Byte offset of the side data of block number `k`. -/
def sideAt (fmt k : Nat) : Nat := 2048 * fmtWidth fmt + fmtSide fmt * k

/-- floor of the value's binary exponent in FP32 form: the biased exponent field (R130). -/
def biasedExp (x : F32) : Nat := x.toNat / 2 ^ 23 % 256

/-! ### Stochastic rounding (R124) -/

/-- A right shift and exclusive or of a 64-bit number. -/
def xorShift (z k : Nat) : Nat := z.xor (z / 2 ^ k)

/-- The 16 random bits of R124 for element `idx`, from context, object and seed. -/
def srdBits (ctx obj seed idx : Nat) : Nat :=
  let m := 2 ^ 64
  let key := ((ctx * 2 ^ 52 % m).xor (obj * 2 ^ 28 % m)).xor seed
  let z := (key + (idx + 1) * 0x9E3779B97F4A7C15) % m
  let z := xorShift z 30 * 0xBF58476D1CE4E5B9 % m
  let z := xorShift z 27 * 0x94D049BB133111EB % m
  let z := xorShift z 31
  z / 2 ^ 48

/-- The rounding an op's RND field selects for one element; values 5 to 7 do not pass take-in (R123). -/
def rndOf (rnd ctx obj seed idx : Nat) : Rnd :=
  match rnd with
  | 0 => .rne
  | 1 => .rtz
  | 2 => .rdn
  | 3 => .rup
  | _ => .srd (srdBits ctx obj seed idx)

/-! ### The canonical tree (R182) -/

/-- The largest power of two below `n` (for n ≥ 2). -/
def treeCut (n : Nat) : Nat := 2 ^ Nat.log2 (n - 1)

/-- Reduce a list by the canonical tree: the left child covers the largest power of two below the count. -/
def treeFold {α : Type} (f : α → α → α) : Nat → List α → Option α
  | 0, _ => none
  | _ + 1, [] => none
  | _ + 1, [x] => some x
  | fuel + 1, xs =>
    let c := treeCut xs.length
    match treeFold f fuel (xs.take c), treeFold f fuel (xs.drop c) with
    | some l, some r => some (f l r)
    | _, _ => none

/-- A node value: one number, or a pair hi + lo (R184). -/
structure Node where
  hi : Num
  lo : Num
  deriving DecidableEq, Repr

/-- Accumulator modes (Table 6.1) and the pair sums of ROWREDUCE. -/
inductive Acc where
  | a32
  | a32x
  | a16
  deriving DecidableEq, Repr

/-- Round an exact value to the mode's node form (R184, R189, R191). -/
def Node.ofNum (a : Acc) (v : Num) : Node :=
  match a with
  | .a32 => ⟨v.r32, .zero⟩
  | .a16 => ⟨v.rBf16, .zero⟩
  | .a32x =>
    let h := v.r32
    match h, v with
    | .fin _ _ _, .fin _ _ _ =>
      let d := Num.add v h.neg
      ⟨h, if d.isZero then .zero else d.r32⟩
    | _, _ => ⟨h, .zero⟩

/-- The exact value of a node. -/
def Node.val (n : Node) : Num := if n.lo.isZero then n.hi else Num.add n.hi n.lo

/-- Add two nodes: the exact sum of their values, rounded once (R182). -/
def Node.add (a : Acc) (l r : Node) : Node := Node.ofNum a (Num.add l.val r.val)

/-- The FP32 result of the root (R185). -/
def Node.result (n : Node) : Num := n.val.r32

/-- The root over a list of leaves; an empty list is +0. -/
def treeNodes (a : Acc) (xs : List Node) : Node := (treeFold (Node.add a) (xs.length + 1) xs).getD ⟨.zero, .zero⟩

/-- Finite children whose rounding became infinite, for MXE_ACCSTAT.OVFCNT (R191). -/
def overflowed (v : Num) (n : Node) : Bool := v.isFin && n.hi.isInf

/-- The number of overflow events in the tree over a list of leaves (R191). -/
def treeOverflows (a : Acc) : Nat → List Node → Nat × Option Node
  | 0, _ => (0, none)
  | _ + 1, [] => (0, none)
  | _ + 1, [x] => (0, some x)
  | fuel + 1, xs =>
    let c := treeCut xs.length
    match treeOverflows a fuel (xs.take c), treeOverflows a fuel (xs.drop c) with
    | (n, some l), (m, some r) =>
      let v := Num.add l.val r.val
      let d := Node.ofNum a v
      (n + m + b2n (overflowed v d), some d)
    | (n, _), (m, _) => (n + m, none)

/-- A sum of squares or values in FP32 by the tree (R224): leaves in order, every node rounded to FP32. -/
def treeSum (xs : List Num) : Num := (treeNodes .a32 (xs.map (fun x => ⟨x.r32, .zero⟩))).hi

end Sys2Proof.Machine
end

