-- ==== Sys2Proof/Machine/Regs.lean ====
section
/-! DEFINITION. The control space: the address of every register and register window (numbers of the tables of the chapters named
in the comments), its reset value, its fields' access codes (R8) and who may write it. A register is known by its address. -/

namespace Sys2Proof.Machine

namespace Reg

/-! Chapter 02 (R30, R43) -/
def objBase (c : Nat) : Nat := 0x0F0001020000 + 16 * c
def objCnt (c : Nat) : Nat := 0x0F0001020008 + 16 * c
def qbase (q : Nat) : Nat := 0x0F0001000000 + 128 * q
def qctl (q : Nat) : Nat := 0x0F0001000008 + 128 * q
def qtail (q : Nat) : Nat := 0x0F0001000010 + 128 * q
def qhead (q : Nat) : Nat := 0x0F0001000018 + 128 * q
def qdone (q : Nat) : Nat := 0x0F0001000020 + 128 * q
def qcr (q : Nat) : Nat := 0x0F0001000028 + 128 * q
def qcrptr (q : Nat) : Nat := 0x0F0001000030 + 128 * q
def qflag (q : Nat) : Nat := 0x0F0001000038 + 128 * q
def qstat (q : Nat) : Nat := 0x0F0001000040 + 128 * q
def qerr (q : Nat) : Nat := 0x0F0001000048 + 128 * q
def qirq (q : Nat) : Nat := 0x0F0001000050 + 128 * q

/-! Chapter 03 (R75, R98, R99, R104, R106) -/
def hintBase (c : Nat) : Nat := 0x0F0001030000 + 8 * c
def hintMiss : Nat := 0x0F0001038000
def mbxCmd (m : Nat) : Nat := 0x0F0001040000 + 64 * m
def mbxArg (m i : Nat) : Nat := 0x0F0001040008 + 64 * m + 8 * i
def mbxRsp (m : Nat) : Nat := 0x0F0001040028 + 64 * m
def mbxStat (m : Nat) : Nat := 0x0F0001040030 + 64 * m
def beatNow : Nat := 0x0F0001050000
def beatCyc : Nat := 0x0F0001050008
def beatMargin : Nat := 0x0F0001050010
def beatSliplim : Nat := 0x0F0001050018
def beatStat : Nat := 0x0F0001050020
def beatHorizon : Nat := 0x0F0001050028
def sliptab0 (u : Nat) : Nat := 0x0F0001051000 + 16 * u
def sliptab1 (u : Nat) : Nat := 0x0F0001051008 + 16 * u

/-! Chapter 04 (R133) -/
def wctl (s : Nat) : Nat := 0x0F0001060000 + 128 * s
def wstat (s : Nat) : Nat := 0x0F0001060008 + 128 * s
def wrec (s i : Nat) : Nat := 0x0F0001060010 + 128 * s + 8 * i

/-! Chapters 05 and 06 (Table 5.10, Table 6.4) -/
def mxeStat (n : Nat) : Nat := 0x0F0001100000 + 256 * n
def mxeColmap (n : Nat) : Nat := 0x0F0001100008 + 256 * n
def mxeBusycyc (n : Nat) : Nat := 0x0F0001100010 + 256 * n
def mxeDetcnt (n : Nat) : Nat := 0x0F0001100018 + 256 * n
def mxeRowmiss (n : Nat) : Nat := 0x0F0001100020 + 256 * n
def mxeInj (n : Nat) : Nat := 0x0F0001100028 + 256 * n
def mxeAccstat (n : Nat) : Nat := 0x0F0001110000 + 64 * n
def mxeAccinj (n : Nat) : Nat := 0x0F0001110008 + 64 * n

/-! Chapter 07 (R219, Table 7.11) -/
def epiBase (c : Nat) : Nat := 0x0F0001070000 + 8 * c
def vxeStat (n : Nat) : Nat := 0x0F0001120000 + 256 * n
def vxeBusycyc (n : Nat) : Nat := 0x0F0001120008 + 256 * n
def vxeTqstall (n : Nat) : Nat := 0x0F0001120010 + 256 * n
def vxeDetcnt (n : Nat) : Nat := 0x0F0001120018 + 256 * n
def vxeIdxmiss (n : Nat) : Nat := 0x0F0001120020 + 256 * n
def vxeInj (n : Nat) : Nat := 0x0F0001120028 + 256 * n

/-! Chapter 08 (R243, R256, R263, Table 8.13) -/
def attBase (c : Nat) : Nat := 0x0F0001080000 + 8 * c
def asqStat (d : Nat) : Nat := 0x0F0001130000 + 256 * d
def asqBusycyc (d : Nat) : Nat := 0x0F0001130008 + 256 * d
def asqPairs (d : Nat) : Nat := 0x0F0001130010 + 256 * d
def asqMiss (d : Nat) : Nat := 0x0F0001130018 + 256 * d
def asqSsmiss (d : Nat) : Nat := 0x0F0001130020 + 256 * d
def asqDetcnt (d : Nat) : Nat := 0x0F0001130028 + 256 * d
def asqDirused (d : Nat) : Nat := 0x0F0001130030 + 256 * d
def asqInj (d : Nat) : Nat := 0x0F0001130038 + 256 * d
def asqDirclr : Nat := 0x0F0001130800
def asqDir0 (d i : Nat) : Nat := 0x0F0001400000 + 0x100000 * d + 16 * i
def asqDir1 (d i : Nat) : Nat := 0x0F0001400008 + 0x100000 * d + 16 * i

/-! Chapter 09 (Table 9.8) -/
def stmStat (d : Nat) : Nat := 0x0F0001140000 + 256 * d
def stmBusycyc (d : Nat) : Nat := 0x0F0001140008 + 256 * d
def stmDetcnt (d : Nat) : Nat := 0x0F0001140010 + 256 * d
def stmInj (d : Nat) : Nat := 0x0F0001140018 + 256 * d

/-! Chapter 10 (R303, Table 10.13) -/
def ruleBase (c : Nat) : Nat := 0x0F0001090000 + 8 * c
def setBase (c : Nat) : Nat := 0x0F00010A0000 + 8 * c
def uuStat (n : Nat) : Nat := 0x0F0001150000 + 256 * n
def uuBytes (n : Nat) : Nat := 0x0F0001150008 + 256 * n
def uuBlkcnt (n : Nat) : Nat := 0x0F0001150010 + 256 * n
def uuMiss (n : Nat) : Nat := 0x0F0001150018 + 256 * n
def uuDetcnt (n : Nat) : Nat := 0x0F0001150020 + 256 * n
def uuInj (n : Nat) : Nat := 0x0F0001150028 + 256 * n
def uuRootfail : Nat := 0x0F0001151000

/-! Chapter 11 (R333, R365) -/
def grpBase (c : Nat) : Nat := 0x0F00010B0000 + 8 * c
def casc : Nat := 0x0F0001160000
def toff : Nat := 0x0F0001160008
def xcnt : Nat := 0x0F0001160010
def relay : Nat := 0x0F0001160018

/-! Chapter 12 (Table 12.11, Table 12.14) -/
def hbcStat (n : Nat) : Nat := 0x0F0001170000 + 256 * n
def hbcErrcnt (n : Nat) : Nat := 0x0F0001170008 + 256 * n
def hbcRepcnt (n : Nat) : Nat := 0x0F0001170010 + 256 * n
def hbcScrub (n : Nat) : Nat := 0x0F0001170018 + 256 * n
def hbcInj (n : Nat) : Nat := 0x0F0001170020 + 256 * n
def hbcCap : Nat := 0x0F0001171000
def mscHits (n : Nat) : Nat := 0x0F0001180000 + 256 * n
def mscAtom (n : Nat) : Nat := 0x0F0001180008 + 256 * n
def mscSeq (n : Nat) : Nat := 0x0F0001180010 + 256 * n
def mscDetcnt (n : Nat) : Nat := 0x0F0001180018 + 256 * n
def mscInj (n : Nat) : Nat := 0x0F0001180020 + 256 * n
def mscSeqopen : Nat := 0x0F0001182000

/-! Chapter 13 (R418, Table 13.9) -/
def whBase (c : Nat) : Nat := 0x0F00010C0000 + 8 * c
def cdstat : Nat := 0x0F0001190000
def cdctl : Nat := 0x0F0001190008
def cdcnt : Nat := 0x0F0001190010
def cderr : Nat := 0x0F0001190018
def cdinj : Nat := 0x0F0001190020
def cdlost : Nat := 0x0F0001190028

/-! Chapter 14 (R443, Table 14.9, Table 14.11) -/
def trnSeg0 (c s : Nat) : Nat := 0x0F0002000000 + 256 * c + 16 * s
def trnSeg1 (c s : Nat) : Nat := 0x0F0002000008 + 256 * c + 16 * s
def tirMap (g : Nat) : Nat := 0x0F0004000000 + 8 * g
def trnCfg : Nat := 0x0F00011A0000
def trnInv : Nat := 0x0F00011A0008
def trnInvrng : Nat := 0x0F00011A0010
def trnStat : Nat := 0x0F00011A0018
def trnCnt : Nat := 0x0F00011A0020
def trnReloc : Nat := 0x0F00011A0028
def tirRelease : Nat := 0x0F00011B0000
def tirHfree : Nat := 0x0F00011B0008
def tirDfree : Nat := 0x0F00011B0010
def tirMig : Nat := 0x0F00011B0018
def tirCodec : Nat := 0x0F00011B0020
def tirStat : Nat := 0x0F00011B0028
def dtcStat (n : Nat) : Nat := 0x0F00011C0000 + 256 * n
def dtcErrcnt (n : Nat) : Nat := 0x0F00011C0008 + 256 * n
def dtcInj (n : Nat) : Nat := 0x0F00011C0010 + 256 * n

/-! Chapter 15 (R468, Table 15.13) -/
def strBase (c : Nat) : Nat := 0x0F00010D0000 + 8 * c
def itkStat : Nat := 0x0F00011D0000
def itkBusycyc : Nat := 0x0F00011D0008
def itkSamples : Nat := 0x0F00011D0010
def itkLastsid : Nat := 0x0F00011D0018
def itkLastbad : Nat := 0x0F00011D0020
def itkDetcnt : Nat := 0x0F00011D0028
def itkInj : Nat := 0x0F00011D0030
def itkScnt0 (s : Nat) : Nat := 0x0F00011D0100 + 16 * s
def itkScnt1 (s : Nat) : Nat := 0x0F00011D0108 + 16 * s

/-! Chapter 16 (Table 16.2, Table 16.11) -/
def biaEnt0 (i : Nat) : Nat := 0x0F0005000000 + 16 * i
def biaEnt1 (i : Nat) : Nat := 0x0F0005000008 + 16 * i
def hlkStat (n : Nat) : Nat := 0x0F00011E0000 + 256 * n
def hlkRetrain (n : Nat) : Nat := 0x0F00011E0008 + 256 * n
def hlkLost (n : Nat) : Nat := 0x0F00011E0010 + 256 * n
def hlkBar (n : Nat) : Nat := 0x0F00011E0018 + 256 * n
def hlkErrcnt (n : Nat) : Nat := 0x0F00011E0020 + 256 * n
def hlkCtl (n : Nat) : Nat := 0x0F00011E0028 + 256 * n
def hlkInj (n : Nat) : Nat := 0x0F00011E0030 + 256 * n
def biaCmd : Nat := 0x0F0001200000
def biaArg : Nat := 0x0F0001200008
def biaArgw : Nat := 0x0F0001200010
def biaStat : Nat := 0x0F0001200018
def biaCnt : Nat := 0x0F0001200020
def tmbNow : Nat := 0x0F00011F0000
def tmbFrac : Nat := 0x0F00011F0008
def tmbStat : Nat := 0x0F00011F0010
def tmbOutctl : Nat := 0x0F00011F0018
def tmbPtmctl : Nat := 0x0F00011F0020
def tmbCorrbase : Nat := 0x0F00011F0028
def tmbCorr (i : Nat) : Nat := 0x0F00011F0030 + 8 * i

/-! Chapter 17 (Tables 17.8 to 17.10) -/
def stlBstat (b : Nat) : Nat := 0x0F0001210000 + 32 * b
def stlLane (b dir : Nat) : Nat := 0x0F0001210008 + 32 * b + 8 * dir
def stlBcnt (b : Nat) : Nat := 0x0F0001210018 + 32 * b
def stlInj : Nat := 0x0F0001210800
def pstat (p : Nat) : Nat := 0x0F0001220000 + 64 * p
def pfar (p : Nat) : Nat := 0x0F0001220008 + 64 * p
def pcnt (p : Nat) : Nat := 0x0F0001220010 + 64 * p
def pretry (p : Nat) : Nat := 0x0F0001220018 + 64 * p
def pinj (p : Nat) : Nat := 0x0F0001220020 + 64 * p
def disc : Nat := 0x0F0001222000
def zser : Nat := 0x0F0001222008
def bup0 : Nat := 0x0F0001230000
def bup1 : Nat := 0x0F0001230008
def bup2 : Nat := 0x0F0001230010
def bup : Nat := 0x0F0001230018

/-! Chapter 18 (Table 18.14) -/
def rscCause : Nat := 0x0F0001240000
def rscStat : Nat := 0x0F0001240008
def rscRst : Nat := 0x0F0001240010
def rscWdog : Nat := 0x0F0001240018
def rscKeep (i : Nat) : Nat := 0x0F0001241000 + 8 * i
def bootCmd : Nat := 0x0F0001250000
def bootStat : Nat := 0x0F0001250008
def secLc : Nat := 0x0F0001250010
def secSerial : Nat := 0x0F0001250018
def fuseStat : Nat := 0x0F0001250020
def secRevoke : Nat := 0x0F0001250028
def attCmd : Nat := 0x0F0001250030
def attStat : Nat := 0x0F0001250038
def nonce (i : Nat) : Nat := 0x0F0001250040 + 8 * i
def secOut (i : Nat) : Nat := 0x0F0001254000 + 8 * i

/-! Chapter 19 (R574, R577, Table 19.9) -/
def fltQ (i w : Nat) : Nat := 0x0F0001300000 + 64 * i + 8 * w
def fltEsc (i w : Nat) : Nat := 0x0F0001340000 + 64 * i + 8 * w
def fltStat : Nat := 0x0F0001260000
def fltCtl : Nat := 0x0F0001260008
def fltQhead : Nat := 0x0F0001260010
def fltQtail : Nat := 0x0F0001260018
def fltSeq : Nat := 0x0F0001260020
def fltEsccnt : Nat := 0x0F0001260028
def fltWin : Nat := 0x0F0001260030
def fltInj : Nat := 0x0F0001260038
def fltSteps : Nat := 0x0F0001260040
def fltStcnt : Nat := 0x0F0001260048
def fltTscnt : Nat := 0x0F0001260050
def fltLost (c : Nat) : Nat := 0x0F0001260100 + 8 * c

/-! Chapter 20 (Table 20.11) -/
def pwrStat : Nat := 0x0F0001270000
def capHost : Nat := 0x0F0001270008
def capBmc : Nat := 0x0F0001270010
def capEff : Nat := 0x0F0001270018
def stepCnt : Nat := 0x0F0001270020
def lowBeat : Nat := 0x0F0001270028
def alert : Nat := 0x0F0001270030
def amask : Nat := 0x0F0001270038
def cage : Nat := 0x0F0001270040
def pwrOff : Nat := 0x0F0001270048
def pwrInj : Nat := 0x0F0001270050
def thmDie : Nat := 0x0F0001270100
def thmMem : Nat := 0x0F0001270108
def thmCool : Nat := 0x0F0001270110
def thmPeak : Nat := 0x0F0001270118

end Reg

/-- Access codes of Table 0.3 that a write distinguishes (WO fields act through their own commands and hold nothing; RWO and LCK
occur in no register of the chapters). -/
inductive Access where
  | ro
  | rw
  | w1c
  deriving DecidableEq, Repr

/-- Who may write a register, where its chapter restricts it. -/
inductive Who where
  | any             -- every agent but a MOVE op, which reaches no control space (R445)
  | barRig          -- BAR0 or the rigging cores
  | barRigCore      -- BAR0, server cores or rigging cores (R596)
  | rig             -- rigging cores only
  | rigI3c          -- I3C or the rigging cores (R619)
  | barRigI3c       -- BAR0, I3C or the rigging cores (R619)
  deriving DecidableEq, Repr

/-- May this agent write? -/
def Who.admits (w : Who) (a : Agent) : Bool :=
  match w, a with
  | _, .move => false
  | .any, _ => true
  | _, .rig => true
  | .barRig, .hl _ => true
  | .barRigCore, .hl _ => true
  | .barRigCore, .core => true
  | .rigI3c, .i3c => true
  | .barRigI3c, .hl _ => true
  | .barRigI3c, .i3c => true
  | _, _ => false

/-- One row of the register map: `count` registers from `base`, `stride` bytes apart; reset value; who may write; the fields that a
write changes, as (msb, lsb, access). Fields not listed are RO, WO or reserved. -/
structure RegRow where
  base   : Nat
  stride : Nat
  count  : Nat
  reset  : Word
  who    : Who
  fields : List (Nat × Nat × Access)
  deriving DecidableEq, Repr

/-- A table base register of a context: BASE 43:12 and EN 0 (Tables 3.6, 7.2 and their like). -/
def rowBase (a : Nat) : RegRow := ⟨a, 8, 4096, 0, .any, [(43, 12, .rw), (0, 0, .rw)]⟩

/-- Read-only registers with a reset value. -/
def rowRo (a stride count : Nat) (v : Word) : RegRow := ⟨a, stride, count, v, .any, []⟩

/-- Chapters 02 to 04. -/
def regMapA : List RegRow :=
  [⟨0x0F0001020000, 16, 4096, 0, .any, [(43, 12, .rw)]⟩,
   ⟨0x0F0001020008, 16, 4096, 0, .any, [(23, 0, .rw)]⟩,
   ⟨0x0F0001000000, 128, 1024, 0, .any, [(43, 12, .rw), (3, 0, .rw)]⟩,
   ⟨0x0F0001000008, 128, 1024, 0, .any, [(63, 52, .rw), (51, 50, .rw)]⟩,
   rowRo 0x0F0001000010 128 1024 0, rowRo 0x0F0001000018 128 1024 0, rowRo 0x0F0001000020 128 1024 0,
   ⟨0x0F0001000028, 128, 1024, 0, .any, [(43, 12, .rw), (3, 0, .rw)]⟩,
   ⟨0x0F0001000030, 128, 1024, 0, .any, [(63, 32, .rw)]⟩,
   ⟨0x0F0001000038, 128, 1024, 0, .any, [(43, 3, .rw)]⟩,
   ⟨0x0F0001000040, 128, 1024, 0, .any, [(6, 6, .w1c), (4, 4, .w1c), (2, 2, .w1c)]⟩,
   rowRo 0x0F0001000048 128 1024 0,
   ⟨0x0F0001000050, 128, 1024, 0, .any, [(10, 0, .rw)]⟩,
   rowBase 0x0F0001030000, rowRo 0x0F0001038000 8 1 0,
   rowRo 0x0F0001040000 64 2 0,
   ⟨0x0F0001040008, 64, 2, 0, .any, [(63, 0, .rw)]⟩, ⟨0x0F0001040010, 64, 2, 0, .any, [(63, 0, .rw)]⟩,
   ⟨0x0F0001040018, 64, 2, 0, .any, [(63, 0, .rw)]⟩, ⟨0x0F0001040020, 64, 2, 0, .any, [(63, 0, .rw)]⟩,
   rowRo 0x0F0001040028 64 2 0,
   ⟨0x0F0001040030, 64, 2, 0, .any, [(26, 16, .rw), (2, 2, .rw), (1, 1, .w1c)]⟩,
   rowRo 0x0F0001050000 8 1 0, rowRo 0x0F0001050008 8 1 2500, rowRo 0x0F0001050010 8 1 0,
   rowRo 0x0F0001050018 8 1 32, rowRo 0x0F0001050020 8 1 0, rowRo 0x0F0001050028 8 1 16,
   rowRo 0x0F0001051000 8 512 0,
   ⟨0x0F0001060000, 128, 8, 0, .barRig, [(63, 28, .rw), (9, 4, .rw), (0, 0, .rw)]⟩,
   rowRo 0x0F0001060008 128 8 0]

/-- Chapters 05 to 11. -/
def regMapB : List RegRow :=
  [⟨0x0F0001100000, 256, 16, 2, .any, [(3, 3, .w1c)]⟩, rowRo 0x0F0001110000 64 16 0,
   rowBase 0x0F0001070000, rowRo 0x0F0001120000 256 16 2,
   rowBase 0x0F0001080000, rowRo 0x0F0001130000 256 4 2, rowRo 0x0F0001130800 8 1 0,
   rowRo 0x0F0001140000 256 4 2,
   rowBase 0x0F0001090000, rowBase 0x0F00010A0000, rowRo 0x0F0001150000 256 16 2,
   rowBase 0x0F00010B0000,
   rowRo 0x0F0001160000 8 4 0,
   rowRo 0x0F0001170000 256 16 2,
   ⟨0x0F0001170018, 256, 16, 24, .barRig, []⟩,
   rowRo 0x0F0001171000 8 1 1024]

/-- Chapters 13 to 16. -/
def regMapC : List RegRow :=
  [rowBase 0x0F00010C0000,
   ⟨0x0F0001190008, 8, 1, 0x4000000000000000, .barRig, []⟩,
   ⟨0x0F0002000000, 16, 65536, 0, .barRig, [(63, 60, .rw), (43, 12, .rw)]⟩,
   ⟨0x0F0002000008, 16, 65536, 0, .barRig, [(43, 12, .rw)]⟩,
   ⟨0x0F00011A0000, 8, 1, 0, .barRig, [(0, 0, .rw)]⟩,
   ⟨0x0F00011A0018, 8, 1, 0, .any, [(1, 1, .w1c)]⟩,
   rowRo 0x0F00011B0008 8 1 524288,
   rowRo 0x0F00011C0000 256 16 2,
   rowBase 0x0F00010D0000, rowRo 0x0F00011D0000 8 1 2,
   ⟨0x0F00011E0028, 256, 2, 0x32, .barRig, [(15, 0, .rw)]⟩,
   ⟨0x0F0001200008, 8, 1, 0, .barRig, [(51, 21, .rw), (1, 0, .rw)]⟩,
   ⟨0x0F0001200010, 8, 1, 0, .barRig, [(19, 0, .rw)]⟩,
   ⟨0x0F0001200018, 8, 1, 0, .any, [(1, 1, .w1c)]⟩,
   ⟨0x0F00011F0020, 8, 1, 0, .barRig, [(15, 8, .rw), (1, 0, .rw)]⟩,
   ⟨0x0F00011F0028, 8, 1, 0, .barRig, [(43, 6, .rw), (5, 2, .rw), (0, 0, .rw)]⟩]

/-- Chapters 17 to 20. -/
def regMapD : List RegRow :=
  [⟨0x0F0001240018, 8, 1, 262144000, .rig, []⟩,
   ⟨0x0F0001250008, 8, 1, 0, .any, [(8, 8, .w1c)]⟩,
   ⟨0x0F0001250040, 8, 8, 0, .barRig, [(63, 0, .rw)]⟩,
   ⟨0x0F0001260000, 8, 1, 0, .barRigCore, [(3, 3, .w1c), (2, 2, .w1c)]⟩,
   ⟨0x0F0001260008, 8, 1, 0x8001, .barRig, [(26, 16, .rw), (15, 14, .rw), (12, 0, .rw)]⟩,
   rowRo 0x0F0001270008 8 1 3200, rowRo 0x0F0001270010 8 1 3200, rowRo 0x0F0001270018 8 1 3200,
   ⟨0x0F0001270030, 8, 1, 0, .barRigI3c, [(9, 0, .w1c)]⟩,
   ⟨0x0F0001270038, 8, 1, 0x3FF, .barRigI3c, [(9, 0, .rw)]⟩]

/-- The register map. A register that has no row here reads its stored value, resets to 0, and no plain write changes it (read-only
registers, and registers whose every write is a command of its own). -/
def regMap : List RegRow := regMapA ++ regMapB ++ regMapC ++ regMapD

/-- The row that holds the word at address `a`. -/
def rowAt (a : Nat) : List RegRow → Option RegRow
  | [] => none
  | r :: rs => if r.base ≤ a ∧ (a - r.base) % r.stride = 0 ∧ (a - r.base) / r.stride < r.count then some r else rowAt a rs

/-- The reset value of the word at address `a`. -/
def resetWord (a : Nat) : Word :=
  match rowAt a regMap with
  | some r => r.reset
  | none => 0

/-- The word after a plain write of `v` to those of its bits that the write covers (bits `hi`:`lo`): R7, R8. -/
def writeFields (fs : List (Nat × Nat × Access)) (old v : Word) (hi lo : Nat) : Word :=
  match fs with
  | [] => old
  | (m, l, acc) :: fs =>
    let m2 := min m hi
    let l2 := max l lo
    let w :=
      if m2 < l2 then old
      else
        match acc with
        | .rw => putBits old m2 l2 (bits v m2 l2)
        | .w1c => putBits old m2 l2 (bits old m2 l2 - (bits old m2 l2).land (bits v m2 l2))
        | .ro => old
    writeFields fs w v hi lo

/-- Register blocks that a chapter defines: (first address, bytes). Their reserved offsets are populated (Table 14.1). -/
def regBlocks : List (Nat × Nat) :=
  [(0x0F0001000000, 0x20000), (0x0F0001020000, 0x10000), (0x0F0001030000, 0x8008), (0x0F0001040000, 0x80),
   (0x0F0001050000, 0x2000), (0x0F0001060000, 0x400), (0x0F0001070000, 0x8000), (0x0F0001080000, 0x8000),
   (0x0F0001090000, 0x8000), (0x0F00010A0000, 0x8000), (0x0F00010B0000, 0x8000), (0x0F00010C0000, 0x8000),
   (0x0F00010D0000, 0x8000), (0x0F0001100000, 0x1000), (0x0F0001110000, 0x400), (0x0F0001120000, 0x1000),
   (0x0F0001130000, 0x808), (0x0F0001140000, 0x400), (0x0F0001150000, 0x1008), (0x0F0001160000, 0x100),
   (0x0F0001170000, 0x1008), (0x0F0001180000, 0x2008), (0x0F0001190000, 0x100), (0x0F00011A0000, 0x30),
   (0x0F00011B0000, 0x30), (0x0F00011C0000, 0x1000), (0x0F00011D0000, 0x200), (0x0F00011E0000, 0x200),
   (0x0F00011F0000, 0x50), (0x0F0001200000, 0x28), (0x0F0001210000, 0x808), (0x0F0001220000, 0x2010),
   (0x0F0001230000, 0x20), (0x0F0001240000, 0x1400), (0x0F0001250000, 0x8000), (0x0F0001260000, 0x180),
   (0x0F0001270000, 0x120), (0x0F0001300000, 0x40000), (0x0F0001340000, 0x800), (0x0F0001400000, 0x400000),
   (0x0F0002000000, 0x100000), (0x0F0004000000, 0x800000), (0x0F0005000000, 0x100000), (0x0F0006000000, 0x2000000)]

/-- Is the control-space address populated (Table 14.1)? -/
def inRegBlock (a : Nat) : Bool := regBlocks.any (fun b => decide (b.1 ≤ a) && decide (a < b.1 + b.2))

end Sys2Proof.Machine
end

