-- ==== Sys2Proof/Machine/Tab.lean ====
section
/-! DEFINITION. Sparse tables: the one form in which the model holds everything that is indexed by a number (bytes of
memory by address, registers by control-space address, tile tags by tile start, groups, units, contexts).

A table lists (key, value) pairs, keys strictly rising, and lists no pair whose value is what an unlisted key reads as.
Two tables that read alike are then equal data. The reading `d : Nat → α` of unlisted keys is an argument. -/

namespace Sys2Proof.Machine

/-- A sparse table with natural-number keys. -/
abbrev Tab (α : Type) := List (Nat × α)

/-- The value at key `k`: the listed one, else `d k`. -/
def Tab.get {α : Type} (d : Nat → α) : Tab α → Nat → α
  | [], k => d k
  | (j, v) :: t, k => if k = j then v else if k < j then d k else Tab.get d t k

/-- Write `v` at key `k`, in canonical form: a value that equals `d k` is not listed. -/
def Tab.set {α : Type} [DecidableEq α] (d : Nat → α) : Tab α → Nat → α → Tab α
  | [], k, v => if v = d k then [] else [(k, v)]
  | (j, w) :: t, k, v =>
    if k < j then (if v = d k then (j, w) :: t else (k, v) :: (j, w) :: t)
    else if k = j then (if v = d k then t.filter (fun p => decide (k < p.1)) else (k, v) :: t)
    else (j, w) :: Tab.set d t k v

/-- The canonical form: keys strictly rising, no entry equal to what its key reads as when unlisted. -/
def Tab.wf {α : Type} [DecidableEq α] (d : Nat → α) : Tab α → Bool
  | [] => true
  | [(k, v)] => decide (v ≠ d k)
  | (k, v) :: (j, w) :: t => decide (v ≠ d k) && decide (k < j) && Tab.wf d ((j, w) :: t)

/-- The entries that list the values of a list at consecutive keys from `k`. -/
def Tab.listed {α : Type} [DecidableEq α] (d : Nat → α) (k : Nat) : List α → Tab α
  | [] => []
  | v :: vs => if v = d k then Tab.listed d (k + 1) vs else (k, v) :: Tab.listed d (k + 1) vs

/-- Write the values of a list at consecutive keys from `k`. -/
def Tab.setRun {α : Type} [DecidableEq α] (d : Nat → α) (t : Tab α) (k : Nat) (vs : List α) : Tab α :=
  t.filter (fun p => decide (p.1 < k)) ++ (Tab.listed d k vs ++ t.filter (fun p => decide (k + vs.length ≤ p.1)))

/-- Read `n` values at consecutive keys from `k`. -/
def Tab.getRun {α : Type} (d : Nat → α) (t : Tab α) (k : Nat) : Nat → List α
  | 0 => []
  | n + 1 => t.get d k :: Tab.getRun d (t.dropWhile (fun p => decide (p.1 ≤ k))) (k + 1) n

/-- Drop every entry whose key lies in `lo ≤ key < hi`: those keys read as unlisted again. -/
def Tab.clear {α : Type} (t : Tab α) (lo hi : Nat) : Tab α :=
  t.filter (fun p => decide (p.1 < lo) || decide (hi ≤ p.1))

end Sys2Proof.Machine
end

