-- ==== Sys2Proof/Machine/State.lean ====
section
/-! DEFINITION. The state of the block, as plain data.

All 64-bit words of control space (registers, the tier map, the page bias table, segment entries, directory entries, the fault
queue) are one table, `regs`, keyed by address; an address not listed reads its reset value. Memory that programs name
(HBM and deep-tier names, tile stores) is one table of bytes, `mem`. What the chapters describe beside registers and memory is in the other
fields. -/

namespace Sys2Proof.Machine

/-- Memory by address: bytes of HBM and deep-tier names and of the tile stores (R10, R435), in the canonical form of a table. -/
abbrev Memory := Tab Byte

/-- What a byte that nothing has written reads as: zero, which module reset leaves in the tile stores and in every deep-tier or HBM byte (R438, R564). -/
def Memory.unlisted (_ : Nat) : Byte := 0

/-- Is a memory in its canonical form: addresses strictly rising, no entry that reads as an unlisted address does? -/
def Memory.wf (m : Memory) : Bool := Tab.wf Memory.unlisted m

/-- A descriptor, bit p of the word being bit position p of R33. -/
abbrev Desc := BitVec 512

/-- How a segment offset becomes a unified address: the captured translation of one object (R444, R446). `names` are the
group-list entries read, for the groups of the segment from number `first`. -/
inductive Place where
  | linear (base : Nat)
  | grouped (first : Nat) (names : List Nat)
  | split (p : Place) (lo hi : Nat) (q : Place)      -- offsets lo to hi - 1 under q, others under p (R462)
  deriving DecidableEq, Repr

/-- An object as taken in: its id, its record's fields (Table 2.3) and its translation. -/
structure Obj where
  id     : Nat
  seg    : Nat
  off    : Nat
  fmt    : Nat
  pclass : Nat
  rank   : Nat
  d0     : Nat
  d1     : Nat
  d2     : Nat
  d3     : Nat
  pref   : Nat
  place  : Place
  deriving DecidableEq, Repr

/-- Where an op stands. -/
inductive Phase where
  | taken      -- taken in, not started
  | started
  | ended
  deriving DecidableEq, Repr

/-- Where the completion record of an ended op stands (R48). -/
inductive RecPhase where
  | none       -- the op has not ended, or its record waits for a fence
  | ready      -- in the order of `State.ready`
  | written
  deriving DecidableEq, Repr

/-- A key of an ATTN op: of a context page or the entry's own, its row, its position (R252). -/
structure Key where
  kv  : Bool
  row : Nat
  pos : Nat
  deriving DecidableEq, Repr

/-- An entry of a length table that names query tokens, as an ATTN op has read it (R246, R259): its first query row, the directory entry that it continues,
whether that and its page list have been read, whether the entry is valid (R248), and the key-value object with its pages (PAGE, tokens), where it is usable. -/
structure AttEntry where
  e      : Nat
  qlen   : Nat
  row    : Nat
  plen   : Nat
  kfirst : Nat
  scx    : Option Nat
  read   : Bool
  valid  : Bool
  kv     : Option Obj
  pages  : List (Nat × Nat)
  deriving DecidableEq, Repr

/-- A query row of an open query tile: the running softmax (R265), or the leaves of dQ so far (R269), with the marks of R139. -/
structure AttRow where
  m   : Num
  l   : Num
  o   : List Num
  nan : Bool
  bad : Bool
  dq  : List (List (Node × Bool))
  deriving DecidableEq, Repr

/-- An open query tile of a head: its work unit, the MXE that runs it, the admitted key tiles done (R267). -/
structure AttOpen where
  u    : Nat
  mxe  : Nat
  next : Nat
  rows : List AttRow
  deriving DecidableEq, Repr

/-- What query tile `t` of head `h` of entry `e` gives the keys of key tile `j`, by key and column: leaves of dK and dV (R269). -/
structure AttPart where
  e  : Nat
  h  : Nat
  t  : Nat
  j  : Nat
  dk : List (List (Node × Bool))
  dv : List (List (Node × Bool))
  deriving DecidableEq, Repr

/-- An op: a descriptor taken in (or cancelled before take-in) and not yet retired. -/
structure OpRec where
  q       : Nat
  s       : Nat
  ctx     : Nat
  d       : Desc
  objs    : List (Nat × Obj)         -- by role: 0 A, 1 B, 2 C, 3 D, 4 BIAS, 5 D2, 6 HIST, 7 STATS, others per op
  objs2   : List (Nat × Obj)         -- the objects under the translation that an invalidation in progress switches to (R462)
  recs    : List (Nat × List Word)   -- records captured: 0 hint, 1 epilogue, 2 attention, 3 rule, 4 set, 5 group, 16 + s stream
  members : List Nat                 -- cascade addresses of the group's ranks (R333)
  windows : List (Nat × Nat × Nat)   -- write-hint windows: target (64: L3), first and last page (R418)
  num     : Nat                      -- collective number (R338)
  phase   : Phase
  depBeat : Option Nat               -- beat in which its dependencies were satisfied
  startB  : Nat                      -- BEAT_START
  endB    : Nat
  beats   : Nat                      -- BEATS, 0 if the op never started
  reads   : List (Nat × Nat × Nat × Nat)   -- class A input tiles as its parts first read them: part, address, producer's queue and serial (R395)
  failing : Option (Nat × Nat)       -- status and detail of the failure that stops its pieces (R622)
  status  : Nat
  detail  : Nat
  slips   : Nat
  replays : Nat
  replayA : Bool                     -- class A replay (REPLAYED bit 0)
  replayB : Bool                     -- re-placement (REPLAYED bit 1)
  late    : Bool                     -- a piece raised an offset under TIERLATE
  units   : Nat                      -- work units of the op, 0 for an op without work
  noWork  : Bool                     -- a used extent or a dimension is zero (R36)
  done    : List Nat                 -- work units performed
  tiles   : List Nat                 -- tiles of D written, for WORK
  hist    : Tab Nat                  -- histogram counts: 0 ELEMS, 1 ZEROS, 2 NANS, 3 INFS, 4 AMAX, 5 SAT, 64 + b BINb
  aux     : Tab Nat                  -- values an op keeps between its steps, by its own numbering
  taken   : Nat                      -- beat in which it was taken in
  begun   : Bool                     -- its first piece, or its work without pieces, has begun (R60)
  split   : List Part                -- its pieces, fixed when the first is planned (R83)
  att     : Option (List AttEntry)   -- the length table as an ATTN op has read it
  attOpen : List AttOpen
  attParts : List AttPart
  record  : RecPhase
  gone    : Bool                     -- ended with a failure and retired by RESUME or a flush
  deriving DecidableEq, Repr

/-- Where a piece stands (R78 to R81). -/
inductive PiecePhase where
  | planned
  | committed
  | running
  | ended
  deriving DecidableEq, Repr

/-- A piece of an op. -/
structure PieceRec where
  q        : Nat
  s        : Nat
  idx      : Nat          -- index of the piece within the op (R108)
  unit     : Nat
  vxe      : Nat          -- the VXE whose tile queue its tiles enter (R214, R296)
  part     : Part         -- what it covers
  cost     : Nat
  earliest : Nat
  planned  : Nat          -- planned beat
  atCommit : Nat          -- planned beat at commit, before any re-base (R94)
  cyc      : Nat          -- BEAT_CYC at commit; 65,536 once a clock step or a change of share has come since (CLKSTEP, R93, R604)
  startB   : Nat
  staged   : List Nat     -- operands staged, by role (R149)
  lower    : Bool         -- some of them came from the deep tier or a host window
  pos      : Tab Nat      -- by quad, the steps of its run that have streamed (R169)
  hist     : Tab Nat      -- its histogram counts, as the op's (R217, R225)
  failed   : Bool         -- an access of it has failed
  did      : List Nat     -- work units performed by it
  dets     : List Nat     -- tiles (by address) whose detections its reads met (R395)
  depth    : Nat          -- replays in the chain that led to it (R395)
  reader   : Option (Nat × Nat × Nat)   -- a replay: queue and serial of the op whose detection began the chain, and its operand slot
  phase    : PiecePhase
  deriving DecidableEq, Repr

/-- The direction of a piece on a link (R77). -/
def PieceRec.dir (p : PieceRec) : Nat := p.part.dir

/-- A queue that waits at take-in for a producer on another queue, and the producer's serial (R53). -/
structure WaitRec where
  q    : Nat
  prod : Nat
  s    : Nat
  deriving DecidableEq, Repr

/-- A context's pipeline setting (R88). -/
structure Pipe where
  stages : Nat
  stage  : Nat
  micro  : Nat
  mode   : Nat
  deriving DecidableEq, Repr

/-- A mailbox command in progress (R107): what the Rigger will answer. -/
structure MbxRec where
  m      : Nat
  seq    : Nat
  result : Nat
  value  : Nat
  deriving DecidableEq, Repr

/-- A detection of the numeric watch in the current beat (R135, R139). -/
structure Detection where
  slot   : Nat
  q      : Nat
  s      : Nat
  obj    : Nat
  cond   : Nat
  unit   : Nat
  tdep   : Nat
  trow   : Nat
  tcol   : Nat
  erow   : Nat
  ecol   : Nat
  value  : Nat
  sslot  : Nat
  inNan  : Bool
  deriving DecidableEq, Repr

/-- A tile tag (Table 2.11) without its TCRC, and whether the stored TCRC holds. -/
structure Tag where
  ctx    : Nat
  obj    : Nat
  trow   : Nat
  tcol   : Nat
  tdep   : Nat
  fmt    : Nat
  vrows  : Nat          -- valid rows minus one
  vcols  : Nat
  pclass : Nat
  last   : Bool
  poison : Bool
  pq     : Nat
  ps     : Nat
  destq  : Nat
  mb     : Nat
  beat   : Nat
  crcOk  : Bool
  deriving DecidableEq, Repr

/-- The condition of a 64-byte unit beyond its bytes (R391, R392). -/
inductive Mark where
  | good
  | poison
  | badCrc
  deriving DecidableEq, Repr

/-- A finished tile in a tile queue, or waiting for room in one (R214, R148): FP32 bits by element, its tag, and the op, piece and unit that made it. -/
structure TileEntry where
  vxe   : Nat
  unit  : Nat
  q     : Nat
  s     : Nat
  piece : Nat           -- index of the piece that finished it
  tag   : Tag
  quad  : Nat           -- the quad that stops for it (R148)
  work  : Nat           -- work unit of the op
  nans  : List Bool     -- by element: an input element was NaN or infinite
  vals  : List F32
  deriving DecidableEq, Repr

/-- A node value of an output tile, whole (R195, R196): the module that formed it, the op, the work unit, the tag as carried, the slices it covers, the
piece, unit and quad that formed it (255: another module's), the unit whose accumulator store it stands in (255: none of this module's yet), its op's
OPCLASS, OP and extents as carried (R364), by element whether a NaN or infinite element entered it, and its bytes. -/
structure NodeTile where
  src   : Nat
  q     : Nat
  s     : Nat
  work  : Nat
  tag   : BitVec 256
  lo    : Nat
  hi    : Nat
  piece : Nat
  home  : Nat
  quad  : Nat
  unit  : Nat
  head  : List Nat
  bads  : List Bool
  data  : List Byte
  deriving DecidableEq, Repr

/-- Flits of a block of a message that is not complete, in the tile store of the die that holds the port they came by (R23): that die, the message's type,
source and tag, the first flit, what the trailer carries beside the tag, the bytes. -/
structure InFlits where
  die   : Nat
  typ   : Nat
  src   : Nat
  tag   : BitVec 256
  off   : Nat
  extra : List Nat
  data  : List Byte
  deriving DecidableEq, Repr

/-- Rows `i0` on and columns `j0` on of an open output tile in an accumulator store or in a stem engine's lanes (R198, R199): the slices of its part, the
next one awaited, the preload in the slot of leaf 0 (R194), and by element, row by row, the stack of node values (newest first, with the slices each
covers) within one frame and over frames. -/
structure AccBlock where
  unit  : Nat
  quad  : Nat
  q     : Nat
  s     : Nat
  work  : Nat
  band  : Nat × Nat × Nat          -- plane, column tile and first row tile of its band; in a stem engine its group
  i0    : Nat
  j0    : Nat
  vr    : Nat
  vc    : Nat
  lo    : Nat
  hi    : Nat
  next  : Nat
  pre   : List Num
  inner : List (Nat × List Node)
  outer : List (Nat × List Node)
  bads  : List Bool
  deriving DecidableEq, Repr

/-- The spill area that an op's plan has reserved on a die, in node tiles (R201). -/
structure Spill where
  q     : Nat
  s     : Nat
  die   : Nat
  tiles : Nat
  deriving DecidableEq, Repr

/-- The working matrices of a plane of a ROOT op between its pieces (R327): the iteration, the products of it performed, and the matrices by row. -/
structure RootRec where
  q     : Nat
  s     : Nat
  plane : Nat
  unit  : Nat
  quad  : Nat
  iter  : Nat
  prod  : Nat
  mats  : List (Nat × List (List Num))
  bad   : Bool                          -- a NaN or infinite element entered it
  deriving DecidableEq, Repr

/-- A data write of an op to a host page, issued and not yet visible at its destination (R65): link, bus address, DEVICE or SHARED, the message whose
write it is (0: none), and what the host memory held, by address. -/
structure HostWrite where
  q    : Nat
  s    : Nat
  link : Nat
  hpa  : Nat
  dev  : Bool
  msg  : Nat
  old  : List (Nat × Option Byte)
  deriving DecidableEq, Repr

/-- A message of an op on its way (R534): type, destination, tag bytes 0 to 23. -/
structure SentMsg where
  q    : Nat
  s    : Nat
  typ  : Nat
  dst  : Nat
  name : Nat
  deriving DecidableEq, Repr

/-- An end-to-end acknowledgement held until the writes of its message are visible (R65): the op, the message's mark, its type, source and tag. -/
structure AckDue where
  q   : Nat
  s   : Nat
  msg : Nat
  typ : Nat
  src : Nat
  tag : BitVec 256
  deriving DecidableEq, Repr

/-- An armed injection (R178): the register's code for the detector, its target, and the beat it was armed in. -/
structure Armed where
  reg    : Nat          -- address of the injection register
  kind   : Nat
  target : Nat
  beat   : Nat
  deriving DecidableEq, Repr

/-- An open REDUCE_ACC sequence (R382): the object and order range, the ORDs that have joined with their ops, those ended, and tile by tile
the next ORD awaited and whether the tile is broken (R384). -/
structure SeqRec where
  ctx    : Nat
  obj    : Nat
  first  : Nat
  last   : Nat
  joined : List (Nat × Nat × Nat)       -- ORD, queue, serial
  ended  : List Nat                     -- ORDs ended
  added  : List (Nat × Nat)             -- (ORD, tile) added or released
  held   : List (Nat × Nat)             -- (ORD, tile) held at the slice
  broken : List Nat                     -- tiles
  deriving DecidableEq, Repr

/-- A directory line state (Table 13.3); UNCACHED lines have no entry. -/
inductive LineState where
  | excl
  | shared
  | owned
  deriving DecidableEq, Repr

/-- State of one copy in an L2 or the L3 (R411). -/
inductive CopyState where
  | m
  | o
  | e
  | s
  deriving DecidableEq, Repr

/-- A copy of a line: core 0 to 63, 64 for the L3. -/
structure Copy where
  core   : Nat
  st     : CopyState
  bytes  : List Byte
  poison : Bool
  hold   : Bool          -- in its hold (R412)
  waits  : Bool          -- a probe waits for the end of the hold
  deriving DecidableEq, Repr

/-- A directory entry with the copies it names (R410). -/
structure Line where
  st     : LineState
  copies : List Copy
  deriving DecidableEq, Repr

/-- A migration in progress (R450). -/
structure MigRec where
  group : Nat
  tier  : Nat
  stack : Nat
  mark  : List Nat         -- chunks to copy (again)
  deriving DecidableEq, Repr

/-- An invalidation in progress (R462, R463). -/
structure InvRec where
  ctx   : Nat
  seg   : Nat
  off   : Nat             -- first page
  len   : Nat             -- pages
  units : List Nat        -- units yet to acknowledge
  drain : Bool
  ops   : List (Nat × Nat) -- DRAIN: the ops to end first
  deriving DecidableEq, Repr

/-- A running sample of a BATCH (R471, R480 to R489). -/
structure Sample where
  q      : Nat
  s      : Nat
  row    : Nat            -- row of the sample list
  pos    : Nat            -- batch position
  item   : Nat            -- next item
  cursor : Nat            -- reservoir cursor
  cursor0 : Nat           -- cursor at the sample's start (R489)
  repl   : Nat            -- reservoir entries consumed for the row
  entry  : List Word      -- the sample entry in use
  cause  : Nat            -- first rejection: cause, stream, item-table row
  cstr   : Nat
  citem  : Nat
  corrupt : Nat           -- rejections with causes 1 to 9, and with cause 10
  stale  : Nat
  writes : List Nat       -- items of this attempt written: stream · 4096 + slot
  deriving DecidableEq, Repr

/-- A bias command in progress (R500). -/
structure BiaRec where
  entry  : Nat
  code   : Nat
  arg    : Word          -- BIA_ARG and BIA_ARGW as the command found them
  argw   : Word
  result : Nat
  deriving DecidableEq, Repr

/-- A discovery record of one candidate's ADVERT (R539). -/
structure Advert where
  serial : Nat
  hops   : Nat
  port   : Nat
  closed : Bool
  deriving DecidableEq, Repr

/-- A plane of a feature map whose copy stays in a tile store (R290): the op that wrote it, and the dies whose units did (one, while it is
resident; none of an INTAKE's, until a piece that reads it is planned). -/
structure Resident where
  ctx   : Nat
  obj   : Nat
  plane : Nat
  q     : Nat
  s     : Nat
  dies  : List Nat
  deriving DecidableEq, Repr

/-- A block sent on a port (R532): port, TYPE and the block. -/
structure Sent where
  port : Nat
  typ  : Nat
  blk  : Block
  deriving DecidableEq, Repr

/-- A recovery window (R580): instance, SEQ of the fault that opened it, whether its recovery still runs, and when the hold ends. -/
structure Window where
  dom  : Nat
  inst : Nat
  seq  : Nat
  det  : Nat
  cls  : Nat
  unit : Nat
  busy : Bool
  into : Nat             -- domain · 1024 + instance of the recovery it is folded into, 0 for none (R581)
  ends : Nat             -- module time, ns
  info : Nat             -- INFO of the fault: the element it names, if any
  tested : Bool          -- folded: its self-test has been run
  deriving DecidableEq, Repr

/-- Power states (Table 20.3). -/
inductive Power where
  | off
  | ramp
  | on
  | latchoff
  deriving DecidableEq, Repr

/-- The boot image accepted by verification, as its header and sections gave it (Table 18.7, Table 18.8). -/
structure Image where
  keyslot : Nat
  isvn    : Nat
  raise   : Bool
  lcreq   : Nat
  entry   : Nat
  digest  : List Byte
  repair  : List Byte
  cores   : List (Nat × List Byte)     -- CORE sections: LOAD, bytes
  deriving DecidableEq, Repr

set_option maxRecDepth 4000 in
/-- The state of the block. -/
structure State where
  /-- Commands that wait, first in, first out. -/
  pending  : List Instr
  /-- Control space by address (R7, R8). -/
  regs     : Tab Word
  /-- Bytes of HBM and deep-tier names and of the tile stores (R10, R435). -/
  mem      : Memory
  /-- Bytes of host memory that the module has written, or that a command brought, by link · 2^52 + bus address (R497). -/
  hostMem  : Tab (Option Byte)
  /-- Data writes to host pages not yet visible, oldest first (R65). -/
  hostOut  : List HostWrite
  /-- Messages of ops without their end-to-end acknowledgement (R534). -/
  sentOut  : List SentMsg
  /-- Acknowledgements that wait for their data's visibility (R65). -/
  ackDue   : List AckDue
  /-- Tile tags by the address of the tile's first byte (R58). -/
  tags     : Tab (Option Tag)
  /-- Units whose code is not that of their bytes, by address ÷ 64 (R391, R392). -/
  marks    : Tab Mark
  /-- Ops taken in and not retired, in the order of take-in. -/
  ops      : List OpRec
  /-- Pieces of ops that have not ended. -/
  pieces   : List PieceRec
  /-- Queues that wait at take-in (R53). -/
  waits    : List WaitRec
  /-- Ended ops whose records are ready, in the order in which they became ready (R48). -/
  ready    : List (Nat × Nat)
  /-- Queues whose last completion-record write failed (R49). -/
  recFail  : List Nat
  /-- Flushed queues whose next ring slot to cancel lies in a page that waits, with its serial (R631). -/
  cancels  : List (Nat × Nat)
  /-- Flag words that wait for a page: address, value (R514). -/
  flagWait : List (Nat × Word)
  /-- Running total of capacity of a unit and direction, key 2 · unit + direction (R78). -/
  totals   : Tab Nat
  /-- Planned beat of the last piece committed to a unit and direction, plus 1, by the same key (R79). -/
  lastBeat : Tab Nat
  /-- Offset of a unit and direction (R92). -/
  offsets  : Tab Nat
  /-- Re-base requested by an offset above BEAT_SLIPLIM (R96). -/
  rebaseDue : Bool
  /-- A boundary has come with it: pieces wait until it is done. -/
  rebaseNow : Bool
  /-- Pipeline settings by context (R88). -/
  pipes    : Tab Pipe
  /-- Retired micro-batches, key 2048 · context + micro-batch (R89). -/
  retired  : Tab Bool
  /-- Mailbox commands in progress (R107). -/
  mailbox  : List MbxRec
  /-- BEAT_MARGIN to take effect at the next boundary (R108). -/
  marginNext : Option Nat
  /-- Writes to RIG_WCTL that take effect at the next boundary (R136). -/
  wctlNext : Tab (Option Word)
  /-- Slots whose TRIPPED is cleared at the next boundary (R138). -/
  tripClear : List Nat
  /-- Detections of the current beat (R136). -/
  detects  : List Detection
  /-- Tile queue entries, oldest first (R214). -/
  tileQ    : List TileEntry
  /-- Finished tiles that wait for room in a tile queue (R148). -/
  stalled  : List TileEntry
  /-- Feature-map planes kept in the tile stores (R290). -/
  resident : List Resident
  /-- Node tiles formed and received (R196). -/
  nodes    : List NodeTile
  /-- Open tiles of the accumulator stores and stem engines (R198, R199). -/
  accs     : List AccBlock
  /-- Spill areas reserved (R201). -/
  spills   : List Spill
  /-- ROOT planes in progress (R327). -/
  roots    : List RootRec
  /-- Armed injections (R178). -/
  armed    : List Armed
  /-- Open REDUCE_ACC sequences (R382), oldest first. -/
  seqs     : List SeqRec
  /-- Replay journal: the ops that wrote class A tiles, oldest first (R395). -/
  journal  : List OpRec
  /-- Consecutive cool readings of each stack (R397). -/
  cool     : Tab Nat
  /-- Rows with no repair left, by channel 16s + c (Table 12.8). -/
  rowsOut  : Tab Nat
  /-- Directory entries and the copies they name, by line address ÷ 64 (R410). -/
  dirLines : Tab (Option Line)
  /-- LR reservation of each core: line address + 1, 0 for none (R412, R421). -/
  lr       : Tab Nat
  /-- Cores held in reset (R428, Table 19.4); all of them until step 12 of a start (Table 18.2). -/
  coreHeld : Tab Bool
  /-- Ops taken in and not ended at entry to DOWN, and host-window pages that its recovery reverted (R430, R431). -/
  downOps  : List (Nat × Nat)
  reverted : List Nat
  /-- Engines parked (R429, R584). -/
  parked   : Bool
  /-- Migrations in progress (R450). -/
  migs     : List MigRec
  /-- Invalidation in progress (R463). -/
  inv      : Option InvRec
  /-- A directory clear in progress: its context (R263). -/
  dirClear : Option Nat
  /-- The running sample of the intake engine (R471). -/
  sample   : Option Sample
  /-- Bias command in progress (R500). -/
  bias     : Option BiaRec
  /-- The last write of BIA_ARG (bit 0) or BIA_ARGW (bit 1) had a reserved bit set (R500). -/
  biaResv  : Nat
  /-- PTM dialogs run (R518). -/
  ptmSeq   : Nat
  /-- MSI-X: vectors the host has enabled, unmasked (R496). -/
  msixOn   : Tab Bool
  /-- Vectors signalled while masked, with the module time (R496). -/
  msixPend : List (Nat × Nat)
  /-- Vectors signalled, oldest first (R496). -/
  msix     : List Nat
  /-- Mailbox 1 interrupts sent to server cores: core, identity (R107). -/
  coreIrq  : List (Nat × Nat)
  /-- Module time, ns, and its fraction in 2^-16 ns (R516). -/
  ns       : Nat
  frac     : Nat
  /-- TMB_FRAC by path: 0 HL0, 1 HL1, 2 server cores, 3 rigging cores (R517). -/
  fracLatch : Tab Nat
  /-- Steering of the timebase (R358): the last rate applied, ppm. -/
  steer    : Int
  /-- Time outputs: PPS_OUT level, ns at which it falls, ns of its last edge, frames sent, ns until which it is suppressed (R520, R521). -/
  ppsHigh  : Bool
  ppsFall  : Nat
  ppsEdge  : Option Nat
  todSeq   : Nat
  todSent  : List (List Byte)
  ppsHold  : Nat
  /-- Time outputs running: bit 0 PPS, 1 TOD, 2 REF10M (R521). -/
  outRun   : Nat
  /-- Numbers of the next cascade ops by group identity, or by the key of an XSEND or XRECV + 2^110 (R338, R339). -/
  collNo   : Tab Nat
  /-- Ready notices received and not yet matched (R352): source, content, port. -/
  notices  : List (Nat × BitVec 256 × Nat)
  /-- Abandonment notices received (R355): the content without its sender, and the port. -/
  abandoned : List (Nat × Nat)
  /-- Blocks of messages not yet complete, in the tile stores of the ports' dies (R23, R532). -/
  inbox    : List InFlits
  /-- Blocks accepted, to discard duplicates (R533): TYPE · 4096 + source, tag bytes 0-23, offset. -/
  accepted : List (Nat × Nat × Nat)
  /-- Retry buffers of the ports (R533): blocks not yet acknowledged. -/
  retry    : List Sent
  /-- Key port: SEQ of the next block sent. Key 96 + port: SEQ of the last block received in order, plus 1. Key 192 + port: 2 while the next trailer is to
  carry RETRY, 1 while the resend is awaited. Key 288 + address: turn among the ports toward a module. -/
  portSeq  : Tab Nat
  /-- Blocks sent, in order (R532). -/
  outbox   : List Sent
  /-- Consecutive offsets within ±2 ns (Table 11.4). -/
  inLock   : Nat
  /-- Beats since the last ALIGN exchange began (R358). -/
  alignDue : Nat
  /-- An ALIGN exchange awaits its answer. -/
  alignOut : Bool
  /-- Leaving UNALIGNED: BEAT_NOW is written at the next boundary (R359). -/
  alignSet : Bool
  /-- Discovery (R539): the best candidate heard, the serials joined in order, the port toward each joined serial (port + 1), the addresses assigned
  (serial: address + 1), the next free address, and routes by address (port, hops). -/
  best     : Option Advert
  joins    : List Nat
  joinPort : Tab Nat
  addrs    : Tab Nat
  nextAddr : Nat
  routes   : Tab (List (Nat × Nat))
  /-- Module time, ns, at which the first port came UP, and of the last JOIN received (R539, R540). -/
  upAt     : Option Nat
  joinAt   : Nat
  /-- Module time + 1 of a port's last failed training, 0 for none (R536). -/
  downAt   : Tab Nat
  /-- Uncorrectable codewords met in received blocks: port, module time (R536). -/
  cwErr    : List (Nat × Nat)
  /-- Lanes known bad by fuse or repair, key 128 · bundle + 64 · direction + lane (R526). -/
  laneBad  : Tab Bool
  /-- Eye margin of the trained lanes, by the same key, 0 for an untrained one (R527). -/
  margins  : Tab Nat
  /-- Reset: conditions that hold it (bit 0 PIN, 1 THERM, 2 SUPPLY), and µs since POWER_GOOD. -/
  held     : Nat
  sincePg  : Nat
  /-- Fuse array (Table 18.5), fields in order of their own numbering (see the assumption log). -/
  fuses    : Tab Nat
  /-- Key slots staged for revocation (R566), and the watchdog (R593): armed, ns of the last kick. -/
  revokes  : Nat
  wdogOn   : Bool
  wdogAt   : Nat
  /-- Boot window bytes (R558), whether a link owns it (R554). -/
  bootWin  : Tab Byte
  owned    : Bool
  image    : Option Image
  wiped    : Bool
  discovered : Bool
  /-- Attestation in progress (R568), alias certificate message formed at self-ready. -/
  attest   : Bool
  aliasCert : List Byte
  /-- Fault records of the last 16 (R578), as 8 words each, oldest first. -/
  keep     : List (List Word)
  /-- Fault detections of this beat: (domain, instance, unit, detector, SEQ) of the fault that leads (R571). -/
  beatFaults : List (Nat × Nat × Nat × Nat × Nat)
  windows  : List Window
  /-- Faults without a window of their own whose self-test has not ended, oldest first (R399, R570). -/
  tests    : List Window
  /-- Spare slots of an MXE disabled after their spare column failed, key 8 · MXE + 2 · quad + slot, and the slot + 1 whose new map is being tested,
  key 4 · MXE + quad (Table 5.9). -/
  spareGone : Tab Bool
  remap    : Tab Nat
  /-- Counted detections: element, module time (R570). -/
  counted  : List (Nat × Nat)
  /-- TRANSIENT outcomes: instance, module time, located element + 1 or 0 (R588). -/
  transients : List (Nat × Nat × Nat)
  /-- Rigging cores out of service, MSC slices out, ways disabled (slice · 2^20 + set · 16 + way), banks retired (56 d + b) (Table 19.4). -/
  rigOut   : Tab Bool
  mscOut   : Tab Bool
  wayOff   : Tab Bool
  bankOut  : Tab Bool
  /-- Power (chapter 20): state, pins and measured values. -/
  power    : Power
  pwrEn    : Bool
  perst    : List Bool            -- HL0_PERST_N, HL1_PERST_N: true is high
  mz50     : List Bool            -- 50 V present on MZ0, MZ1
  powerGood : Bool
  tripN    : Bool                 -- THERM_TRIP_N driven low
  capNext  : List (Nat × Nat)     -- cap writes to take effect at the next boundary: (0 host or 1 BMC, W)
  sinceStep : Nat                 -- beats since the last clock step; 1,000 at reset, when there has been none
  capShare : Nat                  -- engine capacity divisor: 1, 2, 4, 8 (R604)
  sinceShare : Nat                -- beats since the divisor last changed
  mzFirst  : Bool                 -- the first boundary after a loss is still to come (R604)
  mzInj    : Bool                 -- an armed loss of MZ0's 50 V stands for this reading (R618)
  floorB   : Nat                  -- beats at 1.5 GHz with P10 above the cap (R603)
  p10      : Nat
  hot      : List Nat             -- parts whose thermal hold is in force (R605), numbered as Table 20.10's 0x85
  alertAt  : List (Nat × Nat)     -- detector conditions: (DET · 256 + part, module time last seen) (R617)
  cooled   : Bool                 -- at the last reading every part stood 15 °C below its trip threshold (R606)
  /-- I3C dynamic address (0 none) and interrupts raised (R612). -/
  i3cAddr  : Nat
  i3cIrq   : List Nat
  /-- JTAG instruction register, boundary sampled (R614); challenge outstanding, session open, rigging cores halted, UART held (R615). -/
  jtag     : Nat
  challenge : List Byte
  session  : Bool
  halted   : Bool
  uart     : Bool
  pinHigh  : Bool                 -- MOD_RESET_N
  cagePins : Nat                  -- presence pins low, bit 3k + j
  /-- What the last command that answers its sender answered: an atomic's old value, a read's value, a response code. -/
  reply    : Option Word
  /-- The model's own counter of free values (not the spec's). -/
  free     : Nat
  deriving DecidableEq, Repr

/-- Faults of a step: none. Every event of the spec has an effect or takes no place (see the assumption log), so no meaning faults; the type
has no constructor and a claim that a step never faults holds by form. -/
inductive Fault where
  deriving DecidableEq, Repr

/-- Refusals of a step. -/
inductive Refusal where
  /-- Raised by exec for a command that has no meaning in the model yet: safe, the machine stops where the hardware goes on. -/
  | notModelled (mnemonic : String)
  deriving DecidableEq, Repr

/-- The pipeline of a context without SET_PIPELINE (R88). -/
def defaultPipe : Pipe := ⟨1, 0, 2048, 0⟩

/-- The state right after reset: control space at its reset values, memory zero (R438, R564), nothing taken in. Values that the spec does not
give are named in the assumption log. -/
def State.reset : State where
  pending := []
  regs := []
  mem := []
  hostMem := []
  hostOut := []
  sentOut := []
  ackDue := []
  tags := []
  marks := []
  ops := []
  pieces := []
  waits := []
  ready := []
  recFail := []
  cancels := []
  flagWait := []
  totals := []
  lastBeat := []
  offsets := []
  rebaseDue := false
  rebaseNow := false
  pipes := []
  retired := []
  mailbox := []
  marginNext := none
  wctlNext := []
  tripClear := []
  detects := []
  tileQ := []
  stalled := []
  resident := []
  nodes := []
  accs := []
  spills := []
  roots := []
  armed := []
  seqs := []
  journal := []
  cool := []
  rowsOut := []
  dirLines := []
  lr := []
  coreHeld := (List.range 64).map (fun k => (k, true))
  downOps := []
  reverted := []
  parked := false
  migs := []
  inv := none
  dirClear := none
  sample := none
  bias := none
  biaResv := 0
  ptmSeq := 0
  msixOn := []
  msixPend := []
  msix := []
  coreIrq := []
  ns := 0
  frac := 0
  fracLatch := []
  steer := 0
  ppsHigh := false
  ppsFall := 0
  ppsEdge := none
  todSeq := 0
  todSent := []
  ppsHold := 0
  outRun := 0
  collNo := []
  notices := []
  abandoned := []
  inbox := []
  accepted := []
  retry := []
  portSeq := []
  outbox := []
  inLock := 0
  alignDue := 0
  alignOut := false
  alignSet := false
  best := none
  joins := []
  joinPort := []
  addrs := []
  nextAddr := 0
  routes := []
  upAt := none
  joinAt := 0
  downAt := []
  cwErr := []
  laneBad := []
  margins := []
  held := 0
  sincePg := 0
  fuses := []
  revokes := 0
  wdogOn := false
  wdogAt := 0
  bootWin := []
  owned := false
  image := none
  wiped := false
  discovered := false
  attest := false
  aliasCert := []
  keep := []
  beatFaults := []
  windows := []
  tests := []
  spareGone := []
  remap := []
  counted := []
  transients := []
  rigOut := []
  mscOut := []
  wayOff := []
  bankOut := []
  power := .on
  pwrEn := true
  perst := [true, true]
  mz50 := [true, true]
  powerGood := true
  tripN := false
  capNext := []
  sinceStep := 1000
  capShare := 1
  sinceShare := 0
  mzFirst := false
  mzInj := false
  floorB := 0
  p10 := 0
  hot := []
  alertAt := []
  cooled := true
  i3cAddr := 0
  i3cIrq := []
  jtag := 0xFF
  challenge := []
  session := false
  halted := false
  uart := false
  pinHigh := true
  cagePins := 0
  reply := none
  free := 0

end Sys2Proof.Machine
end

