-- ==== Sys2Proof/Machine/Ops.lean ====
section
/-! DEFINITION. The named operations over registers, the interrupt vectors, and the fault records (chapter 19): every chapter's
events use these. -/

namespace Sys2Proof.Machine

/-- The one way an event without a failure outcome answers. -/
abbrev Outcome := Host.Outcome State Fault Refusal

/-! ### Registers -/

/-- The word at a control-space address. -/
def State.rd (s : State) (a : Nat) : Word := s.regs.get resetWord a

/-- Set the word at a control-space address. -/
def State.wr (s : State) (a : Nat) (v : Word) : State := { s with regs := s.regs.set resetWord a v }

/-- A field of a register. -/
def State.fld (s : State) (a hi lo : Nat) : Nat := bits (s.rd a) hi lo

/-- A one-bit field of a register. -/
def State.flag (s : State) (a i : Nat) : Bool := s.fld a i i == 1

/-- Set a field of a register. -/
def State.put (s : State) (a hi lo v : Nat) : State := s.wr a (putBits (s.rd a) hi lo v)

/-- Set or clear a bit of a register. -/
def State.putBit (s : State) (a i : Nat) (b : Bool) : State := s.put a i i (b2n b)

/-- Add to a saturating counter field. -/
def State.bump (s : State) (a hi lo n : Nat) : State := s.put a hi lo (satAdd (hi + 1 - lo) (s.fld a hi lo) n)

/-- Apply a state transformer when a condition holds. -/
def State.cond (s : State) (c : Bool) (f : State → State) : State := if c then f s else s

/-- Apply a function for every number below `n`, in order. -/
def State.each (s : State) (n : Nat) (f : State → Nat → State) : State := (List.range n).foldl f s

/-- The current beat number (R73). -/
def State.beat (s : State) : Nat := s.fld Reg.beatNow 63 0

/-- Its 40-bit form (R73). -/
def State.beat40 (s : State) : Nat := s.beat % 2 ^ 40

/-! ### Interrupts (R496) -/

/-- Has the host enabled MSI-X in a function: some entry of its table is unmasked (log entry 163)? -/
def State.msixEnabled (s : State) (n : Nat) : Bool := s.msixOn.any (fun e => e.1 / 1024 == n && e.2)

/-- Signal MSI-X vector v, 0 to 2,047: queued where its function can take it; one that is masked is pending for 1 s; else it is counted in HLK_BAR. -/
def State.signal (s : State) (v : Nat) : State :=
  let n := v / 1024
  if s.fld (Reg.hlkStat n) 1 0 = 2 ∧ s.msixOn.get (fun _ => false) v = true then { s with msix := s.msix ++ [v] }
  else if s.fld (Reg.hlkStat n) 1 0 = 2 ∧ s.msixEnabled n = true then
    (if s.msixPend.any (fun e => e.1 == v) then s else { s with msixPend := s.msixPend ++ [(v, s.ns)] })
  else s.bump (Reg.hlkBar n) 31 0 1

/-- Vectors masked for more than 1 s are discarded. -/
def State.msixExpire (s : State) : State :=
  let old := s.msixPend.filter (fun e => decide (e.2 + 1000000000 < s.ns))
  old.foldl (fun s e => s.bump (Reg.hlkBar (e.1 / 1024)) 31 0 1)
    { s with msixPend := s.msixPend.filter (fun e => decide (s.ns ≤ e.2 + 1000000000)) }

/-- The host masks or unmasks an entry of an MSI-X table: a pending vector is signalled. -/
def State.maskVector (s : State) (v : Nat) (masked : Bool) : State :=
  let s := { s with msixOn := s.msixOn.set (fun _ => false) v (!masked) }
  if !masked && s.msixPend.any (fun e => e.1 == v) then ({ s with msixPend := s.msixPend.filter (fun e => e.1 != v) } : State).signal v else s

/-! ### Fault records (R570 to R579) -/

/-- What a record says, beside what its forming adds (SEQ, TIME, BEAT, RCRC). -/
structure FaultIn where
  cls     : Nat
  sev     : Nat
  rtype   : Nat
  det     : Nat
  inj     : Bool := false
  dom     : Nat := 0
  inst    : Nat := 0
  outcome : Nat := 0
  unit    : Nat := 255
  addr    : Nat := 0
  op      : Option (Nat × Nat × Nat) := none      -- queue, serial, context
  relseq  : Nat := 0
  info    : Nat := 0
  repair  : Word := 0
  deriving DecidableEq, Repr

/-- The bytes of a list of words (R6). -/
def wordBytes : List Word → List Byte
  | [] => []
  | w :: ws => bytesOf 8 w.toNat ++ wordBytes ws

/-- The eight words of a fault record (Table 19.2). -/
def recordWords (f : FaultIn) (seq time beat : Nat) : List Word :=
  let (q, sr, c, v) := match f.op with
    | some (q, sr, c) => (q, sr, c, 1)
    | none => (0, 0, 0, 0)
  let body := [word [(32, seq), (28, f.cls), (26, f.sev), (24, f.rtype), (23, b2n f.inj), (20, f.dom), (16, f.outcome), (8, f.det)],
    word [(0, time % 2 ^ 64)],
    word [(24, beat % 2 ^ 40), (16, f.unit), (0, f.inst)],
    word [(0, f.addr)],
    word [(54, q), (22, sr), (10, c), (9, v)],
    word [(32, f.relseq), (0, f.info % 2 ^ 32)],
    f.repair]
  body ++ [word [(0, crc32c (wordBytes body))]]

/-- Write words to consecutive control-space addresses. -/
def State.wrRun (s : State) (a : Nat) : List Word → State
  | [] => s
  | w :: ws => (s.wr a w).wrRun (a + 8) ws

/-! ### Injections (R178, R594) -/

/-- Arm an injection in the register at `reg`. R178 does not say what a second ARM does while one is armed: here each stands until it is taken or expires
(DESIGN CHOICE, log entry 151). -/
def State.arm (s : State) (reg kind target : Nat) : State :=
  { s with armed := s.armed ++ [⟨reg, kind, target, s.beat⟩] }

/-- Is such an injection armed? The next use of the detector takes it. -/
def State.isArmed (s : State) (reg kind target : Nat) : Bool :=
  s.armed.any (fun a => a.reg == reg && a.kind == kind && a.target == target)

/-- Take an armed injection: it corrupts exactly one check. -/
def State.disarm (s : State) (reg kind target : Nat) : State :=
  { s with armed := s.armed.eraseP (fun a => a.reg == reg && a.kind == kind && a.target == target) }

/-- Take an armed injection if there is one: was it armed? -/
def State.takeInj (s : State) (reg kind target : Nat) : Bool × State :=
  (s.isArmed reg kind target, s.disarm reg kind target)

/-- Form a record: it takes a SEQ (R573), enters the queue or is counted lost (R574, R576), the escalation ring where its severity
is ESCALATION (R577), the ring of the last 16 (R578), and signals at most one interrupt (R579). -/
def State.formOne (s : State) (f : FaultIn) : State :=
  let seq := s.fld Reg.fltSeq 31 0
  let ws := recordWords f seq s.ns s.beat
  let head := s.fld Reg.fltQhead 31 0
  let tail := s.fld Reg.fltQtail 31 0
  let occ : Nat := (tail + 2 ^ 32 - head) % 2 ^ 32
  let full := decide (occ = 4096)
  let s := s.put Reg.fltSeq 31 0 (seq + 1)
  let s := s.bump (Reg.fltLost f.cls) 63 32 1
  let s := { s with keep := (s.keep ++ [ws]).drop (s.keep.length + 1 - 16) }
  let ovf := s.flag Reg.fltStat 0
  let s :=
    if full then
      let s := s.bump (Reg.fltLost f.cls) 31 0 1
      if ovf then s else ((s.putBit Reg.fltStat 0 true).put Reg.fltStat 31 28 f.cls).put Reg.fltStat 63 32 seq
    else
      let s := s.wrRun (Reg.fltQ (tail % 4096) 0) ws
      let s := s.put Reg.fltQtail 31 0 (tail + 1)
      s.putBit Reg.fltStat 1 (decide (occ + 1 = 4096))
  let escWas := s.flag Reg.fltStat 2
  let esc := decide (f.sev = 3)
  let s :=
    if esc then
      let n := s.fld Reg.fltEsccnt 31 0
      let s := s.wrRun (Reg.fltEsc (n % 32) 0) ws
      (s.put Reg.fltEsccnt 31 0 (n + 1)).putBit Reg.fltStat 2 true
    else s
  let thr : Nat := max 1 (s.fld Reg.fltCtl 12 0)
  let fires := (!full && decide (occ + 1 = thr)) || (full && !ovf) || (esc && !escWas)
  if fires && s.flag Reg.fltCtl 14 then s.signal (s.fld Reg.fltCtl 26 16) else s

/-- Is the fault queue full? -/
def State.queueFull (s : State) : Bool :=
  (s.fld Reg.fltQtail 31 0 + 2 ^ 32 - s.fld Reg.fltQhead 31 0) % 2 ^ 32 == 4096

/-- Form a record. With FLT_INJ kind 10 armed, the slot it was written to holds two wrong bits: its record is counted lost as CONTROL, and DET 0x92
reports the slot (Table 19.7). -/
def State.form (s : State) (f : FaultIn) : State :=
  let slot := s.fld Reg.fltQtail 31 0 % 4096
  let full := s.queueFull
  let s := s.formOne f
  if !full && s.isArmed Reg.fltInj 10 0 then
    ((s.disarm Reg.fltInj 10 0).bump (Reg.fltLost 10) 31 0 1).formOne
      { cls := 10, sev := 0, rtype := 0, det := 0x92, inj := true, info := slot }
  else s

/-- An EVENT record of severity NOTE (R570). -/
def State.event (s : State) (cls det : Nat) (f : FaultIn := ⟨0, 0, 0, 0, false, 0, 0, 0, 255, 0, none, 0, 0, 0⟩) : State :=
  s.form { f with cls := cls, det := det, sev := 0, rtype := 3 }

/-! ### Domains, windows and the ladder (R580 to R582, R628) -/

/-- The die of a unit index of Table 3.2, for engines; `none` for the intake engine. -/
def unitDie (u : Nat) : Option Nat :=
  if u < 16 then some (u / 4)
  else if u < 32 then some ((u - 16) / 4)
  else if u < 36 then some (u - 32)
  else if u < 40 then some (u - 36)
  else if u < 56 then some ((u - 40) / 4)
  else none

/-- The next step of an instance (Table 19.3): domain and instance. -/
def State.nextStep (s : State) (dom inst : Nat) : Nat × Nat :=
  match dom with
  | 1 => match unitDie inst with
    | some d => (4, d)
    | none => (6, 0)
  | 2 =>
    if inst < 256 then (4, inst / 64)
    else if inst < 272 then (6, 0)
    else if inst < 288 then (4, (inst - 272) / 4)
    else if inst < 512 then (6, 0)
    else (4, (inst - 512) / 56)
  | 3 =>
    if inst < 32 then (4, s.fld (Reg.stlBstat inst) 61 59)
    else if inst < 128 then (4, (inst - 32) / 24)
    else (6, 0)
  | 4 => (6, 0)
  | 5 => (6, 0)
  | _ => (7, 0)

/-- Hold time of a domain, ns (Table 19.3). -/
def holdNs (dom : Nat) : Nat :=
  match dom with
  | 1 => 100000000
  | 5 => 60000000000
  | 6 => 60000000000
  | _ => 10000000000

/-- The open window of an instance. -/
def State.window (s : State) (dom inst : Nat) : Option Window :=
  s.windows.find? (fun w => w.dom == dom && w.inst == inst)

/-- Is an instance in recovery? -/
def State.recovering (s : State) (dom inst : Nat) : Bool :=
  match s.window dom inst with
  | some w => w.busy
  | none => false

/-- The nearest ancestor in recovery, as domain · 1024 + instance. -/
def State.ancestor (s : State) : Nat → Nat → Nat → Option Nat
  | 0, _, _ => none
  | k + 1, dom, inst =>
    let (d, i) := s.nextStep dom inst
    if d = 7 then none else if s.recovering d i then some (d * 1024 + i) else s.ancestor k d i

/-- FLT_WIN follows the windows (Table 19.9). -/
def State.syncWin (s : State) : State :=
  let dies := (List.range 4).foldl (fun a d => a + b2n (s.recovering 4 d) * 2 ^ d) 0
  s.wr Reg.fltWin (word [(48, s.windows.length), (8, dies), (5, b2n (s.window 5 0).isSome), (4, b2n (s.window 6 0).isSome),
    (0, b2n (s.recovering 6 0))])

/-- Change the windows. -/
def State.setWindows (s : State) (ws : List Window) : State := ({ s with windows := ws } : State).syncWin

/-- RESOLVE of a window's fault (R627, Table 19.11). -/
def State.resolveRec (s : State) (w : Window) (outcome : Nat) (repair : Word) : State :=
  let sev := match outcome with
    | 1 => 1
    | 7 => 1
    | 6 => 0
    | _ => 2
  { (s.form { cls := w.cls, sev := sev, rtype := 1, det := w.det, dom := w.dom, inst := w.inst, unit := w.unit, outcome := outcome,
              relseq := w.seq, info := w.info, repair := repair }) with tests := s.tests.filter (fun (v : Window) => v.seq != w.seq) }

/-- Fold every lower recovery in progress into the recovery of an ancestor that begins (R581). -/
def State.foldLower (s : State) (dom inst : Nat) : List Window → State
  | [] => s
  | w :: ws =>
    let under := w.busy && (s.nextStep w.dom w.inst == (dom, inst) || (dom == 6 && w.dom != 6 && w.dom != 7))
    let s :=
      if under then
        let s := (s.resolveRec w 6 0).bump Reg.fltSteps 31 0 1
        s.setWindows (s.windows.map (fun v =>
          if v.dom = w.dom ∧ v.inst = w.inst then { v with busy := false, into := dom * 1024 + inst, tested := false } else v))
      else s
    s.foldLower dom inst ws

/-- Open the window of an instance whose recovery begins with the fault of this SEQ (R580). -/
def State.openWindow (s : State) (w : Window) : State :=
  let s := s.setWindows (s.windows ++ [w])
  s.foldLower w.dom w.inst s.windows

/-- A step is folded into a recovery that runs: its RESOLVE carries FOLDED (R581, R582, R627). -/
def State.foldStep (s : State) (cls d i seq : Nat) : State :=
  (s.form { cls := cls, sev := 0, rtype := 1, det := 0xF0, dom := d, inst := i, outcome := 6, relseq := seq }).bump Reg.fltSteps 31 0 1

/-- What follows a step to domain `d`, instance `i` (R582): folded where its recovery or an ancestor's runs, else its window opens, or, where it is open
already, the next step follows. -/
def State.climbAt (s : State) (cls d i seq : Nat) (next : Nat → State) : State :=
  match s.window d i with
  | none =>
    match s.ancestor 3 d i with
    | some _ => s.foldStep cls d i seq
    | none => s.openWindow ⟨d, i, seq, 0xF0, cls, 255, true, 0, 0, 0, false⟩
  | some w => if w.busy then s.foldStep cls d i seq else if d = 7 then s else next w.seq

/-- A step to the next domain for a second fault in an open window, climbing while the window there is open (R582). `first` and `second` are
the SEQs of the two faults. -/
def State.climb (s : State) : Nat → Nat → Nat → Nat → Nat → Nat → State
  | 0, _, _, _, _, _ => s
  | k + 1, cls, dom, inst, first, second =>
    let (d, i) := s.nextStep dom inst
    let seq := s.fld Reg.fltSeq 31 0
    let s := s.form { cls := cls, sev := 3, rtype := 2, det := 0xF0, dom := d, inst := i, relseq := first, info := second }
    let s := s.bump Reg.fltSteps 63 32 1
    s.climbAt cls d i seq (fun first => s.climb k cls d i first seq)

/-- A fault that an ancestor's recovery takes over (R581, R582): the instance's window holds it, to be resolved by that recovery's self-test. -/
def State.keepFault (s : State) (w : Window) (key : Nat) : State :=
  let k := fun (v : Window) => { w with busy := false, into := key, ends := v.ends }
  match s.window w.dom w.inst with
  | none => s.setWindows (s.windows ++ [k w])
  | some _ => s.setWindows (s.windows.map (fun v => if v.dom = w.dom ∧ v.inst = w.inst then k v else v))

/-- A detection of Table 19.7: its DETECT record, the folding of R571 and R581, its window, and the ladder of R582 under R628 for an
injected one. -/
def State.detect (s : State) (f : FaultIn) : State :=
  let seq := s.fld Reg.fltSeq 31 0
  match s.beatFaults.find? (fun b => f.dom != 0 && b.1 == f.dom && b.2.1 == f.inst) with
  | some b => s.form { f with rtype := 0, outcome := 6, relseq := b.2.2.2.2 }
  | none =>
    let s := s.form { f with rtype := 0 }
    let s := if f.dom = 0 then s else { s with beatFaults := s.beatFaults ++ [(f.dom, f.inst, f.unit, f.det, seq)] }
    let w : Window := ⟨f.dom, f.inst, seq, f.det, f.cls, f.unit, true, 0, 0, f.info, false⟩
    if f.dom = 0 then s
    else if f.sev < 2 then { s with tests := s.tests ++ [{ w with busy := false }] }
    else
      match s.ancestor 3 f.dom f.inst with
      | some key => ((s.resolveRec w 6 0).bump Reg.fltSteps 31 0 1).keepFault w key
      | none =>
        match s.window f.dom f.inst with
        | none => s.openWindow w
        | some v =>
          if f.inj && !s.flag Reg.fltCtl 15 then
            if v.busy then (s.resolveRec w 6 0).bump Reg.fltSteps 31 0 1
            else s.setWindows (s.windows.map (fun x =>
              if x.dom = f.dom ∧ x.inst = f.inst then { x with busy := true, seq := seq, det := f.det, cls := f.cls, unit := f.unit, info := f.info } else x))
          else
            let s := s.climb 4 f.cls f.dom f.inst v.seq seq
            match s.ancestor 3 f.dom f.inst with
            | some key => s.keepFault w key
            | none => s

/-- The recovery of an instance ends with an outcome: its RESOLVE record, the hold of its window, the end of the windows folded into
it (R580, R581). Nothing where the instance is not in recovery. -/
def State.resolve (s : State) (dom inst outcome : Nat) (repair : Word) : State :=
  match s.window dom inst with
  | none => s
  | some w =>
    if !w.busy then s
    else
      let s := s.resolveRec w outcome repair
      let key := dom * 1024 + inst
      s.setWindows ((s.windows.filter (fun v => v.into != key)).map (fun v =>
        if v.dom = dom ∧ v.inst = inst then { v with busy := false, ends := max v.ends (s.ns + holdNs dom) } else v))

/-- The fault of an instance whose self-test is due: that of its recovery, or of its folded one not yet tested, else the oldest without a window. -/
def State.testFault (s : State) (dom inst : Nat) : Option Window :=
  let bare := s.tests.find? (fun w => w.dom == dom && w.inst == inst)
  match s.window dom inst with
  | some w => if w.busy || (w.into != 0 && !w.tested) then some w else bare
  | none => bare

/-- A fault without a window becomes CONTAINED by its outcome (R572): it opens or meets the window of its instance; `busy` says whether its recovery
goes on. -/
def State.contain (s : State) (w : Window) (busy : Bool) : State :=
  let s := { s with tests := s.tests.filter (fun (v : Window) => v.seq != w.seq) }
  match s.ancestor 3 w.dom w.inst with
  | some key => if busy then ((s.resolveRec w 6 0).bump Reg.fltSteps 31 0 1).keepFault w key else s
  | none =>
    match s.window w.dom w.inst with
    | none => if busy then s.openWindow { w with busy := true } else s.setWindows (s.windows ++ [{ w with ends := s.ns + holdNs w.dom }])
    | some v =>
      let s := s.climb 4 w.cls w.dom w.inst v.seq w.seq
      match s.ancestor 3 w.dom w.inst with
      | some key => if busy then s.keepFault w key else s
      | none => s

/-- Is an outcome of severity CONTAINED (Table 19.11)? -/
def containedOutcome (outcome : Nat) : Bool := outcome != 1 && outcome != 6 && outcome != 7

/-- A fault has its outcome: its recovery ends, or the folded or windowless one is resolved by its record. -/
def State.settleFault (s : State) (w : Window) (outcome : Nat) (repair : Word) : State :=
  if w.busy then s.resolve w.dom w.inst outcome repair
  else
    let s := s.resolveRec w outcome repair
    if w.into != 0 then s.setWindows (s.windows.map (fun v => if v.dom = w.dom ∧ v.inst = w.inst then { v with tested := true } else v))
    else if containedOutcome outcome then s.contain w false
    else s

/-- A targeted self-test ends (R587): the fourth TRANSIENT outcome of an instance within 3,600 s is LASTING, located when all four named one repairable
element (R588); FLT_STCNT counts it by its final outcome (R632). `elem` is the element that the detection names. -/
def State.selfTest (s : State) (dom inst : Nat) (elem : Option Nat) (out : SelfTest) : SelfTest × State :=
  let key := dom * 1024 + inst
  let recent := s.transients.filter (fun t => decide (s.ns < t.2.1 + 3600000000000))
  let mine := recent.filter (fun t => t.1 == key)
  let e := match elem with
    | some k => k + 1
    | none => 0
  let final := match out with
    | .transient =>
      if mine.length < 3 then SelfTest.transient
      else match elem with
        | some k => if mine.all (fun t => t.2.2 == e) then .located k else .unlocated
        | none => .unlocated
    | o => o
  let s := s.bump Reg.fltStcnt 63 32 1
  if final = .transient then (final, ({ s with transients := recent ++ [(key, s.ns, e)] } : State).bump Reg.fltStcnt 31 16 1)
  else (final, ({ s with transients := recent.filter (fun t => t.1 != key) } : State).bump Reg.fltStcnt 15 0 1)

/-- A counted detection (R570): the 16th on one element within 1 s forms a DETECT record of severity RECOVERED. -/
def State.countDet (s : State) (elem : Nat) (f : FaultIn) : State :=
  let recent := s.counted.filter (fun c => decide (s.ns < c.2 + 1000000000))
  let n := (recent.filter (fun c => c.1 == elem)).length + 1
  if n = 16 then ({ s with counted := recent.filter (fun c => c.1 != elem) } : State).detect { f with sev := 1 }
  else { s with counted := recent ++ [(elem, s.ns)] }

/-- The record of a map-out that no recovery reports: a channel that fails its training or its wipe (R368, R458, R565). -/
def State.outRecord (s : State) (inst : Nat) (r : Word) : State :=
  s.form { cls := 2, sev := 2, rtype := 3, det := 0, dom := 2, inst := inst, outcome := 4, repair := r }

/-! ### Agents -/

/-- May the rigging cores alone arm this injection, and is the agent one of them? -/
def isRig (a : Agent) : Bool := a == .rig

end Sys2Proof.Machine
end

