-- ==== Sys2Proof/Machine/Access.lean ====
section
/-! DEFINITION. Memory: regions and populated addresses (R10 to R13, R436), the tier map's placement of first writes (R448), engine reads and
writes with the directory (R414, R415) and the units' conditions (R390 to R392, R625), and the MSC counters. -/

namespace Sys2Proof.Machine

/-- Regions of Table 0.4. -/
inductive Region where
  | hbm
  | deep
  | host
  | tile (die bank : Nat)
  | control
  | nowhere
  deriving DecidableEq, Repr

/-- The region of an address; in the tile stores, the die and the bank (R24; banks 56 to 63 are unpopulated). -/
def region (a : Nat) : Region :=
  if a < 2 ^ 40 then .hbm
  else if a < 2 ^ 41 then .deep
  else if a < 2 ^ 42 then .host
  else if 0x080000000000 ≤ a ∧ a < 0x080080000000 then
    .tile ((a - 0x080000000000) / 0x20000000) ((a - 0x080000000000) % 0x20000000 / 0x800000)
  else if 0x0F0000000000 ≤ a ∧ a < 0x0F0008000000 then .control
  else .nowhere

/-- First address of the host-window region. -/
def hostBase : Nat := 2 ^ 41

/-- Why a request fails. `trans` is a translation made while an op runs (R260, R462), `classA` a class A detection, `wait` a request that waits
(R501), `room` a first write for which no tier has room (R448). -/
inductive Fail where
  | addr
  | trans
  | data
  | classA
  | lost (link : Nat)
  | wait
  | room
  deriving DecidableEq, Repr

/-- Name number of the group of an address: bits 40:21. -/
def groupOf (a : Nat) : Nat := a / 2 ^ 21

/-- The tier-map entry of a group (Table 14.9). -/
def State.tir (s : State) (g : Nat) : Word := s.rd (Reg.tirMap g)

/-- Set a tier-map entry. -/
def State.setTir (s : State) (g : Nat) (w : Word) : State := s.wr (Reg.tirMap g) w

/-- The tier-map entries that are not all zero: (group, entry). -/
def State.tirEntries (s : State) : List (Nat × Word) :=
  (s.regs.filter (fun p => decide (0x0F0004000000 ≤ p.1) && decide (p.1 < 0x0F0004800000))).map
    (fun p => ((p.1 - 0x0F0004000000) / 8, p.2))

/-- The bias entry that serves a window page (R497): index and first word; a valid one first, else a SHARED-invalid one. -/
def State.bias? (s : State) (wpage : Nat) : Option (Nat × Word) :=
  let es := s.regs.filter (fun p => decide (0x0F0005000000 ≤ p.1) && decide (p.1 < 0x0F0005100000) && p.1 % 16 == 0 &&
    (bit p.2 63 || bit p.2 60) && bits (s.rd (p.1 + 8)) 19 0 == wpage)
  match es.find? (fun p => bit p.2 63) with
  | some p => some ((p.1 - 0x0F0005000000) / 16, p.2)
  | none => match es with
    | [] => none
    | p :: _ => some ((p.1 - 0x0F0005000000) / 16, p.2)

/-- Where a host-window address is served: link, bus address, DEVICE or SHARED; or why not (R436, R501, R513, link down). A link without
CXL.cache serves every page as a DEVICE page (R492). -/
def State.hostAt (s : State) (a : Nat) : Except Fail (Nat × Nat × Bool) :=
  match s.bias? ((a - hostBase) / 2 ^ 21) with
  | none => .error .addr
  | some (_, w) =>
    let link := bits w 61 61
    if bit w 59 then .error .wait
    else if !bit w 63 then .error (.lost link)
    else if s.fld (Reg.hlkStat link) 1 0 < 2 then .error (.lost link)
    else .ok (link, bits w 51 21 * 2 ^ 21 + a % 2 ^ 21, bit w 62 || !s.flag (Reg.hlkStat link) 4)

/-- Is the address populated (Table 14.1)? -/
def State.populated (s : State) (a : Nat) : Bool :=
  match region a with
  | .hbm => decide (a < s.fld Reg.hbcCap 10 0 * 2 ^ 30)
  | .deep => true
  | .host => (s.bias? ((a - hostBase) / 2 ^ 21)).isSome
  | .tile d b => decide (b < 56) && !s.bankOut.get (fun _ => false) (56 * d + b)
  | .control => inRegBlock a
  | .nowhere => false

/-! ### Bytes -/

/-- A byte of the memory behind the slices and tile stores. -/
def State.byte (s : State) (a : Nat) : Byte := s.mem.get Memory.unlisted a

/-- The directory entry of the line at `a`. -/
def State.line (s : State) (a : Nat) : Option Line := s.dirLines.get (fun _ => none) (a / 64)

/-- The copy in M or O of a line, if any. -/
def Line.dirty (l : Line) : Option Copy := l.copies.find? (fun c => c.st == .m || c.st == .o)

/-- A byte as an engine reads it: the dirty copy's, which Table 13.3 writes back first, else the memory's. -/
def State.seen (s : State) (a : Nat) : Byte :=
  match s.line a with
  | some l => match l.dirty with
    | some c => c.bytes.getD (a % 64) 0
    | none => s.byte a
  | none => s.byte a

/-- A byte of host memory. -/
def State.hostByte (s : State) (link hpa : Nat) : Byte :=
  match s.hostMem.get (fun _ => none) (link * 2 ^ 52 + hpa) with
  | some b => b
  | none => Config.hostByte link hpa

/-- The condition of the unit that holds an address. -/
def State.mark (s : State) (a : Nat) : Mark := s.marks.get (fun _ => .good) (a / 64)

/-- Does a dirty poisoned copy cover the address (R426)? -/
def State.poisonedCopy (s : State) (a : Nat) : Bool :=
  match s.line a with
  | some l => match l.dirty with
    | some c => c.poison
    | none => false
  | none => false

/-- Read one byte as an engine does, or fail. -/
def State.readByte (s : State) (a : Nat) : Except Fail Byte :=
  if !s.populated a then .error .addr
  else
    match region a with
    | .hbm | .deep =>
      match s.mark a with
      | .poison => .error .data
      | .badCrc => .error .classA
      | .good => if s.poisonedCopy a then .error .data else .ok (s.seen a)
    | .tile _ _ =>
      match s.mark a with
      | .good => .ok (s.byte a)
      | .poison => .error .data
      | .badCrc => .error .classA
    | .host =>
      match s.hostAt a with
      | .error e => .error e
      | .ok (link, hpa, _) => if s.poisonedCopy a then .error .data else
        match s.line a with
        | some _ => .ok (s.seen a)
        | none => .ok (s.hostByte link hpa)
    | _ => .error .addr

/-- Read `n` bytes from `a`. -/
def State.readMem (s : State) (a : Nat) : Nat → Except Fail (List Byte)
  | 0 => .ok []
  | n + 1 =>
    match s.readByte a with
    | .error e => .error e
    | .ok b =>
      match s.readMem (a + 1) n with
      | .error e => .error e
      | .ok bs => .ok (b :: bs)

/-- Read `n` 64-bit words from `a`. -/
def State.readWords (s : State) (a : Nat) : Nat → Except Fail (List Word)
  | 0 => .ok []
  | n + 1 =>
    match s.readMem a 8 with
    | .error e => .error e
    | .ok bs =>
      match s.readWords (a + 8) n with
      | .error e => .error e
      | .ok ws => .ok (BitVec.ofNat 64 (ofBytes bs) :: ws)

/-! ### HELD bits and lines (R414) -/

/-- The HELD bit of a group: the directory holds an entry for one of its lines. -/
def State.syncHeld (s : State) (a : Nat) : State :=
  match region a with
  | .hbm | .deep =>
    let g := groupOf a
    let h := s.dirLines.any (fun p => p.1 / 2 ^ 15 == g && p.2.isSome)
    s.setTir g (putBits (s.tir g) 59 59 (b2n h))
  | _ => s

/-- Set or drop a directory entry. -/
def State.setLine (s : State) (a : Nat) (l : Option Line) : State :=
  ({ s with dirLines := s.dirLines.set (fun _ => none) (a / 64) l } : State).syncHeld a

/-- Is the group of an address class A (Table 14.9, bit 61)? -/
def State.isClassA (s : State) (a : Nat) : Bool := bit (s.tir (groupOf a)) 63 && bit (s.tir (groupOf a)) 61

/-- Set the condition of a unit. -/
def State.setMark (s : State) (a : Nat) (m : Mark) : State :=
  { s with marks := s.marks.set (fun _ => .good) (a / 64) m }

/-- Write bytes to the memory with no further effect. -/
def State.poke (s : State) (a : Nat) (bs : List Byte) : State :=
  { s with mem := s.mem.setRun Memory.unlisted a bs }

/-- Write bytes to host memory. -/
def State.pokeHost (s : State) (link hpa : Nat) (bs : List Byte) : State :=
  { s with hostMem := s.hostMem.setRun (fun _ => none) (link * 2 ^ 52 + hpa) (bs.map some) }

/-- The 64 bytes of a copy. -/
def Copy.lineBytes (c : Copy) : List Byte := (List.range 64).map (fun i => c.bytes.getD i 0)

/-- Write a dirty copy back to its home (R410, R426): to a host page at its bus address, else to the slice; a poisoned one poisons the
unit, with a failing CRC in class A. -/
def State.writeBack (s : State) (a : Nat) (c : Copy) : State :=
  let a := a / 64 * 64
  match region a with
  | .host =>
    match s.hostAt a with
    | .ok (link, hpa, _) => s.pokeHost link hpa c.lineBytes
    | .error _ => s
  | _ =>
    let s := s.poke a c.lineBytes
    s.setMark a (if c.poison then (if s.isClassA a then .badCrc else .poison) else .good)

/-- An engine write reaches a line: every copy goes, a dirty one is written back first when the write covers less than the line (Table
13.3); a reservation on the line is lost. -/
def State.dropLine (s : State) (a : Nat) (whole : Bool) : State :=
  match s.line a with
  | none => s
  | some l =>
    let s := match l.dirty with
      | some c => if whole then s else s.writeBack a c
      | none => s
    let s := s.setLine a none
    { s with lr := s.lr.filter (fun p => p.2 != a / 64 + 1) }

/-- The lines of a byte range, dropped. -/
def State.dropLines (s : State) (a n : Nat) : Nat → State
  | 0 => s
  | k + 1 =>
    let l := (a / 64 + k) * 64
    (s.dropLines a n k).dropLine l (decide (a ≤ l) && decide (l + 64 ≤ a + n))

/-! ### First writes (R448) -/

/-- What a write needs to know of its object and hint to place a group. -/
structure Wr where
  pclass : Nat
  fmt    : Nat
  pref   : Nat := 0
  tier   : Nat := 0          -- hint TIER
  mask   : Nat := 0          -- hint STACKMASK
  strict : Bool := false
  uu     : Bool := false     -- a master, state or working copy (R330)
  wins   : List (Nat × Nat × Nat) := []   -- the op's write-hint windows (R419)
  owner  : Option (Nat × Nat × Nat) := none   -- the op whose data write it is: queue, serial, and its message's mark (R65)
  deriving DecidableEq, Repr

/-- A write of a class that no object or hint governs. -/
def Wr.plain (pclass : Nat) : Wr := { pclass := pclass, fmt := 0 }

/-- Channels of a stack in service: 16 less those mapped out (R369). -/
def State.channels (s : State) (n : Nat) : Nat :=
  16 - (List.range 16).foldl (fun a c => a + s.fld (Reg.hbcStat n) (48 + c) (48 + c)) 0

/-- Slots taken in a stack. -/
def State.slotsUsed (s : State) (n : Nat) : List Nat :=
  (s.tirEntries.filter (fun p => bit p.2 63 && !bit p.2 62 && bits p.2 49 46 == n)).map (fun p => bits p.2 45 31)

/-- Free slots of a stack; none on a retired one. -/
def State.slotsFree (s : State) (n : Nat) : Nat :=
  if s.flag (Reg.hbcStat n) 3 then 0 else 2048 * s.channels n - (s.slotsUsed n).length

/-- Is a stack in service for placement: not retired, and no channel draining (Table 12.9)? -/
def State.stackIn (s : State) (n : Nat) : Bool :=
  !s.flag (Reg.hbcStat n) 3 && s.flag (Reg.hbcStat n) 1 && s.fld (Reg.hbcStat n) 47 32 == 0

/-- The permitted stack with the most free slots, lowest number on a tie. -/
def State.bestStack (s : State) (ok : Nat → Bool) : Option Nat :=
  (List.range 16).foldl (fun b n =>
    if ok n && decide (0 < s.slotsFree n) then
      match b with
      | none => some n
      | some m => if s.slotsFree m < s.slotsFree n then some n else some m
    else b) none

/-- The lowest number not in a list. -/
def lowestFree (used : List Nat) : Nat → Nat → Nat
  | 0, k => k
  | f + 1, k => if used.contains k then lowestFree used f (k + 1) else k

/-- Does a STRICT mask name only stacks out of service (R103)? -/
def State.maskDead (s : State) (w : Wr) : Bool :=
  w.strict && w.mask != 0 && !(List.range 16).any (fun n => decide (w.mask / 2 ^ n % 2 = 1) && s.stackIn n)

/-- The stack for a group of this writer, if HBM has room. -/
def State.hbmStack (s : State) (w : Wr) : Option Nat :=
  let base := fun n => s.stackIn n && (!w.uu || s.flag (Reg.uuStat n) 1)
  let inMask := fun n => w.mask == 0 || decide (w.mask / 2 ^ n % 2 = 1)
  if w.strict && !s.maskDead w then s.bestStack (fun n => base n && inMask n)
  else
    match s.bestStack (fun n => base n && inMask n) with
    | some n => some n
    | none => s.bestStack base

/-- Where an op keeps, for an unassigned group, the group of its master that decides the stack of its first write, plus 1 (R321). -/
def steerKey (g : Nat) : Nat := 2 ^ 34 + g

/-- The stack to which an APPLY taken in steers the first write of a group (R321): that of the master block which the group covers, once that is placed. -/
def State.steered (s : State) (g : Nat) : Option Nat :=
  s.ops.findSome? (fun o =>
    match o.aux.get (fun _ => 0) (steerKey g) with
    | 0 => none
    | m + 1 =>
      let e := s.tir m
      let n := bits e 49 46
      if o.phase != .ended && bit e 63 && !bit e 62 && s.stackIn n && s.flag (Reg.uuStat n) 1 && decide (0 < s.slotsFree n) then some n else none)

/-- Sectors of a whole group stored RAW with its erasure sectors: the room a group needs in the deep tier (R455). -/
def groupSectors : Nat := 32 * 19

/-- Has the deep tier room for a group? -/
def State.deepRoom (s : State) : Bool := decide (groupSectors ≤ s.fld Reg.tirDfree 27 0)

/-- Place a group in HBM. -/
def State.placeHbm (s : State) (g n : Nat) (w : Wr) (pin : Nat) : State :=
  let slot := lowestFree (s.slotsUsed n) (2048 * 16) 0
  let e := word [(63, 1), (61, w.pclass % 2), (59, bits (s.tir g) 59 59), (57, pin), (50, w.fmt), (46, n), (31, slot)]
  (s.setTir g e).put Reg.tirHfree 19 0 (s.fld Reg.tirHfree 19 0 - 1)

/-- Place a group in the deep tier. -/
def State.placeDeep (s : State) (g : Nat) (w : Wr) (pin : Nat) : State :=
  s.setTir g (word [(63, 1), (62, 1), (61, w.pclass % 2), (59, bits (s.tir g) 59 59), (57, pin), (50, w.fmt)])

/-- Place an unassigned group for its first write (Table 14.5), or refuse for want of room (R437). A STRICT STACKMASK that names no stack in service is counted
in RIG_HINTMISS for each group placed, in whichever tier; R103 does not say how often (DESIGN CHOICE, log entry 154). -/
def State.placeGroup (s : State) (g : Nat) (w : Wr) : Except Fail State :=
  let s := if s.maskDead w then s.bump Reg.hintMiss 63 0 1 else s
  let wantDeep := w.pref = 2 ∨ w.pref ≠ 1 ∧ w.tier = 2
  let pin := if w.pref = 1 then 1 else if w.pref = 2 then 2 else 0
  let miss := fun (t : State) => if pin = 0 then t else t.bump Reg.tirMig 31 16 1
  match s.steered g with
  | some n => .ok (if pin = 2 then miss (s.placeHbm g n w pin) else s.placeHbm g n w pin)
  | none =>
    if wantDeep then
      if s.deepRoom then .ok (s.placeDeep g w pin)
      else
        match s.hbmStack w with
        | some n => .ok (miss (s.placeHbm g n w pin))
        | none => .error .room
    else
      match s.hbmStack w with
      | some n => .ok (s.placeHbm g n w pin)
      | none => if s.deepRoom then .ok (miss (s.placeDeep g w pin)) else .error .room

/-- TIR_STAT.NOROOM counts a refused first write (R448). -/
def State.noRoom (s : State) : State := s.bump Reg.tirStat 63 32 1

/-- Before a write is accepted in a group of HBM or the deep tier: place it, or check its class (R447, R448). -/
def State.openGroup (s : State) (g : Nat) (w : Wr) : Except Fail State :=
  let e := s.tir g
  if !bit e 63 then s.placeGroup g w
  else if bits e 61 61 = w.pclass % 2 then .ok s else .error .addr

/-! ### The tier codec (R455) -/

/-- The address of chunk k of a group. -/
def chunkAt (g k : Nat) : Nat := g * 2 ^ 21 + k * 2 ^ 16

/-- The bytes of the mode in which the codec stores a chunk, and whether it is RAW (Table 14.8); RAW where PLANE saves no sector. -/
def State.chunkMode (s : State) (g k : Nat) : Nat × Bool :=
  let lo := chunkAt g k
  let bytes := s.mem.filter (fun p => decide (lo ≤ p.1) && decide (p.1 < lo + 2 ^ 16))
  let fmt := bits (s.tir g) 55 50
  let raw := 65536
  let planes := if fmt = fFP32 ∨ fmt = fBF16 ∨ fmt = fFP16 then min raw (Config.planeBytes fmt (bytes.map Prod.snd)) else raw
  if bytes.isEmpty then (0, false) else (planes, decide (ceilDiv planes 4032 = ceilDiv raw 4032))

/-- Sectors of a chunk as the codec stores it. -/
def State.chunkSectors (s : State) (g k : Nat) : Nat :=
  let lo := chunkAt g k
  let e := s.tir g
  let tiles := (s.tags.filter (fun p => decide (lo ≤ p.1) && decide (p.1 < lo + 2 ^ 16))).length
  let b := (s.chunkMode g k).1 + (if bit e 61 then 32 * tiles else 0)
  ceilDiv b 4032 + (if !bit e 61 && decide (0 < b) then 2 else 0)

/-- Store a deep-tier group again: SECTORS and TIR_DFREE follow (R455), the codec counters count the chunks `ks`. -/
def State.recode (s : State) (g : Nat) (ks : List Nat) : State :=
  let e := s.tir g
  if bit e 63 && bit e 62 then
    let sec := (List.range 32).foldl (fun a k => a + s.chunkSectors g k) 0
    let raws := (ks.filter (fun k => (s.chunkMode g k).2)).length
    let s := s.put Reg.tirDfree 27 0 (s.fld Reg.tirDfree 27 0 + bits e 30 21 - sec)
    ((s.setTir g (putBits e 30 21 sec)).bump Reg.tirCodec 63 32 ks.length).bump Reg.tirCodec 31 0 raws
  else s

/-- The chunks of a group that a range of bytes touches. -/
def chunksIn (g a n : Nat) : List Nat := (List.range 32).filter (fun k => decide (chunkAt g k < a + n) && decide (a < chunkAt g (k + 1)))

/-- What a write of `n` bytes from `a` does to each group it touches. -/
def State.eachGroup (s : State) (a n : Nat) (f : State → Nat → State) : State :=
  (List.range (groupOf (a + n - 1) + 1 - groupOf a)).foldl (fun s k => f s (groupOf a + k)) s

/-- Store the groups of a range again after a write; `told`: count the chunks it touches. -/
def State.recodeRange (s : State) (a n : Nat) (told : Bool) : State :=
  s.eachGroup a n (fun s g => s.recode g (if told then chunksIn g a n else []))

/-- A write accepted on a moving group marks its chunks to be copied again (Table 14.6). -/
def State.markGroup (s : State) (a n g : Nat) : State :=
  if bit (s.tir g) 60 then
    let ks := chunksIn g a n
    { s with migs := s.migs.map (fun m => if m.group = g then { m with mark := (m.mark.filter (fun k => !ks.contains k)) ++ ks } else m) }
  else s

/-- The marks of every group that a write touches. -/
def State.markMoving (s : State) (a n : Nat) : State := s.eachGroup a n (fun s g => s.markGroup a n g)

/-! ### Engine writes -/

/-- Count the lines a request touches at the slice that serves it (Table 12.14, MSC_HITS). The slice is the stack's, or the hub's. -/
def State.mscCount (s : State) (a n : Nat) : State :=
  match region a with
  | .hbm | .deep =>
    let e := s.tir (groupOf a)
    if bit e 63 && !s.mscOut.get (fun _ => false) (if bit e 62 then 16 else bits e 49 46) then
      let slice := if bit e 62 then 16 else bits e 49 46
      let lines := (a + n + 255) / 256 - a / 256
      let h := Config.mscHits s.free lines % (lines + 1)
      let s := (s.bump (Reg.mscHits slice) 63 32 h).bump (Reg.mscHits slice) 31 0 (lines - h)
      { s with free := s.free + 1 }
    else s
  | _ => s

/-- The target of the window of lowest index that covers an address (R419): a core, or 64 for the L3. -/
def hintTarget (wins : List (Nat × Nat × Nat)) (a : Nat) : Option Nat :=
  (wins.find? (fun w => decide (w.2.1 ≤ a / 4096) && decide (a / 4096 ≤ w.2.2))).map Prod.fst

/-- Is every way of the set of a line held in a core's L2 (R412)? Its 1 MiB in 16 ways is 1,024 sets, told by the low bits of the line's address
(PRESUMED, log entry 162). -/
def State.setHeld (s : State) (core l : Nat) : Bool :=
  decide (16 ≤ (s.dirLines.filter (fun e => e.1 % 1024 == l % 1024 && match e.2 with
    | some x => x.copies.any (fun c => c.core == core && c.hold)
    | none => false)).length)

/-- Install line `l` (an address ÷ 64), just written whole, in the target of its window, clean (R420); nothing while the domain does not run, and dropped
where every way of its set is held. -/
def State.install (s : State) (wins : List (Nat × Nat × Nat)) (l : Nat) : State :=
  match hintTarget wins (64 * l) with
  | none => s
  | some t =>
    if s.fld Reg.cdstat 1 0 ≠ 0 then s
    else if t < 64 ∧ s.setHeld t l = true then s.bump Reg.cdcnt 31 16 1
    else
      let bs := match region (64 * l) with
        | .host => match s.hostAt (64 * l) with
          | .ok (link, hpa, _) => (List.range 64).map (fun i => s.hostByte link (hpa + i))
          | .error _ => List.replicate 64 0
        | _ => (List.range 64).map (fun i => s.byte (64 * l + i))
      (s.setLine (64 * l) (some ⟨.shared, [⟨t, .s, bs, false, false, false⟩]⟩)).bump Reg.cdcnt 63 32 1

/-- Install the lines that a hinted write of `n` bytes covers whole. -/
def State.installRange (s : State) (wins : List (Nat × Nat × Nat)) (a n : Nat) : State :=
  if wins.isEmpty then s else (List.range ((a + n) / 64 - (a + 63) / 64)).foldl (fun s k => s.install wins ((a + 63) / 64 + k)) s

/-- Units of a range: those a write covers whole lose their condition; a unit it covers in part keeps it (R625). -/
def State.clearMarks (s : State) (a n : Nat) : State :=
  { s with marks := s.marks.clear ((a + 63) / 64) ((a + n) / 64) }

/-- Open every group of a range for a write. -/
def State.openRange (s : State) (w : Wr) (g : Nat) : Nat → Except Fail State
  | 0 => .ok s
  | k + 1 =>
    match s.openGroup g w with
    | .error e => .error e
    | .ok s => s.openRange w (g + 1) k

/-- Write bytes to host memory for a writer: the data write of an op is issued, and stays out until it is visible (R65); what the host held is kept, for
a write that is dropped was never made (R69, R512). -/
def State.issueHost (s : State) (w : Wr) (link hpa : Nat) (dev : Bool) (bs : List Byte) : State :=
  let s2 := s.pokeHost link hpa bs
  match w.owner with
  | none => s2
  | some (q, sn, msg) =>
    let old := (List.range bs.length).map (fun i => (link * 2 ^ 52 + hpa + i, s.hostMem.get (fun _ => none) (link * 2 ^ 52 + hpa + i)))
    { s2 with hostOut := s.hostOut ++ [⟨q, sn, link, hpa, dev, msg, old⟩] }

/-- Write bytes at consecutive addresses of one region as an engine does: refused whole at an unpopulated address, for want of room or in a
group of the other class; visible once accepted (R374, R415). -/
def State.writeMem (s : State) (w : Wr) (a : Nat) (bs : List Byte) : Except Fail State :=
  let n := bs.length
  if n = 0 then .ok s
  else
    let z := a + n - 1
    if !(s.populated a && s.populated z) then .error .addr
    else
      match region a with
      | .hbm | .deep =>
        match s.openRange w (groupOf a) (groupOf z + 1 - groupOf a) with
        | .error e => .error e
        | .ok s =>
          let s := s.dropLines a n (z / 64 + 1 - a / 64)
          let s := ((s.poke a bs).clearMarks a n).markMoving a n
          .ok (((s.recodeRange a n true).mscCount a n).installRange w.wins a n)
      | .tile _ _ => .ok ((s.poke a bs).clearMarks a n)
      | .host =>
        match s.hostAt a with
        | .error e => .error e
        | .ok (link, hpa, dev) =>
          let s := s.dropLines a n (z / 64 + 1 - a / 64)
          .ok ((s.issueHost w link hpa dev bs).installRange w.wins a n)
      | _ => .error .addr

/-- Write zero to `n` bytes from `a` in HBM, the deep tier or a tile store, as one write. -/
def State.zeroMem (s : State) (w : Wr) (a n : Nat) : Except Fail State :=
  if n = 0 then .ok s
  else
    let z := a + n - 1
    if !(s.populated a && s.populated z) then .error .addr
    else
      match region a with
      | .hbm | .deep =>
        match s.openRange w (groupOf a) (groupOf z + 1 - groupOf a) with
        | .error e => .error e
        | .ok s =>
          let s := { s with dirLines := s.dirLines.clear ((a + 63) / 64) ((a + n) / 64) }
          let s := (s.dropLine a false).dropLine z false
          let s := ({ s with mem := s.mem.clear a (a + n) } : State).clearMarks a n
          .ok ((((s.markMoving a n).recodeRange a n false).mscCount a n).installRange w.wins a n)
      | .tile _ _ => .ok (({ s with mem := s.mem.clear a (a + n) } : State).clearMarks a n)
      | .host => s.writeMem w a (List.replicate n 0)
      | _ => .error .addr

/-- The record of an address error, and its count (R437, Table 14.11). -/
def State.addrRecord (s : State) (a : Nat) (op : Option (Nat × Nat × Nat)) : State :=
  (s.bump Reg.trnCnt 31 0 1).event 7 0x70 { cls := 7, sev := 0, rtype := 3, det := 0x70, addr := a, op := op }

/-- The record of an access that fails by its address (R437); bad data that an op meets was recorded where it was found (R391). -/
def State.failRecord (s : State) (f : Fail) (a : Nat) (op : Option (Nat × Nat × Nat)) : State :=
  match f with
  | .addr => s.addrRecord a op
  | .room => s.noRoom.addrRecord a op
  | _ => s

/-! ### Errors that a read finds (R390, R391, R393) -/

/-- The pseudo-channels of a stack in service, in ascending order of 2 · channel + half (R369). -/
def State.pcList (s : State) (n : Nat) : List Nat :=
  (((List.range 16).filter (fun c => s.fld (Reg.hbcStat n) (48 + c) (48 + c) == 0)).map (fun c => [2 * c, 2 * c + 1])).flatten

/-- The pseudo-channel of an address whose group lies in HBM: 256-byte unit u of slot g lies on list entry (u + g) mod N (R369). -/
def State.pcOf (s : State) (a : Nat) : Nat :=
  let e := s.tir (groupOf a)
  let l := s.pcList (bits e 49 46)
  l.getD ((a / 256 % 8192 + bits e 45 31) % l.length) 0

/-- The memory channel of an address (Table 19.3): HBM 16 · stack + channel, deep tier 256 + channel (R455), a tile-store bank 512 + 56 · die + bank. -/
def State.memInst (s : State) (a : Nat) : Nat :=
  match region a with
  | .tile d b => 512 + 56 * d + b
  | _ =>
    let e := s.tir (groupOf a)
    if bit e 62 then 256 + (a / 2 ^ 16 % 32 + groupOf a) % 16 else 16 * bits e 49 46 + s.pcOf a / 2

/-- INFO of a memory record: pseudo-channel and row in HBM, else 0 (Table 19.7). -/
def State.memInfo (s : State) (a : Nat) : Nat :=
  match region a with
  | .tile _ _ => 0
  | _ => if bit (s.tir (groupOf a)) 62 then 0 else s.pcOf a * 2 ^ 24 + (Config.hbmRow a).toNat

/-- A read finds `n` wrong symbols in the unit at `a`: class W is corrected and counted, or poisoned with a record (R390, R391); class A makes its CRC
fail (R393). One symbol, or four, on a pseudo-channel with that injection armed is the injected error (R404). Eight symbols of a poisoned unit differ from
its code word already (R391). `op` is the op that reads. -/
def State.unitError (s : State) (op : Option (Nat × Nat × Nat)) (a n : Nat) : State :=
  let e := s.tir (groupOf a)
  let st := bits e 49 46
  match region a with
  | .hbm | .deep =>
    if n = 0 ∨ !bit e 63 then s
    else if bit e 61 then s.setMark a .badCrc
    else
      let m := if s.mark a = .poison then n + 8 else n
      let miss := decide (6 ≤ m) && !Config.detects s.free a
      let (inj, s) := if bit e 62 then (false, s) else if n = 1 then s.takeInj (Reg.hbcInj st) 1 (s.pcOf a)
        else if n = 4 then s.takeInj (Reg.hbcInj st) 2 (s.pcOf a) else (false, s)
      let f : FaultIn := { cls := 2, sev := 1, rtype := 0, det := 0x20, inj := inj, dom := 2, inst := s.memInst a, addr := a / 64 * 64, op := op,
                           info := s.memInfo a }
      if m ≤ 3 then
        (if bit e 62 then s else s.bump (Reg.hbcErrcnt st) 63 48 1).detect f
      else if miss then
        let s := s.poke (a / 64 * 64) ((List.range 64).map (fun i => Config.freeByte s.free (a / 64 * 64 + i)))
        (({ s with free := s.free + 1 } : State).setMark a .good).detect f
      else
        let s := if bit e 62 then s else (s.bump (Reg.hbcErrcnt st) 47 32 1).bump (Reg.hbcErrcnt st) 15 0 1
        (s.setMark a .poison).detect { f with det := 0x21, sev := 2 }
  | _ => s

/-- The errors of a read, in order: (unit address, wrong symbols). -/
def State.unitErrors (s : State) (op : Option (Nat × Nat × Nat)) : List (Nat × Nat) → State
  | [] => s
  | p :: ps => (s.unitError op p.1 p.2).unitErrors op ps

/-- Has one of these units just been found uncorrectable, with its record? -/
def State.told (s : State) (errs : List (Nat × Nat)) : Bool := errs.any (fun e => decide (0 < e.2) && s.mark e.1 == .poison)

/-- The record of a read that Ponum's rings and take-in fail on (R49, R620, R631): of the memory class where it meets bad data. A unit found bad by
this very read (`told`) has its record; a class A detection counts as uncorrectable. -/
def State.readRecord (s : State) (f : Fail) (a : Nat) (op : Option (Nat × Nat × Nat)) (told : Bool) : State :=
  match f with
  | .data => if told then s else s.event 2 0x21 { cls := 2, sev := 0, rtype := 3, det := 0x21, addr := a, op := op }
  | .classA =>
    let deep := bit (s.tir (groupOf a)) 62
    let st := bits (s.tir (groupOf a)) 49 46
    let s := if deep then s.bump (Reg.dtcErrcnt (s.memInst a - 256)) 31 16 1 else s.bump (Reg.hbcErrcnt st) 31 16 1
    s.detect { cls := 2, sev := 2, rtype := 0, det := if deep then 0x28 else 0x22, dom := 2, inst := s.memInst a, addr := a, op := op,
               info := s.memInfo a }
  | f => s.failRecord f a op

/-! ### Atomics (R377 to R379) -/

/-- The slice that serves an address: its group's stack, or 16 for the hub slice. -/
def State.sliceOf (s : State) (a : Nat) : Nat :=
  match region a with
  | .hbm | .deep => let e := s.tir (groupOf a); if bit e 62 then 16 else bits e 49 46
  | _ => 16

/-- An atomic on a word of `n` bytes: the old value and the state after it; a unit that holds bad data refuses it (R379). `flt` counts it as one of
FADD32 and FADD64. -/
def State.atomicAt (s : State) (a n : Nat) (flt : Bool) (f : Nat → Nat) (owner : Option (Nat × Nat × Nat) := none) : Except Fail (Nat × State) :=
  match s.readMem a n with
  | .error .classA => .error .data
  | .error e => .error e
  | .ok bs =>
    let old := ofBytes bs
    match s.writeMem { Wr.plain (b2n (s.isClassA a)) with owner := owner } a (bytesOf n (f old)) with
    | .error e => .error e
    | .ok s =>
      let r := Reg.mscAtom (s.sliceOf a)
      .ok (old, (s.bump r 63 32 1).bump r 31 0 (b2n flt))

end Sys2Proof.Machine
end

