-- ==== Sys2Proof/Machine/Operands.lean ====
section
/-! DEFINITION. Operands: the fields of a descriptor (R33), object records (R31, R32), where an object's elements lie (R439 to R444), reading
an element, and writing a tile with its tag (R58, R624). -/

namespace Sys2Proof.Machine

/-! ### The descriptor (Table 2.4) -/

/-- The `n` bits from bit position `lsb`. -/
def Desc.at (d : Desc) (lsb n : Nat) : Nat := d.toNat / 2 ^ lsb % 2 ^ n

def Desc.cls (d : Desc) : Nat := d.at 60 4
def Desc.op (d : Desc) : Nat := d.at 52 8
def Desc.fence (d : Desc) : Bool := d.at 51 1 == 1
def Desc.flagw (d : Desc) : Bool := d.at 50 1 == 1
def Desc.irq (d : Desc) : Bool := d.at 49 1 == 1
def Desc.hint (d : Desc) : Nat := d.at 32 12
def Desc.utag (d : Desc) : Nat := d.at 0 32
def Desc.mb (d : Desc) : Nat := d.at 192 11

/-- Dependency slot k: in use, tile-wise, producer's queue and serial. -/
def Desc.depV (d : Desc) (k : Nat) : Bool := d.at (127 + 64 * k) 1 == 1
def Desc.depTile (d : Desc) (k : Nat) : Bool := d.at (126 + 64 * k) 1 == 1
def Desc.depQ (d : Desc) (k : Nat) : Nat := d.at (116 + 64 * k) 10
def Desc.depS (d : Desc) (k : Nat) : Nat := d.at (64 + 64 * k) 32

/-- The object id in slot k: A, B, C, D. -/
def Desc.obj (d : Desc) (k : Nat) : Nat :=
  match k with
  | 0 => d.at 232 24
  | 1 => d.at 208 24
  | 2 => d.at 296 24
  | _ => d.at 272 24

/-- EXT0 to EXT2. -/
def Desc.ext (d : Desc) (k : Nat) : Nat :=
  match k with
  | 0 => d.at 352 32
  | 1 => d.at 320 32
  | _ => d.at 416 32

/-- PARAM0 to PARAM2. -/
def Desc.par (d : Desc) (k : Nat) : Nat :=
  match k with
  | 0 => d.at 384 32
  | 1 => d.at 480 32
  | _ => d.at 448 32

/-- A descriptor from its eight words, first lowest. -/
def descOf (ws : List Word) : Desc := BitVec.ofNat 512 (ofBytes (wordBytes ws))

/-- A field of a record of words: bits hi:lo of word k. -/
def recAt (ws : List Word) (k hi lo : Nat) : Nat := bits (ws.getD k 0) hi lo

/-! ### Objects (Table 2.3) -/

/-- The object of a record, not yet translated. -/
def objOf (id : Nat) (ws : List Word) : Obj :=
  { id := id, seg := recAt ws 0 63 60, off := recAt ws 0 59 16, fmt := recAt ws 0 15 10, pclass := recAt ws 0 9 8,
    rank := recAt ws 0 7 6 + 1, d0 := recAt ws 1 63 32, d1 := recAt ws 1 31 0, d2 := recAt ws 2 63 32, d3 := recAt ws 2 31 0,
    pref := recAt ws 3 63 61, place := .linear 0 }

/-- Planes: DIM2 × DIM3, a dimension beyond the rank counted as 1. -/
def Obj.planes (o : Obj) : Nat := (if o.rank < 3 then 1 else o.d2) * (if o.rank < 4 then 1 else o.d3)

/-- Rows and columns; a rank-1 object is one column. -/
def Obj.rows (o : Obj) : Nat := o.d0
def Obj.cols (o : Obj) : Nat := if o.rank < 2 then 1 else o.d1

/-- Has a dimension of value zero (R36). -/
def Obj.empty (o : Obj) : Bool := o.rows == 0 || o.cols == 0 || o.planes == 0

/-- Elements of an object. -/
def Obj.elems (o : Obj) : Nat := o.rows * o.cols * o.planes

/-- Does a record fail R32, beside its id and its table's place? HIST objects: R132. -/
def badRecord (ws : List Word) : Bool :=
  let o := objOf 0 ws
  !bit (ws.getD 3 0) 60 || (fmtKind o.fmt).isNone || decide (2 ≤ o.pclass) || decide (4 ≤ o.pref) ||
    decide (o.rank < 2) && o.d1 != 0 || decide (o.rank < 3) && o.d2 != 0 || decide (o.rank < 4) && o.d3 != 0 ||
    recAt ws 0 5 0 != 0 || recAt ws 3 59 0 != 0 || decide (2 ^ 29 < o.d0) || decide (2 ^ 29 < o.d1) || decide (65536 < o.planes) ||
    o.fmt == fHIST && (o.rank != 1 || o.off % 64 != 0)

/-- Tiles along rows and columns (R439); a rank-1 object counts runs of 128 elements (R60). -/
def Obj.tr (o : Obj) : Nat := ceilDiv o.rows 128
def Obj.tc (o : Obj) : Nat := ceilDiv o.cols 128

/-- Tiles of an object. -/
def Obj.tiles (o : Obj) : Nat := o.planes * o.tr * o.tc

/-- The number of tile (p, r, c). -/
def Obj.tileNo (o : Obj) (p r c : Nat) : Nat := (p * o.tr + r) * o.tc + c

/-- The coordinates of a tile number. -/
def Obj.tileAt (o : Obj) (t : Nat) : Nat × Nat × Nat := (t / (o.tr * o.tc), t / o.tc % o.tr, t % o.tc)

/-- Valid rows and columns of a tile. -/
def Obj.vrows (o : Obj) (r : Nat) : Nat := min 128 (o.rows - 128 * r)
def Obj.vcols (o : Obj) (c : Nat) : Nat := min 128 (o.cols - 128 * c)

/-- Bytes that an object occupies (R442). -/
def Obj.size (o : Obj) : Nat :=
  if o.rank < 2 then (if o.fmt = fHIST then o.d0 * 1088 else ceilDiv (o.d0 * fmtWidth o.fmt) 8)
  else o.tiles * fmtStride o.fmt

/-- Has the object a layout (R441)? -/
def Obj.laidOut (o : Obj) : Bool :=
  decide (2 ≤ o.rank) || match fmtKind o.fmt with
    | some (.plain _) => true
    | some .hist => true
    | _ => false

/-- The unified address of segment offset `y` (R444). -/
def Place.at : Place → Nat → Nat
  | .linear b, y => b + y
  | .grouped first names, y => names.getD (y / 2 ^ 21 - first) 0 * 2 ^ 21 + y % 2 ^ 21
  | .split p lo hi q, y => if lo ≤ y ∧ y < hi then q.at y else p.at y

/-- Within how many bytes a translation does not jump: a group, or a page where an invalidation has split it. -/
def Place.edge : Place → Nat
  | .split _ _ _ _ => 2 ^ 12
  | _ => 2 ^ 21

/-- The unified address of byte `x` of an object under its captured translation. -/
def Obj.addr (o : Obj) (x : Nat) : Nat := o.place.at (o.off + x)

/-- Cut bytes `x` to `x + n` of an object where its translation may jump: (address, bytes). -/
def Obj.runs (o : Obj) (x n : Nat) : Nat → List (Nat × Nat)
  | 0 => []
  | k + 1 =>
    let room := o.place.edge - (o.off + x) % o.place.edge
    if n ≤ room then [(o.addr x, n)] else (o.addr x, room) :: o.runs (x + room) (n - room) k

/-- The byte offset of a tile in its object. -/
def Obj.tileOff (o : Obj) (p r c : Nat) : Nat :=
  if o.rank < 2 then 16 * fmtWidth o.fmt * r else o.tileNo p r c * fmtStride o.fmt

/-- The address of a tile's first byte, by which its tag is known. -/
def Obj.tileAddr (o : Obj) (p r c : Nat) : Nat := o.addr (o.tileOff p r c)

/-- The bit offset, within its tile, of element (i, j) of the tile (R440, R441). -/
def Obj.bitIn (o : Obj) (i j : Nat) : Nat :=
  if o.rank < 2 then fmtWidth o.fmt * i else fmtWidth o.fmt * elemNo o.fmt i j

/-! ### Reading -/

/-- Read `n` bytes from byte `x` of an object. -/
def State.readObj (s : State) (o : Obj) (x : Nat) : Nat → Except Fail (List Byte)
  | 0 => .ok []
  | n + 1 =>
    match s.readByte (o.addr x) with
    | .error e => .error e
    | .ok b =>
      match s.readObj o (x + 1) n with
      | .error e => .error e
      | .ok bs => .ok (b :: bs)

/-- Read `w` bits from bit `b` of an object. -/
def State.readBits (s : State) (o : Obj) (b w : Nat) : Except Fail Nat :=
  match s.readObj o (b / 8) ((b % 8 + w + 7) / 8) with
  | .error e => .error e
  | .ok bs => .ok (ofBytes bs / 2 ^ (b % 8) % 2 ^ w)

/-- Who reads: its context, and the tile-wise dependencies not yet satisfied, as (producer's queue, serial, object it writes) (R55). -/
structure Reader where
  ctx   : Nat
  waits : List (Nat × Nat × Nat)
  deriving DecidableEq, Repr

/-- Has an APPLY applied or skipped every block of a tile of the master or the working copy that its range holds (R317)? -/
def applyTileDone (p : OpRec) (o : Obj) (pl r c : Nat) : Bool :=
  let first := p.d.par 1
  let b0 := 128 * o.tileNo pl r c
  (List.range (o.vrows r)).all (fun i => decide (b0 + i < first) || decide (first + p.d.ext 0 ≤ b0 + i) || p.done.contains (b0 + i - first))

/-- Has tile (p, r, c) been written by every producer that the reader awaits for this object (R55)? An APPLY writes its tiles block by block (R317). -/
def State.tileReady (s : State) (rd : Reader) (o : Obj) (p r c : Nat) : Bool :=
  rd.waits.all (fun w => w.2.2 != o.id ||
    match s.ops.find? (fun x => x.q == w.1 && x.s == w.2.1 && x.d.cls == 8 && x.d.op == 0) with
    | some x => x.objs.any (fun y => (y.1 == 1 || y.1 == 3) && y.2.id == o.id) && applyTileDone x o p r c
    | none => match s.tags.get (fun _ => none) (o.tileAddr p r c) with
      | some t => t.pq == w.1 && t.ps == w.2.1
      | none => false)

/-- The check of a tile's tag as it is read (R59, R112, R393): in class A a bad TCRC or another identity is a class A detection, in class W a bad TCRC is
bad data, and POISON is in both; no tag, or the null tag, takes the identity of the object record (R392, R438). -/
def State.tagCheck (s : State) (rd : Reader) (o : Obj) (p r c : Nat) : Except Fail Unit :=
  if !s.tileReady rd o p r c then .error .wait
  else if o.pclass ≠ 1 then
    match s.tags.get (fun _ => none) (o.tileAddr p r c) with
    | some t => if t.crcOk && !t.poison then .ok () else .error .data
    | none => .ok ()
  else
    match s.tags.get (fun _ => none) (o.tileAddr p r c) with
    | none => .ok ()
    | some t =>
      if !t.crcOk then .error .classA
      else if t.poison then .error .data
      else if t.ctx = rd.ctx ∧ t.obj = o.id ∧ t.trow = r ∧ t.tcol = c ∧ t.tdep = p ∧ t.fmt = o.fmt then .ok ()
      else .error .classA

/-- The code of element (i, j) of plane p. -/
def State.code (s : State) (rd : Reader) (o : Obj) (p i j : Nat) : Except Fail Nat := do
  let r := i / 128
  let c := j / 128
  let _ ← s.tagCheck rd o p r c
  s.readBits o (8 * o.tileOff p r c + o.bitIn (i % 128) (j % 128)) (fmtWidth o.fmt)

/-- The value of element (i, j) of plane p (R113, R117, R121, R122). -/
def State.val (s : State) (rd : Reader) (o : Obj) (p i j : Nat) : Except Fail Num := do
  let q ← s.code rd o p i j
  let t := o.tileOff p (i / 128) (j / 128)
  match fmtKind o.fmt with
  | some (.plain e) => return e.decode q
  | some .lut4 => return bf16 (← s.readBits o (8 * (t + 8192 + 2 * q)) 16)
  | some k =>
    let side ← s.readBits o (8 * (t + sideAt o.fmt (blockNo o.fmt (i % 128) (j % 128)))) (8 * fmtSide o.fmt)
    return blockValue k side q
  | none => return .nan

/-- A value with the mark of R139: the element, or an element that entered it, is NaN or infinite. -/
abbrev Elt := Num × Bool

/-- An element as an operand. -/
def State.elt (s : State) (rd : Reader) (o : Obj) (p i j : Nat) : Except Fail Elt := do
  let v ← s.val rd o p i j
  return (v, !v.isFin)

/-- Collect a list of reads. -/
def collect {α β : Type} (f : α → Except Fail β) : List α → Except Fail (List β)
  | [] => .ok []
  | x :: xs =>
    match f x with
    | .error e => .error e
    | .ok y =>
      match collect f xs with
      | .error e => .error e
      | .ok ys => .ok (y :: ys)

/-! ### Encoding a tile (R116 to R121, R126) -/

/-- The elements of a tile in a format: conversions by line (a row, or a column where the block axis is the column), side data by block number,
and the blocks written as block NaN. -/
structure TileOut where
  lines : List (List Conv)
  sides : List (Nat × Nat)
  bads  : List Nat
  deriving DecidableEq, Repr

/-- One line's blocks as the tile holds them. -/
def lineOut (per l : Nat) (len : Nat) (bs : List Blk) : TileOut :=
  ⟨[((bs.map Blk.codes).flatten.take len).map (fun c => ⟨c, false, false⟩)],
   (bs.zipIdx).map (fun b => (l * per + b.2, b.1.side)),
   ((bs.zipIdx).filter (fun b => b.1.bad)).map (fun b => l * per + b.2)⟩

/-- Join the lines of a tile. -/
def TileOut.join : List TileOut → TileOut
  | [] => ⟨[], [], []⟩
  | t :: ts => let u := TileOut.join ts; ⟨t.lines ++ u.lines, t.sides ++ u.sides, t.bads ++ u.bads⟩

/-- Encode the valid elements of a tile. `enc` encodes one block, of the line and number given; a block of a line without valid elements has the side
data of a block whose valid elements are all zero. -/
def encodeWith (fmt vr vc : Nat) (rnd : Nat → Nat → Rnd) (sat : Bool) (x : Nat → Nat → Num)
    (enc : Nat → Nat → List Rnd → List (Option Num) → Blk) : TileOut :=
  match fmtKind fmt with
  | some (.plain e) => ⟨(List.range vr).map (fun i => (List.range vc).map (fun j => e.conv (rnd i j) sat (x i j))), [], []⟩
  | some _ =>
    let col := colAxis fmt
    let b := fmtBlk fmt
    let nl := if col then vc else vr
    let len := if col then vr else vc
    let blk := fun l k =>
      let ps := (List.range b).map (fun t => k * b + t)
      enc l k (ps.map (fun p => if col then rnd p l else rnd l p))
        (ps.map (fun p => if p < len then some (if col then x p l else x l p) else none))
    let u := TileOut.join ((List.range nl).map (fun l => lineOut (128 / b) l len ((List.range (128 / b)).map (blk l))))
    let void := (encodeBlock fmt [] (List.replicate b none)).side
    { u with sides := u.sides ++ ((List.range 128).drop nl).flatMap (fun l => (List.range (128 / b)).map (fun k => (128 / b * l + k, void))) }
  | none => ⟨[], [], []⟩

/-- Encode with the scales of R118 and R121. -/
def encodeTile (fmt vr vc : Nat) (rnd : Nat → Nat → Rnd) (sat : Bool) (x : Nat → Nat → Num) : TileOut :=
  encodeWith fmt vr vc rnd sat x (fun _ _ rs vs => encodeBlock fmt rs vs)

/-! ### Writing a tile -/

/-- The bytes of `n` codes of width `w`, packed (R116), as bytes. -/
def packCodes (w : Nat) (cs : List Nat) : List Byte :=
  bytesOf (ceilDiv (w * cs.length) 8) ((cs.foldr (fun c a => c % 2 ^ w + 2 ^ w * a) 0))

/-- A write of `bs` at byte `x` of an object, cut at group edges. -/
def State.writeRuns (s : State) (w : Wr) (bs : List Byte) : List (Nat × Nat) → Except Fail State
  | [] => .ok s
  | (a, n) :: rs =>
    match s.writeMem w a (bs.take n) with
    | .error e => .error e
    | .ok s => s.writeRuns w (bs.drop n) rs

/-- Write bytes into an object. -/
def State.writeObj (s : State) (w : Wr) (o : Obj) (x : Nat) (bs : List Byte) : Except Fail State :=
  s.writeRuns w bs (o.runs x bs.length (bs.length / 2 ^ 12 + 2))

/-- Write zero to bytes of an object. -/
def State.zeroRuns (s : State) (w : Wr) : List (Nat × Nat) → Except Fail State
  | [] => .ok s
  | (a, n) :: rs =>
    match s.zeroMem w a n with
    | .error e => .error e
    | .ok s => s.zeroRuns w rs

/-- Zero `n` bytes of an object from byte `x`. -/
def State.zeroObj (s : State) (w : Wr) (o : Obj) (x n : Nat) : Except Fail State :=
  s.zeroRuns w (o.runs x n (n / 2 ^ 12 + 2))

/-- Put bytes where a write has been accepted. -/
def State.putBytes (s : State) (a : Nat) (bs : List Byte) : State :=
  match region a with
  | .host => match s.hostAt a with
    | .ok (link, hpa, _) => s.pokeHost link hpa bs
    | .error _ => s
  | _ => s.poke a bs

/-- Put the bytes of a run list. -/
def State.putRuns (s : State) (bs : List Byte) : List (Nat × Nat) → State
  | [] => s
  | (a, n) :: rs => (s.putBytes a (bs.take n)).putRuns (bs.drop n) rs

/-- Put bytes into an object at byte `x`. -/
def State.putObj (s : State) (o : Obj) (x : Nat) (bs : List Byte) : State :=
  s.putRuns bs (o.runs x bs.length (bs.length / 2 ^ 12 + 2))

/-- Who writes a tile: the op's context, queue, serial, micro-batch, and the tile number that carries LAST. -/
structure Writer where
  ctx  : Nat
  q    : Nat
  s    : Nat
  mb   : Nat
  last : Nat
  deriving DecidableEq, Repr

/-- The tag of a tile written now (Table 2.11, R624). -/
def State.tagFor (s : State) (wr : Writer) (o : Obj) (p r c : Nat) (poison : Bool) : Tag :=
  { ctx := wr.ctx, obj := o.id, trow := r, tcol := c, tdep := p, fmt := o.fmt, vrows := o.vrows r - 1, vcols := o.vcols c - 1,
    pclass := o.pclass, last := o.tileNo p r c == wr.last, poison := poison, pq := wr.q, ps := wr.s, destq := 0x7FF, mb := wr.mb,
    beat := s.beat40, crcOk := true }

/-- Set or drop the tag of the tile at an address. -/
def State.setTag (s : State) (a : Nat) (t : Option Tag) : State := { s with tags := s.tags.set (fun _ => none) a t }

/-- The bytes of line `l` of a tile: 128 codes, invalid ones zero. -/
def linePacked (fmt : Nat) (cs : List Nat) : List Byte := packCodes (fmtWidth fmt) cs

/-- Put the side data of blocks. -/
def State.putSides (s : State) (o : Obj) (x : Nat) : List (Nat × Nat) → State
  | [] => s
  | (k, v) :: ks => (s.putObj o (x + sideAt o.fmt k) (bytesOf (fmtSide o.fmt) v)).putSides o x ks

/-- Put the lines of a tile from line `l` on. -/
def State.putLines (s : State) (o : Obj) (x : Nat) : Nat → List (List Nat) → State
  | _, [] => s
  | l, cs :: ls => (s.putObj o (x + 16 * fmtWidth o.fmt * l) (linePacked o.fmt cs)).putLines o x (l + 1) ls

/-- Store the groups of a tile's runs again in the deep tier after its bytes stand (R455). -/
def State.recodeRuns (s : State) : List (Nat × Nat) → State
  | [] => s
  | (a, n) :: rs =>
    let s := match region a with
      | .hbm | .deep => s.recodeRange a n true
      | _ => s
    s.recodeRuns rs

/-- Write a whole tile: every byte of its place, invalid elements zero (R120), and its tag. -/
def State.writeTile (s : State) (w : Wr) (wr : Writer) (o : Obj) (p r c : Nat) (t : TileOut) : Except Fail State := do
  let x := o.tileOff p r c
  if o.rank < 2 then
    let cs := (t.lines.map (fun l => l.map Conv.code)).flatten
    let s ← s.writeObj w o x (packCodes (fmtWidth o.fmt) cs)
    return s.setTag (o.tileAddr p r c) (some (s.tagFor wr o p r c false))
  else
    let s ← s.zeroObj { w with wins := [] } o x (fmtTile o.fmt)
    let s := (s.putLines o x 0 (t.lines.map (fun l => l.map Conv.code))).putSides o x t.sides
    let runs := o.runs x (fmtTile o.fmt) (fmtTile o.fmt / 2 ^ 12 + 2)
    let s := runs.foldl (fun s e => s.installRange w.wins e.1 e.2) s
    return (s.setTag (o.tileAddr p r c) (some (s.tagFor wr o p r c false))).recodeRuns runs

/-- The code that a place of a tile holds now, read without checks: what a write of part of a tile keeps. -/
def State.oldCode (s : State) (o : Obj) (x b : Nat) : Nat :=
  let w := fmtWidth o.fmt
  let n := (b % 8 + w + 7) / 8
  let bs := (List.range n).map (fun k =>
    let a := o.addr (x + b / 8 + k)
    match region a with
    | .host => match s.hostAt a with
      | .ok (link, hpa, _) => s.hostByte link hpa
      | .error _ => 0
    | _ => s.seen a)
  ofBytes bs / 2 ^ (b % 8) % 2 ^ w

/-- Write the covered elements of one line: bytes from the first covered element to the last, other elements keeping their codes; up to the line's end, with
its invalid elements zero (R120), where the last valid element is covered. -/
def State.writeLine (s : State) (w : Wr) (o : Obj) (x l : Nat) (col : Bool) (cov : Nat → Nat → Bool) (cs : List Nat) : Except Fail State :=
  let here := fun k => if col then cov k l else cov l k
  let ks := (List.range cs.length).filter here
  match ks.head?, ks.getLast? with
  | some k0, some k1 =>
    let wd := fmtWidth o.fmt
    let base := if o.rank < 2 then 0 else 128 * wd * l
    let lo := (wd * k0) / 8 * 8 / wd
    let hi := max k1 ((ceilDiv (wd * (k1 + 1)) 8 * 8 + wd - 1) / wd - 1)
    let lo := if wd = 6 then k0 / 4 * 4 else lo
    let hi := if wd = 6 then k1 / 4 * 4 + 3 else hi
    let hi := if 2 ≤ o.rank ∧ k1 + 1 = cs.length then 127 else hi
    let codes := (List.range (hi + 1 - lo)).map (fun t =>
      let k := lo + t
      if k < cs.length then (if here k then cs.getD k 0 else s.oldCode o x (base + wd * k)) else 0)
    s.writeObj w o (x + (base + wd * lo) / 8) (packCodes wd codes)
  | _, _ => .ok s

/-- Write the covered elements of the lines of a tile, from line `l` on. -/
def State.writeLines (s : State) (w : Wr) (o : Obj) (x : Nat) (cov : Nat → Nat → Bool) : Nat → List (List Nat) → Except Fail State
  | _, [] => .ok s
  | l, cs :: ls =>
    match s.writeLine w o x l (colAxis o.fmt) cov cs with
    | .error e => .error e
    | .ok s => s.writeLines w o x cov (l + 1) ls

/-- Write the side data of blocks. -/
def State.writeSides (s : State) (w : Wr) (o : Obj) (x : Nat) : List (Nat × Nat) → Except Fail State
  | [] => .ok s
  | (k, v) :: ks =>
    match s.writeObj w o (x + sideAt o.fmt k) (bytesOf (fmtSide o.fmt) v) with
    | .error e => .error e
    | .ok s => s.writeSides w o x ks

/-- Has block `k` a covered valid element? -/
def covers (fmt vr vc : Nat) (cov : Nat → Nat → Bool) (k : Nat) : Bool :=
  let b := fmtBlk fmt
  let per := 128 / b
  (List.range b).any (fun t =>
    let l := k / per
    let p := k % per * b + t
    if colAxis fmt then decide (p < vr) && cov p l else decide (p < vc) && cov l p)

/-- Zero the invalid tails of the first lines of a tile (R120). -/
def State.zeroTails (s : State) (w : Wr) (o : Obj) (x len : Nat) : Nat → Except Fail State
  | 0 => .ok s
  | l + 1 =>
    let n := ceilDiv (fmtWidth o.fmt * len) 8
    match s.zeroObj w o (x + 16 * fmtWidth o.fmt * l + n) (16 * fmtWidth o.fmt - n) with
    | .error e => .error e
    | .ok s => s.zeroTails w o x len l

/-- Zero the invalid elements of a tile that has `nl` valid lines of `len` valid elements (R120). -/
def State.zeroInvalid (s : State) (w : Wr) (o : Obj) (x nl len : Nat) : Except Fail State := do
  let s ← if len < 128 then s.zeroTails w o x len nl else pure s
  s.zeroObj w o (x + 16 * fmtWidth o.fmt * nl) (16 * fmtWidth o.fmt * (128 - nl))

/-- Write the covered part of a tile (R211, R625): other elements, and the side data of blocks wholly outside, keep what they hold; the tag is
written afresh (R624). -/
def State.writePart (s : State) (w : Wr) (wr : Writer) (o : Obj) (p r c : Nat) (cov : Nat → Nat → Bool) (t : TileOut) : Except Fail State := do
  let x := o.tileOff p r c
  let lines := t.lines.map (fun l => l.map Conv.code)
  let s ← if o.rank < 2 then s.writeLine w o x 0 true cov lines.flatten else do
    let s ← s.writeLines w o x cov 0 lines
    s.zeroInvalid w o x (if colAxis o.fmt then o.vcols c else o.vrows r) (if colAxis o.fmt then o.vrows r else o.vcols c)
  let s ← s.writeSides w o x (t.sides.filter (fun b => covers o.fmt (o.vrows r) (o.vcols c) cov b.1))
  return s.setTag (o.tileAddr p r c) (some (s.tagFor wr o p r c false))

/-! ### An op's objects and its writer -/

/-- The object of a role. -/
def OpRec.obj (o : OpRec) (role : Nat) : Option Obj := (o.objs.find? (fun x => x.1 == role)).map Prod.snd

/-- A record captured at take-in. -/
def OpRec.rc (o : OpRec) (k : Nat) : List Word := ((o.recs.find? (fun x => x.1 == k)).map Prod.snd).getD []

/-- The hint record's fields, 0 without a hint (Table 3.7). -/
def OpRec.hintAt (o : OpRec) (hi lo : Nat) : Nat := recAt (o.rc 0) 0 hi lo

/-- What a write of an object by this op asks of placement: its TIERPREF, and the hint's TIER and STACKMASK for the result object (R102). -/
def OpRec.wr (o : OpRec) (x : Obj) (result : Bool) : Wr :=
  { pclass := x.pclass, fmt := x.fmt, pref := x.pref, tier := if result then o.hintAt 22 21 else 0,
    mask := if result then o.hintAt 38 23 else 0, strict := result && o.hintAt 62 62 == 1, uu := o.d.cls == 8 && o.d.op == 0,
    wins := o.windows, owner := some (o.q, o.s, 0) }

/-- The writer of a tile of object `x`, whose last tile the op writes is `last`. -/
def OpRec.writer (o : OpRec) (last : Nat) : Writer := ⟨o.ctx, o.q, o.s, o.d.mb, last⟩

/-- The element's number in SRD's index (R124). -/
def Obj.srdIdx (x : Obj) (p i j : Nat) : Nat := (p * x.rows + i) * x.cols + j

/-- The rounding of element (i, j) of tile (p, r, c) under RND and SEED. -/
def Obj.rnd (x : Obj) (ctx rnd seed p r c i j : Nat) : Rnd := rndOf rnd ctx x.id seed (x.srdIdx p (128 * r + i) (128 * c + j))

end Sys2Proof.Machine
end

