-- ==== Sys2Proof/Machine/Ports.lean ====
section
/-! DEFINITION. Hawser messages: routes and ports toward a module (R348, R349), the tile tag as it travels (Table 2.11), blocks as they are sent
(R532 to R535), the key of a cascade op and its notices (R338, R339, R352, R355). -/

namespace Sys2Proof.Machine

/-! ### The module in its cascade (Table 11.6) -/

/-- The module's own cascade address, and its alignment state: 0 UNALIGNED, 1 ALIGNED, 2 HOLDOVER. -/
def State.selfAddr (s : State) : Nat := s.fld Reg.casc 51 40
def State.alignState (s : State) : Nat := s.fld Reg.casc 34 33

/-- Is a port UP (Table 17.6)? -/
def State.portUp (s : State) (p : Nat) : Bool := s.fld (Reg.pstat p) 39 36 == 2

/-- The routes known toward an address: (port, hops). -/
def State.routesTo (s : State) (a : Nat) : List (Nat × Nat) := s.routes.get (fun _ => []) a

/-- The UP ports of fewest hops toward an address, ascending (R348, R349, R539). -/
def State.routePorts (s : State) (a : Nat) : List Nat :=
  let rs := (s.routesTo a).filter (fun r => s.portUp r.1)
  let h := rs.foldl (fun m r => min m r.2) 4096
  (List.range 96).filter (fun p => rs.any (fun r => r.1 == p && r.2 == h))

/-- The lowest port toward an address, UP where one is; 0 where none is known: what DETAIL of LINK_LOST holds (R355). -/
def State.portToward (s : State) (a : Nat) : Nat :=
  match s.routePorts a with
  | p :: _ => p
  | [] => match (List.range 96).find? (fun p => (s.routesTo a).any (fun r => r.1 == p)) with
    | some p => p
    | none => 0

/-! ### Tags on the wire -/

/-- A number of 256 bits from disjoint fields, each (lsb, value). -/
def wide (fs : List (Nat × Nat)) : BitVec 256 := BitVec.ofNat 256 (fs.foldl (fun a f => a + f.2 * 2 ^ f.1) 0)

/-- Bits of a trailer's first 32 bytes. -/
def tagBits (t : BitVec 256) (lsb n : Nat) : Nat := t.toNat / 2 ^ lsb % 2 ^ n

/-- The TCRC that belongs to the other bytes: bytes 0 to 23, then 26 to 31. -/
def tcrcOf (t : BitVec 256) : Nat := crc16 (bytesOf 24 t.toNat ++ bytesOf 6 (t.toNat / 2 ^ 208))

/-- A tile tag as it travels (Table 2.11). -/
def Tag.wire (t : Tag) : BitVec 256 :=
  let body := wide [(52, t.ctx), (28, t.obj), (6, t.trow), (0, t.fmt), (64 + 42, t.tcol), (64 + 26, t.tdep), (64 + 19, t.vrows), (64 + 12, t.vcols),
    (64 + 10, fmtSb t.fmt), (64 + 9, b2n (colAxis t.fmt)), (64 + 7, t.pclass), (64 + 6, b2n t.last), (64 + 5, b2n t.poison), (128 + 54, t.pq),
    (128 + 22, t.ps), (128 + 11, t.destq), (128, t.mb), (192 + 24, t.beat)]
  let c := tcrcOf body
  BitVec.ofNat 256 (body.toNat + (if t.crcOk then c else c.xor 0xFFFF) * 2 ^ 192)

/-- The tag that travelled, with its check. -/
def tagOf (w : BitVec 256) : Tag :=
  { ctx := tagBits w 52 12, obj := tagBits w 28 24, trow := tagBits w 6 22, fmt := tagBits w 0 6, tcol := tagBits w 106 22, tdep := tagBits w 90 16,
    vrows := tagBits w 83 7, vcols := tagBits w 76 7, pclass := tagBits w 71 2, last := tagBits w 70 1 == 1, poison := tagBits w 69 1 == 1,
    pq := tagBits w 182 10, ps := tagBits w 150 32, destq := tagBits w 139 11, mb := tagBits w 128 11, beat := tagBits w 216 40,
    crcOk := tcrcOf w == tagBits w 192 16 }

/-- Tag bytes 0 to 23, which name a message (R533). -/
def msgName (w : BitVec 256) : Nat := w.toNat % 2 ^ 192

/-! ### Sending (R532, R533, R348) -/

/-- The counters of the ports. -/
def State.pseq (s : State) (k : Nat) : Nat := s.portSeq.get (fun _ => 0) k

/-- Set a counter of the ports. -/
def State.setPseq (s : State) (k v : Nat) : State := { s with portSeq := s.portSeq.set (fun _ => 0) k v }

/-- Send a block on a port: it takes the next SEQ, acknowledges the last block received in order, carries RETRY where a resend is asked for, and stays in
the retry buffer. -/
def State.sendBlock (s : State) (port typ : Nat) (b : Block) : State :=
  let n := s.pseq port
  let ask := s.pseq (192 + port) == 2
  let b := { b with seq := n, ack := (s.pseq (96 + port) + 2 ^ 20 - 1) % 2 ^ 20, retry := ask }
  let s := s.setPseq port ((n + 1) % 2 ^ 20)
  let s := if ask then s.setPseq (192 + port) 1 else s
  { s with retry := s.retry ++ [⟨port, typ, b⟩], outbox := s.outbox ++ [⟨port, typ, b⟩] }

/-- Cut a message into `k` blocks of at most 64 flits, from flit `off` on; the last flit is filled with zeros. -/
def blocksOf (src dst : Nat) (tag : BitVec 256) (extra : List Nat) (off : Nat) (bs : List Byte) : Nat → List Block
  | 0 => []
  | k + 1 =>
    let part := bs.take 16384
    let f := ceilDiv part.length 256
    ⟨tag, f, off, dst, src, 0, 0, false, true, part ++ List.replicate (256 * f - part.length) 0, extra⟩ ::
      blocksOf src dst tag extra (off + 64) (bs.drop 16384) k

/-- Send blocks on one port, from the tile store of the die that holds it (R23). -/
def State.sendOn (s : State) (port typ : Nat) : List Block → State
  | [] => s
  | b :: bs => (s.sendBlock port typ b).sendOn port typ bs

/-- Blocks of a message of `n` bytes. -/
def msgBlocks (n : Nat) : Nat := max 1 (ceilDiv n 16384)

/-- Send blocks to the ports of a list in turn. -/
def State.sendTurn (s : State) (typ dst : Nat) (ports : List Nat) : List Block → State
  | [] => s
  | b :: bs =>
    let t := s.pseq (288 + dst)
    let s := s.setPseq (288 + dst) ((t + 1) % ports.length)
    (s.sendBlock (ports.getD (t % ports.length) 0) typ b).sendTurn typ dst ports bs

/-- Send a message to a module; it is dropped where no route is known. -/
def State.sendMsg (s : State) (typ dst : Nat) (tag : BitVec 256) (extra : List Nat) (bs : List Byte) : State :=
  match s.routePorts dst with
  | [] => s
  | ps => s.sendTurn typ dst ps (blocksOf s.selfAddr dst tag extra 0 bs (msgBlocks bs.length))

/-- The end-to-end acknowledgement of a message (R534), which names it by its type and tag bytes 0 to 23. -/
def ackTag (typ : Nat) (tag : BitVec 256) : BitVec 256 := wide [(0, msgName tag), (192, typ)]

/-! ### Cascade ops and groups (Tables 11.1 to 11.3) -/

/-- Is this a cascade op (Table 11.2); is it a collective? -/
def Desc.collective (d : Desc) : Bool :=
  d.cls == 0 && d.op == 2 || d.cls == 6 && d.op == 0x40 || d.cls == 7 && (d.op == 0x40 || d.op == 0x41)
def Desc.pairwise (d : Desc) : Bool := d.cls == 6 && (d.op == 0x41 || d.op == 0x42)
def Desc.cascade (d : Desc) : Bool := d.collective || d.pairwise

/-- The parameter fields of Table 11.3. -/
def Desc.grp (d : Desc) : Nat := d.at 408 8
def Desc.peer (d : Desc) : Nat := d.at 396 12
def Desc.xlimit (d : Desc) : Nat := d.par 1
def Desc.brows (d : Desc) : Nat := d.at 464 16
def Desc.chan (d : Desc) : Nat := d.at 448 16

/-- Tiles that an op's extents cover: (plane, tile row, tile column), in the order of Table 2.11. -/
def Desc.tilesCovered (d : Desc) : List (Nat × Nat × Nat) :=
  ((List.range (d.ext 2)).map (fun p => ((List.range (ceilDiv (d.ext 0) 128)).map (fun r =>
    (List.range (ceilDiv (d.ext 1) 128)).map (fun c => (p, r, c)))).flatten)).flatten

/-- Buckets of a collective (R343). -/
def Desc.buckets (d : Desc) : Nat := ceilDiv (d.ext 0) (128 * d.brows)

/-- A cascade op whose extents include a zero (R340). -/
def Desc.noData (d : Desc) : Bool := d.cascade && d.cls != 0 && (d.ext 0 == 0 || d.ext 1 == 0 || d.ext 2 == 0)

/-- Fields of the group record captured at take-in (Table 11.1). -/
def OpRec.size (o : OpRec) : Nat := recAt (o.rc 5) 0 59 47
def OpRec.rank (o : OpRec) : Nat := recAt (o.rc 5) 0 46 35
def OpRec.gid (o : OpRec) : Nat := recAt (o.rc 5) 1 63 48

/-- The cascade address of a rank. -/
def OpRec.member (o : OpRec) (r : Nat) : Nat := o.members.getD r 0

/-- The sending and the receiving rank of an XSEND or XRECV. -/
def OpRec.fromTo (o : OpRec) : Nat × Nat := if o.d.op = 0x41 then (o.rank, o.d.peer) else (o.d.peer, o.rank)

/-- The key by which cascade ops match (R338, R339): GID and the collective number, or GID, CHAN, MB, the two ranks and the number among ops of one key. -/
def OpRec.castKey (o : OpRec) : Nat :=
  if o.d.pairwise then
    o.gid + 2 ^ 16 + o.num * 2 ^ 17 + o.d.mb * 2 ^ 49 + o.d.chan * 2 ^ 60 + o.fromTo.1 * 2 ^ 76 + o.fromTo.2 * 2 ^ 88
  else o.gid + o.num * 2 ^ 17

/-- The ready notice of an XRECV: its key, its queue, its extents and the format of D. -/
def OpRec.readyTag (o : OpRec) : BitVec 256 :=
  wide [(0, o.castKey), (100, o.q), (110, o.d.ext 0), (142, o.d.ext 1), (174, o.d.ext 2), (206, ((o.obj 3).map Obj.fmt).getD 0)]

/-- The modules an op exchanges with: a collective's two ring neighbours, or the peer; of a mirrored op rank 0, and at rank 0 the others (R364). -/
def OpRec.partners (o : OpRec) : List Nat :=
  if o.d.pairwise then [o.member o.d.peer]
  else if o.d.cls = 1 then (if o.rank = 0 then o.members.drop 1 else [o.member 0])
  else
    let r := o.size
    (((List.range r).filter (fun k => k != o.rank && (k == (o.rank + 1) % r || k == (o.rank + r - 1) % r))).map o.member)

/-- Send notices to a list of modules. -/
def State.sendNotes (s : State) (typ : Nat) (tag : BitVec 256) : List Nat → State
  | [] => s
  | a :: as => (s.sendMsg typ a tag [] []).sendNotes typ tag as

/-- The abandonment notices of a cascade op that ends with a failure (R355). -/
def State.abandon (s : State) (o : OpRec) : State :=
  { (s.sendNotes 4 (wide [(0, o.castKey)]) o.partners) with abandoned := s.abandoned ++ [(o.castKey, 127)] }

end Sys2Proof.Machine
end

