-- ==== Sys2Proof/Machine/Flags.lean ====
section
/-! DEFINITION. What an op's result raises beside its bytes: status codes and their precedence (R62, R63), exponent histograms (R129 to R131) and
detections of the numeric watch (R135). -/

namespace Sys2Proof.Machine

/-! ### Status codes (Table 2.13) -/

def stOk : Nat := 0x0000
def stZero : Nat := 0x0001
def stSlip : Nat := 0x0002
def stTierLate : Nat := 0x0003
def stReplayed : Nat := 0x0004
def stBadOp : Nat := 0x0101
def stBadField : Nat := 0x0102
def stBadObj : Nat := 0x0103
def stBadDep : Nat := 0x0104
def stDepFail : Nat := 0x0201
def stCancelled : Nat := 0x0202
def stAddrFault : Nat := 0x0203
def stDataErr : Nat := 0x0204
def stHostLost : Nat := 0x0205
def stLinkLost : Nat := 0x0206
def stEngineFault : Nat := 0x0207
def stWatchTrap : Nat := 0x0208
def stDomainDown : Nat := 0x0209
def stWaitTimeout : Nat := 0x020A

/-- DETAIL bit 11: a failure at take-in. -/
def atTakeIn : Nat := 0x800

/-- The completion code of an op that ended with its full result (R63, R94): status and DETAIL. -/
def OpRec.goodStatus (o : OpRec) : Nat × Nat :=
  if o.replayA || o.replayB then (stReplayed, b2n o.replayA + 2 * b2n o.replayB)
  else if o.slips = 0 then (stOk, 0)
  else if o.late then (stTierLate, 0)
  else (stSlip, 0)

/-! ### Histograms (Table 4.6) -/

/-- Keys of `OpRec.hist`: the fields of Table 4.6, then the bins from 64. -/
def hElems : Nat := 0
def hZeros : Nat := 1
def hNans : Nat := 2
def hInfs : Nat := 3
def hAmax : Nat := 4
def hSat : Nat := 5
def hBin (b : Nat) : Nat := 64 + b

/-- A count of a histogram. -/
def histGet (h : Tab Nat) (k : Nat) : Nat := h.get (fun _ => 0) k

/-- Add one to a count of `n` bits; a saturation sets SAT. -/
def histBump (h : Tab Nat) (k n : Nat) : Tab Nat :=
  if histGet h k = satMax n then h.set (fun _ => 0) hSat 1 else h.set (fun _ => 0) k (histGet h k + 1)

/-- Count one element, in its FP32 form. -/
def histAdd (h : Tab Nat) (v : Num) : Tab Nat :=
  let h := histBump h hElems 64
  let b := v.toF32.toNat
  let mag := b % 2 ^ 31
  let ex := b / 2 ^ 23 % 256
  if mag = 0 then histBump h hZeros 64
  else if ex = 255 then (if mag = 0x7F800000 then histBump h hInfs 32 else histBump h hNans 32)
  else (histBump h (hBin ex) 32).set (fun _ => 0) hAmax (max mag (histGet h hAmax))

/-- The bins of a record, two to a word. -/
def histBins (h : Tab Nat) (b : Nat) : Nat → List Word
  | 0 => []
  | n + 1 => word [(32, histGet h (hBin (b + 1))), (0, histGet h (hBin b))] :: histBins h (b + 2) n

/-- The record of a result object, as 136 words. -/
def histWords (ctx obj : Nat) (h : Tab Nat) : List Word :=
  [word [(0, histGet h hElems)], word [(0, histGet h hZeros)], word [(32, histGet h hNans), (0, histGet h hInfs)],
   word [(32, histGet h hAmax), (0, histGet h hSat)], word [(52, ctx), (28, obj)], 0, 0, 0] ++ histBins h 0 128

/-- Write a histogram record (R131): record `k` of a HIST object. -/
def State.writeHist (s : State) (w : Wr) (o : Obj) (k ctx obj : Nat) (h : Tab Nat) : Except Fail State :=
  s.writeObj w o (1088 * k) (wordBytes (histWords ctx obj h))

/-! ### The numeric watch (R135) -/

/-- Is slot `sl` live and does it match the result object? -/
def State.watches (s : State) (sl ctx obj : Nat) : Bool :=
  let w := s.rd (Reg.wctl sl)
  s.flag (Reg.wstat sl) 0 && (bit w 9 || bits w 63 52 == ctx) && (bits w 51 28 == 0 || bits w 51 28 == obj)

/-- The lowest condition that a value meets and the slot enables: 1 NAN, 2 INF, 3 OVR, 4 UFZ, 0 none. -/
def condOf (w : Word) (v : Num) (c : Conv) : Nat :=
  if bit w 4 && v.isNan then 1
  else if bit w 5 && v.isInf then 2
  else if bit w 6 && c.ovr then 3
  else if bit w 7 && c.ufz then 4
  else 0

/-- The elements of a block in R440's order, as (row, column). -/
def blockElems (fmt k : Nat) : List (Nat × Nat) :=
  let b := fmtBlk fmt
  let per := 128 / b
  (List.range b).map (fun t => if colAxis fmt then (k % per * b + t, k / per) else (k / per, k % per * b + t))

/-- Conditions met in a tile for one slot: (element row, element column, condition). -/
def tileConds (w : Word) (fmt vr vc : Nat) (cov : Nat → Nat → Bool) (x : Nat → Nat → Elt) (t : TileOut) : List (Nat × Nat × Nat) :=
  if fmtBlk fmt = 0 then
    ((List.range vr).map (fun i => (List.range vc).filterMap (fun j =>
      let c := (t.lines.getD i []).getD j ⟨0, false, false⟩
      let k := if cov i j then condOf w (x i j).1 c else 0
      if k = 0 then none else some (i, j, k)))).flatten
  else
    t.bads.filterMap (fun k =>
      let es := (blockElems fmt k).filter (fun e => decide (e.1 < vr) && decide (e.2 < vc) && cov e.1 e.2)
      let nan := es.find? (fun e => !(x e.1 e.2).1.isFin)
      let inf := es.find? (fun e => (x e.1 e.2).1.isInf)
      if bit w 4 then nan.map (fun e => (e.1, e.2, 1))
      else if bit w 5 then inf.map (fun e => (e.1, e.2, 2))
      else none)

/-- The detections of a written tile in every matching slot, added to the beat's detections. `sslot` is 0, or the state slot of an APPLY (R139). -/
def State.watchTile (s : State) (o : OpRec) (unit : Nat) (d : Obj) (p r c sslot : Nat) (cov : Nat → Nat → Bool) (x : Nat → Nat → Elt)
    (t : TileOut) : State :=
  let ds := (List.range 8).map (fun sl =>
    if s.watches sl o.ctx d.id then
      (tileConds (s.rd (Reg.wctl sl)) d.fmt (d.vrows r) (d.vcols c) cov x t).map (fun e =>
        { slot := sl, q := o.q, s := o.s, obj := d.id, cond := e.2.2, unit := unit, tdep := p, trow := r, tcol := c, erow := e.1,
          ecol := e.2.1, value := (x e.1 e.2.1).1.toF32.toNat, sslot := sslot, inNan := (x e.1 e.2.1).2 : Detection })
    else [])
  { s with detects := s.detects ++ ds.flatten }

/-- Does a detection of this beat hold the op's end until the boundary (R137)? -/
def State.watchHolds (s : State) (q sn : Nat) : Bool :=
  s.detects.any (fun d => d.q == q && d.s == sn && !s.flag (Reg.wctl d.slot) 8 && !s.flag (Reg.wstat d.slot) 1)

end Sys2Proof.Machine
end

