-- ==== Sys2Proof/Machine/Program.lean ====
section
/-! DEFINITION. Ops, pieces and queues as shared operations: what is common to every command that starts, performs or ends work (chapters 02
and 03). -/

namespace Sys2Proof.Machine

/-! ### Ops and queues -/

/-- The op of a queue and serial. -/
def State.op? (s : State) (q sn : Nat) : Option OpRec := s.ops.find? (fun o => o.q == q && o.s == sn)

/-- The op, or its entry in the replay journal. -/
def State.opAny (s : State) (q sn : Nat) : Option OpRec :=
  match s.op? q sn with
  | some o => some o
  | none => s.journal.find? (fun o => o.q == q && o.s == sn)

/-- Change an op in a list. -/
def mapIn (q sn : Nat) (f : OpRec → OpRec) (os : List OpRec) : List OpRec :=
  os.map (fun o => if o.q = q ∧ o.s = sn then f o else o)

/-- Change an op, and its journal entry. -/
def State.mapOp (s : State) (q sn : Nat) (f : OpRec → OpRec) : State :=
  { s with ops := mapIn q sn f s.ops, journal := mapIn q sn f s.journal }

/-- Serial `a` comes before serial `b` in the 32-bit order of R53. -/
def before (a b : Nat) : Bool :=
  let d := (b + 2 ^ 32 - a) % 2 ^ 32
  decide (0 < d) && decide (d ≤ 2 ^ 31)

/-- The context a queue is bound to. -/
def State.qctx (s : State) (q : Nat) : Nat := s.fld (Reg.qctl q) 63 52

/-- Entries of the descriptor ring and of the completion ring (Table 2.7). -/
def State.ringEntries (s : State) (q : Nat) : Nat := 64 * 2 ^ s.fld (Reg.qbase q) 3 0
def State.crEntries (s : State) (q : Nat) : Nat := 64 * 2 ^ s.fld (Reg.qcr q) 3 0

/-- RIG_QCTL.EN, RIG_QSTAT.HALT and FLUSHING. -/
def State.enabled (s : State) (q : Nat) : Bool := s.flag (Reg.qctl q) 0
def State.qHalted (s : State) (q : Nat) : Bool := s.flag (Reg.qstat q) 1
def State.flushing (s : State) (q : Nat) : Bool := s.flag (Reg.qstat q) 5

/-- Is the queue RUNNING (Table 2.10)? -/
def State.running (s : State) (q : Nat) : Bool := s.enabled q && !s.qHalted q && !s.flushing q

/-- Records waiting in the completion ring's way: CRTAIL − CRHEAD. -/
def State.crUsed (s : State) (q : Nat) : Nat :=
  (s.fld (Reg.qcrptr q) 31 0 + 2 ^ 32 - s.fld (Reg.qcrptr q) 63 32) % 2 ^ 32

/-- BUSY and CRFULL follow the ops and the ring (Table 2.9). -/
def State.syncQ (s : State) (q : Nat) : State :=
  let busy := s.ops.any (fun o => o.q == q && o.phase != .ended)
  let full := s.ready.any (fun r => r.1 == q) && decide (s.crUsed q = s.crEntries q)
  (s.putBit (Reg.qstat q) 0 busy).putBit (Reg.qstat q) 3 full

/-- Set HALT; RIG_QERR takes the failure if HALT was 0 or this serial is lower (Table 2.10). -/
def State.haltOn (s : State) (q sn status : Nat) : State :=
  let was := s.qHalted q
  let held := s.fld (Reg.qerr q) 31 0
  let s := s.putBit (Reg.qstat q) 1 true
  if !was || before sn held then s.wr (Reg.qerr q) (word [(32, status), (0, sn)]) else s

/-- A ring access fails: HALT, RINGERR, RIG_QERR (R49). -/
def State.ringFails (s : State) (q sn status : Nat) : State :=
  (s.haltOn q sn status).putBit (Reg.qstat q) 6 true

/-- The status a failed access gives, with the slot or link as DETAIL. -/
def failStatus (f : Fail) (slot : Nat) : Nat × Nat :=
  match f with
  | .addr | .trans | .room => (stAddrFault, slot)
  | .lost l => (stHostLost, l)
  | _ => (stDataErr, slot)

/-! ### Micro-batches (R88 to R90) -/

/-- The pipeline setting of a context. -/
def State.pipe (s : State) (ctx : Nat) : Pipe := s.pipes.get (fun _ => defaultPipe) ctx

/-- Is a micro-batch retired in the present step? -/
def State.mbRetired (s : State) (ctx mb : Nat) : Bool := s.retired.get (fun _ => false) (2048 * ctx + mb)

/-- r of R90: the lowest unretired micro-batch of the step. -/
def State.lowestMb (s : State) (ctx : Nat) : Nat → Nat → Nat
  | 0, m => m
  | f + 1, m => if s.mbRetired ctx m then s.lowestMb ctx f (m + 1) else m

/-- Retire a micro-batch; when all B are retired a new step begins. The journal drops the entries of a retired micro-batch (R395). -/
def State.retireMb (s : State) (ctx mb : Nat) : State :=
  let b := (s.pipe ctx).micro
  if b ≤ mb ∨ s.mbRetired ctx mb then s
  else
    let t := s.retired.set (fun _ => false) (2048 * ctx + mb) true
    let all := (List.range b).all (fun m => t.get (fun _ => false) (2048 * ctx + m))
    { s with retired := if all then t.clear (2048 * ctx) (2048 * ctx + 2048) else t,
             journal := s.journal.filter (fun o => !(o.ctx == ctx && o.d.mb == mb)) }

/-- Does a table of `n` bytes lie in the HBM and deep-tier regions? -/
def inMemRegions (a n : Nat) : Bool :=
  (region a == .hbm || region a == .deep) && (region (a + n - 1) == .hbm || region (a + n - 1) == .deep)

/-- A table base register: its base, where EN is set and the table lies in the HBM and deep-tier regions. -/
def State.tableBase (s : State) (reg bytes : Nat) : Option Nat :=
  let b := s.fld reg 43 12 * 4096
  if s.flag reg 0 && inMemRegions b bytes then some b else none

/-- A hint record of a context, `none` where it is not defined (R100). -/
def State.hintRec (s : State) (ctx hint : Nat) : Except Fail (Option (List Word)) :=
  match s.tableBase (Reg.hintBase ctx) 65536 with
  | none => .ok none
  | some b =>
    match s.readWords (b + 16 * hint) 2 with
    | .error e => .error e
    | .ok ws =>
      if recAt ws 0 63 63 = 1 ∧ recAt ws 0 20 0 = 0 ∧ recAt ws 1 23 0 = 0 ∧ recAt ws 0 22 21 ≠ 3 then .ok (some ws) else .ok none

/-- Does the op's end retire its micro-batch: by the hint captured, or by the record that HINT names at the end (R89)? -/
def State.endRetires (s : State) (o : OpRec) : Bool :=
  match o.rc 0 with
  | [] => if o.d.hint = 0 then false else match s.hintRec o.ctx o.d.hint with
    | .ok (some ws) => recAt ws 0 59 59 == 1
    | _ => false
  | ws => recAt ws 0 59 59 == 1

/-! ### Dependencies (R54 to R56) -/

/-- Is dependency slot `k` satisfied as a whole one? A producer no longer held has been retired; a failed one counts as retired from its release on, at
which every op taken in before has ended DEP_FAIL (R56). -/
def State.depOk (s : State) (o : OpRec) (k : Nat) : Bool :=
  if !o.d.depV k then true
  else match s.op? (o.d.depQ k) (o.d.depS k) with
    | none => true
    | some p => p.record == .written && decide (p.status < 0x100) || p.gone

/-- Both dependencies. -/
def State.depsOk (s : State) (o : OpRec) : Bool := s.depOk o 0 && s.depOk o 1

/-- Roles of an op's objects that it writes: D, D2, HIST and STATS; B and C of UNPACK, the counts of COMPRESS and EXPAND; row statistics and score store
of ATTN_FWD, the context gradients of ATTN_BWD; master, state and receipt bitmap of APPLY, residuals of ROOT. -/
def OpRec.writes (o : OpRec) (role : Nat) : Bool :=
  role == 3 || role == 5 || role == 6 || role == 7 ||
    match o.d.cls, o.d.op with
    | 2, 6 => role == 1 || role == 2
    | 2, 7 => role == 2
    | 2, 8 => role == 2
    | 3, 0 => role == 2 || role == 10
    | 3, 1 => role == 11
    | 8, 0 => role == 1 || role == 2 || role == 13 && o.d.at 403 1 == 1
    | 8, 2 => role == 2
    | _, _ => false

/-- The objects that a producer writes, as ids. -/
def OpRec.written (o : OpRec) : List Nat := (o.objs.filter (fun x => o.writes x.1)).map (fun x => x.2.id)

/-- The key-value objects that an ATTN op reaches through its length table (R260), as the table and the directory stand. -/
def State.kvNamed (s : State) (o : OpRec) : List Nat :=
  if o.d.cls ≠ 3 ∨ 2 ≤ o.d.op then []
  else match o.obj 1 with
    | none => []
    | some b => (List.range (o.d.ext 0)).filterMap (fun e =>
      let el := fun (j : Nat) => match s.code ⟨o.ctx, []⟩ b 0 e j with
        | .ok v => v
        | .error _ => 0
      let w1 := el 2 + 2 ^ 32 * el 3
      let scx := w1 / 2 ^ 45 % 2 ^ 18
      if w1 / 2 ^ 63 = 1 ∧ bit (s.rd (Reg.asqDir0 (scx / 65536) (scx % 65536))) 63 = true then
        some (bits (s.rd (Reg.asqDir1 (scx / 65536) (scx % 65536))) 63 40) else none)

/-- May the op start under slot `k`: satisfied, or tile-wise on a producer that writes an object this op names (R55)? -/
def State.depStarts (s : State) (o : OpRec) (k : Nat) : Bool :=
  s.depOk o k || (o.d.depTile k && match s.op? (o.d.depQ k) (o.d.depS k) with
    | some p => p.status < 0x100 && p.ctx == o.ctx && (o.objs.any (fun x => p.written.contains x.2.id) || (s.kvNamed o).any p.written.contains)
    | none => true)

/-- The tiles an op must await one by one: its unsatisfied tile-wise dependencies (R55). -/
def State.reader (s : State) (o : OpRec) : Reader :=
  let f := fun k =>
    if s.depOk o k then []
    else match s.op? (o.d.depQ k) (o.d.depS k) with
      | some p => p.written.map (fun id => (p.q, p.s, id))
      | none => []
  ⟨o.ctx, f 0 ++ f 1⟩

/-! ### Fences and records (R48, R66) -/

/-- Is a data write or a message of op `sn` of the queue, or of an earlier one, not yet visible at its destination (R65)? Those of ops retired count too. -/
def State.outstanding (s : State) (q sn : Nat) : Bool :=
  s.hostOut.any (fun w => w.q == q && (w.s == sn || before w.s sn)) || s.sentOut.any (fun m => m.q == q && (m.s == sn || before m.s sn))

/-- Have every earlier op of the queue ended and its data writes, with this op's, become visible (R66)? -/
def State.fenceOk (s : State) (o : OpRec) : Bool :=
  !s.outstanding o.q o.s && s.ops.all (fun p => !(p.q == o.q && before p.s o.s) || p.phase == .ended)

/-- Note the beat in which an op's dependencies are satisfied; for a fenced op without work, the later beat of R66 (R623). -/
def State.noteDeps (s : State) : State :=
  { s with ops := s.ops.map (fun o =>
      if o.depBeat.isNone && o.phase != .ended && s.depsOk o && (!(o.noWork && o.d.fence) || s.fenceOk o) then
        { o with depBeat := some s.beat } else o) }

/-- Put the records of ended ops that have become ready into the order of readiness: an unfenced one at its end, a fenced one when R66 holds. -/
def State.freshen (s : State) : State :=
  let new := s.ops.filter (fun o => o.phase == .ended && o.record == .none && (!o.d.fence || s.fenceOk o))
  { s with ready := s.ready ++ new.map (fun o => (o.q, o.s)),
           ops := s.ops.map (fun o => if o.phase == .ended && o.record == .none && (!o.d.fence || s.fenceOk o) then
             { o with record := .ready } else o) }

/-- RIG_QDONE passes every retired serial; retired ops are held no longer. -/
def State.retireOps (s : State) (q : Nat) : Nat → State
  | 0 => s
  | f + 1 =>
    let n := s.fld (Reg.qdone q) 31 0
    match s.op? q n with
    | some o =>
      if o.record == .written && (decide (o.status < 0x100) || o.gone) then
        (({ s with ops := s.ops.filter (fun p => !(p.q == q && p.s == n)) } : State).put (Reg.qdone q) 31 0 (n + 1)).retireOps q f
      else s
    | none => s

/-! ### REDUCE sequences (R382 to R384) -/

/-- ORD, SEQFIRST and SEQLAST of a REDUCE_ACC (Table 12.6). -/
def Desc.ord (d : Desc) : Nat := d.at 405 11
def Desc.seqFirst (d : Desc) : Nat := d.at 394 11
def Desc.seqLast (d : Desc) : Nat := d.at 469 11

/-- Tiles of D that a MOVE or REDUCE op covers, from row `first`: (plane, tile row, tile column). -/
def coverTiles (o : OpRec) (first : Nat) : List (Nat × Nat × Nat) :=
  let r0 := first / 128
  let nr := ceilDiv (first + o.d.ext 0) 128 - r0
  let nc := ceilDiv (o.d.ext 1) 128
  ((List.range (o.d.ext 2)).map (fun p => (List.range nr).map (fun r => (List.range nc).map (fun c => (p, r0 + r, c))))).flatten.flatten

/-- Does the sequence fit the op? -/
def SeqRec.fits (x : SeqRec) (o : OpRec) : Bool :=
  x.ctx == o.ctx && x.obj == o.d.obj 3 && x.first == o.d.seqFirst && x.last == o.d.seqLast

/-- Has the op joined this sequence? -/
def SeqRec.has (x : SeqRec) (o : OpRec) : Bool := x.joined.contains (o.d.ord, o.q, o.s)

/-- Join the oldest open sequence that lacks the ORD, or open one; `none` where 4,096 are open (R382). -/
def joinSeq (o : OpRec) : List SeqRec → Option (List SeqRec)
  | [] => none
  | x :: xs =>
    if x.fits o && !x.joined.any (fun j => j.1 == o.d.ord) then some ({ x with joined := x.joined ++ [(o.d.ord, o.q, o.s)] } :: xs)
    else (joinSeq o xs).map (fun ys => x :: ys)

/-- MSC_SEQOPEN follows the open sequences (Table 12.14). -/
def State.syncSeq (s : State) : State := s.put Reg.mscSeqopen 12 0 s.seqs.length

/-- An op joins its sequence. -/
def State.seqJoin (s : State) (o : OpRec) : Option State :=
  if s.seqs.any (fun x => x.has o) then some s
  else match joinSeq o s.seqs with
    | some xs => some { s with seqs := xs }
    | none =>
      if s.seqs.length < 4096 then
        some (({ s with seqs := s.seqs ++ [⟨o.ctx, o.d.obj 3, o.d.seqFirst, o.d.seqLast, [(o.d.ord, o.q, o.s)], [], [], [], []⟩] } : State).syncSeq)
      else none

/-- Poison a tile of D: its tag in class A, its units in class W (R384). -/
def State.poisonTile (s : State) (o : OpRec) (d : Obj) (p r c : Nat) : State :=
  let a := d.tileAddr p r c
  let s := s.bump (Reg.mscSeq (s.sliceOf a)) 15 0 1
  if d.pclass = 1 then s.setTag a (some (s.tagFor (o.writer 0) d p r c true))
  else (List.range (fmtStride d.fmt / 64)).foldl (fun s k => s.setMark (d.addr (d.tileOff p r c + 64 * k)) .poison) s

/-- Poison every broken tile of a list. -/
def State.poisonTiles (s : State) (o : OpRec) (d : Obj) : List Nat → State
  | [] => s
  | t :: ts =>
    let (p, r, c) := d.tileAt t
    (s.poisonTile o d p r c).poisonTiles o d ts

/-- A contribution ends: the tiles it failed to reach break (R384), and the sequence closes when every ORD has ended (R382). -/
def State.seqEnd (s : State) (o : OpRec) : State :=
  match o.obj 3 with
  | none => s
  | some d =>
    match s.seqJoin o with
    | none => s
    | some s =>
      match s.seqs.find? (fun x => x.has o) with
      | none => s
      | some x =>
        let lost := if o.status < 0x200 then [] else
          ((coverTiles o (o.d.par 1)).map (fun t => d.tileNo t.1 t.2.1 t.2.2)).filter
            (fun t => !x.added.contains (o.d.ord, t) && !x.broken.contains t)
        let s := s.poisonTiles o d lost
        let y := { x with ended := x.ended ++ [o.d.ord], broken := x.broken ++ lost }
        let full := (List.range (y.last + 1 - y.first)).all (fun k => y.ended.contains (y.first + k))
        ({ s with seqs := if full then s.seqs.filter (fun z => !z.has o) else s.seqs.map (fun z => if z.has o then y else z) } : State).syncSeq

/-! ### Ending an op -/

/-- Make the bytes of an object's runs free values, where they are held (R62). -/
def State.loosen (s : State) : List (Nat × Nat) → State
  | [] => s
  | (a, n) :: rs =>
    let held := match region a with
      | .hbm | .deep => bit (s.tir (groupOf a)) 63
      | _ => true
    (if held then s.putBytes a ((List.range n).map (fun i => Config.freeByte s.free (a + i))) else s).loosen rs

/-- Is D of a MATRIX op the result of another rank of a mirrored group (R364)? -/
def OpRec.sendsNodes (o : OpRec) : Bool := o.d.cls == 1 && o.d.op != 1 && o.rc 5 != [] && o.rank != 0

/-- The bytes of a result object that an op writes: of a HIST object its own record, of D at a rank that sends node tiles none. -/
def OpRec.span (o : OpRec) (r : Nat) (x : Obj) : Nat × Nat :=
  if r = 6 then (1088 * o.aux.get (fun _ => 0) 201, 1088)
  else if r = 3 ∧ o.sendsNodes = true then (0, 0)
  else (0, x.size)

/-- The result objects of an op that started and ended without a complete result are unspecified (R62); APPLY keeps what it applied
(R329), and R384 says what a sum holds. -/
def State.looseResults (s : State) (o : OpRec) : List (Nat × Obj) → State
  | [] => { s with free := s.free + 1 }
  | (r, x) :: xs =>
    let (a, n) := o.span r x
    let s := if o.writes r && decide (0 < n) then s.loosen (x.runs a n (n / 2 ^ 12 + 2)) else s
    s.looseResults o xs

/-- Does an op name another as a dependency? -/
def Desc.dependsOn (d : Desc) (q sn : Nat) : Bool := (d.depV 0 && d.depQ 0 == q && d.depS 0 == sn) || (d.depV 1 && d.depQ 1 == q && d.depS 1 == sn)

/-- Is the op a CONV or STEM op that reads a resident plane under a dependency (R290)? -/
def OpRec.readsPlane (o : OpRec) (r : Resident) : Bool :=
  (o.d.cls == 4 || o.d.cls == 5) && r.ctx == o.ctx && o.objs.any (fun x => x.1 < 2 && x.2.id == r.obj) && o.d.dependsOn r.q r.s

/-- The resident copies that an op read are released at its end (R290). -/
def State.releasePlanes (s : State) (o : OpRec) : State := { s with resident := s.resident.filter (fun r => !o.readsPlane r) }

/-- An op ends with a status: its record takes shape, its queue halts on a failure (Table 2.10), its micro-batch may retire (R89). -/
def State.endOp (s : State) (q sn status detail : Nat) : State :=
  match s.op? q sn with
  | none => s
  | some o =>
    if o.phase == .ended then s
    else
      let b := s.beat
      let begun := o.begun
      let e := { o with phase := .ended, status := status, detail := detail, endB := b, startB := if begun then o.startB else b,
                        beats := if begun then min (b + 1 - o.startB) 0xFFFFFF else 0 }
      let s := s.mapOp q sn (fun _ => e)
      let s := { s with pieces := s.pieces.filter (fun p => !(p.q == q && p.s == sn)), accs := s.accs.filter (fun a => !(a.q == q && a.s == sn)),
                        spills := s.spills.filter (fun x => !(x.q == q && x.s == sn)), roots := s.roots.filter (fun x => !(x.q == q && x.s == sn)),
                        nodes := s.nodes.filter (fun x => !(x.q == q && x.s == sn)) }
      let s := s.releasePlanes o
      let s := if status = stLinkLost then { s with sentOut := s.sentOut.filter (fun m => !(m.q == q && m.s == sn)) } else s
      let s := if begun ∧ status / 256 = 2 ∧ (o.d.cls, o.d.op) ≠ (8, 0) ∧ (o.d.cls, o.d.op) ≠ (7, 0) then s.looseResults o o.objs else s
      let s := if s.endRetires o then s.retireMb o.ctx o.d.mb else s
      let s := if o.d.cls = 7 ∧ o.d.op = 0 ∧ status / 256 ≠ 1 then s.seqEnd e else s
      let s := if o.d.cascade ∧ status / 256 ≠ 1 then s.bump Reg.xcnt 63 32 1 else s
      let s := if o.d.cascade ∧ 0x200 ≤ status ∧ o.rc 5 ≠ [] then s.abandon o else s
      let s := if 0x100 ≤ status ∧ status ≠ stCancelled then s.haltOn q sn status else s
      (s.freshen.noteDeps).syncQ q

/-- Pieces of an op that run. -/
def State.runs (s : State) (q sn : Nat) : Bool := s.pieces.any (fun p => p.q == q && p.s == sn && p.phase == PiecePhase.running)

/-- Has every piece of an op ended: those it is cut into, where it is cut, and its replays? -/
def State.piecesEnded (s : State) (o : OpRec) : Bool :=
  !s.pieces.any (fun p => p.q == o.q && p.s == o.s && p.phase != PiecePhase.ended) &&
    (o.d.cascade || (List.range o.split.length).all (fun k => s.pieces.any (fun p => p.q == o.q && p.s == o.s && p.idx == k)))

/-- Has a started op reached its end: every piece ended, every work unit performed, its tile-wise producers' records written (R55), no
detection that waits for the boundary (R137); or, when it fails, no piece of it running (R622)? -/
def State.finished (s : State) (o : OpRec) : Bool :=
  o.phase == .started && !s.watchHolds o.q o.s &&
    match o.failing with
    | some _ => !s.runs o.q o.s
    | none => decide (o.units ≤ o.done.length) && s.piecesEnded o && s.depsOk o &&
      (o.d.cls != 0 || o.d.cascade) && (!s.sentOut.any (fun m => m.q == o.q && m.s == o.s) || o.rc 5 == [])

/-- The object whose record a histogram is: the op's result, for an APPLY its master. -/
def OpRec.main (o : OpRec) : Option Obj := if o.d.cls = 8 ∧ o.d.op = 0 then o.obj 1 else o.obj 3

/-- Write the histogram that an op asked for, with its counts so far. -/
def State.putHist (s : State) (o : OpRec) (h d : Obj) : Except Fail State :=
  s.writeHist (o.wr h false) h (o.aux.get (fun _ => 0) 201) o.ctx d.id o.hist

/-- End an op that has reached its end. The histogram it asked for stands first (R131). -/
def State.finish (s : State) (o : OpRec) : State :=
  match o.failing with
  | some (st, dt) => s.endOp o.q o.s st dt
  | none =>
    let (st, dt) := if o.units = 0 ∨ o.d.noData = true then (stZero, 0) else o.goodStatus
    match o.obj 6, o.main with
    | some h, some d =>
      match s.putHist o h d with
        | .ok s => s.endOp o.q o.s st dt
        | .error f => (s.failRecord f (h.addr 0) (some (o.q, o.s, o.ctx))).endOp o.q o.s (failStatus f 3).1 (failStatus f 3).2
    | _, _ => s.endOp o.q o.s st dt

/-- End every op of a list that has reached its end. -/
def State.finishAll (s : State) : List OpRec → State
  | [] => s
  | o :: os =>
    let s := match s.op? o.q o.s with
      | some o => if s.finished o then s.finish o else s
      | none => s
    s.finishAll os

/-- End every op that has reached its end. -/
def State.settle (s : State) : State := s.finishAll s.ops

/-- A failure that an op meets after its first has a fault record of its own (R64): one of a kind that no detector reports is formed here. -/
def State.otherFailure (s : State) (o : OpRec) (status : Nat) : State :=
  let cls := if status = stLinkLost then 3 else if status = stHostLost then 8 else if status = stDepFail then 5 else 0
  if cls = 0 then s else s.form { cls := cls, sev := 0, rtype := 3, det := 0, op := some (o.q, o.s, o.ctx), info := status }

/-- An op meets a failure: a later one is reported by a record alone (R64); an op not started ends at once; a started one starts no further piece. -/
def State.markFail (s : State) (q sn status detail : Nat) : State :=
  match s.op? q sn with
  | none => s
  | some o =>
    match o.phase with
    | .ended => s
    | .taken => s.endOp q sn status detail
    | .started =>
      if o.failing.isSome then s.otherFailure o status
      else
        let s := s.mapOp q sn (fun o => { o with failing := some (status, detail) })
        { s with pieces := s.pieces.filter (fun p => !(p.q == q && p.s == sn) || p.phase == PiecePhase.running || p.phase == PiecePhase.ended) }

/-- The counts of two parts of an op's result as one (R131). -/
def histJoin (h : Tab Nat) : Tab Nat → Tab Nat
  | [] => h
  | (k, v) :: ks =>
    let h := if k = hAmax then h.set (fun _ => 0) k (max (histGet h k) v)
      else if k = hSat then h.set (fun _ => 0) k (max (histGet h k) v)
      else
        let n := if k = hElems ∨ k = hZeros then 64 else 32
        let t := histGet h k + v
        if satMax n < t then (h.set (fun _ => 0) k (satMax n)).set (fun _ => 0) hSat 1 else h.set (fun _ => 0) k t
    histJoin h ks

/-- HISTOGRAM_ADD: as a piece of an op ends without a stop its counts `add` join the op's (R217), and the record holds the op's counts and nothing of its
earlier content (R225). -/
def State.addHist (s : State) (q sn : Nat) (add : Tab Nat) : State :=
  match s.op? q sn with
  | none => s
  | some o =>
    match o.obj 6, o.main with
    | some h, some d =>
      let o := { o with hist := histJoin o.hist add }
      let s := s.mapOp q sn (fun x => { x with hist := o.hist })
      if o.phase ≠ .started ∨ o.failing.isSome then s
      else match s.putHist o h d with
        | .ok s => s
        | .error f => (s.failRecord f (h.addr 0) (some (o.q, o.s, o.ctx))).markFail q sn (failStatus f 3).1 (failStatus f 3).2
    | _, _ => s

/-- The failure of an op, and the end of those that have reached it: a started op ends when its running pieces have ended (R622). -/
def State.failOp (s : State) (q sn status detail : Nat) : State := (s.markFail q sn status detail).settle

/-- DEP_FAIL at a release: every op that names one of the released producers, in slot order (R56). -/
def State.depFail (s : State) (gone : List (Nat × Nat)) : List OpRec → State
  | [] => s
  | o :: os =>
    let hit := fun k => o.d.depV k && gone.contains (o.d.depQ k, o.d.depS k)
    let s := if o.phase == .ended then s
      else if hit 0 then s.failOp o.q o.s stDepFail 0
      else if hit 1 then s.failOp o.q o.s stDepFail 1
      else s
    s.depFail gone os

/-- The failed ops of a queue that have ended and are not retired. -/
def State.failed (s : State) (q : Nat) : List (Nat × Nat) :=
  (s.ops.filter (fun o => o.q == q && o.phase == .ended && decide (0x100 ≤ o.status) && !o.gone)).map (fun o => (o.q, o.s))

/-- Release the failures of the failed ops of a queue that have ended: those taken in before that name them end DEP_FAIL (R56). -/
def State.releaseOnce (s : State) (q : Nat) : State :=
  let gone := s.failed q
  let s := { s with ops := s.ops.map (fun (o : OpRec) => if gone.contains (o.q, o.s) then { o with gone := true } else o) }
  s.depFail gone s.ops

/-- Retire every failed op of a queue that has ended: the release of its failures (R56), after which RIG_QDONE may pass it. -/
def State.release (s : State) (q : Nat) : State :=
  let s := s.releaseOnce q
  s.retireOps q s.ops.length

/-- The release at the end of a flush: an op of the queue that only it could end is retired in it too, and its own failure released (R50, R56). -/
def State.releaseAll (s : State) (q : Nat) : Nat → State
  | 0 => s
  | f + 1 =>
    let s := s.releaseOnce q
    if (s.failed q).isEmpty then s.retireOps q s.ops.length else s.releaseAll q f

/-! ### Starting -/

/-- Collectives of the op's group that run (R341). -/
def State.inFlight (s : State) (o : OpRec) : Nat :=
  (s.ops.filter (fun p => p.d.collective && p.phase == .started && p.gid == o.gid)).length

/-- May a cascade op start: not while the module is UNALIGNED (R361), nor beyond 16 collectives of one group (R341)? -/
def State.castOk (s : State) (o : OpRec) : Bool :=
  !o.d.cascade || s.alignState != 0 && (!o.d.collective || decide (s.inFlight o < 16))

/-- May an op start: on a queue with EN set, on a halted one only of lower serial than the failure (Table 2.10); and a cascade op under its own rules? -/
def State.startable (s : State) (o : OpRec) : Bool :=
  s.enabled o.q && (!s.qHalted o.q || before o.s (s.fld (Reg.qerr o.q) 31 0)) && s.castOk o

/-- The beat after the dependencies were satisfied has come (R42, R623). -/
def State.depPast (s : State) (o : OpRec) : Bool :=
  match o.depBeat with
  | some b => decide (b < s.beat)
  | none => false

/-- The work of an op begins, with its first piece or without one: BEAT_START is this beat (R60). -/
def OpRec.begin (o : OpRec) (b : Nat) : OpRec := if o.begun then o else { o with begun := true, startB := b }

/-- Is a cascade op one that moves nothing over a port, and so has no pieces: SYNC, one without data, a collective of one member? -/
def OpRec.stays (o : OpRec) : Bool := o.d.cascade && (o.d.cls == 0 || o.d.noData || o.d.collective && o.size == 1)

/-- An op starts: its pieces may run. `aux` 208 keeps the beat, for LIMIT (R341). -/
def State.startOp (s : State) (o : OpRec) : State :=
  s.mapOp o.q o.s (fun o => let o := { o with phase := .started, aux := o.aux.set (fun _ => 0) 208 s.beat }; if o.stays then o.begin s.beat else o)

/-- The work of an op begins. -/
def State.beginOp (s : State) (q sn : Nat) : State := s.mapOp q sn (fun o => o.begin s.beat)

/-- An op without work starts and ends in one beat (R36, R623), writing an empty histogram where it asked for one (R131). -/
def State.startIdle (s : State) (o : OpRec) (status : Nat) : State :=
  let s := (s.startOp o).beginOp o.q o.s
  match o.obj 6, o.main with
  | some h, some d =>
    match s.writeHist (o.wr h false) h (o.aux.get (fun _ => 0) 201) o.ctx d.id [] with
    | .ok s => s.endOp o.q o.s status 0
    | .error f => (s.failRecord f (h.addr 0) (some (o.q, o.s, o.ctx))).endOp o.q o.s (failStatus f 3).1 (failStatus f 3).2
  | _, _ => s.endOp o.q o.s status 0

/-! ### Work -/

/-- A failed access of a piece: the operand slot and the address. -/
structure WorkFail where
  slot : Nat
  fail : Fail
  addr : Nat
  deriving DecidableEq, Repr

/-- An access on behalf of operand slot `k`. -/
def slotted {α : Type} (k a : Nat) (x : Except Fail α) : Except WorkFail α :=
  match x with
  | .ok v => .ok v
  | .error f => .error ⟨k, f, a⟩

/-- Does a piece of an op run on this unit and cover work units `first` to `first + n - 1`? One that has met a failed access performs nothing more. -/
def PieceRec.covers (p : PieceRec) (q sn unit first n : Nat) : Bool :=
  p.q == q && p.s == sn && p.phase == PiecePhase.running && !p.failed && p.unit == unit && decide (p.part.first ≤ first) &&
    decide (first + n ≤ p.part.first + p.part.n)

/-- Does an armed injection keep a piece from making progress, which started once it was armed, until the unit's watchdog fires (Table 19.8, KIND 1)? -/
def State.noProgress (s : State) (p : PieceRec) : Bool :=
  s.armed.any (fun a => a.reg == Reg.fltInj && a.kind == 1 && a.target == p.unit && decide (a.beat ≤ p.startB))

/-- The op whose work a command performs: of this class and code, started (or in replay), with a running piece on this unit that covers the work units.
The running pieces of an op that fails go on (R622). -/
def State.worker (s : State) (cls op q sn unit first n : Nat) : Option OpRec :=
  match s.opAny q sn with
  | none => none
  | some o =>
    if o.d.cls = cls ∧ o.d.op = op ∧ o.phase ≠ .taken ∧ s.pieces.any (fun p => p.covers q sn unit first n && !s.noProgress p) = true then some o else none

/-- The pieces of an op that run on a unit have met a failed access. -/
def State.pieceFails (s : State) (q sn unit : Nat) : State :=
  { s with pieces := s.pieces.map (fun (p : PieceRec) => if p.q = q ∧ p.s = sn ∧ p.unit = unit ∧ p.phase = .running then { p with failed := true } else p) }

/-- Note a failure of the work on a unit: its record and the op's failure, beside one that the op has met already its own record (R64). A class A detection
and a request that waits leave the work undone. -/
def State.workFails (s : State) (o : OpRec) (unit : Nat) (w : WorkFail) : State :=
  match w.fail with
  | .classA | .wait => s
  | f =>
    let s := s.failRecord f w.addr (some (o.q, o.s, o.ctx))
    let s := if f = .trans ∧ o.failing.isSome = true then s.addrRecord w.addr (some (o.q, o.s, o.ctx)) else s
    (s.pieceFails o.q o.s unit).failOp o.q o.s (failStatus f w.slot).1 (failStatus f w.slot).2

/-- The op as a unit transfers for it: one that has acknowledged an invalidation uses the new translation, strand bundles and the Rigger's staging as
one (R462). -/
def State.view (s : State) (unit : Nat) (o : OpRec) : OpRec :=
  match s.inv with
  | some i =>
    let u := if 152 ≤ unit ∧ unit < 184 then 254 else unit
    if !i.drain && i.ctx == o.ctx && !i.units.contains u && !o.objs2.isEmpty then { o with objs := o.objs2 } else o
  | none => o

/-- Put an op back after work done for it, its captured translations as they are. -/
def State.putOp (s : State) (o : OpRec) : State := s.mapOp o.q o.s (fun p => { o with objs := p.objs, objs2 := p.objs2 })

/-- The running pieces of an op that cover work unit `u` have performed it. -/
def State.pieceDid (s : State) (q sn u : Nat) : State :=
  { s with pieces := s.pieces.map (fun (p : PieceRec) =>
    if p.q = q ∧ p.s = sn ∧ p.phase = .running ∧ p.part.first ≤ u ∧ u < p.part.first + p.part.n ∧ p.did.contains u = false then { p with did := p.did ++ [u] } else p) }

/-- Counts of work unit `u` join those of the piece on this unit that performs it: the op's are taken from a piece when it ends (R217). -/
def State.pieceCount (s : State) (q sn unit u : Nat) (add : Tab Nat) : State :=
  { s with pieces := s.pieces.map (fun (p : PieceRec) => if p.covers q sn unit u 1 then { p with hist := histJoin p.hist add } else p) }

/-- Perform work units from `u` on with `f`, which answers the op, its histogram counts those of the unit, and the state after one unit. -/
def State.perform (s : State) (q sn unit : Nat) (f : OpRec → State → Nat → Except WorkFail (OpRec × State)) (u : Nat) : Nat → State
  | 0 => s
  | n + 1 =>
    match s.opAny q sn with
    | none => s
    | some o =>
      match f { s.view unit o with hist := [] } s u with
      | .error w => s.workFails o unit w
      | .ok (o2, s) =>
        let o3 := { o2 with hist := o.hist, done := if o2.done.contains u then o2.done else o2.done ++ [u] }
        (((s.putOp o3).pieceDid q sn u).pieceCount q sn unit u o2.hist).perform q sn unit f (u + 1) n

/-- A work command: performed where its op is at work there, on a unit in service, else it takes no place. Its use of the unit's detectors meets the
injections armed for them (`meet`): one that stops the unit leaves the work undone. -/
def State.workOn (s : State) (meet : State → State × Bool) (cls op q sn unit first n : Nat) (f : OpRec → State → Nat → Except WorkFail (OpRec × State)) :
    State :=
  match s.worker cls op q sn unit first n with
  | none => s
  | some _ =>
    match meet s with
    | (s, true) => s
    | (s, false) => s.perform q sn unit f first n

/-- Work on a unit that has no detectors with an injection of their own. -/
def unmet (s : State) : State × Bool := (s, false)

/-- The op enters the replay journal when it writes a class A tile; beyond 65,536 entries the oldest leaves (R395). -/
def State.journalAdd (s : State) (o : OpRec) (d : Obj) : State :=
  if d.pclass = 1 ∧ !(s.journal.any (fun j => j.q == o.q && j.s == o.s)) then
    let j := s.journal ++ [o]
    { s with journal := j.drop (j.length - 65536) }
  else s

/-- Bookkeeping of a tile of D written: WORK counts it once, the write's path, the journal. -/
def State.wroteTile (s : State) (o : OpRec) (d : Obj) (p r c : Nat) : OpRec × State :=
  let t := d.tileNo p r c
  let o := if o.tiles.contains t then o else { o with tiles := o.tiles ++ [t] }
  (o, s.journalAdd o d)

/-! ### Units and re-placement (R85, R103) -/

/-- The first unit index and the number of units of a unit's kind (Table 3.2). -/
def unitKind (u : Nat) : Nat × Nat :=
  if u < 16 then (0, 16)
  else if u < 32 then (16, 16)
  else if u < 36 then (32, 4)
  else if u < 40 then (36, 4)
  else if u < 56 then (40, 16)
  else if u < 152 then (56, 96)
  else if u < 184 then (152, 32)
  else (184, 1)

/-- The two ends of a bundle (Table 17.1): dies 0 to 3, 4 for the hub. -/
def bundleEnds (b : Nat) : Nat × Nat :=
  if b < 4 then (0, 1)
  else if b < 8 then (0, 2)
  else if b < 12 then (0, 3)
  else if b < 16 then (1, 2)
  else if b < 20 then (1, 3)
  else if b < 24 then (2, 3)
  else ((b - 24) / 2, 4)

/-- The status register of an engine: BUSY 0, INSERVICE 1, TESTING 2. -/
def unitStat (u : Nat) : Nat :=
  if u < 16 then Reg.mxeStat u
  else if u < 32 then Reg.vxeStat (u - 16)
  else if u < 36 then Reg.asqStat (u - 32)
  else if u < 40 then Reg.stmStat (u - 36)
  else if u < 56 then Reg.uuStat (u - 40)
  else Reg.itkStat

/-- Is a unit in service: an engine by its INSERVICE bit, a port UP, a bundle FULL or HALF? -/
def State.unitIn (s : State) (u : Nat) : Bool :=
  if u < 56 ∨ u = 184 then s.flag (unitStat u) 1
  else if u < 152 then s.portUp (u - 56)
  else if u < 184 then s.fld (Reg.stlBstat (u - 152)) 63 62 == 1 || s.fld (Reg.stlBstat (u - 152)) 63 62 == 2
  else false

/-- Does the op's hint permit a unit (R101): UNITMASK for MXEs and VXEs, DIEMASK for every engine of a die? -/
def OpRec.permits (o : OpRec) (u : Nat) : Bool :=
  let um := o.hintAt 58 43
  let dm := o.hintAt 42 39
  (decide (32 ≤ u) || um == 0 || decide (um / 2 ^ (u % 16) % 2 = 1)) &&
    match unitDie u with
    | some d => dm == 0 || decide (dm / 2 ^ d % 2 = 1)
    | none => true

/-- Units of a kind in service, but for one. -/
def State.unitsIn (s : State) (u but : Nat) : List Nat :=
  ((List.range (unitKind u).2).map (· + (unitKind u).1)).filter (fun v => v != but && s.unitIn v)

/-- Where a piece goes that unit `u` cannot run: the lowest permitted unit of the kind in service, else the lowest in service. A port's piece goes to a port
with the same far end, else to one on a route to a partner of the op (R349); a bundle's to a bundle of the same pair (R529); where there is none it stays,
for only a link's own rules end an op (R355, R529). -/
def State.rehome (s : State) (o : OpRec) (u : Nat) : Option Nat :=
  let vs := s.unitsIn u u
  if 56 ≤ u ∧ u < 152 then
    match vs.find? (fun v => s.rd (Reg.pfar (v - 56)) == s.rd (Reg.pfar (u - 56))) with
    | some v => some v
    | none => some ((vs.find? (fun v => o.partners.any (fun a => (s.routePorts a).contains (v - 56)))).getD u)
  else if 152 ≤ u ∧ u < 184 then
    some ((vs.find? (fun v => s.fld (Reg.stlBstat (v - 152)) 61 56 == s.fld (Reg.stlBstat (u - 152)) 61 56)).getD u)
  else match vs.find? o.permits with
    | some v => some v
    | none => vs.head?

/-- Does a STRICT hint leave no permitted unit of this kind in service (R103)? -/
def State.hintDead (s : State) (o : OpRec) (u : Nat) : Bool :=
  o.hintAt 62 62 == 1 && !(s.unitsIn u 1024).any o.permits && !(s.unitsIn u 1024).isEmpty

/-- The lowest of some units, or another where there is none. -/
def lowestOf (other : Nat) : List Nat → Nat
  | [] => other
  | u :: us => us.foldl min u

/-- Rows and channels of a stem engine's lane shape for results of `cols` channels (R292). -/
def stemLanes (cols : Nat) : Nat × Nat := if cols ≤ 16 then (128, 16) else (64, 32)

/-- Group `g` of a result on a stem engine (R295): its plane or, of a weight gradient, its frame, its first row and its first channel. -/
def stemGroup (d : Obj) (g : Nat) : Nat × Nat × Nat :=
  let (a, b) := stemLanes d.cols
  let nr := ceilDiv d.rows a
  let nc := ceilDiv d.cols b
  (g / (nr * nc), g / nc % nr * a, g % nc * b)

/-- GFIRST of GRAM and ROOT, and the plane, tile row and tile column of a work unit of an op whose units are tiles. -/
def Desc.gfirst (d : Desc) : Nat := if d.cls = 8 then d.par 1 else 0
def OpRec.tileOf (o : OpRec) (d : Obj) (u : Nat) : Nat × Nat × Nat := if o.d.cls = 8 then (o.d.gfirst + u, 0, 0) else d.tileAt u
def OpRec.workOf (o : OpRec) (d : Obj) (p r c : Nat) : Nat := if o.d.cls = 8 then p - o.d.gfirst else d.tileNo p r c

/-- Finished work that a unit loses: the op, the work unit, and the slices of its node tile (none: the tile itself). -/
structure Lost where
  q    : Nat
  s    : Nat
  work : Nat
  node : Option (Nat × Nat)
  deriving DecidableEq, Repr

/-- Does a part of the op form work unit `u` (on an MXE by a run of its band, on a stem engine by one of its groups), or the node of it named? Ways, and the
port pieces that send a node tile, count with its node. -/
def partForms (o : OpRec) (x : Part) (u : Nat) (node : Option (Nat × Nat)) : Bool :=
  match o.obj 3 with
  | none => false
  | some d =>
    let (p, r, c) := o.tileOf d u
    if x.kind = 0 then
      x.runs.any (fun k => k.p == p && k.c == c && decide (k.r0 ≤ r) && decide (r < k.r0 + k.h) && (match node with
        | some (a, b) => decide (a ≤ k.lo) && decide (k.hi ≤ b)
        | none => true))
    else if x.kind = 36 then
      (List.range x.n).any (fun k =>
        let (f, i, j) := stemGroup d (x.first + k)
        i / 128 == r && j / 128 == c && (if o.d.op = 2 then match node with
          | some (a, b) => f == a / (b - a)
          | none => true
         else f == p))
    else if x.kind = 56 then x.dir == 0 && x.first == u && node.isSome
    else x.kind != 16 && x.first == u && node == some (x.lo, x.hi)

/-- Is an open tile's band one that a part runs, or its group one that a part covers? -/
def partHolds (x : Part) (a : AccBlock) : Bool :=
  if x.kind = 0 then x.runs.any (fun r => r.quad == a.quad && (r.p, r.c, r.r0) == a.band && r.lo == a.lo && r.hi == a.hi)
  else decide (x.first ≤ a.band.1) && decide (a.band.1 < x.first + x.n)

/-- Is an op one that runs tile pairs, each on an MXE, the ASQ of its die and the paired VXE (R273)? -/
def OpRec.attends (o : OpRec) : Bool := o.d.cls == 3 && decide (o.d.op < 2)

/-- The unit of a kind that serves the pairs of MXE `m`. -/
def attPlace (m kind : Nat) : Nat := if kind = 32 then 32 + m / 4 else if kind = 16 then 16 + m else m

/-- The pieces that run the same pairs as an ATTN piece, itself among them. -/
def State.trio (s : State) (p : PieceRec) : List PieceRec :=
  s.pieces.filter (fun x => x.q == p.q && x.s == p.s && x.part.first == p.part.first && x.part.n == p.part.n && x.part.lo == p.part.lo &&
    x.part.hi == p.part.hi && x.reader == p.reader)

/-- An MXE for pairs that lose a unit: the lowest permitted one in service whose ASQ and VXE are, else the lowest such (R275). -/
def State.attMxe (s : State) (o : OpRec) : Option Nat :=
  let ok := fun m => [0, 16, 32].all (fun k => s.unitIn (attPlace m k))
  match (List.range 16).find? (fun m => ok m && [0, 16, 32].all (fun k => o.permits (attPlace m k))) with
  | some m => some m
  | none => (List.range 16).find? ok

/-- Does work of a piece lie open on its unit: a band or group in the unit's accumulators (R172, R298), a ROOT plane in progress (R327), a query tile
(R267)? -/
def State.leftOpen (s : State) (p : PieceRec) : Bool :=
  (match s.opAny p.q p.s with
    | some o => o.attOpen.any (fun a => decide (p.part.first ≤ a.u) && decide (a.u < p.part.first + p.part.n) && attPlace a.mxe p.part.kind == p.unit)
    | none => false) ||
  s.accs.any (fun a => a.unit == p.unit && a.q == p.q && a.s == p.s && partHolds p.part a) ||
    s.roots.any (fun r => r.unit == p.unit && r.q == p.q && r.s == p.s && decide (p.part.first ≤ r.plane) && decide (r.plane < p.part.first + p.part.n))

/-- Is a piece on unit `u` to be run again elsewhere: not ended, or ended with its work still open in what the unit loses? A port's started pieces go on: its
retry buffer is sent again (R536). -/
def State.lostOn (s : State) (u : Nat) (p : PieceRec) : Bool :=
  p.unit == u && if 56 ≤ u ∧ u < 152 then p.phase == .planned || p.phase == .committed else p.phase != .ended || s.leftOpen p

/-- A piece as it is committed to another unit: nothing of it done. -/
def PieceRec.again (p : PieceRec) (v : Nat) : PieceRec :=
  { p with unit := v, vxe := v, did := [], pos := [], hist := [], failed := false,
           phase := if p.phase = .planned then .planned else .committed }

/-- Are an op's work units performed at most once whatever is run again: an APPLY's blocks, a GRAM's folds, a ROOT's planes (R309, R324, R326)? -/
def OpRec.once (o : OpRec) : Bool := o.d.cls == 8

/-- Is a piece one that formed finished work now lost? -/
def PieceRec.remade (o : OpRec) (gone : List Lost) (p : PieceRec) : Bool :=
  p.phase != .planned && gone.any (fun g => g.q == p.q && g.s == p.s && partForms o p.part g.work g.node)

/-- Where the pieces of an op go that unit `u` cannot run, as a function of the piece; `none` where no unit is left for them. -/
def State.destOf (s : State) (o : OpRec) (u : Nat) : Option (PieceRec → Nat) :=
  if o.attends then (s.attMxe o).map (fun m p => attPlace m p.part.kind) else (s.rehome o u).map (fun v p => if p.unit = u then v else p.unit)

/-- Re-place the pieces of one op that a stop of unit `u` loses, with those on other units that formed finished work it held and those of the same pairs: the
committed ones are committed to another unit, and the op ends REPLAYED; with no unit of the kind left it ends ENGINE_FAULT (R85), and so does the op whose
read a lost replay was for. A failing op starts none again (R622). A slice's reductions need no UU, a SEQSET's records no ASQ in service (R275). -/
def State.rehomeOp (s : State) (u : Nat) (gone : List Lost) (o : OpRec) : State :=
  let mine := fun (p : PieceRec) => p.q == o.q && p.s == o.s && (s.lostOn u p || p.remade o gone)
  let here := fun (p : PieceRec) => mine p || o.attends && p.q == o.q && p.s == o.s && (s.trio p).any mine
  let lost := (s.pieces.filter (fun p => here p && p.phase != .planned)).length
  let again := (s.pieces.filter (fun p => here p && (p.phase == .running || p.phase == .ended))).length
  if !s.pieces.any here || decide (56 ≤ u ∧ u < 184 ∧ s.rehome o u = some u) || (o.d.cls == 7 && decide (40 ≤ u) && decide (u < 56)) || o.d.cls == 3 && o.d.op == 2 then s
  else if o.failing.isSome then { s with pieces := s.pieces.filter (fun p => !here p) }
  else match (if s.pieces.any (fun p => here p && p.unit == u) then s.destOf o u else some (fun p => p.unit)) with
    | some f =>
      let miss := decide (u < 56) && s.hintDead o u
      let undone := if o.once then [] else ((s.pieces.filter (fun p => here p && p.phase == .running)).map PieceRec.did).flatten
      let s := s.cond miss (fun s => s.bump Reg.hintMiss 63 0 1)
      let open_ := fun (a : AttOpen) => s.pieces.any (fun p => here p && decide (p.part.first ≤ a.u) && decide (a.u < p.part.first + p.part.n))
      let t := s.mapOp o.q o.s (fun o => { o with replayB := o.replayB || decide (0 < lost), replays := o.replays + again,
                                                  done := o.done.filter (fun k => !undone.contains k), attOpen := o.attOpen.filter (fun a => !open_ a) })
      { t with pieces := s.pieces.map (fun p => if here p then p.again (f p) else p) }
    | none =>
      let us := (s.pieces.filter (fun p => p.q == o.q && p.s == o.s && p.phase != PiecePhase.ended && p.phase != PiecePhase.planned)).map
        (fun p => p.unit)
      let readers := (s.pieces.filter here).filterMap (fun p => p.reader)
      let s := { s with pieces := s.pieces.filter (fun p => !here p) }
      let s := readers.foldl (fun s r => s.failOp r.1 r.2.1 stEngineFault u) s
      s.failOp o.q o.s stEngineFault (lowestOf (unitKind u).1 us)

/-- Re-place every op's pieces on a unit, and those that formed lost work. -/
def State.rehomeAll (s : State) (u : Nat) (gone : List Lost) : List OpRec → State
  | [] => s
  | o :: os => (s.rehomeOp u gone o).rehomeAll u gone os

/-- Is this finished tile one of a piece on unit `u` that has not ended? -/
def State.entryOpen (s : State) (u : Nat) (t : TileEntry) : Bool :=
  t.unit == u && s.pieces.any (fun p => p.q == t.q && p.s == t.s && p.idx == t.piece && p.unit == u && p.phase != PiecePhase.ended)

/-- The node tile as lost work, where this module formed it. -/
def NodeTile.lost (own : Nat) (n : NodeTile) : Option Lost := if n.src = own then some ⟨n.q, n.s, n.work, some (n.lo, n.hi)⟩ else none

/-- A unit leaves service, and the finished tiles that `drop` names are discarded with it, as are those of a piece of its that has not ended (R217) and the
open tiles, node tiles and planes it held (R172, R197): the pieces that formed them, and its other pieces, are re-placed. Node tiles of other modules
stay. -/
def State.unitOutWith (s : State) (u : Nat) (drop : TileEntry → Bool) : State :=
  let s := (s.putBit (unitStat u) 1 false).putBit (unitStat u) 0 false
  let inQ := fun (t : TileEntry) => s.entryOpen u t || drop t
  let wait := fun (t : TileEntry) => t.unit == u || drop t
  let gone := ((s.tileQ.filter inQ) ++ (s.stalled.filter wait)).map (fun t => (⟨t.q, t.s, t.work, none⟩ : Lost)) ++
    (s.nodes.filter (fun n => n.unit == u)).filterMap (NodeTile.lost s.selfAddr)
  let t := { s with tileQ := s.tileQ.filter (fun t => !inQ t), stalled := s.stalled.filter (fun t => !wait t) }
  let t := t.rehomeAll u gone (t.ops ++ t.journal)
  ({ t with accs := t.accs.filter (fun a => a.unit != u), roots := t.roots.filter (fun r => r.unit != u),
            nodes := (t.nodes.filter (fun n => n.unit != u || n.src != s.selfAddr)).map (fun n => if n.unit = u then { n with unit := 255 } else n) } : State).settle

/-- A unit leaves service. -/
def State.unitOut (s : State) (u : Nat) : State := s.unitOutWith u (fun _ => false)

/-- A unit returns to service. -/
def State.unitBack (s : State) (u : Nat) : State := (s.putBit (unitStat u) 1 true).putBit (unitStat u) 2 false

/-! ### Capacity and running totals (R76 to R79) -/

/-- Capacity per beat of a unit (Table 3.2, R604, R528). -/
def State.capacity (s : State) (u : Nat) : Nat :=
  if u < 40 then (s.fld Reg.beatCyc 15 0 - s.fld Reg.beatMargin 8 0) / s.capShare
  else if u < 56 then 1280000
  else if u < 152 then 25000
  else if u < 184 then (if s.fld (Reg.stlBstat (u - 152)) 63 62 = 1 then 128000 else 256000)
  else 2000

/-- The running total of a unit and direction. -/
def State.total (s : State) (u dir : Nat) : Nat := s.totals.get (fun _ => 0) (2 * u + dir)
def State.setTotal (s : State) (u dir v : Nat) : State := { s with totals := s.totals.set (fun _ => 0) (2 * u + dir) v }

/-- plan(u, p) of R78: the new running total, and the beat in which the piece is planned to end. -/
def planBeat (cap total earliest cost : Nat) : Nat × Nat :=
  let t := max total (earliest * cap) + cost
  (t, ceilDiv t cap - 1)

/-- Plan again, in plan order from total `t` on, the pieces of a unit and direction that are planned and not committed. -/
def replan (cap u dir : Nat) : Nat → List PieceRec → Nat × List PieceRec
  | t, [] => (t, [])
  | t, p :: ps =>
    if p.unit = u ∧ p.dir = dir ∧ p.phase = .planned then
      let (t2, b) := planBeat cap t p.earliest p.cost
      let (t3, qs) := replan cap u dir t2 ps
      (t3, { p with planned := b, atCommit := b } :: qs)
    else
      let (t3, qs) := replan cap u dir t ps
      (t3, p :: qs)

/-- The capacity of a unit has changed: its total starts again behind its last committed piece (R79), and what is planned and not committed is planned
again at the new capacity (R97). -/
def State.retotal (s : State) (u dir : Nat) : State :=
  let cap := s.capacity u
  let (t, ps) := replan cap u dir (s.lastBeat.get (fun _ => 0) (2 * u + dir) * cap) s.pieces
  ({ s with pieces := ps } : State).setTotal u dir t

/-- Change what sets the capacity of the arithmetic units. -/
def State.recap (s : State) (f : State → State) : State :=
  let old := s.capacity 0
  let t := f s
  if t.capacity 0 = old then t else t.each 40 (fun t u => t.retotal u 0)

/-- A repair entry (Table 18.11). -/
def repairEntry (kind unit detail : Nat) : Word := word [(60, kind), (52, unit), (0, detail)]

end Sys2Proof.Machine
end

