-- ==== Sys2Proof/Machine/Queue.lean ====
section
/-! DEFINITION. Hardware queues, starting ops, NOP and WAIT, and completion records (chapter 02). -/

namespace Sys2Proof.Machine

/-! ### Doorbell and queue control -/

/-- DOORBELL (R45). -/
def execDoorbell (q : Nat) (t : BitVec 32) (s : State) : Outcome :=
  let n := s.ringEntries q
  let d := fun (x : Nat) => (t.toNat + 2 ^ 32 - x) % 2 ^ 32
  if s.enabled q && !s.flushing q && decide (d (s.fld (Reg.qtail q) 31 0) ≤ n) && decide (d (s.fld (Reg.qhead q) 31 0) ≤ n) then
    .next (s.put (Reg.qtail q) 31 0 t.toNat)
  else .next (s.putBit (Reg.qstat q) 2 true)

/-- Does a ring lie wholly within one of the HBM, deep-tier and host-window regions, below the populated top in HBM (R49)? -/
def State.ringOk (s : State) (a n : Nat) : Bool :=
  let z := a + n - 1
  match region a with
  | .hbm => region z == .hbm && s.populated z
  | .deep => region z == .deep
  | .host => region z == .host
  | _ => false

/-- The checks at EN (R49, Table 2.10): both SIZE valid and every address in its regions. -/
def State.queueOk (s : State) (q : Nat) : Bool :=
  let f := s.fld (Reg.qflag q) 43 3 * 8
  s.fld (Reg.qbase q) 3 0 != 15 && s.fld (Reg.qcr q) 3 0 != 15 &&
    s.ringOk (s.fld (Reg.qbase q) 43 12 * 4096) (64 * s.ringEntries q) && s.ringOk (s.fld (Reg.qcr q) 43 12 * 4096) (32 * s.crEntries q) &&
    (f == 0 || region f == .hbm || region f == .deep || region f == .host)

/-- EN_SET (R50): EN ← 1. A queue with HALT = 1 becomes HALTED, any other RUNNING; a failed check leaves EN 0 with CFGERR. -/
def execEnSet (q : Nat) (s : State) : Outcome :=
  if s.enabled q then .next s
  else if s.flushing q || s.queueOk q then .next (s.putBit (Reg.qctl q) 0 true)
  else .next (s.putBit (Reg.qstat q) 4 true)

/-- EN_CLEAR (R50): EN ← 0; HALT, RIG_QERR and a flush in progress stay. -/
def execEnClear (q : Nat) (s : State) : Outcome := .next (s.putBit (Reg.qctl q) 0 false)

/-- An op record as take-in or a flush makes it, with nothing done. -/
def freshOp (q sn ctx : Nat) (d : Desc) : OpRec :=
  { q := q, s := sn, ctx := ctx, d := d, objs := [], objs2 := [], recs := [], members := [], windows := [], num := 0, phase := .taken, depBeat := none,
    startB := 0, endB := 0, beats := 0, reads := [], failing := none, status := 0, detail := 0, slips := 0, replays := 0, replayA := false,
    replayB := false, late := false, units := 0, noWork := false, done := [], tiles := [], hist := [], aux := [], taken := 0, begun := false,
    split := [], att := none, attOpen := [], attParts := [], record := .none, gone := false }

/-- The address of a descriptor's ring slot (R44). -/
def State.slotAddr (s : State) (q sn : Nat) : Nat := s.fld (Reg.qbase q) 43 12 * 4096 + 64 * (sn % s.ringEntries q)

/-- The record of a failed ring access (R49): a dropped host access too has one, of the address class. -/
def State.ringRecord (s : State) (f : Fail) (a : Nat) (op : Option (Nat × Nat × Nat)) (told : Bool) : State :=
  match f with
  | .lost _ => s.event 7 0x70 { cls := 7, sev := 0, rtype := 3, det := 0x70, addr := a, op := op }
  | _ => s.readRecord f a op told

/-- Cancel one descriptor that was not taken in, its ring slot read as `r`. -/
def State.cancelSlot (s : State) (q sn : Nat) (r : Except Fail (List Word)) : State :=
  let (d, s) := match r with
    | .ok ws => (descOf ws, s)
    | .error f => (0, s.ringRecord f (s.slotAddr q sn) (some (q, sn, s.qctx q)) false)
  ({ s with ops := s.ops ++ [freshOp q sn (s.qctx q) d] } : State).endOp q sn stCancelled 0

/-- Cancel the descriptors from serial `sn` on that were not taken in: each slot is read once for the record (R631). A read of a page that waits (R501) holds
this and the later ones back until it is made. -/
def State.cancelSlots (s : State) (q sn : Nat) : Nat → State
  | 0 => s
  | n + 1 =>
    match s.readWords (s.slotAddr q sn) 8 with
    | .error .wait => { s with cancels := s.cancels ++ [(q, sn)] }
    | r => (s.cancelSlot q sn r).cancelSlots q ((sn + 1) % 2 ^ 32) n

/-- Go on with the cancelled slots of a flushed queue that waited for a page. -/
def State.cancelRest (s : State) (q : Nat) : State :=
  match s.cancels.find? (fun c => c.1 == q) with
  | none => s
  | some c =>
    ({ s with cancels := s.cancels.filter (fun c => c.1 != q) } : State).cancelSlots q c.2 ((s.fld (Reg.qtail q) 31 0 + 2 ^ 32 - c.2) % 2 ^ 32)

/-- Cancel the ops of a list that belong to the queue and have not started. -/
def State.cancelOps (s : State) (q : Nat) : List OpRec → State
  | [] => s
  | o :: os =>
    let s := if o.q == q && o.phase == .taken then s.endOp q o.s stCancelled 0 else s
    s.cancelOps q os

/-- FLUSH (R50): every descriptor submitted and not started ends CANCELLED, taken in or not; a queue that waits at take-in waits no longer. -/
def execFlush (q : Nat) (s : State) : Outcome :=
  if s.flushing q then .next s
  else
    let s := s.putBit (Reg.qstat q) 5 true
    let s := { s with waits := s.waits.filter (fun w => w.q != q), recFail := s.recFail.filter (· != q) }
    let s := s.cancelOps q s.ops
    let head := s.fld (Reg.qhead q) 31 0
    .next ((s.cancelSlots q head ((s.fld (Reg.qtail q) 31 0 + 2 ^ 32 - head) % 2 ^ 32)).syncQ q)

/-- Does an op wait tile-wise, with no piece running, for a failed producer on its own queue that only the flush's end releases (R56)? -/
def State.stuck (s : State) (o : OpRec) : Bool :=
  !s.runs o.q o.s && [0, 1].any (fun k => o.d.depV k && o.d.depQ k == o.q && match s.op? o.q (o.d.depS k) with
    | some p => p.phase == .ended && decide (0x100 ≤ p.status) && !p.gone
    | none => false)

/-- Is a flush at its end: no started op left that can end by itself, and every record of a cancelled descriptor written? -/
def State.flushDone (s : State) (q : Nat) : Bool :=
  s.flushing q && !s.cancels.any (fun c => c.1 == q) && s.ops.all (fun o => o.q != q ||
    (if o.phase == .ended then o.status != stCancelled || o.record == .written else s.stuck o))

/-- FLUSH_END (R50): failed ops are retired and their failures released, HALT and RINGERR clear, the counters meet RIG_QTAIL, and EN's checks are made. -/
def execFlushEnd (q : Nat) (s : State) : Outcome :=
  if !s.flushDone q then .next ((if s.flushing q then s.cancelRest q else s).syncQ q)
  else
    let s := s.releaseAll q (s.ops.length + 1)
    let s := ((s.putBit (Reg.qstat q) 5 false).putBit (Reg.qstat q) 1 false).putBit (Reg.qstat q) 6 false
    let t := s.fld (Reg.qtail q) 31 0
    let s := (s.put (Reg.qhead q) 31 0 t).put (Reg.qdone q) 31 0 t
    let s := { s with ops := s.ops.filter (fun o => !(o.q == q && o.record == RecPhase.written)) }
    let s := if s.enabled q && !s.queueOk q then (s.putBit (Reg.qctl q) 0 false).putBit (Reg.qstat q) 4 true else s
    .next (s.noteDeps.syncQ q)

/-- RESUME (R50) of a HALTED queue: HALT and RINGERR clear, failed ops are retired and released, a failed ring access may be made again. -/
def execResume (q : Nat) (s : State) : Outcome :=
  if s.enabled q && s.qHalted q && !s.flushing q then
    let s := (s.putBit (Reg.qstat q) 1 false).putBit (Reg.qstat q) 6 false
    let s := { s with recFail := s.recFail.filter (· != q) }
    .next ((s.release q).noteDeps.syncQ q)
  else .next s

/-- PRODUCER_TAKEN_IN (R53): the queue takes in again once RIG_QHEAD of the producer's queue has passed the producer. -/
def execProducerTakenIn (q : Nat) (s : State) : Outcome :=
  .next { s with waits := s.waits.filter (fun w => !(w.q == q && before w.s (s.fld (Reg.qhead w.prod) 31 0))) }

/-! ### Starting ops -/

/-- NOP (R41): OK, in the beat after its dependencies are satisfied. -/
def execNop (q sn : Nat) (s : State) : Outcome :=
  match s.op? q sn with
  | none => .next s
  | some o =>
    if o.d.cls = 0 ∧ o.d.op = 0 ∧ o.phase = .taken ∧ s.depPast o = true ∧ s.depsOk o = true ∧ s.startable o = true then
      .next (s.startIdle o stOk)
    else .next s

/-- OP_START (R54): an op starts once its dependencies are satisfied, tile-wise ones as R55 lets them; without work it starts and ends at once. -/
def execOpStart (q sn : Nat) (s : State) : Outcome :=
  match s.op? q sn with
  | none => .next s
  | some o =>
    if o.phase = .taken ∧ (o.d.cls, o.d.op) ≠ (0, 1) ∧ s.startable o = true then
      if o.noWork then
        (if s.depPast o && s.depsOk o then .next (s.startIdle o (if o.d.cls = 0 ∧ o.d.op = 0 then stOk else stZero)) else .next s)
      else if s.depStarts o 0 && s.depStarts o 1 then .next (s.startOp o)
      else .next s
    else .next s

/-- WAIT (R42): it starts in the beat after its dependencies are satisfied, to read its word from that beat on. -/
def execWait (q sn : Nat) (s : State) : Outcome :=
  match s.op? q sn with
  | none => .next s
  | some o =>
    if o.d.cls = 0 ∧ o.d.op = 1 ∧ o.phase = .taken ∧ s.depPast o = true ∧ s.depsOk o = true ∧ s.startable o = true then
      .next ((s.startOp o).beginOp q sn)
    else .next s

/-- Have more than EXT0 beats passed since a WAIT's first read? One that reads once has no such beat: the read that completes ends it. -/
def State.waitOver (s : State) (o : OpRec) : Bool :=
  o.d.ext 0 != 0xFFFFFFFF && o.d.ext 0 != 0 && decide (o.startB + o.d.ext 0 < s.beat)

/-- One read of a WAIT's word: OK at the threshold, WAIT_TIMEOUT when EXT0 beats have passed, a failure by its kind; a class A detection leaves the WAIT
to its replay, a read that waits is made again, and the beat count runs on meanwhile. -/
def State.waitPoll (s : State) (o : OpRec) (x : Obj) : State :=
  match (do let _ ← s.tagCheck (s.reader o) x 0 0 0; s.readObj x 0 8 : Except Fail (List Byte)) with
  | .error .classA | .error .wait => if s.waitOver o then s.endOp o.q o.s stWaitTimeout 0 else s
  | .error f =>
    let s := s.failRecord f (x.addr 0) (some (o.q, o.s, o.ctx))
    s.failOp o.q o.s (failStatus f 0).1 (failStatus f 0).2
  | .ok bs =>
    let s := s.mapOp o.q o.s (fun o => { o with aux := o.aux.set (fun _ => 0) 0 (s.beat + 1) })
    if s.waitOver o then s.endOp o.q o.s stWaitTimeout 0
    else if o.d.par 1 * 2 ^ 32 + o.d.par 2 ≤ ofBytes bs then s.endOp o.q o.s o.goodStatus.1 o.goodStatus.2
    else if o.d.ext 0 ≠ 0xFFFFFFFF ∧ o.startB + o.d.ext 0 ≤ s.beat then s.endOp o.q o.s stWaitTimeout 0
    else s

/-- WAIT_READ (R42): once a beat. `errs` are the units that the read finds wrong. -/
def execWaitRead (q sn : Nat) (errs : List (Nat × Nat)) (s : State) : Outcome :=
  match s.op? q sn with
  | none => .next s
  | some o =>
    match o.obj 0 with
    | none => .next s
    | some x =>
      if o.d.cls = 0 ∧ o.d.op = 1 ∧ o.phase = .started ∧ o.aux.get (fun _ => 0) 0 < s.beat + 1 then
        .next ((s.unitErrors (some (q, sn, o.ctx)) errs).waitPoll o x)
      else .next s

/-! ### Completion records (R48, R60, R61) -/

/-- WORK of a record: the tiles of D written, or the op's own count where its chapter defines one (kept in `aux` as count + 1 at 200). -/
def OpRec.work (o : OpRec) : Nat :=
  match o.aux.get (fun _ => 0) 200 with
  | 0 => o.tiles.length
  | n + 1 => n

/-- The four words of a completion record (Table 2.12). -/
def OpRec.recordWords (o : OpRec) (phase : Nat) : List Word :=
  [word [(32, o.s), (0, o.d.utag)],
   word [(48, o.status), (38, o.q), (26, o.ctx), (22, o.d.cls), (14, o.d.op), (13, b2n o.d.fence), (12, phase), (0, o.detail)],
   word [(24, o.startB % 2 ^ 40), (0, o.beats)],
   word [(48, min o.slips 0xFFFF), (40, min o.replays 0xFF), (0, o.work)]]

/-- Write record or flag bytes; a unit that holds bad data refuses them (R49). -/
def State.writeRing (s : State) (wins : List (Nat × Nat × Nat)) (a : Nat) (bs : List Byte) : Except Fail State :=
  match region a with
  | .hbm | .deep => if s.mark a = .good then s.writeMem { Wr.plain 0 with wins := wins } a bs else .error .data
  | _ => s.writeMem { Wr.plain 0 with wins := wins } a bs

/-- The flag word of an op whose record has been written (R61): dropped with RINGERR where its write fails, held where its page is away (R514). -/
def State.writeFlag (s : State) (o : OpRec) : State :=
  let a := s.fld (Reg.qflag o.q) 43 3 * 8
  if !o.d.flagw || a == 0 then s
  else
    let v := word [(32, o.status), (0, o.s)]
    match s.writeRing o.windows a (bytesOf 8 v.toNat) with
    | .ok s => s
    | .error (.lost _) | .error .wait => { s with flagWait := s.flagWait ++ [(a, v)] }
    | .error f => (s.readRecord f a (some (o.q, o.s, o.ctx)) false).putBit (Reg.qstat o.q) 6 true

/-- What follows a record written to slot CRTAIL: the flag word, the interrupt, the op's retirement, and the start and end of dependants. -/
def State.recorded (s : State) (o : OpRec) : State :=
  let q := o.q
  let s := s.put (Reg.qcrptr q) 31 0 (s.fld (Reg.qcrptr q) 31 0 + 1)
  let s := s.mapOp q o.s (fun o => { o with record := .written })
  let s := { s with ready := s.ready.filter (fun r => r != (q, o.s)) }
  let s := s.writeFlag o
  let s := if o.d.irq then s.signal (s.fld (Reg.qirq q) 10 0) else s
  let s := s.retireOps q s.ops.length
  let s := if before o.s (s.fld (Reg.qdone q) 31 0) then { s with ops := s.ops.filter (fun p => !(p.q == q && p.s == o.s)) } else s
  (s.noteDeps.settle).syncQ q

/-- COMPLETION_RECORD (R48): the record that became ready first on its queue enters slot CRTAIL, when the ring has room. -/
def execCompletionRecord (q sn : Nat) (s : State) : Outcome :=
  match s.op? q sn with
  | none => .next s
  | some o =>
    if o.record = .ready ∧ (s.ready.filter (fun r => r.1 == q)).head? = some (q, sn) ∧ s.recFail.contains q = false ∧
        s.crUsed q ≠ s.crEntries q then
      let tail := s.fld (Reg.qcrptr q) 31 0
      let a := s.fld (Reg.qcr q) 43 12 * 4096 + 32 * (tail % s.crEntries q)
      match s.writeRing o.windows a (wordBytes (o.recordWords ((tail / s.crEntries q + 1) % 2))) with
      | .ok s => .next (s.recorded o)
      | .error (.lost _) | .error .wait => .next s
      | .error f =>
        let s := s.readRecord f a (some (o.q, o.s, o.ctx)) false
        .next { (s.ringFails q sn (failStatus f 0).1) with recFail := s.recFail ++ [q] }
    else .next s

end Sys2Proof.Machine
end

