-- ==== Sys2Proof/Machine/Checks.lean ====
section
/-! DEFINITION. The form of the take-in checks (R51): fields by bit position, objects by slot. -/

namespace Sys2Proof.Machine

/-- The lowest failing position of a list of (lsb, fails): what BAD_FIELD reports. -/
def lowest : List (Nat × Bool) → Option Nat
  | [] => none
  | (p, b) :: cs =>
    match b, lowest cs with
    | false, r => r
    | true, none => some p
    | true, some m => some (min p m)

/-- The first failing slot of a list of (slot, fails): what BAD_OBJ reports. -/
def firstFail : List (Nat × Bool) → Option Nat
  | [] => none
  | (k, b) :: cs => if b then some k else firstFail cs

/-- A reserved field. -/
def Desc.resv (d : Desc) (lsb n : Nat) : Nat × Bool := (lsb, d.at lsb n != 0)

/-- The fields of a descriptor that no op uses (Table 2.4). -/
def Desc.commonFields (d : Desc) : List (Nat × Bool) :=
  [d.resv 44 5, d.resv 96 20, d.resv 160 20, d.resv 203 5, d.resv 256 16]

/-- RND and OVF at their place: RND values 5 to 7 are undefined (R123). -/
def Desc.rndField (d : Desc) (lsb : Nat) : Nat × Bool := (lsb, decide (4 < d.at lsb 3))

/-- The objects of a descriptor as take-in finds them, by slot: id 0, a record that fails R32, or an object. -/
abbrev Named := Nat → Option (Option Obj)

/-- The object of a slot, where it passes R32. -/
def Named.ok? (n : Named) (k : Nat) : Option Obj := (n k).join

/-- A slot that must name an object that meets a condition. -/
def Named.need (n : Named) (k : Nat) (c : Obj → Bool) : Nat × Bool :=
  (k, match n k with
    | some (some o) => !c o
    | _ => true)

/-- A slot that may name an object. -/
def Named.may (n : Named) (k : Nat) (c : Obj → Bool) : Nat × Bool :=
  (k, match n k with
    | none => false
    | some none => true
    | some (some o) => !c o)

/-- A slot that must hold id 0. -/
def Named.no (n : Named) (k : Nat) : Nat × Bool := (k, (n k).isSome)

/-- A comparison with the object of another slot: met where that object is not sound (R621). -/
def Named.with (n : Named) (k : Nat) (c : Obj → Bool) : Bool :=
  match n.ok? k with
  | some o => c o
  | none => true

/-- Shape: rows, columns and planes. -/
def Obj.is (o : Obj) (r c p : Nat) : Bool := o.rows == r && o.cols == c && o.planes == p

/-- A rank-1 object of a format. -/
def Obj.list (o : Obj) (fmt n : Nat) : Bool := o.fmt == fmt && o.rank == 1 && o.d0 == n

/-- A format that an op may write: not LUT4 (R122), not a histogram. -/
def writable (fmt : Nat) : Bool := fmt != fLUT4 && fmt != fHIST

/-! ### Reading records at take-in (R620) -/

/-- A rejection: status, DETAIL, and the failed access that a record journals. -/
structure Rej where
  status : Nat
  detail : Nat
  fail   : Option (Fail × Nat)
  deriving DecidableEq, Repr

/-- A take-in check. -/
abbrev Chk := Except Rej

/-- Reject with a status and DETAIL. -/
def reject {α : Type} (status detail : Nat) : Chk α := .error ⟨status, detail, none⟩

/-- The rejection for a record read that fails at an address; `slot` is the operand slot that it reports. -/
def badRead (slot a : Nat) (f : Fail) : Rej :=
  match f with
  | .addr => ⟨stAddrFault, atTakeIn + slot, some (.addr, a)⟩
  | .lost l => ⟨stHostLost, l, some (.lost l, a)⟩
  | f => ⟨stDataErr, atTakeIn + slot, some (f, a)⟩

/-- Read `n` words of a record. -/
def readRec (s : State) (slot a n : Nat) : Chk (List Word) :=
  match s.readWords a n with
  | .ok ws => .ok ws
  | .error f => .error (badRead slot a f)

/-- The object of an id, `none` where it fails R32: its id, the table's place or its record. -/
def objRec (s : State) (ctx id slot : Nat) : Chk (Option Obj) :=
  let n := s.fld (Reg.objCnt ctx) 23 0
  let b := s.fld (Reg.objBase ctx) 43 12 * 4096
  if n ≤ id ∨ !inMemRegions b (32 * n) then .ok none
  else do
    let ws ← readRec s slot (b + 32 * id) 4
    return if badRecord ws then none else some (objOf id ws)

/-- The object of an id, id 0 naming none. -/
def objIf (s : State) (ctx id slot : Nat) : Chk (Option (Option Obj)) :=
  if id = 0 then .ok none else do
    let o ← objRec s ctx id slot
    return some o

/-- A rejection met while an op runs (R257, R260): the same failure of its work, in operand slot `k`. -/
def Rej.work (r : Rej) (k : Nat) : WorkFail :=
  let f := match r.fail with
    | some (f, a) => (f, a)
    | none => (.trans, 0)
  ⟨k, f.1, f.2⟩

/-- A take-in check made while an op runs. -/
def atWork {α : Type} (k : Nat) (c : Chk α) : Except WorkFail α :=
  match c with
  | .ok v => .ok v
  | .error r => .error (r.work k)

/-- Reject for the lowest failing field. -/
def chkFields (cs : List (Nat × Bool)) : Chk Unit :=
  match lowest cs with
  | none => .ok ()
  | some p => reject stBadField p

/-- Reject for the first failing slot. -/
def chkObjs (cs : List (Nat × Bool)) : Chk Unit :=
  match firstFail cs with
  | none => .ok ()
  | some k => reject stBadObj k

/-! ### Translation (R443 to R445) -/

/-- Are the first and the last byte of an extent in one region other than control space, all of it populated? Host-window pages are checked at
access. -/
def State.extentOk (s : State) (a z : Nat) : Bool :=
  match region a, region z with
  | .hbm, .hbm => s.populated z
  | .deep, .deep => true
  | .host, .host => true
  | .tile _ _, .tile _ _ =>
    (List.range (z / 0x800000 + 1 - a / 0x800000)).all (fun k => s.populated ((a / 0x800000 + k) * 0x800000))
  | _, _ => false

/-- Read the group-list entries of groups `g` on: the names of `n` groups, each sound (check 6). -/
def groupNames (s : State) (slot list g : Nat) : Nat → Chk (List Nat)
  | 0 => .ok []
  | n + 1 => do
    let ws ← readRec s slot (list + 8 * g) 1
    let w := ws.getD 0 0
    let name := bits w 43 21
    if bit w 63 && bits w 62 44 == 0 && bits w 20 0 == 0 && decide (name * 2 ^ 21 < 2 ^ 41) then do
      let ns ← groupNames s slot list (g + 1) n
      return name :: ns
    else reject stAddrFault (atTakeIn + slot)

/-- Translate an object for an op of context `ctx` (R445): the first check that fails ends the op ADDR_FAULT. -/
def translate (s : State) (ctx slot : Nat) (o : Obj) (reads writes : Bool) : Chk Obj :=
  let w0 := s.rd (Reg.trnSeg0 ctx o.seg)
  let w1 := s.rd (Reg.trnSeg1 ctx o.seg)
  let len := bits w1 43 12
  let grouped := bit w0 60
  let base := bits w0 43 12 * 4096
  let no : Chk Obj := reject stAddrFault (atTakeIn + slot)
  if !bit w0 63 || grouped && len % 512 != 0 then no
  else if reads && !bit w0 62 || writes && !bit w0 61 then no
  else if o.off % 64 != 0 || !o.laidOut then no
  else if decide (len * 4096 < o.off + o.size) then no
  else if !grouped then
    let a := base + o.off
    let z := a + o.size - 1
    let inHost := region a == .host
    if o.size == 0 || s.extentOk a z && (o.pref != 3 || inHost) then .ok { o with place := .linear base } else no
  else if o.size == 0 then .ok { o with place := .grouped 0 [] }
  else if o.pref == 3 || !inMemRegions base (8 * (len / 512)) then no
  else do
    let first := o.off / 2 ^ 21
    let names ← groupNames s slot base first ((o.off + o.size - 1) / 2 ^ 21 + 1 - first)
    return { o with place := .grouped first names }

end Sys2Proof.Machine
end

