-- ==== Sys2Proof/Machine/Moves.lean ====
section
/-! DEFINITION. Moving groups between stacks and tiers as a shared operation (R321, R330, R449, R451). -/

namespace Sys2Proof.Machine

/-- Groups that `n` bytes of an object from byte `x` touch, by name, in the HBM and deep-tier regions. -/
def Obj.groups (o : Obj) (x n : Nat) : List Nat :=
  (((o.runs x n (n / 2 ^ 12 + 2)).filter (fun e => inMemRegions e.1 1 && decide (0 < e.2))).map
    (fun e => (List.range ((e.1 + e.2 - 1) / 2 ^ 21 + 1 - e.1 / 2 ^ 21)).map (fun k => e.1 / 2 ^ 21 + k))).flatten.eraseDups

/-- A line written back stays with its holders, clean. -/
def Line.clean (l : Line) : Line :=
  { st := if l.st = .owned then .shared else l.st,
    copies := l.copies.map (fun c => { c with st := match c.st with
      | .m => .e
      | .o => .s
      | x => x }) }

/-- The directory writes back every dirty line of a group (R451). -/
def State.cleanGroup (s : State) (g : Nat) : State :=
  (s.dirLines.filter (fun e => e.1 / 2 ^ 15 == g)).foldl (fun s e =>
    match e.2 with
    | some l => match l.dirty with
      | some c => (s.writeBack (64 * e.1) c).setLine (64 * e.1) (some l.clean)
      | none => s
    | none => s) s

/-- Has a place room for one more group? -/
def State.roomAt (s : State) (tier stack : Nat) : Bool :=
  if tier = 1 then s.deepRoom else s.stackIn stack && decide (0 < s.slotsFree stack)

/-- A group's entry flips to another place in one step (R451): what it held is free, what it takes is counted, its PIN and content stay. -/
def State.moveTo (s : State) (g tier stack : Nat) : State :=
  let s := s.cleanGroup g
  let e := s.tir g
  let s := if bit e 62 then s.put Reg.tirDfree 27 0 (s.fld Reg.tirDfree 27 0 + bits e 30 21)
    else s.put Reg.tirHfree 19 0 (s.fld Reg.tirHfree 19 0 + 1)
  let keep := [(63, 1), (61, bits e 61 61), (59, bits e 59 59), (57, bits e 58 57), (50, bits e 55 50)]
  let s := s.setTir g 0
  let s := if tier = 1 then (s.setTir g (word (keep ++ [(62, 1)]))).recode g (List.range 32)
    else
      let slot := lowestFree (s.slotsUsed stack) (2048 * 16) 0
      (s.setTir g (word (keep ++ [(46, stack), (31, slot)]))).put Reg.tirHfree 19 0 (s.fld Reg.tirHfree 19 0 - 1)
  let s := { s with migs := s.migs.filter (fun m => m.group != g) }
  let s := s.bump Reg.tirMig 63 32 1
  let pin := bits e 58 57
  s.cond (pin != 0 && pin != tier + 1) (fun s => s.bump Reg.tirMig 15 0 1)

/-- Does an APPLY taken in name a group as part of its master, state or working copy (R330)? -/
def State.updateGroup (s : State) (g : Nat) : Bool :=
  s.ops.any (fun o => o.d.cls == 8 && o.d.op == 0 && o.phase != .ended && o.objs.any (fun x => [1, 2, 3].contains x.1 && (x.2.groups 0 x.2.size).contains g))

/-- Has a place room for this group: a stack whose update unit is out takes none of a master, a state or a working copy (R330)? -/
def State.roomFor (s : State) (g tier stack : Nat) : Bool :=
  s.roomAt tier stack && (tier == 1 || s.flag (Reg.uuStat stack) 1 || !s.updateGroup g)

/-- Bring assigned groups to a stack, where they are not and it has room (R321). -/
def State.bringTo (s : State) (n : Nat) : List Nat → State
  | [] => s
  | g :: gs =>
    let e := s.tir g
    let here := !bit e 62 && bits e 49 46 == n
    (if bit e 63 && !here && s.roomFor g 0 n then s.moveTo g 0 n else s).bringTo n gs

/-- Do assigned groups all stand on a stack? -/
def State.onStack (s : State) (n : Nat) (gs : List Nat) : Bool := gs.all (fun g => !bit (s.tir g) 63 || !bit (s.tir g) 62 && bits (s.tir g) 49 46 == n)

end Sys2Proof.Machine
end

