-- ==== Sys2Proof/Machine/Detect.lean ====
section
/-! DEFINITION. The detectors of the engines (R171, R172, R202, R237, R238, R274, R275, R297, R298, R328, R330): what a detection does, and the armed
injections that an engine's work meets (R178, R203, R239, R276, R299, R331). -/

namespace Sys2Proof.Machine

/-! ### Errors of an engine -/

/-- The op whose piece runs on a unit: queue, serial, context. -/
def State.opOn (s : State) (u : Nat) : Option (Nat × Nat × Nat) :=
  match s.pieces.find? (fun p => p.unit == u && p.phase == PiecePhase.running) with
  | some p => (s.opAny p.q p.s).map (fun o => (o.q, o.s, o.ctx))
  | none => none

/-- The record of an error of unit `u` (R573). -/
def State.engineFault (s : State) (u det : Nat) (inj : Bool) (info : Nat) : State :=
  s.detect { cls := 1, sev := 2, rtype := 0, det := det, inj := inj, dom := 1, inst := u, unit := u, op := s.opOn u, info := info }

/-- A unit leaves service with its work re-placed, and its self-test begins (R172, R238, R275, R298, R330). -/
def State.engineStop (s : State) (u : Nat) : State := (s.unitOut u).putBit (unitStat u) 2 true

/-- Entries of a tile queue. -/
def tqEntries : Nat := 8

/-- VXE_STAT.TQOCC follows a tile queue (Table 7.12). -/
def State.syncTq (s : State) (vxe : Nat) : State :=
  s.put (Reg.vxeStat vxe) 11 8 (s.tileQ.filter (fun t => t.vxe == vxe)).length

/-- MXEn leaves service, and the finished tiles of the queue between it and its VXE are lost (R238). -/
def State.queueLost (s : State) (n : Nat) : State := (s.unitOutWith n (fun t => t.vxe == n)).syncTq n

/-- MXEn and VXEn leave service together, with the finished tiles of the queue between them, and the VXE is tested (R238). -/
def State.pairStop (s : State) (n : Nat) : State :=
  let s := (s.putBit (unitStat n) 1 false).putBit (unitStat (16 + n)) 1 false
  (((s.queueLost n).unitOut (16 + n)).syncTq n).putBit (unitStat (16 + n)) 2 true

/-- A column of a quad fails its residue (R172): `col` is the physical column. -/
def State.columnError (s : State) (mxe quad col : Nat) (inj : Bool) : State :=
  ((s.bump (Reg.mxeDetcnt mxe) 63 48 1).engineFault mxe 0x01 inj (quad * 256 + col)).engineStop mxe

/-- The counter of a pass error in MXE_DETCNT: bits msb, lsb. -/
def passField (det : Nat) : Nat × Nat := if det = 2 then (47, 32) else if det = 3 then (31, 16) else (15, 0)

/-- A pass error (R172, Table 5.8): `det` is the detector's injection kind: 2 weight register parity, 3 A-stream parity, 4 turn loader parity. -/
def State.passError (s : State) (mxe quad det : Nat) (inj : Bool) : State :=
  ((s.bump (Reg.mxeDetcnt mxe) (passField det).1 (passField det).2 1).engineFault mxe det inj quad).engineStop mxe

/-- An accumulator slot of a quad reads with wrong bits (R202): one is corrected and counted, two are a pass error. -/
def State.slotError (s : State) (mxe quad : Nat) (two inj : Bool) : State :=
  if two then ((s.bump (Reg.mxeAccstat mxe) 47 32 1).engineFault mxe 0x05 inj quad).engineStop mxe
  else (s.bump (Reg.mxeAccstat mxe) 63 48 1).countDet (0x05 * 65536 + mxe)
    { cls := 1, sev := 1, rtype := 0, det := 0x05, inj := inj, dom := 1, inst := mxe, unit := mxe, op := s.opOn mxe, info := quad }

/-- An error of a VXE (R237, R238): `det` is the detector's injection kind: 1 tile queue ECC, one bit, corrected; 2 two bits; 3 lane parity; 4 permute
network parity. -/
def State.pairError (s : State) (vxe det : Nat) (inj : Bool) : State :=
  let u := 16 + vxe
  if det = 1 then (s.bump (Reg.vxeDetcnt vxe) 63 48 1).countDet (0x08 * 65536 + vxe)
    { cls := 1, sev := 1, rtype := 0, det := 0x08, inj := inj, dom := 1, inst := u, unit := u, op := s.opOn u }
  else
    let s := if det = 2 then s.bump (Reg.vxeDetcnt vxe) 47 32 1 else if det = 3 then s.bump (Reg.vxeDetcnt vxe) 31 16 1
      else s.bump (Reg.vxeDetcnt vxe) 15 0 1
    (s.engineFault u (6 + det) inj 0).pairStop vxe

/-- An error of an ASQ (R274, R275): `det` is the detector's injection kind: 3 exponent unit parity, 4 gather parity. -/
def State.asqError (s : State) (die det : Nat) (inj : Bool) : State :=
  let s := if det = 3 then s.bump (Reg.asqDetcnt die) 31 16 1 else s.bump (Reg.asqDetcnt die) 15 0 1
  (s.engineFault (32 + die) (9 + det) inj 0).engineStop (32 + die)

/-- The counter of a detector of a stem engine or UU: bits msb, lsb. -/
def third (det : Nat) : Nat × Nat := if det = 1 then (63, 48) else if det = 2 then (47, 32) else (31, 16)

/-- An error of a stem engine (R297, R298): `det` is the detector's injection kind, 1 to 3. -/
def State.stemError (s : State) (die det : Nat) (inj : Bool) : State :=
  ((s.bump (Reg.stmDetcnt die) (third det).1 (third det).2 1).engineFault (36 + die) (0x0F + det) inj 0).engineStop (36 + die)

/-- An error of a UU (R328, R330): `det` is the detector's injection kind, 1 to 3. -/
def State.uuError (s : State) (n det : Nat) (inj : Bool) : State :=
  ((s.bump (Reg.uuDetcnt n) (third det).1 (third det).2 1).engineFault (40 + n) (0x13 + det) inj 0).engineStop (40 + n)

/-! ### Injections that work meets -/

/-- What the next use of detectors does with the oldest injection armed for them: `f` tells what an armed injection of this detector brings, `none` where
it is not one of theirs. The state after the detection, and whether the unit stopped. -/
def State.meet (s : State) (f : Armed → Option (State → State × Bool)) : State × Bool :=
  match s.armed.find? (fun a => (f a).isSome) with
  | none => (s, false)
  | some a =>
    match f a with
    | none => (s, false)
    | some g => g (s.disarm a.reg a.kind a.target)

/-- A quad of an MXE reads a slot of its partition, and at a pass's first row starts a pass (R178, R203). -/
def State.meetQuad (s : State) (mxe quad : Nat) (starts : Bool) : State × Bool :=
  s.meet (fun a =>
    if a.reg = Reg.mxeInj mxe ∧ starts = true then
      if a.kind = 1 then (if a.target / 256 = quad ∧ a.target % 256 < 130 then some (fun s => (s.columnError mxe quad (a.target % 256) true, true)) else none)
      else if a.target = quad then some (fun s => (s.passError mxe quad a.kind true, true)) else none
    else if a.reg = Reg.mxeAccinj mxe ∧ a.target = quad then some (fun s => (s.slotError mxe quad (a.kind == 2) true, a.kind == 2))
    else none)

/-- A VXE reads an entry of its tile queue, uses its lanes, or its permute network (R239): `kinds` are the detectors in use. -/
def State.meetVxe (s : State) (vxe : Nat) (kinds : List Nat) : State × Bool :=
  s.meet (fun a => if a.reg = Reg.vxeInj vxe ∧ kinds.contains a.kind = true then some (fun s => (s.pairError vxe a.kind true, a.kind != 1)) else none)

/-- An ASQ uses its exponent units or its gather (R276). -/
def State.meetAsq (s : State) (die : Nat) : State × Bool :=
  s.meet (fun a => if a.reg = Reg.asqInj die ∧ 3 ≤ a.kind then some (fun s => (s.asqError die a.kind true, true)) else none)

/-- A stem engine streams terms (R299). -/
def State.meetStem (s : State) (die : Nat) : State × Bool :=
  s.meet (fun a => if a.reg = Reg.stmInj die then some (fun s => (s.stemError die a.kind true, true)) else none)

/-- A UU updates a block (R331). -/
def State.meetUu (s : State) (n : Nat) : State × Bool :=
  s.meet (fun a => if a.reg = Reg.uuInj n then some (fun s => (s.uuError n a.kind true, true)) else none)

end Sys2Proof.Machine
end

