-- ==== Sys2Proof/Machine/Matrix.lean ====
section
/-! DEFINITION. Matrix engines and accumulation (chapters 05 and 06): products as runs of passes over the quads' accumulator stores, their node tiles, the
MATRIX ops, and tile queue room. -/

namespace Sys2Proof.Machine

/-! ### Operand pairs (Table 5.2) -/

/-- Rows of Table 5.2 by format. -/
def inBf (f : Nat) : Bool := f == fBF16 || f == fFP16
def inF8 (f : Nat) : Bool := f == 0x04 || f == 0x05 || [0x10, 0x11, 0x12, 0x13, 0x15].contains (f % 32) && decide (16 ≤ f)
def inF4 (f : Nat) : Bool := f == 0x06 || f == 0x14 || f == 0x34
def inInt (f : Nat) : Bool := (fmtKind f).isSome && decide (0x18 ≤ f % 32) && decide (16 ≤ f)

/-- A rate class of a pair. -/
inductive Pair where
  | fused
  | bf
  | f8
  | f4
  deriving DecidableEq, Repr

/-- The row of a pair, `none` where it is not admitted (R150, R151). -/
def pairOf (a b : Nat) : Option Pair :=
  let small := fun f => inBf f || inF8 f || inF4 f
  if a = fFP32 ∧ b = fFP32 then some .fused
  else if small a && (inInt b || small b && (inBf a || inBf b)) then some .bf
  else if inF8 a && (inF8 b || inF4 b) || inF4 a && inF8 b then some .f8
  else if inF4 a && inF4 b then some .f4
  else none

/-- Pass depth P (Table 5.2), from the pair and the accumulator mode. -/
def passDepth (p : Pair) (acc : Nat) : Nat :=
  match p with
  | .fused | .bf => 128
  | .f8 => if acc = 2 then 512 else 256
  | .f4 => 512

/-- The accumulator mode of PARAM0.ACC (Table 6.1). -/
def accOf (n : Nat) : Acc := if n = 1 then .a32x else if n = 2 then .a16 else .a32

/-! ### Fields (Table 5.6) and checks -/

def Desc.ta (d : Desc) : Bool := d.at 415 1 == 1
def Desc.tb (d : Desc) : Bool := d.at 414 1 == 1
/-- ACC and PRE, at the places of Table 5.6 and, for CONV and STEM, of Table 9.3. -/
def Desc.acc (d : Desc) : Nat := if d.cls = 1 then d.at 412 2 else d.at 414 2
def Desc.pre (d : Desc) : Nat := if d.cls = 1 then d.at 410 2 else d.at 408 2
def Desc.mrnd (d : Desc) : Nat := d.at 407 3
def Desc.sat (d : Desc) : Bool := d.at 406 1 == 1
def Desc.seed (d : Desc) : Nat := d.at 448 28

/-- Is the pair of A and B one of the FP8 row, which alone admits A16 (R153)? Any other pair, listed or not, does not. -/
def admitsA16 (n : Named) : Bool := n.with 0 (fun a => n.with 1 (fun b =>
  pairOf a.fmt b.fmt == some .f8))

/-- ACC: A16 stands only with a pair of the FP8 row (R153). -/
def accField (d : Desc) (n : Named) : Nat × Bool := (412, d.acc == 3 || d.acc == 2 && !admitsA16 n)

/-- Field step of the MATRIX ops, beside EPI (R156, R157, R159). -/
def matrixFields (d : Desc) (n : Named) : List (Nat × Bool) :=
  [accField d n, (410, d.pre == 3 || d.op == 1 && d.pre != 0), d.rndField 407, d.resv 384 22, d.resv 476 4,
   (320, d.op == 2 && d.ext 1 != d.ext 2), (415, d.op == 1 && d.ta)]

/-- Block axis: the blocks of an operand run along K (R152). -/
def axisOk (f : Nat) (kRows : Bool) : Bool := fmtBlk f == 0 || colAxis f == kRows

/-- A preload's or bias's format: floating, not LUT4 (R160). -/
def preFmt (f : Nat) : Bool := fmtFloat f && f != fLUT4

/-- Object step of the MATRIX ops (Table 5.7). -/
def matrixObjs (d : Desc) (n : Named) : List (Nat × Bool) :=
  let m := d.ext 0
  let nn := d.ext 1
  let k := d.ext 2
  let fa := fun (a : Obj) => (a.fmt == fFP32 || inBf a.fmt || inF8 a.fmt || inF4 a.fmt) && axisOk a.fmt d.ta
  let fb := fun (b : Obj) => n.with 0 (fun a => (pairOf a.fmt b.fmt).isSome) && axisOk b.fmt (!d.tb)
  let pa := fun (p : Nat) => n.with 0 (fun a => a.planes == p)
  let pre := fun (cc : Nat) => if d.pre = 0 then n.no 2
    else n.need 2 (fun c => preFmt c.fmt && c.rows == (if d.pre = 1 then m else 1) && c.cols == cc && (c.planes == 1 || pa c.planes))
  if d.op = 0 then
    [n.need 0 (fun a => fa a && (if d.ta then a.rows == k && a.cols == m else a.rows == m && a.cols == k)),
     n.need 1 (fun b => fb b && (if d.tb then b.rows == nn && b.cols == k else b.rows == k && b.cols == nn) && (b.planes == 1 || pa b.planes)),
     pre nn, n.need 3 (fun o => writable o.fmt && o.rows == m && o.cols == nn && pa o.planes)]
  else if d.op = 1 then
    [n.need 0 (fun a => fa a && a.cols == k && a.planes == 1),
     n.need 1 (fun b => fb b && (if d.tb then b.rows == nn && b.cols == k else b.rows == k && b.cols == nn) && b.planes == 1),
     n.need 2 (fun c => c.list fINT32 m), n.need 3 (fun o => writable o.fmt && o.is m nn 1)]
  else
    [n.need 0 (fun a => fa a && (if d.ta then a.rows == k && a.cols == m else a.rows == m && a.cols == k) && a.planes == 1 && k % 128 == 0),
     n.need 1 (fun b => fb b && b.is 128 128 (k / 128)),
     pre k, n.need 3 (fun o => writable o.fmt && o.is m k 1)]

/-! ### The value of an element (R180 to R193) -/

/-- A slice sum before rounding: the exact sum of its products, and of the preload in slice 0. -/
def sliceSum (ps : List (Elt × Elt)) (pre : Option Elt) : Num :=
  Num.sum ((match pre with
    | some c => [c.1]
    | none => []) ++ ps.map (fun p => p.1.1.mul p.2.1))

/-- Slice sums rounded to the node form, with the roundings that overflowed (R181, R191). -/
def slices (a : Acc) (depth : Nat) (pre : Option Elt) (ps : List (Elt × Elt)) : Nat → List Node × Nat
  | 0 => ([], 0)
  | f + 1 =>
    let v := sliceSum (ps.take depth) pre
    let n := Node.ofNum a v
    let rest := ps.drop depth
    let (ns, k) := if rest.isEmpty then ([], 0) else slices a depth none rest f
    (n :: ns, k + b2n (overflowed v n))

/-- An element of a product: the accumulator result, the mark of R139, and the overflow events of R191. -/
def dotElt (a : Acc) (depth : Nat) (pre : Option Elt) (ps : List (Elt × Elt)) : Elt × Nat :=
  let (ns, k) := slices a depth pre ps ps.length
  let (m, root) := treeOverflows a (ns.length + 1) ns
  let bad := ps.any (fun p => p.1.2 || p.2.2) || match pre with
    | some c => c.2
    | none => false
  (((root.getD ⟨.zero, .zero⟩).result, bad), k + m)

/-! ### Feeding the tile queue (R58, R148, R214) -/

/-- The tag that a finished tile carries in a tile queue (R58): its op's tile, in FP32, consumed by an epilogue of the op's own queue. -/
def State.queueTag (s : State) (o : OpRec) (d : Obj) (p r c : Nat) : Tag :=
  { s.tagFor (o.writer (d.tiles - 1)) d p r c false with fmt := fFP32, destq := o.q }

/-- A finished tile enters the tile queue, or waits for room with its quad stopped. -/
def State.feed (s : State) (e : TileEntry) : State :=
  if (s.tileQ.filter (fun t => t.vxe == e.vxe)).length < tqEntries then ({ s with tileQ := s.tileQ ++ [e] } : State).syncTq e.vxe
  else { s with stalled := s.stalled ++ [e] }

/-- TILE_QUEUE_ROOM (R148): the stopped unit's tile enters once its queue has an entry free. -/
def execTileQueueRoom (unit : Nat) (s : State) : Outcome :=
  match s.stalled.find? (fun t => t.unit == unit) with
  | none => .next s
  | some e =>
    if (s.tileQ.filter (fun t => t.vxe == e.vxe)).length < tqEntries then
      .next ((({ s with tileQ := s.tileQ ++ [e], stalled := s.stalled.eraseP (fun t => t.unit == unit), free := s.free + 1 } : State).syncTq e.vxe).bump
        (Reg.vxeTqstall e.vxe) 63 0 (Config.stallCycles s.free))
    else .next s

/-! ### The shape of a product -/

/-- A product as quads run it: accumulator mode, slice depth, slices of the inner tree, leaves of the outer tree (1 but for weight gradients, R287), the
slices that this module computes, and row time and weight load in cycles (Table 5.2). -/
structure Shape where
  acc    : Acc
  depth  : Nat
  per    : Nat
  frames : Nat
  own    : Nat × Nat
  rowT   : Nat
  load   : Nat
  deriving DecidableEq, Repr

/-- All slices of an element. -/
def Shape.slices (x : Shape) : Nat := x.per * x.frames

/-- Row time and weight load of a pair (Table 5.2). -/
def pairTimes (p : Pair) : Nat × Nat := if p = .fused then (8, 256) else (1, 128)

/-- Where a node of more than one slice is cut: between frames, or inside one (R182, R287). -/
def Shape.cut (x : Shape) (lo hi : Nat) : Nat := if hi - lo ≤ x.per then lo + treeCut (hi - lo) else lo + x.per * treeCut ((hi - lo) / x.per)

/-- Is `lo` to `hi` − 1 a node of the tree below `a` to `b` − 1 (R195)? -/
def Shape.isNode (x : Shape) (lo hi : Nat) : Nat → Nat → Nat → Bool
  | 0, _, _ => false
  | f + 1, a, b =>
    if a = lo ∧ b = hi then true
    else if b ≤ a + 1 then false
    else
      let m := x.cut a b
      if hi ≤ m then x.isNode lo hi f a m else if m ≤ lo then x.isNode lo hi f m b else false

/-- The most row tiles of a band (R144). -/
def bandMax (a : Acc) : Nat := if a = .a32x then 4 else 8

/-- Half slots of 32 KiB that a node tile takes (Table 6.1), and those of a partition (R198). -/
def nodeHalves (a : Acc) : Nat :=
  match a with
  | .a16 => 1
  | .a32 => 2
  | .a32x => 4
def partHalves : Nat := 96

/-- Node tiles that an open tile holds in its partition: the leaf being formed and the top three stack entries (R200). -/
def openNodes : Nat := 4

/-- Node tiles of spill area for each tile that can be open at once (R201). -/
def Shape.spill (x : Shape) : Nat := (if x.slices ≤ 1 then 0 else Nat.log2 (x.slices - 1) + 1) - 2

/-! ### Mirrored widen groups (R363, R364) -/

/-- Is this MATRIX op split by slices over a mirrored group? -/
def OpRec.mirrored (o : OpRec) : Bool := o.d.cls == 1 && o.d.op != 1 && o.rc 5 != []

/-- Replace the first node of coverage `w` by its two children. -/
def splitFirst (w : Nat) : List (Nat × Nat) → List (Nat × Nat)
  | [] => []
  | (a, b) :: xs => if b - a = w then (a, a + treeCut w) :: (a + treeCut w, b) :: xs else (a, b) :: splitFirst w xs

/-- The node list of R363 for R ranks, from a list with `k` nodes to go. -/
def cutNodes : Nat → List (Nat × Nat) → List (Nat × Nat)
  | 0, xs => xs
  | k + 1, xs =>
    let w := xs.foldl (fun m x => max m (x.2 - x.1)) 0
    if w ≤ 1 then xs else cutNodes k (splitFirst w xs)

/-- The nodes that ranks 0 on take of a product of `ns` slices. -/
def mirrorCut (ns r : Nat) : List (Nat × Nat) := cutNodes (r - 1) [(0, ns)]

/-- Slices of a MATRIX product. -/
def OpRec.slicesOf (o : OpRec) (depth : Nat) : Nat := if o.d.op = 2 then 1 else max 1 (ceilDiv (o.d.ext 2) depth)

/-- The slices that this module computes. -/
def OpRec.nodeOf (o : OpRec) (depth : Nat) : Nat × Nat :=
  if o.mirrored then (mirrorCut (o.slicesOf depth) o.size).getD o.rank (0, 0) else (0, o.slicesOf depth)

/-- The shape of a MATRIX op's product: a MATMUL_BLOCKDIAG runs one pass of P = 128 (R162). -/
def OpRec.matrixShape (o : OpRec) : Option (Shape × Obj) :=
  match o.obj 0, o.obj 1, o.obj 3 with
  | some a, some b, some d =>
    let p := (pairOf a.fmt b.fmt).getD .bf
    let depth := if o.d.op = 2 then 128 else passDepth p o.d.acc
    some (⟨accOf o.d.acc, depth, o.slicesOf depth, 1, o.nodeOf depth, (pairTimes p).1, (pairTimes p).2⟩, d)
  | _, _, _ => none

/-! ### Node tiles (R182, R195, R196, R198) -/

/-- The bytes of a node value at element (i, j) of a node tile (R198): (offset, bytes). -/
def nodeBytes (a : Acc) (n : Node) : List (List Byte) :=
  match a with
  | .a16 => [bytesOf 2 (ieeeBits 8 7 n.hi)]
  | .a32 => [bytesOf 4 (ieeeBits 8 23 n.hi)]
  | .a32x => [bytesOf 4 (ieeeBits 8 23 n.hi), bytesOf 4 (ieeeBits 8 23 n.lo)]

/-- A whole node tile: the hi slot, then in A32X the lo slot; invalid elements zero. -/
def nodeTile (a : Acc) (vr vc : Nat) (f : Nat → Nat → Node) : List Byte :=
  let w := if a = .a16 then 2 else 4
  let slot := fun (k : Nat) => ((List.range 128).map (fun i => ((List.range 128).map (fun j =>
    if i < vr ∧ j < vc then (nodeBytes a (f i j)).getD k [] else List.replicate w 0)).flatten)).flatten
  if a = .a32x then slot 0 ++ slot 1 else slot 0

/-- The node value at element (i, j) of a node tile. -/
def nodeAt (a : Acc) (bs : List Byte) (i j : Nat) : Node :=
  let w := if a = .a16 then 2 else 4
  let x := w * (128 * i + j)
  let v := fun (off : Nat) => ofBytes ((bs.drop off).take w)
  match a with
  | .a16 => ⟨bf16 (v x), .zero⟩
  | .a32 => ⟨f32n (v x), .zero⟩
  | .a32x => ⟨f32n (v x), f32n (v (65536 + x))⟩

/-- The value of the node `lo` to `hi` − 1 over known nodes, and the overflow events above them; `none` where they do not make it up. -/
def Shape.value (x : Shape) (ns : List (Nat × Nat × Node)) : Nat → Nat → Nat → Option (Nat × Node)
  | 0, _, _ => none
  | f + 1, lo, hi =>
    match ns.find? (fun n => n.1 == lo && n.2.1 == hi) with
    | some n => some (0, n.2.2)
    | none =>
      if hi ≤ lo + 1 then none
      else
        let m := x.cut lo hi
        match x.value ns f lo m, x.value ns f m hi with
        | some l, some r =>
          let v := Num.add l.2.val r.2.val
          let d := Node.ofNum x.acc v
          some (l.1 + r.1 + b2n (overflowed v d), d)
        | _, _ => none

/-- How deep a tree of nodes can be. -/
def treeFuel : Nat := 128

/-- The slices of a node tile as its op's combining part finds them: another module's are those of its rank (R363). -/
def OpRec.slicesIn (o : OpRec) (x : Shape) (own : Nat) (n : NodeTile) : Nat × Nat :=
  if n.src = own then (n.lo, n.hi) else (mirrorCut x.slices o.size).getD (o.members.idxOf n.src) (0, 0)

/-- The slices that must meet at the combining part: at rank 0 of a mirrored op all of them, elsewhere the module's own. -/
def OpRec.slicesDue (o : OpRec) (x : Shape) : Nat × Nat := if o.mirrored && o.rank == 0 then (0, x.slices) else x.own

/-- The value of element (i, j) of a tile from its node tiles. -/
def OpRec.combined (o : OpRec) (x : Shape) (own : Nat) (ns : List NodeTile) (i j : Nat) : Option (Nat × Node) :=
  x.value (ns.map (fun n => ((o.slicesIn x own n).1, (o.slicesIn x own n).2, nodeAt x.acc n.data i j))) treeFuel (o.slicesDue x).1 (o.slicesDue x).2

/-- Count overflow events of an MXE in MXE_ACCSTAT.OVFCNT (R191). -/
def State.countOvf (s : State) (unit k : Nat) : State := if unit < 16 then s.bump (Reg.mxeAccstat unit) 31 16 k else s

/-- What a node tile carries of its op beside the tag (R364). -/
def OpRec.nodeHead (o : OpRec) : List Nat := [o.d.cls, o.d.op, o.d.ext 0, o.d.ext 1, o.d.ext 2]

/-- The module's part of a tile is whole at the unit that holds slice 0 of it, as values and marks by element: it enters the tile queue, unless it is done and
no replay is due it; at another rank of a mirrored group it is a node tile, which a port's piece takes to rank 0 (R196, R364). -/
def State.finishTile (s : State) (o : OpRec) (x : Shape) (d : Obj) (unit vxe piece quad work : Nat) (bads : List Bool) (f : Nat → Nat → Node) : State :=
  let (p, r, c) := o.tileOf d work
  if o.mirrored && o.rank != 0 then
    let n : NodeTile := { src := s.selfAddr, q := o.q, s := o.s, work := work, tag := (s.tagFor (o.writer (d.tiles - 1)) d p r c false).wire, lo := x.own.1,
                          hi := x.own.2, piece := piece, home := unit, quad := quad, unit := unit, head := o.nodeHead, bads := bads,
                          data := nodeTile x.acc (d.vrows r) (d.vcols c) f }
    { s with nodes := s.nodes.filter (fun m => !(m.q == o.q && m.s == o.s && m.work == work)) ++ [n] }
  else if o.done.contains work && !s.pieces.any (fun y => y.q == o.q && y.s == o.s && y.idx == piece && y.reader.isSome) then s
  else
    let es := ((List.range (d.vrows r)).map (fun i => (List.range (d.vcols c)).map (fun j => (f i j).result.toF32))).flatten
    s.feed { vxe := vxe, unit := unit, q := o.q, s := o.s, piece := piece, tag := s.queueTag o d p r c, quad := quad, work := work, nans := bads, vals := es }

/-- Node tiles of a work unit that stand at unit `u`, and those that other modules have sent. -/
def State.nodesAt (s : State) (o : OpRec) (work u : Nat) : List NodeTile :=
  s.nodes.filter (fun n => n.q == o.q && n.s == o.s && n.work == work && (n.unit == u || n.src != s.selfAddr))

/-- Combine the node tiles of a work unit once they have all come to the unit that formed the one with slice 0 (R195): the tile is then whole. A node tile
of another module counts in NODEXFER as it is taken in. -/
def State.combine (s : State) (o : OpRec) (x : Shape) (d : Obj) (work : Nat) : State :=
  match s.nodes.find? (fun n => n.q == o.q && n.s == o.s && n.work == work && n.src == s.selfAddr && n.lo == x.own.1) with
  | none => s
  | some h =>
    let (_, r, c) := o.tileOf d work
    let ns := s.nodesAt o work h.home
    if (o.combined x s.selfAddr ns 0 0).isNone then s
    else
      let at_ := fun i j => (o.combined x s.selfAddr ns i j).getD (0, ⟨.zero, .zero⟩)
      let es := ((List.range (d.vrows r)).map (fun i => (List.range (d.vcols c)).map (fun j => (i, j)))).flatten
      let bads := (es.zipIdx).map (fun e => ns.any (fun n => n.bads.getD e.2 (!(nodeAt x.acc n.data e.1.1 e.1.2).val.isFin)))
      let vxe := (s.pieces.find? (fun p => p.q == o.q && p.s == o.s && p.idx == h.piece)).elim h.home PieceRec.vxe
      let came := (ns.filter (fun n => n.src != s.selfAddr)).length
      let s := { s with nodes := s.nodes.filter (fun n => !(n.q == o.q && n.s == o.s && n.work == work)) }
      let s := s.countOvf h.home ((es.map (fun e => (at_ e.1 e.2).1)).sum)
      let s := s.cond (decide (h.home < 16)) (fun s => s.bump (Reg.mxeAccstat h.home) 15 0 came)
      s.finishTile o x d h.home vxe h.piece h.quad work bads (fun i j => (at_ i j).2)

/-! ### The accumulator store (R198 to R201) -/

/-- Add the node values of two stack entries, element by element, with the overflow events. -/
def addNodes (a : Acc) (l r : List Node) : Nat × List Node :=
  let vs := (l.zip r).map (fun e =>
    let v := Num.add e.1.val e.2.val
    let n := Node.ofNum a v
    (b2n (overflowed v n), n))
  ((vs.map Prod.fst).sum, vs.map Prod.snd)

/-- Push node values on a stack, newest first, merging while the two top entries cover equal counts (R199). -/
def pushNodes (a : Acc) (e : Nat × List Node) : List (Nat × List Node) → Nat × List (Nat × List Node)
  | [] => (0, [e])
  | t :: st =>
    if e.1 = t.1 then
      let (k, vs) := addNodes a t.2 e.2
      let (m, st) := pushNodes a (t.1 + e.1, vs) st
      (k + m, st)
    else (0, e :: t :: st)

/-- Merge the rest of a stack into its top entry (R199). -/
def mergeNodes (a : Acc) (e : Nat × List Node) : List (Nat × List Node) → Nat × (Nat × List Node)
  | [] => (0, e)
  | t :: st =>
    let (k, vs) := addNodes a t.2 e.2
    let (m, r) := mergeNodes a (t.1 + e.1, vs) st
    (k + m, r)

/-- The elements of an open block, row by row. -/
def AccBlock.elems (b : AccBlock) : List (Nat × Nat) :=
  ((List.range b.vr).map (fun i => (List.range b.vc).map (fun j => (b.i0 + i, b.j0 + j)))).flatten

/-- The next slice sums of a block are complete (R199): they are pushed; a frame's end makes its root a leaf of the outer tree, and the part's end leaves one
entry, its node. -/
def AccBlock.push (x : Shape) (b : AccBlock) (ns : List Node) : Nat × AccBlock :=
  let (k, st) := pushNodes x.acc (1, ns) b.inner
  let last := b.next + 1 == b.hi
  if (b.next + 1) % x.per = 0 || last then
    match st with
    | [] => (k, { b with next := b.next + 1 })
    | e :: es =>
      let (k1, v) := mergeNodes x.acc e es
      let (k2, out) := pushNodes x.acc (1, v.2) b.outer
      match last, out with
      | true, e :: es =>
        let (k3, v) := mergeNodes x.acc e es
        (k + k1 + k2 + k3, { b with next := b.next + 1, inner := [], outer := [v] })
      | _, _ => (k + k1 + k2, { b with next := b.next + 1, inner := [], outer := out })
  else (k, { b with next := b.next + 1, inner := st })

/-- What a product multiplies: the pairs of slice `t` of element (row, column) of a plane, and its preload. -/
structure Source where
  terms : Nat → Nat → Nat → Nat → Except WorkFail (List (Elt × Elt))
  pre   : Nat → Nat → Nat → Except WorkFail (Option Elt)

/-- The slice sums of the next slice of a block, with the marks of R139 and the overflow events. -/
def sliceStep (x : Shape) (src : Source) (p row0 col0 : Nat) (b : AccBlock) : Except WorkFail (List (Node × Bool × Nat)) :=
  (b.elems.zipIdx).mapM (fun e => do
    let ps ← src.terms p (row0 + e.1.1) (col0 + e.1.2) b.next
    let v := sliceSum ps (if b.next = 0 then (b.pre[e.2]?).map (fun c => (c, false)) else none)
    let n := Node.ofNum x.acc v
    return (n, ps.any (fun q => q.1.2 || q.2.2), b2n (overflowed v n)))

/-- A block with its next slice sums pushed, and the overflow events. -/
def AccBlock.step (x : Shape) (b : AccBlock) (vs : List (Node × Bool × Nat)) : Nat × AccBlock :=
  let (k, b) := b.push x (vs.map Prod.fst)
  (k + (vs.map (fun v => v.2.2)).sum, { b with bads := List.zipWith (· || ·) b.bads (vs.map (fun v => v.2.1)) })

/-- Is this block one of the work unit on this unit, over these slices? -/
def AccBlock.of (unit q sn work lo hi : Nat) (b : AccBlock) : Bool :=
  b.unit == unit && b.q == q && b.s == sn && b.work == work && b.lo == lo && b.hi == hi

/-- The element of the blocks of a tile that have ended. -/
def blockNode (bs : List AccBlock) (i j : Nat) : Node × Bool :=
  match bs.find? (fun b => decide (b.i0 ≤ i) && decide (i < b.i0 + b.vr) && decide (b.j0 ≤ j) && decide (j < b.j0 + b.vc)) with
  | some b =>
    let e := (i - b.i0) * b.vc + (j - b.j0)
    ((b.outer.head?.bind (fun t => t.2[e]?)).getD ⟨.zero, .zero⟩, b.bads.getD e false)
  | none => (⟨.zero, .zero⟩, false)

/-- When every element of a tile's part has ended, the part leaves the accumulators: a whole tile to the tile queue, a node of it as a node tile, which is
combined where all of them have come together. -/
def State.closeTile (s : State) (o : OpRec) (x : Shape) (d : Obj) (unit vxe piece quad work lo hi : Nat) : State :=
  let (p, r, c) := o.tileOf d work
  let bs := s.accs.filter (AccBlock.of unit o.q o.s work lo hi)
  if ((bs.filter (fun b => b.next == hi)).map (fun b => b.vr * b.vc)).sum < d.vrows r * d.vcols c then s
  else
    let s := { s with accs := s.accs.filter (fun b => !b.of unit o.q o.s work lo hi) }
    let bads := ((List.range (d.vrows r)).map (fun i => (List.range (d.vcols c)).map (fun j => (blockNode bs i j).2))).flatten
    if (lo, hi) = o.slicesDue x then s.finishTile o x d unit vxe piece quad work bads (fun i j => (blockNode bs i j).1)
    else
      let n : NodeTile := { src := s.selfAddr, q := o.q, s := o.s, work := work, tag := (s.tagFor (o.writer (d.tiles - 1)) d p r c false).wire, lo := lo, hi := hi,
                            piece := piece, home := unit, quad := quad, unit := unit, head := o.nodeHead, bads := bads,
                            data := nodeTile x.acc (d.vrows r) (d.vcols c) (fun i j => (blockNode bs i j).1) }
      (({ s with nodes := s.nodes ++ [n] } : State).combine o x d work)

/-! ### Runs of passes on a quad (R143 to R146, R166, R169) -/

/-- Valid rows of a band, and its groups of 32 rows. -/
def Obj.bandRows (d : Obj) (r0 h : Nat) : Nat := min (128 * h) (d.rows - 128 * r0)
def bandGroups (d : Obj) (r0 h : Nat) : Nat := ceilDiv (d.bandRows r0 h) 32

/-- Valid rows of group `g` of a band. -/
def groupRows (d : Obj) (r0 h g : Nat) : Nat := min 32 (d.bandRows r0 h - 32 * g)

/-- Does an unfinished tile lie open on a quad? -/
def State.openOn (s : State) (unit quad : Nat) : Bool := s.accs.any (fun b => b.unit == unit && b.quad == quad && decide (b.next < b.hi))

/-- The groups of a band as blocks, with the preload in the slots of leaf 0 (R194): none of it where the part does not hold slice 0. -/
def openBlocks (o : OpRec) (d : Obj) (unit : Nat) (k : Run) (src : Source) : Except WorkFail (List AccBlock) :=
  (List.range (bandGroups d k.r0 k.h)).mapM (fun g => do
    let r := k.r0 + g / 4
    let b : AccBlock := { unit := unit, quad := k.quad, q := o.q, s := o.s, work := o.workOf d k.p r k.c, band := (k.p, k.c, k.r0), i0 := 32 * (g % 4), j0 := 0,
                          vr := groupRows d k.r0 k.h g, vc := d.vcols k.c, lo := k.lo, hi := k.hi, next := k.lo, pre := [], inner := [], outer := [], bads := [] }
    let cs ← if k.lo = 0 then b.elems.mapM (fun e => src.pre k.p (128 * r + e.1) (128 * k.c + e.2)) else pure []
    return { b with pre := cs.filterMap (fun c => c.map Prod.fst),
                    bads := if cs.isEmpty then List.replicate (b.vr * b.vc) false else cs.map (fun c => (c.map Prod.snd).getD false) })

/-- One step of a run: the next group of 32 rows streams through the weight block of its pass, and its slice sums enter the accumulator (R143, R199). The
first step of a band opens its tiles, on a quad that has finished every other band and has slots for them (R144, R200). -/
def State.streamStep (s : State) (o : OpRec) (x : Shape) (d : Obj) (p : PieceRec) (k : Run) (src : Source) : Except WorkFail State := do
  let n := k.start + p.pos.get (fun _ => 0) k.quad
  let gs := bandGroups d k.r0 k.h
  let (t, g) := (k.lo + n / gs, n % gs)
  let s ← if n = 0 then do
      if s.openOn p.unit k.quad || decide (partHalves < k.h * openNodes * nodeHalves x.acc) then throw ⟨0, .wait, 0⟩
      let bs ← openBlocks o d p.unit k src
      pure { s with accs := s.accs ++ bs }
    else pure s
  let r := k.r0 + g / 4
  let work := o.workOf d k.p r k.c
  let mine := fun (b : AccBlock) => b.of p.unit o.q o.s work k.lo k.hi && b.quad == k.quad && b.i0 == 32 * (g % 4)
  match s.accs.find? (fun b => mine b && b.next == t) with
  | none => throw ⟨0, .wait, 0⟩
  | some b =>
    let vs ← sliceStep x src k.p (128 * r) (128 * k.c) b
    let (m, b) := b.step x vs
    let s := { s with accs := s.accs.map (fun y => if mine y then b else y) }
    let s := s.countOvf p.unit m
    return if b.next = k.hi then s.closeTile o x d p.unit p.vxe p.idx k.quad work k.lo k.hi else s

/-- The running piece of an op with steps of its run on a quad still to stream. -/
def State.streamer (s : State) (q sn unit quad : Nat) : Option (PieceRec × Run) :=
  (s.pieces.filter (fun p => p.q == q && p.s == sn && p.unit == unit && p.phase == PiecePhase.running && !p.failed && !s.noProgress p)).findSome? (fun p =>
    (p.part.runs.find? (fun k => k.quad == quad && decide (p.pos.get (fun _ => 0) quad < k.stop - k.start))).map (fun k => (p, k)))

/-- Stream up to `n` groups of rows on a quad. A quad that waits for tile queue room streams nothing (R148); a pass's first row, and every slot read, meets
the injections armed for them (R178, R203). -/
def State.stream (s : State) (cls op q sn unit quad : Nat) (shape : OpRec → Option (Shape × Obj)) (src : OpRec → State → Source) : Nat → State
  | 0 => s
  | n + 1 =>
    match s.opAny q sn, s.streamer q sn unit quad with
    | some o, some (p, k) =>
      match shape o with
      | none => s
      | some (x, d) =>
        if (o.d.cls, o.d.op) ≠ (cls, op) ∨ s.unitIn unit = false ∨ s.stalled.any (fun t => t.unit == unit && t.quad == quad) = true then s
        else
          let starts := (k.start + p.pos.get (fun _ => 0) quad) % bandGroups d k.r0 k.h == 0
          match s.meetQuad unit quad starts with
          | (s, true) => s
          | (s, false) =>
            match s.streamStep o x d p k (src (s.view unit o) s) with
            | .error w => s.workFails o unit w
            | .ok s =>
              let s := { s with pieces := s.pieces.map (fun (y : PieceRec) =>
                if y.q = q ∧ y.s = sn ∧ y.idx = p.idx then { y with pos := y.pos.set (fun _ => 0) quad (y.pos.get (fun _ => 0) quad + 1) } else y) }
              s.stream cls op q sn unit quad shape src n
    | _, _ => s

/-- A product command: an MXE, its paired VXE and a quad. -/
def streamOn (cls op q sn unit vxe quad n : Nat) (shape : OpRec → Option (Shape × Obj)) (src : OpRec → State → Source) (s : State) : Outcome :=
  if unit < 16 ∧ vxe = unit ∧ quad < 4 then .next ((s.stream cls op q sn unit quad shape src n).settle) else .next s

/-! ### The MATRIX ops -/

/-- An operand element of a product, turned or not: (row of the product's operand, K index). -/
def State.opnd (s : State) (o : OpRec) (slot : Nat) (x : Obj) (turned : Bool) (p i k : Nat) : Except WorkFail Elt :=
  slotted slot (x.tileAddr p 0 0) (if turned then s.elt (s.reader o) x p k i else s.elt (s.reader o) x p i k)

/-- The preload element (R193). -/
def State.preElt (s : State) (o : OpRec) (p i j : Nat) : Except WorkFail (Option Elt) :=
  if o.d.pre = 0 then .ok none
  else match o.obj 2 with
    | none => .ok none
    | some c => do
      let v ← slotted 2 (c.addr 0) (s.elt (s.reader o) c (if c.planes = 1 then 0 else p) (if o.d.pre = 2 then 0 else i) j)
      return some (v.1.r32, v.2)

/-- The positions k of slice `t`. -/
def sliceKs (depth kk t : Nat) : List Nat := (List.range (min depth (kk - t * depth))).map (· + t * depth)

/-- What a MATMUL multiplies (R163). -/
def matmulSource (o : OpRec) (s : State) : Source where
  terms p row col t :=
    match o.obj 0, o.obj 1 with
    | some a, some b => do
      let ks := sliceKs (passDepth ((pairOf a.fmt b.fmt).getD .bf) o.d.acc) (o.d.ext 2) t
      let as ← ks.mapM (fun k => s.opnd o 0 a o.d.ta p row k)
      let bs ← ks.mapM (fun k => s.opnd o 1 b (!o.d.tb) (if b.planes = 1 then 0 else p) col k)
      return as.zip bs
    | _, _ => .ok []
  pre := s.preElt o

/-- MATMUL (R163). -/
def execMatmul (q sn unit vxe quad n : Nat) (s : State) : Outcome :=
  streamOn 1 0 q sn unit vxe quad n OpRec.matrixShape matmulSource s

/-- Where an op keeps the index entry of a result row that a piece has read, plus 1 (R161). -/
def rowKey (row : Nat) : Nat := 2 ^ 33 + row

/-- Count an index entry that names no row, once per op, at the lowest MXE that read it (R161): `aux` at 1000 + row holds that MXE + 1. -/
def rowMiss (unit : Nat) (o : OpRec) (s : State) (row : Nat) : OpRec × State :=
  let k := 1000 + row
  let m := o.aux.get (fun _ => 0) k
  let here := { o with aux := o.aux.set (fun _ => 0) k (unit + 1) }
  if m = 0 then (here, s.bump (Reg.mxeRowmiss unit) 31 0 1)
  else if unit + 1 < m then
    let old := s.fld (Reg.mxeRowmiss (m - 1)) 31 0
    (here, (s.put (Reg.mxeRowmiss (m - 1)) 31 0 (old - 1)).bump (Reg.mxeRowmiss unit) 31 0 1)
  else (o, s)

/-- The row of A that entry `v` of an index list names, `none` for −1 and for what is treated as −1 (R161). -/
def rowNamed (rows v : Nat) : Option Nat :=
  let i := sext 32 v
  if 0 ≤ i ∧ i < rows then some i.toNat else none

/-- Read the index entries of rows of a result for a piece that starts on an MXE: they are kept, and those that name no row counted. -/
def rowsRead (unit : Nat) (a x : Obj) : List Nat → OpRec × State → Except WorkFail (OpRec × State)
  | [], y => .ok y
  | row :: rows, (o, s) => do
    let v ← slotted 2 (x.addr 0) (s.code (s.reader o) x 0 row 0)
    let o := { o with aux := o.aux.set (fun _ => 0) (rowKey row) (v + 1) }
    rowsRead unit a x rows (if sext 32 v ≠ -1 ∧ (rowNamed a.rows v).isNone then rowMiss unit o s row else (o, s))

/-- The rows of D that the runs of a part cover. -/
def partRows (d : Obj) (x : Part) : List Nat :=
  ((x.runs.map (fun k => (List.range (d.bandRows k.r0 k.h)).map (· + 128 * k.r0))).flatten).eraseDups

/-- Index entries are read when the piece that needs them starts (R161). -/
def readRows (p : PieceRec) (o : OpRec) (s : State) : Except WorkFail (OpRec × State) :=
  match o.obj 0, o.obj 2, o.obj 3 with
  | some a, some x, some d => rowsRead p.unit a x (partRows d p.part) (o, s)
  | _, _, _ => .ok (o, s)

/-- What a MATMUL_ROWS multiplies (R161): a row that no entry names is not streamed, and is +0. -/
def rowsSource (o : OpRec) (s : State) : Source where
  terms _ row col t :=
    match o.obj 0, o.obj 1 with
    | some a, some b =>
      match o.aux.get (fun _ => 0) (rowKey row) with
      | 0 => .error ⟨2, .wait, 0⟩
      | v + 1 =>
        match rowNamed a.rows v with
        | none => .ok []
        | some i => do
          let ks := sliceKs (passDepth ((pairOf a.fmt b.fmt).getD .bf) o.d.acc) (o.d.ext 2) t
          let as ← ks.mapM (fun k => s.opnd o 0 a false 0 i k)
          let bs ← ks.mapM (fun k => s.opnd o 1 b (!o.d.tb) 0 col k)
          return as.zip bs
    | _, _ => .ok []
  pre := fun _ _ _ => .ok none

/-- MATMUL_ROWS (R161). -/
def execMatmulRows (q sn unit vxe quad n : Nat) (s : State) : Outcome :=
  streamOn 1 1 q sn unit vxe quad n OpRec.matrixShape rowsSource s

/-- What a MATMUL_BLOCKDIAG multiplies: A's tile (r, j) by plane j of B, one slice (R162). -/
def diagSource (o : OpRec) (s : State) : Source where
  terms _ row col _ :=
    match o.obj 0, o.obj 1 with
    | some a, some b => do
      let c := col / 128
      let as ← (List.range 128).mapM (fun k => s.opnd o 0 a o.d.ta 0 row (128 * c + k))
      let bs ← (List.range 128).mapM (fun k => s.opnd o 1 b (!o.d.tb) c (col % 128) k)
      return as.zip bs
    | _, _ => .ok []
  pre := s.preElt o

/-- MATMUL_BLOCKDIAG (R162). -/
def execMatmulBlockdiag (q sn unit vxe quad n : Nat) (s : State) : Outcome :=
  streamOn 1 2 q sn unit vxe quad n OpRec.matrixShape diagSource s

end Sys2Proof.Machine
end

