-- ==== Sys2Proof/Machine/Vector.lean ====
section
/-! DEFINITION. Vector engines and the tile queue (chapter 07): epilogue records, the store of results, the epilogue, the VECTOR ops. -/

namespace Sys2Proof.Machine

/-! ### Epilogue records (R218 to R221, R626) -/

/-- What an EPI word is judged against: the result's columns and rows per plane that the op covers, and D itself, each where it is known (R621). -/
structure EpiFor where
  n    : Option Nat
  rows : Option Nat
  d    : Option Obj
  deriving DecidableEq, Repr

/-- The objects an epilogue record names: (role, object), with roles 4 BIAS, 5 D2, 6 HIST, 7 STATS; `none` where one fails R32. -/
def epiObjs (s : State) (ctx : Nat) (ws : List Word) : Chk (List (Nat × Option Obj)) := do
  let bias ← objIf s ctx (recAt ws 0 54 31) 3
  let d2 ← objIf s ctx (recAt ws 0 30 7) 3
  let hist ← objIf s ctx (recAt ws 1 63 40) 3
  let stats ← objIf s ctx (recAt ws 1 39 16) 3
  return [(4, bias), (5, d2), (6, hist), (7, stats)].filterMap (fun p => p.2.map (fun o => (p.1, o)))

/-- Does an object that a record names meet R626? -/
def epiObjOk (e : EpiFor) (role : Nat) (o : Obj) : Bool :=
  let same := fun (c : Obj → Bool) => match e.d with
    | some d => c d
    | none => true
  let is := fun (known : Option Nat) (v : Nat) => known.getD v == v
  match role with
  | 4 => fmtFloat o.fmt && o.fmt != fLUT4 && o.planes == 1 &&
      (o.rank == 2 && decide (1 ≤ o.d0) && is e.n o.d1 || o.rank == 1 && is e.n o.d0 && fmtBlk o.fmt == 0)
  | 5 => writable o.fmt && same (fun d => o.rank == d.rank && o.rows == d.rows && o.cols == d.cols && o.d2 == d.d2 && o.d3 == d.d3)
  | 6 => o.fmt == fHIST
  | _ => o.fmt == fFP32 && same (fun d => o.cols == 2 * d.tc && o.planes == d.planes) && is e.rows o.rows

/-- The epilogue record and objects of an EPI word, or the failing fields; `pos` is the position of EREC, `pos − 20` that of HIDX. `plain`: the record
may scale, bias and activate. -/
def epiCheck (s : State) (ctx epi pos : Nat) (plain : Bool) (e : EpiFor) : Chk (List Word × List (Nat × Obj) × List (Nat × Bool)) := do
  let erec := epi / 2 ^ 20
  let hidx := epi % 2 ^ 20
  if erec = 0 then return ([], [], [(pos - 20, hidx != 0)])
  else
    match s.tableBase (Reg.epiBase ctx) 131072 with
    | none => return ([], [], [(pos, true)])
    | some b =>
      let ws ← readRec s 3 (b + 32 * erec) 4
      let bad := recAt ws 0 63 63 == 0 || recAt ws 0 6 0 != 0 || recAt ws 1 15 0 != 0 || recAt ws 2 31 28 != 0 || recAt ws 3 63 0 != 0 ||
        decide (4 < recAt ws 0 58 56) || decide (5 < recAt ws 0 61 59) ||
        !plain && (recAt ws 0 62 62 != 0 || recAt ws 0 61 59 != 0 || recAt ws 0 54 31 != 0)
      if bad then return (ws, [], [(pos, true)])
      else
        let os ← epiObjs s ctx ws
        let wrong := os.any (fun p => match p.2 with
          | none => true
          | some o => !epiObjOk e p.1 o)
        let good := os.filterMap (fun p => p.2.map (fun o => (p.1, o)))
        let beyond := match good.find? (fun p => p.1 == 6) with
          | some (_, h) => decide (h.d0 ≤ hidx)      -- a HIST that fails R32 leaves the comparison met (R621)
          | none => hidx != 0 && recAt ws 1 63 40 == 0
        return (ws, good, [(pos, wrong || beyond && recAt ws 1 63 40 != 0), (pos - 20, beyond)])

/-! ### The store of a result (R222 to R225) -/

/-- How an op converts: RND, overflow saturates, SEED. -/
structure Rounding where
  rnd  : Nat
  sat  : Bool
  seed : Nat
  deriving DecidableEq, Repr

/-- The value a written element reads back as. -/
def TileOut.back (t : TileOut) (fmt i j : Nat) : Num :=
  let code := if colAxis fmt then ((t.lines.getD j []).getD i ⟨0, false, false⟩).code else ((t.lines.getD i []).getD j ⟨0, false, false⟩).code
  match fmtKind fmt with
  | some (.plain e) => e.decode code
  | some k => blockValue k (((t.sides.find? (fun x => x.1 == blockNo fmt i j)).map Prod.snd).getD 0) code
  | none => .nan

/-- The value a written element decodes to in FP32 (R224): INT32 rounds under the op's RND (R127), and a LUT4 tile was copied with the values that it had. -/
def TileOut.decoded (t : TileOut) (fmt : Nat) (rnd : Nat → Nat → Rnd) (x : Nat → Nat → Elt) (i j : Nat) : Num :=
  if fmt = fLUT4 then (x i j).1 else if fmt = fINT32 then (t.back fmt i j).round (rnd i j) 24 (-126) 127 else t.back fmt i j

/-- The elements that a tile takes over as codes, `none` where it does not. -/
def TileOut.moved (t : TileOut) (f : Nat → Nat → Option Nat) : TileOut :=
  { t with lines := t.lines.zipIdx.map (fun l => l.1.zipIdx.map (fun c => match f l.2 c.2 with
      | some v => ⟨v, false, false⟩
      | none => c.1)) }

/-- Does the cover take in every valid element of the tile? -/
def coversAll (vr vc : Nat) (cov : Nat → Nat → Bool) : Bool :=
  (List.range vr).all (fun i => (List.range vc).all (fun j => cov i j))

/-- Write an encoded tile of an object, whole or in part. -/
def State.storeTile (s : State) (o : OpRec) (x : Obj) (result : Bool) (last p r c : Nat) (cov : Nat → Nat → Bool) (t : TileOut) :
    Except Fail State :=
  if coversAll (x.vrows r) (x.vcols c) cov then s.writeTile (o.wr x result) (o.writer last) x p r c t
  else s.writePart (o.wr x result) (o.writer last) x p r c cov t

/-- Count a tile's covered elements in the op's histogram. -/
def histTile (vr vc : Nat) (cov : Nat → Nat → Bool) (x : Nat → Nat → Elt) (h : Tab Nat) : Tab Nat :=
  (List.range vr).foldl (fun h i => (List.range vc).foldl (fun h j => if cov i j then histAdd h (x i j).1 else h) h) h

/-- The two statistics of row `i` of a tile (R224). -/
def rowStats (xs : List Num) : Num × Num := (treeSum xs, treeSum (xs.map (fun v => (v.mul v).r32)))

/-- Write the statistics of a tile, its elements decoded as `v`, into STATS (R224): columns 2c and 2c + 1 of the covered rows. -/
def State.storeStats (s : State) (o : OpRec) (st d : Obj) (p r c : Nat) (cov : Nat → Nat → Bool) (v : Nat → Nat → Num) : Except Fail State :=
  let cell := fun i => rowStats (((List.range (d.vcols c)).filter (fun j => cov i j)).map (fun j => v i j))
  let c0 := 2 * c / 128
  let j0 := 2 * c % 128
  let cv := fun i j => decide (i < d.vrows r) && (j == j0 || j == j0 + 1) && (List.range (d.vcols c)).any (fun k => cov i k)
  let y := fun i j => if j = j0 then (cell i).1 else if j = j0 + 1 then (cell i).2 else .zero
  s.storeTile o st false (st.tileNo p r c0) p r c0 cv (encodeTile st.fmt (st.vrows r) (st.vcols c0) (fun _ _ => .rne) false y)

/-- Store a result tile as already encoded: histogram, watch, D, D2 and STATS, with the op's bookkeeping. `watch`: its elements were computed or converted;
tiles moved as they are go unwatched (R135). `fresh`: its elements are yet to be counted. -/
def storeEncoded (o : OpRec) (s : State) (unit : Nat) (d : Obj) (last p r c : Nat) (cov : Nat → Nat → Bool) (rd : Rounding) (watch fresh : Bool)
    (x : Nat → Nat → Elt) (t : TileOut) : Except WorkFail (OpRec × State) := do
  let vr := d.vrows r
  let vc := d.vcols c
  let o := if fresh && (o.obj 6).isSome then { o with hist := histTile vr vc cov x o.hist } else o
  let s := if watch then s.watchTile o unit d p r c 0 cov x t else s
  let s ← slotted 3 (d.tileAddr p r c) (s.storeTile o d true last p r c cov t)
  let (o, s) := s.wroteTile o d p r c
  let s ← match o.obj 5 with
    | none => pure s
    | some d2 =>
      let rnd2 := recAt (o.rc 1) 0 58 56
      let t2 := encodeTile d2.fmt vr vc (fun i j => d2.rnd o.ctx rnd2 rd.seed p r c i j) (recAt (o.rc 1) 0 55 55 == 1) (fun i j => (x i j).1)
      let s := s.watchTile o unit d2 p r c 0 cov x t2
      slotted 3 (d2.tileAddr p r c) (s.storeTile o d2 false last p r c cov t2)
  let s ← match o.obj 7 with
    | none => pure s
    | some st => slotted 3 (st.addr 0) (s.storeStats o st d p r c cov
        (t.decoded d.fmt (fun i j => d.rnd o.ctx rd.rnd rd.seed p r c i j) x))
  return (o, s)

/-- Convert and store a result tile under RND, OVF and SEED. -/
def storeResult (o : OpRec) (s : State) (unit : Nat) (d : Obj) (last p r c : Nat) (cov : Nat → Nat → Bool) (rd : Rounding) (fresh : Bool)
    (x : Nat → Nat → Elt) : Except WorkFail (OpRec × State) :=
  let t := encodeTile d.fmt (d.vrows r) (d.vcols c) (fun i j => d.rnd o.ctx rd.rnd rd.seed p r c i j) rd.sat (fun i j => (x i j).1)
  storeEncoded o s unit d last p r c cov rd true fresh x t

/-! ### Lane arithmetic (R213, Table 7.4, Table 7.8) -/

/-- 1/√2 and 1/√(2π) as FP32. -/
def cSqrtHalf : Num := f32n 0x3F3504F3
def cInvSqrtTwoPi : Num := f32n 0x3ECC422A
def half : Num := f32n 0x3F000000

/-- SIGMOID: RECIP(1 + EXP(−x)), each step rounded. -/
def sigmoid (x : Num) : Num := (Num.one.div (Num.add Num.one x.neg.exp.r32).r32).r32

/-- x > 0. -/
def pos (x : Num) : Bool := Num.zero.lt x

/-- Activations by ACT code (Table 7.4). -/
def activate (act : Nat) (x : Num) : Num :=
  match act with
  | 1 => if x.isNan then .nan else if pos x then x else .zero
  | 2 =>
    let e := ((x.mul cSqrtHalf).r32.erf).r32
    ((half.mul x).r32.mul (Num.add Num.one e).r32).r32
  | 3 => (x.mul (sigmoid x)).r32
  | 4 => sigmoid x
  | 5 => x.tanh.r32
  | _ => x

/-- ELTWISE: the value of FUNC, rounded by `rl` (Table 7.8). -/
def eltFunc (rl : Num → Num) (func : Nat) (imm a b c : Num) : Num :=
  match func with
  | 0x00 => rl a
  | 0x01 => rl (Num.add a b)
  | 0x02 => rl (Num.add a b.neg)
  | 0x03 => rl (a.mul b)
  | 0x04 => rl (a.div b)
  | 0x05 => Num.pick true a b
  | 0x06 => Num.pick false a b
  | 0x07 => rl (Num.add (a.mul b) c)
  | 0x08 => rl (Num.add (a.mul imm) b)
  | 0x09 => rl (Num.add a imm)
  | 0x0A => rl (a.mul imm)
  | 0x0B => Num.pick false (Num.pick true a imm.abs.neg) imm.abs
  | 0x0C => if b.isZero then c else a
  | 0x0D => a.abs
  | 0x0E => a.neg
  | 0x10 => a.exp.r32
  | 0x11 => a.log.r32
  | 0x12 => (Num.one.div a).r32
  | 0x13 => a.rsqrt.r32
  | 0x14 => a.sqrt.r32
  | 0x15 => a.tanh.r32
  | 0x16 => a.erf.r32
  | 0x18 => activate 1 a
  | 0x19 => activate 2 a
  | 0x1A => activate 3 a
  | 0x1B => activate 4 a
  | 0x1C => if a.isNan then .nan else if pos a then b else .zero
  | 0x1D =>
    let cc := (half.mul (Num.add Num.one ((a.mul cSqrtHalf).r32.erf).r32).r32).r32
    let sq := (half.neg.mul (a.mul a).r32).r32
    let k := (a.mul (sq.exp.r32.mul cInvSqrtTwoPi).r32).r32
    (b.mul (Num.add cc k).r32).r32
  | 0x1E =>
    let sg := sigmoid a
    let f := (Num.add Num.one (a.mul (Num.add Num.one sg.neg).r32).r32).r32
    (b.mul (sg.mul f).r32).r32
  | _ => a

/-! ### The epilogue (R215, R222) -/

/-- Rounding of the classes that feed tile queues: RND, OVF and SEED of Table 5.6; of Table 9.3 and the epilogue record for CONV and STEM (R281). -/
def OpRec.rounding (o : OpRec) : Rounding :=
  if o.d.cls = 1 then ⟨o.d.mrnd, o.d.sat, o.d.seed⟩ else ⟨o.d.at 411 3, o.d.at 410 1 == 1, recAt (o.rc 1) 2 27 0⟩

/-- One element through scale, bias and activation. -/
def epiElt (o : OpRec) (s : State) (j : Nat) (v : Elt) : Except WorkFail Elt := do
  let ws := o.rc 1
  let y := if recAt ws 0 62 62 = 1 then (v.1.mul (f32n (recAt ws 2 63 32))).r32 else v.1
  match o.obj 4 with
  | none => return (activate (recAt ws 0 61 59) y, v.2)
  | some b =>
    let w ← slotted 3 (b.addr 0) (if b.rank < 2 then s.elt (s.reader o) b 0 j 0 else s.elt (s.reader o) b 0 0 j)
    return (activate (recAt ws 0 61 59) (Num.add y w.1.r32).r32, v.2 || w.2)

/-- Where an UPDATE op keeps the schedule row that it read (R308). -/
def schedKey : Nat := 14

/-- A field of the schedule row, from bit `lo` of its 32 bytes. -/
def OpRec.sched (o : OpRec) (k : Nat) : Num := f32n (recAt (o.rc schedKey) (k / 2) (32 * (k % 2) + 31) (32 * (k % 2)))

/-- The statistics of a block group, ALPHA times its product added to BETA times what stood there (R324). -/
def gramElt (o : OpRec) (s : State) (d : Obj) (p i j : Nat) (v : Elt) : Except WorkFail Elt := do
  let t := ((o.sched 5).mul v.1).r32
  if o.sched 6 = Num.zero then return (t, v.2)
  else
    let old ← slotted 3 (d.tileAddr p 0 0) (s.elt (s.reader o) d p i j)
    return ((Num.add ((o.sched 6).mul old.1) t).r32, v.2 || old.2)

/-- The epilogue of a finished tile: D and what goes with it (R222), or the plane of a GRAM (R324), once. -/
def epilogueTile (o : OpRec) (s : State) (e : TileEntry) : Except WorkFail (OpRec × State) :=
  match o.obj 3 with
  | none => .ok (o, s)
  | some d => do
    let (p, r, c) := o.tileOf d e.work
    let vc := d.vcols c
    let vs := ((e.vals.zip e.nans).zipIdx).map (fun v => ((v.2 / vc, v.2 % vc), ((f32 v.1.1, v.1.2) : Elt)))
    if o.d.cls = 8 then
      if o.done.contains e.work then return (o, s)
      else
        let ys ← vs.mapM (fun v => gramElt o s d p v.1.1 v.1.2 v.2)
        storeResult o s (16 + e.vxe) d (d.tileNo (o.d.gfirst + o.d.ext 0 - 1) 0 0) p r c (fun _ _ => true) ⟨0, false, 0⟩ true
          (fun i j => ys.getD (i * vc + j) (.zero, false))
    else
      let ys ← vs.mapM (fun v => epiElt o s (128 * c + v.1.2) v.2)
      storeResult o s (16 + e.vxe) d (d.tiles - 1) p r c (fun _ _ => true) o.rounding (!o.done.contains e.work)
        (fun i j => ys.getD (i * vc + j) (.zero, false))

/-- The op has performed a work unit. -/
def OpRec.didUnit (o : OpRec) (u : Nat) : OpRec := { o with done := if o.done.contains u then o.done else o.done ++ [u] }

/-- A tile of a feature map is written on a die: its plane stays there (R290). -/
def State.keepPlane (s : State) (o : OpRec) (die work : Nat) : State :=
  if (o.d.cls = 4 ∨ o.d.cls = 5) ∧ o.d.op < 2 then match o.obj 3 with
    | some d =>
      let p := (d.tileAt work).1
      let here := fun (r : Resident) => r.ctx == o.ctx && r.obj == d.id && r.plane == p
      let was := match s.resident.find? (fun r => here r && r.q == o.q && r.s == o.s) with
        | some r => r.dies
        | none => []
      { s with resident := s.resident.filter (fun r => !here r) ++ [⟨o.ctx, d.id, p, o.q, o.s, was.filter (· != die) ++ [die]⟩] }
    | none => s
  else s

/-- Must the head of a tile queue wait: its VXE is out, or its op has a piece of epilogues for it there that does not run yet (R81, R226)? -/
def State.epilogueWaits (s : State) (e : TileEntry) : Bool :=
  let mine := s.pieces.filter (fun p => p.q == e.q && p.s == e.s && p.unit == 16 + e.vxe && p.part.kind == 16 && p.phase != PiecePhase.ended &&
    decide (p.part.first ≤ e.work) && decide (e.work < p.part.first + p.part.n))
  !s.unitIn (16 + e.vxe) || !mine.isEmpty && !mine.any (fun p => p.phase == PiecePhase.running && !s.noProgress p)

/-- Is the op of an entry over, with no replay that wants it? -/
def State.entryVoid (s : State) (e : TileEntry) (o : OpRec) : Bool :=
  o.phase == .ended && !s.pieces.any (fun p => p.q == e.q && p.s == e.s && p.reader.isSome)

/-- The head of a tile queue frees its place (R216). -/
def State.freeEntry (s : State) (vxe : Nat) : State := ({ s with tileQ := s.tileQ.eraseP (fun t => t.vxe == vxe) } : State).syncTq vxe

/-- The counts of an epilogue join those of the piece that made its tile, or its op's where that piece has ended (R217). -/
def State.entryCount (s : State) (e : TileEntry) (add : Tab Nat) : State :=
  let here := fun (p : PieceRec) => p.q == e.q && p.s == e.s && p.idx == e.piece && p.phase != PiecePhase.ended
  if s.pieces.any here then
    { s with pieces := s.pieces.map (fun (p : PieceRec) => if here p then { p with hist := histJoin p.hist add } else p) }
  else s.mapOp e.q e.s (fun o => { o with hist := histJoin o.hist add })

/-- EPILOGUE (R215): the entry at the head of the queue is scaled, biased, activated, converted, counted and written, and frees its place when its epilogue
has read it (R216). -/
def execEpilogue (vxe : Nat) (s : State) : Outcome :=
  match s.tileQ.find? (fun t => t.vxe == vxe) with
  | none => .next s
  | some e =>
    match s.opAny e.q e.s with
    | none => .next (s.freeEntry vxe)
    | some o =>
      if s.entryVoid e o then .next (s.freeEntry vxe)
      else if s.epilogueWaits e then .next s
      else
        match s.meetVxe vxe [1, 2, 3] with
        | (s, true) => .next s
        | (s, false) =>
          match epilogueTile { s.view (16 + vxe) o with hist := [] } s e with
          | .error w => .next (if w.fail = .wait ∨ w.fail = .classA then s else (s.workFails o (16 + vxe) w).freeEntry vxe)
          | .ok (p, s) =>
            let add := p.hist
            let p := ({ p with hist := o.hist } : OpRec).didUnit e.work
            .next (((((s.freeEntry vxe).putOp p).entryCount e add).keepPlane p (vxe / 4) e.work).pieceDid e.q e.s e.work).settle

/-! ### VECTOR: fields and checks (R227 to R229, R212) -/

def Desc.func (d : Desc) : Nat := d.at 408 8
def Desc.vrnd (d : Desc) : Nat := d.at 405 3
def Desc.vsat (d : Desc) : Bool := d.at 404 1 == 1
def Desc.bb (d : Desc) : Nat := d.at 402 2
def Desc.cb (d : Desc) : Nat := d.at 400 2
def Desc.lanes (d : Desc) : Bool := d.at 399 1 == 1
def Desc.sub (d : Desc) : Nat := d.at 384 15
def Desc.imm (d : Desc) : Nat := d.par 1

/-- ELTWISE functions defined, those with B, those with C, those with IMM, those with BF16 lanes. -/
def eltDefined (f : Nat) : Bool := decide (f ≤ 0x0E) || decide (0x10 ≤ f) && decide (f ≤ 0x16) || decide (0x18 ≤ f) && decide (f ≤ 0x1E)
def eltB (f : Nat) : Bool := [0x01, 0x02, 0x03, 0x04, 0x05, 0x06, 0x07, 0x08, 0x0C, 0x1C, 0x1D, 0x1E].contains f
def eltC (f : Nat) : Bool := [0x07, 0x0C].contains f
def eltImm (f : Nat) : Bool := [0x08, 0x09, 0x0A, 0x0B].contains f
def eltLanes (f : Nat) : Bool := [0x00, 0x01, 0x02, 0x03, 0x05, 0x06, 0x07].contains f

/-- Is FUNC defined for the op? -/
def funcOk (op f : Nat) : Bool :=
  match op with
  | 0 => eltDefined f
  | 1 => decide (f ≤ 5)
  | 2 => decide (f ≤ 1)
  | 4 => decide (f ≤ 4)
  | _ => f == 0

/-- Is SUB legal? -/
def subOk (op f sub : Nat) : Bool :=
  match op with
  | 1 => decide (sub ≤ 1)
  | 4 => decide (sub % 16 ≤ 13) && (sub < 16 || sub < 32 && f == 4)
  | _ => sub == 0

/-- Is IMM used? -/
def immUsed (op f : Nat) : Bool :=
  match op with
  | 0 => eltImm f
  | 2 => true
  | 3 => true
  | 4 => f == 1
  | 7 => true
  | 8 => true
  | _ => false

/-- Is the value of BB, or of CB, one that the op takes? Other than 0 it goes with operands that Table 7.5 marks in; those of ROWNORM and PACK have shapes of
their own, whatever the field says (R229). -/
def bbOk (op f bb : Nat) : Bool :=
  match op with
  | 0 => bb == 0 || eltB f
  | 2 => true
  | 3 => decide (bb ≤ 1)
  | 4 => bb == 0 || f == 2
  | 5 => true
  | 7 => true
  | 8 => true
  | _ => bb == 0
def cbOk (op f cb : Nat) : Bool := cb == 0 || op == 0 && eltC f || op == 2 || op == 5

/-- Are the data operands and D all BF16 (for W)? Indices, masks and counts carry no lane data. -/
def allBf (op : Nat) (n : Named) : Bool :=
  let bf := fun k => n.with k (fun o => o.fmt == fBF16)
  bf 0 && bf 3 && (op != 0 && op != 4 || bf 1) && (op != 0 || bf 2)

/-- Field step of the VECTOR ops, beside EPI. -/
def vectorFields (d : Desc) (n : Named) : List (Nat × Bool) :=
  let f := d.func
  let grp := d.op == 4 && decide (2 ≤ f) && decide (f ≤ 4) && d.ext 0 % 2 ^ (d.sub % 16 + 1) != 0
  [(408, !funcOk d.op f), d.rndField 405, (402, !bbOk d.op f d.bb), (400, !cbOk d.op f d.cb),
   (399, d.lanes && !((d.op == 0 && eltLanes f || d.op == 3 || d.op == 4 || d.op == 7 || d.op == 8) && allBf d.op n)),
   (384, !subOk d.op f d.sub), (480, !immUsed d.op f && d.imm != 0),
   (352, decide (16384 < d.ext 0) || grp), d.resv 416 32]

/-- Rows of the row view (R210). -/
def Obj.viewRows (o : Obj) : Nat := o.planes * o.rows

/-- Has the object at least these rows and elements in the row view? -/
def Obj.atLeast (o : Obj) (r c : Nat) : Bool := decide (r ≤ o.viewRows) && decide (c ≤ o.cols)

/-- The broadcast shape of B or C. -/
def Obj.bcast (o : Obj) (bb rows cols : Nat) : Bool :=
  match bb with
  | 0 => o.atLeast rows cols
  | 1 => o.atLeast 1 cols
  | 2 => o.atLeast rows 1
  | _ => o.atLeast 1 1

/-- Does the covered range split no block of a result (R212)? -/
def Obj.wholeBlocks (o : Obj) (rows cols : Nat) : Bool :=
  let b := fmtBlk o.fmt
  if b = 0 then true
  else if colAxis o.fmt then (let e := rows % o.rows; e == 0 || e % b == 0)
  else cols % b == 0 || cols == o.cols

/-- Rows and columns of a scale or zero-point object of PACK and UNPACK: one entry per block of block-format object `x` (R229). -/
def Obj.blockShape (x : Obj) (rows cols : Nat) (o : Obj) : Bool :=
  let b := fmtBlk x.fmt
  if colAxis x.fmt then o.atLeast (rows / x.rows * ceilDiv x.rows b + ceilDiv (rows % x.rows) b) cols
  else o.atLeast rows (ceilDiv cols b)

/-- An input element's format: every one but a histogram record. -/
def readable (f : Nat) : Bool := f != fHIST

/-- A block format 0x10 to 0x1B, with or without bit 5. -/
def blockFmt (f : Nat) : Bool := fmtBlk f != 0

/-- Object step of the VECTOR ops (R229). -/
def vectorObjs (d : Desc) (n : Named) : List (Nat × Bool) :=
  let r := d.ext 1
  let c := d.ext 0
  let inp := fun (o : Obj) => readable o.fmt && o.atLeast r c
  let outp := fun (o : Obj) => writable o.fmt && o.atLeast r c && o.wholeBlocks r c
  let cnt := fun (o : Obj) => o.fmt == fINT32 && o.rank == 1 && decide (r ≤ o.d0)
  let mask := fun (o : Obj) => o.fmt == fUINT8 && o.bcast d.bb r c
  match d.op with
  | 0 => [n.need 0 inp,
      if eltB d.func then n.need 1 (fun o => readable o.fmt && o.bcast d.bb r c) else n.no 1,
      if eltC d.func then n.need 2 (fun o => readable o.fmt && o.bcast d.cb r c) else n.no 2, n.need 3 outp]
  | 1 => [n.need 0 inp, n.no 1, n.no 2,
      n.need 3 (fun o => writable o.fmt && o.cols == 1 && o.atLeast r 1 && o.wholeBlocks r 1 && (d.func != 5 || o.fmt == fINT32))]
  | 2 => [n.need 0 inp,
      n.may 1 (fun o => readable o.fmt && decide (c ≤ o.cols) && (o.rows == 2 || d.func == 1 && o.rows == 1)),
      n.may 2 (fun o => o.fmt == fFP32 && n.with 3 (fun x => o.cols == 2 * x.tc && o.planes == x.planes) && o.rows == r), n.need 3 outp]
  | 3 => [n.need 0 inp, n.need 1 (fun o => o.fmt == fINT32 && o.bcast d.bb r c), n.no 2, n.need 3 outp]
  | 4 => [n.need 0 inp, if d.func = 2 then n.need 1 (fun o => readable o.fmt && o.bcast d.bb r c) else n.no 1, n.no 2, n.need 3 outp]
  | 5 => [n.need 0 inp, n.need 1 (fun o => o.fmt == fFP32 && n.with 3 (fun x => x.blockShape r c o)),
      if n.with 3 (fun x => inInt x.fmt) then n.may 2 (fun o => o.fmt == fINT32 && n.with 3 (fun x => x.blockShape r c o)) else n.no 2,
      n.need 3 (fun o => outp o && blockFmt o.fmt)]
  | 6 => [n.need 0 (fun o => inp o && blockFmt o.fmt && o.wholeBlocks r c),
      n.need 1 (fun o => o.fmt == fFP32 && n.with 0 (fun x => x.blockShape r c o)),
      if n.with 0 (fun x => inInt x.fmt) then n.may 2 (fun o => o.fmt == fINT32 && n.with 0 (fun x => x.blockShape r c o)) else n.no 2,
      n.need 3 outp]
  | _ => [n.need 0 inp, n.need 1 mask, n.may 2 cnt, n.need 3 outp]

/-! ### VECTOR: rows -/

/-- Work units of a VECTOR op: the tile rows of D that it covers. -/
def vectorUnits (d : Desc) (x : Obj) : Nat :=
  if x.rows = 0 then 0 else d.ext 1 / x.rows * x.tr + ceilDiv (d.ext 1 % x.rows) 128

/-- Row `r` of the row view: (plane, row). -/
def Obj.viewRow (o : Obj) (r : Nat) : Nat × Nat := (r / o.rows, r % o.rows)

/-- An input element in FP32: INT32 rounds under RND (R127), a value beyond FP32 narrows (R193). -/
def loadElt (r : Rnd) (fmt : Nat) (v : Elt) : Elt :=
  (if fmt = fINT32 then v.1.round r 24 (-126) 127 else v.1.r32, v.2)

/-- Element (row r, element e) of an operand, under a broadcast shape. -/
def vElt (o : OpRec) (s : State) (slot : Nat) (x : Obj) (bb : Nat) (rn : Rnd) (r e : Nat) : Except WorkFail Elt := do
  let r := if bb = 1 ∨ bb = 3 then 0 else r
  let e := if 2 ≤ bb then 0 else e
  let (p, i) := x.viewRow r
  let v ← slotted slot (x.tileAddr p (i / 128) (e / 128)) (s.elt (s.reader o) x p i e)
  return loadElt rn x.fmt v

/-- The raw code of an element of a list, mask or index. -/
def vCode (o : OpRec) (s : State) (slot : Nat) (x : Obj) (bb r e : Nat) : Except WorkFail Nat :=
  let r := if bb = 1 ∨ bb = 3 then 0 else r
  let e := if 2 ≤ bb then 0 else e
  let (p, i) := x.viewRow r
  slotted slot (x.tileAddr p (i / 128) (e / 128)) (s.code (s.reader o) x p i e)

/-- The rounding of a VECTOR op. -/
def OpRec.vrounding (o : OpRec) : Rounding := ⟨o.d.vrnd, o.d.vsat, recAt (o.rc 1) 2 27 0⟩

/-- The rounding that loads an INT32 element for element (r, e) of D. -/
def OpRec.loadRnd (o : OpRec) (d : Obj) (r e : Nat) : Rnd :=
  let (p, i) := d.viewRow r
  rndOf o.d.vrnd o.ctx d.id (recAt (o.rc 1) 2 27 0) (d.srdIdx p i e)

/-- Store every tile of tile row `u` of D from its covered rows, of `width` elements each; `codes` are the elements that are moved as they stand. -/
def storeRows (o : OpRec) (s : State) (unit u width : Nat) (rows : List (List Elt)) (codes : List (List (Option Nat))) (d : Obj)
    (enc : Option (Nat → Nat → List Rnd → List (Option Num) → Nat → Blk)) : Nat → Except WorkFail (OpRec × State)
  | 0 => .ok (o, s)
  | k + 1 => do
    let (o, s) ← storeRows o s unit u width rows codes d enc k
    let p := u / d.tr
    let r := u % d.tr
    let cov := fun i j => decide (i < rows.length) && decide (128 * k + j < width)
    let x := fun i j => (rows.getD i []).getD (128 * k + j) (.zero, false)
    let rd := o.vrounding
    let last := (d.tileNo ((o.d.ext 1 - 1) / d.rows) ((o.d.ext 1 - 1) % d.rows / 128) ((width - 1) / 128))
    let rnd := fun i j => d.rnd o.ctx rd.rnd rd.seed p r k i j
    let t := match enc with
      | none => encodeTile d.fmt (d.vrows r) (d.vcols k) rnd rd.sat (fun i j => (x i j).1)
      | some f => encodeWith d.fmt (d.vrows r) (d.vcols k) rnd rd.sat (fun i j => (x i j).1) (fun l b rs vs => f l b rs vs k)
    storeEncoded o s unit d last p r k cov rd true (!o.done.contains u) x (t.moved (fun i j => (codes.getD i []).getD (128 * k + j) none))

/-- The view rows that tile row `u` of D covers. -/
def coveredRows (o : OpRec) (d : Obj) (u : Nat) : List Nat :=
  let p := u / d.tr
  let i0 := 128 * (u % d.tr)
  ((List.range (d.vrows (u % d.tr))).map (fun i => p * d.rows + i0 + i)).filter (fun r => decide (r < o.d.ext 1))

/-- A VECTOR work unit whose D elements are given row by row. -/
def rowUnit (unit width : Nat) (f : OpRec → State → Obj → Nat → Except WorkFail (List Elt)) (o : OpRec) (s : State) (u : Nat) :
    Except WorkFail (OpRec × State) :=
  match o.obj 3 with
  | none => .ok (o, s)
  | some d => do
    let rows ← (coveredRows o d u).mapM (fun r => f o s d r)
    storeRows o s unit u width rows [] d none (ceilDiv width 128)

/-- A VECTOR work unit whose D elements are moved (R233), row by row: where D's format is A's they keep their codes. -/
def moveUnit (unit : Nat) (f : OpRec → State → Obj → Nat → Except WorkFail (List (Elt × Option Nat))) (o : OpRec) (s : State) (u : Nat) :
    Except WorkFail (OpRec × State) :=
  match o.obj 3 with
  | none => .ok (o, s)
  | some d => do
    let rows ← (coveredRows o d u).mapM (fun r => f o s d r)
    storeRows o s unit u (o.d.ext 0) (rows.map (fun l => l.map Prod.fst)) (rows.map (fun l => l.map Prod.snd)) d none (ceilDiv (o.d.ext 0) 128)

/-- A VECTOR command on a VXE: its lanes, and for some ops the permute network, meet the injections armed for them (R239). -/
def vectorOn (op q sn unit first n : Nat) (s : State) (f : OpRec → State → Nat → Except WorkFail (OpRec × State)) : Outcome :=
  if 16 ≤ unit ∧ unit < 32 then
    .next (s.workOn (fun s => s.meetVxe (unit - 16) (if [3, 4, 7, 8].contains op then [3, 4] else [3])) 2 op q sn unit first n f)
  else .next s

/-! ### ELTWISE -/

/-- One row of ELTWISE (R228). -/
def eltwiseRow (o : OpRec) (s : State) (d : Obj) (r : Nat) : Except WorkFail (List Elt) :=
  (List.range (o.d.ext 0)).mapM (fun e => do
    let rn := o.loadRnd d r e
    let one := fun slot bb => match o.obj slot with
      | none => (Except.ok (Num.zero, false) : Except WorkFail Elt)
      | some x => vElt o s slot x bb rn r e
    let a ← one 0 0
    let b ← one 1 o.d.bb
    let c ← one 2 o.d.cb
    let rl := if o.d.lanes then Num.rBf16 else Num.r32
    return (eltFunc rl o.d.func (f32n o.d.imm) a.1 b.1 c.1, a.2 || b.2 || c.2))

/-- ELTWISE (R228). -/
def execEltwise (q sn unit first n : Nat) (s : State) : Outcome :=
  vectorOn 0 q sn unit first n s (fun o s u => rowUnit unit (o.d.ext 0) eltwiseRow o s u)

/-! ### ROWREDUCE -/

/-- The index of the first NaN, else of the first element equal to the maximum (R231). -/
def argmax (xs : List Num) : Nat :=
  match xs.findIdx? Num.isNan with
  | some i => i
  | none => (xs.zipIdx.foldl (fun (b : Nat × Num) x => if b.2.lt x.1 then (x.2, x.1) else b) (0, xs.headD .zero)).1

/-- The value of ROWREDUCE over a row (R231). Roundings of its tree to an infinity count in no OVFCNT (DESIGN CHOICE, log entry 158). -/
def reduceRow (func : Nat) (pair : Bool) (xs : List Num) : Num :=
  let a : Acc := if pair then .a32x else .a32
  match func with
  | 0 => (treeNodes a (xs.map (Node.ofNum a))).result
  | 1 => (treeNodes a (xs.map (fun x => Node.ofNum a (x.mul x)))).result
  | 2 => xs.tail.foldl (Num.pick true) (xs.headD .zero)
  | 3 => xs.tail.foldl (Num.pick false) (xs.headD .zero)
  | 4 => (xs.map Num.abs).tail.foldl (Num.pick true) (xs.headD .zero).abs
  | _ => .ofInt (argmax xs)

/-- One row of ROWREDUCE. -/
def rowreduceRow (o : OpRec) (s : State) (d : Obj) (r : Nat) : Except WorkFail (List Elt) :=
  match o.obj 0 with
  | none => .ok []
  | some x => do
    let vs ← (List.range (o.d.ext 0)).mapM (fun e => vElt o s 0 x 0 (o.loadRnd d r 0) r e)
    return [(reduceRow o.d.func (o.d.sub % 2 == 1) (vs.map Prod.fst), vs.any Prod.snd)]

/-- ROWREDUCE (R231). -/
def execRowreduce (q sn unit first n : Nat) (s : State) : Outcome :=
  vectorOn 1 q sn unit first n s (fun o s u => rowUnit unit 1 rowreduceRow o s u)

/-! ### ROWNORM -/

/-- The row's partial sums: from C, or formed as R224 forms them. R232 sums over the T tiles of D; where D is wider than EXT0 the tiles beyond the covered ones
are left out (DESIGN CHOICE, log entry 157). -/
def partials (o : OpRec) (s : State) (d : Obj) (r : Nat) (xs : List Num) : Except WorkFail (List (Num × Num)) :=
  (List.range (ceilDiv (o.d.ext 0) 128)).mapM (fun t =>
    match o.obj 2 with
    | none => return rowStats ((xs.drop (128 * t)).take 128)
    | some c => do
      let (p, i) := d.viewRow r
      let a ← slotted 2 (c.addr 0) (s.elt (s.reader o) c p i (2 * t))
      let b ← slotted 2 (c.addr 0) (s.elt (s.reader o) c p i (2 * t + 1))
      return (a.1.r32, b.1.r32))

/-- One row of ROWNORM (R232). -/
def rownormRow (o : OpRec) (s : State) (d : Obj) (r : Nat) : Except WorkFail (List Elt) :=
  match o.obj 0 with
  | none => .ok []
  | some x => do
    let vs ← (List.range (o.d.ext 0)).mapM (fun e => vElt o s 0 x 0 (o.loadRnd d r e) r e)
    let ps ← partials o s d r (vs.map Prod.fst)
    let s1 := treeSum (ps.map Prod.fst)
    let s2 := treeSum (ps.map Prod.snd)
    let cnt := (Num.ofInt (o.d.ext 0 : Nat)).r32
    let eps := f32n o.d.imm
    let bad := vs.any Prod.snd
    let gb := fun row e => match o.obj 1 with
      | none => (Except.ok (if row = 0 then Num.one else .zero, false) : Except WorkFail Elt)
      | some b => do
        let v ← slotted 1 (b.addr 0) (s.elt (s.reader o) b 0 row e)
        return loadElt (o.loadRnd d r e) b.fmt v
    let mean := (s1.div cnt).r32
    let v0 := (s2.div cnt).r32
    let v := (Num.add v0 (mean.mul mean).neg).r32
    let v := if !v.isNan && v.isNeg then .zero else v
    let rstd := if o.d.func = 0 then (Num.add v eps).r32.rsqrt.r32 else (Num.add v0 eps).r32.rsqrt.r32
    vs.zipIdx.mapM (fun xe => do
      let g ← gb 0 xe.2
      if o.d.func = 0 then
        let b ← gb 1 xe.2
        let z := ((Num.add xe.1.1 mean.neg).r32.mul rstd).r32
        return ((Num.add (z.mul g.1) b.1).r32, bad || g.2 || b.2)
      else return (((xe.1.1.mul rstd).r32.mul g.1).r32, bad || g.2))

/-- ROWNORM (R232). -/
def execRownorm (q sn unit first n : Nat) (s : State) : Outcome :=
  vectorOn 2 q sn unit first n s (fun o s u => rowUnit unit (o.d.ext 0) rownormRow o s u)

/-! ### PERMUTE and SHUFFLE (R233) -/

/-- Count the indices of a row that are neither −1 nor in range. -/
def countIdx (n : Nat) (cs : List Nat) : Nat :=
  (cs.filter (fun c => let i := sext 32 c; decide (i < -1) || decide ((n : Int) ≤ i))).length

/-- The indices of a row of PERMUTE. -/
def permIdx (o : OpRec) (s : State) (r : Nat) : Except WorkFail (List Nat) :=
  match o.obj 1 with
  | none => .ok []
  | some b => (List.range (o.d.ext 0)).mapM (fun e => vCode o s 1 b o.d.bb r e)

/-- An element that PERMUTE or SHUFFLE moves from operand `slot`, negated or not: its value, and its code where D's format is the operand's, so that nothing
is converted (R233). -/
def moveElt (o : OpRec) (s : State) (slot : Nat) (x : Obj) (bb : Nat) (d : Obj) (r e k : Nat) (neg : Bool) : Except WorkFail (Elt × Option Nat) := do
  let v ← vElt o s slot x bb (o.loadRnd d r e) r k
  let w : Elt := (if neg then v.1.neg else v.1, v.2)
  match fmtKind d.fmt with
  | some (.plain f) =>
    if x.fmt ≠ d.fmt then return (w, none)
    else
      let c ← vCode o s slot x bb r k
      return (w, some (if neg then (f.conv .rne true (f.decode c).neg).code else c))
  | _ => return (w, none)

/-- One row of PERMUTE. -/
def permuteRow (o : OpRec) (s : State) (d : Obj) (r : Nat) : Except WorkFail (List (Elt × Option Nat)) :=
  match o.obj 0 with
  | none => .ok []
  | some x => do
    let cs ← permIdx o s r
    cs.zipIdx.mapM (fun ce =>
      let i := sext 32 ce.1
      if 0 ≤ i ∧ i < o.d.ext 0 then moveElt o s 0 x 0 d r ce.2 i.toNat false
      else (.ok ((f32n o.d.imm, !(f32n o.d.imm).isFin), none) : Except WorkFail (Elt × Option Nat)))

/-- A tile row of PERMUTE: the row values, and VXE_IDXMISS. -/
def permuteUnit (unit : Nat) (o : OpRec) (s : State) (u : Nat) : Except WorkFail (OpRec × State) :=
  match o.obj 3 with
  | none => .ok (o, s)
  | some d => do
    let ix ← (coveredRows o d u).mapM (fun r => permIdx o s r)
    let (o, s) ← moveUnit unit permuteRow o s u
    return (o, s.bump (Reg.vxeIdxmiss (unit - 16)) 31 0 ((ix.map (countIdx (o.d.ext 0))).foldl (· + ·) 0))

/-- PERMUTE (R233). -/
def execPermute (q sn unit first n : Nat) (s : State) : Outcome :=
  vectorOn 3 q sn unit first n s (permuteUnit unit)

/-- Where element `e` of a SHUFFLE comes from: (from B, element, negated). -/
def shuffleFrom (func sub n e : Nat) (imm : Int) : Bool × Nat × Bool :=
  let g := 2 ^ (sub % 16)
  match func with
  | 0 => (false, n - 1 - e, false)
  | 1 => (false, (((e : Int) - imm) % n).toNat, false)
  | 2 => (e / g % 2 == 1, e / (2 * g) * g + e % g, false)
  | 3 =>
    let h := n / 2
    if e < h then (false, e / g * (2 * g) + e % g, false) else (false, (e - h) / g * (2 * g) + g + (e - h) % g, false)
  | _ =>
    let front := e % (2 * g) < g
    (false, if front then e + g else e - g, front && sub / 16 % 2 == 1)

/-- One row of SHUFFLE. -/
def shuffleRow (o : OpRec) (s : State) (d : Obj) (r : Nat) : Except WorkFail (List (Elt × Option Nat)) :=
  (List.range (o.d.ext 0)).mapM (fun e => do
    let (b, k, neg) := shuffleFrom o.d.func o.d.sub (o.d.ext 0) e (sext 32 o.d.imm)
    match (if b then o.obj 1 else o.obj 0) with
    | none => return ((.zero, false), none)
    | some x => moveElt o s (if b then 1 else 0) x (if b then o.d.bb else 0) d r e k neg)

/-- SHUFFLE (R233). -/
def execShuffle (q sn unit first n : Nat) (s : State) : Outcome :=
  vectorOn 4 q sn unit first n s (moveUnit unit shuffleRow)

/-! ### PACK and UNPACK (R234) -/

/-- The row and column, in a scale or zero-point object, of the block that holds element (p, i, e) of block-format object `x`. The spec says one per block;
where those of a column axis stand is the model's choice (DESIGN CHOICE, log entry 156): row p · ceil(DIM0 ÷ b) + i ÷ b, column e. -/
def Obj.blockAt (x : Obj) (p i e : Nat) : Nat × Nat :=
  let b := fmtBlk x.fmt
  if colAxis x.fmt then (p * ceilDiv x.rows b + i / b, e) else (p * x.rows + i, e / b)

/-- The scale and zero point of the block `b` of line `l` of tile column `k`, as read for a PACK. -/
def packSide (o : OpRec) (s : State) (d : Obj) (p r k l b : Nat) : Except WorkFail (Num × Int) := do
  let w := fmtBlk d.fmt
  let (i, e) := if colAxis d.fmt then (128 * r + w * b, 128 * k + l) else (128 * r + l, 128 * k + w * b)
  let (row, col) := d.blockAt p i e
  let sc ← match o.obj 1 with
    | none => pure (Num.zero, false)
    | some x => vElt o s 1 x 0 .rne row col
  let z ← match o.obj 2 with
    | none => pure 0
    | some x => vCode o s 2 x 0 row col
  return (sc.1, sext 32 z)

/-- Every scale and zero point of the blocks of a tile that are covered: ((line, block, tile column), scale, zero point). -/
def packSides (o : OpRec) (s : State) (d : Obj) (u width rows : Nat) : Except WorkFail (List ((Nat × Nat × Nat) × Num × Int)) :=
  let p := u / d.tr
  let r := u % d.tr
  let per := 128 / fmtBlk d.fmt
  let w := fmtBlk d.fmt
  let keys := ((List.range (ceilDiv width 128)).map (fun k => (List.range 128).map (fun l => (List.range per).map (fun b => (l, b, k))))).flatten.flatten
  let used := keys.filter (fun x => if colAxis d.fmt then decide (128 * x.2.2 + x.1 < width) && decide (w * x.2.1 < rows)
    else decide (x.1 < rows) && decide (128 * x.2.2 + w * x.2.1 < width))
  used.mapM (fun x => do
    let v ← packSide o s d p r x.2.2 x.1 x.2.1
    return (x, v))

/-- One row of A, as read. -/
def plainRow (o : OpRec) (s : State) (d : Obj) (r : Nat) : Except WorkFail (List Elt) :=
  match o.obj 0 with
  | none => .ok []
  | some x => (List.range (o.d.ext 0)).mapM (fun e => vElt o s 0 x 0 (o.loadRnd d r e) r e)

/-- A tile row of PACK. -/
def packUnit (unit : Nat) (o : OpRec) (s : State) (u : Nat) : Except WorkFail (OpRec × State) :=
  match o.obj 3 with
  | none => .ok (o, s)
  | some d => do
    let rows ← (coveredRows o d u).mapM (fun r => plainRow o s d r)
    let sides ← packSides o s d u (o.d.ext 0) rows.length
    let enc := fun l b rs vs k =>
      let sd := ((sides.find? (fun x => x.1 == (l, b, k))).map Prod.snd).getD (Num.one, 0)
      packBlock d.fmt rs sd.1 sd.2 vs
    storeRows o s unit u (o.d.ext 0) rows [] d (some enc) (ceilDiv (o.d.ext 0) 128)

/-- PACK (R234). -/
def execPack (q sn unit first n : Nat) (s : State) : Outcome :=
  vectorOn 5 q sn unit first n s (packUnit unit)

/-- An element of a block-format object without its scale: q in 0x10 to 0x15, q − z in 0x18 to 0x1B. -/
def unscaled (k : Kind) (side q : Nat) : Num :=
  match k with
  | .mx e => e.decode q
  | .intz w _ => .ofInt (sext w q - sext 8 (side / 65536))
  | _ => .nan

/-- The side data of the block that holds an element. -/
def State.sideOf (s : State) (rd : Reader) (x : Obj) (p i j : Nat) : Except Fail Nat := do
  let _ ← s.tagCheck rd x p (i / 128) (j / 128)
  s.readBits x (8 * (x.tileOff p (i / 128) (j / 128) + sideAt x.fmt (blockNo x.fmt (i % 128) (j % 128)))) (8 * fmtSide x.fmt)

/-- One row of UNPACK's D. -/
def unpackRow (o : OpRec) (s : State) (_d : Obj) (r : Nat) : Except WorkFail (List Elt) :=
  match o.obj 0 with
  | none => .ok []
  | some x =>
    let (p, i) := x.viewRow r
    (List.range (o.d.ext 0)).mapM (fun e => do
      let q ← slotted 0 (x.tileAddr p (i / 128) (e / 128)) (s.code (s.reader o) x p i e)
      let sd ← slotted 0 (x.tileAddr p (i / 128) (e / 128)) (s.sideOf (s.reader o) x p i e)
      let v := unscaled ((fmtKind x.fmt).getD .hist) sd q
      return (v, !(blockValue ((fmtKind x.fmt).getD .hist) sd q).isFin))

/-- Write one element of a result beside D in the row view, as part of its tile; it is watched under its own object (R135). -/
def putView (o : OpRec) (s : State) (unit slot : Nat) (x : Obj) (row col : Nat) (v : Elt) : Except WorkFail State :=
  let (p, i) := x.viewRow row
  let r := i / 128
  let c := col / 128
  let y := fun a b => if a = i % 128 ∧ b = col % 128 then v else (.zero, false)
  let t := encodeTile x.fmt (x.vrows r) (x.vcols c) (fun _ _ => .rne) false (fun a b => (y a b).1)
  let s := s.watchTile o unit x p r c 0 (fun a b => a == i % 128 && b == col % 128) y t
  slotted slot (x.tileAddr p r c) (s.storeTile o x false (x.tileNo p r c) p r c (fun a b => a == i % 128 && b == col % 128) t)

/-- Write the scales and zero points that an UNPACK found: (row, column, scale, zero point). -/
def putSideList (o : OpRec) (s : State) (unit : Nat) : List (Nat × Nat × Num × Int) → Except WorkFail State
  | [] => .ok s
  | (row, col, sc, z) :: xs => do
    let s ← match o.obj 1 with
      | none => pure s
      | some b => putView o s unit 1 b row col (sc, !sc.isFin)
    let s ← match o.obj 2 with
      | none => pure s
      | some c => putView o s unit 2 c row col (.ofInt z, false)
    putSideList o s unit xs

/-- The blocks of the rows of an UNPACK's tile row: each block once, by its first element. -/
def unpackSides (o : OpRec) (s : State) (rows : List Nat) : Except WorkFail (List (Nat × Nat × Num × Int)) :=
  match o.obj 0 with
  | none => .ok []
  | some x =>
    let w := fmtBlk x.fmt
    let es := (rows.map (fun r => (List.range (o.d.ext 0)).map (fun e => (r, e)))).flatten
    let firsts := es.filter (fun re => if colAxis x.fmt then (x.viewRow re.1).2 % w == 0 else re.2 % w == 0)
    firsts.mapM (fun re => do
      let (p, i) := x.viewRow re.1
      let sd ← slotted 0 (x.tileAddr p (i / 128) (re.2 / 128)) (s.sideOf (s.reader o) x p i re.2)
      let (row, col) := x.blockAt p i re.2
      match fmtKind x.fmt with
      | some (.intz _ _) => return (row, col, (bf16 (sd % 65536)).r32, sext 8 (sd / 65536))
      | _ => return (row, col, e8m0 sd, 0))

/-- A tile row of UNPACK. -/
def unpackUnit (unit : Nat) (o : OpRec) (s : State) (u : Nat) : Except WorkFail (OpRec × State) :=
  match o.obj 3 with
  | none => .ok (o, s)
  | some d => do
    let sides ← unpackSides o s (coveredRows o d u)
    let (o, s) ← rowUnit unit (o.d.ext 0) unpackRow o s u
    let s ← putSideList o s unit sides
    return (o, s)

/-- UNPACK (R234). -/
def execUnpack (q sn unit first n : Nat) (s : State) : Outcome :=
  vectorOn 6 q sn unit first n s (unpackUnit unit)

/-! ### COMPRESS and EXPAND (R235) -/

/-- The mask of a row. -/
def maskRow (o : OpRec) (s : State) (r : Nat) : Except WorkFail (List Bool) :=
  match o.obj 1 with
  | none => .ok []
  | some b => (List.range (o.d.ext 0)).mapM (fun e => do
      let c ← vCode o s 1 b o.d.bb r e
      return c != 0)

/-- The fill value as an element. -/
def OpRec.fill (o : OpRec) : Elt := (f32n o.d.imm, !(f32n o.d.imm).isFin)

/-- One row of COMPRESS. -/
def compressRow (o : OpRec) (s : State) (d : Obj) (r : Nat) : Except WorkFail (List Elt) := do
  let m ← maskRow o s r
  let xs ← plainRow o s d r
  let kept := ((xs.zip m).filter (fun p => p.2)).map Prod.fst
  return kept ++ List.replicate (o.d.ext 0 - kept.length) o.fill

/-- Place the elements of a list where the mask is set. -/
def expandInto (fill : Elt) : List Bool → List Elt → List Elt
  | [], _ => []
  | true :: ms, x :: xs => x :: expandInto fill ms xs
  | _ :: ms, xs => fill :: expandInto fill ms xs

/-- One row of EXPAND: only the elements it places are read. -/
def expandRow (o : OpRec) (s : State) (d : Obj) (r : Nat) : Except WorkFail (List Elt) :=
  match o.obj 0 with
  | none => .ok []
  | some x => do
    let m ← maskRow o s r
    let k := (m.filter id).length
    let xs ← (List.range k).mapM (fun e => vElt o s 0 x 0 (o.loadRnd d r e) r e)
    return expandInto o.fill m xs

/-- Write the counts of rows into C. -/
def putCounts (o : OpRec) (s : State) (unit : Nat) : List (Nat × Nat) → Except WorkFail State
  | [] => .ok s
  | (r, k) :: ks => do
    let s ← match o.obj 2 with
      | none => pure s
      | some c => putView o s unit 2 c r 0 (.ofInt (k : Nat), false)
    putCounts o s unit ks

/-- A tile row of COMPRESS or EXPAND: D, then the counts. -/
def maskUnit (unit : Nat) (f : OpRec → State → Obj → Nat → Except WorkFail (List Elt)) (o : OpRec) (s : State) (u : Nat) :
    Except WorkFail (OpRec × State) :=
  match o.obj 3 with
  | none => .ok (o, s)
  | some d => do
    let ks ← (coveredRows o d u).mapM (fun r => do
      let m ← maskRow o s r
      return (r, (m.filter id).length))
    let (o, s) ← rowUnit unit (o.d.ext 0) f o s u
    let s ← putCounts o s unit ks
    return (o, s)

/-- COMPRESS (R235). -/
def execCompress (q sn unit first n : Nat) (s : State) : Outcome :=
  vectorOn 7 q sn unit first n s (maskUnit unit compressRow)

/-- EXPAND (R235). -/
def execExpand (q sn unit first n : Nat) (s : State) : Outcome :=
  vectorOn 8 q sn unit first n s (maskUnit unit expandRow)

end Sys2Proof.Machine
end

