-- ==== Sys2Proof/Machine/Attention.lean ====
section
/-! DEFINITION. Attention (chapter 08): the checks of ATTN ops, length tables, key lists and masks, the forward and backward arithmetic, SEQSET and the
sequence page directory. A work unit of ATTN_FWD and ATTN_BWD is a query tile of a head of an entry, of SEQSET a record. -/

namespace Sys2Proof.Machine

/-! ### Fields and checks (R240 to R244, R264) -/

def Desc.mask (d : Desc) : Nat := d.at 413 3
def Desc.bucket (d : Desc) : Bool := d.at 412 1 == 1
def Desc.arec (d : Desc) : Nat := d.at 468 12

/-- Rounding of an ATTN op's results; SEED is 0 (R242). -/
def OpRec.attRounding (o : OpRec) : Rounding := ⟨o.d.at 409 3, o.d.at 408 1 == 1, 0⟩

/-- Field step, beside the attention record. -/
def attnFields (d : Desc) : List (Nat × Bool) :=
  if d.op = 2 then
    [(352, decide (2 ^ 20 < d.ext 0)), d.resv 320 32, d.resv 416 32, d.resv 384 32, d.resv 480 32, d.resv 448 32]
  else
    [(352, decide (2 ^ 20 < d.ext 0)), (320, decide (256 < d.ext 1)), (416, !(d.ext 2 == 0 || d.ext 2 == 64 || d.ext 2 == 128 || d.ext 2 == 256)),
     (413, decide (4 < d.mask)), d.rndField 409, d.resv 384 24]

/-- The shape of O, whose DIM0 is A's. -/
def attnO (d : Desc) (n : Named) (o : Obj) : Bool :=
  n.with 0 (fun a => a.rows == o.rows) && o.cols == d.ext 1 * d.ext 2 && o.planes == 1

/-- Object step (Table 8.9, Table 8.8). -/
def attnObjs (d : Desc) (n : Named) : List (Nat × Bool) :=
  if d.op = 2 then [n.need 0 (fun a => a.fmt == fINT32 && a.rank == 2 && a.d1 == 4 && decide (d.ext 0 ≤ a.d0)), n.no 1, n.no 2, n.no 3]
  else
    let hw := d.ext 1 * d.ext 2
    let stat := fun (c : Obj) => c.fmt == fFP32 && n.with 0 (fun a => a.rows == c.rows) && c.cols == d.ext 1 && c.planes == 1
    [n.need 0 (fun a => inBf a.fmt && a.cols == 3 * hw && a.planes == 1),
     n.need 1 (fun b => b.fmt == fINT32 && b.rank == 2 && b.d1 == 4 && decide (d.ext 0 ≤ b.d0)),
     if d.op = 0 then n.may 2 stat else n.need 2 stat,
     n.need 3 (fun x => preFmt x.fmt && (if d.op = 0 then attnO d n x
       else n.with 0 (fun a => a.rank == x.rank && a.d0 == x.d0 && a.d1 == x.d1 && a.d2 == x.d2 && a.d3 == x.d3)))]

/-- Does an object of the attention record meet Table 8.9? Roles: 8 OOBJ, 9 DOOBJ, 10 SSTORE, 11 GCTX, 6 HIST. -/
def attnRecObj (d : Desc) (n : Named) (role : Nat) (o : Obj) : Bool :=
  match role with
  | 8 => attnO d n o && preFmt o.fmt
  | 9 => attnO d n o && inBf o.fmt
  | 10 => o.fmt == fFP32 && o.cols == 128 && o.planes == 1
  | 11 => o.cols == 3 * (d.ext 1 * d.ext 2) && o.planes == 1 && preFmt o.fmt
  | _ => o.fmt == fHIST

/-- The objects that an attention record names. -/
def attnRecObjs (s : State) (ctx : Nat) (ws : List Word) : Chk (List (Nat × Option Obj)) := do
  let oo ← objIf s ctx (recAt ws 0 62 39) 3
  let dd ← objIf s ctx (recAt ws 0 38 15) 3
  let ss ← objIf s ctx (recAt ws 1 63 40) 3
  let gc ← objIf s ctx (recAt ws 1 39 16) 3
  let hi ← objIf s ctx (recAt ws 2 63 40) 3
  return [(8, oo), (9, dd), (10, ss), (11, gc), (6, hi)].filterMap (fun p => p.2.map (fun o => (p.1, o)))

/-- The attention record, its objects and the fields that fail (R244). -/
def attnRecord (s : State) (ctx : Nat) (d : Desc) (n : Named) : Chk (List Word × List (Nat × Obj) × List (Nat × Bool)) := do
  let hidx := d.at 448 20
  if d.arec = 0 then return ([], [], [(468, d.mask == 3 || d.bucket || d.op == 1), (448, hidx != 0)])
  else
    match s.tableBase (Reg.attBase ctx) 131072 with
    | none => return ([], [], [(468, true)])
    | some b =>
      let ws ← readRec s 3 (b + 32 * d.arec) 4
      let blen := recAt ws 3 42 22
      let bad := recAt ws 0 63 63 == 0 || recAt ws 0 14 0 != 0 || recAt ws 1 15 0 != 0 || recAt ws 2 39 0 != 0 || recAt ws 3 21 0 != 0 ||
        d.op == 0 && (recAt ws 0 62 15 != 0 || recAt ws 1 39 16 != 0) ||
        (d.mask == 3) == (recAt ws 3 63 43 == 0) ||
        (if d.bucket then blen == 0 || blen % 16 != 0 else blen != 0) ||
        d.op == 1 && (recAt ws 0 62 39 == 0 || recAt ws 0 38 15 == 0)
      if bad then return (ws, [], [(468, true), (448, hidx != 0 && recAt ws 2 63 40 == 0)])
      else
        let os ← attnRecObjs s ctx ws
        let wrong := os.any (fun p => match p.2 with
          | none => true
          | some o => !attnRecObj d n p.1 o)
        let good := os.filterMap (fun p => p.2.map (fun o => (p.1, o)))
        let beyond := match good.find? (fun p => p.1 == 6) with
          | some (_, h) => decide (h.d0 ≤ hidx)
          | none => hidx != 0 && recAt ws 2 63 40 == 0
        return (ws, good, [(468, wrong), (448, beyond)])

/-! ### Directory entries (R256, Table 8.7) -/

/-- Addresses of the two words of directory entry `scx`. -/
def dirAt0 (scx : Nat) : Nat := Reg.asqDir0 (scx / 65536) (scx % 65536)
def dirAt1 (scx : Nat) : Nat := Reg.asqDir1 (scx / 65536) (scx % 65536)

/-- Set both words of an entry; ASQ_DIRUSED follows VALID. -/
def State.setDir (s : State) (scx : Nat) (w0 w1 : Word) : State :=
  let was := b2n (s.flag (dirAt0 scx) 63)
  let r := Reg.asqDirused (scx / 65536)
  let s := (s.wr (dirAt0 scx) w0).wr (dirAt1 scx) w1
  s.put r 16 0 (s.fld r 16 0 + bits w0 63 63 - was)

/-- Clear VALID of an entry. -/
def State.clearDir (s : State) (scx : Nat) : State := s.setDir scx (putBits (s.rd (dirAt0 scx)) 63 63 0) (s.rd (dirAt1 scx))

/-- Two words from a row of four INT32 elements (Table 8.4, Table 8.8). -/
def rowWords (s : State) (o : OpRec) (slot : Nat) (x : Obj) (r : Nat) : Except WorkFail (Word × Word) := do
  let c ← (List.range 4).mapM (fun j => slotted slot (x.tileAddr 0 (r / 128) 0) (s.code (s.reader o) x 0 r j))
  return (BitVec.ofNat 64 (c.getD 0 0 + 2 ^ 32 * c.getD 1 0), BitVec.ofNat 64 (c.getD 2 0 + 2 ^ 32 * c.getD 3 0))

/-- A page list as read: (PAGE, valid tokens) by entry. -/
def pageList (s : State) (o : OpRec) (slot : Nat) (x : Obj) (n : Nat) : Except WorkFail (List (Nat × Nat)) :=
  (List.range n).mapM (fun i => do
    let c ← slotted slot (x.addr 0) (s.code (s.reader o) x 0 i 0)
    return (c % 2 ^ 27, c / 2 ^ 27 % 32 + 1))

/-- Does a page list stay within the rows of the key-value object, each page of at most 16 tokens (Table 8.6)? What a COUNTM1 above 15 does the spec does not
say: here SEQSET refuses the record, and an entry that reads so is unusable (DESIGN CHOICE, log entry 160). -/
def pagesOk (rows : Nat) (ps : List (Nat × Nat)) : Bool := ps.all (fun p => decide (p.2 ≤ 16) && decide (16 * p.1 + p.2 - 1 < rows))

/-- Valid tokens of a page list. -/
def pageTokens (ps : List (Nat × Nat)) : Nat := (ps.map Prod.snd).foldl (· + ·) 0

/-! ### SEQSET (R257) -/

/-- Refuse a record: SCXMISS of the entry's die. -/
def State.scxMiss (s : State) (scx : Nat) : State := s.bump (Reg.asqMiss (scx / 65536)) 31 0 1

/-- Apply a record that sets an entry. -/
def seqsetSet (o : OpRec) (s : State) (scx : Nat) (w0 w1 : Word) : Except WorkFail State := do
  let e := s.rd (dirAt0 scx)
  let np := bits w0 63 32
  if bit e 63 && bits e 62 51 != o.ctx || bits w0 30 18 != 0 || bits w1 63 56 != 0 || bits w1 31 24 != 0 || decide (65536 < np) then
    return s.scxMiss scx
  else
    match ← atWork 0 (objRec s o.ctx (bits w1 55 32) 0), ← atWork 0 (objRec s o.ctx (bits w1 23 0) 0) with
    | some kv, some pl =>
      if !(inBf kv.fmt && kv.planes == 1 && pl.fmt == fINT32 && pl.rank == 1 && decide (np ≤ pl.d0)) then return s.scxMiss scx
      else
        let kv ← atWork 0 (translate s o.ctx 0 kv true false)
        let pl ← atWork 0 (translate s o.ctx 0 pl true false)
        let ps ← pageList s o 0 pl np
        if !pagesOk kv.rows ps || decide (2 ^ 20 < pageTokens ps) then return s.scxMiss scx
        else return s.setDir scx (word [(63, 1), (51, o.ctx), (34, np), (13, pageTokens ps)]) (word [(40, kv.id), (16, pl.id)])
    | _, _ => return s.scxMiss scx

/-- An entry of the directory read wrong (R262, R274): a single bit is corrected and counted; an uncorrectable entry ends the reading op and reads
VALID = 0. -/
def State.dirError (s : State) (die index : Nat) (two inj : Bool) (o : OpRec) : State :=
  let f : FaultIn := { cls := 1, sev := 2, rtype := 0, det := 0x0E, inj := inj, dom := 1, inst := 32 + die, unit := 32 + die,
                       op := some (o.q, o.s, o.ctx), info := index }
  if two then
    let s := (s.bump (Reg.asqDetcnt die) 47 32 1).detect f
    let s := s.clearDir (65536 * die + index)
    s.failOp o.q o.s stDataErr (if o.d.op = 2 then 0 else 1)
  else (s.bump (Reg.asqDetcnt die) 63 48 1).countDet (0x0E * 65536 + die) f

/-- A read of a directory entry meets the injections armed for its ECC (R276). -/
def State.meetDir (s : State) (o : OpRec) (scx : Nat) : State × Bool :=
  s.meet (fun a => if a.reg = Reg.asqInj (scx / 65536) ∧ a.kind ≤ 2 then some (fun s => (s.dirError (scx / 65536) (scx % 65536) (a.kind == 2) true o, a.kind == 2))
    else none)

/-- Record `u` of a SEQSET, in ascending order. -/
def seqsetUnit (o : OpRec) (s : State) (u : Nat) : Except WorkFail (OpRec × State) :=
  match o.obj 0 with
  | none => .ok (o, s)
  | some a => do
    let (w0, w1) ← rowWords s o 0 a u
    let scx := bits w0 17 0
    if u ≠ o.done.length then .error ⟨0, .wait, 0⟩
    else
      let o := { o with aux := o.aux.set (fun _ => 0) 200 1 }
      if bit w0 31 then
        let e := s.rd (dirAt0 scx)
        if !bit e 63 then return (o, s)
        else if bits e 62 51 = o.ctx then return (o, s.clearDir scx)
        else return (o, s.scxMiss scx)
      else
        let s ← seqsetSet o s scx w0 w1
        return (o, s)

/-- The entry that a record of a SEQSET names. -/
def State.seqsetEntry (s : State) (o : OpRec) (u : Nat) : Option Nat :=
  match o.obj 0 with
  | none => none
  | some a => match rowWords s o 0 a u with
    | .ok ws => some (bits ws.1 17 0)
    | .error _ => none

/-- One record, its read of the entry under the directory's ECC. -/
def seqsetOne (q sn unit u : Nat) (s : State) : State :=
  s.workOn (fun s => match s.opAny q sn with
    | none => unmet s
    | some o => match s.seqsetEntry o u with
      | some scx => s.meetDir o scx
      | none => unmet s) 3 2 q sn unit u 1 seqsetUnit

/-- SEQSET (R257), on the ASQ of the entries' die (R258), in service or not (R275). -/
def execSeqset (q sn unit first n : Nat) (s : State) : Outcome :=
  if 32 ≤ unit ∧ unit < 36 then .next ((List.range n).foldl (fun s k => seqsetOne q sn unit (first + k) s) s) else .next s

/-! ### Length tables and key lists (R246 to R253) -/

/-- Cut a list into runs of `k`. -/
def chunksOf {α : Type} (k : Nat) : Nat → List α → List (List α)
  | 0, _ => []
  | _, [] => []
  | f + 1, xs => xs.take k :: chunksOf k f (xs.drop k)

/-- The context's pages as keys, from position `pos`. -/
def ctxPages (pos : Nat) : List (Nat × Nat) → List (List Key)
  | [] => []
  | (page, n) :: ps => (List.range n).map (fun i => ⟨true, 16 * page + i, pos + i⟩) :: ctxPages (pos + n) ps

/-- The key tiles of an entry (R252). -/
def keyTiles (cross : Bool) (pages : List (Nat × Nat)) (row qlen : Nat) : List (List Key) :=
  let n := pageTokens pages
  let own := if cross then [] else chunksOf 16 qlen ((List.range qlen).map (fun i => (⟨false, row + i, n + i⟩ : Key)))
  let all := ctxPages 0 pages ++ own
  (chunksOf 8 all.length all).map List.flatten

/-- Does the mask admit key position `k` for query position `q` (Table 8.5, R253)? -/
def admits (o : OpRec) (x : AttEntry) (q k : Nat) : Bool :=
  decide (x.kfirst ≤ k) && match o.d.mask with
    | 1 => decide (k ≤ q)
    | 2 => decide (k ≤ q) || decide (q < x.plen) && decide (k < x.plen)
    | 3 => decide (q < k + recAt (o.rc 2) 3 63 43) && decide (k ≤ q)
    | _ => true

/-- The context of an entry: the key-value object and its pages, `none` where R261 makes it unusable. Two cases that R261 does not list count with it (DESIGN
CHOICE, log entry 161): a page beyond KVOBJ's rows, a KVOBJ or PLOBJ record that no longer passes R32. -/
def attContext (o : OpRec) (s : State) (scx : Nat) : Except WorkFail (Option (Obj × List (Nat × Nat))) := do
  let w0 := s.rd (dirAt0 scx)
  let w1 := s.rd (dirAt1 scx)
  if !bit w0 63 || bits w0 62 51 != o.ctx then return none
  else
    match ← atWork 1 (objRec s o.ctx (bits w1 63 40) 1), ← atWork 1 (objRec s o.ctx (bits w1 39 16) 1) with
    | some kv, some pl =>
      if kv.cols ≠ 3 * (o.d.ext 1 * o.d.ext 2) then return none
      else
        let kv ← atWork 1 (translate s o.ctx 1 kv true false)
        let pl ← atWork 1 (translate s o.ctx 1 pl true false)
        let ps ← pageList s o 1 pl (bits w0 50 34)
        return if pageTokens ps = bits w0 33 13 ∧ pagesOk kv.rows ps = true then some (kv, ps) else none
    | _, _ => return none

/-- LTMISS counts an invalid entry, at the lowest-numbered ASQ in service (R248). -/
def State.ltMiss (s : State) : State :=
  match (List.range 4).find? (fun d => s.flag (Reg.asqStat d) 1) with
  | some d => s.bump (Reg.asqMiss d) 63 32 1
  | none => s

/-- Row `e` of the length table: an entry with query tokens, `none` where it is skipped, and whether the table alone makes it invalid. -/
def attRowEntry (o : OpRec) (s : State) (a b : Obj) (e : Nat) : Except WorkFail (Option AttEntry × Bool) := do
  let (w0, w1) ← rowWords s o 1 b e
  let qlen := bits w0 63 32
  let blen := recAt (o.rc 2) 3 42 22
  let row := if o.d.bucket then e * blen else bits w0 31 0
  let bad := bits w1 2 0 != 0 || decide (2 ^ 20 < qlen) ||
    (if o.d.bucket then decide (blen < qlen) || decide (a.rows < (e + 1) * blen) else row % 16 != 0 || decide (a.rows < row + qlen))
  if bad then return (none, true)
  else if qlen = 0 then return (none, false)
  else return (some { e := e, qlen := qlen, row := row, plen := bits w1 44 24, kfirst := bits w1 23 3, scx := if bit w1 63 then some (bits w1 62 45) else none,
                      read := !bit w1 63, valid := true, kv := none, pages := [] }, false)

/-- The length table from row `e` on: its entries with query tokens, and how many rows are invalid. -/
def attRows (o : OpRec) (s : State) (a b : Obj) (e : Nat) : Nat → Except WorkFail (List AttEntry × Nat)
  | 0 => .ok ([], 0)
  | n + 1 => do
    let (x, bad) ← attRowEntry o s a b e
    let (xs, k) ← attRows o s a b (e + 1) n
    return (x.toList ++ xs, b2n bad + k)

/-- Work units are numbered with room for the query tiles of the longest entry. -/
def attSpan : Nat := 8192

/-- The number of a query tile of a head of an entry, and back. -/
def OpRec.attUnit (o : OpRec) (e h t : Nat) : Nat := (e * o.d.ext 1 + h) * attSpan + t
def OpRec.attAt (o : OpRec) (u : Nat) : Nat × Nat × Nat := (u / attSpan / o.d.ext 1, u / attSpan % o.d.ext 1, u % attSpan)

/-- The query tiles of an entry. -/
def AttEntry.qtiles (x : AttEntry) : Nat := ceilDiv x.qlen 128

/-- The work units of an op, once its table is read: those of every entry with query tokens. -/
def OpRec.attUnits (o : OpRec) : List Nat :=
  ((o.att.getD []).map (fun x => ((List.range (o.d.ext 1)).map (fun h => (List.range x.qtiles).map (fun t => o.attUnit x.e h t))).flatten)).flatten

/-- A tile-wise dependency on the producer of B is a whole one (R246). -/
def attReady (o : OpRec) (s : State) (b : Obj) : Except WorkFail Unit :=
  if (s.reader o).waits.any (fun w => w.2.2 == b.id) then .error ⟨1, .wait, 0⟩ else .ok ()

/-- The length table is read once, when the first piece of its op starts (R246); each row that it makes invalid is counted then (R248). -/
def readTable (o : OpRec) (s : State) : Except WorkFail (OpRec × State) :=
  match o.att, o.obj 0, o.obj 1 with
  | none, some a, some b => do
    attReady o s b
    let (xs, k) ← attRows o s a b 0 (o.d.ext 0)
    let o := { o with att := some xs }
    return ({ o with units := o.attUnits.length }, (List.range k).foldl (fun s _ => s.ltMiss) s)
  | _, _, _ => .ok (o, s)

/-- The directory entry of a table entry and its page list are read (R259): an unusable one counts in SCXMISS (R261), and an entry with too many tokens is
invalid (R248). -/
def readContext (o : OpRec) (s : State) (x : AttEntry) : Except WorkFail (AttEntry × State) :=
  match x.read, x.scx with
  | false, some scx => do
    let c ← attContext o s scx
    let s := if c.isNone then s.scxMiss scx else s
    let ps := (c.map Prod.snd).getD []
    let bad := decide (2 ^ 20 < pageTokens ps + x.qlen)
    return ({ x with read := true, valid := !bad, kv := c.map Prod.fst, pages := ps }, if bad then s.ltMiss else s)
  | _, _ => .ok (x, s)

/-- Query rows of an entry, its slot's padding under BUCKET included (R249). -/
def AttEntry.ownRows (o : OpRec) (x : AttEntry) : Nat := if o.d.bucket then recAt (o.rc 2) 3 42 22 else x.qlen

/-- The entries that a piece needs: those of its work units, with a score store all before them, whose pairs number before its own (R271), and later ones
that share rows with them (R250). -/
def attNeeds (o : OpRec) (first n : Nat) (x : AttEntry) : Bool :=
  let es := (o.att.getD []).filter (fun y => (List.range y.qtiles).any (fun t => (List.range (o.d.ext 1)).any (fun h =>
    decide (first ≤ o.attUnit y.e h t) && decide (o.attUnit y.e h t < first + n))))
  es.any (fun y => x.e == y.e || (o.obj 10).isSome && decide (x.e < y.e) ||
    decide (y.e < x.e) && decide (x.row < y.row + y.ownRows o) && decide (y.row < x.row + x.ownRows o))

/-- Read the entries of a list that a piece needs, each once. The state, and whether all could be read. -/
def State.readEntries (s : State) (q sn unit first n : Nat) : List AttEntry → State × Bool
  | [] => (s, true)
  | x :: xs =>
    match s.opAny q sn with
    | none => (s, false)
    | some o =>
      if x.read || !attNeeds o first n x then s.readEntries q sn unit first n xs
      else match (match x.scx with
          | some scx => s.meetDir o scx
          | none => unmet s) with
        | (s, true) => (s, false)
        | (s, false) =>
          match readContext (s.view unit o) s x with
          | .error w => (s.workFails o unit w, false)
          | .ok (y, s) =>
            (s.mapOp q sn (fun o => { o with att := o.att.map (List.map (fun z => if z.e = x.e then y else z)) })).readEntries q sn unit first n xs

/-- What a starting piece of an ATTN op reads first: the table, and the directory entries that it needs. -/
def State.attBegin (s : State) (q sn unit first n : Nat) : State × Bool :=
  match s.opAny q sn with
  | none => (s, false)
  | some o =>
    match readTable (s.view unit o) s with
    | .error w => (s.workFails o unit w, false)
    | .ok (p, s) => (s.mapOp q sn (fun o => { o with att := p.att, units := p.units })).readEntries q sn unit first n (p.att.getD [])

/-- The key tiles of an entry, as read (R252). -/
def AttEntry.tiles (o : OpRec) (x : AttEntry) : List (List Key) := keyTiles (o.d.mask == 4) x.pages x.row x.qlen

/-- n_ctx. -/
def AttEntry.nctx (x : AttEntry) : Nat := pageTokens x.pages

/-- Query tokens of tile `t` of an entry. -/
def AttEntry.queries (x : AttEntry) (t : Nat) : List Nat := (List.range (min 128 (x.qlen - 128 * t))).map (fun i => 128 * t + i)

/-- Keys of a tile that query token `i` admits, with their places in the tile. -/
def AttEntry.seen (o : OpRec) (x : AttEntry) (i j : Nat) : List (Key × Nat) :=
  (((x.tiles o).getD j []).zipIdx).filter (fun k => admits o x (x.nctx + i) k.1.pos)

/-- Is the tile pair admitted? -/
def AttEntry.pair (o : OpRec) (x : AttEntry) (t j : Nat) : Bool := (x.queries t).any (fun i => !(x.seen o i j).isEmpty)

/-- Admitted key tiles of a query tile, admitted query tiles of a key tile. -/
def AttEntry.keyTilesOf (o : OpRec) (x : AttEntry) (t : Nat) : List Nat := (List.range (x.tiles o).length).filter (fun j => x.pair o t j)
def AttEntry.queryTilesOf (o : OpRec) (x : AttEntry) (j : Nat) : List Nat :=
  (List.range (ceilDiv x.qlen 128)).filter (fun t => x.pair o t j)

/-- The admitted tile pairs in the order of R271: (entry, head, query tile, key tile). -/
def attPairs (o : OpRec) : List (Nat × Nat × Nat × Nat) :=
  (((o.att.getD []).filter AttEntry.valid).map (fun x => ((List.range (o.d.ext 1)).map (fun h => ((List.range (ceilDiv x.qlen 128)).map (fun t =>
    (x.keyTilesOf o t).map (fun j => (x.e, h, t, j)))).flatten)).flatten)).flatten

/-- The number of a pair. -/
def pairNo (ps : List (Nat × Nat × Nat × Nat)) (e h t j : Nat) : Nat := ps.findIdx (· == (e, h, t, j))

/-! ### Arithmetic shared by both directions -/

/-- W values of row `row` of an object from column `c`. -/
def attRow (o : OpRec) (s : State) (slot : Nat) (x : Obj) (row c : Nat) : Except WorkFail (List Elt) :=
  (List.range (o.d.ext 2)).mapM (fun w => slotted slot (x.tileAddr 0 (row / 128) ((c + w) / 128)) (s.elt (s.reader o) x 0 row (c + w)))

/-- Query, key and value rows of a head (R245). -/
def qRow (o : OpRec) (s : State) (a : Obj) (x : AttEntry) (h i : Nat) : Except WorkFail (List Elt) :=
  attRow o s 0 a (x.row + i) (h * o.d.ext 2)
def kvRow (o : OpRec) (s : State) (a : Obj) (x : AttEntry) (h part : Nat) (k : Key) : Except WorkFail (List Elt) :=
  let c := part * (o.d.ext 1 * o.d.ext 2) + h * o.d.ext 2
  if k.kv then (match x.kv with
    | some kv => attRow o s 1 kv k.row c
    | none => .ok [])
  else attRow o s 0 a k.row c

/-- An A32 product of two rows over W (R185). -/
def attDot (xs ys : List Elt) : Elt := (dotElt .a32 128 none (xs.zip ys)).1

/-- A score: (q · k) × SCALE. -/
def attScore (o : OpRec) (qs ks : List Elt) : Elt := let v := attDot qs ks; ((v.1.mul (f32n (o.d.par 1))).r32, v.2)

/-- A sum of products of one MXE pass, as an A32 node. -/
def passNode (ps : List (Elt × Elt)) : Node := Node.ofNum .a32 (sliceSum ps none)

/-- Is a value −∞? -/
def negInf (v : Num) : Bool := v == .inf true

/-- Did anything non-finite enter? -/
def anyBad (xs : List Elt) : Bool := xs.any Prod.snd

/-! ### Forward (R265, R266, R254, R255) -/

/-- A query row before its first key tile. -/
def OpRec.softInit (o : OpRec) : AttRow := ⟨.inf true, .zero, List.replicate (o.d.ext 2) .zero, false, false, []⟩

/-- One key tile of the forward loop. -/
def softTile (o : OpRec) (s : State) (a : Obj) (x : AttEntry) (h i : Nat) (acc : AttRow) (j : Nat) : Except WorkFail AttRow := do
  let qs ← qRow o s a x h i
  let ks := (x.seen o i j).map Prod.fst
  let ss ← ks.mapM (fun k => do
    let kr ← kvRow o s a x h 1 k
    return (k, attScore o qs kr))
  let acc := { acc with nan := acc.nan || ss.any (fun k => k.2.1.isNan || k.2.1 == .inf false), bad := acc.bad || ss.any (fun k => k.2.2) }
  let live := ss.filter (fun k => !negInf k.2.1)
  if live.isEmpty then return acc
  else
    let mn := (live.map (fun k => k.2.1)).foldl (Num.pick true) acc.m
    let c := if negInf acc.m then Num.zero else (Num.add acc.m mn.neg).r32.exp.r32
    let ps := live.map (fun k => (Num.add k.2.1 mn.neg).r32.exp.r32.rBf16)
    let vs ← live.mapM (fun k => kvRow o s a x h 2 k.1)
    let l := (Num.add (acc.l.mul c).r32 (treeSum ps)).r32
    let out := (List.range (o.d.ext 2)).map (fun w =>
      let pv := (passNode ((ps.map (fun p => (p, false))).zip (vs.map (fun v => v.getD w (.zero, false))))).result
      (Num.add ((acc.o.getD w .zero).mul c).r32 pv).r32)
    return { acc with m := mn, l := l, o := out, bad := acc.bad || vs.any anyBad }

/-- NOKEY: the statistic of an empty row. -/
def noKey : Elt := (.inf true, false)

/-- The output row and statistic of a query token of a head, its key tiles done. -/
def fwdRow (o : OpRec) (s : State) (a : Obj) (x : AttEntry) (h : Nat) (acc : AttRow) : Except WorkFail (List Elt × Elt) := do
  let w := o.d.ext 2
  if acc.nan then return (List.replicate w (.nan, acc.bad), (.nan, acc.bad))
  else if negInf acc.m then return (List.replicate w (.zero, false), noKey)
  else if x.qlen = 1 ∧ x.nctx = 0 ∧ x.kfirst = 0 ∧ o.d.mask ≠ 4 then
    let vs ← kvRow o s a x h 2 ⟨false, x.row, 0⟩
    return (vs.map (fun v => (v.1, acc.bad)), (acc.m, acc.bad))
  else return (acc.o.map (fun v => ((v.div acc.l).r32, acc.bad)), ((Num.add acc.m acc.l.log.r32).r32, acc.bad))

/-! ### Storing rows (R249, R250) -/

/-- Rows `row` on of a result at columns `col` on, each of the list's elements. -/
structure OutBlock where
  row  : Nat
  col  : Nat
  vals : List (List Elt)
  deriving DecidableEq, Repr

/-- Width of a block. -/
def OutBlock.width (b : OutBlock) : Nat := (b.vals.headD []).length

/-- Does a block hold element (i, j)? -/
def OutBlock.has (b : OutBlock) (i j : Nat) : Bool :=
  decide (b.row ≤ i) && decide (i < b.row + b.vals.length) && decide (b.col ≤ j) && decide (j < b.col + b.width)

/-- The element. -/
def OutBlock.elt (b : OutBlock) (i j : Nat) : Elt := ((b.vals.getD (i - b.row) []).getD (j - b.col) (.zero, false))

/-- The block that holds an element, and its value. -/
def blocksHave (bs : List OutBlock) (i j : Nat) : Bool := bs.any (fun b => b.has i j)
def blocksElt (bs : List OutBlock) (i j : Nat) : Elt :=
  match bs.find? (fun b => b.has i j) with
  | some b => b.elt i j
  | none => (.zero, false)

/-- The tiles that blocks touch: (tile row, tile column). -/
def blockTiles (bs : List OutBlock) : List (Nat × Nat) :=
  ((bs.filter (fun b => !b.vals.isEmpty && decide (0 < b.width))).map (fun b =>
    let rs := (List.range ((b.row + b.vals.length - 1) / 128 + 1 - b.row / 128)).map (· + b.row / 128)
    let cs := (List.range ((b.col + b.width - 1) / 128 + 1 - b.col / 128)).map (· + b.col / 128)
    (rs.map (fun r => cs.map (fun c => (r, c)))).flatten)).flatten.eraseDups

/-- Does a valid entry above `e` own a row (R250)? -/
def OpRec.takenRow (o : OpRec) (e i : Nat) : Bool :=
  (o.att.getD []).any (fun x => x.valid && decide (e < x.e) && decide (x.row ≤ i) && decide (i < x.row + x.ownRows o))

/-- Has every work unit of a set been done, counting `u`? -/
def OpRec.attDone (o : OpRec) (u : Nat) (f : AttEntry → Nat → Nat → Bool) : Bool :=
  (o.att.getD []).all (fun x => !x.valid || (List.range (o.d.ext 1)).all (fun h => (List.range x.qtiles).all (fun t =>
    !f x h t || o.attUnit x.e h t == u || o.done.contains (o.attUnit x.e h t))))

/-- Rows that query tile `t` of an entry writes in D: the last has the padding after it. -/
def AttEntry.tileRows (o : OpRec) (x : AttEntry) (t : Nat) : Nat × Nat :=
  (x.row + 128 * t, if t + 1 = x.qtiles then x.row + x.ownRows o else x.row + 128 * (t + 1))

/-- Do two ranges meet? -/
def meets (a b : Nat × Nat) : Bool := decide (a.1 < b.2) && decide (b.1 < a.2)

/-- Does a head write columns of tile column `c`, in a part of D of width HW: part 0 of ATTN_FWD and dQ, 1 and 2 dK and dV? -/
def OpRec.headIn (o : OpRec) (part h c : Nat) : Bool :=
  let w := o.d.ext 2
  let k := part * (o.d.ext 1 * w) + h * w
  meets (k, k + w) (128 * c, 128 * c + 128)

/-- Is every element that the op writes of tile (r, c) of D written once work unit `u` is done? The tile's tag names the op from then on (R55). -/
def OpRec.attTileDone (o : OpRec) (u r c : Nat) : Bool :=
  o.attDone u (fun x h t =>
    o.headIn 0 h c && meets (x.tileRows o t) (128 * r, 128 * r + 128) ||
      o.d.op == 1 && ((o.obj 11).map Obj.id == (o.obj 3).map Obj.id ||
        (o.headIn 1 h c || o.headIn 2 h c) && meets (x.row, x.row + x.ownRows o) (128 * r, 128 * r + 128)))

/-- Is every statistic of tile (r, c) of C written? -/
def OpRec.attStatDone (o : OpRec) (u r c : Nat) : Bool :=
  o.attDone u (fun x h t => h / 128 == c && meets (x.tileRows o t) (128 * r, 128 * r + 128))

/-- Keep the old tag of a tile until it is whole. -/
def State.holdTag (s : State) (old : Option Tag) (x : Obj) (r c : Nat) (whole : Bool) : State := if whole then s else s.setTag (x.tileAddr 0 r c) old

/-- Store the covered elements of D, tile by tile. -/
def storeMain (unit u : Nat) (d : Obj) (last : Nat) (fresh : Bool) (cov : Nat → Nat → Bool) (v : Nat → Nat → Elt) :
    OpRec → State → List (Nat × Nat) → Except WorkFail (OpRec × State)
  | o, s, [] => .ok (o, s)
  | o, s, (r, c) :: ts => do
    let old := s.tags.get (fun _ => none) (d.tileAddr 0 r c)
    let (o, s) ← storeResult o s unit d last 0 r c (fun i j => cov (128 * r + i) (128 * c + j)) o.attRounding fresh
      (fun i j => v (128 * r + i) (128 * c + j))
    storeMain unit u d last fresh cov v o (s.holdTag old d r c (o.attTileDone u r c)) ts

/-- Store the covered elements of another result object; `watched` says which of them the watch sees. -/
def storeSide (o : OpRec) (unit : Nat) (x : Obj) (last : Nat) (rd : Rounding) (whole : Nat → Nat → Bool) (cov watched : Nat → Nat → Bool) (v : Nat → Nat → Elt) :
    State → List (Nat × Nat) → Except WorkFail State
  | s, [] => .ok s
  | s, (r, c) :: ts => do
    let old := s.tags.get (fun _ => none) (x.tileAddr 0 r c)
    let at2 := fun (f : Nat → Nat → Bool) i j => f (128 * r + i) (128 * c + j)
    let y := fun i j => v (128 * r + i) (128 * c + j)
    let t := encodeTile x.fmt (x.vrows r) (x.vcols c) (fun i j => x.rnd o.ctx rd.rnd rd.seed 0 r c i j) rd.sat (fun i j => (y i j).1)
    let s := s.watchTile o unit x 0 r c 0 (at2 watched) y t
    let s ← slotted 2 (x.tileAddr 0 r c) (s.storeTile o x false last 0 r c (at2 cov) t)
    storeSide o unit x last rd whole cov watched v ((s.holdTag old x r c (whole r c)).journalAdd o x) ts

/-- The number of the last tile of a list of an object's tiles. -/
def lastTile (x : Obj) (ts : List (Nat × Nat)) : Nat := (ts.map (fun t => x.tileNo 0 t.1 t.2)).foldl max 0

/-- Number of the last tile of D that the op writes, which carries LAST (R624). -/
def OpRec.attLast (o : OpRec) (d : Obj) : Nat :=
  let row := ((o.att.getD []).filter AttEntry.valid).foldl (fun m x => max m (x.row + x.ownRows o)) 0
  d.tileNo 0 ((row - 1) / 128) (d.tc - 1)

/-! ### The score store (R271) -/

/-- The scores of one tile pair, by place. -/
def pairScores (o : OpRec) (s : State) (a : Obj) (x : AttEntry) (h t j : Nat) : Except WorkFail (List (Nat × Nat × Elt)) := do
  let rows ← (x.queries t).mapM (fun i => do
    let qs ← qRow o s a x h i
    (x.seen o i j).mapM (fun k => do
      let kr ← kvRow o s a x h 1 k.1
      return (i - 128 * t, k.2, attScore o qs kr)))
  return rows.flatten

/-- Write the scores of a pair, or count it as not stored. -/
def storeScores (o : OpRec) (unit : Nat) (a : Obj) (x : AttEntry) (h t j : Nat) (s : State) : Except WorkFail State :=
  match o.obj 10 with
  | none => .ok s
  | some ss =>
    let ps := attPairs o
    let n := pairNo ps x.e h t j
    if ss.d0 < 128 * n + 128 then .ok (s.bump (Reg.asqSsmiss (unit - 32)) 31 0 1)
    else do
      let sc ← pairScores o s a x h t j
      let here := fun r c => sc.find? (fun y => y.1 == r % 128 && y.2.1 == c)
      storeSide o unit ss (min ps.length (ss.d0 / 128) - 1) ⟨0, false, 0⟩ (fun _ _ => true) (fun r _ => r / 128 == n) (fun r c => (here r c).isSome)
        (fun r c => ((here r c).map (fun y => y.2.2)).getD noKey) s [(n, 0)]

/-! ### ATTN_FWD -/

/-- Rows of zeros. -/
def zeroRows (n w : Nat) : List (List Elt) := List.replicate n (List.replicate w (.zero, false))

/-- The padding rows after query tile `t`: none but after the last. -/
def AttEntry.padRows (o : OpRec) (x : AttEntry) (t : Nat) : Nat := if t + 1 = x.qtiles then x.ownRows o - x.qlen else 0

/-- Store the output of query tile `t` of a head, and its statistics (R249, R250, R255, R268). -/
def fwdStore (unit u : Nat) (a : Obj) (x : AttEntry) (h t : Nat) (rows : List AttRow) (o : OpRec) (s : State) : Except WorkFail (OpRec × State) :=
  match o.obj 3 with
  | none => .ok (o, s)
  | some d => do
    let w := o.d.ext 2
    let outs ← rows.mapM (fun r => fwdRow o s a x h r)
    let pad := x.padRows o t
    let b : OutBlock := ⟨x.row + 128 * t, h * w, outs.map Prod.fst ++ zeroRows pad w⟩
    let cov := fun i j => b.has i j && !o.takenRow x.e i
    let ts := (blockTiles [b]).filter (fun y => (List.range 128).any (fun i => b.has (128 * y.1 + i) (max b.col (128 * y.2)) && !o.takenRow x.e (128 * y.1 + i)))
    let (o, s) ← storeMain unit u d (o.attLast d) (!o.done.contains u) cov b.elt o s ts
    let s ← match o.obj 2 with
      | none => pure s
      | some c => do
        let k : OutBlock := ⟨x.row + 128 * t, h, (outs.map Prod.snd ++ List.replicate pad noKey).map (fun v => [v])⟩
        let cs := (blockTiles [k]).filter (fun y => (List.range 128).any (fun i => k.has (128 * y.1 + i) h && !o.takenRow x.e (128 * y.1 + i)))
        storeSide o unit c (o.attLast c) ⟨0, false, 0⟩ (fun r c => o.attStatDone u r c) (fun i j => k.has i j && !o.takenRow x.e i)
          (fun i j => k.has i j && !o.takenRow x.e i && !negInf (k.elt i j).1) k.elt s cs
    return (o, s)

/-- One key tile of a query tile's forward loop; `none` is the loop's end. -/
def fwdStep (unit u : Nat) (a : Obj) (x : AttEntry) (h t : Nat) (w : AttOpen) (o : OpRec) (s : State) : Option Nat → Except WorkFail (AttOpen × OpRec × State)
  | some j => do
    let rows ← (w.rows.zipIdx).mapM (fun r => softTile o s a x h (128 * t + r.2) r.1 j)
    let s ← storeScores o unit a x h t j s
    return ({ w with next := w.next + 1, rows := rows }, o, s)
  | none => do
    let (o, s) ← fwdStore unit u a x h t w.rows o s
    return (w, o, s)

/-! ### Backward (R269 to R272) -/

/-- What a query token of a head gives a key of a tile (R269): p and ds, +0 where no admitted score stands, and the key's row of K. -/
structure Grad where
  p  : Elt
  ds : Elt
  k  : List Elt
  deriving DecidableEq, Repr

/-- What a query token gives the keys of a tile, with its rows of Q and dO; `none` for a row whose statistic is NOKEY, which adds nothing (R255). -/
structure BackRow where
  q  : List Elt
  dO : List Elt
  gs : Option (List Grad)
  deriving DecidableEq, Repr

/-- The score of a pair's element: recomputed, or the stored bits. -/
def backScore (o : OpRec) (s : State) (a : Obj) (x : AttEntry) (h i j : Nat) (qs : List Elt) (k : Key × Nat) : Except WorkFail Elt := do
  let fresh := do
    let kr ← kvRow o s a x h 1 k.1
    return attScore o qs kr
  match o.obj 10 with
  | none => fresh
  | some ss =>
    let n := pairNo (attPairs o) x.e h (i / 128) j
    if ss.d0 < 128 * n + 128 then fresh
    else slotted 3 (ss.tileAddr 0 n 0) (s.elt (s.reader o) ss 0 (128 * n + i % 128) k.2)

/-- Query token `i` of a head against key tile `j`. -/
def backRow (o : OpRec) (s : State) (a oo dd c : Obj) (x : AttEntry) (h i j : Nat) : Except WorkFail BackRow := do
  let w := o.d.ext 2
  let qs ← qRow o s a x h i
  let dO ← attRow o s 3 dd (x.row + i) (h * w)
  let os ← attRow o s 3 oo (x.row + i) (h * w)
  let l ← slotted 2 (c.tileAddr 0 ((x.row + i) / 128) (h / 128)) (s.elt (s.reader o) c 0 (x.row + i) h)
  let delta := treeSum ((dO.zip os).map (fun y => (y.1.1.mul y.2.1.r32).r32))
  if negInf l.1 then return ⟨qs, dO, none⟩
  else
    let gs ← (((x.tiles o).getD j []).zipIdx).mapM (fun k => do
      let kr ← kvRow o s a x h 1 k.1
      if !admits o x (x.nctx + i) k.1.pos then return (⟨(.zero, false), (.zero, false), kr⟩ : Grad)
      else
        let sc ← backScore o s a x h i j qs k
        if negInf sc.1 then return (⟨(.zero, false), (.zero, false), kr⟩ : Grad)
        else
          let v ← kvRow o s a x h 2 k.1
          let p := (Num.add sc.1 l.1.neg).r32.exp.r32.rBf16
          let dp := attDot dO v
          let ds := (((p.mul (Num.add dp.1 delta.neg).r32).r32.mul (f32n (o.d.par 1))).r32).rBf16
          return (⟨(p, sc.2 || l.2), (ds, sc.2 || l.2 || dp.2 || anyBad os), kr⟩ : Grad))
    return ⟨qs, dO, some gs⟩

/-- A leaf: the sums of products of a pass, column by column, with the marks of what entered. -/
def leafOf (w : Nat) (ps : List (Elt × List Elt)) : List (Node × Bool) :=
  (List.range w).map (fun k =>
    let es := ps.map (fun y => (y.1, y.2.getD k (.zero, false)))
    (passNode es, es.any (fun p => p.1.2 || p.2.2)))

/-- The roots of trees of leaves, column by column (R182); +0 without leaves. -/
def leafRoot (w : Nat) (ls : List (List (Node × Bool))) : List Elt :=
  (List.range w).map (fun k => if ls.isEmpty then (.zero, false) else
    ((treeNodes .a32 (ls.map (fun l => (l.getD k (⟨.zero, .zero⟩, false)).1))).result, ls.any (fun l => (l.getD k (⟨.zero, .zero⟩, false)).2)))

/-- What a query tile gives a key tile: leaves of dK and dV, key by key. -/
def backPart (o : OpRec) (x : AttEntry) (h t j : Nat) (bs : List BackRow) : AttPart :=
  let w := o.d.ext 2
  let rows := bs.filterMap (fun b => b.gs.map (fun gs => (b, gs)))
  let n := ((x.tiles o).getD j []).length
  let f := fun (g : Grad → Elt) (y : BackRow → List Elt) =>
    (List.range n).map (fun k => leafOf w (rows.map (fun b => (((b.2[k]?).map g).getD (.zero, false), y b.1))))
  ⟨x.e, h, t, j, f Grad.ds BackRow.q, f Grad.p BackRow.dO⟩

/-- dK (`dk`) or dV of the key at place `k` of key tile `j`: a tree over the admitted query tiles. -/
def OpRec.keyGrad (o : OpRec) (e h j k : Nat) (dk : Bool) : List Elt :=
  let ps := o.attParts.filter (fun p => p.e == e && p.h == h && p.j == j)
  let top := ps.foldl (fun m p => max m (p.t + 1)) 0
  leafRoot (o.d.ext 2) ((List.range top).filterMap (fun t => (ps.find? (fun p => p.t == t)).bind (fun p => (if dk then p.dk else p.dv)[k]?)))

/-- The keys of an entry with their places: key, key tile, place in it. -/
def AttEntry.keys (o : OpRec) (x : AttEntry) : List (Key × Nat × Nat) :=
  (((x.tiles o).zipIdx).map (fun t => (t.1.zipIdx).map (fun k => (k.1, t.2, k.2)))).flatten

/-- The gradients of an entry's own keys and values for a head (R270): blocks of D; +0 under CROSS, and in the padding. -/
def ownGrads (o : OpRec) (x : AttEntry) (h : Nat) : List OutBlock :=
  let w := o.d.ext 2
  let hw := o.d.ext 1 * w
  let ks := x.keys o
  let row := fun (dk : Bool) (i : Nat) => match ks.find? (fun k => !k.1.kv && k.1.row == x.row + i) with
    | some k => o.keyGrad x.e h k.2.1 k.2.2 dk
    | none => List.replicate w (.zero, false)
  let b := fun (dk : Bool) (col : Nat) => (⟨x.row, col, (List.range x.qlen).map (row dk) ++ zeroRows (x.ownRows o - x.qlen) w⟩ : OutBlock)
  [b true (hw + h * w), b false (2 * hw + h * w)]

/-- The gradients of the context keys and values of all heads of an entry, one block for each row of KVOBJ, from column HW on. -/
def ctxGrads (o : OpRec) (x : AttEntry) : List OutBlock :=
  let hs := List.range (o.d.ext 1)
  ((x.keys o).filter (fun k => k.1.kv)).map (fun k =>
    ⟨k.1.row, o.d.ext 1 * o.d.ext 2, [(hs.map (fun h => o.keyGrad x.e h k.2.1 k.2.2 true)).flatten ++ (hs.map (fun h => o.keyGrad x.e h k.2.1 k.2.2 false)).flatten]⟩)

/-- Sum of the context gradients of an element, in ascending entry order, each addition rounded once (R270). -/
def ctxSum (bs : List OutBlock) (i j : Nat) : Elt :=
  match (bs.filter (fun b => b.has i j)).map (fun b => b.elt i j) with
  | [] => (.zero, false)
  | v :: vs => vs.foldl (fun a b => ((Num.add a.1 b.1).r32, a.2 || b.2)) v

/-- The blocks of D that are still wanted after the rows of later entries are left out. -/
def OpRec.keepRows (o : OpRec) (e : Nat) (bs : List OutBlock) (i j : Nat) : Bool := blocksHave bs i j && !o.takenRow e i

/-- Tiles with an element that is kept. -/
def keptTiles (bs : List OutBlock) (keep : Nat → Nat → Bool) : List (Nat × Nat) :=
  (blockTiles bs).filter (fun y => (List.range 128).any (fun i => (List.range 128).any (fun j => keep (128 * y.1 + i) (128 * y.2 + j))))

/-- Are context gradients to go into D itself? -/
def OpRec.ctxIntoD (o : OpRec) : Bool := match o.obj 11, o.obj 3 with
  | some g, some d => g.id == d.id
  | _, _ => false

/-- The op's last work unit stores the context gradients (R270); in D they meet the own gradients, the sum rounded once. -/
def ctxStore (unit u : Nat) (o : OpRec) (s : State) : Except WorkFail (OpRec × State) :=
  match o.obj 3, o.obj 11 with
  | some d, some g => do
    let xs := (o.att.getD []).filter AttEntry.valid
    let ctx := (xs.map (ctxGrads o)).flatten
    if o.ctxIntoD then
      let own := (xs.map (fun x => ((List.range (o.d.ext 1)).map (fun h => (ownGrads o x h).map (fun b => (x.e, b)))).flatten)).flatten
      let mine := fun i j => (own.find? (fun b => b.2.has i j && !o.takenRow b.1 i)).map Prod.snd
      let keep := fun i j => (mine i j).isSome || blocksHave ctx i j
      let val := fun i j =>
        let c := ctxSum ctx i j
        match mine i j with
        | none => c
        | some b => if blocksHave ctx i j then let v := b.elt i j; ((Num.add v.1 c.1).r32, v.2 || c.2) else b.elt i j
      storeMain unit u d (o.attLast d) (!o.done.contains u) keep val o s (keptTiles (own.map Prod.snd ++ ctx) keep)
    else
      let ts := blockTiles ctx
      let s ← storeSide o unit g (lastTile g ts) o.attRounding (fun _ _ => true) (blocksHave ctx) (blocksHave ctx) (ctxSum ctx) s ts
      return (o, s)
  | _, _ => .ok (o, s)

/-- Store what query tile `t` of a head makes whole: its dQ, the own gradients of the head where it is the entry's last, and with the op's last the context
gradients. -/
def backStore (unit u : Nat) (x : AttEntry) (h t : Nat) (rows : List AttRow) (o : OpRec) (s : State) : Except WorkFail (OpRec × State) :=
  match o.obj 3 with
  | none => .ok (o, s)
  | some d => do
    let w := o.d.ext 2
    let dq : OutBlock := ⟨x.row + 128 * t, h * w, rows.map (fun r => leafRoot w r.dq) ++ zeroRows (x.padRows o t) w⟩
    let all := o.attDone u (fun y g _ => y.e == x.e && g == h)
    let bs := dq :: (if all && !o.ctxIntoD then ownGrads o x h else [])
    let keep := o.keepRows x.e bs
    let (o, s) ← storeMain unit u d (o.attLast d) (!o.done.contains u) keep (blocksElt bs) o s (keptTiles bs keep)
    if o.attDone u (fun _ _ _ => true) then ctxStore unit u o s else return (o, s)

/-- One key tile of a query tile's backward pass; `none` is its end. -/
def backStep (unit u : Nat) (a oo dd c : Obj) (x : AttEntry) (h t : Nat) (w : AttOpen) (o : OpRec) (s : State) :
    Option Nat → Except WorkFail (AttOpen × OpRec × State)
  | some j => do
    let bs ← (x.queries t).mapM (fun i => backRow o s a oo dd c x h i j)
    let part := backPart o x h t j bs
    let rows := (w.rows.zip bs).map (fun r => match r.2.gs with
      | none => r.1
      | some gs => { r.1 with dq := r.1.dq ++ [leafOf (o.d.ext 2) (gs.map (fun g => (g.ds, g.k)))] })
    let rest := o.attParts.filter (fun p => !(p.e == x.e && p.h == h && p.t == t && p.j == j))
    return ({ w with next := w.next + 1, rows := rows }, { o with attParts := rest ++ [part] }, s)
  | none => do
    let (o, s) ← backStore unit u x h t w.rows o s
    return (w, o, s)

/-! ### Running tile pairs (R267, R273) -/

/-- The next work unit of a piece: the first in its range that it has not performed. -/
def PieceRec.attNext (p : PieceRec) (o : OpRec) : Option Nat :=
  o.attUnits.find? (fun u => decide (p.part.first ≤ u) && decide (u < p.part.first + p.part.n) && !p.did.contains u)

/-- Has a piece that ends inside a query tile come to its end? -/
def PieceRec.cutDone (p : PieceRec) : Bool := p.part.hi != 0 && decide (p.part.hi ≤ p.part.lo + p.pos.get (fun _ => 0) 0)

/-- The running piece of an op's pairs on MXE `m`, with the pieces on its ASQ and VXE that run with it. -/
def State.attPiece (s : State) (q sn m : Nat) : Option PieceRec :=
  s.pieces.find? (fun p => p.q == q && p.s == sn && p.unit == m && p.part.kind == 0 && !p.cutDone && [0, 16, 32].all (fun k =>
    (s.trio p).any (fun x => x.part.kind == k && x.unit == attPlace m k && x.phase == PiecePhase.running && !x.failed && !s.noProgress x)))

/-- The next step of work unit `u`, on MXE `m`: its next admitted key tile or, after the last of them, the store of its results, which ends it. Whether it
has ended. An entry found invalid writes nothing (R248). -/
def attStep (op m u lo : Nat) (o : OpRec) (s : State) : Except WorkFail (Bool × OpRec × State) :=
  let (e, h, t) := o.attAt u
  match (o.att.getD []).find? (fun x => x.e == e), o.obj 0 with
  | some x, some a =>
    if !x.read then .error ⟨1, .wait, 0⟩
    else if !x.valid then .ok (true, o, s)
    else do
      let unit := 32 + m / 4
      let w := (o.attOpen.find? (fun w => w.u == u)).getD ⟨u, m, 0, (x.queries t).map (fun _ => o.softInit)⟩
      if w.mxe ≠ m ∨ w.next < lo then throw ⟨0, .wait, 0⟩
      let j := (x.keyTilesOf o t)[w.next]?
      let (w, o, s) ← if op = 0 then fwdStep unit u a x h t w o s j else match o.obj 2, o.obj 8, o.obj 9 with
        | some c, some oo, some dd => backStep unit u a oo dd c x h t w o s j
        | _, _, _ => pure (w, o, s)
      let rest := o.attOpen.filter (fun y => y.u != u)
      return (j.isNone, { o with attOpen := if j.isNone then rest else rest ++ [w] }, if j.isSome then s.bump (Reg.asqPairs (m / 4)) 63 0 1 else s)
  | _, _ => .ok (true, o, s)

/-- After the last work unit, an op that has written no row has had none (R251). -/
def OpRec.attClose (o : OpRec) : OpRec := if o.tiles.isEmpty && decide (o.attUnits.length ≤ o.done.length) then { o with units := 0 } else o

/-- Run up to `n` steps of an op's pairs on MXE `m`, on quad `quad`. Each meets the injections armed for the detectors in use (R178, R276). -/
def State.attRun (s : State) (op q sn m quad : Nat) : Nat → State
  | 0 => s
  | n + 1 =>
    match s.opAny q sn, s.attPiece q sn m with
    | some o, some p =>
      match p.attNext o with
      | none => s
      | some u =>
        if (o.d.cls, o.d.op) ≠ (3, op) ∨ s.unitIn m = false ∨ s.unitIn (32 + m / 4) = false then s
        else match s.meetQuad m quad true with
          | (s, true) => s
          | (s, false) =>
            match s.meetAsq (m / 4) with
            | (s, true) => s
            | (s, false) =>
              match attStep op m u p.part.lo { s.view m o with hist := [] } s with
              | .error w => s.workFails o m w
              | .ok (ended, o2, s) =>
                let mine := fun (y : PieceRec) => (s.trio p).any (fun x => x.idx == y.idx) && y.q == q && y.s == sn
                let o3 := { o2 with hist := o.hist }
                let s := s.putOp (if ended then (o3.didUnit u).attClose else o3)
                let s := { s with pieces := s.pieces.map (fun (y : PieceRec) =>
                  if mine y then { y with pos := y.pos.set (fun _ => 0) 0 (y.pos.get (fun _ => 0) 0 + 1), did := if ended then y.did ++ [u] else y.did } else y) }
                (s.pieceCount q sn m u o2.hist).attRun op q sn m quad n
    | _, _ => s

/-- ATTN_FWD (R265): `n` steps of its running piece on an MXE. -/
def execAttnFwd (q sn unit quad n : Nat) (s : State) : Outcome :=
  if unit < 16 ∧ quad < 4 then .next ((s.attRun 0 q sn unit quad n).settle) else .next s

/-- ATTN_BWD (R269). -/
def execAttnBwd (q sn unit quad n : Nat) (s : State) : Outcome :=
  if unit < 16 ∧ quad < 4 then .next ((s.attRun 1 q sn unit quad n).settle) else .next s

/-! ### Clearing and reading the directory (R262, R263) -/

/-- ASQ_DIRCLR (R263): a write with GO starts the clear of a context. -/
def execAsqDirclr (ag : Agent) (v : Word) (s : State) : Outcome :=
  if Who.barRig.admits ag && bit v 15 && !s.flag Reg.asqDirclr 14 then
    .next { (s.putBit Reg.asqDirclr 14 true) with dirClear := some (bits v 11 0) }
  else .next s

/-- The valid directory entries of a context. -/
def State.dirOf (s : State) (ctx : Nat) : List Nat :=
  (s.regs.filter (fun p => decide (0x0F0001400000 ≤ p.1) && decide (p.1 < 0x0F0001800000) && p.1 % 16 == 0 && bit p.2 63 &&
    bits p.2 62 51 == ctx)).map (fun p => (p.1 - 0x0F0001400000) / 16)

/-- Clear VALID of a list of entries. -/
def State.clearDirs (s : State) : List Nat → State
  | [] => s
  | x :: xs => (s.clearDir x).clearDirs xs

/-- ASQ_DIRCLR_DONE (R263): VALID of every entry of the context is clear, BUSY clears. -/
def execAsqDirclrDone (s : State) : Outcome :=
  match s.dirClear with
  | none => .next s
  | some c => .next ({ s.clearDirs (s.dirOf c) with dirClear := none }.putBit Reg.asqDirclr 14 false)

/-- DIRECTORY_ECC (R262, R274): a read of an entry by a running ATTN op finds it wrong. -/
def execDirectoryEcc (die index : Nat) (two : Bool) (q sn : Nat) (s : State) : Outcome :=
  match s.op? q sn with
  | none => .next s
  | some o =>
    if o.d.cls = 3 ∧ o.phase = .started ∧ die < 4 ∧ index < 65536 then
      let (inj, s) := s.takeInj (Reg.asqInj die) (if two then 2 else 1) 0
      .next (s.dirError die index two inj o)
    else .next s

end Sys2Proof.Machine
end

