-- ==== Sys2Proof/Machine/Cascade.lean ====
section
/-! DEFINITION. Gradient exchange and the cascade (chapter 11): group records, the cascade ops, their messages (R532 to R534) and notices, and alignment
(R358, R359). -/

namespace Sys2Proof.Machine

/-! ### Groups and take-in checks (R333 to R337) -/

/-- Is the member list sound for this module (R334)? -/
def membersOk (s : State) (ws : List Word) (ms : List Nat) : Bool :=
  let n := recAt ws 0 59 47
  let own := ms.take n
  decide (own.length = n) && own.all (fun a => decide (a < 4096)) && own.Nodup && own.getD (recAt ws 0 46 35) 4096 == s.selfAddr

/-- The bits of a group record that make it one (R334). -/
def groupWords (ws : List Word) : Bool :=
  let n := recAt ws 0 59 47
  bit (ws.getD 0 0) 63 && recAt ws 0 62 61 != 3 && (recAt ws 0 60 60 == 0 || recAt ws 0 62 61 == 1) && recAt ws 0 0 0 == 0 &&
    recAt ws 1 47 0 == 0 && recAt ws 2 63 0 == 0 && recAt ws 3 63 0 == 0 && decide (0 < n) && decide (n ≤ 4096) && decide (recAt ws 0 46 35 < n)

/-- The elements of a member list, an INT32 object of rank 1, read at take-in. -/
def readMembers (s : State) (ctx : Nat) (x : Obj) (n : Nat) : Chk (List Nat) :=
  match translate s ctx 3 x true false with
  | .error r => .error { r with detail := atTakeIn + 3 }
  | .ok y =>
    match (List.range n).mapM (fun i => s.readObj y (4 * i) 4) with
    | .ok bs => .ok (bs.map ofBytes)
    | .error .addr | .error .trans => .error ⟨stAddrFault, atTakeIn + 3, some (.addr, y.addr 0)⟩
    | .error (.lost l) => .error ⟨stHostLost, l, some (.lost l, y.addr 0)⟩
    | .error f => .error ⟨stDataErr, atTakeIn + 3, some (f, y.addr 0)⟩

/-- A group record and its member list: `none` where R334 makes it no group of this module. -/
def groupRec (s : State) (ctx g : Nat) : Chk (Option (List Word × List Nat)) :=
  match s.tableBase (Reg.grpBase ctx) 8192 with
  | none => .ok none
  | some b => do
    let ws ← readRec s 3 (b + 32 * g) 4
    if !groupWords ws then return none
    else
      let n := recAt ws 0 59 47
      match ← objRec s ctx (recAt ws 0 24 1) 3 with
      | none => return none
      | some x =>
        if x.fmt != fINT32 || x.rank != 1 || decide (x.d0 < n) then return none
        else
          let ms ← readMembers s ctx x n
          return if membersOk s ws ms then some (ws, ms) else none

/-- Field step of a cascade op (Table 11.3, R334, R336, R338), with the group record if it is one. -/
def castFields (q : Nat) (d : Desc) (g : Option (List Word × List Nat)) : List (Nat × Bool) :=
  let ws := (g.map Prod.fst).getD []
  let badGroup := g.isNone || d.collective && (recAt ws 0 62 61 == 2 || recAt ws 0 34 25 != q)
  [(408, badGroup), d.resv 384 12,
   if d.pairwise then (396, g.isSome && (decide (recAt ws 0 59 47 ≤ d.peer) || d.peer == recAt ws 0 46 35)) else d.resv 396 12] ++
  (if d.pairwise then [d.resv 464 16] else if d.cls = 0 then [d.resv 448 32] else [(464, d.brows == 0), d.resv 448 16]) ++
  (if d.cls = 0 then [d.resv 352 32, d.resv 320 32, d.resv 416 32] else [])

/-- Does an object hold the extents of a MOVE or REDUCE op? -/
def Desc.fits (d : Desc) (o : Obj) : Bool := decide (d.ext 0 ≤ o.rows) && decide (d.ext 1 ≤ o.cols) && decide (d.ext 2 ≤ o.planes)

/-- Object step of a cascade op (R335, R337). -/
def castObjs (d : Desc) (n : Named) : List (Nat × Bool) :=
  let moved := fun (o : Obj) => writable o.fmt && d.fits o && (fmtBlk o.fmt == 0 || !colAxis o.fmt && d.ext 1 % fmtBlk o.fmt == 0)
  let sums := fun (o : Obj) => o.fmt == fFP32 && d.fits o
  let a := if d.cls = 0 ∨ d.op = 0x42 ∧ d.cls = 6 then n.no 0 else n.need 0 (if d.cls = 7 then sums else moved)
  let o := if d.cls = 0 ∨ d.op = 0x41 ∧ d.cls = 6 then n.no 3
    else n.need 3 (fun x => if d.cls = 7 then sums x else moved x && (d.op == 0x42 || n.with 0 (fun a => a.fmt == x.fmt)))
  [a, n.no 1, n.no 2, o]

/-! ### Receiving a block (R533) -/

/-- A discarded block: RETRY goes into the next trailer. -/
def State.askRetry (s : State) (port : Nat) : State := s.setPseq (192 + port) 2

/-- Blocks that an acknowledgement covers leave the retry buffer. -/
def State.acked (s : State) (port ack : Nat) : State :=
  { s with retry := s.retry.filter (fun x => x.port != port || decide (2 ^ 19 ≤ (ack + 2 ^ 20 - x.blk.seq) % 2 ^ 20)) }

/-- Resend what the retry buffer of a port holds (R533). -/
def State.resend (s : State) (port : Nat) : State :=
  let xs := s.retry.filter (fun x => x.port == port)
  ({ s with outbox := s.outbox ++ xs } : State).bump (Reg.pretry port) 63 32 xs.length

/-- Receive a block on a port: is it this module's to act on, and the state after the port's part. A block of TYPE 0 to 4 for another module is forwarded
(R349); a duplicate is discarded. -/
def State.receive (s : State) (port typ : Nat) (b : Block) : Bool × State :=
  if !s.portUp port then (false, s)
  else
    let (inj, s) := s.takeInj (Reg.pinj port) 2 0
    let (cw, s) := s.takeInj (Reg.pinj port) 1 0
    if cw then (false, ({ s with cwErr := s.cwErr ++ [(port, s.ns)] } : State).bump (Reg.pcnt port) 31 16 1 |>.askRetry port)
    else if !b.crcOk || inj then
      let s := (s.bump (Reg.pcnt port) 15 0 1).askRetry port
      (false, s.countDet (0x35 * 65536 + port) { cls := 3, sev := 1, rtype := 0, det := 0x35, inj := inj, dom := 3, inst := 32 + port })
    else
      let s := s.acked port b.ack
      let s := if b.retry then s.resend port else s
      if s.pseq (192 + port) != 0 && s.pseq (96 + port) != b.seq then (false, s)
      else
        let s := (s.setPseq (96 + port) ((b.seq + 1) % 2 ^ 20)).setPseq (192 + port) 0
        if 4 < typ then (true, s)
        else if b.dst != s.selfAddr then
          match s.routePorts b.dst with
          | [] => (false, s)
          | ps => (false, (s.sendTurn typ b.dst ps [b]).bump Reg.relay 63 0 (256 * b.nflits))
        else
          let k := (typ * 4096 + b.src, msgName b.tag, b.offset)
          if s.accepted.contains k then (false, s) else (true, { s with accepted := s.accepted ++ [k] })

/-- RETRY (R533): every block after ACK is sent again. -/
def execRetry (port ack : Nat) (s : State) : Outcome :=
  if s.portUp port then .next ((s.acked port ack).resend port) else .next s

/-! ### Messages -/

/-- Bytes of a tile as a message. -/
def Obj.msgBytes (o : Obj) : Nat := if o.rank < 2 then 16 * fmtWidth o.fmt else fmtStride o.fmt

/-- A block's flits enter the tile store of the die that holds its port (R23). -/
def State.addFlits (s : State) (port typ : Nat) (b : Block) : State :=
  { s with inbox := s.inbox ++ [⟨port / 24, typ, b.src, b.tag, b.offset, b.extra, b.flits⟩] }

/-- Are these flits of the message of this type, source and name? -/
def InFlits.of (typ src name : Nat) (x : InFlits) : Bool := x.typ == typ && x.src == src && msgName x.tag == name

/-- Take a message of `n` bytes out of the tile stores when it is complete: its bytes and its tag, with a bad check where any of its blocks carried one. -/
def State.takeMsg (s : State) (typ src : Nat) (tag : BitVec 256) (n : Nat) : Option (BitVec 256 × List Byte) × State :=
  let parts := s.inbox.filter (InFlits.of typ src (msgName tag))
  if (parts.map (fun x => x.data.length)).sum < 256 * ceilDiv n 256 then (none, s)
  else
    let bs := ((List.range (ceilDiv n 256)).map (fun k =>
      match parts.find? (fun x => x.off == k) with
      | some x => x.data
      | none => [])).flatten
    let t := ((parts.find? (fun x => !(tagOf x.tag).crcOk)).map InFlits.tag).getD tag
    (some (t, bs.take n), { s with inbox := s.inbox.filter (fun x => !x.of typ src (msgName tag)) })

/-- A message is forgotten: its blocks sent again are no duplicates (R59, R197). -/
def State.forgetMsg (s : State) (typ src : Nat) (tag : BitVec 256) : State :=
  { s with accepted := s.accepted.filter (fun x => !(x.1 == typ * 4096 + src && x.2.1 == msgName tag)) }

/-- Is an element of a tile covered by the extents? -/
def Desc.coverIn (d : Desc) (r c i j : Nat) : Bool := decide (128 * r + i < d.ext 0) && decide (128 * c + j < d.ext 1)

/-- A tile's codes and side data from its bytes. -/
def tileFrom (d : Obj) (r c : Nat) (bs : List Byte) : TileOut :=
  let w := fmtWidth d.fmt
  let code := fun i j =>
    let b := d.bitIn i j
    ofBytes ((bs.drop (b / 8)).take ((b % 8 + w + 7) / 8)) / 2 ^ (b % 8) % 2 ^ w
  ⟨(List.range (d.vrows r)).map (fun i => (List.range (d.vcols c)).map (fun j => ⟨code i j, false, false⟩)),
   if fmtBlk d.fmt = 0 then [] else (List.range (16384 / fmtBlk d.fmt)).map (fun k =>
     (k, ofBytes ((bs.drop (sideAt d.fmt k)).take (fmtSide d.fmt)))), []⟩

/-- The record of a bad tile tag met outside class A memory (Table 19.7). -/
def State.tagRecord (s : State) (o : OpRec) (inj : Bool) (a : Nat) : State :=
  s.form { cls := 2, sev := 2, rtype := 0, det := 0x2A, inj := inj, addr := a, op := some (o.q, o.s, o.ctx) }

/-- Are FMT, SBSIZE and SBAXIS of a tag as it travels those of format `f` (R112)? -/
def tagFits (w : BitVec 256) (f : Nat) : Bool :=
  tagBits w 0 6 == f && tagBits w 74 2 == fmtSb f && tagBits w 73 1 == b2n (colAxis f)

/-- Where a receiving op counts the bad arrivals of tile `k` of D (R395). -/
def badKey (k : Nat) : Nat := 2 ^ 35 + k

/-- The acknowledgement of a message, once its data are visible where they were written: in a host window, when the writes are (R65). -/
def State.acknowledge (s : State) (o : OpRec) (typ src : Nat) (tag : BitVec 256) : State :=
  let mark := msgName tag + 1
  if s.hostOut.any (fun w => w.q == o.q && w.s == o.s && w.msg == mark) then { s with ackDue := s.ackDue ++ [(⟨o.q, o.s, mark, typ, src, tag⟩ : AckDue)] }
  else s.sendMsg 2 src (ackTag typ tag) [] []

/-- A tile arrives with a bad check: it is discarded. A class A tile is replayed, a third time or a class W tile ends the op DATA_ERR (R59, R357, R395). -/
def State.badTile (s : State) (o : OpRec) (d : Obj) (t : Tag) (src : Nat) (tag : BitVec 256) : State :=
  let k := badKey (d.tileNo t.tdep t.trow t.tcol)
  let n := o.aux.get (fun _ => 0) k
  let s := s.tagRecord o false (d.tileAddr t.tdep t.trow t.tcol)
  if t.pclass ≠ 1 ∨ 2 ≤ n then s.failOp o.q o.s stDataErr 3
  else (s.mapOp o.q o.s (fun o => { o with aux := o.aux.set (fun _ => 0) k (n + 1), replayA := true, replays := o.replays + 1 })).forgetMsg 0 src tag

/-- Write an arriving tile into D of an XRECV (R353), discard a bad one, or end the op for a poisoned one (R59, R357). -/
def State.arrive (s : State) (o : OpRec) (d : Obj) (src port : Nat) (tag : BitVec 256) (bs : List Byte) : State :=
  let t := tagOf tag
  let a := d.tileAddr t.tdep t.trow t.tcol
  if !t.crcOk || !tagFits tag d.fmt then s.badTile o d t src tag
  else if t.poison then (s.tagRecord o false a).failOp o.q o.s stDataErr 3
  else
    let r := t.trow
    let c := t.tcol
    let w := { o.wr d true with owner := some (o.q, o.s, msgName tag + 1) }
    match s.writePart w (o.writer 0) d t.tdep r c (o.d.coverIn r c) (tileFrom d r c bs) with
    | .error f => s.workFails o (56 + port) ⟨3, f, a⟩
    | .ok s =>
      let last := o.d.tilesCovered.getLast? == some (t.tdep, r, c)
      let g : Tag := { t with ctx := o.ctx, obj := d.id, pq := o.q, ps := o.s, mb := o.d.mb, last := last, crcOk := true }
      let s := s.setTag a (some g)
      let (o, s) := s.wroteTile o d t.tdep r c
      let o := { o with done := o.done ++ [o.d.tilesCovered.idxOf (t.tdep, r, c)] }
      (((s.putOp o).pieceDid o.q o.s (o.d.tilesCovered.idxOf (t.tdep, r, c))).acknowledge o 0 src tag).settle

/-- The XRECV for which a DATA message of this key comes: one that runs (R339). -/
def State.xrecvFor (s : State) (src key : Nat) : Option OpRec :=
  s.ops.find? (fun o => o.d.cls == 6 && o.d.op == 0x42 && o.phase == .started && o.failing.isNone && o.castKey == key && o.member o.d.peer == src)

/-- Does an XRECV still lack a tile? -/
def OpRec.lacks (o : OpRec) (t : Tag) : Bool :=
  match o.obj 3 with
  | some d => o.d.tilesCovered.contains (t.tdep, t.trow, t.tcol) && !o.tiles.contains (d.tileNo t.tdep t.trow t.tcol)
  | none => false

/-- DATA (R532): a block of a tile message; one without flits announces an XSEND of a zero extent (R340). -/
def execData (port : Nat) (b : Block) (s : State) : Outcome :=
  let (mine, s) := s.receive port 0 b
  if !mine then .next s
  else
    match (s.xrecvFor b.src (b.extra.headD 0)).map (s.view (56 + port)) with
    | none => .next s
    | some o =>
      if o.d.noData then .next ((s.mapOp o.q o.s (fun o => { o with done := [0] })).settle)
      else
        match o.obj 3 with
        | none => .next s
        | some d =>
          if !o.lacks (tagOf b.tag) then .next s
          else
            match (s.addFlits port 0 b).takeMsg 0 b.src b.tag d.msgBytes with
            | (none, s) => .next s
            | (some (tag, bs), s) => .next (s.arrive o d b.src port tag bs)

/-- Bytes of a node tile (Table 6.1). -/
def nodeTileBytes (a : Acc) : Nat :=
  match a with
  | .a16 => 32768
  | .a32 => 65536
  | .a32x => 131072

/-- Rank 0 of a mirrored group takes in a node tile that has arrived whole (R364): a bad TCRC makes it discarded, to be computed again (R197), a disagreement
ends the op LINK_LOST, and once all have come the tile is combined (R195). -/
def State.takeNode (s : State) (o : OpRec) (port src : Nat) (tag : BitVec 256) (head : List Nat) (bs : List Byte) : State :=
  let t := tagOf tag
  match o.matrixShape with
  | none => s
  | some (x, d) =>
    if !t.crcOk then
      let s := s.form { cls := 2, sev := 2, rtype := 0, det := 0x2A, dom := 3, inst := 32 + port, op := some (o.q, o.s, o.ctx) }
      (s.mapOp o.q o.s (fun o => { o with replayB := true, replays := o.replays + 1 })).forgetMsg 1 src tag
    else if head != o.nodeHead then (s.bump Reg.xcnt 31 16 1).failOp o.q o.s stLinkLost port
    else
      let lh := (mirrorCut x.slices o.size).getD (o.members.idxOf src) (0, 0)
      let n : NodeTile := { src := src, q := o.q, s := o.s, work := o.workOf d t.tdep t.trow t.tcol, tag := tag, lo := lh.1, hi := lh.2, piece := 0, home := 255,
                            quad := 255, unit := 255, head := head, bads := [], data := bs }
      ((({ s with nodes := s.nodes ++ [n] } : State).sendMsg 2 src (ackTag 1 tag) [] []).combine o x d n.work).settle

/-- Take in the node tile that some flits are of, where it is complete: only an op of rank 0 of a mirrored group takes one. -/
def State.nodeFor (s : State) (o : OpRec) (port : Nat) (f : InFlits) : State :=
  match s.takeMsg 1 f.src f.tag (nodeTileBytes (accOf o.d.acc)) with
  | (none, s) => s
  | (some (tag, bs), s) => if o.mirrored && o.rank == 0 then s.takeNode o port f.src tag f.extra bs else s

/-- Node tiles that came before the op they are for was taken in (R364). -/
def State.takeHeld (s : State) (o : OpRec) : State :=
  (s.inbox.filter (fun x => x.typ == 1 && (tagOf x.tag).pq == o.q && (tagOf x.tag).ps == o.s)).foldl (fun s f => s.nodeFor o (24 * f.die) f) s

/-- NODE (R196, R364): a block of a node tile for the accumulator store; one that comes before its op is taken in waits. -/
def execNode (port : Nat) (b : Block) (s : State) : Outcome :=
  let (mine, s) := s.receive port 1 b
  let t := tagOf b.tag
  if !mine then .next s
  else
    match s.op? t.pq t.ps with
    | none => .next (if before t.ps (s.fld (Reg.qhead t.pq) 31 0) then s else s.addFlits port 1 b)
    | some o => .next ((s.addFlits port 1 b).nodeFor o port ⟨port / 24, 1, b.src, b.tag, b.offset, b.extra, []⟩)

/-- E2EACK (R534): the message it names is visible at its destination; the op that sent it awaits it no longer. -/
def execE2eack (port : Nat) (b : Block) (s : State) : Outcome :=
  let (mine, s) := s.receive port 2 b
  if !mine then .next s
  else
    let t := tagOf b.tag
    let s := { s with sentOut := s.sentOut.eraseP (fun m => m.q == t.pq && m.s == t.ps && m.typ == tagBits b.tag 192 4 && m.dst == b.src &&
      m.name == msgName b.tag) }
    .next ((s.settle.freshen.noteDeps).syncQ t.pq)

/-- READY (R352): the notice stands until the matching XSEND takes it. -/
def execReady (port : Nat) (b : Block) (s : State) : Outcome :=
  let (mine, s) := s.receive port 3 b
  if mine then .next { s with notices := s.notices ++ [(b.src, b.tag, port)] } else .next s

/-- ABANDON (R355): the matching op ends LINK_LOST with the port of the notice, and its own notices carry it on. -/
def execAbandon (port : Nat) (b : Block) (s : State) : Outcome :=
  let (mine, s) := s.receive port 4 b
  if !mine then .next s
  else
    let k := tagBits b.tag 0 100
    let s := s.bump Reg.xcnt 15 0 1
    if s.abandoned.any (fun x => x.1 == k) then .next s
    else
      let s := { s with abandoned := s.abandoned ++ [(k, port)] }
      match s.ops.find? (fun o => o.d.cascade && o.rc 5 != [] && o.phase != .ended && o.castKey == k) with
      | none => .next s
      | some o => .next (s.failOp o.q o.s stLinkLost port)

/-! ### Point-to-point ops (R352 to R354) -/

/-- A cascade op at work: of this class and code, started, not failing. -/
def State.castAt (s : State) (cls op q sn : Nat) : Option OpRec :=
  match s.op? q sn with
  | none => none
  | some o => if o.d.cls = cls ∧ o.d.op = op ∧ o.phase = .started ∧ o.failing = none then some (s.view 255 o) else none

/-- A partner that cannot be reached ends the op (R355). -/
def State.unreached (s : State) (o : OpRec) : Option Nat := o.partners.find? (fun a => (s.routePorts a).isEmpty)

/-- A mismatch under R338 or R339 ends the op LINK_LOST. -/
def State.castMismatch (s : State) (o : OpRec) (peer : Nat) : State :=
  (s.bump Reg.xcnt 31 16 1).failOp o.q o.s stLinkLost (s.portToward peer)

/-- The message of a tile of A: its bytes, and its tag as it leaves. -/
def State.tileMsg (s : State) (o : OpRec) (a : Obj) (destq : Nat) (t : Nat × Nat × Nat) : Except WorkFail (BitVec 256 × List Byte) := do
  let (p, r, c) := t
  let ad := a.tileAddr p r c
  let _ ← slotted 0 ad (s.tagCheck (s.reader o) a p r c)
  let bs ← slotted 0 ad (s.readObj a (a.tileOff p r c) a.msgBytes)
  let base := match s.tags.get (fun _ => none) ad with
    | some g => if g.obj = a.id then g else s.tagFor (o.writer 0) a p r c false
    | none => s.tagFor (o.writer 0) a p r c false
  return (({ base with pq := o.q, ps := o.s, mb := o.d.mb, destq := destq, crcOk := true } : Tag).wire, bs)

/-- An armed TCRC injection inverts the check of a tile that leaves its die (Table 19.8). -/
def State.meetTcrc (s : State) (port : Nat) (t : BitVec 256) : BitVec 256 × State :=
  let (inj, s) := s.takeInj Reg.fltInj 4 (port / 24)
  (if inj then BitVec.ofNat 256 (t.toNat - tagBits t 192 16 * 2 ^ 192 + ((tagBits t 192 16).xor 0xFFFF) * 2 ^ 192) else t, s)

/-- A running piece of an XSEND sends its blocks, `lo` to `hi` − 1 of the message of tile `first`, on its port: the tile is sent with the last of them. -/
def State.sendTile (s : State) (o : OpRec) (a : Obj) (destq : Nat) (p : PieceRec) : State :=
  let k := p.part.first
  let peer := o.member o.d.peer
  match s.tileMsg o a destq (o.d.tilesCovered.getD k (0, 0, 0)) with
  | .error w => s.workFails o p.unit w
  | .ok (tag, bs) =>
    let blocks := blocksOf s.selfAddr peer tag [o.castKey] 0 bs (msgBlocks bs.length)
    let (tag2, s) := s.meetTcrc (p.unit - 56) tag
    let s := s.sendOn (p.unit - 56) 0 (((blocks.drop p.part.lo).take (p.part.hi - p.part.lo)).map (fun b => { b with tag := tag2 }))
    let s := { s with pieces := s.pieces.map (fun (y : PieceRec) => if y.q = o.q ∧ y.s = o.s ∧ y.idx = p.idx then { y with did := [k] } else y) }
    let whole := (List.range o.split.length).all (fun i => (o.split[i]?).all (fun x => x.first != k || s.pieces.any (fun y => y.q == o.q && y.s == o.s && y.idx == i && y.did != [])))
    if !whole then s
    else { (s.mapOp o.q o.s (fun o => { o with done := o.done ++ [k], tiles := o.tiles ++ [k] })) with
             sentOut := s.sentOut ++ [(⟨o.q, o.s, 0, peer, msgName tag⟩ : SentMsg)] }

/-- The running pieces of an XSEND send what they have not sent. -/
def State.sendTiles (s : State) (q sn : Nat) (a : Obj) (destq : Nat) : List PieceRec → State
  | [] => s
  | p :: ps =>
    (match s.castAt 6 0x41 q sn with
      | some o => s.sendTile o a destq p
      | none => s).sendTiles q sn a destq ps

/-- The queue of the matched XRECV, plus 1, of an XSEND whose ready notice has come (R352). -/
def OpRec.matched (o : OpRec) : Nat := o.aux.get (fun _ => 0) 206

/-- The ready notice of an XSEND's peer: the pair must agree (R339), and without data the XSEND has done its part with the announcement of it (R340). -/
def State.matchSend (s : State) (o : OpRec) (tag : BitVec 256) : State :=
  let peer := o.member o.d.peer
  let agree := tagBits tag 110 32 == o.d.ext 0 && tagBits tag 142 32 == o.d.ext 1 && tagBits tag 174 32 == o.d.ext 2 &&
    tagBits tag 206 6 == ((o.obj 0).map Obj.fmt).getD 0
  if !agree then s.castMismatch o peer
  else
    let s := s.mapOp o.q o.s (fun o => { o with aux := o.aux.set (fun _ => 0) 206 (tagBits tag 100 10 + 1), done := if o.d.noData then [0] else o.done })
    (if o.d.noData then s.sendMsg 0 peer (wide [(0, o.castKey)]) [o.castKey] [] else s).settle

/-- XSEND (R352): it takes the ready notice of its peer; then its running pieces send their blocks of the covered tiles of A. -/
def execXsend (q sn : Nat) (s : State) : Outcome :=
  match s.castAt 6 0x41 q sn with
  | none => .next s
  | some o =>
    match s.unreached o, o.obj 0 with
    | some a, _ => .next (s.failOp q sn stLinkLost (s.portToward a))
    | none, none => .next s
    | none, some a =>
      match o.matched with
      | 0 =>
        match s.notices.find? (fun n => n.1 == o.member o.d.peer && tagBits n.2.1 0 100 == o.castKey) with
        | none => .next s
        | some n => .next (({ s with notices := s.notices.filter (fun m => m != n) } : State).matchSend o n.2.1)
      | m + 1 => .next (s.sendTiles q sn a m (s.pieces.filter (fun p => p.q == q && p.s == sn && p.phase == .running && p.did == []))).settle

/-- XRECV (R352): its dependencies satisfied, it sends its ready notice, once. -/
def execXrecv (q sn : Nat) (s : State) : Outcome :=
  match s.castAt 6 0x42 q sn with
  | none => .next s
  | some o =>
    if !s.depsOk o || o.matched != 0 then .next s
    else match s.unreached o with
      | some a => .next (s.failOp q sn stLinkLost (s.portToward a))
      | none =>
        let s := s.mapOp q sn (fun o => { o with aux := o.aux.set (fun _ => 0) 206 1 })
        .next (s.sendMsg 3 (o.member o.d.peer) o.readyTag [] []).settle

/-! ### Collectives (R338 to R347) -/

/-- What must agree among the matching ops of a collective (R338). -/
def OpRec.agreement (o : OpRec) : List Nat :=
  [o.gid, o.num, o.d.cls, o.d.op, o.d.ext 0, o.d.ext 1, o.d.ext 2, o.d.brows, ((o.obj 0).map Obj.fmt).getD 0]

/-- The other ranks of the group. -/
def OpRec.others (o : OpRec) : List Nat := (List.range o.size).filter (fun r => r != o.rank)

/-- What rank `r` brought to the exchange. -/
def partOf (o : OpRec) (data : List Block) (r : Nat) : Option Block := data.find? (fun b => b.src == o.member r && b.crcOk)

/-- Have the pieces of a bucket's exchange all started: those of both sides, unless the op needs none (R344, R350)? -/
def State.bucketOpen (s : State) (o : OpRec) (b : Nat) : Bool :=
  let due := fun (x : Part) => x.kind == 56 && x.first == b
  o.d.cls == 0 || o.size == 1 || o.split.any due && (List.range o.split.length).all (fun i => (o.split[i]?).all (fun x => !due x ||
    s.pieces.any (fun p => p.q == o.q && p.s == o.s && p.idx == i && (p.phase == .running || p.phase == .ended))))

/-- Run bucket `b` of a collective, or a SYNC: once every other member's part is there and agrees, and the pieces of the exchange run, `f` writes the
results. Before, the command takes no place. -/
def State.collectiveOn (s : State) (cls op q sn b : Nat) (data : List Block) (f : OpRec → State → Except WorkFail (OpRec × State)) : State :=
  match s.castAt cls op q sn with
  | none => s
  | some o =>
    if o.done.contains b || decide (o.units ≤ b) then s
    else match s.unreached o with
      | some a => s.failOp q sn stLinkLost (s.portToward a)
      | none =>
        match o.others.find? (fun r => match partOf o data r with
            | some b => b.extra != o.agreement
            | none => false) with
        | some r => s.castMismatch o (o.member r)
        | none =>
          if o.others.any (fun r => (partOf o data r).isNone) then s
          else if o.d.noData then (s.mapOp q sn (fun o => { o with done := [0] })).settle
          else if !s.bucketOpen o b then s
          else
            match f o s with
            | .error w => s.workFails o 255 w
            | .ok (o, s) => ((s.putOp { o with done := o.done ++ [b] }).pieceDid q sn b).settle

/-- SYNC (R342): every member's matching SYNC has had its dependencies satisfied, and the fenced ones meet R66. -/
def execSync (q sn : Nat) (data : List Block) (s : State) : Outcome :=
  match s.op? q sn with
  | none => .next s
  | some o =>
    if s.depsOk o && (!o.d.fence || s.fenceOk o) then .next (s.collectiveOn 0 2 q sn 0 data (fun o s => .ok (o, s))) else .next s

/-- COLLECTIVE_ADMIT (R341): a collective that waited for one of 16 to end starts. -/
def execCollectiveAdmit (q sn : Nat) (s : State) : Outcome :=
  match s.op? q sn with
  | none => .next s
  | some o =>
    if o.d.collective && o.phase == .taken && s.startable o && s.depStarts o 0 && s.depStarts o 1 then .next (s.startOp o) else .next s

/-- The rows of the bucket that holds row `i`: the first, and how many (R343). -/
def Desc.bucketRows (d : Desc) (i : Nat) : Nat × Nat :=
  let rows := 128 * d.brows
  let i0 := i / rows * rows
  (i0, min (d.ext 0) (i0 + rows) - i0)

/-- The place of covered element (p, i, j) among those of its bucket (R343). -/
def Desc.inBucket (d : Desc) (p i j : Nat) : Nat :=
  let (i0, nb) := d.bucketRows i
  (p * nb + (i - i0)) * d.ext 1 + j

/-- Units of 32 elements of bucket `b`: Q_b (R345). -/
def Desc.bucketUnits (d : Desc) (b : Nat) : Nat := ceilDiv (d.ext 2 * (d.bucketRows (128 * d.brows * b)).2 * d.ext 1) 32

/-- The owner and the direction of the shard that holds covered element (p, i, j) (R345): rank, clockwise. -/
def shardOf (o : OpRec) (p i j : Nat) : Nat × Bool :=
  let y := o.d.inBucket p i j
  let units := o.d.bucketUnits (i / (128 * o.d.brows))
  let n := 2 * o.size
  let h := ((List.range n).find? (fun h => decide (h * units / n ≤ y / 32) && decide (y / 32 < (h + 1) * units / n))).getD 0
  if h < o.size then (h, true) else (h - o.size, false)

/-- The ranks in the order in which their contributions are added (R346). -/
def sumOrder (r owner : Nat) (cw : Bool) : List Nat :=
  (List.range r).map (fun k => if cw then (owner + 1 + k) % r else (owner + 2 * r - 1 - k) % r)

/-- Add FP32 contributions in order, one rounding for each addition. -/
def sumRanks : Option Num → List Num → Num
  | none, [] => .zero
  | some v, [] => v
  | none, x :: xs => sumRanks (some x) xs
  | some v, x :: xs => sumRanks (some (Num.add v x).r32) xs

/-- The code that rank `r` contributes for the element (p, i, j): its own from A, another's from its part of the bucket, 4 bytes an element in bucket order. -/
def castCode (o : OpRec) (s : State) (data : List Block) (a : Obj) (r p i j : Nat) : Except WorkFail Nat :=
  if r = o.rank then slotted 0 (a.tileAddr p (i / 128) (j / 128)) (s.code (s.reader o) a p i j)
  else .ok (ofBytes ((((partOf o data r).map Block.flits).getD []).drop (4 * o.d.inBucket p i j) |>.take 4))

/-- The side data of the block at (p, i, j) that rank `r` contributes; a part holds them, 4 bytes each, after its elements. -/
def castSide (o : OpRec) (s : State) (data : List Block) (a : Obj) (r p i j : Nat) : Except WorkFail Nat :=
  let b := fmtBlk a.fmt
  if r = o.rank then
    slotted 0 (a.tileAddr p (i / 128) (j / 128))
      (s.readBits a (8 * (a.tileOff p (i / 128) (j / 128) + sideAt a.fmt (blockNo a.fmt (i % 128) (j % 128)))) (8 * fmtSide a.fmt))
  else
    let n := o.d.ext 2 * (o.d.bucketRows i).2 * o.d.ext 1
    .ok (ofBytes ((((partOf o data r).map Block.flits).getD []).drop (4 * n + 4 * (o.d.inBucket p i j / b)) |>.take 4))

/-- The reduced value of an element, as its FP32 code and its value with the mark of R139. -/
def reduceElt (o : OpRec) (s : State) (data : List Block) (a : Obj) (p i j : Nat) : Except WorkFail (Nat × Elt) := do
  let (own, cw) := shardOf o p i j
  let cs ← (sumOrder o.size own cw).mapM (fun r => castCode o s data a r p i j)
  let v := sumRanks none (cs.map f32n)
  return (if o.size = 1 then cs.getD 0 0 else v.toF32.toNat, v, cs.any (fun c => !(f32n c).isFin))

/-- Write the covered tiles of D, each element's code given; `own` leaves out the elements that this member does not own. -/
def castTiles (o : OpRec) (s : State) (d : Obj) (watched own : Bool) (f : Nat → Nat → Nat → Except WorkFail (Nat × Elt))
    (side : Nat → Nat → Nat → Except WorkFail Nat) : List (Nat × Nat × Nat) → Except WorkFail (OpRec × State)
  | [] => .ok (o, s)
  | (p, r, c) :: ts => do
    let cov := fun i j => o.d.coverIn r c i j && (!own || (shardOf o p (128 * r + i) (128 * c + j)).1 == o.rank)
    let vs ← (List.range (d.vrows r)).mapM (fun i => (List.range (d.vcols c)).mapM (fun j =>
      if cov i j then f p (128 * r + i) (128 * c + j) else .ok (0, .zero, false)))
    let b := fmtBlk d.fmt
    let sides ← if b = 0 then pure [] else
      ((List.range (d.vrows r)).map (fun i => (List.range (d.vcols c / b)).map (fun k => (i, b * k)))).flatten.mapM (fun e => do
        let v ← if cov e.1 e.2 then side p (128 * r + e.1) (128 * c + e.2) else .ok 0
        return (blockNo d.fmt e.1 e.2, v))
    let t : TileOut := ⟨vs.map (fun l => l.map (fun v => ⟨v.1, false, false⟩)), sides, []⟩
    let last := match o.d.tilesCovered.getLast? with
      | some (p, r, c) => d.tileNo p r c
      | none => 0
    let s ← slotted 3 (d.tileAddr p r c) (s.writePart (o.wr d true) (o.writer last) d p r c cov t)
    let (o, s) := s.wroteTile o d p r c
    let s := if watched then s.watchTile o 255 d p r c 0 cov (fun i j => ((vs.getD i []).getD j (0, .zero, false)).2) t else s
    castTiles o s d watched own f side ts

/-- The covered tiles of bucket `b` (R343). -/
def OpRec.bucketTiles (o : OpRec) (b : Nat) : List (Nat × Nat × Nat) := o.d.tilesCovered.filter (fun t => t.2.1 / o.d.brows == b)

/-- XALLREDUCE and XREDUCESCATTER over the covered tiles of a bucket (R346, R347). -/
def reduceAll (own : Bool) (b : Nat) (data : List Block) (o : OpRec) (s : State) : Except WorkFail (OpRec × State) :=
  match o.obj 0, o.obj 3 with
  | some a, some d =>
    let tiles := (o.bucketTiles b).filter (fun t => !own || (List.range 128).any (fun i => (List.range 128).any (fun j =>
      o.d.coverIn t.2.1 t.2.2 i j && (shardOf o t.1 (128 * t.2.1 + i) (128 * t.2.2 + j)).1 == o.rank)))
    castTiles o s d true own (reduceElt o s data a) (fun _ _ _ => .ok 0) tiles
  | _, _ => .ok (o, s)

/-- XALLREDUCE (R346, R347). -/
def execXallreduce (q sn bucket : Nat) (data : List Block) (s : State) : Outcome :=
  .next (s.collectiveOn 7 0x40 q sn bucket data (reduceAll false bucket data))

/-- XREDUCESCATTER (R347). -/
def execXreducescatter (q sn bucket : Nat) (data : List Block) (s : State) : Outcome :=
  .next (s.collectiveOn 7 0x41 q sn bucket data (reduceAll true bucket data))

/-- XALLGATHER (R347): every shard from its owner's A. -/
def gatherAll (b : Nat) (data : List Block) (o : OpRec) (s : State) : Except WorkFail (OpRec × State) :=
  match o.obj 0, o.obj 3 with
  | some a, some d =>
    castTiles o s d false false
      (fun p i j => do
        let v ← castCode o s data a (shardOf o p i j).1 p i j
        return (v, .zero, false))
      (fun p i j => castSide o s data a (shardOf o p i j).1 p i j) (o.bucketTiles b)
  | _, _ => .ok (o, s)

/-- XALLGATHER (R347). -/
def execXallgather (q sn bucket : Nat) (data : List Block) (s : State) : Outcome :=
  .next (s.collectiveOn 6 0x40 q sn bucket data (gatherAll bucket data))

/-- Has a partner's matching op been announced: to an XSEND by its ready notice, to an XRECV by a tile's flits? A collective's members announce themselves
in its exchange. -/
def State.announcedTo (s : State) (o : OpRec) : Bool :=
  o.done != [] || !o.tiles.isEmpty || o.d.cls == 6 && o.d.op == 0x41 && o.matched != 0 ||
    o.d.cls == 6 && o.d.op == 0x41 && s.notices.any (fun n => n.1 == o.member o.d.peer && tagBits n.2.1 0 100 == o.castKey) ||
    o.d.cls == 6 && o.d.op == 0x42 && s.inbox.any (fun x => x.src == o.member o.d.peer && (tagOf x.tag).destq == o.q)

/-- LIMIT (R355): LIMIT beats after its dependencies are satisfied, and not before it started, an op with a partner (`rank`) whose op is not announced to it
ends LINK_LOST. -/
def execLimit (q sn rank : Nat) (s : State) : Outcome :=
  match s.op? q sn with
  | none => .next s
  | some o =>
    let base := max (o.depBeat.getD s.beat) (o.aux.get (fun _ => 0) 208)
    let partner := if o.d.pairwise then rank == o.d.peer else rank != o.rank && decide (rank < o.size)
    if o.d.cascade && o.phase == .started && o.failing.isNone && s.depsOk o && o.d.xlimit != 0 && decide (base + o.d.xlimit ≤ s.beat) &&
        partner && !s.announcedTo o then
      .next (s.failOp q sn stLinkLost (s.portToward (o.member rank)))
    else .next s

end Sys2Proof.Machine
end

