-- ==== Sys2Proof/Machine/Links.lean ====
section
/-! DEFINITION. Strand links, hawser ports, discovery and election (chapter 17), and alignment across the cascade (R358 to R361). -/

namespace Sys2Proof.Machine

/-! ### Alignment (R358 to R361, R541) -/

/-- The module's serial (R555), and whether it is a zenith candidate (R554). -/
def State.serial (s : State) : Nat := s.fld Reg.secSerial 63 0
def State.candidate (s : State) : Bool := s.flag Reg.disc 60

/-- µs since POWER_GOOD, as the bring-up registers note them: never 0 once noted. -/
def State.noteTime (s : State) (reg hi lo : Nat) : State :=
  if s.fld reg hi lo = 0 then s.put reg hi lo (min (max 1 s.sincePg) (satMax 32)) else s

/-- Set the alignment state; BEAT_STAT.ALIGNED follows (R359). -/
def State.setAlign (s : State) (st : Nat) : State := (s.put Reg.casc 34 33 st).putBit Reg.beatStat 0 (st != 0)

/-- Enter HOLDOVER: counted, journalled with the offset in 1/16 ns (Table 11.4, Table 11.6). -/
def State.holdover (s : State) (inj : Bool) (off : Int) : State :=
  let s := (s.setAlign 2).bump Reg.toff 63 32 1
  ({ s with inLock := 0 } : State).form { cls := 5, sev := 0, rtype := 3, det := 0x61, inj := inj, info := trunc 32 off }

/-- A step of the timebase by an offset in 1/16 ns (R359, R516): counted, and it holds the second outputs back for 1 s (R521). -/
def State.stepTime (s : State) (off : Int) : State :=
  let t : Int := (s.ns : Int) * 65536 + s.frac + off * 4096
  let t := if t < 0 then 0 else t.toNat
  let s : State := { s with ns := t / 65536, frac := t % 65536 }
  ({ s with ppsHold := s.ns + 1000000000 } : State).bump Reg.tmbStat 31 16 1

/-- The lowest UP port to the upstream, the module at the far end of the port that gave the best count (R358). -/
def State.upstream (s : State) : Option Nat :=
  match s.best with
  | none => none
  | some b =>
    if b.port < 96 then (List.range 96).find? (fun p => s.portUp p && s.rd (Reg.pfar p) == s.rd (Reg.pfar b.port)) else none

/-- The timebase in 1/16 ns, as ALIGN blocks carry it. -/
def State.stamp (s : State) : Nat := 16 * s.ns + s.frac / 4096

/-- ALIGN_EXCHANGE (R358, R541): every 1,000 beats a module that knows a closed zenith, and is not it, sends ALIGN with its send time to its upstream. -/
def execAlignExchange (s : State) : Outcome :=
  match s.upstream, s.best with
  | some p, some b =>
    if b.closed && !s.flag Reg.casc 32 && decide (1000 ≤ s.alignDue) then
      let blk : Block := ⟨wide [(0, s.stamp % 2 ^ 64)], 0, 0, 0, s.selfAddr, 0, 0, false, true, [], []⟩
      .next { (s.sendBlock p 5 blk) with alignOut := true, alignDue := 0 }
    else .next s
  | _, _ => .next s

/-- A neighbour's ALIGN request is answered at once (R358): t1 comes back with t2 and t3, the instants of its arrival and of the answer, and with whether this
module is ALIGNED (R541). -/
def State.answerAlign (s : State) (port : Nat) (t1 : Int) : State :=
  let tag := wide [(0, trunc 64 t1), (64, s.stamp % 2 ^ 64), (128, s.stamp % 2 ^ 64), (192, b2n (s.alignState == 1))]
  s.sendBlock port 5 ⟨tag, 0, 0, 0, s.selfAddr, 0, 0, false, true, [], []⟩

/-- ALIGN (R358, R359): a downstream neighbour's request, answered; or the answer of upstream, whose four timestamps, in 1/16 ns, give the offset, rounded
toward zero. -/
def execAlign (port : Nat) (answer : Bool) (t1 t2 t3 t4 : Int) (upAligned : Bool) (s : State) : Outcome :=
  if !answer then .next (if s.portUp port then s.answerAlign port t1 else s)
  else if !s.alignOut then .next s
  else
    let (inj, s) := s.takeInj Reg.fltInj 8 0
    let off := Int.tdiv ((t2 - t1) - (t4 - t3)) 2 + (if inj then 640 else 0)
    let s := { s with alignOut := false }
    if s.alignState = 0 then
      if !upAligned then .next s
      else
        let s := ((s.stepTime off).put Reg.toff 31 0 (trunc 32 off)).setAlign 1
        .next ({ s with alignSet := true, steer := off, inLock := 0 } : State)
    else
      let s : State := { (s.put Reg.toff 31 0 (trunc 32 off)) with steer := off }
      if s.alignState = 1 then
        (if 320 < off ∨ off < -320 then .next (s.holdover inj off) else .next s)
      else
        let k := if off ≤ 32 ∧ -32 ≤ off then s.inLock + 1 else 0
        if k = 3 then .next { (s.setAlign 1) with inLock := 0 } else .next { s with inLock := k }

/-! ### Discovery and election (R539 to R542) -/

/-- The UP ports. -/
def State.upPorts (s : State) : List Nat := (List.range 96).filter s.portUp

/-- Send a control block on a list of ports; discovery blocks carry their content in trailer bytes 0 to 31. -/
def State.flood (s : State) (typ : Nat) (tag : BitVec 256) : List Nat → State
  | [] => s
  | p :: ps => (s.sendBlock p typ ⟨tag, 0, 0, 0, s.selfAddr, 0, 0, false, true, [], []⟩).flood typ tag ps

/-- The content of an ADVERT, of a JOIN or ADDR, and of a ROUTE. -/
def advertTag (serial hops : Nat) (closed : Bool) : BitVec 256 := wide [(0, serial), (64, hops), (72, b2n closed)]
def joinTag (serial : Nat) : BitVec 256 := wide [(0, serial)]
def addrTag (serial addr : Nat) : BitVec 256 := wide [(0, serial), (64, addr)]
def routeTag (addr hops : Nat) : BitVec 256 := wide [(0, addr), (16, hops)]

/-- Send the best candidate's ADVERT, one hop more, on ports. -/
def State.advertise (s : State) (ps : List Nat) : State :=
  match s.best with
  | none => s
  | some b => s.flood 7 (advertTag b.serial (b.hops + 1) b.closed) ps

/-- Discovery state (Table 17.10): 0 IDLE, 1 WAVING, 2 JOINED, 3 CLOSED, 4 FAR, 5 NOZENITH. -/
def State.setDisc (s : State) (st : Nat) : State := s.put Reg.disc 63 61 st

/-- Every module prefers a CLOSED zenith to any candidate, then the lowest serial, then the fewest hops, then the lowest port (R539). -/
def Advert.better (a b : Advert) : Bool :=
  if a.closed != b.closed then a.closed
  else if a.serial != b.serial then decide (a.serial < b.serial)
  else if a.hops != b.hops then decide (a.hops < b.hops)
  else decide (a.port < b.port)

/-- The close of an election is known: counted once for each zenith (Table 17.10). -/
def State.closeKnown (s : State) (fresh : Bool) : State :=
  if fresh then { ((s.bump Reg.disc 31 0 1).noteTime Reg.bup2 63 32) with alignDue := 1000 } else s

/-- ADVERT (R539, R540): `hops` is this module's distance by that port. -/
def execAdvert (port : Nat) (serial : Word) (hops : Nat) (closed : Bool) (s : State) : Outcome :=
  if !s.portUp port ∨ serial.toNat = s.serial then .next s
  else if 16 < hops then .next (if s.best.isNone then s.setDisc 4 else s)
  else
    let a : Advert := ⟨serial.toNat, hops, port, closed⟩
    let take := match s.best with
      | none => true
      | some b => a.better b
    if !take then .next s
    else
      let change := match s.best with
        | none => true
        | some b => b.serial != a.serial
      let fresh := match s.best with
        | none => closed
        | some b => closed && (!b.closed || b.serial != a.serial)
      let s := (({ s with best := some a } : State).wr Reg.zser serial).put Reg.casc 39 35 hops
      let s := (s.setDisc (if closed then 3 else 2)).closeKnown fresh
      let s := if closed then s.put Reg.casc 63 52 (s.addrs.get (fun _ => 0) serial.toNat - 1) else s
      let s := if change then s.flood 8 (joinTag s.serial) [port] else s
      .next (s.advertise (s.upPorts.filter (· != port)))

/-- Give a joined module its address: an ADDR block toward it (R539). -/
def State.sendAddr (s : State) (serial addr : Nat) : State :=
  let s := { s with addrs := s.addrs.set (fun _ => 0) serial (addr + 1) }
  match s.joinPort.get (fun _ => 0) serial with
  | 0 => s
  | p + 1 => s.flood 9 (addrTag serial addr) [p]

/-- JOIN (R539): recorded at the candidate it reaches, forwarded by any other module. After the close a new module takes the next free address. -/
def execJoin (port : Nat) (serial : Word) (s : State) : Outcome :=
  if !s.portUp port then .next s
  else
    let n := serial.toNat
    let s := { s with joinPort := s.joinPort.set (fun _ => 0) n (port + 1) }
    match s.best with
    | none => .next s
    | some b =>
      if b.port < 96 then .next (s.flood 8 (joinTag n) [b.port])
      else
        let new := !s.joins.contains n
        let s := { s with joins := if new then s.joins ++ [n] else s.joins, joinAt := s.ns }
        let s := s.put Reg.disc 59 47 s.joins.length
        if !b.closed then .next s
        else match s.addrs.get (fun _ => 0) n with
          | 0 => .next (({ s with nextAddr := s.nextAddr + 1 } : State).sendAddr n s.nextAddr)
          | a + 1 => .next (s.sendAddr n a)

/-- Insert a serial in ascending order. -/
def insertSerial (n : Nat) : List Nat → List Nat
  | [] => [n]
  | m :: ms => if n < m then n :: m :: ms else m :: insertSerial n ms

/-- Assign addresses in order to the serials that have none. -/
def State.assign (s : State) : List Nat → State
  | [] => s
  | n :: ns =>
    let s := match s.addrs.get (fun _ => 0) n with
      | 0 => ({ s with nextAddr := s.nextAddr + 1 } : State).sendAddr n s.nextAddr
      | a + 1 => s.sendAddr n a
    s.assign ns

/-- The module takes its own address, and floods its ROUTE (R332, R539). -/
def State.takeAddr (s : State) (a : Nat) : State := (s.put Reg.casc 51 40 a).flood 10 (routeTag a 1) s.upPorts

/-- The module becomes the zenith (R539, R542, Table 11.4): it closes the election, keeps addresses already assigned, and aligns. -/
def State.becomeZenith (s : State) : State :=
  let known := s.addrs.get (fun _ => 0) s.serial
  let own := known - 1
  let s := { s with addrs := s.addrs.set (fun _ => 0) s.serial (own + 1), nextAddr := max 1 s.nextAddr,
                    best := some ⟨s.serial, 0, 128, true⟩ }
  let s := ((s.putBit Reg.casc 32 true).put Reg.casc 39 35 0).put Reg.casc 63 52 own
  let s := ((s.setDisc 3).wr Reg.zser (s.rd Reg.secSerial)).closeKnown true
  let s := if s.alignState = 0 then { (s.setAlign 1) with alignSet := true } else s.setAlign 1
  let s := s.takeAddr own
  let s := s.assign (s.joins.foldl (fun l n => insertSerial n l) [])
  s.advertise s.upPorts

/-- ELECTION_CLOSE (R539): a candidate that knows of no lower serial, 40 ms after the later of its first port UP and the last JOIN. -/
def execElectionClose (s : State) : Outcome :=
  match s.best, s.upAt with
  | some b, some t =>
    if s.candidate && decide (96 ≤ b.port) && !b.closed && decide (max t s.joinAt + 40000000 ≤ s.ns) then .next s.becomeZenith else .next s
  | _, _ => .next s

/-- ADDR (R539): the address of this module, or of one further down the tree. -/
def execAddr (port : Nat) (serial : Word) (addr : Nat) (s : State) : Outcome :=
  if !s.portUp port then .next s
  else if serial.toNat = s.serial then
    let s := { s with addrs := s.addrs.set (fun _ => 0) s.serial (addr + 1) }
    .next ((s.setDisc 3).takeAddr addr)
  else .next (s.sendAddr serial.toNat addr)

/-- ROUTE (R539): `hops` is the distance by that port. Every route is kept, the fewest hops among UP ports are used; a better one is passed on. -/
def execRoute (port addr hops : Nat) (s : State) : Outcome :=
  if !s.portUp port then .next s
  else
    let s := if hops = 1 then s.put (Reg.pstat port) 63 52 addr else s
    let rs := s.routesTo addr
    let least := rs.foldl (fun m r => min m r.2) 4096
    let mine := match rs.find? (fun r => r.1 == port) with
      | some r => min r.2 hops
      | none => hops
    let s := { s with routes := s.routes.set (fun _ => []) addr (rs.filter (fun r => r.1 != port) ++ [(port, mine)]) }
    if hops < least then .next (s.flood 10 (routeTag addr (hops + 1)) (s.upPorts.filter (· != port))) else .next s

/-- NOZENITH (R540): no ADVERT heard 100 ms after the first port came UP. -/
def execNozenith (s : State) : Outcome :=
  match s.upAt with
  | some t => if s.best.isNone && s.fld Reg.disc 63 61 < 2 && decide (t + 100000000 ≤ s.ns) then .next (s.setDisc 5) else .next s
  | none => .next s

/-- ZENITH_LOST (R542): HOLDOVER, and discovery again; `elected` where this candidate is the new zenith, which closes at once. -/
def execZenithLost (elected : Bool) (s : State) : Outcome :=
  match s.best with
  | none => .next s
  | some b =>
    if !b.closed ∨ 96 ≤ b.port then .next s
    else
      let s := if s.alignState = 1 then s.holdover false 0 else s
      let s := { s with alignOut := false, best := if s.candidate then some ⟨s.serial, 0, 128, false⟩ else none }
      let s := s.setDisc 1
      if elected && s.candidate then .next s.becomeZenith else .next (s.advertise s.upPorts)

/-! ### Ports (R536) -/

/-- Port states of Table 17.6. -/
def State.portState (s : State) (p : Nat) : Nat := s.fld (Reg.pstat p) 39 36
def State.setPort (s : State) (p st : Nat) : State := s.put (Reg.pstat p) 39 36 st

/-- Has the module declared self-ready (Table 18.3, READY)? -/
def State.ready? (s : State) : Bool := s.fld Reg.rscStat 2 0 == 5

/-- PORT_TRAINING (R536): a DOWN port trains from self-ready, or 100 ms after its last failed training. -/
def execPortTraining (port : Nat) (s : State) : Outcome :=
  let t := s.downAt.get (fun _ => 0) port
  if s.ready? && s.portState port == 0 && (t == 0 || decide (t - 1 + 100000000 ≤ s.ns)) then .next (s.setPort port 1) else .next s

/-- A training that failed. -/
def State.portDown (s : State) (port : Nat) : State :=
  { (s.setPort port 0) with downAt := s.downAt.set (fun _ => 0) port (s.ns + 1) }

/-- IDENT (R536): the port is UP, or FAILED on a loop. Discovery starts on it. -/
def execIdent (port : Nat) (farSerial : Word) (farPort : Nat) (s : State) : Outcome :=
  if s.portState port ≠ 1 then .next s
  else if farSerial.toNat = s.serial then
    let s := (s.setPort port 4).putBit (Reg.pstat port) 44 true
    .next ((s.detect { cls := 3, sev := 2, rtype := 0, det := 0x36, dom := 3, inst := 32 + port }).resolve 3 (32 + port) 5 0)
  else
    let s := (((s.setPort port 2).put (Reg.pstat port) 51 45 farPort).wr (Reg.pfar port) farSerial).noteTime Reg.bup1 31 0
    let s := ((s.setPseq port 0).setPseq (96 + port) 0).setPseq (192 + port) 0
    let s := { s with downAt := s.downAt.set (fun _ => 0) port 0, retry := s.retry.filter (fun x => x.port != port),
                      upAt := if s.upAt.isNone then some s.ns else s.upAt }
    let s : State := if s.best.isNone && s.candidate then
        { (s.wr Reg.zser (s.rd Reg.secSerial)) with best := some ⟨s.serial, 0, 128, false⟩ } else s
    let s := s.cond (s.fld Reg.disc 63 61 == 0) (fun s => s.setDisc 1)
    let s := (s.resolve 3 (32 + port) 7 0).advertise [port]
    .next (if s.addrs.get (fun _ => 0) s.serial = 0 then s else s.flood 10 (routeTag s.selfAddr 1) [port])

/-- NO_LOCK (R536): training without lock ends DOWN, journalled. A training that fails while the port's own recovery runs is part of that recovery. -/
def execNoLock (port : Nat) (s : State) : Outcome :=
  if s.portState port ≠ 1 then .next s
  else if s.recovering 3 (32 + port) then
    .next ((s.portDown port).form { cls := 3, sev := 0, rtype := 3, det := 0x34, dom := 3, inst := 32 + port })
  else .next ((s.portDown port).detect { cls := 3, sev := 2, rtype := 0, det := 0x34, dom := 3, inst := 32 + port })

/-- A port retrains: its unstarted pieces move to other ports of its side. -/
def State.retrain (s : State) (port : Nat) (inj : Bool) : State :=
  let s := { ((s.setPort port 3).bump (Reg.pretry port) 31 16 1) with cwErr := s.cwErr.filter (fun c => c.1 != port) }
  let s := s.rehomeAll (56 + port) [] s.ops
  s.form { cls := 3, sev := 0, rtype := 3, det := 0x34, inj := inj, dom := 3, inst := 32 + port }

/-- UNCORRECTABLE_CODEWORDS (R536): 16 within 1 ms, those of received blocks among them. -/
def execUncorrectableCodewords (port : Nat) (s : State) : Outcome :=
  if s.portState port ≠ 2 then .next s
  else
    let (inj, s) := s.takeInj (Reg.pinj port) 3 0
    let seen := (s.cwErr.filter (fun c => c.1 == port && decide (s.ns < c.2 + 1000000))).length
    let s := if inj then s else s.bump (Reg.pcnt port) 31 16 (16 - seen)
    .next (s.retrain port inj)

/-- LOCK_REGAINED (R536): the retry buffer is sent again on this port. -/
def execLockRegained (port : Nat) (s : State) : Outcome :=
  if s.portState port ≠ 3 then .next s else .next ((s.setPort port 2).resend port)

/-- Send the blocks of a dead port's retry buffer by other routes (R536). -/
def State.reroute (s : State) : List Sent → State
  | [] => s
  | x :: xs =>
    let s := if 4 < x.typ then s else match s.routePorts x.blk.dst with
      | [] => s
      | ps => s.sendTurn x.typ x.blk.dst ps [x.blk]
    s.reroute xs

/-- RETRAIN_FAIL (R536): the port is DOWN; its retry buffer goes by other ports to the same partner, or under R349. -/
def execRetrainFail (port : Nat) (s : State) : Outcome :=
  if s.portState port ≠ 3 then .next s
  else
    let xs := s.retry.filter (fun x => x.port == port)
    let s := { ((s.portDown port).bump (Reg.pretry port) 15 0 1) with retry := s.retry.filter (fun x => x.port != port) }
    let s := (s.reroute xs).bump (Reg.pretry port) 63 32 xs.length
    .next (s.detect { cls := 3, sev := 2, rtype := 0, det := 0x34, dom := 3, inst := 32 + port })

/-! ### Strand bundles (R523 to R529) -/

/-- Trained lanes of a bundle direction that may carry data. -/
def State.goodLanes (s : State) (b dir : Nat) : List Nat :=
  (List.range 36).filter (fun l => s.margins.get (fun _ => 0) (128 * b + 64 * dir + l) != 0 &&
    !s.laneBad.get (fun _ => false) (128 * b + 64 * dir + l))

/-- The `k` lanes of largest margin, the lower lane first on a tie (R527). -/
def State.bestLanes (s : State) (b dir : Nat) : Nat → List Nat → List Nat
  | 0, _ => []
  | k + 1, ls =>
    let m := fun l => s.margins.get (fun _ => 0) (128 * b + 64 * dir + l)
    match ls.foldl (fun a l => match a with
        | none => some l
        | some x => if m x < m l then some l else some x) none with
    | none => []
    | some l => l :: s.bestLanes b dir k (ls.filter (· != l))

/-- State of a direction by its number of trained lanes (R528): 2 FULL, 1 HALF, 0 OUT. -/
def laneState (n : Nat) : Nat := if 32 ≤ n then 2 else if 16 ≤ n then 1 else 0

/-- Select the data lanes of a direction. -/
def State.setLanes (s : State) (b dir : Nat) : State :=
  let ls := s.goodLanes b dir
  let n := ls.length
  let use := s.bestLanes b dir (if laneState n = 2 then 32 else if laneState n = 1 then 16 else 0) ls
  s.wr (Reg.stlLane b dir) (word [(40, if laneState n = 2 then n - 32 else 0), (0, use.foldl (fun a l => a + 2 ^ l) 0)])

/-- Select both directions; the bundle runs at the lower state of the two, at whose capacity it is planned from then on (R528, R79). -/
def State.setBundle (s : State) (b : Nat) : State :=
  let st := min (laneState (s.goodLanes b 0).length) (laneState (s.goodLanes b 1).length)
  let old := s.capacity (152 + b)
  let s := ((s.setLanes b 0).setLanes b 1).put (Reg.stlBstat b) 63 62 st
  if s.capacity (152 + b) = old then s else (s.retotal (152 + b) 0).retotal (152 + b) 1

/-- Has the pair that a bundle joins no bundle left in service? -/
def State.pairOut (s : State) (b : Nat) : Bool :=
  (List.range 32).all (fun c => bundleEnds c != bundleEnds b || s.fld (Reg.stlBstat c) 63 62 == 0)

/-- Is the lane in service? -/
def State.laneIn (s : State) (b dir lane : Nat) : Bool := s.flag (Reg.stlLane b dir) lane

/-- A flit on a bundle fails its CRC: it is replayed, and its lane parity names the lane at fault (R525). -/
def State.flitReplay (s : State) (bundle : Nat) (inj : Bool) : State :=
  ((s.bump (Reg.stlBcnt bundle) 63 32 1).bump (Reg.stlBcnt bundle) 31 16 1).countDet (0x31 * 65536 + bundle)
    { cls := 3, sev := 1, rtype := 0, det := 0x31, inj := inj, dom := 3, inst := bundle }

/-- STRAND_FLIT_CRC (R525). -/
def execStrandFlitCrc (bundle dir lane : Nat) (s : State) : Outcome :=
  let (inj1, s) := s.takeInj Reg.stlInj 1 (128 * bundle + 64 * dir + lane)
  let (inj2, s) := s.takeInj Reg.stlInj 2 (128 * bundle + 64 * dir + lane)
  .next (s.flitReplay bundle (inj1 || inj2))

/-- A transfer on a bundle meets the injections armed in STL_INJ for its lanes (R546). -/
def State.meetStrand (s : State) (bundle : Nat) : State :=
  match s.armed.find? (fun a => a.reg == Reg.stlInj && a.target / 128 == bundle) with
  | some a => (s.disarm a.reg a.kind a.target).flitReplay bundle true
  | none => s

/-- A lane with a lasting fault is set aside: a standby takes its place, or the direction falls to HALF or OUT (R529). -/
def State.loseLane (s : State) (b dir lane : Nat) : State :=
  let s := { s with laneBad := s.laneBad.set (fun _ => false) (128 * b + 64 * dir + lane) true }
  s.setBundle b

/-- A bundle has fallen to OUT: its pieces go to the others of its pair, and with none left a die is isolated (R529). -/
def State.bundleGone (s : State) (inj : Bool) (b was : Nat) : State :=
  if s.fld (Reg.stlBstat b) 63 62 = 0 ∧ was ≠ 0 then
    let s := s.rehomeAll (152 + b) [] s.ops
    if s.pairOut b then
      s.detect { cls := 3, sev := 3, rtype := 0, det := 0x38, inj := inj, dom := 4, inst := (bundleEnds b).1 }
    else s
  else s

/-- Has a direction a standby lane? -/
def State.standby (s : State) (b dir : Nat) : Bool := decide (0 < s.fld (Reg.stlLane b dir) 42 40)

/-- The end of a lane's fault (R529, Table 19.4), after its self-test: the DETECT record's severity is that of the outcome. -/
def State.laneOutcome (s : State) (inj : Bool) (b dir lane : Nat) (out : SelfTest) : State :=
  let f : FaultIn := { cls := 3, sev := 1, rtype := 0, det := 0x30, inj := inj, dom := 3, inst := b, info := 64 * dir + lane, unit := 152 + b }
  let seq := s.fld Reg.fltSeq 31 0
  let w : Window := ⟨3, b, seq, 0x30, 3, 152 + b, true, 0, 0, 64 * dir + lane, false⟩
  match out with
  | .transient => (s.detect f).resolveRec w 1 0
  | _ =>
    let was := s.fld (Reg.stlBstat b) 63 62
    let entry := repairEntry 2 b (64 * dir + lane)
    if s.standby b dir then ((s.loseLane b dir lane).bump (Reg.stlBcnt b) 15 8 1).detect f |>.resolveRec w 2 entry
    else
      let s := s.loseLane b dir lane
      let now := s.fld (Reg.stlBstat b) 63 62
      let s := s.detect { f with sev := 2 }
      (s.resolve 3 b (if now = 0 then 5 else 3) entry).bundleGone inj b was

/-- A lane in service raises its alarm (R529): `out` is what its targeted self-test finds. -/
def State.laneAlarm (s : State) (bundle dir lane : Nat) (out : SelfTest) (inj : Bool) : State :=
  let (fin, s) := s.selfTest 3 bundle (some (64 * dir + lane)) out
  s.laneOutcome inj bundle dir lane fin

/-- LANE_PARITY_ALARM (R529): 8 parity errors in 1 ms or loss of lock on a lane in service; `out` is what its targeted self-test finds. -/
def execLaneParityAlarm (bundle dir lane : Nat) (out : SelfTest) (s : State) : Outcome :=
  if !s.laneIn bundle dir lane then .next s
  else
    let (inj, s) := s.takeInj Reg.fltInj 6 (dir * 2048 + lane * 32 + bundle)
    .next (s.laneAlarm bundle dir lane out inj)

/-! ### Injections (R546) -/

/-- STL_INJ KIND 1 (R546). -/
def execStlInjLaneParity (ag : Agent) (bundle dir lane : Nat) (s : State) : Outcome :=
  if isRig ag then .next (s.arm Reg.stlInj 1 (128 * bundle + 64 * dir + lane)) else .next s

/-- STL_INJ KIND 2 (R546). -/
def execStlInjFlitCrc (ag : Agent) (bundle dir lane : Nat) (s : State) : Outcome :=
  if isRig ag then .next (s.arm Reg.stlInj 2 (128 * bundle + 64 * dir + lane)) else .next s

/-- HWP_PINJ KIND 1 (R546). -/
def execHwpPinjUncorrectableCodeword (ag : Agent) (n : Nat) (s : State) : Outcome :=
  if isRig ag then .next (s.arm (Reg.pinj n) 1 0) else .next s

/-- HWP_PINJ KIND 2 (R546). -/
def execHwpPinjCrcError (ag : Agent) (n : Nat) (s : State) : Outcome :=
  if isRig ag then .next (s.arm (Reg.pinj n) 2 0) else .next s

/-- HWP_PINJ KIND 3 (R546). -/
def execHwpPinjForcedRetrain (ag : Agent) (n : Nat) (s : State) : Outcome :=
  if isRig ag then .next (s.arm (Reg.pinj n) 3 0) else .next s

end Sys2Proof.Machine
end

