-- ==== Sys2Proof/Machine/Conv.lean ====
section
/-! DEFINITION. Convolution on the matrix engines and on the stem engines (chapter 09): checks, the window, and the six products. A work unit is a tile
of D, as for MATRIX ops. -/

namespace Sys2Proof.Machine

/-! ### Fields (Table 9.3) -/

def Desc.stem (d : Desc) : Bool := d.cls == 5
def Desc.cblk (d : Desc) : Nat := if d.at 407 1 = 1 then 32 else 16
def Desc.kh (d : Desc) : Nat := d.at 404 3
def Desc.kw (d : Desc) : Nat := d.at 401 3
def Desc.sh (d : Desc) : Nat := d.at 398 3
def Desc.sw (d : Desc) : Nat := d.at 395 3
def Desc.dh (d : Desc) : Nat := d.at 393 2
def Desc.dw (d : Desc) : Nat := d.at 391 2
def Desc.padh (d : Desc) : Nat := d.at 388 3
def Desc.padw (d : Desc) : Nat := d.at 385 3
def Desc.win (d : Desc) : Nat := d.at 466 14
def Desc.wout (d : Desc) : Nat := d.at 452 14
def Desc.taps (d : Desc) : Nat := d.kh * d.kw

/-- The checks of R282, in its order. -/
def convOrdered (d : Desc) (n : Named) : List (Nat × Bool) :=
  let k := d.stem
  [(466, d.win == 0), (452, d.wout == 0), (414, d.acc == 3 || d.acc == 2 && (k || !admitsA16 n)), (407, k && d.at 407 1 == 1),
   (352, !k && d.ext 0 % d.wout != 0), (320, !k && d.ext 1 % d.cblk != 0), (416, !k && d.ext 2 % d.cblk != 0),
   (416, !k && d.op != 1 && decide (2 ^ 20 < d.ext 2 * d.taps)), (320, !k && d.op == 1 && decide (2 ^ 20 < d.ext 1 * d.taps)),
   (320, k && decide (4096 < d.ext 1))]

/-- The other fields of both classes, beside EPI. -/
def convFields (d : Desc) : List (Nat × Bool) :=
  [d.rndField 411, (408, d.pre == 3), d.resv 384 1, d.resv 448 4, (416, d.stem && d.ext 2 != 0)]

/-- The object of slot k that carries X's shape: A, or D for the backward data ops. -/
def convX (d : Desc) : Nat := if d.op = 1 then 3 else 0

/-- Cin: EXT2, or the columns of X for STEM (R281). -/
def convCin (d : Desc) (n : Named) : Option Nat := if d.stem then (n.ok? (convX d)).map Obj.cols else some (d.ext 2)

/-- Formats (Table 9.5, R286, R294). -/
def convFmtA (d : Desc) (a : Obj) : Bool :=
  if d.stem then a.fmt == fFP32 || inBf a.fmt || a.fmt == fUINT8
  else (a.fmt == fFP32 || inBf a.fmt || inF8 a.fmt || inF4 a.fmt) && axisOk a.fmt (d.op == 2) && !(fmtBlk a.fmt == 32 && d.cblk == 16)
def convFmtB (d : Desc) (n : Named) (b : Obj) : Bool :=
  if d.stem then b.fmt == fFP32 || inBf b.fmt
  else n.with 0 (fun a => (pairOf a.fmt b.fmt).isSome) && axisOk b.fmt (d.op != 1)

/-- Shape of X or dX: Cin itself is judged where it stands in the descriptor. -/
def convShapeX (d : Desc) (x : Obj) : Bool :=
  x.rows % d.win == 0 &&
    if d.stem then x.planes == d.ext 0 && decide (x.cols ≤ 4096) && (decide (x.cols ≤ 16) || decide (d.ext 1 ≤ 16)) else x.cols == d.ext 2

/-- Shape of Y or dY. -/
def convShapeY (d : Desc) (y : Obj) : Bool :=
  y.rows % d.wout == 0 && y.cols == d.ext 1 && if d.stem then y.planes == d.ext 0 else y.rows == d.ext 0

/-- Shape of W or dW: K × Cout. -/
def convShapeW (d : Desc) (n : Named) (w : Obj) : Bool :=
  w.cols == d.ext 1 && w.planes == 1 && match convCin d n with
    | some cin => w.rows == cin * d.taps
    | none => true

/-- Object step (Table 9.4). -/
def convObjs (d : Desc) (n : Named) : List (Nat × Bool) :=
  let pl := fun (k : Nat) (x : Obj) => n.with k (fun a => a.planes == x.planes)
  let pre := if d.pre = 0 then n.no 2
    else n.need 2 (fun c => preFmt c.fmt && n.with 3 (fun x => c.rows == (if d.pre = 1 then x.rows else 1) && c.cols == x.cols &&
      (if d.pre = 1 then c.planes == x.planes else c.planes == 1 || d.op != 2 && c.planes == x.planes)))
  match d.op with
  | 0 => [n.need 0 (fun a => convFmtA d a && convShapeX d a), n.need 1 (fun b => convFmtB d n b && convShapeW d n b), pre,
      n.need 3 (fun y => writable y.fmt && convShapeY d y && pl 0 y)]
  | 1 => [n.need 0 (fun a => convFmtA d a && convShapeY d a), n.need 1 (fun b => convFmtB d n b && convShapeW d n b), pre,
      n.need 3 (fun x => writable x.fmt && convShapeX d x && pl 0 x)]
  | _ => [n.need 0 (fun a => convFmtA d a && convShapeX d a), n.need 1 (fun b => convFmtB d n b && convShapeY d b && pl 0 b), pre,
      n.need 3 (fun w => writable w.fmt && convShapeW d n w)]

/-! ### The window (R278) -/

/-- The input position that tap (ky, kx) of output position `p` reads, `none` for +0. -/
def tapAt (d : Desc) (hin p ky kx : Nat) : Option Nat :=
  let y : Int := (p / d.wout * d.sh + ky * (d.dh + 1) : Nat) - (d.padh : Int)
  let x : Int := (p % d.wout * d.sw + kx * (d.dw + 1) : Nat) - (d.padw : Int)
  if 0 ≤ y ∧ y < hin ∧ 0 ≤ x ∧ x < d.win then some (y.toNat * d.win + x.toNat) else none

/-- The output coordinates along one axis whose tap `k` reads coordinate `i`: all of them for a stride of zero (R278), at most one otherwise. -/
def backAxis (i k dil pad stride n : Nat) : List Nat :=
  let t : Int := (i + pad : Nat) - (k * (dil + 1) : Nat)
  if stride = 0 then (if t = 0 then List.range n else [])
  else if 0 ≤ t ∧ t % stride = 0 ∧ t / stride < n then [(t / stride).toNat] else []

/-- The output positions whose tap (ky, kx) reads input position `q`: the reverse window. -/
def tapFrom (d : Desc) (hout q ky kx : Nat) : List Nat :=
  ((backAxis (q / d.win) ky d.dh d.padh d.sh hout).map (fun oy =>
    (backAxis (q % d.win) kx d.dw d.padw d.sw d.wout).map (fun ox => oy * d.wout + ox))).flatten

/-- K index to (ky, kx, channel), over `nc` channels: blocked by CB on the matrix engines (R286), whole for a stem engine (R293). -/
def tapOf (d : Desc) (nc k : Nat) : Nat × Nat × Nat :=
  if d.stem then (k / nc / d.kw, k / nc % d.kw, k % nc)
  else
    let cb := d.cblk
    let t := k / cb
    (t / d.kw % d.kh, t % d.kw, t / (d.kw * d.kh) * cb + k % cb)

/-- The row of W of tap (ky, kx) and input channel `c`. -/
def tapRow (d : Desc) (cin ky kx c : Nat) : Nat :=
  if d.stem then (ky * d.kw + kx) * cin + c else ((c / d.cblk * d.kh + ky) * d.kw + kx) * d.cblk + c % d.cblk

/-! ### The products (R279, R285 to R287, R293) -/

/-- Slice depth of an op (R286, R293). -/
def convDepth (o : OpRec) (a b : Obj) : Nat :=
  if o.d.stem then (if o.d.op = 2 then 256 else 16) else passDepth ((pairOf a.fmt b.fmt).getD .bf) o.d.acc

/-- Terms of one element of D, per frame for a weight gradient (R286, R287, R293). -/
def convTerms (o : OpRec) (a b : Obj) : Nat := if o.d.op = 2 then b.rows else a.cols * o.d.taps

/-- The shape of a CONV or STEM product: a weight gradient has a tree per frame, and one over the frames (R287, R293). Row time follows the gather (R288). -/
def OpRec.convShape (o : OpRec) : Option (Shape × Obj) :=
  match o.obj 0, o.obj 1, o.obj 3 with
  | some a, some b, some d =>
    let p := (pairOf a.fmt b.fmt).getD .bf
    let depth := convDepth o a b
    let per := max 1 (ceilDiv (convTerms o a b) depth)
    let frames := if o.d.op = 2 then a.planes else 1
    let t := (pairTimes p).1
    let row := if o.d.stem || o.d.op == 2 then t else max t (ceilDiv depth (8 * o.d.cblk))
    some (⟨accOf o.d.acc, depth, per, frames, (0, per * frames), row, (pairTimes p).2⟩, d)
  | _, _, _ => none

/-- An element of a feature map or of W. -/
def mapElt (o : OpRec) (s : State) (slot : Nat) (x : Obj) (p i j : Nat) : Except WorkFail Elt :=
  slotted slot (x.tileAddr p (i / 128) (j / 128)) (s.elt (s.reader o) x p i j)

/-- A window element. -/
def windowElt (o : OpRec) (s : State) (x : Obj) (p c : Nat) : Option Nat → Except WorkFail Elt
  | none => .ok (.zero, false)
  | some i => mapElt o s 0 x p i c

/-- Term k of element (f, p, c) of Y (R279). -/
def convFwdTerm (o : OpRec) (s : State) (x w : Obj) (f p c k : Nat) : Except WorkFail (List (Elt × Elt)) := do
  let (ky, kx, ci) := tapOf o.d x.cols k
  let a ← windowElt o s x f ci (tapAt o.d (x.rows / o.d.win) p ky kx)
  let b ← mapElt o s 1 w 0 k c
  return [(a, b)]

/-- Term k of element (f, q, c) of dX: every output position whose tap reads position q, +0 where none does. -/
def convDataTerm (o : OpRec) (s : State) (dy w dx : Obj) (f q c k : Nat) : Except WorkFail (List (Elt × Elt)) := do
  let (ky, kx, co) := tapOf o.d dy.cols k
  let b ← mapElt o s 1 w 0 (tapRow o.d dx.cols ky kx c) co
  match tapFrom o.d (dy.rows / o.d.wout) q ky kx with
  | [] => return [((Num.zero, false), b)]
  | ps => ps.mapM (fun p => do
    let a ← mapElt o s 0 dy f p co
    return (a, b))

/-- Term of position p of frame f of element (k, c) of dW. -/
def convWeightTerm (o : OpRec) (s : State) (x dy : Obj) (k c f p : Nat) : Except WorkFail (List (Elt × Elt)) := do
  let (ky, kx, ci) := tapOf o.d x.cols k
  let a ← windowElt o s x f ci (tapAt o.d (x.rows / o.d.win) p ky kx)
  let b ← mapElt o s 1 dy f p c
  return [(a, b)]

/-- What a CONV or STEM op multiplies (R279): slice `t` of an element, in a weight gradient slice `t` mod n_f of frame `t` ÷ n_f. -/
def convSource (o : OpRec) (s : State) : Source where
  terms p row col t :=
    match o.obj 0, o.obj 1, o.obj 3 with
    | some a, some b, some d => do
      let depth := convDepth o a b
      let n := convTerms o a b
      let per := max 1 (ceilDiv n depth)
      let ks := sliceKs depth n (t % per)
      let ts ← ks.mapM (fun k => match o.d.op with
        | 0 => convFwdTerm o s a b p row col k
        | 1 => convDataTerm o s a b d p row col k
        | _ => convWeightTerm o s a b row col (t / per) k)
      return ts.flatten
    | _, _, _ => .ok []
  pre := s.preElt o

/-- CONV_FWD (R285), on an MXE. -/
def execConvFwd (q sn unit vxe quad n : Nat) (s : State) : Outcome :=
  streamOn 4 0 q sn unit vxe quad n OpRec.convShape convSource s

/-- CONV_BWD_DATA (R285). -/
def execConvBwdData (q sn unit vxe quad n : Nat) (s : State) : Outcome :=
  streamOn 4 1 q sn unit vxe quad n OpRec.convShape convSource s

/-- CONV_BWD_WEIGHT (R287). -/
def execConvBwdWeight (q sn unit vxe quad n : Nat) (s : State) : Outcome :=
  streamOn 4 2 q sn unit vxe quad n OpRec.convShape convSource s

/-! ### The stem engine (R292 to R296) -/

/-- Groups of a STEM op (R295): of a weight gradient one for each frame's contribution. -/
def OpRec.stemGroups (o : OpRec) : Nat :=
  match o.obj 0, o.obj 3 with
  | some a, some d =>
    let (h, w) := stemLanes d.cols
    ceilDiv d.rows h * ceilDiv d.cols w * (if o.d.op = 2 then a.planes else d.planes)
  | _, _ => 0

/-- The group and slice that a piece streams next, `none` at its end: from slice `lo` of its first group to slice `hi` − 1 of its last. -/
def PieceRec.stemNext (p : PieceRec) (m : Nat) : Option (Nat × Nat) :=
  let k := p.part.lo + p.pos.get (fun _ => 0) 0
  if k < (p.part.n - 1) * m + p.part.hi then some (p.part.first + k / m, k % m) else none

/-- The slices of the node that group `g` forms: a frame's in a weight gradient. -/
def OpRec.groupNode (o : OpRec) (x : Shape) (d : Obj) (g : Nat) : Nat × Nat :=
  if o.d.op = 2 then let f := (stemGroup d g).1; (f * x.per, (f + 1) * x.per) else (0, x.per)

/-- A group opens in the lanes, with the preload in the slots of leaf 0. -/
def stemOpen (o : OpRec) (x : Shape) (d : Obj) (unit g : Nat) (src : Source) : Except WorkFail AccBlock := do
  let (f, i, j) := stemGroup d g
  let (h, w) := stemLanes d.cols
  let p := if o.d.op = 2 then 0 else f
  let (lo, hi) := o.groupNode x d g
  let b : AccBlock := { unit := unit, quad := 0, q := o.q, s := o.s, work := o.workOf d p (i / 128) (j / 128), band := (g, 0, 0), i0 := i % 128, j0 := j % 128,
                        vr := min h (d.rows - i), vc := min w (d.cols - j), lo := lo, hi := hi, next := lo, pre := [], inner := [], outer := [], bads := [] }
  let cs ← if lo = 0 then b.elems.mapM (fun e => src.pre p (i / 128 * 128 + e.1) (j / 128 * 128 + e.2)) else pure []
  return { b with pre := cs.filterMap (fun c => c.map Prod.fst),
                  bads := if cs.isEmpty then List.replicate (b.vr * b.vc) false else cs.map (fun c => (c.map Prod.snd).getD false) }

/-- One slice of one group on a stem engine: lanes that hold another group's open node values take no new one (R295). A tile whose groups have all ended is
handed on (R296). -/
def State.stemStep (s : State) (o : OpRec) (x : Shape) (d : Obj) (p : PieceRec) (g t : Nat) (src : Source) : Except WorkFail State := do
  let (lo, hi) := o.groupNode x d g
  let mine := fun (b : AccBlock) => b.unit == p.unit && b.q == o.q && b.s == o.s && b.band.1 == g && b.lo == lo
  let s ← if t = 0 then do
      if s.openOn p.unit 0 then throw ⟨0, .wait, 0⟩
      let b ← stemOpen o x d p.unit g src
      pure { s with accs := s.accs ++ [b] }
    else pure s
  match s.accs.find? (fun b => mine b && b.next == lo + t) with
  | none => throw ⟨0, .wait, 0⟩
  | some b =>
    let (f, i, j) := stemGroup d g
    let vs ← sliceStep x src (if o.d.op = 2 then 0 else f) (i / 128 * 128) (j / 128 * 128) b
    let (m, b) := b.step x vs
    let s := { s with accs := s.accs.map (fun y => if mine y then b else y) }
    let s := s.countOvf p.unit m
    return if b.next = hi then s.closeTile o x d p.unit p.vxe p.idx 0 b.work lo hi else s

/-- Stream up to `n` slices on a stem engine. One that waits for tile queue room streams nothing (R296). -/
def State.stemStream (s : State) (op q sn unit : Nat) : Nat → State
  | 0 => s
  | n + 1 =>
    match s.opAny q sn, s.pieces.find? (fun p => p.q == q && p.s == sn && p.unit == unit && p.phase == PiecePhase.running && !p.failed && !s.noProgress p) with
    | some o, some p =>
      match o.convShape with
      | none => s
      | some (x, d) =>
        match p.stemNext x.per with
        | none => s
        | some (g, t) =>
          if (o.d.cls, o.d.op) ≠ (5, op) ∨ s.unitIn unit = false ∨ s.stalled.any (fun t => t.unit == unit) = true then s
          else match s.meetStem (unit - 36) with
            | (s, true) => s
            | (s, false) =>
              match s.stemStep o x d p g t (convSource (s.view unit o) s) with
              | .error w => s.workFails o unit w
              | .ok s =>
                let s := { s with pieces := s.pieces.map (fun (y : PieceRec) =>
                  if y.q = q ∧ y.s = sn ∧ y.idx = p.idx then { y with pos := y.pos.set (fun _ => 0) 0 (y.pos.get (fun _ => 0) 0 + 1) } else y) }
                s.stemStream op q sn unit n
    | _, _ => s

/-- A STEM command: the stem engine of a die, with the VXE of that die whose tile queue its running piece fills (R296). -/
def stemOn (op q sn unit vxe n : Nat) (s : State) : Outcome :=
  if 36 ≤ unit ∧ unit < 40 ∧ vxe / 4 = unit - 36 ∧ s.pieces.any (fun p => p.q == q && p.s == sn && p.unit == unit && p.phase == PiecePhase.running && p.vxe == vxe) = true then
    .next ((s.stemStream op q sn unit n).settle)
  else .next s

/-- STEM_FWD (R293). -/
def execStemFwd (q sn unit vxe n : Nat) (s : State) : Outcome := stemOn 0 q sn unit vxe n s

/-- STEM_BWD_DATA (R293). -/
def execStemBwdData (q sn unit vxe n : Nat) (s : State) : Outcome := stemOn 1 q sn unit vxe n s

/-- STEM_BWD_WEIGHT (R293). -/
def execStemBwdWeight (q sn unit vxe n : Nat) (s : State) : Outcome := stemOn 2 q sn unit vxe n s

end Sys2Proof.Machine
end

