-- ==== Sys2Proof/Machine/Update.lean ====
section
/-! DEFINITION. UPDATE ops (chapter 10): rule and set records, the recurrence of APPLY, GRAM and ROOT. A work unit is a parameter block of APPLY's range,
a block group of GRAM, a plane of ROOT. -/

namespace Sys2Proof.Machine

/-! ### Fields, records and checks (R301 to R304, R320) -/

def Desc.step (d : Desc) : Nat := d.at 448 20
def Desc.first (d : Desc) : Nat := d.par 1

/-- Field step, beside the records. -/
def updateFields (d : Desc) : List (Nat × Bool) :=
  let unused := fun (ops : List Nat) (lsb n : Nat) => (lsb, !ops.contains d.op && d.at lsb n != 0)
  [d.resv 320 32, d.resv 416 32, d.resv 384 12, (405, d.op == 0 && decide (4 < d.at 405 3)), unused [0] 405 3, unused [0] 404 1,
   unused [0] 403 1, (401, d.op == 2 && d.at 401 2 == 3), unused [2] 401 2, unused [2] 396 5, unused [0] 468 12]

/-- Fields of a rule record (Table 10.3): formats and inputs of slot k (1 to 3). -/
def ruleF (ws : List Word) (k : Nat) : Nat := recAt ws 0 (65 - 3 * k) (63 - 3 * k)
def ruleSrc (ws : List Word) (k : Nat) : Nat := recAt ws 0 (56 - 3 * k) (54 - 3 * k)
def ruleMax (ws : List Word) (k : Nat) : Bool := recAt ws 0 (45 - k) (45 - k) == 1
def rulePre (ws : List Word) : Bool := recAt ws 0 41 41 == 1
def ruleNsrc (ws : List Word) : Bool := recAt ws 0 40 40 == 1
def ruleDslot (ws : List Word) : Nat := recAt ws 0 39 38
def ruleSign (ws : List Word) : Bool := recAt ws 0 37 37 == 1
def ruleNfskip (ws : List Word) : Bool := recAt ws 0 36 36 == 1
def ruleCatchup (ws : List Word) : Bool := recAt ws 0 35 35 == 1
def ruleOnce (ws : List Word) : Bool := recAt ws 0 34 34 == 1
def ruleSrnd (ws : List Word) : Nat := recAt ws 0 33 31
def ruleSeed (ws : List Word) : Nat := recAt ws 1 63 36
def ruleA (ws : List Word) (k : Nat) : Num := f32n (recAt ws (k + 1) 63 32)
def ruleB (ws : List Word) (k : Nat) : Num := f32n (recAt ws (k + 1) 31 0)
def ruleN1 (ws : List Word) : Num := f32n (recAt ws 5 63 32)
def ruleN2 (ws : List Word) : Num := f32n (recAt ws 5 31 0)
def ruleEps (ws : List Word) : Num := f32n (recAt ws 6 63 32)
def ruleDamp (ws : List Word) : Num := f32n (recAt ws 6 31 0)
def rulePeriod (ws : List Word) : Nat := recAt ws 7 63 48
def rulePhase (ws : List Word) : Nat := recAt ws 7 47 32
def ruleTol (ws : List Word) : Num := f32n (recAt ws 7 31 0)

/-- Does a rule read or write stamps (R307)? -/
def ruleStamps (ws : List Word) : Bool := ruleCatchup ws || ruleOnce ws

/-- The rule record, its schedule (role 12), and whether R304 rejects it at 408. -/
def updateRule (s : State) (ctx : Nat) (d : Desc) : Chk (List Word × List (Nat × Obj) × List (Nat × Bool)) := do
  match s.tableBase (Reg.ruleBase ctx) 16384 with
  | none => return ([], [], [(408, true)])
  | some b =>
    let ws ← readRec s 3 (b + 64 * d.at 408 8) 8
    let fs := [1, 2, 3].map (ruleF ws)
    let bad := recAt ws 0 63 63 == 0 || recAt ws 0 6 0 != 0 || recAt ws 1 35 0 != 0 || fs.any (fun f => decide (4 < f)) ||
      [1, 2, 3].any (fun k => decide (5 < ruleSrc ws k)) || decide (4 < ruleSrnd ws) || ruleDslot ws != 0 && ruleF ws (ruleDslot ws) == 0 ||
      [1, 2].any (fun k => ruleF ws k != 0 && ruleSrc ws k == 5) || ruleF ws 3 != 0 && ruleSrc ws 3 == 5 && ruleF ws 2 == 0 ||
      d.op == 2 && rulePeriod ws == 0
    if bad then return (ws, [], [(408, true)])
    else
      match ← objRec s ctx (recAt ws 0 30 7) 3 with
      | some x => return (ws, [(12, x)], [(408, !(x.fmt == fFP32 && x.rank == 2 && x.d1 == 8))])
      | none => return (ws, [], [(408, true)])

/-- Blocks of a master (R299). -/
def Obj.blocks (o : Obj) : Nat := o.tiles * 128

/-- The master, where it passes its own slot (R621). -/
def masterOk (d : Desc) (w : Obj) : Bool := w.fmt == fFP32 && decide (w.blocks ≤ 2 ^ 32) && decide (d.first + d.ext 0 ≤ w.blocks)

/-- Judge against the master, met where the master is not sound. -/
def withMaster (d : Desc) (n : Named) (c : Obj → Bool) : Bool := n.with 1 (fun w => !masterOk d w || c w)

/-- The master's shape. -/
def sameShape (w o : Obj) : Bool := o.rows == w.rows && o.cols == w.cols && o.planes == w.planes

/-- The set record, its objects (8 UOBJ, 13 RCPT, 6 HIST), and whether R304 rejects it at 468. -/
def updateSet (s : State) (ctx : Nat) (d : Desc) (n : Named) : Chk (List Word × List (Nat × Obj) × List (Nat × Bool)) := do
  let k := d.at 468 12
  if k = 0 ∨ d.op ≠ 0 then return ([], [], [])
  else
    match s.tableBase (Reg.setBase ctx) 131072 with
    | none => return ([], [], [(468, true)])
    | some b =>
      let ws ← readRec s 3 (b + 32 * k) 4
      if recAt ws 0 63 63 = 0 ∨ recAt ws 0 14 0 ≠ 0 ∨ recAt ws 1 19 0 ≠ 0 ∨ recAt ws 2 63 0 ≠ 0 ∨ recAt ws 3 63 0 ≠ 0 ∨
          recAt ws 1 63 40 = 0 ∧ recAt ws 1 39 20 ≠ 0 then return (ws, [], [(468, true)])
      else
        let u ← objIf s ctx (recAt ws 0 62 39) 3
        let r ← objIf s ctx (recAt ws 0 38 15) 3
        let h ← objIf s ctx (recAt ws 1 63 40) 3
        let os := [(8, u), (13, r), (6, h)].filterMap (fun p => p.2.map (fun o => (p.1, o)))
        let ok := fun (role : Nat) (o : Obj) => match role with
          | 8 => (o.fmt == fFP32 || o.fmt == fBF16) && withMaster d n (fun w => sameShape w o)
          | 13 => o.fmt == fUINT8 && o.rank == 1 && withMaster d n (fun w => decide (ceilDiv w.blocks 8 ≤ o.d0))
          | _ => o.fmt == fHIST && decide (recAt ws 1 39 20 < o.d0)
        let wrong := os.any (fun p => match p.2 with
          | none => true
          | some o => !ok p.1 o)
        return (ws, os.filterMap (fun p => p.2.map (fun o => (p.1, o))), [(468, wrong)])

/-- Bytes of one element of a slot format (Table 10.5). -/
def slotBytes (f : Nat) : Nat := match f with
  | 0 => 0
  | 1 => 4
  | 2 => 2
  | _ => 1

/-- Where slot k's element area starts in a state record, and where its scale bytes start (R306). -/
def slotAt (ws : List Word) (k : Nat) : Nat := ((List.range (k - 1)).map (fun j => 128 * slotBytes (ruleF ws (j + 1)))).foldl (· + ·) 0
def scaleAt (ws : List Word) (k : Nat) : Nat :=
  slotAt ws 4 + ((List.range (k - 1)).map (fun j => if 3 ≤ ruleF ws (j + 1) then 2 else 0)).foldl (· + ·) 0

/-- Where the stamp lies, and the record length RB. -/
def stampAt (ws : List Word) : Nat := scaleAt ws 4
def recordLen (ws : List Word) : Nat := stampAt ws + 4

/-- Object step (Table 10.8). -/
def updateObjs (d : Desc) (ws : List Word) (n : Named) : List (Nat × Bool) :=
  let grad := fun (o : Obj) => o.fmt == fFP32 || o.fmt == fBF16
  let sq := fun (o : Obj) => o.rows == 128 && o.cols == 128 && decide (d.first + d.ext 0 ≤ o.planes)
  match d.op with
  | 0 =>
    let noState := [1, 2, 3].all (fun k => ruleF ws k == 0) && !ruleStamps ws
    let stOk := fun (c : Obj) => c.fmt == fUINT8 && c.rank == 2 && c.d1 == recordLen ws && withMaster d n (fun w => decide (w.blocks ≤ c.d0))
    [n.need 0 (fun g => grad g && withMaster d n (fun w => sameShape w g)), n.need 1 (masterOk d),
     if noState then n.may 2 stOk else n.need 2 stOk,
     n.may 3 (fun x => preFmt x.fmt && !colAxis x.fmt && withMaster d n (fun w => sameShape w x))]
  | 1 => [n.need 0 (fun g => grad g && g.planes == 1 && decide (d.first + d.ext 0 ≤ g.tc)), n.no 1, n.no 2,
      n.need 3 (fun o => o.fmt == fFP32 && sq o)]
  | _ => [n.need 0 (fun a => a.fmt == fFP32 && sq a), n.no 1,
      n.may 2 (fun c => c.fmt == fFP32 && c.rank == 1 && decide (d.first + d.ext 0 ≤ c.d0)), n.need 3 (fun o => grad o && sq o)]

/-! ### State slots (R305) -/

/-- UE5M3: decode, and encode a value of 0 or above, clamped to the largest (R119). -/
def ue5m3Decode (b : Nat) : Num := if b / 8 % 32 = 0 then .fin false (b % 8) (-17) else .fin false (b % 8 + 8) ((b / 8 % 32 : Nat) - 18)
def ue5m3Code (r : Rnd) (m : Nat) (x : Int) : Nat :=
  if m = 0 then 0
  else
    let q := ulpExp 4 (-14) m x
    let k := roundMag r false m x q
    if k < 8 then k
    else
      let e := expOf k q
      if 16 < e then 255 else ((e + 15).toNat) * 8 + k / 2 ^ (Nat.log2 k - 3) % 8

/-- A sub-block of 64 elements encoded: codes, scale byte, block NaN. -/
structure SubOut where
  codes : List Nat
  scale : Nat
  bad   : Bool
  deriving DecidableEq, Repr

/-- What a U8 slot encodes: +0 for a negative value. -/
def nonNeg (v : Num) : Num := if v.isNan || !v.isNeg then v else .zero

/-- Encode a sub-block of an S8 (f = 3) or U8 (f = 4) slot; `none` marks an invalid element. The scale takes in every valid magnitude (R118); a negative value
of U8 is then encoded as +0. -/
def encodeSub (f : Nat) (rs : List Rnd) (vs : List (Option Num)) : SubOut :=
  match amaxOf vs with
  | none => ⟨List.replicate vs.length 0, 255, true⟩
  | some (m, x) =>
    let emax : Int := if f = 4 then 16 else 8
    let k := if m = 0 then 0 else max (-127) (min 127 (expOf m x - emax))
    let code := fun (p : Option Num × Rnd) => match (if f = 4 then p.1.map nonNeg else p.1) with
      | some (.fin n m x) => if f = 4 then ue5m3Code p.2 m (x - k) else mxCode .e4m3 p.2 k (some (.fin n m x))
      | _ => 0
    ⟨(vs.zip rs).map code, (k + 127).toNat, false⟩

/-- The values of slot k in a state record's bytes. -/
def slotVals (ws : List Word) (bs : List Byte) (k : Nat) : List Num :=
  let f := ruleF ws k
  let a := slotAt ws k
  (List.range 128).map (fun e =>
    match f with
    | 0 => .zero
    | 1 => ieeeNum 8 23 (ofBytes ((bs.drop (a + 4 * e)).take 4))
    | 2 => ieeeNum 8 7 (ofBytes ((bs.drop (a + 2 * e)).take 2))
    | _ =>
      let c := (bs.getD (a + e) 0).toNat
      (e8m0 (bs.getD (scaleAt ws k + e / 64) 0).toNat).mul (if f = 3 then Elem.decode .e4m3 c else ue5m3Decode c))

/-- Slot k written: bytes of its area, its scale bytes, and the elements that a watch slot may see with their conversions; block NaNs by sub-block. -/
structure SlotOut where
  area   : List Byte
  scales : List Byte
  convs  : List Conv
  bads   : List Nat
  deriving DecidableEq, Repr

/-- Encode slot k: the first `nv` elements are valid. -/
def slotOut (ws : List Word) (k nv : Nat) (rs : List Rnd) (vs : List Num) : SlotOut :=
  let f := ruleF ws k
  let some_ := vs.zipIdx.map (fun v => if v.2 < nv then some v.1 else none)
  match f with
  | 0 => ⟨[], [], [], []⟩
  | 1 =>
    let cs := (vs.zip rs).map (fun p => Elem.conv (.ieee 8 23) p.2 false p.1)
    ⟨(cs.zipIdx.map (fun c => bytesOf 4 (if c.2 < nv then c.1.code else 0))).flatten, [], cs.take nv, []⟩
  | 2 =>
    let cs := (vs.zip rs).map (fun p => Elem.conv (.ieee 8 7) p.2 false p.1)
    ⟨(cs.zipIdx.map (fun c => bytesOf 2 (if c.2 < nv then c.1.code else 0))).flatten, [], cs.take nv, []⟩
  | _ =>
    let lo := encodeSub f (rs.take 64) (some_.take 64)
    let hi := encodeSub f (rs.drop 64) (some_.drop 64)
    ⟨(lo.codes ++ hi.codes).map (fun c => BitVec.ofNat 8 c), [BitVec.ofNat 8 lo.scale, BitVec.ofNat 8 hi.scale], [],
     (if lo.bad then [0] else []) ++ (if hi.bad then [1] else [])⟩

/-! ### APPLY (R308 to R318) -/

/-- Place of block `b` of the master: plane, tile row, tile column, row in the tile. -/
def blockAt (w : Obj) (b : Nat) : Nat × Nat × Nat × Nat :=
  let (p, r, c) := w.tileAt (b / 128)
  (p, r, c, b % 128)

/-- Does the rule read G (R310)? -/
def readsG (ws : List Word) (hasU : Bool) : Bool :=
  [1, 2, 3].any (fun k => ruleF ws k != 0 && [0, 2, 4].contains (ruleSrc ws k)) || !ruleNsrc ws && !(ruleN2 ws).isZero || !hasU

/-- Where an APPLY keeps its receipt bits, plus 1 (R312). -/
def receiptKey : Nat := 202

/-- The receipt bits of the op's range (R312), from BFIRST on. -/
def receiptBits (o : OpRec) (s : State) : Except WorkFail Nat :=
  match o.obj 13 with
  | none => .ok (2 ^ o.d.ext 0 - 1)
  | some x => do
    let lo := o.d.gfirst / 8
    let n := (o.d.gfirst + o.d.ext 0 - 1) / 8 + 1 - lo
    let bs ← slotted 3 (x.addr lo) (s.readObj x lo n)
    return ofBytes bs / 2 ^ (o.d.gfirst % 8) % 2 ^ o.d.ext 0

/-- What an UPDATE op reads once, when its first piece starts and after its dependencies are satisfied: the schedule row (R308) and an APPLY's receipt bits
(R312). -/
def updateBegin (o : OpRec) (s : State) : Except WorkFail OpRec :=
  if o.rc schedKey ≠ [] then .ok o
  else if !s.depsOk o then .error ⟨3, .wait, 0⟩
  else match o.obj 12 with
    | none => .ok o
    | some x => do
      let r := o.d.step % x.d0
      let cs ← (List.range 8).mapM (fun j => slotted 3 (x.tileAddr 0 (r / 128) 0) (s.code (s.reader o) x 0 r j))
      let ws := (List.range 4).map (fun k => BitVec.ofNat 64 (cs.getD (2 * k) 0 + 2 ^ 32 * cs.getD (2 * k + 1) 0))
      let bits ← if o.d.op = 0 then receiptBits o s else pure 0
      return { o with recs := o.recs ++ [(schedKey, ws)], aux := o.aux.set (fun _ => 0) receiptKey (bits + 1) }

/-- pw of R315: Ak^n by the loop over the bits of n from 19 down. -/
def catchPow (a : Num) (n : Nat) : Nat → Num → Num
  | 0, pw => pw
  | b + 1, pw =>
    let pw := (pw.mul pw).r32
    catchPow a n b (if n / 2 ^ b % 2 = 1 then (pw.mul a).r32 else pw)

/-- What the recurrence gives for one element: master, slots, d before any sign. -/
structure StepOut where
  w : Num
  s : List Num
  d : Num
  deriving DecidableEq, Repr

/-- The input of a slot (Table 10.6). -/
def slotSrc (src : Nat) (g u s2 : Num) : Num :=
  match src with
  | 0 => g
  | 1 => u
  | 2 => (g.mul g).r32
  | 3 => (u.mul u).r32
  | 4 => g.abs
  | _ => s2

/-- sign(x) of R309. -/
def signOf (x : Num) : Num := if x.isNan || x.isZero then x else if x.isNeg then Num.one.neg else Num.one

/-- A slot after its update. -/
def slotStep (ws : List Word) (k : Nat) (g u s2 sk : Num) : Num :=
  if ruleF ws k = 0 then sk
  else
    let t := ((ruleB ws k).mul (slotSrc (ruleSrc ws k) g u s2)).r32
    if ruleMax ws k then Num.pick true ((ruleA ws k).mul sk).r32 t else (Num.add ((ruleA ws k).mul sk) t).r32

/-- The recurrence of R309 for one element, from g, u, w and the slots. -/
def applyElt (ws : List Word) (row : Nat → Num) (g u w : Num) (ss : List Num) : StepOut :=
  let lr := row 0
  let wdmul := row 1
  let c1 := row 2
  let c2 := row 3
  let s1 := ss.getD 0 .zero
  let t1 := slotStep ws 1 g u .zero s1
  let t2 := slotStep ws 2 g u .zero (ss.getD 1 .zero)
  let t3 := slotStep ws 3 g u t2 (ss.getD 2 .zero)
  let n1 := if rulePre ws then s1 else t1
  let y := if ruleNsrc ws then u else g
  let num := ((Num.add ((ruleN1 ws).mul n1) ((ruleN2 ws).mul y).r32).r32.mul c1).r32
  let sd := match ruleDslot ws with
    | 1 => t1
    | 2 => t2
    | _ => t3
  let d := if ruleDslot ws = 0 then num
    else (num.div (Num.add (c2.mul sd).r32.sqrt.r32 (ruleEps ws)).r32).r32
  let e := if ruleSign ws then signOf d else d
  ⟨(Num.add (lr.neg.mul e) (w.mul wdmul).r32).r32, [t1, t2, t3], d⟩

/-- The bytes of a state record's row of S, `n` of them. -/
def stateBytes (o : OpRec) (s : State) (x : Obj) (b n : Nat) : Except WorkFail (List Byte) :=
  (List.range n).mapM (fun j => do
    let c ← slotted 2 (x.tileAddr 0 (b / 128) (j / 128)) (s.code (s.reader o) x 0 b j)
    return BitVec.ofNat 8 c)

/-- A row of an FP32 or BF16 object with the master's shape. -/
def blockRow (o : OpRec) (s : State) (slot : Nat) (x : Obj) (p i c nv : Nat) : Except WorkFail (List Elt) :=
  (List.range nv).mapM (fun e => slotted slot (x.tileAddr p (i / 128) c) (s.elt (s.reader o) x p i (128 * c + e)))

/-- Placement of what an APPLY writes for the first time: on the stack that holds the block's master (R321), which is that of its UU (R19). -/
def applyWr (o : OpRec) (x : Obj) (stack : Nat) : Wr :=
  { o.wr x false with pref := if x.pref = 1 then 1 else 0, tier := 1, mask := 2 ^ stack, strict := true }

/-- Write one row of a tile. -/
def putRow (o : OpRec) (s : State) (slot : Nat) (w : Wr) (x : Obj) (last p r c i : Nat) (cols : Nat) (t : TileOut) : Except WorkFail State :=
  let cov := fun a b => a == i && decide (b < cols)
  slotted slot (x.tileAddr p r c)
    (if coversAll (x.vrows r) (x.vcols c) cov then s.writeTile w (o.writer last) x p r c t else s.writePart w (o.writer last) x p r c cov t)

/-- Write `bs` to row `b` of S from column tile `c` on. -/
def putState (o : OpRec) (w : Wr) (x : Obj) (b n : Nat) (bs : List Byte) (s : State) : Nat → Except WorkFail State
  | 0 => .ok s
  | c + 1 => do
    let s ← putState o w x b n bs s c
    let cols := min 128 (n - 128 * c)
    let t := encodeTile x.fmt (x.vrows (b / 128)) (x.vcols c) (fun _ _ => .rne) false
      (fun i j => if i = b % 128 then .ofInt ((bs.getD (128 * c + j) 0).toNat : Nat) else .zero)
    let lastB := o.d.first + o.d.ext 0 - 1
    putRow o s 2 w x (x.tileNo 0 (lastB / 128) ((n - 1) / 128)) 0 (b / 128) c (b % 128) cols t

/-- Detections of a state slot (R311): under the state object's id, at the master element's coordinates. -/
def watchSlot (o : OpRec) (unit : Nat) (st : Obj) (p r c i k : Nat) (vs : List Elt) (t : SlotOut) (s : State) : State :=
  let mk := fun (sl cond e : Nat) =>
    ({ slot := sl, q := o.q, s := o.s, obj := st.id, cond := cond, unit := unit, tdep := p, trow := r, tcol := c, erow := i, ecol := e,
       value := (vs.getD e (.zero, false)).1.toF32.toNat, sslot := k, inNan := (vs.getD e (.zero, false)).2 } : Detection)
  let ds := (List.range 8).map (fun sl =>
    if s.watches sl o.ctx st.id then
      let w := s.rd (Reg.wctl sl)
      let plain := t.convs.zipIdx.filterMap (fun x =>
        let k := condOf w (vs.getD x.2 (.zero, false)).1 x.1
        if k = 0 then none else some (mk sl k x.2))
      let blocks := t.bads.filterMap (fun h =>
        let es := ((List.range vs.length).filter (fun e => decide (e / 64 = h)))
        let nan := es.find? (fun e => !(vs.getD e (.zero, false)).1.isFin)
        let inf := es.find? (fun e => (vs.getD e (.zero, false)).1.isInf)
        if bit w 4 then nan.map (mk sl 1) else if bit w 5 then inf.map (mk sl 2) else none)
      plain ++ blocks
    else [])
  { s with detects := s.detects ++ ds.flatten }

/-- Clear the receipt bit of a block that was read as 1 (R313). -/
def clearReceipt (o : OpRec) (b : Nat) (s : State) : Except WorkFail State :=
  match o.obj 13 with
  | none => .ok s
  | some x =>
    if o.d.at 403 1 = 0 then .ok s
    else
      let byte := x.addr (b / 8)
      let a := byte / 4 * 4
      let bitNo := 8 * (byte - a) + b % 8
      match slotted 3 a (s.atomicAt a 4 false (fun v => v - v / 2 ^ bitNo % 2 * 2 ^ bitNo) (some (o.q, o.s, 0))) with
      | .error e => .error e
      | .ok (_, s) => .ok s

/-- Bytes of an applied block (Table 10.11). -/
def applyBytes (o : OpRec) (ws : List Word) : Nat :=
  let rowOf := fun (role : Nat) => match o.obj role with
    | some x => 16 * fmtWidth x.fmt
    | none => 0
  let slots := ([1, 2, 3].map (fun k => 2 * 128 * slotBytes (ruleF ws k) + (if 3 ≤ ruleF ws k then 4 else 0))).foldl (· + ·) 0
  (if readsG ws (o.obj 8).isSome then rowOf 0 else 0) + rowOf 8 + 1024 + slots + (if ruleStamps ws then 8 else 0) +
    match o.obj 3 with
    | some d => fmtTile d.fmt / 128
    | none => 0

/-- The groups of the master, state and working copy that blocks touch, for the blocks from work unit `first` on that are not void. -/
def OpRec.blockGroups (o : OpRec) (first n : Nat) : List Nat :=
  match o.obj 1 with
  | none => []
  | some w =>
    let ts := ((List.range n).filterMap (fun k =>
      let b := o.d.gfirst + first + k
      let (_, r, _, i) := blockAt w b
      if w.rows ≤ 128 * r + i then none else some (b / 128))).eraseDups
    (ts.map (fun t =>
      let (p, r, c) := w.tileAt t
      let tile := fun (x : Obj) => x.groups (x.tileOff p r c) (fmtStride x.fmt)
      tile w ++ (match o.obj 2 with
        | some x => x.groups (x.tileOff 0 t 0) (x.tc * fmtStride x.fmt)
        | none => []) ++ (match o.obj 3 with
        | some x => tile x
        | none => []))).flatten.eraseDups

/-- What blocks write is brought to the stack of the UU that applies them (R321, R330). -/
def State.bringBlocks (s : State) (o : OpRec) (n first k : Nat) : State := s.bringTo n (o.blockGroups first k)

/-- A block applied: everything it writes, together (R316). -/
def applyWrite (unit : Nat) (o : OpRec) (s : State) (ws : List Word) (w : Obj) (stack b : Nat)
    (outs : List StepOut) (bad : List Bool) : Except WorkFail (OpRec × State) := do
  let (p, r, c, i) := blockAt w b
  let nv := outs.length
  let lastT := (o.d.first + o.d.ext 0 - 1) / 128
  let neww := fun a e => if a = i then ((outs.getD e ⟨.zero, [], .zero⟩).w, bad.getD e false) else (.zero, false)
  let row := fun (a e : Nat) => a == i && decide (e < nv)
  let tw := encodeTile w.fmt (w.vrows r) (w.vcols c) (fun _ _ => .rne) false (fun a e => (neww a e).1)
  let s := s.watchTile o unit w p r c 0 row neww tw
  let s ← putRow o s 1 (applyWr o w stack) w lastT p r c i nv tw
  let s ← match o.obj 2 with
    | none => pure s
    | some x =>
      let idx := fun e => w.srdIdx p (128 * r + i) (128 * c + e)
      let so := fun (k : Nat) => slotOut ws k nv ((List.range 128).map (fun e =>
          rndOf (ruleSrnd ws) o.ctx x.id (ruleSeed ws) (4 * idx e + k)))
        ((List.range 128).map (fun e => (outs.getD e ⟨.zero, [], .zero⟩).s.getD (k - 1) .zero))
      let body := (so 1).area ++ (so 2).area ++ (so 3).area ++ (so 1).scales ++ (so 2).scales ++ (so 3).scales
      let body := if ruleStamps ws then body ++ bytesOf 4 (2 ^ 31 + o.d.step) else body
      let s := [1, 2, 3].foldl (fun s k => watchSlot o unit x p r c i k
        (outs.zipIdx.map (fun y => (y.1.s.getD (k - 1) .zero, bad.getD y.2 false))) (so k) s) s
      let n := body.length
      putState o (applyWr o x stack) x b n body s (ceilDiv n 128)
  let s ← match o.obj 3 with
    | none => pure s
    | some d =>
      let t := encodeTile d.fmt (d.vrows r) (d.vcols c) (fun a e => d.rnd o.ctx (o.d.at 405 3) (ruleSeed ws) p r c a e) (o.d.at 404 1 == 1)
        (fun a e => (neww a e).1)
      let s := s.watchTile o unit d p r c 0 row neww t
      putRow o s 3 (applyWr o d stack) d lastT p r c i nv t
  let t := b / 128
  return ({ o with tiles := if o.tiles.contains t then o.tiles else o.tiles ++ [t],
                   hist := if (o.obj 6).isSome then outs.foldl (fun h x => histAdd h x.d) o.hist else o.hist }, s)

/-- Block `b` of the range, received and not void: skipped, or applied. -/
def applyBlock (unit : Nat) (o : OpRec) (s : State) (ws : List Word) (w g : Obj) (b : Nat) : Except WorkFail (OpRec × State) := do
  let uu := unit - 40
  let (p, r, c, i) := blockAt w b
  let nv := w.vcols c
  let gscale := o.sched 4
  let hasU := (o.obj 8).isSome
  let gs ← if readsG ws hasU then blockRow o s 0 g p (128 * r + i) c nv else pure []
  let us ← match o.obj 8 with
    | none => pure []
    | some x => blockRow o s 3 x p (128 * r + i) c nv
  let mw ← blockRow o s 1 w p (128 * r + i) c nv
  let stamps := ruleStamps ws
  let st ← match o.obj 2 with
    | none => pure []
    | some x => stateBytes o s x b (if stamps then recordLen ws else stampAt ws)
  let stamp := ofBytes ((st.drop (stampAt ws)).take 4)
  let touched := stamps && decide (stamp / 2 ^ 31 = 1)
  if ruleOnce ws && touched && stamp % 2 ^ 20 == o.d.step then do
    let s ← clearReceipt o b (s.bump (Reg.uuMiss uu) 31 16 1)
    return (o, s)
  else if ruleNfskip ws && (gs.any (fun v => !v.1.isFin) || us.any (fun v => !v.1.isFin)) then do
    let s ← clearReceipt o b (s.bump (Reg.uuMiss uu) 63 48 1)
    return (o, s)
  else do
    let dt := (o.d.step + 2 ^ 20 - stamp % 2 ^ 20) % 2 ^ 20
    let late := ruleCatchup ws && touched
    let miss := late && (dt == 0 || decide (2 ^ 19 ≤ dt))
    let s := if miss then s.bump (Reg.uuMiss uu) 47 32 1 else s
    let n := if late && !miss then dt - 1 else 0
    let slots := [1, 2, 3].map (fun k =>
      let vs := slotVals ws st k
      if ruleF ws k ≠ 0 ∧ n ≠ 0 then let pw := catchPow (ruleA ws k) n 20 .one; vs.map (fun v => (v.mul pw).r32) else vs)
    let el := fun (e : Nat) =>
      let gv := if gs.isEmpty then Num.zero else ((gs.getD e (.zero, false)).1.mul gscale).r32
      let uv := if hasU then ((us.getD e (.zero, false)).1.mul gscale).r32 else gv
      applyElt ws o.sched gv uv (mw.getD e (.zero, false)).1 (slots.map (fun v => v.getD e .zero))
    let outs := (List.range nv).map el
    let bad := (List.range nv).map (fun e => (gs.getD e (.zero, false)).2 || (us.getD e (.zero, false)).2 || (mw.getD e (.zero, false)).2 ||
      slots.any (fun v => !(v.getD e .zero).isFin) || (List.range 5).any (fun k => !(o.sched k).isFin))
    let (o, s) ← applyWrite unit o s ws w uu b outs bad
    let s ← clearReceipt o b s
    return (o, (s.bump (Reg.uuBlkcnt uu) 63 32 1).bump (Reg.uuBytes uu) 63 0 (applyBytes o ws))

/-- Is a block of an APPLY one that its UU will update: not performed, not void, received (R312)? -/
def OpRec.liveBlock (o : OpRec) (u : Nat) : Bool :=
  match o.obj 1 with
  | none => false
  | some w =>
    let (_, r, _, i) := blockAt w (o.d.gfirst + u)
    !o.done.contains u && decide (128 * r + i < w.rows) && decide ((o.aux.get (fun _ => 0) receiptKey - 1) / 2 ^ u % 2 = 1)

/-- Work unit `u` of an APPLY: block BFIRST + u (R312, R316), once. -/
def applyUnit (unit : Nat) (o : OpRec) (s : State) (u : Nat) : Except WorkFail (OpRec × State) :=
  match o.obj 0, o.obj 1 with
  | some g, some w => do
    let ws := o.rc 3
    let b := o.d.gfirst + u
    let (_, r, _, i) := blockAt w b
    if o.done.contains u then return (o, s)
    else
      let bits := o.aux.get (fun _ => 0) receiptKey
      let void := decide (w.rows ≤ 128 * r + i)
      let (o, s) ← if bits = 0 then Except.error ⟨3, .wait, 0⟩
        else if void then pure (o, s)
        else if (bits - 1) / 2 ^ u % 2 = 0 then pure (o, s.bump (Reg.uuBlkcnt (unit - 40)) 31 0 1)
        else if !(s.onStack (unit - 40) (o.blockGroups u 1)) then Except.error ⟨1, .wait, 0⟩
        else applyBlock unit o s ws w g b
      return (if o.tiles.isEmpty && decide (o.done.length + 1 = o.d.ext 0) then { o with units := 0 } else o, s)
  | _, _ => .ok (o, s)

/-- The detectors of a UU meet the injections armed for them as it updates a block (R331). -/
def State.meetApply (s : State) (q sn unit first n : Nat) : State × Bool :=
  match s.opAny q sn with
  | some o => if (List.range n).any (fun k => o.liveBlock (first + k)) then s.meetUu (unit - 40) else (s, false)
  | none => (s, false)

/-- APPLY (R309), on a UU in service: what its blocks write stands on the UU's stack first (R19, R321). -/
def execApply (q sn unit first n : Nat) (s : State) : Outcome :=
  if 40 ≤ unit ∧ unit < 56 ∧ s.flag (Reg.uuStat (unit - 40)) 1 = true then
    let s := match s.worker 8 0 q sn unit first n with
      | some o => s.bringBlocks o (unit - 40) first n
      | none => s
    .next (s.workOn (fun s => s.meetApply q sn unit first n) 8 0 q sn unit first n (applyUnit unit))
  else .next s

/-! ### GRAM (R324) -/

/-- A matrix in FP32, by rows. -/
abbrev Mat := List (List Num)

/-- Element (i, k), +0 beyond. -/
def Mat.at (m : Mat) (i k : Nat) : Num := (m.getD i []).getD k .zero

/-- A 128 × 128 matrix from its elements. -/
def matOf (f : Nat → Nat → Num) : Mat := (List.range 128).map (fun i => (List.range 128).map (fun k => f i k))

/-- The shape of a GRAM's product (R324): its rows as slices, in A32X. -/
def OpRec.gramShape (o : OpRec) : Option (Shape × Obj) :=
  match o.obj 0, o.obj 3 with
  | some g, some d =>
    let p := (pairOf g.fmt g.fmt).getD .bf
    let per := max 1 (ceilDiv g.rows 128)
    some (⟨.a32x, 128, per, 1, (0, per), (pairTimes p).1, (pairTimes p).2⟩, d)
  | _, _ => none

/-- What a GRAM multiplies: columns of block group j of G. -/
def gramSource (o : OpRec) (s : State) : Source where
  terms j a b t :=
    match o.obj 0 with
    | none => .ok []
    | some g =>
      if g.vcols j ≤ a ∨ g.vcols j ≤ b then .ok []
      else (sliceKs 128 g.rows t).mapM (fun r => do
        let x ← slotted 0 (g.tileAddr 0 (r / 128) j) (s.elt (s.reader o) g 0 r (128 * j + a))
        let y ← slotted 0 (g.tileAddr 0 (r / 128) j) (s.elt (s.reader o) g 0 r (128 * j + b))
        return (x, y))
  pre := fun _ _ _ => .ok none

/-- GRAM (R324), on an MXE with its paired VXE, whose epilogue folds the product into the statistics. -/
def execGram (q sn unit vxe quad n : Nat) (s : State) : Outcome :=
  streamOn 8 1 q sn unit vxe quad n OpRec.gramShape gramSource s

/-! ### ROOT (R325, R326) -/

/-- A product of 128 × 128 × 128 in fused mode with A32X: one slice. -/
def matMul (x y : Mat) : Mat :=
  matOf (fun i j => (dotElt .a32x 128 none ((List.range 128).map (fun k => ((x.at i k, false), (y.at k j, false))))).1.1)

/-- T of one iteration. -/
def rootT (p : Nat) (m : Mat) : Mat :=
  let half := Num.fin false 1 (-(Nat.log2 p : Int))
  matOf (fun i k => ((Num.add (if i = k then .ofInt (p + 1 : Nat) else .zero) (m.at i k).neg).r32.mul half).r32)

/-- The largest element of |M − I|; NaN where one is NaN. -/
def residual (m : Mat) : Num :=
  ((List.range 128).map (fun i => (List.range 128).map (fun k =>
    (Num.add (m.at i k) (if i = k then Num.one.neg else .zero)).r32.abs))).flatten.foldl (Num.pick true) .zero

/-- x ≤ y, false with a NaN. -/
def leq (x y : Num) : Bool := !x.isNan && !y.isNan && !y.lt x

/-- Products of an iteration (R327). -/
def rootProducts (p : Nat) : Nat := if p = 1 then 2 else if p = 2 then 3 else 4

/-- p of a ROOT op. -/
def OpRec.rootP (o : OpRec) : Nat := 2 ^ o.d.at 401 2

/-- A matrix that a plane in progress keeps: 0 X, 1 M, 2 T, 3 the power of T so far. -/
def RootRec.mat (x : RootRec) (k : Nat) : Mat := ((x.mats.find? (fun m => m.1 == k)).map Prod.snd).getD []

/-- T of the iteration that begins, and X and M as they stand. -/
def RootRec.start (p : Nat) (x : RootRec) : RootRec :=
  let t := rootT p (x.mat 1)
  { x with mats := [(0, x.mat 0), (1, x.mat 1), (2, t), (3, t)] }

/-- The start of a plane's iterations, `none` where z fails (R325). -/
def rootInit (p : Nat) (damp : Num) (a : Mat) : Option (Mat × Mat) :=
  let a := matOf (fun i k => if i = k then (Num.add (a.at i k) damp).r32 else a.at i k)
  let z := ((List.range 128).map (fun i => treeSum ((List.range 128).map (fun k => (a.at i k).abs)))).foldl (Num.pick true) (.inf true)
  if !z.isFin || leq z .zero then none
  else
    let zr := if p = 1 then (Num.one.div z).r32 else if p = 2 then z.rsqrt.r32 else z.sqrt.r32.rsqrt.r32
    some (matOf (fun i k => if i = k then zr else .zero), matOf (fun i k => ((a.at i k).div z).r32))

/-- The next product of an iteration: X · T, then powers of T, last T^p · M. -/
def RootRec.product (p : Nat) (x : RootRec) : RootRec :=
  let keep := fun (k : Nat) (m : Mat) => { x with prod := x.prod + 1, mats := x.mats.map (fun y => if y.1 = k then (k, m) else y) }
  if x.prod = 0 then keep 0 (matMul (x.mat 0) (x.mat 2))
  else if x.prod + 1 = rootProducts p then keep 1 (matMul (x.mat 3) (x.mat 1))
  else keep 3 (matMul (x.mat 3) (x.mat 3))

/-- A plane ends (R326): with a root, X is written and r its residual; without one D keeps its content, C takes −r, and the failure counts. -/
def rootStore (unit : Nat) (o : OpRec) (s : State) (u : Nat) (x : Option Mat) (r : Num) (bad : Bool) : Except WorkFail (OpRec × State) :=
  match o.obj 3 with
  | none => .ok (o, s)
  | some d => do
    let j := o.d.gfirst + u
    let (o, s) ← match x with
      | none => pure (o, s.bump Reg.uuRootfail 63 0 1)
      | some m => do
        let last := d.tileNo (o.d.gfirst + o.d.ext 0 - 1) 0 0
        storeResult o s (16 + unit) d last j 0 0 (fun _ _ => true) ⟨0, false, 0⟩ true (fun i k => (Mat.at m i k, bad))
    match o.obj 2 with
    | none => return (o, s)
    | some c =>
      let v := if x.isSome then r else if r.isNan then .nan else r.neg
      let t := encodeTile c.fmt (c.vrows (j / 128)) 1 (fun _ _ => .rne) false (fun i _ => if i = j % 128 then v else .zero)
      let cov := fun i (_ : Nat) => i == j % 128
      let s := s.watchTile o (16 + unit) c 0 (j / 128) 0 0 cov (fun _ _ => (v, bad)) t
      let s ← slotted 2 (c.addr 0) (s.storeTile o c false ((o.d.gfirst + o.d.ext 0 - 1) / 128) 0 (j / 128) 0 cov t)
      return (o, s)

/-- Forget a plane in progress. -/
def State.dropRoot (s : State) (o : OpRec) (u : Nat) : State := { s with roots := s.roots.filter (fun x => !(x.q == o.q && x.s == o.s && x.plane == u)) }

/-- After a product of a plane: the residual at an iteration's end, which may end the plane. Whether it has ended. -/
def rootNext (unit : Nat) (o : OpRec) (s : State) (x : RootRec) : Except WorkFail (Bool × OpRec × State) :=
  let s := s.dropRoot o x.plane
  if x.prod < rootProducts o.rootP then .ok (false, o, { s with roots := s.roots ++ [x] })
  else
    let r := residual (x.mat 1)
    let good := leq r (ruleTol (o.rc 3))
    if good || decide (o.d.at 396 5 ≤ x.iter + 1) then do
      let (o, s) ← rootStore unit o s x.plane (if good then some (x.mat 0) else none) r x.bad
      return (true, o, s)
    else .ok (false, o, { s with roots := s.roots ++ [({ x with iter := x.iter + 1, prod := 0 } : RootRec).start o.rootP] })

/-- Product `k` of work unit `u` of a ROOT op on a quad of an MXE (R325, R327): the first reads the plane, a later one goes on where the last stopped. Whether
the plane has ended. A plane that has ended before has no more work. -/
def rootProduct (unit quad k : Nat) (o : OpRec) (s : State) (u : Nat) : Except WorkFail (Bool × OpRec × State) :=
  match o.obj 0 with
  | none => .ok (true, o, s)
  | some a =>
    let ws := o.rc 3
    let j := o.d.gfirst + u
    let p := o.rootP
    if o.done.contains u then .ok (true, o, s)
    else if o.d.step % rulePeriod ws ≠ rulePhase ws % rulePeriod ws then .ok (true, { o with units := 0 }, s)
    else if k = 0 then do
      let es ← (List.range 128).mapM (fun i => (List.range 128).mapM (fun c => slotted 0 (a.tileAddr j 0 0) (s.elt (s.reader o) a j i c)))
      let bad := es.any (fun r => r.any Prod.snd)
      match rootInit p (ruleDamp ws) (es.map (List.map Prod.fst)) with
      | none => do
        let (o, s) ← rootStore unit o s u none .nan bad
        return (true, o, s)
      | some (x, m) =>
        let r : RootRec := { q := o.q, s := o.s, plane := u, unit := unit, quad := quad, iter := 0, prod := 0, mats := [(0, x), (1, m)], bad := bad }
        rootNext unit o s ((r.start p).product p)
    else match s.roots.find? (fun x => x.q == o.q && x.s == o.s && x.plane == u) with
      | none => .error ⟨0, .wait, 0⟩
      | some x =>
        if x.unit = unit ∧ x.quad = quad ∧ x.iter * rootProducts p + x.prod = k then rootNext unit o s (x.product p) else .error ⟨0, .wait, 0⟩

/-- One plane of the running piece of a ROOT op on an MXE: its product, on the plane's quad. -/
def State.rootRun (s : State) (q sn unit u : Nat) : State :=
  match s.opAny q sn, s.pieces.find? (fun p => p.covers q sn unit u 1 && p.part.kind == 0 && !p.did.contains u && !s.noProgress p) with
  | some o, some p =>
    let quad := u - p.part.first
    if (o.d.cls, o.d.op) ≠ (8, 2) ∨ s.unitIn unit = false ∨ o.rc schedKey = [] then s
    else match s.meetQuad unit quad true with
      | (s, true) => s
      | (s, false) =>
        match rootProduct unit quad p.part.lo { s.view unit o with hist := [] } s u with
        | .error w => s.workFails o unit w
        | .ok (ended, o2, s) =>
          let o3 := { o2 with hist := o.hist }
          let s := s.putOp (if ended then o3.didUnit u else o3)
          { s with pieces := s.pieces.map (fun (y : PieceRec) => if y.q = q ∧ y.s = sn ∧ y.idx = p.idx then { y with did := y.did ++ [u] } else y) }
  | _, _ => s

/-- ROOT (R325): the products of a running piece for planes `first` to `first + n − 1`. -/
def execRoot (q sn unit first n : Nat) (s : State) : Outcome :=
  if unit < 16 then .next (((List.range n).foldl (fun s k => s.rootRun q sn unit (first + k)) s).settle) else .next s

end Sys2Proof.Machine
end

