-- ==== Sys2Proof/Machine/Memory.lean ====
section
/-! DEFINITION. Stacked memory and the memory-side cache (chapter 12): REDUCE_ACC, class A detection and replay, writes and atomics at the slices, the
refresh rate, scrub, map-out, and the injections. A work unit of REDUCE_ACC is a tile of D that its range covers, in the order of `coverTiles`. -/

namespace Sys2Proof.Machine

/-! ### Checks of REDUCE_ACC (R380, R381) -/

/-- Field step. -/
def reduceFields (d : Desc) : List (Nat × Bool) :=
  [d.resv 384 9, d.resv 448 21, (405, decide (d.seqLast < d.seqFirst) || decide (d.ord < d.seqFirst) || decide (d.seqLast < d.ord)),
   (480, d.par 1 % 128 != 0)]

/-- Object step. -/
def reduceObjs (d : Desc) (n : Named) : List (Nat × Bool) :=
  let room := fun (o : Obj) => decide (d.par 1 + d.ext 0 ≤ o.rows) && decide (d.ext 1 ≤ o.cols) && decide (d.ext 2 ≤ o.planes)
  [n.need 0 (fun a => (a.fmt == fFP32 || a.fmt == fBF16 || a.fmt == fFP16) && room a), n.no 1,
   n.may 2 (fun c => c.fmt == fUINT8 && c.rank == 1 && n.with 3 (fun w => decide (ceilDiv w.blocks 8 ≤ c.d0))),
   n.need 3 (fun x => x.fmt == fFP32 && room x)]

/-! ### The order of a sequence (R382, R383) -/

/-- Tiles of D that a REDUCE_ACC covers, as (plane, tile row, tile column). -/
def OpRec.accTiles (o : OpRec) : List (Nat × Nat × Nat) := coverTiles o (o.d.par 1)

/-- Does ORD `m` of a sequence stand before tile `t` no longer: ended, added to it, or joined without part in it? -/
def State.ordPast (s : State) (x : SeqRec) (t m : Nat) : Bool :=
  x.ended.contains m || x.added.contains (m, t) ||
    match x.joined.find? (fun j => j.1 == m) with
    | some j => match s.opAny j.2.1 j.2.2 with
      | some p => match p.obj 3 with
        | some d => !(p.accTiles.any (fun e => d.tileNo e.1 e.2.1 e.2.2 == t))
        | none => true
      | none => true
    | none => false

/-- Is every ORD of the range `a` to `b - 1` past tile `t`? -/
def State.ordsPast (s : State) (x : SeqRec) (t a b : Nat) : Bool := (List.range (b - a)).all (fun k => s.ordPast x t (a + k))

/-- May a contribution be added to tile `t` now: its predecessors past it, and every earlier sequence on its D closed there (R383)? -/
def State.accTurn (s : State) (o : OpRec) (t : Nat) : Bool :=
  match s.seqs.find? (fun x => x.has o) with
  | none => false
  | some x =>
    s.ordsPast x t x.first o.d.ord &&
      (s.seqs.takeWhile (fun z => !z.has o)).all (fun z => !(z.ctx == x.ctx && z.obj == x.obj) || s.ordsPast z t z.first (z.last + 1))

/-- Change the sequence that an op has joined. -/
def State.mapSeq (s : State) (o : OpRec) (f : SeqRec → SeqRec) : State :=
  { s with seqs := s.seqs.map (fun x => if x.has o then f x else x) }

/-- Is the tile broken in the op's sequence (R384)? -/
def State.accBroken (s : State) (o : OpRec) (t : Nat) : Bool := s.seqs.any (fun x => x.has o && x.broken.contains t)

/-- Hold a contribution to a tile at its slice. -/
def State.accHold (s : State) (o : OpRec) (a t : Nat) : State :=
  if s.seqs.any (fun x => x.has o && x.held.contains (o.d.ord, t)) then s
  else (s.mapSeq o (fun x => { x with held := x.held ++ [(o.d.ord, t)] })).bump (Reg.mscSeq (s.sliceOf a)) 31 16 1

/-- Set the receipt bits of the blocks of a tile whose write has been accepted (R385). -/
def setReceipts (o : OpRec) (d : Obj) (t : Nat) : List Nat → State → Except WorkFail State
  | [], s => .ok s
  | i :: is, s =>
    match o.obj 2 with
    | none => .ok s
    | some c =>
      let b := 128 * t + i
      let byte := c.addr (b / 8)
      let a := byte / 4 * 4
      let k := 8 * (byte - a) + b % 8
      match slotted 2 a (s.atomicAt a 4 false (fun v => v.lor (2 ^ k)) (some (o.q, o.s, 0))) with
      | .error e => .error e
      | .ok (_, s) => setReceipts o d t is s

/-- Add a contribution to tile (p, r, c) of D: SEQFIRST is written without reading D, a later ORD gives RNE32(D + A), blocks that SKIPZ leaves out
keep what D holds (R383). -/
def accAdd (o : OpRec) (a d : Obj) (p r c : Nat) (s : State) : Except WorkFail (OpRec × State) := do
  let first := o.d.ord == o.d.seqFirst
  let lo := o.d.par 1
  let cov := fun i j => decide (lo ≤ 128 * r + i) && decide (128 * r + i < lo + o.d.ext 0) && decide (128 * c + j < o.d.ext 1)
  let as ← (List.range (d.vrows r)).mapM (fun i => (List.range (a.vcols c)).mapM (fun j =>
    if cov i 0 then slotted 0 (a.tileAddr p r c) (s.elt (s.reader o) a p (128 * r + i) (128 * c + j)) else .ok (.zero, false)))
  let skip := fun i => o.d.at 393 1 == 1 && (as.getD i []).all (fun v => v.1.isZero)
  let here := fun i j => cov i j && (first || !skip i)
  let xs ← (List.range (d.vrows r)).mapM (fun i => (List.range (d.vcols c)).mapM (fun j =>
    if here i j then do
      let v := (as.getD i []).getD j (.zero, false)
      if first then return (v : Elt)
      else
        let w ← slotted 3 (d.tileAddr p r c) (s.elt ⟨o.ctx, []⟩ d p (128 * r + i) (128 * c + j))
        return ((Num.add w.1 v.1).r32, v.2 || w.2)
    else .ok (.zero, false)))
  let x := fun i j => (xs.getD i []).getD j (.zero, false)
  let key := d.tileAddr p r c
  let was := match s.tags.get (fun _ => none) key with
    | some g => (0, key, g.pq, g.ps)
    | none => (0, key, 1024, 0)
  let out := encodeTile d.fmt (d.vrows r) (d.vcols c) (fun _ _ => .rne) false (fun i j => (x i j).1)
  let last := match o.accTiles.getLast? with
    | some e => d.tileNo e.1 e.2.1 e.2.2
    | none => 0
  let s ← slotted 3 key (if coversAll (d.vrows r) (d.vcols c) here then s.writeTile (o.wr d true) (o.writer last) d p r c out
    else s.writePart (o.wr d true) (o.writer last) d p r c here out)
  let t := d.tileNo p r c
  let s ← setReceipts o d t ((List.range (d.vrows r)).filter (fun i => cov i 0 && !skip i)) s
  let (o, s) := s.wroteTile o d p r c
  let o := if first then o else { o with reads := o.reads.filter (fun e => e.2.1 != key) ++ [was] }
  let s := s.mapSeq o (fun z => { z with added := if z.added.contains (o.d.ord, t) then z.added else z.added ++ [(o.d.ord, t)],
                                         held := z.held.filter (fun h => h != (o.d.ord, t)) })
  let s := s.bump (Reg.mscSeq (s.sliceOf key)) 63 32 1
  return (o, s.watchTile o 255 d p r c 0 here x out)

/-- One tile of a contribution: added in its turn, held before it, discarded where the tile is broken (R383, R384). -/
def State.accTile (s : State) (o : OpRec) (unit : Nat) (a d : Obj) (u : Nat) : State :=
  let (p, r, c) := o.accTiles.getD u (0, 0, 0)
  let t := d.tileNo p r c
  let key := d.tileAddr p r c
  if s.accBroken o t then (s.pieceDid o.q o.s u).failOp o.q o.s stDataErr 3
  else if !s.accTurn o t then s.accHold o key t
  else
    match accAdd o a d p r c s with
    | .error w => s.workFails o unit w
    | .ok (o2, s) => (s.putOp { o2 with done := if o2.done.contains u then o2.done else o2.done ++ [u] }).pieceDid o.q o.s u

/-- Tiles `u` on, as long as the piece on the unit meets no failed access. -/
def State.accTilesFrom (s : State) (q sn unit u : Nat) : Nat → State
  | 0 => s
  | n + 1 =>
    match s.worker 7 0 q sn unit u 1 with
    | none => s
    | some o =>
      let o := s.view 255 o
      match o.obj 0, o.obj 3 with
      | some a, some d => (s.accTile o unit a d u).accTilesFrom q sn unit (u + 1) n
      | _, _ => s

/-- REDUCE_ACC (R383): a piece brings its tiles to the slices. A contribution joins its sequence first; one that would open a sequence beyond 4,096 waits
(R382). -/
def execReduceAcc (q sn unit first n : Nat) (s : State) : Outcome :=
  if 40 ≤ unit ∧ unit < 56 then
    match s.worker 7 0 q sn unit first n with
    | none => .next s
    | some o =>
      match s.seqJoin o with
      | none => .next s
      | some s => .next ((s.accTilesFrom q sn unit first n).settle)
  else .next s

/-- CONTRIBUTION_RELEASE (R383): a held contribution to a tile is added in its turn, or discarded where the tile has broken. -/
def execContributionRelease (q sn tile : Nat) (s : State) : Outcome :=
  match s.opAny q sn with
  | none => .next s
  | some o =>
    let o := s.view 255 o
    match o.obj 0, o.obj 3 with
    | some a, some d =>
      let u := (o.accTiles.map (fun e => d.tileNo e.1 e.2.1 e.2.2)).idxOf tile
      match s.pieces.find? (fun p => p.covers q sn p.unit u 1) with
      | some p =>
        if o.d.cls = 7 ∧ o.d.op = 0 ∧ u < o.accTiles.length ∧ s.seqs.any (fun x => x.has o && x.held.contains (o.d.ord, tile)) = true ∧
            (s.accTurn o tile || s.accBroken o tile) = true
        then .next ((s.accTile o p.unit a d u).settle)
        else .next s
      | none => .next s
    | _, _ => .next s

/-! ### Class A detection and replay (R393 to R395) -/

/-- Does a read of tile (p, r, c) of an object make a class A detection? -/
def State.tileBad (s : State) (ctx : Nat) (x : Obj) (p r c : Nat) : Bool :=
  x.pclass == 1 &&
    ((match s.tagCheck ⟨ctx, []⟩ x p r c with
      | .error .classA => true
      | _ => false) ||
    (List.range (fmtStride x.fmt / 64)).any (fun k => s.mark (x.addr (x.tileOff p r c + 64 * k)) == .badCrc))

/-- The op that last wrote a tile of an object, as the journal holds it: the one its tag names, else the youngest that writes the object. `none` for a
tile that carries the null tag. -/
def State.producer (s : State) (ctx : Nat) (x : Obj) (p r c : Nat) : Option OpRec :=
  match s.tags.get (fun _ => none) (x.tileAddr p r c) with
  | none => none
  | some t =>
    let own := s.journal.filter (fun j => j.ctx == ctx && j.written.contains x.id)
    match own.find? (fun j => j.q == t.pq && j.s == t.ps) with
    | some j => some j
    | none => own.getLast?

/-- The first unit of the kind an op runs on, 255 for an op planned on no unit. -/
def OpRec.kindOf (o : OpRec) : Nat :=
  match o.d.cls with
  | 1 => 0
  | 2 => 16
  | 3 => 32
  | 4 => 0
  | 5 => 36
  | 6 => if o.d.op = 1 then 16 else if o.d.op = 0 then
      (match o.obj 0, o.obj 3 with
        | some a, some d => if a.fmt = d.fmt ∧ o.rc 1 = [] then 255 else 16
        | _, _ => 255) else 255
  | 8 => if o.d.op = 0 then 40 else 0
  | 9 => 184
  | _ => 255

/-- The work units of an op that write tile `t` of a result: (first, count). Engines that write tile by tile give the tile's own, others all. -/
def OpRec.unitsOf (o : OpRec) (x : Obj) (t : Nat) : Nat × Nat :=
  match o.d.cls with
  | 1 => (t, 1)
  | 4 => (t, 1)
  | 5 => (t, 1)
  | 7 => ((o.accTiles.map (fun e => x.tileNo e.1 e.2.1 e.2.2)).idxOf t, 1)
  | 3 => if o.attends then (0, o.d.ext 0 * o.d.ext 1 * 8192) else (0, o.units)
  | _ => (0, o.units)

/-- The number of the next piece of an op beyond those it is cut into. -/
def State.nextIdx (s : State) (o : OpRec) : Nat :=
  ((s.pieces.filter (fun p => p.q == o.q && p.s == o.s)).map (fun p => p.idx + 1)).foldl max o.split.length

/-- Does a part handle work unit `u`: form it, as a whole or by a node, or consume or perform it? -/
def OpRec.handles (o : OpRec) (x : Part) (u : Nat) : Bool :=
  if x.kind = 0 ∧ x.runs ≠ [] ∨ x.kind = 36 then partForms o x u none else decide (x.first ≤ u) && decide (u < x.first + x.n)

/-- The parts of an op that must run again where the listed ones do: those that share a work unit with one of them. -/
def OpRec.again (o : OpRec) : Nat → List Part → List Part
  | 0, xs => xs
  | f + 1, xs =>
    let us := (List.range o.units).filter (fun u => xs.any (fun x => o.handles x u))
    let ys := o.split.filter (fun y => us.any (fun u => o.handles y u))
    if ys.length = xs.length then ys else o.again f ys

/-- The parts of a producer that wrote a tile, with those that they need: all of the parts that form its tiles, and the node tiles' ways between units are
not taken, for all run on one unit. -/
def OpRec.partsFor (o : OpRec) (u : Nat × Nat) : List Part :=
  let hit := fun (x : Part) => (List.range u.2).any (fun k => o.handles x (u.1 + k))
  let xs := if o.d.cls = 1 ∨ o.d.cls = 4 ∨ o.d.cls = 5 then o.again o.split.length (o.split.filter hit)
    else o.split.filter (fun x => decide (x.first < u.1 + u.2) && decide (u.1 < x.first + x.n))
  xs.filter (fun x => x.kind < 56 || x.kind == 184 || x.kind == 255 && o.kindOf == 255)

/-- The unit that runs a part again: of its kind, with those that its tiles need beside it (R85). -/
def State.unitAgain (s : State) (o : OpRec) (kind : Nat) : Nat :=
  if o.attends then attPlace ((s.attMxe o).getD 0) kind
  else if o.d.cls = 1 ∨ o.d.cls = 4 then kind + ((List.range 16).find? (fun m => s.unitIn m && s.unitIn (16 + m))).getD 0
  else if kind = 255 then 255
  else (s.unitsIn kind 1024).headD kind

/-- The VXE of the tiles of a part run again. -/
def State.vxeAgain (s : State) (o : OpRec) (kind : Nat) : Nat := if kind = 36 then s.unitAgain o 16 - 16 else s.unitAgain o kind % 16

/-- Re-commit parts of a producer (R394). -/
def State.replay (s : State) (j : OpRec) (depth : Nat) (rd : Nat × Nat × Nat) : List Part → State
  | [] => s
  | x :: xs =>
    let p : PieceRec :=
      { q := j.q, s := j.s, idx := s.nextIdx j, unit := s.unitAgain j x.kind, vxe := s.vxeAgain j x.kind, part := x, cost := 0, earliest := s.beat,
        planned := s.beat, atCommit := s.beat, cyc := s.fld Reg.beatCyc 63 0, startB := 0, staged := [], lower := false, pos := [], hist := [],
        failed := false, did := [], dets := [], depth := depth, reader := some rd, phase := .committed }
    ({ s with pieces := s.pieces ++ [p] } : State).replay j depth rd xs

/-- Has every input tile of the parts of an op that run again still the producer it had when first read (R395)? A contribution's are those of the sum that
it was added to. -/
def State.inputsSame (s : State) (j : OpRec) (xs : List Part) : Bool :=
  j.reads.all (fun e => !(j.d.cls == 7 || xs.any (fun x => j.split.idxOf x == e.1)) || match s.tags.get (fun _ => none) e.2.1 with
    | some t => t.pq == e.2.2.1 && t.ps == e.2.2.2
    | none => e.2.2.1 == 1024)

/-- CLASS_A_DETECTION (R394): piece `idx` of an op meets a bad tile of its object of a role. The producer's pieces are committed again, or the reading op
ends DATA_ERR beyond the limits of R395. An op without pieces (WAIT, a cascade op) reads by itself. -/
def execClassADetection (q sn idx role tile : Nat) (s : State) : Outcome :=
  match s.opAny q sn with
  | none => .next s
  | some o =>
    match o.obj role with
    | none => .next s
    | some x =>
      let (p, r, c) := x.tileAt tile
      let a := x.tileAddr p r c
      let pc := s.pieces.find? (fun y => y.q == q && y.s == sn && y.idx == idx && y.phase == PiecePhase.running)
      let slot := min role 3
      let base := match pc with
        | some y => y.reader.getD (q, sn, slot)
        | none => (q, sn, slot)
      let depth := match pc with
        | some y => y.depth
        | none => 0
      let met := match pc with
        | some y => (y.dets.filter (· == a)).length
        | none => 0
      let able := pc.isSome || o.phase == .started && !s.pieces.any (fun y => y.q == q && y.s == sn)
      let prod := s.producer o.ctx x p r c
      let pending := match prod with
        | some j => s.pieces.any (fun y => y.q == j.q && y.s == j.s && y.reader.isSome && y.phase != PiecePhase.ended &&
            j.handles y.part (j.unitsOf x tile).1)
        | none => false
      if !able || !s.tileBad o.ctx x p r c || pending || o.failing.isSome && pc.isNone then .next s
      else
        let hbm := match region a with
          | .hbm | .deep => !bit (s.tir (groupOf a)) 62
          | _ => false
        let st := bits (s.tir (groupOf a)) 49 46
        let deep := match region a with
          | .hbm | .deep => !hbm
          | _ => false
        let chan := s.memInst a - 256
        let (inj, s) := if hbm then s.takeInj (Reg.hbcInj st) 3 (s.pcOf a) else if deep then s.takeInj (Reg.dtcInj chan) 3 0 else (false, s)
        let s := s.cond deep (fun s => s.bump (Reg.dtcErrcnt chan) 31 16 1)
        let ok := match prod with
          | some j => decide (depth + 1 ≤ 8) && decide (met < 2) && s.inputsSame j (j.partsFor (j.unitsOf x tile))
          | none => false
        let s := s.cond hbm (fun s => s.bump (Reg.hbcErrcnt st) 31 16 1)
        let det := match region a with
          | .tile _ _ => 0x29
          | _ => if hbm then 0x22 else 0x28
        let s := s.detect { cls := 2, sev := if ok then 1 else 2, rtype := 0, det := det, inj := inj, dom := 2, inst := s.memInst a, addr := a,
                            op := some (q, sn, o.ctx), info := s.memInfo a }
        let s := { s with pieces := s.pieces.map (fun (y : PieceRec) =>
          if y.q = q ∧ y.s = sn ∧ y.idx = idx then { y with dets := y.dets ++ [a] } else y) }
        match prod with
        | some j =>
          if ok then
            let s := s.cond hbm (fun s => s.bump (Reg.hbcRepcnt st) 31 16 1)
            let s := s.mapOp base.1 base.2.1 (fun (o : OpRec) => { o with replayA := true, replays := o.replays + 1 })
            .next (s.replay j (depth + 1) base (j.partsFor (j.unitsOf x tile)))
          else .next ((s.cond hbm (fun s => s.bump (Reg.hbcRepcnt st) 15 0 1)).failOp base.1 base.2.1 stDataErr base.2.2)
        | none => .next ((s.cond hbm (fun s => s.bump (Reg.hbcRepcnt st) 15 0 1)).failOp base.1 base.2.1 stDataErr base.2.2)

/-! ### Writes and reads at a slice (R374, R376, R625) -/

/-- A write without a tag to a class A group leaves the null tag on every tile it touches (R392; like any write of a tile in part, R624): from then on
the tile takes its identity from its object record. -/
def State.untag (s : State) (a n : Nat) : State :=
  if !s.isClassA a then s
  else { s with tags := s.tags.filter (fun e =>
    match e.2 with
    | some t => !(decide (a < e.1 + fmtStride t.fmt) && decide (e.1 < a + n))
    | none => true) }

/-- The units that a write reads with its lines because it covers them in part (R373). -/
def partialUnits (a n : Nat) : List Nat :=
  ((List.range ((a + n + 255) / 256 - a / 256)).map (fun k => a / 256 * 256 + 256 * k)).flatMap (fun l =>
    if a ≤ l ∧ l + 256 ≤ a + n then [] else (List.range 4).map (fun k => l + 64 * k))

/-- MSC_WRITE (R374): a write of class `cls` accepted at a slice; `errs` are the units that it finds wrong as it reads the lines which it covers in part
(R625). One that the tier map refuses fails alone, with its record (R437). -/
def execMscWrite (cls addr : Nat) (data : List Byte) (errs : List (Nat × Nat)) (s : State) : Outcome :=
  match region addr with
  | .hbm | .deep =>
    let s := s.unitErrors none (errs.filter (fun e => (partialUnits addr data.length).contains (e.1 / 64 * 64)))
    match s.writeMem (.plain cls) addr data with
    | .ok s => .next (s.untag addr data.length)
    | .error f => .next (s.failRecord f addr none)
  | _ => .next s

/-- Set the condition of the four units of a line of a slice. -/
def State.markLine (s : State) (a : Nat) (m : Mark) : State :=
  (List.range 4).foldl (fun s k => s.setMark (a / 256 * 256 + 64 * k) m) s

/-- A line read meets a single-bit error, corrected, or a double-bit error, handled by the class of its group and the state of the line (R376). -/
def State.lineError (s : State) (slice set way addr : Nat) (two dirty inj : Bool) : State :=
  let hurt := two && !s.isClassA addr && dirty
  let f : FaultIn := { cls := 2, sev := if hurt then 2 else 1, rtype := 0, det := 0x25, inj := inj, dom := 2, inst := 272 + slice,
                       addr := addr, info := way % 16 * 2 ^ 12 + set % 2 ^ 12 }
  if two then
    let s := s.bump (Reg.mscDetcnt slice) 47 32 1
    let s := if s.isClassA addr then s.markLine addr .badCrc else if dirty then s.markLine addr .poison else s
    s.detect f
  else (s.bump (Reg.mscDetcnt slice) 63 48 1).countDet (2 * 1024 + 272 + slice) f

/-- MSC_ECC (R376): an error of a line that the slice can hold there. -/
def execMscEcc (slice set way addr : Nat) (two dirty : Bool) (s : State) : Outcome :=
  if slice < 17 ∧ s.sliceOf addr = slice ∧ inMemRegions addr 1 = true ∧ s.mscOut.get (fun _ => false) slice = false ∧
      s.wayOff.get (fun _ => false) (slice * 2 ^ 20 + set * 16 + way) = false then
    let (inj, s) := s.takeInj (Reg.mscInj slice) (if two then 2 else 1) 0
    .next (s.lineError slice set way addr two dirty inj)
  else .next s

/-! ### Atomics (R377 to R379) -/

/-- An atomic at the slices: the old value is the answer. One that is not naturally aligned, or not of 4 or 8 bytes, is no atomic; one refused by
the tier map is recorded (R437); one that meets bad data does not write (R379). -/
def State.atomicCmd (s : State) (addr width : Nat) (flt : Bool) (f : Nat → Nat) : State :=
  if (width = 4 ∨ width = 8) ∧ addr % width = 0 ∧ inMemRegions addr 1 = true then
    match s.atomicAt addr width flt f with
    | .ok (old, s) => { s with reply := some (BitVec.ofNat 64 old) }
    | .error f => { s.failRecord f addr none with reply := none }
  else s

/-- A signed choice between the old value and the operand. -/
def signedPick (w : Nat) (hi : Bool) (v old : Nat) : Nat :=
  if (decide (sext (8 * w) old < sext (8 * w) v)) == hi then v % 2 ^ (8 * w) else old

/-- ADD (R377). -/
def execAdd (addr width : Nat) (v : Word) (s : State) : Outcome :=
  .next (s.atomicCmd addr width false (fun old => (old + v.toNat) % 2 ^ (8 * width)))

/-- AND (R377). -/
def execAnd (addr width : Nat) (v : Word) (s : State) : Outcome := .next (s.atomicCmd addr width false (fun old => old.land v.toNat))

/-- OR (R377). -/
def execOr (addr width : Nat) (v : Word) (s : State) : Outcome :=
  .next (s.atomicCmd addr width false (fun old => old.lor (v.toNat % 2 ^ (8 * width))))

/-- XOR (R377). -/
def execXor (addr width : Nat) (v : Word) (s : State) : Outcome :=
  .next (s.atomicCmd addr width false (fun old => old.xor (v.toNat % 2 ^ (8 * width))))

/-- SWAP (R377). -/
def execSwap (addr width : Nat) (v : Word) (s : State) : Outcome :=
  .next (s.atomicCmd addr width false (fun _ => v.toNat % 2 ^ (8 * width)))

/-- CAS (R377). -/
def execCas (addr width : Nat) (cmp v : Word) (s : State) : Outcome :=
  .next (s.atomicCmd addr width false (fun old => if old = cmp.toNat % 2 ^ (8 * width) then v.toNat % 2 ^ (8 * width) else old))

/-- SMIN (R377). -/
def execSmin (addr width : Nat) (v : Word) (s : State) : Outcome :=
  .next (s.atomicCmd addr width false (fun old => signedPick width false v.toNat old))

/-- SMAX (R377). -/
def execSmax (addr width : Nat) (v : Word) (s : State) : Outcome :=
  .next (s.atomicCmd addr width false (fun old => signedPick width true v.toNat old))

/-- UMIN (R377). -/
def execUmin (addr width : Nat) (v : Word) (s : State) : Outcome :=
  .next (s.atomicCmd addr width false (fun old => min old (v.toNat % 2 ^ (8 * width))))

/-- UMAX (R377). -/
def execUmax (addr width : Nat) (v : Word) (s : State) : Outcome :=
  .next (s.atomicCmd addr width false (fun old => max old (v.toNat % 2 ^ (8 * width))))

/-- RNE(old + operand) in FP32, as bits. -/
def faddBits32 (v old : Nat) : Nat := ieeeBits 8 23 (Num.add (ieeeNum 8 23 old) (ieeeNum 8 23 (v % 2 ^ 32))).r32

/-- RNE(old + operand) in FP64, as bits. -/
def faddBits64 (v old : Nat) : Nat := ieeeBits 11 52 (Num.add (ieeeNum 11 52 old) (ieeeNum 11 52 v)).r64

/-- FADD32 (R377). -/
def execFadd32 (addr : Nat) (v : Word) (s : State) : Outcome := .next (s.atomicCmd addr 4 true (faddBits32 v.toNat))

/-- FADD64 (R377). -/
def execFadd64 (addr : Nat) (v : Word) (s : State) : Outcome := .next (s.atomicCmd addr 8 true (faddBits64 v.toNat))

/-! ### Refresh and scrub (R397, R398) -/

/-- The consecutive cool readings against one threshold: `k` 0 for 85 °C, 1 for 95 °C. -/
def State.coolCount (s : State) (stack k : Nat) (limit t : Int) : Nat × State :=
  let n := if t ≤ limit - 3 then s.cool.get (fun _ => 0) (2 * stack + k) + 1 else 0
  (n, { s with cool := s.cool.set (fun _ => 0) (2 * stack + k) n })

/-- TEMPERATURE_READOUT (R397, Table 12.7): `none` where the readout fails. From 16 on `stack` names a deep-tier package, whose readout sets DTC_STAT.TEMP
(R454). -/
def execTemperatureReadout (stack : Nat) (temp : Option Int) (s : State) : Outcome :=
  if 32 ≤ stack then .next s
  else if 16 ≤ stack then .next (match temp with
    | some t => s.put (Reg.dtcStat (stack - 16)) 31 24 (trunc 8 t)
    | none => s)
  else
    let (inj, s) := s.takeInj (Reg.hbcInj stack) 4 0
    match (if inj then none else temp) with
    | none =>
      .next ((s.put (Reg.hbcStat stack) 23 22 3).detect
        { cls := 2, sev := 1, rtype := 0, det := 0x23, inj := inj, dom := 2, inst := 16 * stack })
    | some t =>
      let (c0, s) := s.coolCount stack 0 85 t
      let (c1, s) := s.coolCount stack 1 95 t
      let was := s.fld (Reg.hbcStat stack) 23 22
      let now := if 95 ≤ t then 2
        else if was = 3 then (if 85 ≤ t then 1 else 0)
        else if was = 2 ∧ c1 < 10 then 2
        else if 85 ≤ t ∨ (0 < was ∧ c0 < 10) then 1
        else 0
      .next ((s.put (Reg.hbcStat stack) 31 24 (trunc 8 t)).put (Reg.hbcStat stack) 23 22 now)

/-- PATROL_SCRUB (R398): a pass over every class W unit of the stack; `errs` are the units it finds wrong. -/
def execPatrolScrub (stack : Nat) (errs : List (Nat × Nat)) (s : State) : Outcome :=
  if 16 ≤ stack then .next s
  else
    let mine := errs.filter (fun e => inMemRegions e.1 1 && bit (s.tir (groupOf e.1)) 63 && !bit (s.tir (groupOf e.1)) 62 &&
      bits (s.tir (groupOf e.1)) 49 46 == stack && !s.isClassA e.1)
    .next ((s.unitErrors none mine).put (Reg.hbcScrub stack) 63 32 (s.fld (Reg.hbcScrub stack) 63 32 + 1))

/-! ### Map-out (R400 to R402, R452) -/

/-- TIR_HFREE: the free slots of the stacks (Table 14.11). -/
def State.syncHfree (s : State) : State := s.put Reg.tirHfree 19 0 ((List.range 16).map s.slotsFree).sum

/-- A channel is to be mapped out: it drains (Table 12.9). -/
def State.mapOut (s : State) (stack c : Nat) : State :=
  if s.flag (Reg.hbcStat stack) (48 + c) || s.flag (Reg.hbcStat stack) (32 + c) then s
  else (s.putBit (Reg.hbcStat stack) (32 + c) true).putBit (Reg.hbcStat stack) 1 false

/-- Keys of a group moved to another name: `per` keys a group. -/
def moveKeys {α : Type} (per g h : Nat) (t : Tab α) : Tab α :=
  let mine := (t.filter (fun e => e.1 / per == g)).map (fun e => (e.1 - g * per + h * per, e.2))
  let rest := t.filter (fun e => e.1 / per != g && e.1 / per != h)
  (rest.filter (fun e => decide (e.1 < h * per))) ++ mine ++ (rest.filter (fun e => decide (h * per ≤ e.1)))

/-- The list entries of GROUPED segments that name a group: their addresses. -/
def State.listEntries (s : State) (g : Nat) : List Nat :=
  let segs := s.regs.filter (fun e => decide (0x0F0002000000 ≤ e.1) && decide (e.1 < 0x0F0002100000) && e.1 % 16 == 0 && bit e.2 63 && bit e.2 60)
  let all := (segs.map (fun e =>
    let base := bits e.2 43 12 * 4096
    (List.range (s.fld (e.1 + 8) 43 12 / 512)).map (fun k => base + 8 * k))).flatten
  (all.eraseDups).filter (fun a => inMemRegions a 8 && match s.readWords a 1 with
    | .ok [w] => bit w 63 && bits w 43 21 == g
    | _ => false)

/-- Write back and drop every copy of a group's lines. -/
def State.recallGroup (s : State) (g : Nat) : State :=
  (s.dirLines.filter (fun e => e.1 / 2 ^ 15 == g)).foldl (fun s e => s.dropLine (64 * e.1) false) s

/-- Rename a group in a captured translation. -/
def Place.rename (g h : Nat) : Place → Place
  | .linear b => .linear b
  | .grouped f ns => .grouped f (ns.map (fun n => if n = g then h else n))
  | .split p lo hi q => .split (p.rename g h) lo hi (q.rename g h)

/-- Rename a group in the objects of a list. -/
def renameObjs (g h : Nat) (os : List (Nat × Obj)) : List (Nat × Obj) := os.map (fun x => (x.1, { x.2 with place := x.2.place.rename g h }))

/-- The lowest unassigned name of a range of names. -/
def State.freeName (s : State) (lo : Nat) : Nat → Option Nat
  | 0 => none
  | n + 1 => if bit (s.tir lo) 63 then s.freeName (lo + 1) n else some lo

/-- Give one group a new name below `top`, or in the deep-tier region; with none left its content is lost (R452). -/
def State.relocateOne (s : State) (top g : Nat) : State :=
  let s := s.recallGroup g
  let name := match s.freeName 0 top with
    | some n => some n
    | none => s.freeName (2 ^ 19) (2 ^ 19)
  match name with
  | some h =>
    let es := s.listEntries g
    let e := s.tir g
    let s := (s.setTir g 0).setTir h e
    let s := { s with mem := moveKeys (2 ^ 21) g h s.mem, tags := moveKeys (2 ^ 21) g h s.tags, marks := moveKeys (2 ^ 15) g h s.marks,
                      migs := s.migs.map (fun (m : MigRec) => if m.group = g then { m with group := h } else m) }
    let es := es.map (fun a => if a / 2 ^ 21 = g then a - g * 2 ^ 21 + h * 2 ^ 21 else a)
    let s := es.foldl (fun s a => s.poke a (bytesOf 8 (word [(63, 1), (21, h)]).toNat)) s
    let ren := fun (o : OpRec) => { o with objs := renameObjs g h o.objs, objs2 := renameObjs g h o.objs2, att := o.att.map (fun es => es.map (fun (e : AttEntry) =>
      { e with kv := e.kv.map (fun x => { x with place := x.place.rename g h }) })) }
    let s := { s with ops := s.ops.map ren, journal := s.journal.map ren }
    let s := (s.bump Reg.trnReloc 63 32 1).bump Reg.trnReloc 31 0 es.length
    s.form { cls := 7, sev := 0, rtype := 3, det := 0x71, addr := g * 2 ^ 21, info := h }
  | none =>
    let s := { (s.setTir g 0) with mem := s.mem.clear (g * 2 ^ 21) ((g + 1) * 2 ^ 21), tags := s.tags.clear (g * 2 ^ 21) ((g + 1) * 2 ^ 21),
                                   marks := s.marks.clear (g * 2 ^ 15) ((g + 1) * 2 ^ 15) }
    s.form { cls := 7, sev := 2, rtype := 3, det := 0x71, addr := g * 2 ^ 21 }

/-- Relocate every assigned group of the HBM region named at or above `top`. -/
def State.relocate (s : State) (top : Nat) : State :=
  ((s.tirEntries.filter (fun e => bit e.2 63 && decide (top ≤ e.1) && decide (e.1 < 2 ^ 19))).map Prod.fst).foldl (fun s g => s.relocateOne top g) s

/-- Channels leave a stack for good: CHDRAIN and CHOUT, HBC_CAP, TIR_HFREE (R400, R370). -/
def State.channelsOut (s : State) (stack : Nat) (cs : List Nat) : State :=
  let s := cs.foldl (fun s c => (s.putBit (Reg.hbcStat stack) (32 + c) false).putBit (Reg.hbcStat stack) (48 + c) true) s
  let s := s.put Reg.hbcCap 10 0 (s.fld Reg.hbcCap 10 0 - 4 * cs.length)
  s.put Reg.hbcCap 40 32 (s.fld Reg.hbcCap 40 32 + cs.length)

/-- A stack is retired: its update unit and its slice take no further work (R402). -/
def State.retireStack (s : State) (stack : Nat) : State :=
  let s := (s.putBit (Reg.hbcStat stack) 3 true).putBit (Reg.hbcStat stack) 1 false
  { (s.unitOut (40 + stack)) with mscOut := s.mscOut.set (fun _ => false) stack true }

/-- The record of a map-out: the RESOLVE of the channel's recovery, or a record of the memory class of its own (R403). -/
def State.mapOutRecord (s : State) (stack c : Nat) : State :=
  let r := repairEntry 5 stack c
  match s.testFault 2 (16 * stack + c) with
  | some w => if w.busy || w.into != 0 then s.settleFault w 4 r else s.outRecord (16 * stack + c) r
  | none => s.outRecord (16 * stack + c) r

/-- CHANNEL_DRAINED (R400): once no group holds a slot that goes, the channel is MAPPED_OUT; where fewer than 8 would remain, all go and the stack is
retired (R402). -/
def execChannelDrained (stack chan : Nat) (s : State) : Outcome :=
  if 16 ≤ stack ∨ 16 ≤ chan ∨ s.flag (Reg.hbcStat stack) (32 + chan) = false then .next s
  else
    let all := (List.range 16).filter (fun c => !s.flag (Reg.hbcStat stack) (48 + c))
    let retire := decide (all.length - 1 < 8)
    let gone := if retire then all else [chan]
    if (s.slotsUsed stack).any (fun k => decide (2048 * (all.length - gone.length) ≤ k)) then .next s
    else
      let s := s.relocate (512 * (s.fld Reg.hbcCap 10 0 - 4 * gone.length))
      let s := s.channelsOut stack gone
      let s := if retire then s.retireStack stack else s.putBit (Reg.hbcStat stack) 1 (decide (s.fld (Reg.hbcStat stack) 47 32 = 0))
      .next (gone.foldl (fun s c => s.mapOutRecord stack c) s.syncHfree)

/-! ### Injections (R404) -/

/-- HBC_INJ KIND 1. -/
def execHbcInjWOneSymbol (ag : Agent) (n pc : Nat) (s : State) : Outcome := if isRig ag then .next (s.arm (Reg.hbcInj n) 1 pc) else .next s

/-- HBC_INJ KIND 2. -/
def execHbcInjWFourSymbols (ag : Agent) (n pc : Nat) (s : State) : Outcome := if isRig ag then .next (s.arm (Reg.hbcInj n) 2 pc) else .next s

/-- HBC_INJ KIND 3. -/
def execHbcInjACrc (ag : Agent) (n pc : Nat) (s : State) : Outcome := if isRig ag then .next (s.arm (Reg.hbcInj n) 3 pc) else .next s

/-- HBC_INJ KIND 4. -/
def execHbcInjReadoutFailure (ag : Agent) (n : Nat) (s : State) : Outcome := if isRig ag then .next (s.arm (Reg.hbcInj n) 4 0) else .next s

/-- MSC_INJ KIND 1. -/
def execMscInjOneBit (ag : Agent) (n : Nat) (s : State) : Outcome := if isRig ag then .next (s.arm (Reg.mscInj n) 1 0) else .next s

/-- MSC_INJ KIND 2. -/
def execMscInjTwoBits (ag : Agent) (n : Nat) (s : State) : Outcome := if isRig ag then .next (s.arm (Reg.mscInj n) 2 0) else .next s

end Sys2Proof.Machine
end

