-- ==== Sys2Proof/Machine/Tiers.lean ====
section
/-! DEFINITION. Tiers, the unified range and segment translation (chapter 14): first writes, migration, release, invalidation, COPY, FILL and PLACE, the
deep tier's sectors. A work unit of COPY and FILL is a tile of D that the extents cover, in the order of `Desc.tilesCovered`; PLACE is one unit. -/

namespace Sys2Proof.Machine

/-! ### Checks of COPY, FILL and PLACE (R459, R460) -/

/-- Field step, beside the EPI word. -/
def moveFields (d : Desc) : List (Nat × Bool) :=
  match d.op with
  | 0 => [d.rndField 413, d.resv 410 2, d.resv 384 26, d.resv 480 32]
  | 1 => [d.rndField 413, d.resv 410 2, d.resv 384 26]
  | _ => [d.resv 413 3, d.resv 412 1, (410, d.at 410 2 == 0 || d.at 410 2 == 3), d.resv 384 26, d.resv 480 32, d.resv 448 32]

/-- Has an object the extents? -/
def Desc.within (d : Desc) (o : Obj) : Bool := decide (d.ext 0 ≤ o.rows) && decide (d.ext 1 ≤ o.cols) && decide (d.ext 2 ≤ o.planes)

/-- Do the extents cover a block-format object in whole blocks? -/
def Desc.wholeIn (d : Desc) (o : Obj) : Bool :=
  let b := fmtBlk o.fmt
  b == 0 || if colAxis o.fmt then d.ext 0 % b == 0 || d.ext 0 == o.rows else d.ext 1 % b == 0 || d.ext 1 == o.cols

/-- Do the extents cover whole tiles of an object? -/
def Desc.wholeTiles (d : Desc) (o : Obj) : Bool :=
  (d.ext 0 % 128 == 0 || d.ext 0 == o.rows) && (d.ext 1 % 128 == 0 || d.ext 1 == o.cols)

/-- Object step. -/
def moveObjs (d : Desc) (n : Named) : List (Nat × Bool) :=
  let any := fun (o : Obj) => o.fmt != fHIST && d.within o && (o.rank != 1 || d.ext 1 == 1)
  let out := fun (o : Obj) => any o && d.wholeIn o &&
    (o.fmt != fLUT4 || d.op == 0 && d.wholeTiles o && n.with 0 (fun a => a.fmt == fLUT4))
  match d.op with
  | 0 => [n.need 0 any, n.no 1, n.no 2, n.need 3 out]
  | 1 => [n.no 0, n.no 1, n.no 2, n.need 3 out]
  | _ => [n.need 0 (fun o => o.fmt != fHIST && d.within o), n.no 1, n.no 2, n.no 3]

/-! ### COPY and FILL (R459 to R461) -/

/-- Is a COPY without conversion and without an epilogue record (R629)? -/
def OpRec.rawCopy (o : OpRec) : Bool :=
  match o.obj 0, o.obj 3 with
  | some a, some d => a.fmt == d.fmt && o.rc 1 == []
  | _, _ => false

/-- The rounding of COPY and FILL. -/
def OpRec.moveRounding (o : OpRec) : Rounding := ⟨o.d.at 413 3, o.d.at 412 1 == 1, recAt (o.rc 1) 2 27 0⟩

/-- The codes and side data of the covered elements of a tile of A, as D takes them where the formats agree. -/
def copyOut (o : OpRec) (s : State) (a d : Obj) (p r c : Nat) : Except WorkFail TileOut := do
  let ad := a.tileAddr p r c
  let code := fun i j =>
    if o.d.coverIn r c i j then slotted 0 ad (s.code (s.reader o) a p (128 * r + i) (128 * c + j)) else .ok 0
  let vr := d.vrows r
  let vc := d.vcols c
  let lines ← if colAxis d.fmt then (List.range vc).mapM (fun j => (List.range vr).mapM (fun i => code i j))
    else (List.range vr).mapM (fun i => (List.range vc).mapM (fun j => code i j))
  let ks := if fmtBlk d.fmt = 0 then [] else (List.range (16384 / fmtBlk d.fmt)).filter (covers d.fmt vr vc (o.d.coverIn r c))
  let sides ← ks.mapM (fun k => do
    let v ← slotted 0 ad (s.readBits a (8 * (a.tileOff p r c + sideAt a.fmt k)) (8 * fmtSide a.fmt))
    return (k, v))
  return ⟨lines.map (fun l => l.map (fun v => ⟨v, false, false⟩)), sides, []⟩

/-- The table of a LUT4 tile goes with its codes (R122). -/
def copyTable (o : OpRec) (a d : Obj) (p r c : Nat) (s : State) : Except WorkFail State :=
  if d.fmt = fLUT4 then do
    let bs ← slotted 0 (a.tileAddr p r c) (s.readObj a (a.tileOff p r c + 8192) 32)
    slotted 3 (d.tileAddr p r c) (s.writeObj (o.wr d true) d (d.tileOff p r c + 8192) bs)
  else .ok s

/-- The last tile that the op writes, which carries LAST (R624). -/
def lastCovered (o : OpRec) (d : Obj) : Nat :=
  match o.d.tilesCovered.getLast? with
  | some (p, r, c) => d.tileNo p r c
  | none => 0

/-- Work unit `u` of a COPY. A copy without conversion is not watched (R135). -/
def copyUnit (unit : Nat) (o : OpRec) (s : State) (u : Nat) : Except WorkFail (OpRec × State) :=
  match o.obj 0, o.obj 3, o.d.tilesCovered[u]? with
  | some a, some d, some (p, r, c) => do
    let cov := fun i j => o.d.coverIn r c i j
    let fresh := !o.done.contains u
    if o.rawCopy then
      let t ← copyOut o s a d p r c
      let s ← slotted 3 (d.tileAddr p r c) (s.storeTile o d true (lastCovered o d) p r c cov t)
      let s ← copyTable o a d p r c s
      return s.wroteTile o d p r c
    else
      let xs ← (List.range (d.vrows r)).mapM (fun i => (List.range (d.vcols c)).mapM (fun j =>
        if cov i j then slotted 0 (a.tileAddr p r c) (s.elt (s.reader o) a p (128 * r + i) (128 * c + j)) else .ok (.zero, false)))
      let x := fun i j => (xs.getD i []).getD j (.zero, false)
      if a.fmt = d.fmt then
        let t ← copyOut o s a d p r c
        let (o, s) ← storeEncoded o s unit d (lastCovered o d) p r c cov o.moveRounding false fresh x t
        return (o, ← copyTable o a d p r c s)
      else storeResult o s unit d (lastCovered o d) p r c cov o.moveRounding fresh x
  | _, _, _ => .ok (o, s)

/-- COPY (R459): a raw copy on a strand bundle or on no unit, any other on a VXE. -/
def execCopy (q sn unit first n : Nat) (s : State) : Outcome :=
  match s.opAny q sn with
  | none => .next s
  | some o =>
    if (if o.rawCopy then (152 ≤ unit ∧ unit < 184) ∨ unit = 255 else 16 ≤ unit ∧ unit < 32) then
      .next (s.workOn (if o.rawCopy then unmet else fun s => s.meetVxe (unit - 16) [3]) 6 0 q sn unit first n (copyUnit unit)).settle
    else .next s

/-- Work unit `u` of a FILL. -/
def fillUnit (unit : Nat) (o : OpRec) (s : State) (u : Nat) : Except WorkFail (OpRec × State) :=
  match o.obj 3, o.d.tilesCovered[u]? with
  | some d, some (p, r, c) =>
    let v := f32n (o.d.par 1)
    storeResult o s unit d (lastCovered o d) p r c (fun i j => o.d.coverIn r c i j) o.moveRounding (!o.done.contains u)
      (fun _ _ => (v, !v.isFin))
  | _, _ => .ok (o, s)

/-- FILL (R459), on a VXE. -/
def execFill (q sn unit first n : Nat) (s : State) : Outcome :=
  if 16 ≤ unit ∧ unit < 32 then .next (s.workOn (fun s => s.meetVxe (unit - 16) [3]) 6 1 q sn unit first n (fillUnit unit)).settle else .next s

/-! ### First writes (R448) -/

/-- FIRST_WRITE (R448): the first write of an op to an unassigned group of a result object places it, or is refused for want of room. -/
def execFirstWrite (q sn role group : Nat) (s : State) : Outcome :=
  match s.op? q sn with
  | none => .next s
  | some o =>
    match o.obj role with
    | none => .next s
    | some x =>
      if o.phase = .started ∧ o.failing = none ∧ o.writes role = true ∧ (x.groups 0 x.size).contains group = true ∧
          bit (s.tir group) 63 = false then
        match s.placeGroup group (o.wr x (role == 3)) with
        | .ok s => .next s
        | .error f => .next (s.workFails o 1024 ⟨min role 3, f, group * 2 ^ 21⟩)
      else .next s

/-! ### Migration (R449 to R451) -/

/-- May the Rigger migrate this group there: unpinned, or pinned and bound for its pinned tier, or off a stack that drains or whose update unit is out
(R449)? -/
def State.mayMigrate (s : State) (g tier : Nat) : Bool :=
  let e := s.tir g
  let pin := bits e 58 57
  let st := bits e 49 46
  pin == 0 || pin == tier + 1 || !bit e 62 && (s.fld (Reg.hbcStat st) 47 32 != 0 || !s.flag (Reg.uuStat st) 1)

/-- MIGRATION_START (R450): tier 0 is HBM. -/
def execMigrationStart (group tier stack : Nat) (s : State) : Outcome :=
  let e := s.tir group
  let here := bits e 62 62 == tier && (tier == 1 || bits e 49 46 == stack)
  if group < 2 ^ 20 ∧ tier < 2 ∧ stack < 16 ∧ bit e 63 = true ∧ bit e 60 = false ∧ here = false ∧ s.mayMigrate group tier = true ∧
      s.roomFor group tier stack = true then
    .next { (s.setTir group (putBits e 60 60 1)) with migs := s.migs ++ [⟨group, tier, stack, List.range 32⟩] }
  else .next s

/-- MIGRATION_SWITCH (R451): the chunks still to copy have been copied; with room at the destination the entry flips. -/
def execMigrationSwitch (group : Nat) (s : State) : Outcome :=
  match s.migs.find? (fun m => m.group == group) with
  | none => .next s
  | some m => if s.roomFor group m.tier m.stack then .next (s.moveTo group m.tier m.stack) else .next s

/-- MIGRATION_ABANDON (R450): the group stays at its source. -/
def execMigrationAbandon (group : Nat) (s : State) : Outcome :=
  if s.migs.any (fun m => m.group == group) then
    .next { (s.setTir group (putBits (s.tir group) 60 60 0)) with migs := s.migs.filter (fun m => m.group != group) }
  else .next s

/-! ### PLACE (R461) -/

/-- The groups that A's extent touches: the covered tiles, or the first elements of a rank-1 object. -/
def OpRec.placeGroups (o : OpRec) (a : Obj) : List Nat :=
  if o.d.ext 0 = 0 ∨ o.d.ext 1 = 0 ∨ o.d.ext 2 = 0 then []
  else if a.rank < 2 then a.groups 0 (ceilDiv (o.d.ext 0 * fmtWidth a.fmt) 8)
  else ((o.d.tilesCovered.map (fun t => a.groups (a.tileOff t.1 t.2.1 t.2.2) (fmtStride a.fmt))).flatten).eraseDups

/-- Where group `g` of a PLACE goes: one of an APPLY's to no stack whose update unit is out (R330). -/
def State.placeDest (s : State) (g tier : Nat) : Option Nat :=
  if tier = 1 then (if s.deepRoom then some 0 else none) else s.bestStack (fun n => s.stackIn n && (s.flag (Reg.uuStat n) 1 || !s.updateGroup g))

/-- Move each group that is not in its tier, until one finds no room. -/
def State.placeAll (s : State) (tier : Nat) : List Nat → Bool × State
  | [] => (true, s)
  | g :: gs =>
    let e := s.tir g
    if !bit e 63 || bits e 62 62 == tier then s.placeAll tier gs
    else match s.placeDest g tier with
      | some n => (s.moveTo g tier n).placeAll tier gs
      | none => (false, s)

/-- Pin every assigned group of a list that resides in the tier. -/
def State.pinAll (s : State) (tier : Nat) (gs : List Nat) : State :=
  gs.foldl (fun s g => if bit (s.tir g) 63 && bits (s.tir g) 62 62 == tier then s.setTir g (putBits (s.tir g) 58 57 (tier + 1)) else s) s

/-- PLACE, whole. With no group to move it ends ZERO_WORK; without room ADDR_FAULT in slot 0. -/
def placeUnit (o : OpRec) (s : State) (_u : Nat) : Except WorkFail (OpRec × State) :=
  match o.obj 0 with
  | none => .ok (o, s)
  | some a =>
    let tier := o.d.at 410 2 - 1
    let gs := o.placeGroups a
    let idle := gs.all (fun g => !bit (s.tir g) 63 || bits (s.tir g) 62 62 == tier)
    let (ok, s) := s.placeAll tier gs
    let s := s.pinAll tier gs
    let o := if idle then { o with units := 0 } else o
    .ok (if ok then o else { o with aux := o.aux.set (fun _ => 0) 207 1 }, s)

/-- PLACE (R461): the groups as they stand when it runs. -/
def execPlace (q sn unit first n : Nat) (s : State) : Outcome :=
  if unit = 255 then
    let s := s.workOn unmet 6 2 q sn unit first n placeUnit
    match s.op? q sn with
    | some o =>
      if o.d.cls = 6 ∧ o.d.op = 2 ∧ o.aux.get (fun _ => 0) 207 = 1 ∧ o.failing = none then
        let a := match o.obj 0 with
          | some x => x.addr 0
          | none => 0
        .next ((s.addrRecord a (some (q, sn, o.ctx))).failOp q sn stAddrFault 0)
      else .next s
    | none => .next s
  else .next s

/-! ### Release (R453) -/

/-- A group returns to UNASSIGNED: copies of its lines are dropped, its content is gone, its room is free. -/
def State.releaseGroup (s : State) (g : Nat) : State :=
  let e := s.tir g
  if !bit e 63 then s
  else
    let s := if bit e 62 then s.put Reg.tirDfree 27 0 (s.fld Reg.tirDfree 27 0 + bits e 30 21)
      else if s.flag (Reg.hbcStat (bits e 49 46)) 3 then s else s.put Reg.tirHfree 19 0 (s.fld Reg.tirHfree 19 0 + 1)
    { (s.setTir g 0) with
      mem := s.mem.clear (g * 2 ^ 21) ((g + 1) * 2 ^ 21), tags := s.tags.clear (g * 2 ^ 21) ((g + 1) * 2 ^ 21),
      marks := s.marks.clear (g * 2 ^ 15) ((g + 1) * 2 ^ 15), dirLines := s.dirLines.clear (g * 2 ^ 15) ((g + 1) * 2 ^ 15),
      lr := s.lr.filter (fun p => (p.2 - 1) / 2 ^ 15 != g), migs := s.migs.filter (fun m => m.group != g) }

/-- TIR_RELEASE (R453): with GO, COUNT groups from GROUP on; ignored while one is in progress. -/
def execTirRelease (ag : Agent) (v : Word) (s : State) : Outcome :=
  if Who.barRig.admits ag && bit v 0 && !s.flag Reg.tirStat 0 then
    let g := bits v 43 21
    let gs := (s.tirEntries.map Prod.fst).filter (fun k => decide (g ≤ k) && decide (k < g + bits v 20 1))
    .next ((gs.foldl (fun s k => s.releaseGroup k) s).putBit Reg.tirStat 0 true)
  else .next s

/-- TIR_RELEASE_DONE (R453): BUSY clears. -/
def execTirReleaseDone (s : State) : Outcome := .next (s.putBit Reg.tirStat 0 false)

/-! ### Withdrawing mappings (R462, R463) -/

/-- The units that acknowledge a range: engines, update units, ports, the intake engine, the Rigger's staging (254), the MSC reductions (255). -/
def ackUnits : List Nat := List.range 56 ++ (List.range 96).map (· + 56) ++ [184, 254, 255]

/-- PENDING follows the units yet to acknowledge. -/
def State.setInv (s : State) (i : Option InvRec) : State :=
  let n := match i with
    | some i => i.units.length
    | none => 0
  ({ s with inv := i } : State).put Reg.trnStat 31 16 n

/-- The invalidation ends: captured translations are the new ones, BUSY clears, INVCNT counts. -/
def State.invEnd (s : State) (ctx : Nat) : State :=
  let f := fun (o : OpRec) => if o.ctx = ctx ∧ o.objs2 ≠ [] then { o with objs := o.objs2, objs2 := [] } else o
  let s := { s with ops := s.ops.map f, journal := s.journal.map f }
  ((s.setInv none).putBit Reg.trnStat 0 false).bump Reg.trnStat 63 32 1

/-- TRN_INV (R463): with GO, and none in progress; a range of no pages completes at once. -/
def execTrnInv (ag : Agent) (v : Word) (s : State) : Outcome :=
  if !Who.barRig.admits ag then .next s
  else if s.flag Reg.trnStat 0 then .next (s.putBit Reg.trnStat 1 true)
  else if !bit v 0 then .next s
  else
    let ctx := bits v 63 52
    let all := bit v 47
    let len := s.fld Reg.trnInvrng 63 32
    if !all && len == 0 then .next (s.bump Reg.trnStat 63 32 1)
    else
      let drain := s.flag Reg.trnCfg 0
      let ops := (s.ops.filter (fun o => o.ctx == ctx && o.phase != .ended)).map (fun o => (o.q, o.s))
      let i : InvRec := ⟨ctx, bits v 51 48, if all then 0 else s.fld Reg.trnInvrng 31 0, if all then 2 ^ 33 else len,
        if drain then [] else ackUnits, drain, if drain then ops else []⟩
      .next ((s.setInv (some i)).putBit Reg.trnStat 0 true)

/-- An object translated again over the range: the part in the range through the segment entry and group list as they stand; `none` where the translation
fails. -/
def State.retranslate (s : State) (i : InvRec) (o : OpRec) (x : Nat × Obj) : Option (Nat × Obj) :=
  let ob := x.2
  let lo := i.off * 4096
  let hi := (i.off + i.len) * 4096
  if ob.seg ≠ i.seg ∨ ob.off + ob.size ≤ lo ∨ hi ≤ ob.off ∨ ob.size = 0 then some x
  else
    match translate s o.ctx (min x.1 3) ob (!o.writes x.1) (o.writes x.1) with
    | .error _ => none
    | .ok y => some (x.1, if lo ≤ ob.off ∧ ob.off + ob.size ≤ hi then y else { ob with place := .split ob.place lo hi y.place })

/-- Does an op have an unended piece on a unit? -/
def State.piecesOn (s : State) (o : OpRec) (unit : Nat) : Bool :=
  s.pieces.any (fun p => p.q == o.q && p.s == o.s && p.unit == unit && p.phase != .ended)

/-- Switch the ops of a list for a unit that acknowledges: an op whose translation fails, and which has work there, ends ADDR_FAULT. -/
def State.switchOps (s : State) (i : InvRec) (unit : Nat) : List OpRec → State
  | [] => s
  | o :: os =>
    let s :=
      if o.ctx ≠ i.ctx ∨ o.phase = .ended then s
      else
        match o.objs.find? (fun x => (s.retranslate i o x).isNone) with
        | some x => if s.piecesOn o unit then (s.addrRecord 0 (some (o.q, o.s, o.ctx))).failOp o.q o.s stAddrFault (min x.1 3) else s
        | none =>
          let os2 := o.objs.filterMap (s.retranslate i o)
          if os2 = o.objs then s else s.mapOp o.q o.s (fun p => { p with objs2 := os2 })
    s.switchOps i unit os

/-- RANGE_ACK (R462): the transfers of the unit under the old translation have finished; later ones use the new. -/
def execRangeAck (unit : Nat) (s : State) : Outcome :=
  match s.inv with
  | none => .next s
  | some i =>
    if i.drain || !i.units.contains unit then .next s
    else
      let s := s.setInv (some { i with units := i.units.filter (· != unit) })
      .next (s.switchOps i unit s.ops)

/-- TRN_INV_DONE (R463): every unit has acknowledged, or under DRAIN every op taken in before the write has ended. -/
def execTrnInvDone (s : State) : Outcome :=
  match s.inv with
  | none => .next s
  | some i =>
    let ended := i.ops.all (fun k => match s.op? k.1 k.2 with
      | some o => o.phase == .ended
      | none => true)
    if i.units.isEmpty && ended then .next (s.invEnd i.ctx) else .next s

/-! ### The deep tier (R457, R458) -/

/-- The channel on which the sectors of a chunk start (R455). -/
def chunkChannel (g k : Nat) : Nat := (k + g) % 16

/-- Failed sectors of a chunk: two or fewer of a class W chunk are rebuilt, more are uncorrectable and poison every unit of the chunk; in class A the units
fail their CRC, and the next read is a class A detection. -/
def State.sectorsFail (s : State) (g k failed : Nat) : State :=
  let e := s.tir g
  if !bit e 63 || !bit e 62 || failed == 0 || decide (32 ≤ k) || s.chunkSectors g k == 0 then s
  else
    let n := chunkChannel g k
    let all := fun (s : State) (m : Mark) => (List.range 1024).foldl (fun s u => s.setMark (chunkAt g k + 64 * u) m) s
    if bit e 61 then all s .badCrc
    else
      let (inj, s) := if failed = 1 then s.takeInj (Reg.dtcInj n) 1 0 else if failed = 3 then s.takeInj (Reg.dtcInj n) 2 0 else (false, s)
      let f : FaultIn := { cls := 2, sev := 1, rtype := 0, det := 0x26, inj := inj, dom := 2, inst := 256 + n, addr := chunkAt g k }
      if failed ≤ 2 then (s.bump (Reg.dtcErrcnt n) 63 48 failed).detect f
      else ((all s .poison).bump (Reg.dtcErrcnt n) 47 32 1).detect { f with sev := 2, det := 0x27 }

/-- SECTOR_REBUILD (R457). -/
def execSectorRebuild (group chunk failed : Nat) (s : State) : Outcome := .next (s.sectorsFail group chunk failed)

/-- DEEP_TIER_SCRUB (R457): every class W chunk; `errs` are the chunks with failed sectors, as (group, chunk, sectors). -/
def execDeepTierScrub (errs : List (Nat × Nat × Nat)) (s : State) : Outcome :=
  .next (errs.foldl (fun s e => if bit (s.tir e.1) 61 then s else s.sectorsFail e.1 e.2.1 e.2.2) s)

/-- Deep-tier channels mapped out. -/
def State.dtcOuts (s : State) : Nat := ((List.range 16).map (fun n => s.fld (Reg.dtcStat n) 2 2)).sum

/-- Groups of the deep tier, lowest name first, go to HBM until `share` sectors are free, as long as HBM has room for them (R458). -/
def State.freeDeep (s : State) (share : Nat) : List Nat → State
  | [] => s
  | g :: gs =>
    if share ≤ s.fld Reg.tirDfree 27 0 then s
    else match s.placeDest g 0 with
      | some n => (s.moveTo g 0 n).freeDeep share gs
      | none => s.freeDeep share gs

/-- A deep-tier channel is mapped out (R458): its chunks go to the others, the free sectors fall by its share; groups for which the tier then has no room go
to HBM first. -/
def State.dtcOut (s : State) (n : Nat) : State :=
  if s.flag (Reg.dtcStat n) 2 then s
  else
    let k := s.dtcOuts
    let share := Config.deepSectors k - Config.deepSectors (k + 1)
    let s := s.freeDeep share ((s.tirEntries.filter (fun e => bit e.2 63 && bit e.2 62)).map Prod.fst)
    ((s.putBit (Reg.dtcStat n) 2 true).putBit (Reg.dtcStat n) 1 false).put Reg.tirDfree 27 0 (s.fld Reg.tirDfree 27 0 - share)

/-- DTC_INJ KIND 1. -/
def execDtcInjOneSector (ag : Agent) (n : Nat) (s : State) : Outcome := if isRig ag then .next (s.arm (Reg.dtcInj n) 1 0) else .next s

/-- DTC_INJ KIND 2. -/
def execDtcInjThreeSectors (ag : Agent) (n : Nat) (s : State) : Outcome := if isRig ag then .next (s.arm (Reg.dtcInj n) 2 0) else .next s

/-- DTC_INJ KIND 3. -/
def execDtcInjClassASector (ag : Agent) (n : Nat) (s : State) : Outcome := if isRig ag then .next (s.arm (Reg.dtcInj n) 3 0) else .next s

end Sys2Proof.Machine
end

