-- ==== Sys2Proof/Machine/Reads.lean ====
section
/-! DEFINITION. What the reads of a command meet of the injections armed in the memories (R404, R595, Table 14.10): the first unit read that passes the
detector's check. -/

namespace Sys2Proof.Machine

/-! ### The tile stores (R590) -/

/-- A read of a bank of a tile store meets one wrong bit, corrected, or two. `case` 1: a copy that the Rigger staged, staged again; 2: a class A tile, whose
reader makes the detection of R394; else the op reading ends DATA_ERR with its operand slot. -/
def State.bankError (s : State) (addr : Nat) (two inj : Bool) (case : Nat) (op : Option (Nat × Nat × Nat)) (slot : Nat) : State :=
  match region addr with
  | .tile d b =>
    let i := 56 * d + b
    let f : FaultIn := { cls := 2, sev := 1, rtype := 0, det := 0x29, inj := inj, dom := 2, inst := 512 + i, addr := addr, op := op }
    if two then
      let s := s.bump Reg.fltTscnt 31 0 1
      if case = 1 then s.detect f
      else if case = 2 then s.setMark addr .badCrc
      else match op with
        | some (q, sn, _) => (s.detect { f with sev := 2 }).failOp q sn stDataErr slot
        | none => s.detect { f with sev := 2 }
    else (s.bump Reg.fltTscnt 63 32 1).countDet (0x29 * 65536 + i) f
  | _ => s

/-! ### Host links (R508) -/

/-- A read of an op over a host link receives no completion in time: the op ends HOST_LOST. -/
def State.readTimeout (s : State) (link : Nat) (op : Nat × Nat × Nat) (inj : Bool) : State :=
  ((s.bump (Reg.hlkErrcnt link) 47 32 1).detect { cls := 8, sev := 2, rtype := 0, det := 0x41, inj := inj, dom := 3, inst := 128 + link,
                                                  op := some op }).failOp op.1 op.2.1 stHostLost link

/-- One that completes with Unsupported Request or Completer Abort: the op ends ADDR_FAULT with the operand slot. -/
def State.readRefused (s : State) (link : Nat) (op : Nat × Nat × Nat) (slot : Nat) (inj : Bool) : State :=
  ((s.bump (Reg.hlkErrcnt link) 31 16 1).detect { cls := 8, sev := 2, rtype := 0, det := 0x42, inj := inj, dom := 3, inst := 128 + link,
                                                  op := some op }).failOp op.1 op.2.1 stAddrFault slot

/-! ### Injections that reads meet -/

/-- Is an address served over a host link, and is it this one? -/
def State.overLink (s : State) (a link : Nat) : Bool :=
  region a == .host && match s.hostAt a with
    | .ok (l, _, _) => l == link
    | .error _ => false

/-- The 64-byte units of spans, each with the operand slot for which it is read. -/
def unitsRead (xs : List (Nat × Nat × Nat)) : List (Nat × Nat) :=
  (xs.map (fun e => (List.range ((e.2.1 + e.2.2 + 63) / 64 - e.2.1 / 64)).map (fun k => (e.1, (e.2.1 / 64 + k) * 64)))).flatten

/-- Does unit `u` lie in a group that is held, in HBM or in the deep tier, and of which class? -/
def State.heldIn (s : State) (u : Nat) (deep classA : Bool) : Bool :=
  inMemRegions u 1 && bit (s.tir (groupOf u)) 63 && bit (s.tir (groupOf u)) 62 == deep && bit (s.tir (groupOf u)) 61 == classA

/-- Does an address lie in a class A tile, one with a tag? -/
def State.inTagged (s : State) (a : Nat) : Bool := s.tags.any (fun e => match e.2 with
  | some t => decide (e.1 ≤ a) && decide (a < e.1 + fmtStride t.fmt)
  | none => false)

/-- One armed injection meets the first unit of its kind that is read. -/
def State.meetUnit (op : Option (Nat × Nat × Nat)) (us : List (Nat × Nat)) (s : State) (a : Armed) : State :=
  let first := fun (p : Nat → Bool) (f : Nat × Nat → State) => match us.find? (fun e => p e.2) with
    | some e => f e
    | none => s
  match (List.range 17).find? (fun n => (n < 16 && (a.reg == Reg.hbcInj n || a.reg == Reg.dtcInj n)) || a.reg == Reg.mscInj n) with
  | some n =>
    if n < 16 ∧ a.reg = Reg.hbcInj n then
      first (fun u => decide (a.kind < 4) && s.heldIn u false (a.kind == 3) && bits (s.tir (groupOf u)) 49 46 == n && s.pcOf u == a.target)
        (fun e => if a.kind = 3 then s.setMark e.2 .badCrc else s.unitError op e.2 (if a.kind = 1 then 1 else 4))
    else if n < 16 ∧ a.reg = Reg.dtcInj n then
      first (fun u => s.heldIn u true (a.kind == 3) && chunkChannel (groupOf u) (u / 2 ^ 16 % 32) == n && s.chunkSectors (groupOf u) (u / 2 ^ 16 % 32) != 0)
        (fun e => s.sectorsFail (groupOf e.2) (e.2 / 2 ^ 16 % 32) (if a.kind = 2 then 3 else 1))
    else
      first (fun u => inMemRegions u 1 && bit (s.tir (groupOf u)) 63 && s.sliceOf u == n && !s.mscOut.get (fun _ => false) n)
        (fun e => let l := Config.mscLine s.free e.2
          (({ s with free := s.free + 1 } : State).disarm a.reg a.kind a.target).lineError n (l % 4096) (l / 4096 % 16) e.2 (a.kind == 2)
            (Config.mscDirty s.free e.2) true)
  | none =>
    if a.reg = Reg.fltInj ∧ (a.kind = 2 ∨ a.kind = 3) then
      first (fun u => match region u with
          | .tile d b => 56 * d + b == a.target && s.populated u
          | _ => false)
        (fun e => (s.disarm a.reg a.kind a.target).bankError e.2 (a.kind == 3) true (if s.inTagged e.2 then 2 else 3) op e.1)
    else match op, us.find? (fun e => s.overLink e.2 0 && (a.reg == Reg.hlkInj 0 && a.kind == 2 || a.reg == Reg.fltInj && a.kind == 7 && a.target == 0) ||
        s.overLink e.2 1 && (a.reg == Reg.hlkInj 1 && a.kind == 2 || a.reg == Reg.fltInj && a.kind == 7 && a.target == 1)) with
      | some op, some e =>
        let link := b2n (s.overLink e.2 1)
        let s := s.disarm a.reg a.kind a.target
        if a.reg = Reg.fltInj then s.readRefused link op e.1 true else s.readTimeout link op true
      | _, _ => s

/-- The holder of a dirty copy of a line writes it back and keeps it clean before an engine read is served (R414, Table 13.3). -/
def State.readLine (s : State) (a : Nat) (l : Line) : State :=
  match l.dirty with
  | some c => (s.writeBack a c).setLine a (some l.clean)
  | none => s

/-- The lines of spans that the directory holds. -/
def State.heldLines (s : State) (xs : List (Nat × Nat × Nat)) : List (Nat × Line) :=
  s.dirLines.filterMap (fun e => match s.line (64 * e.1) with
    | some l => if xs.any (fun x => decide (x.2.1 < 64 * e.1 + 64) && decide (64 * e.1 < x.2.1 + x.2.2)) then some (64 * e.1, l) else none
    | none => none)

/-- The reads of a command, as spans (operand slot, address, bytes): the directory serves the lines that it holds (R414), they hit or miss at the slices
(Table 12.14), and they meet the injections armed for them. -/
def State.meetReads (s : State) (op : Option (Nat × Nat × Nat)) (xs : List (Nat × Nat × Nat)) : State :=
  let s := (s.heldLines xs).foldl (fun s e => s.readLine e.1 e.2) s
  let s := xs.foldl (fun s e => if e.2.2 = 0 then s else s.mscCount e.2.1 e.2.2) s
  if s.armed.isEmpty then s else s.armed.foldl (State.meetUnit op (unitsRead xs)) s

end Sys2Proof.Machine
end

