-- ==== Sys2Proof/Machine/Coherent.lean ====
section
/-! DEFINITION. Server cores and the coherent domain (chapter 13): core accesses and the directory, engine accesses to HELD groups, atomics of the cores,
probes and holds, errors, and the failure of the domain.

A core is an agent outside the block: what it executes is not modelled, its accesses are commands. The answer of an access is `reply`; `none` where the
access takes an access fault, or waits for a hold and is made again. -/

namespace Sys2Proof.Machine

/-! ### Copies and lines -/

/-- The bytes of a line as its home holds them. -/
def State.homeBytes (s : State) (a : Nat) : List Byte :=
  let l := a / 64 * 64
  match region a with
  | .host => match s.hostAt l with
    | .ok (link, hpa, _) => (List.range 64).map (fun i => s.hostByte link (hpa + i))
    | .error _ => List.replicate 64 0
  | _ => (List.range 64).map (fun i => s.byte (l + i))

/-- Is a line filled from its home poisoned (R426)? -/
def State.homePoison (s : State) (a : Nat) : Bool :=
  match region a with
  | .host => false
  | _ => s.mark a != .good

/-- The copy of a core. -/
def Line.copyOf (l : Line) (core : Nat) : Option Copy := l.copies.find? (fun c => c.core == core)

/-- The copies of a line that another agent must probe and that are in their hold (R412). -/
def Line.holders (l : Line) (but : Nat) : List Nat := (l.copies.filter (fun c => c.hold && c.core != but)).map Copy.core

/-- The data of a line for a new holder: the dirty copy's, else the home's. -/
def State.lineData (s : State) (a : Nat) : List Byte × Bool :=
  match s.line a with
  | some l => match l.dirty with
    | some c => (c.bytes, c.poison)
    | none => match l.copies with
      | c :: _ => (c.bytes, c.poison)
      | [] => (s.homeBytes a, s.homePoison a)
  | none => (s.homeBytes a, s.homePoison a)

/-- Probes wait at copies in their hold; RIG_CDERR counts them. -/
def State.probeWaits (s : State) (a : Nat) (but : Nat) : State :=
  match s.line a with
  | none => s
  | some l =>
    let n := (l.copies.filter (fun c => c.hold && c.core != but && !c.waits)).length
    let l := { l with copies := l.copies.map (fun (c : Copy) => if c.hold && c.core != but then { c with waits := true } else c) }
    (s.setLine a (some l)).bump Reg.cderr 15 0 n

/-- Must an access of `but` wait for a hold? -/
def State.mustWait (s : State) (a : Nat) (but : Nat) : Bool :=
  match s.line a with
  | some l => !(l.holders but).isEmpty
  | none => false

/-- May a core run: the domain is RUNNING and the core is not held in reset (R428)? -/
def State.coreRuns (s : State) (core : Nat) : Bool :=
  decide (core < 64) && s.fld Reg.cdstat 1 0 == 0 && !s.coreHeld.get (fun _ => false) core

/-- Drop a core's reservation. -/
def State.dropLr (s : State) (core : Nat) : State := { s with lr := s.lr.set (fun _ => 0) core 0 }

/-- Reservations of other cores on a line are lost when it is won. -/
def State.loseLr (s : State) (a core : Nat) : State := { s with lr := s.lr.filter (fun p => p.2 != a / 64 + 1 || p.1 == core) }

/-! ### Faults of accesses -/

/-- The record of an access that reads a poisoned line (R426). -/
def State.poisonFault (s : State) (core a : Nat) : State :=
  (s.bump Reg.cderr 31 16 1).event 4 0x51 { cls := 4, sev := 0, rtype := 3, det := 0x51, dom := 5, addr := a, info := core }

/-- An access fault: the core takes its exception, the access is not performed (R407, R437). -/
def State.coreFault (s : State) (a : Nat) (record : Bool) : State :=
  { (if record then s.addrRecord a none else s) with reply := none }

/-- Is a main-memory access within one line? -/
def oneLine (a n : Nat) : Bool := decide (0 < n) && decide (n ≤ 8) && decide (a % 64 + n ≤ 64)

/-- Is an I/O access of an admitted width and naturally aligned (Table 13.2)? -/
def ioOk (a n : Nat) : Bool :=
  match region a with
  | .tile _ _ => (n == 1 || n == 2 || n == 4 || n == 8) && a % n == 0
  | .control => (n == 4 || n == 8) && a % n == 0
  | _ => false

/-- May a core reach this host-window page? -/
def State.hostOk (s : State) (a : Nat) : Bool :=
  match s.hostAt a with
  | .ok _ => true
  | .error _ => false

/-- Is the page withheld while a bias command runs (R501)? -/
def State.hostWaits (s : State) (a : Nat) : Bool :=
  region a == .host && match s.hostAt a with
    | .error .wait => true
    | _ => false

/-- Does an address lie in main memory that a core can reach now? -/
def State.mainOk (s : State) (a : Nat) : Bool :=
  match region a with
  | .hbm => s.populated a
  | .deep => true
  | .host => s.hostOk a
  | _ => false

/-- Is the region main memory? -/
def isMain (a : Nat) : Bool := region a == .hbm || region a == .deep || region a == .host

/-! ### Reads and writes of a core (Table 13.3) -/

/-- A read wins a copy: E where no other copy is, else S, a dirty holder keeping O (R410). -/
def State.winShared (s : State) (core a : Nat) : State :=
  let (bs, pz) := s.lineData a
  match s.line a with
  | none => (s.setLine a (some ⟨.excl, [⟨core, .e, bs, pz, true, false⟩]⟩)).mscCount a 64
  | some l =>
    if (l.copyOf core).isSome then s
    else
      let own := l.copies.any (fun c => c.st == .m || c.st == .o)
      let cs := l.copies.map (fun (c : Copy) => { c with st := match c.st with
        | .m => .o
        | .e => .s
        | x => x })
      s.setLine a (some ⟨if own then .owned else .shared, cs ++ [⟨core, .s, bs, pz, false, false⟩]⟩)

/-- A write or LR wins the only copy: M for a write or where the data is dirty, else E. A line that no cache holds is asked of its slice. -/
def State.winExcl (s : State) (core a : Nat) (write : Bool) : State :=
  let (bs, pz) := s.lineData a
  let dirty := match s.line a with
    | some l => l.dirty.isSome
    | none => false
  let held := match s.line a with
    | some l => match l.copyOf core with
      | some c => if c.st = .m ∨ c.st = .e then c.hold else true
      | none => true
    | none => true
  ((s.setLine a (some ⟨.excl, [⟨core, if write || dirty then .m else .e, bs, pz, held, false⟩]⟩)).loseLr a core).cond (s.line a).isNone
    (fun t => t.mscCount a 64)

/-- The value of `n` bytes in a core's copy. -/
def State.copyValue (s : State) (core a n : Nat) : Nat × Bool :=
  match s.line a with
  | some l => match l.copyOf core with
    | some c => (ofBytes ((c.bytes.drop (a % 64)).take n), c.poison)
    | none => (0, false)
  | none => (0, false)

/-- Store into a core's copy. -/
def State.copyStore (s : State) (core a : Nat) (bs : List Byte) : State :=
  match s.line a with
  | some l =>
    let put := fun (c : Copy) => { c with bytes := c.bytes.take (a % 64) ++ bs ++ c.bytes.drop (a % 64 + bs.length), st := CopyState.m }
    s.setLine a (some { l with copies := l.copies.map (fun c => if c.core = core then put c else c) })
  | none => s

/-! ### Errors in the domain (R425, R426, R434) -/

/-- The ECC of a copy in a cache fails (R425), core 64 naming the L3: a single bit is corrected and counted; two bits drop a clean line and poison a dirty
one. -/
def State.copyEcc (s : State) (l : Line) (c : Copy) (core addr : Nat) (two inj : Bool) : State :=
  let dirty := c.st == .m || c.st == .o
  let f : FaultIn := { cls := 4, sev := 2, rtype := 0, det := 0x51, inj := inj, dom := 5, inst := 0, addr := addr / 64 * 64, info := core }
  if !two then (s.bump Reg.cderr 63 48 1).countDet (0x50 * 1024 + core) { f with sev := 1, det := 0x50 }
  else if !dirty then
    let rest := l.copies.filter (fun x => x.core != core)
    s.setLine addr (if rest.isEmpty then none else some { l with copies := rest })
  else
    let s := s.setLine addr (some { l with copies := l.copies.map (fun (x : Copy) => if x.core = core then { x with poison := true } else x) })
    ((s.bump Reg.cderr 47 32 1).detect f).resolve 5 0 8 0

/-- Take an injection of RIG_CDINJ that meets a core's check: those of the L3 and of the directory name no core. -/
def State.takeCd (s : State) (kind core : Nat) : Bool × State :=
  match s.armed.find? (fun a => a.reg == Reg.cdinj && a.kind == kind && (kind == 3 || kind == 4 || a.target == core / 8)) with
  | some a => (true, s.disarm Reg.cdinj kind a.target)
  | none => (false, s)

/-- CORE_ECC (R425). -/
def execCoreEcc (core addr : Nat) (two : Bool) (s : State) : Outcome :=
  match s.line addr with
  | none => .next s
  | some l =>
    match l.copyOf core with
    | none => .next s
    | some c =>
      let (inj, s) := s.takeCd (if !two then 1 else if core = 64 then 3 else 2) (core % 64)
      .next (s.copyEcc l c core addr two inj)

/-- A coherent-domain failure (R428): from RUNNING the domain goes DOWN; in every state it is a fault of the domain. -/
def State.domainFails (s : State) (dead : Bool) (core : Nat) : State :=
  let (inj, s) := s.takeCd (if dead then 5 else 4) core
  let s :=
    if s.fld Reg.cdstat 1 0 = 0 then
      let n := s.fld Reg.cdstat 63 32
      let s := s.wr Reg.cdstat (word [(32, satAdd 32 n 1), (26, if dead then core % 64 else s.fld Reg.cdstat 31 26), (25, b2n dead), (24, b2n (!dead)),
        (0, 1)])
      { s with downOps := (s.ops.filter (fun o => o.phase != .ended)).map (fun o => (o.q, o.s)) }
    else s
  s.detect { cls := 4, sev := 3, rtype := 0, det := if dead then 0x53 else 0x52, inj := inj, dom := 5, inst := 0, info := core }

/-- What a core's read of a line meets of the injections armed in RIG_CDINJ (R434): at the directory, in the L3's dirty copy, in its own L2's copy, of which
one of two bits waits for a dirty line. -/
def State.meetCore (s : State) (core addr : Nat) : State :=
  let armed := fun (s : State) (k : Nat) => s.armed.any (fun a => a.reg == Reg.cdinj && a.kind == k && (k == 3 || k == 4 || a.target == core / 8))
  let met := fun (s : State) (k who : Nat) (two : Bool) => match s.line addr with
    | none => s
    | some l => match l.copyOf who with
      | none => s
      | some c => if armed s k && (k == 1 || c.st == .m || c.st == .o) then (s.takeCd k core).2.copyEcc l c who addr two true else s
  let s := s.cond (armed s 4) (fun s => s.domainFails false core)
  met (met (met s 3 64 true) 1 core false) 2 core true

/-! ### Commands of the cores (R410) -/

/-- A register as a path reads it (0 HL0, 1 HL1, 2 server cores, 3 rigging cores): a read of TMB_NOW latches the fraction into the path's TMB_FRAC (R517). -/
def State.readReg (s : State) (path a : Nat) : Word × State :=
  if a = Reg.tmbNow then (BitVec.ofNat 64 s.ns, { s with fracLatch := s.fracLatch.set (fun _ => 0) path s.frac })
  else if a = Reg.tmbFrac then (BitVec.ofNat 64 (s.fracLatch.get (fun _ => 0) path), s)
  else (s.rd a, s)

/-- An I/O read. -/
def State.ioRead (s : State) (a n : Nat) : State :=
  if !ioOk a n then s.coreFault a false
  else if !s.populated a then s.coreFault a true
  else match region a with
    | .control =>
      let (v, s) := s.readReg 2 (a / 8 * 8)
      { s with reply := some (BitVec.ofNat 64 (v.toNat / 2 ^ (8 * (a % 8)) % 2 ^ (8 * n))) }
    | _ => if s.mark a = .good then { s with reply := some (BitVec.ofNat 64 (ofBytes ((List.range n).map (fun i => s.byte (a + i))))) }
      else s.coreFault a false

/-- CORE_READ (R410). -/
def execCoreRead (core addr width : Nat) (s : State) : Outcome :=
  if !s.coreRuns core then .next s
  else if !isMain addr then .next (if region addr = .nowhere then s.coreFault addr true else s.ioRead addr width)
  else if !oneLine addr width ∨ s.hostWaits addr then .next s
  else if !s.mainOk addr then .next (s.coreFault addr (region addr != .host || !s.populated addr))
  else if s.mustWait addr core then .next { (s.probeWaits addr core) with reply := none }
  else
    let s := s.meetCore core addr
    if !s.coreRuns core then .next { s with reply := none } else
    let s := s.winShared core addr
    let (v, bad) := s.copyValue core addr width
    if bad then .next { (s.poisonFault core addr) with reply := none } else .next { s with reply := some (BitVec.ofNat 64 v) }

/-- Give an unassigned group its place at a core's first store, in class W (R447, R448); `none` where no tier has room. -/
def State.coreOpens (s : State) (a : Nat) : Option State :=
  match region a with
  | .hbm | .deep =>
    if bit (s.tir (groupOf a)) 63 then some s
    else match s.placeGroup (groupOf a) (.plain 0) with
      | .ok s => some s
      | .error _ => none
  | _ => some s

/-- A victim of an L2 stands in the L3, with its data and state; where the L3 has the line, only a dirty one replaces what it holds. -/
def State.toVictim (s : State) (l : Line) (c : Copy) (addr : Nat) : State :=
  let rest := l.copies.filter (fun x => x.core != c.core)
  let dirty := c.st == .m || c.st == .o
  let cs := if rest.any (fun x => x.core == 64) then
      rest.map (fun (x : Copy) => if x.core = 64 ∧ dirty = true then { x with st := c.st, bytes := c.bytes, poison := c.poison } else x)
    else rest ++ [{ c with core := 64, hold := false, waits := false }]
  s.setLine addr (some { l with copies := cs })

/-- EVICTION (R410, R411): a copy leaves its cache: from an L2 to the L3, which holds victims, or out of the domain. Then a dirty one is written back, and
the last one leaves the line UNCACHED. Which victims the L3 takes the spec leaves open: `toL3` says it. -/
def execEviction (core addr : Nat) (toL3 : Bool) (s : State) : Outcome :=
  match s.line addr with
  | none => .next s
  | some l =>
    match l.copyOf core with
    | none => .next s
    | some c =>
      let s := if s.lr.get (fun _ => 0) core = addr / 64 + 1 then s.dropLr core else s
      if toL3 && decide (core < 64) then .next (s.toVictim l c addr) else
      let rest := l.copies.filter (fun x => x.core != core)
      let wasDirty := c.st == .m || c.st == .o
      let s := if wasDirty then s.writeBack addr c else s
      let st := if wasDirty && l.st == .owned then LineState.shared else l.st
      .next (s.setLine addr (if rest.isEmpty then none else some ⟨st, rest⟩))

/-- PROBE (R412): one that reaches a copy in its hold waits; one that meets an armed injection of a dead agent is not answered (R434). -/
def execProbe (core addr : Nat) (s : State) : Outcome :=
  match s.line addr with
  | none => .next s
  | some l =>
    match l.copyOf core with
    | none => .next s
    | some c =>
      if s.armed.any (fun a => a.reg == Reg.cdinj && a.kind == 5 && a.target == core / 8) && decide (core < 64) then .next (s.domainFails true core)
      else if c.hold && !c.waits then
        .next ((s.setLine addr (some { l with copies := l.copies.map (fun (x : Copy) => if x.core = core then { x with waits := true } else x) })).bump
          Reg.cderr 15 0 1)
      else .next s

/-- HOLD_END (R412): the hold ends and a waiting probe is answered. -/
def execHoldEnd (core addr : Nat) (s : State) : Outcome :=
  match s.line addr with
  | none => .next s
  | some l =>
    if (l.copyOf core).isNone then .next s
    else .next (s.setLine addr (some { l with copies := l.copies.map (fun (x : Copy) =>
      if x.core = core then { x with hold := false, waits := false } else x) }))

/-! ### Engine accesses (R414 to R420) -/

/-- ENGINE_READ (R414): one of an unpopulated address fails alone, with its record (R13, R437); in a HELD group the holder of a dirty copy writes it back and keeps it clean before the slice serves the read. -/
def execEngineRead (addr : Nat) (s : State) : Outcome :=
  if region addr = .nowhere ∨ inMemRegions addr 1 = true ∧ s.populated addr = false then .next (s.addrRecord addr none)
  else if !inMemRegions addr 1 then .next s
  else if s.mustWait addr 1024 then .next (s.probeWaits addr 1024)
  else .next (s.meetReads none [(0, addr, 1)])

/-- The write-hint windows of a context (R418, R419): the valid ones in order of index as (target, first page, last page), and how many records are
ignored. -/
def State.hintWindows (s : State) (ctx : Nat) : List (Nat × Nat × Nat) × Nat :=
  match s.tableBase (Reg.whBase ctx) 256 with
  | none => ([], 0)
  | some b =>
    let recs := (List.range 16).map (fun k => match s.readWords (b + 16 * k) 2 with
      | .ok ws => some (ws.getD 0 0, ws.getD 1 0)
      | .error _ => none)
    let live := (recs.filterMap id).filter (fun r => bit r.1 63)
    let ok := fun (r : Word × Word) => bits r.1 55 44 == 0 && bits r.1 11 0 == 0 && bits r.2 63 44 == 0 && bits r.2 11 0 == 0 &&
      decide (bits r.1 43 12 ≤ bits r.2 43 12) && !(bit r.1 62 && s.coreHeld.get (fun _ => false) (bits r.1 61 56))
    ((live.filter ok).map (fun r => (if bit r.1 62 then bits r.1 61 56 else 64, bits r.1 43 12, bits r.2 43 12)),
      (live.filter (fun r => !ok r)).length + recs.count none)

/-- ENGINE_WRITE (R415): an engine write becomes visible once every copy of its lines is gone; whole lines in a hint window are installed (R420). -/
def execEngineWrite (ctx addr : Nat) (data : List Byte) (s : State) : Outcome :=
  let n := data.length
  let ls := (List.range ((addr + n + 63) / 64 - addr / 64)).map (fun k => (addr / 64 + k) * 64)
  if n = 0 ∨ !inMemRegions addr n then .next s
  else match ls.find? (fun l => s.mustWait l 1024) with
    | some l => .next (s.probeWaits l 1024)
    | none =>
      match s.writeMem { Wr.plain (b2n (s.isClassA addr)) with wins := (s.hintWindows ctx).1 } addr data with
      | .ok s => .next s
      | .error f => .next (s.failRecord f addr none)

/-! ### Atomics of the cores (R421 to R424) -/

/-- The new value of an atomic by its number, in the order of Table 12.5: ADD, AND, OR, XOR, SWAP, CAS, SMIN, SMAX, UMIN, UMAX. -/
def atomicFun (op w cmp v old : Nat) : Nat :=
  let m := v % 2 ^ (8 * w)
  match op with
  | 0 => (old + m) % 2 ^ (8 * w)
  | 1 => old.land m
  | 2 => old.lor m
  | 3 => old.xor m
  | 4 => m
  | 5 => if old = cmp % 2 ^ (8 * w) then m else old
  | 6 => signedPick w false v old
  | 7 => signedPick w true v old
  | 8 => min old m
  | _ => max old m

/-- Recall every copy of a line (Table 13.3). -/
def State.recallLine (s : State) (a : Nat) : State := s.dropLine a false

/-- What a core's register receives: a word is sign-extended. -/
def rdValue (w old : Nat) : Word := BitVec.ofNat 64 (if w = 4 then trunc 64 (sext 32 old) else old)

/-- A far atomic at the slice (R423). -/
def State.farAtomic (s : State) (core a w : Nat) (flt : Bool) (f : Nat → Nat) : State :=
  if a % w ≠ 0 then s.coreFault a false
  else if !s.mainOk a then s.coreFault a true
  else if s.mustWait a core then { (s.probeWaits a core) with reply := none }
  else
    let s := s.recallLine a
    match s.atomicAt a w flt f with
    | .ok (old, s) => { (s.untag a w) with reply := some (rdValue w old) }
    | .error .data => { (s.poisonFault core a) with reply := none }
    | .error .room => s.noRoom.coreFault a true
    | .error _ => s.coreFault a true

/-- FAR_ATOMIC (R423) of a core: at the slice for HBM and the deep tier, in its L2 for a host window (Table 13.2), an access fault elsewhere. -/
def execFarAtomic (core op addr width : Nat) (cmp v : Word) (s : State) : Outcome :=
  if !s.coreRuns core ∨ (width ≠ 4 ∧ width ≠ 8) ∨ 10 ≤ op ∨ s.hostWaits addr then .next s
  else if inMemRegions addr 1 then .next (s.farAtomic core addr width false (atomicFun op width cmp.toNat v.toNat))
  else if region addr = .host then
    if addr % width ≠ 0 then .next (s.coreFault addr false)
    else if !s.hostOk addr then .next (s.coreFault addr (!s.populated addr))
    else if s.mustWait addr core then .next { (s.probeWaits addr core) with reply := none }
    else
      let s := s.winExcl core addr true
      let (old, bad) := s.copyValue core addr width
      if bad then .next { (s.poisonFault core addr) with reply := none }
      else .next { (s.copyStore core addr (bytesOf width (atomicFun op width cmp.toNat v.toNat old))) with reply := some (rdValue width old) }
  else .next (s.coreFault addr (region addr == .nowhere))

/-- FAMOADD.W (R422). -/
def execFamoaddW (core addr : Nat) (v : Word) (s : State) : Outcome :=
  if !s.coreRuns core then .next s
  else if inMemRegions addr 1 then .next (s.farAtomic core addr 4 true (faddBits32 v.toNat))
  else .next (s.coreFault addr (region addr == .nowhere))

/-- FAMOADD.D (R422). -/
def execFamoaddD (core addr : Nat) (v : Word) (s : State) : Outcome :=
  if !s.coreRuns core then .next s
  else if inMemRegions addr 1 then .next (s.farAtomic core addr 8 true (faddBits64 v.toNat))
  else .next (s.coreFault addr (region addr == .nowhere))

/-- POISONED_LINE_ACCESS (R426): a load, fetch, AMO or LR of a core reads a poisoned line and takes its access fault. -/
def execPoisonedLineAccess (core addr : Nat) (s : State) : Outcome :=
  if s.coreRuns core && isMain addr && (s.lineData addr).2 then .next { (s.poisonFault core addr) with reply := none } else .next s

/-! ### Failure of the domain (R428 to R432) -/

/-- DEAD_AGENT (R413): a core with a probe that waits has not answered within 100 µs. -/
def execDeadAgent (core : Nat) (s : State) : Outcome := if core < 64 then .next (s.domainFails true core) else .next s

/-- UNCORRECTABLE_COHERENCE_ERROR (R413): `core` 64 names the L3. -/
def execUncorrectableCoherenceError (core : Nat) (s : State) : Outcome := .next (s.domainFails false core)

/-- Poison one unit as R430 says. -/
def State.lostUnit (s : State) (u : Nat) : State := s.setMark (64 * u) (if s.isClassA (64 * u) then .badCrc else .poison)

/-- Is the host-window page of a line served by this bias entry word? -/
def dirtyPages (ls : List (Nat × Line)) : List Nat :=
  ((ls.filter (fun e => region (64 * e.1) == .host && e.2.dirty.isSome)).map (fun e => (64 * e.1 - hostBase) / 2 ^ 21)).eraseDups

/-- Make a bias entry SHARED-invalid (R498). -/
def State.revert (s : State) (i : Nat) : State :=
  let w := s.rd (Reg.biaEnt0 i)
  s.wr (Reg.biaEnt0 i) (putBits (putBits (putBits w 63 63 0) 62 62 0) 60 60 1)

/-- The valid bias entries: (index, first word, window page). -/
def State.biasEntries (s : State) : List (Nat × Word × Nat) :=
  ((s.regs.filter (fun p => decide (0x0F0005000000 ≤ p.1) && decide (p.1 < 0x0F0005100000) && p.1 % 16 == 0 && bit p.2 63))).map
    (fun p => ((p.1 - 0x0F0005000000) / 16, p.2, s.fld (p.1 + 8) 19 0))

/-- ENGINES_PARKED (R429, R430): the domain is RECOVERING; lines it held as M, O or E are lost, SHARED pages and DEVICE pages with dirty lines revert.
`unreadable`: some directory set cannot be read. -/
def execEnginesParked (unreadable : Bool) (s : State) : Outcome :=
  if s.fld Reg.cdstat 1 0 ≠ 1 then .next s
  else
    let ls := s.dirLines.filterMap (fun e => e.2.map (fun l => (e.1, l)))
    let gone := ls.filter (fun e => e.2.st != .shared)
    let held := (s.tirEntries.filter (fun e => bit e.2 59)).map Prod.fst
    let units := if unreadable then (held.map (fun g => (List.range (2 ^ 15)).map (fun k => g * 2 ^ 15 + k))).flatten
      else (gone.filter (fun e => inMemRegions (64 * e.1) 1)).map Prod.fst
    let dirty := dirtyPages ls
    let pages := (s.biasEntries).filter (fun e => !bit e.2.1 62 || dirty.contains e.2.2)
    let s := units.foldl (fun s u => s.lostUnit u) s
    let s := gone.foldl (fun s e => s.setLine (64 * e.1) none) s
    let s := { s with dirLines := s.dirLines.filter (fun (e : Nat × Option Line) => region (64 * e.1) != Region.host) }
    let s := pages.foldl (fun s e => s.revert e.1) s
    let s := (s.put Reg.cdstat 1 0 2).wr Reg.cdlost (word [(32, min units.length (2 ^ 32 - 1)), (0, pages.length)])
    .next { s with parked := true, reverted := pages.map (fun e => e.2.2), lr := [] }

/-- Does an op name an object in a page of a list? -/
def OpRec.inPages (o : OpRec) (ps : List Nat) : Bool :=
  o.objs.any (fun x => (x.2.runs 0 x.2.size (x.2.size / 2 ^ 12 + 2)).any (fun e =>
    region e.1 == .host && decide (0 < e.2) && ps.any (fun p => decide ((e.1 - hostBase) / 2 ^ 21 ≤ p) &&
      decide (p ≤ (e.1 + e.2 - 1 - hostBase) / 2 ^ 21))))

/-- End the ops of R431. -/
def State.domainDown (s : State) : List OpRec → State
  | [] => s
  | o :: os =>
    let hit := s.downOps.contains (o.q, o.s) && o.phase != .ended && (o.inPages s.reverted || o.d.cls == 0 && o.d.op == 1)
    (if hit then s.failOp o.q o.s stDomainDown 0 else s).domainDown os

/-- RECOVERY_COMPLETE (R431): engines resume and the domain is HELD. -/
def execRecoveryComplete (s : State) : Outcome :=
  if s.fld Reg.cdstat 1 0 ≠ 2 then .next s
  else
    let s := s.domainDown s.ops
    let s := { (s.put Reg.cdstat 1 0 3) with parked := false, downOps := [], reverted := [] }
    .next (s.resolve 5 0 7 0)

/-- RELEASE (R428): from HELD the L3 and the directory are cleared and the cores run. -/
def execRelease (ag : Agent) (s : State) : Outcome :=
  if Who.barRig.admits ag && s.fld Reg.cdstat 1 0 == 3 then
    let gs := (s.tirEntries.filter (fun e => bit e.2 59)).map Prod.fst
    let s := { s with dirLines := [], lr := [] }
    let s := gs.foldl (fun s g => s.setTir g (putBits (s.tir g) 59 59 0)) s
    .next (s.put Reg.cdstat 1 0 0)
  else .next s

/-! ### Injections (R434) -/

/-- RIG_CDINJ KIND 1. -/
def execRigCdinjL2OneBit (ag : Agent) (group : Nat) (s : State) : Outcome := if isRig ag then .next (s.arm Reg.cdinj 1 group) else .next s

/-- RIG_CDINJ KIND 2. -/
def execRigCdinjL2TwoBits (ag : Agent) (group : Nat) (s : State) : Outcome := if isRig ag then .next (s.arm Reg.cdinj 2 group) else .next s

/-- RIG_CDINJ KIND 3. -/
def execRigCdinjL3TwoBits (ag : Agent) (group : Nat) (s : State) : Outcome := if isRig ag then .next (s.arm Reg.cdinj 3 group) else .next s

/-- RIG_CDINJ KIND 4. -/
def execRigCdinjDirectory (ag : Agent) (group : Nat) (s : State) : Outcome := if isRig ag then .next (s.arm Reg.cdinj 4 group) else .next s

/-- RIG_CDINJ KIND 5. -/
def execRigCdinjDeadAgent (ag : Agent) (group : Nat) (s : State) : Outcome := if isRig ag then .next (s.arm Reg.cdinj 5 group) else .next s

end Sys2Proof.Machine
end

