-- ==== Sys2Proof/Machine/Host.lean ====
section
/-! DEFINITION. Host links, page bias and time (chapter 16). -/

namespace Sys2Proof.Machine

/-! ### What the host sees (R494) -/

/-- Is a BAR0 access of a size, alignment or offset that R494 refuses? -/
def barRefuses (offset size : Nat) : Bool :=
  (size != 4 && size != 8) || offset % size != 0 || !inRegBlock (0x0F0000000000 + offset) || decide (0x8000000 ≤ offset)

/-- BAR0_ACCESS_REFUSED (R494). -/
def execBar0AccessRefused (link offset size : Nat) (_write : Bool) (s : State) : Outcome :=
  if barRefuses offset size then .next (({ s with reply := none } : State).bump (Reg.hlkBar link) 63 32 1) else .next s

/-! ### Page bias (R497 to R501) -/

/-- State of a bias entry (R498): 0 unmapped, 1 SHARED, 2 DEVICE, 3 SHARED-invalid. -/
def biasState (w : Word) : Nat := if bit w 63 then (if bit w 62 then 2 else 1) else if bit w 60 then 3 else 0

/-- Does Table 16.3 accept a command in the entry's state? -/
def biasAccepts (s : State) (code entry wpage : Nat) : Bool :=
  let st := biasState (s.rd (Reg.biaEnt0 entry))
  match code with
  | 1 => (st == 0 || st == 3) && match s.bias? wpage with
    | none => true
    | some (i, _) => i == entry && !s.regs.any (fun p => decide (0x0F0005000000 ≤ p.1) && decide (p.1 < 0x0F0005100000) && p.1 % 16 == 0 &&
        p.1 != Reg.biaEnt0 entry && (bit p.2 63 || bit p.2 60) && bits (s.rd (p.1 + 8)) 19 0 == wpage)
  | 2 => st == 1
  | 3 => st == 2
  | 4 => st != 0
  | _ => false

/-- A write of BIA_CMD with GO (R500): the command's RESULT is that of its code, arguments and state; its effect comes when it completes. -/
def State.biasStart (s : State) (ag : Agent) (entry code : Nat) (resv : Bool) : State :=
  if !Who.barRig.admits ag then s
  else if s.flag Reg.biaStat 0 then s.putBit Reg.biaStat 1 true
  else
    let arg := s.rd Reg.biaArg
    let argw := s.rd Reg.biaArgw
    let r := if code = 0 ∨ 4 < code then 1
      else if 65536 ≤ entry ∨ resv = true ∨ s.biaResv ≠ 0 ∨ biasAccepts s code entry (bits argw 19 0) = false then 2
      else 0
    let s := s.putBit Reg.biaStat 0 true
    let s := if entry < 65536 then s.putBit (Reg.biaEnt0 entry) 59 true else s
    { s with bias := some ⟨entry, code, arg, argw, r⟩ }

/-- MAP (R500). -/
def execMap (ag : Agent) (entry : Nat) (s : State) : Outcome := .next (s.biasStart ag entry 1 false)

/-- TODEVICE (R500). -/
def execTodevice (ag : Agent) (entry : Nat) (s : State) : Outcome := .next (s.biasStart ag entry 2 false)

/-- TOSHARED (R500). -/
def execToshared (ag : Agent) (entry : Nat) (s : State) : Outcome := .next (s.biasStart ag entry 3 false)

/-- UNMAP (R500). -/
def execUnmap (ag : Agent) (entry : Nat) (s : State) : Outcome := .next (s.biasStart ag entry 4 false)

/-- The lines of a window page that the domain holds: line number and entry. -/
def State.pageLines (s : State) (wpage : Nat) : List (Nat × Line) :=
  s.dirLines.filterMap (fun e => match e.2 with
    | some l => if 64 * e.1 / 2 ^ 21 = hostBase / 2 ^ 21 + wpage then some (e.1, l) else none
    | none => none)

/-- Drop every module copy of a list of lines; `back` writes the dirty ones back first. -/
def State.dropCopies (s : State) (back : Bool) : List (Nat × Line) → State
  | [] => s
  | (k, l) :: ls =>
    let s := match l.dirty with
      | some c => if back then s.writeBack (64 * k) c else s
      | none => s
    let s := s.setLine (64 * k) none
    ({ s with lr := s.lr.filter (fun p => p.2 != k + 1) } : State).dropCopies back ls

/-- The page's lines are written back and dropped, for TOSHARED and UNMAP (Table 16.3); PENDING hides the page from other requests meanwhile. -/
def State.cleanPage (s : State) (entry : Nat) : State :=
  let wpage := s.fld (Reg.biaEnt1 entry) 19 0
  let ls := s.pageLines wpage
  let n := (ls.filter (fun l => l.2.dirty.isSome)).length
  let s := s.putBit (Reg.biaEnt0 entry) 59 false
  ((s.dropCopies true ls).bump Reg.biaCnt 31 0 n).putBit (Reg.biaEnt0 entry) 59 true

/-- Flag words that wait for a page are written where it is valid again (R514). -/
def State.flagsOn (s : State) : List (Nat × Word) → State
  | [] => s
  | (a, v) :: fs =>
    let s := match s.writeMem (.plain 0) a (bytesOf 8 v.toNat) with
      | .ok s => s
      | .error _ => { s with flagWait := s.flagWait ++ [(a, v)] }
    s.flagsOn fs

/-- The effect of a command that was accepted (Table 16.3). -/
def State.biasEffect (s : State) (b : BiaRec) : State :=
  let e0 := Reg.biaEnt0 b.entry
  match b.code with
  | 1 =>
    let s := s.wr e0 (word [(63, 1), (62, bits b.arg 0 0), (61, bits b.arg 1 1), (59, 1), (21, bits b.arg 51 21)])
    s.wr (Reg.biaEnt1 b.entry) (word [(0, bits b.argw 19 0)])
  | 2 => s.putBit e0 62 true
  | 3 => (s.cleanPage b.entry).putBit e0 62 false
  | _ =>
    let s := if bit (s.rd e0) 63 then s.cleanPage b.entry else s
    (s.wr e0 (word [(59, 1)])).wr (Reg.biaEnt1 b.entry) 0

/-- The end of a bias command with a result. -/
def State.biasEnd (s : State) (entry result : Nat) : State :=
  let s := if entry < 65536 then s.putBit (Reg.biaEnt0 entry) 59 false else s
  let s := ((s.putBit Reg.biaStat 0 false).put Reg.biaStat 15 8 result).bump Reg.biaStat 63 32 1
  { s with bias := none }

/-- BIA_CMD_COMPLETE (R501): the effect, RESULT, and the end of BUSY and PENDING; flag words that waited for the page are written. -/
def execBiaCmdComplete (s : State) : Outcome :=
  match s.bias with
  | none => .next s
  | some b =>
    let lost := b.result = 0 ∧ b.code ≠ 1 ∧ biasAccepts s b.code b.entry (bits b.argw 19 0) = false
    let r := if lost then 3 else b.result
    let s := (if r = 0 then s.biasEffect b else s).biasEnd b.entry r
    .next (({ s with flagWait := [] } : State).flagsOn s.flagWait)

/-! ### Snoops and completions (R503 to R508) -/

/-- The unified address that a host bus address of a link serves as a SHARED page. -/
def State.sharedAt (s : State) (link hpa : Nat) : Option Nat :=
  (s.biasEntries.find? (fun e => bits e.2.1 61 61 == link && bits e.2.1 51 21 == hpa / 2 ^ 21 && !bit e.2.1 62)).map
    (fun e => hostBase + e.2.2 * 2 ^ 21 + hpa % 2 ^ 21)

/-- HOST_SNOOP (R503) at a host bus address: kind 0 SnpData, 1 SnpInv, 2 SnpCur. The copies answer with their data; SnpData leaves them shared and
clean, SnpInv drops them, SnpCur leaves them. No copy, or a DEVICE page, answers nothing. -/
def execHostSnoop (link addr kind : Nat) (s : State) : Outcome :=
  match s.sharedAt link addr with
  | none => .next { s with reply := none }
  | some a =>
    match s.line a with
    | none => .next { s with reply := none }
    | some l =>
      let data := match l.dirty with
        | some c => c.bytes
        | none => (l.copies.headD ⟨0, .s, [], false, false, false⟩).bytes
      let s := { s with reply := some (BitVec.ofNat 64 (ofBytes ((data.drop (a % 64 / 8 * 8)).take 8))) }
      if kind = 2 then .next s
      else
        let s := match l.dirty with
          | some c => s.writeBack a c
          | none => s
        if kind = 1 then .next { (s.setLine a none) with lr := s.lr.filter (fun p => p.2 != a / 64 + 1) }
        else .next (s.setLine a (some { l with st := .shared, copies := l.copies.map (fun (c : Copy) => { c with st := .s }) }))

/-- Acknowledgements whose message's data have become visible are sent (R65). -/
def State.ackAll (s : State) : List AckDue → State
  | [] => s
  | a :: as =>
    (if s.hostOut.any (fun w => w.q == a.q && w.s == a.s && w.msg == a.msg) then { s with ackDue := s.ackDue ++ [a] }
     else s.sendMsg 2 a.src (ackTag a.typ a.tag) [] []).ackAll as

/-- CRFULL and BUSY of the queues with records ready follow (Table 2.9). -/
def State.syncReady (s : State) : State := ((s.ready.map Prod.fst).eraseDups).foldl (fun s q => s.syncQ q) s

/-- What a change of visibility brings (R65, R66): acknowledgements that waited are sent, records become ready and ops end. -/
def State.fences (s : State) : State := (((({ s with ackDue := [] } : State).ackAll s.ackDue).noteDeps.freshen).settle).syncReady

/-- What write `w` left at its addresses: what a later write found there, or what stands there. -/
def State.leftBy (s : State) (w : HostWrite) (later : List HostWrite) : List (Nat × Option Byte) :=
  w.old.map (fun e => (e.1, match later.findSome? (fun v => (v.old.find? (fun x => x.1 == e.1)).map Prod.snd) with
    | some b => b
    | none => s.hostMem.get (fun _ => none) e.1))

/-- A write as it stands once one with these bytes, issued after it, is visible: to drop it then leaves them. -/
def HostWrite.under (w : HostWrite) (bs : List (Nat × Option Byte)) : HostWrite :=
  { w with old := w.old.map (fun e => match bs.find? (fun x => x.1 == e.1) with
    | some x => x
    | none => e) }

/-- Writes of the list that `shown` names become visible (R65), the oldest first; `seen` are those that stay, oldest first. -/
def State.showWrites (s : State) (shown : HostWrite → Bool) (seen : List HostWrite) : List HostWrite → List HostWrite
  | [] => seen
  | w :: ws => s.showWrites shown (if shown w then seen.map (fun v => v.under (s.leftBy w ws)) else seen ++ [w]) ws

/-- FLUSHING_READ (R505, R506): its completion makes the earlier DEVICE writes on the link visible. -/
def execFlushingRead (link : Nat) (s : State) : Outcome :=
  if s.fld (Reg.hlkStat link) 1 0 = 2 then
    .next ({ s with hostOut := s.showWrites (fun w => w.link == link && w.dev) [] s.hostOut } : State).fences
  else .next s

/-- GLOBAL_OBSERVATION (R505): the oldest write of the op to a SHARED page on this link becomes visible. -/
def execGlobalObservation (link q sn : Nat) (s : State) : Outcome :=
  match s.hostOut.find? (fun w => w.link == link && !w.dev && w.q == q && w.s == sn) with
  | none => .next s
  | some w => .next ({ s with hostOut := s.showWrites (fun v => v == w) [] s.hostOut } : State).fences

/-- What a host may see of a byte of its memory (R70): what stands there, or what any write to it that is not yet visible found there. -/
def State.hostMaySee (s : State) (link hpa : Nat) : List (Option Byte) :=
  let a := link * 2 ^ 52 + hpa
  s.hostMem.get (fun _ => none) a :: (s.hostOut.filterMap (fun w => (w.old.find? (fun e => e.1 == a)).map Prod.snd))

/-- COMPLETION_TIMEOUT (R508): the read's op ends HOST_LOST. -/
def execCompletionTimeout (link q sn _slot : Nat) (s : State) : Outcome :=
  match s.op? q sn with
  | none => .next s
  | some o =>
    if o.phase = .ended then .next s
    else
      let (inj, s) := s.takeInj (Reg.hlkInj link) 2 0
      .next (s.readTimeout link (q, sn, o.ctx) inj)

/-- UNSUPPORTED_REQUEST (R508): the read's op ends ADDR_FAULT with the operand slot. -/
def execUnsupportedRequest (link q sn slot : Nat) (s : State) : Outcome :=
  match s.op? q sn with
  | none => .next s
  | some o =>
    if o.phase = .ended then .next s
    else
      let (inj, s) := s.takeInj Reg.fltInj 7 link
      .next (s.readRefused link (q, sn, o.ctx) slot inj)

/-! ### Link states (Table 16.7) -/

/-- A host link's record of severity NOTE. -/
def State.hostEvent (s : State) (link det : Nat) (inj : Bool) : State :=
  s.form { cls := 8, sev := 0, rtype := 3, det := det, inj := inj, dom := 3, inst := 128 + link }

/-- PERST_HIGH (R510): with receivers detected a DOWN link trains; before step 7 of a start the pin's release has to wait (Table 20.9). -/
def execPerstHigh (link : Nat) (s : State) : Outcome :=
  let s := ({ s with perst := s.perst.set link true } : State).putBit (Reg.hlkStat link) 5 false
  let st := s.fld Reg.rscStat 2 0
  if s.fld (Reg.hlkStat link) 1 0 = 0 ∧ s.power = .on ∧ 2 ≤ st ∧ st ≤ 5 then .next (s.put (Reg.hlkStat link) 1 0 1) else .next s

/-- DL_ACTIVE (R510, R492): the trained width and speed; flit mode and CXL.cache at 64 GT/s only. -/
def execDlActive (link width speed : Nat) (cxl : Bool) (s : State) : Outcome :=
  if s.fld (Reg.hlkStat link) 1 0 = 1 ∧ [16, 8, 4, 2, 1].contains width ∧ 1 ≤ speed ∧ speed ≤ 6 then
    .next (s.wr (Reg.hlkStat link) (word [(27, width), (24, speed), (5, s.fld (Reg.hlkStat link) 5 5), (4, b2n (cxl && speed == 6)),
      (3, b2n (speed == 6)), (0, 2)]))
  else .next s

/-- RECOVERY_ENTERED (R510). -/
def execRecoveryEntered (link : Nat) (s : State) : Outcome :=
  if s.fld (Reg.hlkStat link) 1 0 = 2 then
    let (inj, s) := s.takeInj (Reg.hlkInj link) 3 0
    .next ((s.put (Reg.hlkStat link) 1 0 3).hostEvent link 0x43 inj)
  else .next s

/-- L0_REGAINED (R510). -/
def execL0Regained (link : Nat) (s : State) : Outcome :=
  if s.fld (Reg.hlkStat link) 1 0 = 3 then .next ((s.put (Reg.hlkStat link) 1 0 2).bump (Reg.hlkRetrain link) 63 32 1) else .next s

/-- The writes on a link that a host reset drops are never made (R512): newest first, the host's bytes are again what each found. -/
def State.dropWrites (s : State) (link : Nat) : State :=
  let mine := s.hostOut.filter (fun w => w.link == link)
  { s with hostMem := mine.reverse.foldl (fun m w => w.old.foldl (fun m e => m.set (fun _ => none) e.1 e.2) m) s.hostMem,
           hostOut := s.hostOut.filter (fun w => w.link != link), ackDue := s.ackDue.filter (fun a => !mine.any (fun w => w.q == a.q && w.s == a.s && w.msg == a.msg)) }

/-- The ops of a list end HOST_LOST (R512): one that has ended and whose record still waits takes that status. -/
def State.hostLost (s : State) (link : Nat) : List (Nat × Nat) → State
  | [] => s
  | (q, sn) :: os =>
    let s := match s.op? q sn with
      | none => s
      | some o =>
        if o.phase = Phase.ended then
          (if o.record = RecPhase.none then
            (s.mapOp q sn (fun o => { o with status := if o.status < 0x100 then stHostLost else o.status,
                                             detail := if o.status < 0x100 then link else o.detail })).haltOn q sn stHostLost
          else s)
        else s.failOp q sn stHostLost link
    s.hostLost link os

/-- Every valid bias entry reverts (R512): dirty lines of pages on a link that is UP are written back first, all copies go. -/
def State.revertAll (s : State) : List (Nat × Word × Nat) → State
  | [] => s
  | (i, w, wpage) :: es =>
    let up := decide (s.fld (Reg.hlkStat (bits w 61 61)) 1 0 = 2)
    let s := s.putBit (Reg.biaEnt0 i) 59 false
    ((s.dropCopies up (s.pageLines wpage)).revert i).revertAll es

/-- Queues with a ring, a completion ring or a flag word in a host window stop (R512). -/
def State.quiesce (s : State) : Nat → State
  | 0 => s
  | q + 1 =>
    let s := s.quiesce q
    let host := fun a => region a == .host
    if s.enabled q && (host (s.fld (Reg.qbase q) 43 12 * 4096) || host (s.fld (Reg.qcr q) 43 12 * 4096) || host (s.fld (Reg.qflag q) 43 3 * 8)) then
      s.putBit (Reg.qctl q) 0 false
    else s

/-- Clear and reopen the boot window (Table 18.3, R558): no owner where BOOTLINK is ANY, no verification has ended since. -/
def State.reopenBoot (s : State) : State :=
  { (((s.put Reg.rscStat 2 0 2).put Reg.bootStat 3 0 0).putBit Reg.bootStat 9 false) with
    bootWin := [], owned := s.fld Reg.rscStat 10 10 == 0 }

/-- The owner of the boot window resets its link in BOOTWAIT or VERIFY (Table 18.3). -/
def State.bootLinkReset (s : State) (link : Nat) : State :=
  let st := s.fld Reg.rscStat 2 0
  if (st = 2 ∨ st = 3) ∧ s.owned = true ∧ s.fld Reg.bootStat 9 9 = link then s.reopenBoot else s

/-- HOST_RESET (R511, R512). `perst`: the pin is low. A command of a mailbox in progress goes on; its function's vectors are no longer enabled. -/
def execHostReset (link : Nat) (perst : Bool) (s : State) : Outcome :=
  let s := { s with perst := if perst then s.perst.set link false else s.perst }
  if s.fld (Reg.hlkStat link) 1 0 = 0 then .next (s.putBit (Reg.hlkStat link) 5 perst)
  else
    let mine := s.hostOut.filter (fun w => w.link == link)
    let drops := mine.length
    let s := (s.dropWrites link).hostLost link ((mine.map (fun w => (w.q, w.s))).eraseDups)
    let s := s.wr (Reg.hlkStat link) (word [(5, b2n perst)])
    let s := (s.bump (Reg.hlkLost link) 63 32 1).bump (Reg.hlkLost link) 31 0 drops
    let s := match s.bias with
      | some b => s.biasEnd b.entry 3
      | none => s
    let s := (s.revertAll s.biasEntries).bump Reg.biaCnt 63 32 1
    let s := s.quiesce 1024
    let pend := s.msixPend.filter (fun e => e.1 / 1024 == link)
    let s := ({ s with msixOn := Tab.clear s.msixOn (1024 * link) (1024 * link + 1024),
                       msixPend := s.msixPend.filter (fun e => e.1 / 1024 != link) } : State).bump (Reg.hlkBar link) 31 0 pend.length
    .next ((s.bootLinkReset link).hostEvent link 0x44 false).fences

/-! ### Time (R516 to R521) -/

/-- TMB_NOW (R517): the nanoseconds are the reply, the fraction is latched for the path. -/
def execTmbNow (path : Nat) (s : State) : Outcome :=
  .next { s with fracLatch := s.fracLatch.set (fun _ => 0) path s.frac, reply := some (BitVec.ofNat 64 s.ns) }

/-- The correlation record of a dialog (Table 16.9). -/
def corrRecord (s : State) (link host t1 t4 turn : Nat) (frac : BitVec 16) (seq : Nat) : List Word :=
  let rtt := t4 - t1 - turn
  [BitVec.ofNat 64 (t1 + rtt / 2), BitVec.ofNat 64 host, word [(48, frac.toNat), (0, rtt % 2 ^ 32)],
   word [(32, seq % 2 ^ 32), (31, link), (29, s.alignState)]]

/-- PTM_DIALOG (R518, R519). -/
def execPtmDialog (link host t1 t4 turn : Nat) (frac : BitVec 16) (ok : Bool) (s : State) : Outcome :=
  if s.fld (Reg.hlkStat link) 1 0 ≠ 2 ∨ s.flag Reg.tmbPtmctl link = false then .next s
  else
    let seq := s.ptmSeq + 1
    let s := { s with ptmSeq := seq }
    if !ok then .next (s.bump Reg.tmbStat 63 32 1)
    else
      let ws := corrRecord s link host t1 t4 turn frac seq
      let s := (s.wrRun (Reg.tmbCorr 0) ws).put Reg.tmbStat 15 0 (s.fld Reg.tmbStat 15 0 + 1)
      if s.flag Reg.tmbCorrbase 0 then
        let a := s.fld Reg.tmbCorrbase 43 6 * 64 + 32 * (seq % 2 ^ s.fld Reg.tmbCorrbase 5 2)
        match s.writeMem (.plain 0) a (wordBytes ws) with
        | .ok s => .next s
        | .error f => .next (s.failRecord f a none)
      else .next s

/-- The pulse width of PPS_OUT, ns. -/
def State.ppsWidth (s : State) : Nat :=
  let w := s.fld Reg.tmbOutctl 31 16
  (if 1 ≤ w ∧ w ≤ 500 then w else 100) * 1000000

/-- PPS_OUT (R520, R521): at a second of module time the outputs that are enabled start, and PPS_OUT rises, unless a step of the timebase suppresses it. -/
def execPpsOut (s : State) : Outcome :=
  if s.ns % 1000000000 ≠ 0 ∨ s.ppsEdge = some s.ns ∨ s.ns < s.ppsHold then .next s
  else
    let run := s.fld Reg.tmbOutctl 1 0 + s.outRun / 4 % 2 * 4
    let s := { s with outRun := run }
    if run % 2 = 1 then .next { s with ppsHigh := true, ppsFall := s.ns + s.ppsWidth, ppsEdge := some s.ns } else .next s

/-- The time code frame of an edge (Table 16.10). -/
def State.timeFrame (s : State) (edge : Nat) : List Byte :=
  let body := [0xC3#8, 0x3C#8] ++ bytesOf 8 edge ++
    [BitVec.ofNat 8 (s.alignState + 4 * s.fld Reg.casc 32 32), BitVec.ofNat 8 s.todSeq, 0#8, 0#8]
  body ++ bytesOf 2 (crc16 body)

/-- TOD_TX (R520): one frame for each edge of PPS_OUT, from 10 ms after it. -/
def execTodTx (s : State) : Outcome :=
  match s.ppsEdge with
  | none => .next s
  | some e =>
    let sent := match s.todSent.getLast? with
      | some f => (f.drop 2).take 8 == bytesOf 8 e
      | none => false
    if s.outRun / 2 % 2 = 1 ∧ s.flag Reg.tmbOutctl 1 = true ∧ e + 10000000 ≤ s.ns ∧ s.ppsHold ≤ s.ns ∧ sent = false then
      .next { s with todSent := s.todSent ++ [s.timeFrame e], todSeq := (s.todSeq + 1) % 256 }
    else .next s

/-- TMB_OUTCTL (R521, R522): an output whose bit is cleared stops; one whose bit is set starts at its next boundary. -/
def execTmbOutctl (ag : Agent) (v : Word) (s : State) : Outcome :=
  if Who.barRig.admits ag then
    let s := s.wr Reg.tmbOutctl (word [(16, bits v 31 16), (0, bits v 2 0)])
    let run := s.outRun.land (bits v 2 0)
    .next { s with outRun := run, ppsHigh := s.ppsHigh && bit v 0 }
  else .next s

/-! ### Injections (R522) -/

/-- HLK_INJ KIND 1. -/
def execHlkInjFlitCrc (ag : Agent) (n : Nat) (s : State) : Outcome := if isRig ag then .next (s.arm (Reg.hlkInj n) 1 0) else .next s

/-- HLK_INJ KIND 2. -/
def execHlkInjCompletionTimeout (ag : Agent) (n : Nat) (s : State) : Outcome := if isRig ag then .next (s.arm (Reg.hlkInj n) 2 0) else .next s

/-- HLK_INJ KIND 3. -/
def execHlkInjForcedRecovery (ag : Agent) (n : Nat) (s : State) : Outcome := if isRig ag then .next (s.arm (Reg.hlkInj n) 3 0) else .next s

end Sys2Proof.Machine
end

