-- ==== Sys2Proof/Machine/Boot.lean ====
section
/-! DEFINITION. Reset, boot, identity and life cycle (chapter 18). -/

namespace Sys2Proof.Machine

/-! ### The fuse array (Table 18.5) -/

namespace Fuse
def serial : Nat := 0
def uds : Nat := 1
def keyHash (k : Nat) : Nat := 2 + k
def keyRevoke : Nat := 6
def lc : Nat := 7
def svn : Nat := 8                                   -- the number of blown bits
def mxeRep (n : Nat) : Nat := 16 + n
def laneBad (b dir : Nat) : Nat := 64 + 2 * b + dir
def hbmOut (n : Nat) : Nat := 128 + n
def dtcOut : Nat := 144
def pinCfg : Nat := 145
end Fuse

/-- A field of the fuse array; a blank one reads 0. -/
def State.fuse (s : State) (k : Nat) : Nat := s.fuses.get (fun _ => 0) k

/-- Write a field of the fuse array. -/
def State.burn (s : State) (k v : Nat) : State := { s with fuses := s.fuses.set (fun _ => 0) k v }

/-- RSC_STAT.STATE (Table 18.3): 0 RESET, 1 OPTLOAD, 2 BOOTWAIT, 3 VERIFY, 4 LOADED, 5 READY, 6 STARTFAIL. -/
def State.start (s : State) : Nat := s.fld Reg.rscStat 2 0
def State.setStart (s : State) (v : Nat) : State := s.put Reg.rscStat 2 0 v

/-- The life-cycle fuses as sensed. -/
def State.lc (s : State) : Nat := s.fld Reg.secLc 3 0

/-! ### Module reset (R547 to R550, R578) -/

/-- RSC_CAUSE after a source: a further one while a reset is held adds its bit alone, the first one starts afresh (R549, R550). POR and SUPPLY clear COUNT. -/
def State.causeWord (s : State) (code : Nat) : Word :=
  let w := s.rd Reg.rscCause
  let clears := code == 1 || code == 7
  let held := s.start == 0 && bits w 7 0 != 0
  let cnt := if clears then 0 else if held then bits w 63 32 else satAdd 32 (bits w 63 32) 1
  let one := 2 ^ (code - 1)
  if held then word [(32, cnt), (8, bits w 15 8), (0, (bits w 7 0).lor one)] else word [(32, cnt), (8, code), (0, one)]

/-- The record of DET 0x94 that the reset controller places in its ring (R578). -/
def State.resetRecord (s : State) (code : Nat) : State :=
  if code = 4 ∨ code = 5 ∨ code = 6 ∨ code = 8 then
    let ws := recordWords { cls := 10, sev := 3, rtype := 3, det := 0x94, dom := 7, info := code } (s.fld Reg.fltSeq 31 0) s.ns s.beat
    { s with keep := (s.keep ++ [ws]).drop (s.keep.length + 1 - 16) }
  else s

/-- A module reset from a source of Table 18.1: every register and memory takes its reset value but what R550 keeps, the fuses, what lies outside the
module, and what its supply, its sensors and its pins are. -/
def State.moduleReset (s : State) (code : Nat) : State :=
  let cause := s.causeWord code
  let clears := code == 1 || code == 7
  let fresh := s.start != 0 || bits (s.rd Reg.rscCause) 7 0 == 0
  let s := s.resetRecord code
  let kept := (List.range 128).map (fun i => s.rd (Reg.rscKeep i))
  let ring := s.keep.flatten ++ List.replicate (128 - s.keep.flatten.length) 0
  let t : State :=
    { State.reset with
      pending := s.pending, hostMem := s.hostMem, fuses := s.fuses, revokes := s.revokes, held := s.held, sincePg := s.sincePg,
      armed := if clears then [] else s.armed.filter (fun (a : Armed) => a.reg == Reg.fltInj && a.kind == 11),
      power := s.power, pwrEn := s.pwrEn, perst := s.perst, mz50 := s.mz50, powerGood := s.powerGood, tripN := s.tripN, cooled := s.cooled,
      jtag := s.jtag, pinHigh := s.pinHigh, cagePins := s.cagePins, free := s.free }
  (t.wr Reg.rscCause cause).wrRun (Reg.rscKeep 0) (if clears then [] else if fresh then ring else kept)

/-- POR (R547): POWER_GOOD has risen. -/
def execPor (s : State) : Outcome :=
  if s.powerGood then .next (({ s with sincePg := 0 } : State).moduleReset 1) else .next s

/-- PIN (R548): a recognised low pulse, or the pin's return to high. -/
def execPin (low : Bool) (s : State) : Outcome :=
  if low then .next (({ s with pinHigh := false, held := s.held.lor 1 } : State).moduleReset 2)
  else .next { s with pinHigh := true, held := s.held.land 6 }

/-- RSC_RST (R547): KEY 0xA5 and GO, through BAR0 or from the rigging cores. -/
def execRscRst (ag : Agent) (v : Word) (s : State) : Outcome :=
  if Who.barRig.admits ag && bits v 15 8 == 0xA5 && bit v 0 then .next (s.moduleReset 3) else .next s

/-- WDOG (R593): RSC_WDOG has expired; where module time counts, a whole period has passed since the last KICK. -/
def execWdog (s : State) : Outcome :=
  let due := s.start != 5 || decide (s.wdogAt + s.fld Reg.rscWdog 31 16 * 1000000 ≤ s.ns)
  if s.wdogOn && due then .next (s.moduleReset 4) else .next s

/-- ESCAL (R585): a step to RESET has been taken. -/
def execEscal (s : State) : Outcome :=
  if (s.window 7 0).isSome then .next (s.moduleReset 5) else .next s

/-- Enter the reset of a thermal trip (R606). -/
def State.thermReset (s : State) : State := ({ s with tripN := true, held := s.held.lor 2 } : State).moduleReset 6

/-- THERM (R547, R606): the trip enters and holds a reset; with `clear` its condition has ended. -/
def execTherm (clear : Bool) (s : State) : Outcome :=
  if clear then .next { s with tripN := false, held := s.held.land 5 } else .next s.thermReset

/-- Enter the reset of a supply fault: POWER_GOOD falls (Table 20.3). -/
def State.supplyReset (s : State) : State := ({ s with powerGood := false, held := s.held.lor 4 } : State).moduleReset 7

/-- POWER_GOOD rises: reset source POR (Table 18.1). -/
def State.powerUp (s : State) : State := ({ s with powerGood := true, sincePg := 0, held := s.held.land 3 } : State).moduleReset 1

/-- SUPPLY (R547): an input or rail fault enters and holds a reset; with `clear` the supply is back within its limits, and POWER_GOOD rises. -/
def execSupply (clear : Bool) (s : State) : Outcome :=
  if !clear then .next s.supplyReset
  else if s.power = .on ∧ s.powerGood = false then .next s.powerUp
  else .next { s with held := s.held.land 3 }

/-- DEBUG (R547, R615): an open debug session requests it. -/
def execDebug (s : State) : Outcome := if s.session then .next (s.moduleReset 8) else .next s

/-! ### Release order (R551 to R557, R368, R528, R530) -/


/-- The state that PINCFG gives a pin group (R557, Table 18.6): 0 high impedance, also before fuse sense, 1 driven low, 2 driven high, 3 weak pull-down; `none` once
the Rigger or a runtime register has taken the group over. Groups: 0 PPS_OUT, 1 TOD_TX, 2 REF10M_OUT, 3 UART transmit, 4 debug port outputs, 5 I3C lines. -/
def State.pinGroup (s : State) (g : Nat) : Option Nat :=
  let taken := if g < 3 then s.flag Reg.tmbOutctl g else if g = 4 then s.session else decide (2 ≤ s.start)
  let first := s.fld Reg.rscCause 15 8
  if s.power ≠ .on ∨ (s.start = 0 ∧ (first = 1 ∨ first = 7)) then some 0
  else if taken then none
  else some (s.fuse Fuse.pinCfg / 4 ^ g % 4)

/-- Bits set in a number of `n` bits. -/
def ones (n v : Nat) : Nat := ((List.range n).map (fun i => v / 2 ^ i % 2)).sum

/-- Mark the lanes of a mask of a bundle direction as bad. -/
def State.fuseLanes (s : State) (b dir mask : Nat) : State :=
  s.each 36 (fun s l => if mask / 2 ^ l % 2 = 1 then { s with laneBad := s.laneBad.set (fun _ => false) (128 * b + 64 * dir + l) true } else s)

/-- The enabled spare slots of each quad of a MXE_COLMAP word, as SPUSED shows them. -/
def slotsOn (w : Nat) : Nat := ((List.range 4).map (fun q => (w / 2 ^ (16 * q + 7) % 2 + w / 2 ^ (16 * q + 15) % 2) * 4 ^ q)).sum

/-- Channels of a stack leave service before it enters service; fewer than 8 left retire it (R368, R402). -/
def State.stackOut (s : State) (n : Nat) (cs : List Nat) : State :=
  let s := s.channelsOut n (cs.filter (fun c => !s.flag (Reg.hbcStat n) (48 + c)))
  if s.channels n < 8 then (s.channelsOut n ((List.range 16).filter (fun c => !s.flag (Reg.hbcStat n) (48 + c)))).retireStack n else s

/-- Channels of a mask. -/
def maskList (n mask : Nat) : List Nat := (List.range n).filter (fun c => mask / 2 ^ c % 2 == 1)

/-- Fuse sense (R555, R556): the security registers and the fused repairs; `soft` logical bits had three fuses that disagree. -/
def State.fuseSense (s : State) (soft : Nat) : State :=
  let s := (s.burn Fuse.keyRevoke ((s.fuse Fuse.keyRevoke).lor s.revokes))
  let s := { s with revokes := 0 }
  let inj := s.armed.any (fun a => a.reg == Reg.fltInj && a.kind == 11)
  let s := { s with armed := s.armed.filter (fun a => !(a.reg == Reg.fltInj && a.kind == 11)) }
  let s := s.bump Reg.fuseStat 31 0 (soft + b2n inj)
  let s := s.wr Reg.secLc (word [(56, s.fuse Fuse.svn % 256), (8, s.fuse Fuse.keyRevoke % 16), (0, s.fuse Fuse.lc % 16)])
  let s := s.wr Reg.secSerial (word [(0, s.fuse Fuse.serial % 2 ^ 64)])
  let s := s.each 16 (fun s n =>
    (s.wr (Reg.mxeColmap n) (word [(0, s.fuse (Fuse.mxeRep n) % 2 ^ 64)])).put (Reg.mxeStat n) 39 32 (slotsOn (s.fuse (Fuse.mxeRep n))))
  let s := s.each 64 (fun s k => s.fuseLanes (k / 2) (k % 2) (s.fuse (Fuse.laneBad (k / 2) (k % 2))))
  let s := s.each 16 (fun s n => s.stackOut n (maskList 16 (s.fuse (Fuse.hbmOut n))))
  (maskList 16 (s.fuse Fuse.dtcOut)).foldl (fun s n => (s.putBit (Reg.dtcStat n) 2 true).putBit (Reg.dtcStat n) 1 false) s

/-- Strand training (R527): the margins found select the lanes; the ends are those of discovery (R523, R530). -/
def State.trainStrands (s : State) (margins : List (List Nat)) : State :=
  let s := s.each 64 (fun s k => s.each 36 (fun s l =>
    { s with margins := s.margins.set (fun _ => 0) (128 * (k / 2) + 64 * (k % 2) + l) ((margins.getD k []).getD l 0) }))
  s.each 32 (fun s b =>
    let (x, y) := bundleEnds b
    let hub := decide (24 ≤ b)
    (s.setBundle b).wr (Reg.stlBstat b) (word [(62, (s.setBundle b).fld (Reg.stlBstat b) 63 62), (59, x), (56, y), (48, Config.bundleEnd b 0 % 16),
      (44, if hub then b - 24 else Config.bundleEnd b 1 % 16)]))

/-- Has a die no hub bundle in service; has a pair of dies no bundle in service (R528)? -/
def State.dieCut (s : State) : Bool := (List.range 4).any (fun d => s.pairOut (24 + 2 * d))
def State.pairCut (s : State) : Bool := (List.range 6).any (fun k => s.pairOut (4 * k))

/-- RIG_BUP.CAUSE of a start that fails by its strands (R528, R530): 0 none. -/
def State.strandCause (s : State) (b : Bringup) : Nat :=
  if (List.range 4).any (fun d => (b.dieMap.getD d none).isNone) || s.dieCut then 1
  else if s.pairCut then 2
  else if !b.consistent then 3
  else 0

/-- Does the memory fail the start (R368)? -/
def State.memoryFails (s : State) : Bool :=
  (List.range 16).all (fun n => s.flag (Reg.hbcStat n) 3) || decide (16 - s.dtcOuts < 8)

/-- The start fails (R544): STARTFAIL, CAUSE and a record. -/
def State.startFail (s : State) (cause : Nat) : State :=
  let s := (s.setStart 6).wr Reg.bup (word [(4, cause), (0, 1)])
  s.form { cls := if cause = 4 then 2 else 3, sev := 2, rtype := 3, det := 0, dom := 0, info := cause }

/-- HBC and DTC training and the wipe (R368, R458, R564, R565): channels that fail are mapped out. -/
def State.trainMemory (s : State) (hbmBad : List (Nat × Nat)) (dtcBad : List Nat) : State :=
  let bad := hbmBad.filter (fun x => decide (x.1 < 16) && decide (x.2 < 16) && !s.flag (Reg.hbcStat x.1) (48 + x.2))
  let s := s.each 16 (fun s n => s.stackOut n ((bad.filter (fun x => x.1 == n)).map Prod.snd))
  let s := bad.foldl (fun s x => s.outRecord (16 * x.1 + x.2) (repairEntry 5 x.1 x.2)) s
  let s := (dtcBad.filter (· < 16)).foldl (fun s n =>
    if s.flag (Reg.dtcStat n) 2 then s
    else ((s.putBit (Reg.dtcStat n) 2 true).putBit (Reg.dtcStat n) 1 false).outRecord (256 + n) (repairEntry 6 n 0)) s
  (s.put Reg.tirDfree 27 0 (Config.deepSectors s.dtcOuts)).syncHfree

/-- RESET_RELEASE (R551): with every held condition clear the domains are released; `b` says what the bring-up of steps 3 to 10 finds. -/
def execResetRelease (b : Bringup) (s : State) : Outcome :=
  if s.start ≠ 0 ∨ s.held ≠ 0 ∨ s.power ≠ .on ∨ s.powerGood = false then .next s
  else
    let s := ((s.fuseSense b.softFuses).setStart 1).wr Reg.cage (word [(8, s.cagePins % 2 ^ 24)])
    let s := s.each 2 (fun s n => s.putBit (Reg.hlkStat n) 5 (!s.perst.getD n false))
    let s := s.trainStrands b.margins
    let c := s.strandCause b
    if c ≠ 0 then .next (s.startFail c)
    else
      let s := (s.put Reg.bup0 63 32 (max 1 (Config.startTime s.free % 2 ^ 32)))
      let s := { s with discovered := true, free := s.free + 1 }
      let s := s.trainMemory b.hbmBad b.dtcBad
      if s.memoryFails then .next (s.startFail 4)
      else
        let s := s.put Reg.bup0 31 0 (max 1 (Config.startTime s.free % 2 ^ 32))
        .next { s with wiped := true, free := s.free + 1 }

/-- The code of a count of OPTSEL (Table 18.4): `none` in a guard band. -/
def optCode (c : Nat) : Option Nat :=
  if c ≤ 12 then some 0
  else if 243 ≤ c then some 15
  else if (c - 19) % 16 ≤ 9 ∧ 19 ≤ c then some ((c - 19) / 16 + 1)
  else none

/-- OPTSEL's code is taken: BOOTWAIT, the boot window opens, the physical layers of the host links start (R552, R554). -/
def State.takeOption (s : State) (code : Nat) : State :=
  let s := ((s.put Reg.rscStat 11 8 code).putBit Reg.disc 60 (decide (code < 8))).reopenBoot
  s.each 2 (fun s n => if s.perst.getD n false ∧ s.fld (Reg.hlkStat n) 1 0 = 0 then s.put (Reg.hlkStat n) 1 0 1 else s)

/-- OPTLOAD (R553): two counts of OPTSEL. -/
def execOptload (c1 c2 : Nat) (s : State) : Outcome :=
  if s.start ≠ 1 then .next s
  else
    match optCode c1 with
    | some k =>
      if optCode c2 = some k then .next (s.takeOption k)
      else if s.fld Reg.rscStat 7 6 < 3 then .next (s.bump Reg.rscStat 7 6 1)
      else .next ((s.putBit Reg.rscStat 5 true).takeOption 15)
    | none =>
      if s.fld Reg.rscStat 7 6 < 3 then .next (s.bump Reg.rscStat 7 6 1)
      else .next ((s.putBit Reg.rscStat 5 true).takeOption 15)

/-! ### The boot image (R558 to R563) -/

/-- BOOT_WINDOW_WRITE (R554, R558): a write that reaches the window through a link that is UP. -/
def execBootWindowWrite (link offset : Nat) (data : List Byte) (s : State) : Outcome :=
  if 2 ≤ link ∨ s.fld (Reg.hlkStat link) 1 0 ≠ 2 ∨ 2 ^ 25 < offset + data.length then .next s
  else if s.start = 2 ∧ (s.owned = false ∨ s.fld Reg.bootStat 9 9 = link) then
    .next { (s.put Reg.bootStat 9 9 link) with owned := true, bootWin := s.bootWin.setRun (fun _ => 0) offset data }
  else .next (s.bump Reg.bootStat 47 32 1)

/-- GO (R560, R562). -/
def execGo (ag : Agent) (s : State) : Outcome :=
  if !Who.barRig.admits ag then .next s
  else if s.start = 2 then .next (s.setStart 3)
  else .next (s.putBit Reg.bootStat 8 true)

/-- ABORT (R562). -/
def execAbort (ag : Agent) (s : State) : Outcome :=
  if Who.barRig.admits ag && s.start == 3 then .next s.reopenBoot else .next s

/-- Bytes of the boot window, and a 64-bit word of it. -/
def State.win (s : State) (off n : Nat) : List Byte := s.bootWin.getRun (fun _ => 0) off n
def State.winWord (s : State) (off : Nat) : Word := BitVec.ofNat 64 (ofBytes (s.win off 8))

/-- A section of the image (Table 18.8): TYPE, reserved bits, OFF, SLEN, LOAD. -/
structure BootSection where
  typ  : Nat
  resv : Nat
  off  : Nat
  len  : Nat
  load : Nat
  deriving DecidableEq, Repr

/-- The section table. -/
def State.sections (s : State) : List BootSection :=
  (List.range (bits (s.winWord 16) 5 0)).map (fun k =>
    let a := 2656 + 32 * k
    ⟨bits (s.winWord a) 63 60, bits (s.winWord a) 59 0, (s.winWord (a + 8)).toNat, (s.winWord (a + 16)).toNat, (s.winWord (a + 24)).toNat⟩)

/-- Do two sections overlap? -/
def BootSection.overlaps (x y : BootSection) : Bool :=
  decide (0 < x.len) && decide (0 < y.len) && decide (x.off < y.off + y.len) && decide (y.off < x.off + x.len)

/-- Does any section of a list overlap a later one? -/
def anyOverlap : List BootSection → Bool
  | [] => false
  | x :: xs => xs.any x.overlaps || anyOverlap xs

/-- BAD_HEADER of Table 18.9. -/
def State.badHeader (s : State) : Bool :=
  let w0 := s.winWord 0
  let w2 := s.winWord 16
  let len := bits (s.winWord 8) 63 32
  let entry := (s.winWord 24).toNat
  let ss := s.sections
  let n := ss.length
  let rigs := ss.filter (fun x => x.typ == 1)
  bits w0 63 32 != 0x57414C43 || bits w0 31 16 != 1 || bits w0 15 0 != 0 || bits w2 57 6 != 0 || (s.win 32 32).any (· != 0) || n == 0 ||
    ss.any (fun x => x.typ == 0 || decide (3 < x.typ) || x.resv != 0 || decide (x.off < 2656 + 32 * n) || decide (len < x.off + x.len + 4627)) ||
    anyOverlap ss || rigs.length != 1 || decide (1 < (ss.filter (fun x => x.typ == 3)).length) || rigs.any (fun x => decide (2 ^ 24 < x.len)) ||
    (entry != 0 && !ss.any (fun x => x.typ == 2 && decide (x.load ≤ entry) && decide (entry < x.load + x.len)))

/-- Is a key slot admitted in a life-cycle state (Table 18.10)? -/
def slotAdmitted (lc slot : Nat) : Bool :=
  if lc ≤ 1 then true else if lc = 3 then decide (1 ≤ slot) else if lc = 7 then slot == 3 else false

/-- Is a life-cycle request admitted (Table 18.10)? -/
def lcAdmitted (lc slot req : Nat) : Bool :=
  match req with
  | 0 => true
  | 2 => decide (lc ≤ 1) && decide (1 ≤ slot)
  | 3 => lc == 3 && slot == 3
  | 4 => lc != 15
  | _ => false

/-- RESULT of a verification: the first failing check of Table 18.9, else 1. -/
def State.verify (s : State) : Nat :=
  let len := bits (s.winWord 8) 63 32
  let slot := bits (s.winWord 16) 63 62
  let key := s.win 64 2592
  if s.badHeader then 2
  else if len < 12000 ∨ 33554432 < len then 3
  else if ofBytes (Config.sha3 key) ≠ s.fuse (Fuse.keyHash slot) then 4
  else if s.flag Reg.secLc (8 + slot) ∨ slotAdmitted s.lc slot = false then 5
  else if Config.mldsaVerify key (Config.sha3 (s.win 0 (len - 4627))) (s.win (len - 4627) 4627) = false then 6
  else if bits (s.winWord 8) 31 0 < s.fld Reg.secLc 63 56 then 7
  else if lcAdmitted s.lc slot (bits (s.winWord 16) 60 58) = false then 8
  else 1

/-- The image that the window holds. -/
def State.imageOf (s : State) : Image :=
  let w2 := s.winWord 16
  let len := bits (s.winWord 8) 63 32
  { keyslot := bits w2 63 62, isvn := bits (s.winWord 8) 31 0, raise := bit w2 61, lcreq := bits w2 60 58, entry := (s.winWord 24).toNat,
    digest := Config.sha3 (s.win 0 (len - 4627)),
    repair := ((s.sections.filter (fun x => x.typ == 3)).map (fun x => s.win x.off x.len)).flatten,
    cores := (s.sections.filter (fun x => x.typ == 2)).map (fun x => (x.load, s.win x.off x.len)) }

/-- The spare slot of a quad that is free, 0 or 1, unless the column has one already (R176). -/
def State.spareSlot (s : State) (mxe quad col : Nat) : Option Nat :=
  let m := s.rd (Reg.mxeColmap mxe)
  let on := fun k => bit m (16 * quad + 8 * k + 7)
  let is := fun k => on k && bits m (16 * quad + 8 * k + 6) (16 * quad + 8 * k) == col
  let used := s.fld (Reg.mxeStat mxe) (33 + 2 * quad) (32 + 2 * quad)
  if is 0 || is 1 || decide (2 ≤ used) then none else if !on 0 then some 0 else if !on 1 then some 1 else none

/-- Map a column of a quad to a spare slot: SPUSED counts it (Table 5.11). -/
def State.mapColumn (s : State) (mxe quad slot col : Nat) : State :=
  let s := s.put (Reg.mxeColmap mxe) (16 * quad + 8 * slot + 7) (16 * quad + 8 * slot) (128 + col)
  s.bump (Reg.mxeStat mxe) (33 + 2 * quad) (32 + 2 * quad) 1

/-- Apply one entry of the REPAIR section (Table 18.11): `none` where it is skipped. -/
def State.repair (s : State) (w : Word) : Option State :=
  let u := bits w 59 52
  match bits w 63 60 with
  | 1 =>
    if 16 ≤ u ∨ bits w 51 9 ≠ 0 then none
    else (s.spareSlot u (bits w 8 7) (bits w 6 0)).map (fun k => s.mapColumn u (bits w 8 7) k (bits w 6 0))
  | 2 => if 32 ≤ u ∨ bits w 51 7 ≠ 0 ∨ 36 ≤ bits w 5 0 then none else some (s.loseLane u (bits w 6 6) (bits w 5 0))
  | 3 => if 16 ≤ u ∨ bits w 51 29 ≠ 0 then none else some (s.bump (Reg.hbcRepcnt u) 63 48 1)
  | 4 => if 16 ≤ u ∨ bits w 51 11 ≠ 0 then none else some (s.bump (Reg.hbcRepcnt u) 47 32 1)
  | 5 => if 16 ≤ u ∨ bits w 51 4 ≠ 0 then none else some (s.stackOut u [bits w 3 0])
  | 6 => if 16 ≤ u ∨ bits w 51 0 ≠ 0 then none else some (s.dtcOut u)
  | _ => none

/-- Apply the entries of the REPAIR section; a skipped one counts in REPSKIP (R561). -/
def State.repairs (s : State) (bs : List Byte) : Nat → State
  | 0 => s
  | n + 1 =>
    let w : Word := BitVec.ofNat 64 (ofBytes (bs.take 8))
    let s := match s.repair w with
      | some t => t
      | none => s.bump Reg.bootStat 31 16 1
    s.repairs (bs.drop 8) n

/-- Write the CORE sections to HBM as class W data (R561). -/
def State.loadCores (s : State) : List (Nat × List Byte) → State
  | [] => s
  | (a, bs) :: cs =>
    let s := match s.writeMem (.plain 0) a bs with
      | .ok t => t
      | .error _ => s
    s.loadCores cs

/-- VERIFY_RESULT (R560, R561, Table 18.3). -/
def execVerifyResult (s : State) : Outcome :=
  if s.start ≠ 3 then .next s
  else
    let r := s.verify
    if r ≠ 1 then .next ((s.reopenBoot.put Reg.bootStat 3 0 r).bump Reg.bootStat 63 48 1)
    else
      let im := s.imageOf
      let s := { ((s.setStart 4).put Reg.bootStat 3 0 1) with image := some im, bootWin := [], wdogOn := true, wdogAt := s.ns }
      let s := s.put Reg.rscWdog 31 16 4000
      let s := (s.repairs im.repair (im.repair.length / 8)).syncHfree
      let c : Nat := if s.dieCut then 1 else if s.pairCut then 2 else if s.memoryFails then 4 else 0
      if c ≠ 0 then .next (s.startFail c) else .next (s.loadCores im.cores)

/-! ### Identity and attestation (R567, R568) -/

/-- A byte string cut or filled with zeros to `n` bytes. -/
def fit (n : Nat) (bs : List Byte) : List Byte := (bs ++ List.replicate n 0).take n

/-- The identity secret of the life-cycle state (Table 18.10). -/
def State.identity (s : State) : List Byte := if s.lc = 7 then List.replicate 32 0 else bytesOf 32 (s.fuse Fuse.uds)

/-- ISVN as 4 bytes and LC as 1 byte. -/
def State.tail5 (s : State) (im : Image) : List Byte := bytesOf 4 im.isvn ++ bytesOf 1 s.lc

/-- Seeds of the device key and of the alias key. -/
def State.deviceSeed (s : State) : List Byte := (Config.sha3 (s.identity ++ [1])).take 32
def State.aliasSeed (s : State) (im : Image) : List Byte := (Config.sha3 (s.identity ++ [2] ++ im.digest ++ s.tail5 im)).take 32

/-- The alias certificate (R568); none in SCRAP. -/
def State.certify (s : State) (im : Image) : List Byte :=
  if s.lc = 15 then []
  else Config.mldsaSign s.deviceSeed (Config.sha3 (Config.mldsaPublic (s.aliasSeed im) ++ im.digest ++ s.tail5 im))

/-- SELF_READY (R552, R561, R564): staged fuse writes, then steps 11 and 12: module time and BEAT_NOW start from 0; server cores start where the image gives
CORE_ENTRY. -/
def execSelfReady (s : State) : Outcome :=
  match s.image with
  | none => .next s
  | some im =>
    if s.start ≠ 4 ∨ s.wiped = false ∨ s.discovered = false then .next s
    else
      let s := if im.raise then s.burn Fuse.svn (max (s.fuse Fuse.svn) im.isvn) else s
      let s := match im.lcreq with
        | 2 => s.burn Fuse.lc 3
        | 3 => s.burn Fuse.lc 7
        | 4 => s.burn Fuse.lc 15
        | _ => s
      let s := (s.put Reg.secLc 63 56 (s.fuse Fuse.svn)).put Reg.secLc 3 0 (s.fuse Fuse.lc)
      let s := { s with sincePg := max 1 (Config.startTime s.free % 2 ^ 32), free := s.free + 1, ns := 0, frac := 0, wdogAt := 0,
                        aliasCert := s.certify im, coreHeld := if im.entry = 0 then s.coreHeld else [] }
      .next (((s.setStart 5).wr Reg.beatNow 0).noteTime Reg.bup1 63 32)

/-- SEC_ATTCMD.GO (R568). -/
def execSecAttcmd (ag : Agent) (s : State) : Outcome :=
  if !Who.barRig.admits ag then .next s
  else if s.attest then .next (s.put Reg.attStat 3 2 3)
  else if s.start ≠ 5 ∨ s.lc = 15 then .next (s.put Reg.attStat 3 2 2)
  else .next (({ s with attest := true } : State).putBit Reg.attStat 0 true)

/-- Words of a byte string. -/
def wordsOf (bs : List Byte) : Nat → List Word
  | 0 => []
  | n + 1 => BitVec.ofNat 64 (ofBytes (bs.take 8)) :: wordsOf (bs.drop 8) n

/-- Bytes 0 to 255 of the quote (Table 18.13). -/
def State.quote (s : State) (im : Image) : List Byte :=
  let st := word [(60, s.lc), (52, s.fld Reg.secLc 63 56), (44, im.isvn % 256), (42, im.keyslot), (38, s.fld Reg.rscStat 11 8), (27, s.fld Reg.hbcCap 10 0)]
  bytesOf 8 (s.rd Reg.secSerial).toNat ++ bytesOf 8 st.toNat ++ fit 64 im.digest ++
    (if im.repair.isEmpty then List.replicate 64 0 else fit 64 (Config.sha3 im.repair)) ++
    wordBytes ((List.range 8).map (fun i => s.rd (Reg.nonce i))) ++ bytesOf 8 s.ns ++ List.replicate 40 0

/-- ATTESTATION_QUOTE (R568). -/
def execAttestationQuote (s : State) : Outcome :=
  match s.image with
  | none => .next s
  | some im =>
    if !s.attest then .next s
    else
      let q := s.quote im
      let bs := q ++ fit 4640 (fit 4627 (Config.mldsaSign (s.aliasSeed im) q)) ++ fit 2592 (Config.mldsaPublic (s.aliasSeed im)) ++
        fit 4640 (fit 4627 s.aliasCert) ++ fit 2592 (Config.mldsaPublic s.deviceSeed)
      .next ((({ s with attest := false } : State).wrRun (Reg.secOut 0) (wordsOf bs 1840)).wr Reg.attStat (word [(2, 1)]))

/-! ### SEC_REVOKE and KICK (R566, R569) -/

/-- SEC_REVOKE: slots to revoke at the next start, the slot in use ignored. -/
def execSecRevoke (ag : Agent) (v : Word) (s : State) : Outcome :=
  if !isRig ag then .next s
  else
    let use := match s.image with
      | some im => 2 ^ im.keyslot
      | none => 0
    let m := bits v 3 0
    .next { s with revokes := s.revokes.lor (m - m.land use) }

/-- KICK, a write of RSC_WDOG: PERIOD, 0 ignored, and KICK. -/
def execKick (ag : Agent) (v : Word) (s : State) : Outcome :=
  if !isRig ag then .next s
  else
    let s := if bits v 31 16 = 0 then s else s.put Reg.rscWdog 31 16 (bits v 31 16)
    .next (if bit v 0 then { s with wdogAt := s.ns } else s)

end Sys2Proof.Machine
end

