-- ==== Sys2Proof/Machine/Power.lean ====
section
/-! DEFINITION. Power, cooling, connectors and signals (chapter 20). -/

namespace Sys2Proof.Machine

/-! ### Power states (R598, R599) -/

/-- Conversion is off: the module holds nothing but its fuses. -/
def State.powerDown (s : State) (p : Power) : State :=
  { (s.moduleReset 1) with regs := [], armed := [], power := p, powerGood := false, held := s.held.land 3 }

/-- Does the wake condition hold: input of at least 43.5 V (10 mV units), and PWR_EN or a HLn_PERST_N high? -/
def State.wakes (s : State) (input : Nat) : Bool := decide (4350 ≤ input) && (s.pwrEn || s.perst.any id)

/-- WAKE (R598). -/
def execWake (input : Nat) (pwrEn perst0 perst1 : Bool) (s : State) : Outcome :=
  if s.power ≠ .off then .next s
  else
    let s := { s with pwrEn := pwrEn, perst := [perst0, perst1] }
    .next (if s.wakes input then { s with power := .ramp } else s)

/-- RAILS_IN_REGULATION (R598): ON, POWER_GOOD high, reset source POR. -/
def execRailsInRegulation (s : State) : Outcome :=
  if s.power = .ramp then .next ({ s with power := .on } : State).powerUp else .next s

/-- RAMP_TIMEOUT (R598). -/
def execRampTimeout (s : State) : Outcome := if s.power = .ramp then .next (s.powerDown .latchoff) else .next s

/-- An input (rail 0) or rail fault (DET 0x81): POWER_GOOD low, reset source SUPPLY held. -/
def State.railFaults (s : State) (rail : Nat) (inj : Bool) : State :=
  (s.detect { cls := 9, sev := 3, rtype := 0, det := 0x81, inj := inj, dom := 7, info := rail }).supplyReset

/-- RAIL_FAULT (R598). -/
def execRailFault (rail : Nat) (s : State) : Outcome :=
  if s.power ≠ .on then .next s
  else
    let (inj, s) := s.takeInj Reg.pwrInj (if rail = 0 then 2 else 3) 0
    .next (s.railFaults rail inj)

/-- PWR_EN_FALL (R598, R599): PWR_EN was high, whether it woke the module or rose since. -/
def execPwrEnFall (s : State) : Outcome :=
  if s.power = .on then .next (({ s with pwrEn := false } : State).powerDown .off)
  else .next { s with pwrEn := false }

/-- PWR_OFF (R598, R619). -/
def execPwrOff (ag : Agent) (v : Word) (s : State) : Outcome :=
  if Who.barRig.admits ag && bits v 15 8 == 0x5A && bit v 0 && s.power == .on then .next (s.powerDown .off) else .next s

/-- INPUT_BELOW_40V (R598). -/
def execInputBelow40v (s : State) : Outcome := if s.power = .on then .next (s.powerDown .off) else .next s

/-- CONVERSION_OFF (R598, R606). -/
def execConversionOff (s : State) : Outcome :=
  if s.power = .on ∨ s.power = .ramp then .next (s.powerDown .latchoff) else .next s

/-- LATCHOFF_EXIT (R598): input below 5 V, or PWR_EN low for 10 ms and then high. -/
def execLatchoffExit (input : Nat) (cycled : Bool) (s : State) : Outcome :=
  if s.power ≠ .latchoff then .next s
  else if cycled then
    let s := { s with pwrEn := true, power := .off }
    .next (if s.wakes input then { s with power := .ramp } else s)
  else if input < 500 then .next { s with power := .off }
  else .next s

/-! ### Alerts (R617, Table 20.12) -/

/-- Set an alert bit; an enabled one that becomes set raises an in-band interrupt on a bus whose controller has given the target an address (R612). -/
def State.alarm (s : State) (b : Nat) : State :=
  let was := s.flag Reg.alert b
  let s := s.putBit Reg.alert b true
  if !was && s.flag Reg.amask b && s.i3cAddr != 0 then { s with i3cIrq := s.i3cIrq ++ [b] } else s

/-- A detector of Table 20.10 finds its condition: its alert bit is set; a record is formed where the condition has been absent for 1 s. -/
def State.condition (s : State) (det part b info : Nat) (inj : Bool) : State :=
  let key := 256 * det + part
  let seen := (s.alertAt.find? (fun a => a.1 == key)).map Prod.snd
  let fresh := match seen with
    | none => true
    | some t => decide (t + 1000000000 ≤ s.ns)
  let s := { s.alarm b with alertAt := (s.alertAt.filter (fun a => a.1 != key)) ++ [(key, s.ns)] }
  if fresh then s.form { cls := 9, sev := 0, rtype := 3, det := det, inj := inj, info := info } else s

/-- ALERT_N (R611): an enabled alert is set. -/
def State.alertN (s : State) : Bool := ((s.rd Reg.alert).toNat.land (s.rd Reg.amask).toNat) % 1024 != 0

/-! ### The power manager (R600 to R604) -/

/-- A cap as it is held (R600). -/
def heldCap (w : Nat) : Nat := min 3200 (max 1600 w)

/-- PWR_CAPHOST (R600, R619). -/
def execPwrCaphost (ag : Agent) (v : Word) (s : State) : Outcome :=
  if Who.barRig.admits ag then .next { s with capNext := s.capNext ++ [(0, heldCap (bits v 15 0))] } else .next s

/-- PWR_CAPBMC (R600, R619). -/
def execPwrCapbmc (ag : Agent) (v : Word) (s : State) : Outcome :=
  if Who.rigI3c.admits ag then .next { s with capNext := s.capNext ++ [(1, heldCap (bits v 15 0))] } else .next s

/-- Mezzanines whose 50 V is present. -/
def State.mezzanines (s : State) : Nat := (s.mz50.filter id).length

/-- The caps written take effect; PWR_CAPEFF is the lowest of the four limits, LIMITER the lowest code on a tie. -/
def State.applyCaps (s : State) (inv : Nat) : State :=
  let s := s.capNext.foldl (fun s c => s.put (if c.1 = 0 then Reg.capHost else Reg.capBmc) 15 0 c.2) s
  let limits := [3200, s.fld Reg.capHost 15 0, s.fld Reg.capBmc 15 0, 40 * inv * s.mezzanines / 100]
  let low := limits.foldl min 3200
  { (s.wr Reg.capEff (word [(16, limits.idxOf low), (0, low)])) with capNext := [] }

/-- The arithmetic clock, 100 MHz units. -/
def State.clk (s : State) : Nat := s.fld Reg.beatCyc 15 0 / 100

/-- The lateness of a piece committed so far counts under CLKSTEP (R93, R602, R604). -/
def State.noteStep (s : State) : State :=
  { s with pieces := s.pieces.map (fun p => if p.phase = .planned then p else { p with cyc := 65536 }) }

/-- A clock step to `clk` (R602). -/
def State.clockTo (s : State) (clk : Nat) : State :=
  let was := s.clk
  if clk = was then s
  else
    let s := s.recap (fun s => s.put Reg.beatCyc 15 0 (100 * clk))
    let s := if clk < was then s.noteStep else s
    let s := { (if clk < was then s.bump Reg.stepCnt 63 32 1 else s.bump Reg.stepCnt 31 0 1) with sinceStep := 0 }
    let s := if clk < 25 then s.alarm 9 else s
    if was = 25 ∨ clk = 25 then s.form { cls := 9, sev := 0, rtype := 3, det := 0x82, info := 100 * clk } else s

/-- R604 at a boundary; `none` where the capacity is full and nothing calls for less of it. -/
def State.shedLoad (s : State) (p1 p10 inv : Nat) : Option State :=
  let lost := s.mezzanines == 1
  let heavy := lost && decide (48 * inv < 100 * p1)
  let share := fun (s : State) (n : Nat) => { (s.recap (fun s => { s with capShare := n })).noteStep with sinceShare := 0 }
  if lost ∧ s.mzFirst = true then some (share { (s.clockTo 15) with mzFirst := false } 2)
  else if heavy then some (share s (min 8 (2 * s.capShare)))
  else if 1 < s.capShare then
    some (if p10 < s.fld Reg.capEff 15 0 ∧ 100 ≤ s.sinceShare then share s (s.capShare / 2) else s)
  else none

/-- Is a thermal hold in force (R605)? -/
def State.thermalHold (s : State) : Bool := !s.hot.isEmpty

/-- The decisions of Table 20.4. -/
def State.clockDecide (s : State) (p1 p10 p1000 inv : Nat) : State :=
  match s.shedLoad p1 p10 inv with
  | some t => t
  | none =>
    let cap := s.fld Reg.capEff 15 0
    let down := s.clockTo (max 15 (s.clk - 1))
    if 17 * cap < 16 * p1 then down
    else if s.thermalHold ∧ 100 ≤ s.sinceStep then down
    else if cap < p10 ∧ 10 ≤ s.sinceStep then down
    else if s.thermalHold = false ∧ 100 * p1000 < 95 * cap ∧ 1000 ≤ s.sinceStep then s.clockTo (min 25 (s.clk + 1))
    else s

/-- The power manager at a beat boundary: `p1`, `p10`, `p1000` in W, `inv` the input in 10 mV units. -/
def State.powerBoundary (s : State) (p1 p10 p1000 inv : Nat) : State :=
  let s := if s.capShare ≠ 1 then s.bump Reg.lowBeat 63 32 1
    else if s.clk < 25 then (if s.thermalHold then s.bump Reg.lowBeat 31 0 1 else s.bump Reg.lowBeat 63 32 1)
    else s
  let s := s.applyCaps inv
  let above := s.clk == 15 && decide (s.fld Reg.capEff 15 0 < p10)
  let s := { s with sinceStep := s.sinceStep + 1, sinceShare := s.sinceShare + 1, p10 := p10, floorB := if above then s.floorB + 1 else 0 }
  let s := s.clockDecide p1 p10 p1000 inv
  let s := if (4300 ≤ inv ∧ inv < 4400) ∨ (5800 < inv ∧ inv ≤ 5900) then s.condition 0x80 0 0 inv false else s
  s.wr Reg.pwrStat (word [(48, p1 % 2 ^ 16), (32, inv % 2 ^ 16), (24, s.clk), (19, b2n (s.mz50.getD 1 false)), (18, b2n (s.mz50.getD 0 false)),
    (17, b2n s.thermalHold), (16, b2n (s.clk == 15))])

/-- CAPFAIL (R603): after 10 ms at 1.5 GHz with P10 above the cap, or by injection. -/
def execCapfail (p10 : Nat) (s : State) : Outcome :=
  let (inj, t) := s.takeInj Reg.pwrInj 4 0
  if inj || decide (10000 ≤ s.floorB) then .next (t.condition 0x83 0 1 (p10 % 2 ^ 16) inj) else .next s

/-- Loss of a mezzanine's 50 V as the power manager reports it. -/
def State.mzAlert (s : State) (n : Nat) (inj : Bool) : State := s.condition 0x89 n 7 (2 ^ (n % 2)) inj

/-- A mezzanine's 50 V is lost while the other is present (R604). -/
def State.mzLost (s : State) (n : Nat) (inj : Bool) : State :=
  (({ s with mz50 := s.mz50.set n false, mzFirst := true } : State).putBit Reg.pwrStat (18 + n) false).mzAlert n inj

/-- A mezzanine's 50 V is back (R604). -/
def State.mzBack (s : State) (n : Nat) (inj : Bool) : State :=
  (({ s with mz50 := s.mz50.set n true, mzFirst := false } : State).putBit Reg.pwrStat (18 + n) true).form
    { cls := 9, sev := 0, rtype := 3, det := 0x89, inj := inj, info := 2 ^ n }

/-- MZLOSS (R604): the other mezzanine is present. -/
def execMzloss (n : Nat) (s : State) : Outcome :=
  if s.power = .on ∧ n < 2 ∧ s.mz50.getD n false = true ∧ s.mezzanines = 2 then
    .next (s.mzLost n false)
  else .next s

/-- MEZZANINE_SUPPLY_RETURN (R604). -/
def execMezzanineSupplyReturn (n : Nat) (s : State) : Outcome :=
  if s.power = .on ∧ n < 2 ∧ s.mz50.getD n false = false then
    .next (s.mzBack n false)
  else .next s

/-! ### Heat (R605 to R607) -/

/-- The parts with their reading: 0 to 3 Cd, 4 hub, 16 + package, 32 + stack (Table 20.10). -/
def tempParts (t : Temps) : List (Nat × Option Int) :=
  ((t.dies.take 5).zipIdx.map (fun x => (x.2, x.1))) ++ ((t.packages.take 16).zipIdx.map (fun x => (16 + x.2, x.1))) ++
    ((t.hbm.take 16).zipIdx.map (fun x => (32 + x.2, x.1)))

/-- Thresholds of a part, °C (Table 20.5): hold, alert, trip. -/
def thresholds (part : Nat) : Int × Int × Int :=
  if part < 16 then (100, 105, 115) else if part < 32 then (95, 95, 105) else (105, 105, 110)

/-- A part's temperature for a hold: one whose readout fails counts as standing at its hold threshold (R607). -/
def heldAt (x : Nat × Option Int) : Int :=
  match x.2 with
  | some t => t
  | none => (thresholds x.1).1

/-- Holds that are in force after a reading: they end when every part stands 5 °C below its threshold (R605). -/
def holdsOf (was : List Nat) (ps : List (Nat × Option Int)) : List Nat :=
  let now := (ps.filter (fun x => decide ((thresholds x.1).1 ≤ heldAt x))).map Prod.fst
  if !now.isEmpty then now
  else if ps.all (fun x => decide (heldAt x + 5 ≤ (thresholds x.1).1)) then []
  else was

/-- The alerts of one part's reading; an armed injection makes it report its condition (R618). -/
def State.partAlert (s : State) (x : Nat × Option Int) : State :=
  let p := x.1
  let (fail, s) := s.takeInj Reg.pwrInj 9 p
  let (hot, s) := if 32 ≤ p then s.takeInj Reg.pwrInj 7 (p - 32) else s.takeInj Reg.pwrInj 5 p
  let s := if fail || x.2.isNone then s.condition 0x88 p 6 p fail else s
  let t := if hot then some (thresholds p).2.1 else x.2
  match t with
  | none => s
  | some t =>
    if t < (thresholds p).2.1 then s
    else if 32 ≤ p then s.condition 0x86 p 3 (p - 32) hot
    else s.condition 0x84 p (if 16 ≤ p then 4 else 2) (256 * p + trunc 8 t) hot

/-- A part as an armed injection makes its sensor report it for one reading (R618): failed, or at its alert threshold. -/
def State.reported (s : State) (x : Nat × Option Int) : Nat × Option Int :=
  if s.isArmed Reg.pwrInj 9 x.1 then (x.1, none)
  else if 32 ≤ x.1 && s.isArmed Reg.pwrInj 7 (x.1 - 32) || decide (x.1 < 32) && s.isArmed Reg.pwrInj 5 x.1 then (x.1, some (thresholds x.1).2.1)
  else x

/-- The highest of a list of readings, in 8-bit two's complement; `old` where none reads. -/
def hottest (old : Nat) (ts : List (Option Int)) : Nat :=
  match ts.filterMap id with
  | [] => old
  | t :: r => trunc 8 (r.foldl max t)

/-- The larger of two temperatures in 8-bit two's complement. -/
def peak (a b : Nat) : Nat := if sext 8 a < sext 8 b then b else a

/-- THM_DIE, THM_MEM, THM_COOL and THM_PEAK take a reading. -/
def State.readTemps (s : State) (t : Temps) : State :=
  let s := (t.dies.take 5).zipIdx.foldl (fun s x => match x.1 with
    | some v => s.put Reg.thmDie (8 * x.2 + 7) (8 * x.2) (trunc 8 v)
    | none => s) s
  let lp := hottest (s.fld Reg.thmMem 15 8) t.packages
  let hb := hottest (s.fld Reg.thmMem 7 0) t.hbm
  let s := s.wr Reg.thmMem (word [(8, lp), (0, hb)])
  let s := s.wr Reg.thmCool (word [(8, trunc 8 t.outlet), (0, trunc 8 t.inlet)])
  let di := hottest (s.fld Reg.thmPeak 7 0) (t.dies.take 5)
  s.wr Reg.thmPeak (word [(8, peak (s.fld Reg.thmPeak 15 8) hb), (0, peak (s.fld Reg.thmPeak 7 0) di)])

/-- Enter THERM for a part (R606, DET 0x85). -/
def State.tripPart (s : State) (part : Nat) (inj : Bool) : State :=
  (s.detect { cls := 9, sev := 3, rtype := 0, det := 0x85, inj := inj, dom := 7, info := part }).thermReset

/-- A condition that persists sets its bit again (R617). -/
def State.again (s : State) (det part b : Nat) (still : Bool) : State :=
  let key := 256 * det + part
  if still && s.alertAt.any (fun a => a.1 == key) then
    { s.alarm b with alertAt := (s.alertAt.filter (fun a => a.1 != key)) ++ [(key, s.ns)] }
  else s

/-- Conditions without a sensor of their own that persist: the clock below 2.5 GHz, the cap not held, a mezzanine's 50 V lost, a cage's supply off. -/
def State.persisting (s : State) : State :=
  let s := if s.clk < 25 then s.alarm 9 else s
  let s := s.again 0x83 0 1 (decide (10000 ≤ s.floorB))
  let s := (s.again 0x89 0 7 (!s.mz50.getD 0 false)).again 0x89 1 7 (!s.mz50.getD 1 false)
  s.each 8 (fun s k => s.again 0x89 (8 + k) 8 (s.flag Reg.cage k))

/-- An armed loss of a mezzanine's 50 V is reported for one reading, and acts as one (R594, R604, R618); KIND 10 names none, and MZ0 is taken (DESIGN CHOICE,
log entry 164). -/
def State.mezzanineReading (s : State) : State :=
  let s := if s.mzInj then ({ s with mzInj := false } : State).mzBack 0 true else s
  let (mz, s) := s.takeInj Reg.pwrInj 10 0
  if !mz then s
  else if s.mezzanines = 2 then ({ s with mzInj := true } : State).mzLost 0 true
  else s.mzAlert 0 true

/-- What a reading reports beside the sensors: conditions that persist (R617), and injections of an input fault or a rail fault, a trip, a cap failure, an
input alert, a lost mezzanine (R618). -/
def State.injectedReading (s : State) (ps : List (Nat × Option Int)) : State :=
  let s := s.persisting
  let (ia, s) := s.takeInj Reg.pwrInj 1 0
  let s := if ia then s.condition 0x80 0 0 (s.fld Reg.pwrStat 47 32) true else s
  let (cf, s) := s.takeInj Reg.pwrInj 4 0
  let s := if cf then s.condition 0x83 0 1 (s.p10 % 2 ^ 16) true else s
  let s := s.mezzanineReading
  let (inp, s) := s.takeInj Reg.pwrInj 2 0
  let (rail, s) := s.takeInj Reg.pwrInj 3 0
  match ps.find? (fun x => s.isArmed Reg.pwrInj 6 x.1) with
  | some x => (s.disarm Reg.pwrInj 6 x.1).tripPart x.1 true
  | none => if inp then s.railFaults 0 true else if rail then s.railFaults 1 true else s

/-- SENSOR_READING (R605, R607): once every 1 ms. While the reset is held only the trip comparators act. -/
def execSensorReading (t : Temps) (s : State) : Outcome :=
  let ps := tempParts t
  let s := { s with cooled := ps.all (fun x => decide (heldAt x + 15 ≤ (thresholds x.1).2.2)) }
  if s.power ≠ .on ∨ s.start = 0 then .next s
  else
    let s := s.readTemps t
    let s := { s with hot := holdsOf s.hot (ps.map s.reported) }
    let s := s.putBit Reg.pwrStat 17 s.thermalHold
    let s := ps.foldl (fun s x => s.partAlert x) s
    let (cool, s) := s.takeInj Reg.pwrInj 8 0
    let out := cool || decide (t.inlet < 25) || decide (45 < t.inlet) || decide (60 < t.outlet)
    let s := if out then s.condition 0x87 0 5 (256 * trunc 8 t.outlet + trunc 8 t.inlet) cool else s
    .next (s.injectedReading ps)

/-- THERMAL_TRIP (R606): a part at or above its trip threshold. -/
def execThermalTrip (part : Nat) (temp : Int) (s : State) : Outcome :=
  if s.power = .on ∧ (thresholds part).2.2 ≤ temp then
    let (inj, s) := s.takeInj Reg.pwrInj 6 part
    .next (s.tripPart part inj)
  else .next s

/-- TRIP_CLEAR (R606): every part has stood 15 °C below its trip threshold for 1 s. -/
def execTripClear (s : State) : Outcome :=
  if s.tripN && s.cooled then .next { s with tripN := false, held := s.held.land 5 } else .next s

/-! ### Cages (R609) -/

/-- CAGE_PRESENCE: a presence pin changes; the supply of a cage is on while one of its pins reads low. -/
def execCagePresence (cage pos : Nat) (low : Bool) (s : State) : Outcome :=
  if 8 ≤ cage ∨ 3 ≤ pos then .next s
  else
    let k := 3 * cage + pos
    let rest := s.cagePins - s.cagePins.land (2 ^ k)
    .next (({ s with cagePins := rest + (if low then 2 ^ k else 0) } : State).putBit Reg.cage (8 + k) low)

/-- Is a cage's supply on? -/
def State.cageOn (s : State) (cage : Nat) : Bool := s.cagePins / 2 ^ (3 * cage) % 8 != 0 && !s.flag Reg.cage cage

/-- CAGE_OVERCURRENT: the supply shuts off. -/
def execCageOvercurrent (cage : Nat) (s : State) : Outcome :=
  if cage < 8 ∧ s.cageOn cage = true then
    .next ((s.putBit Reg.cage cage true).condition 0x89 (8 + cage) 8 (2 ^ (8 + cage)) false)
  else .next s

/-! ### Management and test ports (R612 to R615) -/

/-- SETDASA (R612): a target that has no dynamic address takes it. -/
def execSetdasa (addr : Nat) (s : State) : Outcome :=
  if s.i3cAddr = 0 ∧ addr < 128 then .next { s with i3cAddr := addr } else .next s

/-- ENTDAA (R612): a target that has no dynamic address takes part and is given one. -/
def execEntdaa (addr : Nat) (s : State) : Outcome :=
  if s.i3cAddr = 0 ∧ addr < 128 then .next { s with i3cAddr := addr } else .next s

/-- EXTEST (R614): only while MOD_RESET_N is held low. -/
def execExtest (s : State) : Outcome := if s.pinHigh then .next s else .next { s with jtag := 0x00 }

/-- IDCODE (R614). -/
def execIdcode (s : State) : Outcome := .next { s with jtag := 0x01, reply := some 0x01616E4B#64 }

/-- SAMPLE_PRELOAD (R614): only while MOD_RESET_N is held low. -/
def execSamplePreload (s : State) : Outcome := if s.pinHigh then .next s else .next { s with jtag := 0x02 }

/-- BYPASS (R614). -/
def execBypass (s : State) : Outcome := .next { s with jtag := 0xFF }

/-- Does the life-cycle state admit a debug session now, and does it need a signature (Table 18.10)? -/
def State.debugAdmits (s : State) : Bool × Bool :=
  let lc := s.fuse Fuse.lc
  if lc ≤ 1 then (true, false)
  else if lc = 3 then (s.start == 2 || s.start == 6, true)
  else if lc = 7 then (true, true)
  else (false, true)

/-- DBGAUTH (R615): the challenge, with 32 fresh random bytes, and the debugger's answer to it. -/
def execDbgauth (random : BitVec 256) (req : Word) (key sig : List Byte) (s : State) : Outcome :=
  let serial := bytesOf 8 (s.fuse Fuse.serial)
  let ch := Config.sha3 (serial ++ bytesOf 8 s.ns ++ bytesOf 32 random.toNat)
  let s := { s with jtag := 0x10, challenge := ch }
  let (admits, signed) := s.debugAdmits
  let good := ofBytes (Config.sha3 key) == s.fuse (Fuse.keyHash 3) && s.fuse Fuse.keyRevoke / 8 % 2 == 0 &&
    Config.mldsaVerify key (ch ++ serial ++ bytesOf 8 req.toNat) sig
  .next (if admits && (!signed || good) then { s with session := true } else s)

/-! ### Injections (R618) -/

/-- Arm a PWR_INJ injection. -/
def State.armPower (s : State) (ag : Agent) (kind target : Nat) : Outcome :=
  if isRig ag then .next (s.arm Reg.pwrInj kind target) else .next s

/-- PWR_INJ KIND 1. -/
def execPwrInjInputAlert (ag : Agent) (_target : Nat) (s : State) : Outcome := s.armPower ag 1 0

/-- PWR_INJ KIND 2. -/
def execPwrInjInputFault (ag : Agent) (_target : Nat) (s : State) : Outcome := s.armPower ag 2 0

/-- PWR_INJ KIND 3. -/
def execPwrInjRailFault (ag : Agent) (_target : Nat) (s : State) : Outcome := s.armPower ag 3 0

/-- PWR_INJ KIND 4. -/
def execPwrInjCapfail (ag : Agent) (_target : Nat) (s : State) : Outcome := s.armPower ag 4 0

/-- PWR_INJ KIND 5: TARGET names the part. -/
def execPwrInjHot (ag : Agent) (target : Nat) (s : State) : Outcome := s.armPower ag 5 target

/-- PWR_INJ KIND 6: TARGET names the part. -/
def execPwrInjTrip (ag : Agent) (target : Nat) (s : State) : Outcome := s.armPower ag 6 target

/-- PWR_INJ KIND 7: TARGET names the stack. -/
def execPwrInjHbmHot (ag : Agent) (target : Nat) (s : State) : Outcome := s.armPower ag 7 target

/-- PWR_INJ KIND 8. -/
def execPwrInjCoolant (ag : Agent) (_target : Nat) (s : State) : Outcome := s.armPower ag 8 0

/-- PWR_INJ KIND 9: TARGET names the part. -/
def execPwrInjSensor (ag : Agent) (target : Nat) (s : State) : Outcome := s.armPower ag 9 target

/-- PWR_INJ KIND 10. -/
def execPwrInjMezzanine (ag : Agent) (_target : Nat) (s : State) : Outcome := s.armPower ag 10 0

end Sys2Proof.Machine
end

