-- ==== Sys2Proof/Machine/Cost.lean ====
section
/-! DEFINITION. What the pieces of an op may be, and what each costs on its unit (R76): runs of passes (R166, R169), epilogues (R226), vector rows
(R236), tile pairs (R273), stem groups (R295), blocks of a stack (R322, R387), ROOT products (R327), hawser and strand traffic (R350, R535, R629), samples
(R487). -/

namespace Sys2Proof

open Sys2Proof.Machine

/-! ### Parts and runs -/

/-- A part without a range, a direction or runs. -/
def Part.plain (x : Part) : Bool := x.dir == 0 && x.lo == 0 && x.hi == 0 && x.runs.isEmpty

/-- Is a part the way of data between units of the module: on a strand bundle, or on no scheduled unit (R196, R629)? -/
def Part.isWay (x : Part) : Bool := x.kind == 255 || x.kind == 152

/-- The band of a run, as a run of no steps. -/
def Run.band (k : Run) : Run := { k with start := 0, stop := 0 }

/-- The steps of a band. -/
def Run.steps (k : Run) (d : Obj) : Nat := (k.hi - k.lo) * bandGroups d k.r0 k.h

/-- Does a run cover a tile? -/
def Run.onTile (k : Run) (t : Nat × Nat × Nat) : Bool := k.p == t.1 && k.c == t.2.2 && decide (k.r0 ≤ t.2.1) && decide (t.2.1 < k.r0 + k.h)

/-- Is a run one of a band that the accumulator mode and the tree allow? -/
def Run.allowed (k : Run) (x : Shape) (d : Obj) : Bool :=
  decide (k.quad < 4) && decide (0 < k.h) && decide (k.h ≤ bandMax x.acc) && decide (k.r0 + k.h ≤ d.tr) && decide (k.c < d.tc) && decide (k.start < k.stop) &&
    decide (k.stop ≤ k.steps d) && x.isNode k.lo k.hi treeFuel x.own.1 x.own.2

end Sys2Proof

namespace Sys2Proof.Machine

/-! ### Splits in general (R83) -/

/-- Do parts, in order, cover the numbers from `a` to `m` − 1, each once? -/
def partsRun (m : Nat) : Nat → List Part → Bool
  | a, [] => a == m
  | a, x :: xs => x.first == a && decide (0 < x.n) && partsRun m (a + x.n) xs

/-- Do parts that take a range inside one work unit cover it from `a` to `m` − 1? -/
def rangesRun (m : Nat) : Nat → List Part → Bool
  | a, [] => a == m
  | a, x :: xs => x.n == 1 && x.lo == a && decide (x.lo < x.hi) && rangesRun m x.hi xs

/-- Parts of a kind. -/
def partsOf (split : List Part) (kind : Nat) : List Part := split.filter (fun x => x.kind == kind)

/-- The shape of the product that an op's MXE or stem engine pieces form. -/
def OpRec.shape (o : OpRec) : Option (Shape × Obj) :=
  match o.d.cls, o.d.op with
  | 1, _ => o.matrixShape
  | 4, _ | 5, _ => o.convShape
  | 8, 1 => o.gramShape
  | _, _ => none

/-! ### Bands (R144, R166, R169, R195) -/

/-- Do runs, in order, take a band from step `a` to its end? -/
def runsRun (m : Nat) : Nat → List Run → Bool
  | a, [] => a == m
  | a, k :: ks => k.start == a && runsRun m k.stop ks

/-- The parts that form a tile: nodes of its tree that do not meet and make up the module's own slices. -/
def nodesMeet (x : Shape) (ns : List (Nat × Nat)) : Bool :=
  decide ((ns.map (fun n => n.2 - n.1)).sum = x.own.2 - x.own.1) && ns.all (fun a => ns.all (fun b => a == b || decide (a.2 ≤ b.1) || decide (b.2 ≤ a.1)))

/-- The nodes that bands form of a tile. -/
def bandNodes (bands : List Run) (t : Nat × Nat × Nat) : List (Nat × Nat) := (bands.filter (fun b => b.onTile t)).map (fun b => (b.lo, b.hi))

/-- Are the MXE parts of a product sound: on each quad a run of one band, every band run from end to end, every tile formed? -/
def OpRec.bandsOk (o : OpRec) (x : Shape) (d : Obj) (xs : List Part) : Bool :=
  let runs := (xs.map Part.runs).flatten
  let bands := (runs.map Run.band).eraseDups
  xs.all (fun y => !y.runs.isEmpty && (y.runs.map Run.quad).Nodup && y.dir == 0 && y.first == 0 && y.n == 0 && y.lo == 0 && y.hi == 0) &&
    runs.all (fun k => k.allowed x d) && bands.all (fun b => runsRun (b.steps d) 0 (runs.filter (fun k => k.band == b))) &&
    (List.range o.units).all (fun u => nodesMeet x (bandNodes bands (o.tileOf d u)))

/-- The nodes of work unit `u` that a split forms. -/
def OpRec.nodesOf (o : OpRec) (x : Shape) (d : Obj) (split : List Part) (u : Nat) : List (Nat × Nat) :=
  if o.d.cls = 5 then (if o.d.op = 2 then (List.range x.frames).map (fun f => (f * x.per, (f + 1) * x.per)) else [(0, x.per)])
  else bandNodes ((((partsOf split 0).map Part.runs).flatten.map Run.band).eraseDups) (o.tileOf d u)

/-- Are the ways of node tiles sound: each of a node without slice 0, at most one for a node? -/
def OpRec.waysOk (o : OpRec) (x : Shape) (d : Obj) (split : List Part) : Bool :=
  let ws := split.filter Part.isWay
  ws.all (fun w => w.n == 1 && decide (w.first < o.units) && w.lo != x.own.1 && w.runs.isEmpty && (o.nodesOf x d split w.first).contains (w.lo, w.hi)) &&
    (ws.map (fun w => (w.first, w.lo, w.hi))).Nodup

/-- Are the port parts of a mirrored op sound (R364): at another rank every block of every node tile sent to rank 0, at rank 0 every one received? -/
def OpRec.mirrorOk (o : OpRec) (x : Shape) (split : List Part) : Bool :=
  let ps := partsOf split 56
  let m := msgBlocks (nodeTileBytes x.acc)
  if !o.mirrored then ps.isEmpty
  else
    let us := if o.rank = 0 then (List.range ((mirrorCut x.slices o.size).length - 1)).map (· + 1) else [0]
    ps.all (fun p => p.dir == (if o.rank = 0 then 1 else 0) && us.contains (p.first / o.units) && p.runs.isEmpty) &&
      us.all (fun r => (List.range o.units).all (fun u => rangesRun m 0 (ps.filter (fun p => p.first == r * o.units + u))))

/-- Does a rank of a mirrored group other than 0 hand its tiles on instead of storing them? -/
def OpRec.handsOn (o : OpRec) : Bool := o.mirrored && o.rank != 0

/-- The epilogues of a product's tiles. -/
def OpRec.epiOk (o : OpRec) (split : List Part) : Bool :=
  let es := partsOf split 16
  if o.handsOn then es.isEmpty else es.all Part.plain && partsRun o.units 0 es

/-- The pieces of a product on MXEs. -/
def OpRec.productSplit (o : OpRec) (x : Shape) (d : Obj) (split : List Part) : Bool :=
  split.all (fun y => y.kind == 0 || y.kind == 16 || y.kind == 56 || y.isWay) && o.bandsOk x d (partsOf split 0) && o.epiOk split && o.waysOk x d split &&
    o.mirrorOk x split

/-! ### Stem groups (R295) -/

/-- Do parts, in order, take groups of `m` slices from position `a` on to the last: whole groups, or a run of slices of one? -/
def groupsRun (m total : Nat) : Nat → List Part → Bool
  | a, [] => a == total
  | a, x :: xs =>
    x.first * m + x.lo == a && decide (0 < x.n) && decide (x.lo < x.hi) && decide (x.hi ≤ m) && (x.n == 1 || x.lo == 0 && x.hi == m) &&
      groupsRun m total ((x.first + x.n - 1) * m + x.hi) xs

/-- The pieces of a STEM op. -/
def OpRec.stemSplit (o : OpRec) (x : Shape) (d : Obj) (split : List Part) : Bool :=
  split.all (fun y => y.kind == 36 || y.kind == 16 || y.isWay) && (partsOf split 36).all (fun y => y.dir == 0 && y.runs.isEmpty) &&
    groupsRun x.per (o.stemGroups * x.per) 0 (partsOf split 36) && o.epiOk split && o.waysOk x d split

/-! ### Attention, ROOT, the cascade, samples -/

/-- Do parts of three kinds, each the same range of pairs, in order take the query tiles from (unit `a`, key tile `l`) to unit `m`: whole ones, or a run of
key tiles of one (R267, R273)? -/
def pairsRun (m : Nat) : Nat → Nat → List Part → Bool
  | a, l, x :: y :: z :: xs =>
    x.kind == 0 && y == { x with kind := 32 } && z == { x with kind := 16 } && x.dir == 0 && x.runs.isEmpty && x.first == a && x.lo == l &&
      decide (0 < x.n) && (x.hi == 0 && (l == 0 || x.n == 1) || x.n == 1 && decide (l < x.hi)) &&
      (if x.hi = 0 then pairsRun m (a + x.n) 0 xs else pairsRun m a x.hi xs)
  | a, l, xs => xs.isEmpty && a == m && l == 0

/-- The pieces of an ROOT op for planes that `g` names: a product each, in order, and the steps of the iterations on the VXE (R327). -/
def OpRec.rootParts (o : OpRec) (g : Part) : List Part :=
  let q := rootProducts o.rootP
  ((List.range (o.d.at 396 5)).map (fun i => (List.range q).map (fun k => ({ g with lo := i * q + k } : Part)) ++ [({ g with kind := 16, lo := i } : Part)])).flatten

/-- The pieces of a ROOT op: up to four planes, one to a quad. -/
def OpRec.rootSplit (o : OpRec) (split : List Part) : Bool :=
  let gs := (partsOf split 0).filter (fun x => x.lo == 0)
  gs.all (fun g => g.plain && decide (g.n ≤ 4)) && partsRun o.units 0 gs && split == (gs.map o.rootParts).flatten

/-- Bytes of the message of a tile of a pairwise op. -/
def OpRec.tileBytes (o : OpRec) : Nat := ((if o.d.op = 0x41 then o.obj 0 else o.obj 3).map Obj.msgBytes).getD 0

/-- The pieces of an XSEND or XRECV: the blocks of every tile. -/
def OpRec.pairSplit (o : OpRec) (split : List Part) : Bool :=
  split.all (fun x => x.kind == 56 && x.dir == (if o.d.op = 0x41 then 0 else 1) && decide (x.first < o.units) && x.runs.isEmpty) &&
    (List.range o.units).all (fun t => rangesRun (msgBlocks o.tileBytes) 0 (split.filter (fun x => x.first == t)))

/-- Ring steps of a collective (R350). -/
def OpRec.ringSteps (o : OpRec) : Nat := if o.d.cls = 7 ∧ o.d.op = 0x40 then 2 * (o.size - 1) else o.size - 1

/-- s_b: bytes of a shard of bucket `b` (R350). -/
def OpRec.shardBytes (o : OpRec) (b : Nat) : Nat := ceilDiv (o.d.bucketUnits b) (2 * o.size) * 128

/-- The pieces of a collective: in each bucket on each side, 0 right and clockwise, 1 left, block by block of each ring step, one sent and one received (R348,
R350). `lo` is the block, over all steps. -/
def OpRec.ringParts (o : OpRec) : List Part :=
  ((List.range o.d.buckets).map (fun b => ((List.range (o.ringSteps * msgBlocks (o.shardBytes b))).map (fun k =>
    [(0, 0), (0, 1), (1, 0), (1, 1)].map (fun y => (⟨56, y.2, b, 1, k, y.1, []⟩ : Part)))).flatten)).flatten

/-- The pieces of samples: each row's in order, each of at most 2,000 cycles (R487). `lo` numbers them, `hi` is what each takes. -/
def samplesRun (m : Nat) : Nat → Nat → List Part → Bool
  | a, k, [] => a == m && k == 0 || a + 1 == m && k != 0
  | a, k, x :: xs =>
    x.kind == 184 && x.dir == 0 && x.n == 1 && x.runs.isEmpty && decide (0 < x.hi) && decide (x.hi ≤ 2000) &&
      (if x.first = a ∧ x.lo = k then samplesRun m a (k + 1) xs
       else x.first == a + 1 && x.lo == 0 && k != 0 && samplesRun m (a + 1) 1 xs)

/-- Is a split one that the owning chapter allows for the op (R76, R83)? -/
def OpRec.splitOk (o : OpRec) (split : List Part) : Bool :=
  let one := fun (kind : Nat) => split.all (fun x => x.kind == kind && x.plain) && partsRun o.units 0 split
  match o.d.cls, o.d.op with
  | 2, _ | 6, 1 => one 16
  | 3, 2 => one 32
  | 3, _ => pairsRun (o.d.ext 0 * o.d.ext 1 * attSpan) 0 0 split
  | 5, _ => match o.shape with
    | some (x, d) => o.stemSplit x d split
    | none => false
  | 6, 0 => if o.rawCopy then split.all (fun x => x.isWay && x.runs.isEmpty) && partsRun o.units 0 split else one 16
  | 6, 2 => one 255
  | 7, 0 | 8, 0 => one 40
  | 8, 2 => o.rootSplit split
  | 9, _ => !split.isEmpty && samplesRun o.units 0 0 split
  | 6, _ | 7, _ | 0, _ => if o.d.pairwise then o.pairSplit split else split == o.ringParts
  | _, _ => match o.shape with
    | some (x, d) => o.productSplit x d split
    | none => false

/-! ### Costs -/

/-- Cycles of pass `t` of a run: a whole pass takes its rows or the load of the next weight block, a cut one its rows (R146, R169). -/
def passCycles (x : Shape) (d : Obj) (k : Run) (t : Nat) : Nat :=
  let gs := bandGroups d k.r0 k.h
  let a := max k.start (t * gs)
  let b := min k.stop ((t + 1) * gs)
  if b - a = gs then max (x.rowT * d.bandRows k.r0 k.h) x.load
  else x.rowT * ((List.range (b - a)).map (fun i => groupRows d k.r0 k.h ((a + i) % gs))).sum

/-- Cycles of a run: its passes, with the load of its first weight block where the piece before on the unit, `prev`, has not kept it (R146, R169). -/
def runCycles (x : Shape) (d : Obj) (prev : List Run) (k : Run) : Nat :=
  let gs := bandGroups d k.r0 k.h
  let t0 := k.start / gs
  let kept := k.start != 0 && prev.any (fun j => j.band == k.band && j.stop == k.start)
  (if kept then 0 else x.load) + ((List.range (ceilDiv k.stop gs - t0)).map (fun i => passCycles x d k (t0 + i))).sum

/-- Extra epilogue passes of an activation (Table 7.4). -/
def actPasses (act : Nat) : Nat := match act with
  | 2 | 3 | 4 => 2
  | 5 => 1
  | _ => 0

/-- c_e, the epilogue of one tile (R226). -/
def OpRec.epiCycles (o : OpRec) : Nat := 32 * (1 + actPasses (recAt (o.rc 1) 0 61 59) + b2n (o.obj 5).isSome)

/-- Passes of an ELTWISE function (Table 7.8). -/
def eltPasses (f : Nat) : Nat :=
  if f = 0x04 ∨ 0x10 ≤ f ∧ f ≤ 0x16 then 2
  else match f with
    | 0x19 | 0x1A | 0x1B => 3
    | 0x1D => 5
    | 0x1E => 4
    | _ => 1

/-- Passes per lane group, and extra cycles of a row, of a VECTOR op (Table 7.5). -/
def OpRec.vectorPasses (o : OpRec) : Nat × Nat :=
  match o.d.op with
  | 0 => (eltPasses o.d.func, 0)
  | 1 => (1, 16)
  | 2 => (if (o.obj 2).isSome then 2 else 3, 24)
  | 4 | 6 => (1, 0)
  | _ => (2, 0)

/-- Cycles of one row (R236): of a VECTOR op, or of a COPY or FILL on a VXE at one pass per lane group (R459). -/
def OpRec.rowCycles (o : OpRec) : Nat :=
  let (p, k) := if o.d.cls = 2 then o.vectorPasses else (1, 0)
  let (n, l) := if o.d.cls = 2 then (o.d.ext 0, if o.d.lanes then 1024 else 512) else (min 128 (o.d.ext 1), 512)
  (p + b2n (o.obj 5).isSome) * ceilDiv n l + k

/-- Rows of a work unit on a VXE. -/
def OpRec.rowsIn (o : OpRec) (u : Nat) : Nat :=
  if o.d.cls = 2 then ((o.obj 3).map (fun d => (coveredRows o d u).length)).getD 0
  else match o.d.tilesCovered[u]? with
    | some (_, r, _) => min 128 (o.d.ext 0 - 128 * r)
    | none => 0

/-- The table of an ATTN op as its plan finds it: what has been read, else the rows and contexts as they stand. -/
def State.peekTable (s : State) (o : OpRec) : List AttEntry :=
  match o.att, o.obj 0, o.obj 1 with
  | some xs, _, _ => xs
  | none, some a, some b => match attRows o s a b 0 (o.d.ext 0) with
    | .ok (xs, _) => xs
    | .error _ => []
  | none, _, _ => []

/-- An entry with its context, as far as it can be read now. -/
def State.peekEntry (s : State) (o : OpRec) (x : AttEntry) : AttEntry :=
  match x.read, x.scx with
  | false, some scx => match attContext o s scx with
    | .ok c => { x with read := true, kv := c.map Prod.fst, pages := (c.map Prod.snd).getD [] }
    | .error _ => x
  | _, _ => x

/-- Admitted pairs of query tile `t` of an entry from key tile `lo` on, up to the `hi`-th where that is not 0. -/
def AttEntry.pairsIn (o : OpRec) (x : AttEntry) (t lo hi : Nat) : Nat :=
  let n := (x.keyTilesOf o t).length
  (if hi = 0 then n else min hi n) - lo

/-- Costs of an ATTN pair on its MXE, its ASQ, and of a query tile and head on its VXE (Table 8.11). -/
def OpRec.pairCosts (o : OpRec) : Nat × Nat × Nat :=
  let w := max 1 (o.d.ext 2 / 128)
  if o.d.op = 0 then (64 * w, 16, 64) else ((if (o.obj 10).isSome then 128 else 160) * w, 32, 96)

/-- Cost of a part of an ATTN op (R273). -/
def State.attCost (s : State) (o : OpRec) (x : Part) : Nat :=
  let (m, a, v) := o.pairCosts
  let mine := ((s.peekTable o).map (fun e => s.peekEntry o e)).map (fun e =>
    ((List.range (o.d.ext 1)).map (fun h => ((List.range e.qtiles).filter (fun t => decide (x.first ≤ o.attUnit e.e h t) &&
      decide (o.attUnit e.e h t < x.first + x.n))).map (fun t => (e, t)))).flatten)
  let us := mine.flatten
  let pairs := (us.map (fun u => u.1.pairsIn o u.2 x.lo x.hi)).sum
  if x.kind = 0 then m * pairs
  else if x.kind = 32 then a * pairs
  else if x.hi ≠ 0 then 0
  else (us.map (fun u => (if (u.1.keyTilesOf o u.2).isEmpty then 32 else v) + 32 * ceilDiv (u.1.padRows o u.2) 128)).sum

/-- Cycles of a part of a STEM op (R295): r is 1 where an operand is FP32, else 4 (R294). -/
def OpRec.stemCycles (o : OpRec) (x : Part) : Nat :=
  match o.obj 0, o.obj 1, o.shape with
  | some a, some b, some (sh, _) =>
    let r := if a.fmt = fFP32 ∨ b.fmt = fFP32 then 1 else 4
    let t := convTerms o a b
    if x.lo = 0 ∧ x.hi = sh.per then x.n * ceilDiv t r else ceilDiv (min t (x.hi * sh.depth) - x.lo * sh.depth) r
  | _, _, _ => 0

/-- Bytes that an update unit moves for a part of an APPLY (R322): the received blocks as the bitmap stands; the lanes' time where that is longer. -/
def State.applyCost (s : State) (o : OpRec) (x : Part) : Nat :=
  let bits := match o.aux.get (fun _ => 0) receiptKey, receiptBits o s with
    | 0, .ok v => v
    | 0, .error _ => 2 ^ o.d.ext 0 - 1
    | n + 1, _ => n
  let got := ((List.range x.n).filter (fun k => decide (bits / 2 ^ (x.first + k) % 2 = 1))).length
  max (got * applyBytes o (o.rc 3)) (ceilDiv (128 * x.n * 1280000) (64 * s.fld Reg.beatCyc 15 0))

/-- Stack bytes of a part of a REDUCE_ACC (R387). -/
def OpRec.accCost (o : OpRec) (x : Part) : Nat :=
  match o.obj 3 with
  | none => 0
  | some d => (if o.d.ord = o.d.seqFirst then 1 else 2) * ((List.range x.n).map (fun k => match o.accTiles[x.first + k]? with
      | some (_, r, c) => d.vrows r * d.vcols c * 4
      | none => 0)).sum

/-- Charged bytes of blocks `lo` to `hi` − 1 of a message of `n` bytes (R535). -/
def blockCharge (n lo hi : Nat) : Nat := ceilDiv ((256 * (min (ceilDiv n 256) (64 * hi) - 64 * lo) + 64 * (hi - lo)) * 16384) 16448

/-- Flit bytes of a transfer on a bundle (R524). -/
def flitCharge (n : Nat) : Nat := 256 * ceilDiv n 240

/-- Bytes that a node tile, or a piece of a copy, takes between units. -/
def OpRec.wayBytes (o : OpRec) (x : Part) : Nat :=
  match o.shape, o.obj 3 with
  | some (sh, _), _ => nodeTileBytes sh.acc
  | none, some d => x.n * fmtStride d.fmt
  | none, none => 0

/-- Charged bytes of a part on a port. -/
def OpRec.portCost (o : OpRec) (x : Part) : Nat :=
  match o.shape with
  | some (sh, _) => blockCharge (nodeTileBytes sh.acc) x.lo x.hi
  | none =>
    if o.d.pairwise then blockCharge o.tileBytes x.lo x.hi
    else let m := msgBlocks (o.shardBytes x.first); blockCharge (o.shardBytes x.first) (x.lo % m) (x.lo % m + 1)

/-- The cost of a part, in the measure of its unit, where the op's runs `before` have just been streamed there (R76). -/
def State.partCost (s : State) (o : OpRec) (x : Part) (before : List Run) : Nat :=
  if x.kind = 152 then flitCharge (o.wayBytes x)
  else if x.kind = 255 then 0
  else if x.kind = 56 then o.portCost x
  else match o.d.cls, o.d.op with
    | 2, _ | 6, _ => ((List.range x.n).map (fun k => o.rowsIn (x.first + k))).sum * o.rowCycles
    | 3, 2 => ((List.range x.n).map (fun k => match o.obj 0 with
        | none => 64
        | some a => match rowWords s o 0 a (x.first + k) with
          | .ok ws => 64 + (if bit ws.1 31 then 0 else ceilDiv (bits ws.1 63 32) 8)
          | .error _ => 64)).sum
    | 3, _ => s.attCost o x
    | 5, _ => if x.kind = 36 then o.stemCycles x else x.n * o.epiCycles
    | 7, _ => o.accCost x
    | 8, 0 => s.applyCost o x
    | 8, 2 => if x.kind = 0 then 1024 else 64 * x.n
    | 9, _ => x.hi
    | _, _ =>
      if x.kind = 0 then match o.shape with
        | some (sh, d) => (x.runs.map (runCycles sh d before)).foldl max 0
        | none => 0
      else if o.d.cls = 8 then 64 * x.n
      else x.n * o.epiCycles

end Sys2Proof.Machine
end

