-- ==== Sys2Proof/Machine/Beats.lean ====
section
/-! DEFINITION. Re-base (R96), the watch slots at the boundary (R136 to R139), and the beat boundary (R71 to R73). -/

namespace Sys2Proof.Machine

/-! ### Re-base (R96, R98) -/

/-- The offset of a unit and direction, key 2 · unit + direction. -/
def State.offset (s : State) (k : Nat) : Nat := s.offsets.get (fun _ => 0) k

/-- BEAT_SLIPTAB.OFFSET of a unit shows the larger offset of its directions (R77). -/
def State.syncOffset (s : State) (u : Nat) : State :=
  s.put (Reg.sliptab1 u) 15 0 (min 0xFFFF (max (s.offset (2 * u)) (s.offset (2 * u + 1))))

/-- Set an offset. -/
def State.setOffset (s : State) (k v : Nat) : State :=
  ({ s with offsets := s.offsets.set (fun _ => 0) k v } : State).syncOffset (k / 2)

/-- The largest offset on the module: D of R96. -/
def State.largestOffset (s : State) : Nat := (s.offsets.map Prod.snd).foldl max 0

/-- Is the last piece committed to a unit and direction one that has not ended? -/
def State.lastHeld (s : State) (k : Nat) : Bool :=
  s.pieces.any (fun p => 2 * p.unit + p.dir == k && (p.phase == PiecePhase.committed || p.phase == PiecePhase.running))

/-- Re-base by `d` beats: planned beats and running totals rise, offsets fall, and the re-base is counted and journalled. -/
def State.rebaseBy (s : State) (d : Nat) : State :=
  let held := ((s.pieces.filter (fun p => p.unit != 255 && p.phase != PiecePhase.ended)).map (fun p => 2 * p.unit + p.dir)).eraseDups
  let s := { s with pieces := s.pieces.map (fun (p : PieceRec) => if p.phase = PiecePhase.ended then p else { p with planned := p.planned + d }) }
  let s := held.foldl (fun s k => s.setTotal (k / 2) (k % 2) (s.total (k / 2) (k % 2) + d * s.capacity (k / 2))) s
  let s := { s with lastBeat := s.lastBeat.map (fun (e : Nat × Nat) => if held.contains e.1 && s.lastHeld e.1 then (e.1, e.2 + d) else e) }
  let s := (s.offsets.map Prod.fst).foldl (fun (s : State) k => s.setOffset k (s.offset k - d)) s
  let s := { (s.bump Reg.beatStat 63 32 1) with rebaseDue := false, rebaseNow := false }
  s.event 5 0x60 { cls := 5, sev := 0, rtype := 3, det := 0x60, info := d }

/-- RE_BASE (R96): the boundary after an offset has risen above BEAT_SLIPLIM has come. Between the two no piece is planned, committed, started or ended. -/
def execReBase (s : State) : Outcome := if s.rebaseNow then .next (s.rebaseBy s.largestOffset) else .next s

/-! ### Watch slots at the boundary (R136 to R139) -/

/-- The order in which a slot chooses: unit index, plane, tile row, tile column, element row, element column. -/
def Detection.before (a b : Detection) : Bool :=
  let x := [a.unit, a.tdep, a.trow, a.tcol, a.erow, a.ecol]
  let y := [b.unit, b.tdep, b.trow, b.tcol, b.erow, b.ecol]
  decide (x < y)

/-- The detection a slot trips on. -/
def chosen : List Detection → Option Detection
  | [] => none
  | d :: ds =>
    match chosen ds with
    | none => some d
    | some e => if e.before d then some e else some d

/-- The trap record of a detection (Table 4.10), its op's descriptor and context given. -/
def trapWords (x : Detection) (d : Desc) (ctx beat : Nat) : List Word :=
  [word [(32, x.s), (0, d.utag)],
   word [(54, x.q), (42, ctx), (38, d.cls), (30, d.op), (6, x.obj), (3, x.cond), (0, x.slot)],
   word [(24, beat % 2 ^ 40), (16, x.unit), (5, d.mb)],
   word [(42, x.trow), (20, x.tcol), (4, x.tdep)],
   word [(57, x.erow), (50, x.ecol), (0, x.value)],
   word [(1, x.sslot), (0, b2n x.inNan)]]

/-- Resolve the beat's detections in one slot: COUNT, and a trip. -/
def State.resolveSlot (s : State) (sl : Nat) : State :=
  let ds := s.detects.filter (fun x => x.slot == sl)
  let s := s.bump (Reg.wstat sl) 63 32 ds.length
  if !s.flag (Reg.wstat sl) 0 || s.flag (Reg.wctl sl) 8 || s.flag (Reg.wstat sl) 1 then s
  else match chosen ds with
    | none => s
    | some x =>
      match s.opAny x.q x.s with
      | none => s
      | some o =>
        let s := (s.wrRun (Reg.wrec sl 0) (trapWords x o.d o.ctx s.beat)).putBit (Reg.wstat sl) 1 true
        s.form { cls := 6, sev := 0, rtype := 3, det := 0x68, unit := x.unit, op := some (x.q, x.s, o.ctx), info := sl }

/-- The op on which a slot has just tripped is to end WATCH_TRAP (R137): `was` are the slots tripped already. -/
def State.trapOp (s : State) (was : List Bool) (ds : List Detection) (sl : Nat) : State :=
  if s.flag (Reg.wstat sl) 1 && !was.getD sl false then
    match chosen (ds.filter (fun x => x.slot == sl)) with
    | some x => s.markFail x.q x.s stWatchTrap sl
    | none => s
  else s

/-- A write of RIG_WCTL takes effect: LIVE follows ARM, arming clears COUNT (R136). -/
def State.armSlot (s : State) (sl : Nat) : State :=
  match s.wctlNext.get (fun _ => none) sl with
  | none => s
  | some v =>
    let was := s.flag (Reg.wctl sl) 0
    let s := s.wr (Reg.wctl sl) (writeFields [(63, 28, .rw), (9, 4, .rw), (0, 0, .rw)] (s.rd (Reg.wctl sl)) v 63 0)
    let s := if !was && bit v 0 then s.put (Reg.wstat sl) 63 32 0 else s
    s.putBit (Reg.wstat sl) 0 (bit v 0)

/-- What the watch slots do at a boundary. -/
def State.watchBoundary (s : State) : State :=
  let was := (List.range 8).map (fun sl => s.flag (Reg.wstat sl) 1)
  let ds := s.detects
  let s := s.each 8 (fun s sl => s.resolveSlot sl)
  let s := { s with detects := [] }
  let s := s.each 8 (fun s sl => s.trapOp was ds sl)
  let s := (s.tripClear.filter (fun sl => was.getD sl false)).foldl (fun s sl => s.putBit (Reg.wstat sl) 1 false) s
  let s := s.each 8 (fun s sl => s.armSlot sl)
  { s with tripClear := [], wctlNext := [] }

/-- RIG_WCTL (R134, R136). -/
def execRigWctl (ag : Agent) (slot : Nat) (v : Word) (s : State) : Outcome :=
  if Who.barRig.admits ag && decide (slot < 8) then .next { s with wctlNext := s.wctlNext.set (fun _ => none) slot (some v) } else .next s

/-- TRIPPED_CLEAR (R134, R138): of a slot that trips only at this boundary the trip stands (R9). -/
def execTrippedClear (ag : Agent) (slot : Nat) (s : State) : Outcome :=
  if Who.barRig.admits ag && decide (slot < 8) then .next { s with tripClear := s.tripClear ++ [slot] } else .next s

/-! ### The boundary (R71 to R73) -/

/-- The timebase and BEAT_NOW reach the boundary; on leaving UNALIGNED BEAT_NOW is written instead (R359). -/
def State.nextBeat (s : State) : State :=
  if s.alignSet then
    let t := (s.ns + b2n (decide (0 < s.frac)) + 1499) / 1000 * 1000
    let s := { s with ns := t, frac := 0, alignSet := false }
    (s.wr Reg.beatNow (BitVec.ofNat 64 (t / 1000))).noteTime Reg.bup2 31 0
  else
    { (s.wr Reg.beatNow (s.rd Reg.beatNow + 1)) with ns := (s.ns / 1000 + 1) * 1000, frac := 0 }

/-- Armed refresh-management alarms are raised (Table 19.8, KIND 5). -/
def State.rfmAlarms (s : State) : State :=
  (s.armed.filter (fun a => a.reg == Reg.fltInj && a.kind == 5)).foldl (fun s a =>
    (s.disarm Reg.fltInj 5 a.target).detect
      { cls := 2, sev := 1, rtype := 0, det := 0x24, inj := true, dom := 2, inst := 16 * (a.target / 32) + a.target % 32 / 2,
        info := a.target % 32 * 2 ^ 24 + (Config.hbmRow a.target).toNat }) s

/-- Armed host flit errors are met by the flits of a link that is UP, replayed and counted (R522). -/
def State.flitErrors (s : State) : State :=
  s.each 2 (fun s n =>
    if s.fld (Reg.hlkStat n) 1 0 = 2 ∧ s.isArmed (Reg.hlkInj n) 1 0 = true then
      (((s.disarm (Reg.hlkInj n) 1 0).bump (Reg.hlkRetrain n) 31 0 1).bump (Reg.hlkErrcnt n) 63 48 1).countDet (0x40 * 65536 + n)
        { cls := 8, sev := 1, rtype := 0, det := 0x40, inj := true, dom := 3, inst := 128 + n }
    else s)

/-- Armed forced retrains take their port, when it is UP, into RETRAIN (R546). -/
def State.forcedRetrains (s : State) : State :=
  s.each 96 (fun s p =>
    if s.portState p = 2 ∧ s.isArmed (Reg.pinj p) 3 0 = true then (s.disarm (Reg.pinj p) 3 0).retrain p true else s)

/-- Armed forced recoveries take their link through RECOVERY (R522). -/
def State.forcedRecoveries (s : State) : State :=
  s.each 2 (fun s n =>
    if s.fld (Reg.hlkStat n) 1 0 = 2 ∧ s.isArmed (Reg.hlkInj n) 3 0 = true then
      (((s.disarm (Reg.hlkInj n) 3 0).put (Reg.hlkStat n) 1 0 3).form
        { cls := 8, sev := 0, rtype := 3, det := 0x43, inj := true, dom := 3, inst := 128 + n })
    else s)

/-- Armed losses of lock raise the alarm of their lane, whose self-test finds it sound (Table 19.8, KIND 6; R594). -/
def State.lockLosses (s : State) : State :=
  (s.armed.filter (fun a => a.reg == Reg.fltInj && a.kind == 6)).foldl (fun s a =>
    let b := a.target % 32
    let lane := a.target / 32 % 64
    let dir := a.target / 2048 % 2
    if s.laneIn b dir lane then (s.disarm Reg.fltInj 6 a.target).laneAlarm b dir lane .transient true else s) s

/-- A rigging core's watchdog expires (R592): it is held in reset, and a module recovery begins. -/
def State.coreExpires (s : State) (core : Nat) (inj : Bool) : State :=
  ({ s with rigOut := s.rigOut.set (fun _ => false) core true } : State).detect
    { cls := 10, sev := 3, rtype := 0, det := 0x90, inj := inj, dom := 6, inst := 0, info := core }

/-- Armed expiries of rigging cores' watchdogs come (Table 19.8, KIND 9). -/
def State.forcedExpiries (s : State) : State :=
  s.each 8 (fun s c =>
    if s.isArmed Reg.fltInj 9 c = true ∧ s.rigOut.get (fun _ => false) c = false then (s.disarm Reg.fltInj 9 c).coreExpires c true else s)

/-- BEAT_BOUNDARY (R71): while the module is READY. `p1`, `p10`, `p1000` are the measured powers in W, `inv` the input in 10 mV units. -/
def execBeatBoundary (p1 p10 p1000 inv : Nat) (s : State) : Outcome :=
  if s.start ≠ 5 then .next s
  else
    let s := s.cond s.rebaseNow (fun s => s.rebaseBy s.largestOffset)
    let s := s.watchBoundary
    let s := match s.marginNext with
      | none => s
      | some m => { (s.recap (fun s => s.put Reg.beatMargin 8 0 m)) with marginNext := none }
    let s := s.powerBoundary p1 p10 p1000 inv
    let s := s.nextBeat
    let s := { s with alignDue := s.alignDue + 1, rebaseNow := s.rebaseDue, sincePg := s.sincePg + 1, beatFaults := [],
                      ppsHigh := s.ppsHigh && decide (s.ns < s.ppsFall),
                      outRun := s.outRun % 4 + 4 * s.fld Reg.tmbOutctl 2 2 }
    let s := (if s.armed.isEmpty then s else s.flitErrors.forcedRecoveries.forcedRetrains.rfmAlarms.lockLosses.forcedExpiries).msixExpire
    .next ((s.noteDeps).settle)

end Sys2Proof.Machine
end

