-- ==== Sys2Proof/Machine/Jpeg.lean ====
section
/-! DEFINITION. Baseline JPEG as the intake engine decodes it (R473 to R475, Table 15.6), over ISO/IEC 10918-1: markers, Huffman
decoding, the integer inverse transform, chroma replication and conversion to RGB. -/

namespace Sys2Proof.Machine

/-- Why a payload is rejected (Table 15.8), or that it ran out of bytes where that cause would apply. -/
inductive JpegErr where
  | cause (n : Nat)
  | short (n : Nat)
  deriving DecidableEq, Repr

/-- Causes of Table 15.8. -/
def caHeader : Nat := 1
def caUnsupported : Nat := 2
def caDims : Nat := 3
def caClaim : Nat := 4
def caEntropy : Nat := 5
def caRawLen : Nat := 6
def caTrec : Nat := 7
def caItem : Nat := 8
def caFuture : Nat := 9
def caStale : Nat := 10

/-- A step of the decoder. -/
abbrev Jp := Except JpegErr

/-- The claim of an item (R474): width and height in range, and the samples against the payload's length. -/
def claimOk (w h n len : Nat) : Jp Unit :=
  if w = 0 ∨ h = 0 ∨ 16384 < w ∨ 16384 < h then .error (.cause caDims)
  else if 512 * len + 1048576 < w * h * n then .error (.cause caClaim)
  else .ok ()

/-- A Huffman table: codes as (length, code, symbol). -/
abbrev Huff := List (Nat × Nat × Nat)

/-- A frame component: identifier, H, V and quantisation table. -/
structure JComp where
  id : Nat
  h  : Nat
  v  : Nat
  tq : Nat
  deriving DecidableEq, Repr

/-- What the markers before the scan give. -/
structure JHead where
  x     : Nat
  y     : Nat
  comps : List JComp
  quant : List (Nat × List Nat)
  huff  : List (Nat × Huff)              -- key 16 · class + identifier
  ri    : Nat
  sel   : List (Nat × Nat)               -- DC and AC table of each scan component
  deriving DecidableEq, Repr

/-- The head before any marker. -/
def JHead.init : JHead := ⟨0, 0, [], [], [], 0, []⟩

/-- Two bytes, high first. -/
def be16 (bs : List Nat) (k : Nat) : Nat := bs.getD k 0 * 256 + bs.getD (k + 1) 0

/-! ### Table segments -/

/-- Quantisation tables of a DQT segment. -/
def readDqt : Nat → List Nat → JHead → Jp JHead
  | 0, _, h => .ok h
  | f + 1, bs, h =>
    match bs with
    | [] => .ok h
    | pt :: r =>
      if pt / 16 = 1 then .error (.cause caUnsupported)
      else if 1 < pt / 16 ∨ 3 < pt % 16 ∨ r.length < 64 then .error (.cause caHeader)
      else readDqt f (r.drop 64) { h with quant := (pt % 16, r.take 64) :: h.quant }

/-- The codes of the lengths from `l` on: `none` where the lengths name more codes than there are. -/
def huffCodes (l code : Nat) : List Nat → List Nat → Option Huff
  | [], _ => some []
  | n :: ns, syms =>
    if 2 ^ l < code + n then none
    else (huffCodes (l + 1) (2 * (code + n)) ns (syms.drop n)).map
      (fun t => (List.range n).map (fun k => (l, code + k, syms.getD k 0)) ++ t)

/-- Huffman tables of a DHT segment: at most two DC and two AC tables. -/
def readDht : Nat → List Nat → JHead → Jp JHead
  | 0, _, h => .ok h
  | f + 1, bs, h =>
    match bs with
    | [] => .ok h
    | tc :: r =>
      let ns := r.take 16
      let n := ns.sum
      if 1 < tc / 16 ∨ r.length < 16 + n ∨ 256 < n then .error (.cause caHeader)
      else if 1 < tc % 16 then .error (.cause caUnsupported)
      else
        match huffCodes 1 0 ns ((r.drop 16).take n) with
        | none => .error (.cause caHeader)
        | some t => readDht f (r.drop (16 + n)) { h with huff := (tc, t) :: h.huff }

/-- The components of a frame header. -/
def frameComps (bs : List Nat) (n : Nat) : List JComp :=
  (List.range n).map (fun k => ⟨bs.getD (6 + 3 * k) 0, bs.getD (7 + 3 * k) 0 / 16, bs.getD (7 + 3 * k) 0 % 16, bs.getD (8 + 3 * k) 0⟩)

/-- SOF0, and the claim that follows it (R474). -/
def readSof (len : Nat) (bs : List Nat) (h : JHead) : Jp JHead := do
  let n := bs.getD 5 0
  let y := be16 bs 1
  let x := be16 bs 3
  if h.comps ≠ [] ∨ bs.length < 6 ∨ bs.length ≠ 6 + 3 * n then .error (.cause caHeader)
  else if bs.getD 0 0 ≠ 8 ∨ (n ≠ 1 ∧ n ≠ 3) ∨ y = 0 then .error (.cause caUnsupported)
  else
    let cs := frameComps bs n
    let ok := fun (k : Nat) (c : JComp) =>
      if k = 0 then (c.h == 1 || c.h == 2) && (c.v == 1 || c.v == 2) else c.h == 1 && c.v == 1
    if cs.any (fun c => decide (3 < c.tq)) then .error (.cause caHeader)
    else if (cs.zipIdx).any (fun c => !ok c.2 c.1) then .error (.cause caUnsupported)
    else
      let _ ← claimOk x y n len
      return { h with x := x, y := y, comps := cs }

/-- SOS: one interleaved scan of every component. -/
def readSos (bs : List Nat) (h : JHead) : Jp JHead :=
  let n := bs.getD 0 0
  if h.comps = [] ∨ bs.length ≠ 4 + 2 * n then .error (.cause caHeader)
  else if n ≠ h.comps.length then .error (.cause caUnsupported)
  else
    let sel := (List.range n).map (fun k => (bs.getD (2 + 2 * k) 0 / 16, bs.getD (2 + 2 * k) 0 % 16))
    let has := fun k => h.huff.any (fun t => t.1 == k)
    if (h.comps.zipIdx).any (fun c => c.1.id != bs.getD (1 + 2 * c.2) 0) then .error (.cause caHeader)
    else if sel.any (fun s => decide (1 < s.1) || decide (1 < s.2)) || bs.getD (1 + 2 * n) 0 != 0 || bs.getD (2 + 2 * n) 0 != 63 ||
        bs.getD (3 + 2 * n) 0 != 0 then .error (.cause caUnsupported)
    else if sel.any (fun s => !has s.1 || !has (16 + s.2)) || h.comps.any (fun c => !h.quant.any (fun q => q.1 == c.tq)) then
      .error (.cause caHeader)
    else .ok { h with sel := sel }

/-- The markers up to the scan (`started` after SOI): the head and the bytes of the scan. -/
def readMarkers (len : Nat) : Nat → Bool → List Nat → JHead → Jp (JHead × List Nat)
  | 0, _, _, _ => .error (.short caHeader)
  | f + 1, started, bs, h =>
    match bs with
    | [] => .error (.short caHeader)
    | [b] => .error (if b = 255 then .short caHeader else .cause caHeader)
    | b :: m :: r =>
      if b ≠ 255 then .error (.cause caHeader)
      else if !started then (if m = 0xD8 then readMarkers len f true r h else .error (.cause caHeader))
      else if m = 255 then readMarkers len f true (m :: r) h
      else if m = 0xD8 ∨ m = 0xD9 ∨ m = 0 ∨ 0xD0 ≤ m ∧ m ≤ 0xD7 then .error (.cause caHeader)
      else
        let known := m = 0xC0 ∨ m = 0xC4 ∨ m = 0xDB ∨ m = 0xDD ∨ m = 0xDA ∨ m = 0xFE ∨ 0xE0 ≤ m ∧ m ≤ 0xEF
        if ¬ known then .error (.cause caUnsupported)
        else if r.length < 2 then .error (.short caHeader)
        else
          let n := be16 r 0
          let body := (r.drop 2).take (n - 2)
          if n < 2 then .error (.cause caHeader)
          else if r.length < n then .error (.short caHeader)
          else
            let rest := r.drop n
            if m = 0xC0 then
              match readSof len body h with
              | .ok h => readMarkers len f true rest h
              | .error e => .error e
            else if m = 0xC4 then
              match readDht (body.length + 1) body h with
              | .ok h => readMarkers len f true rest h
              | .error e => .error e
            else if m = 0xDB then
              match readDqt (body.length + 1) body h with
              | .ok h => readMarkers len f true rest h
              | .error e => .error e
            else if m = 0xDD then
              if n = 4 then readMarkers len f true rest { h with ri := be16 body 0 } else .error (.cause caHeader)
            else if m = 0xDA then
              match readSos body h with
              | .ok h => .ok (h, rest)
              | .error e => .error e
            else readMarkers len f true rest h

/-! ### Entropy-coded data -/

/-- The bits of a byte, high first. -/
def byteBits (b : Nat) : List Bool := (List.range 8).map (fun k => decide (b / 2 ^ (7 - k) % 2 = 1))

/-- The data up to the next marker, stuffing removed: its bytes, and the marker with the bytes after it, if one comes. -/
def scanRun : List Nat → List Nat → List Nat × Option (Nat × List Nat)
  | [], acc => (acc.reverse, none)
  | 255 :: 0 :: r, acc => scanRun r (255 :: acc)
  | 255 :: 255 :: r, acc => scanRun (255 :: r) acc
  | 255 :: m :: r, acc => (acc.reverse, some (m, r))
  | [255], acc => (acc.reverse, none)
  | b :: r, acc => scanRun r (b :: acc)

/-- One Huffman symbol. -/
def huffSym (t : Huff) : Nat → Nat → Nat → List Bool → Jp (Nat × List Bool)
  | 0, _, _, _ => .error (.cause caEntropy)
  | _ + 1, _, _, [] => .error (.cause caEntropy)
  | f + 1, l, c, b :: bs =>
    let c := 2 * c + (if b then 1 else 0)
    match t.find? (fun x => x.1 == l && x.2.1 == c) with
    | some x => .ok (x.2.2, bs)
    | none => huffSym t f (l + 1) c bs

/-- `n` bits as a number. -/
def takeBits (n : Nat) (bs : List Bool) : Jp (Nat × List Bool) :=
  if bs.length < n then .error (.cause caEntropy)
  else .ok ((bs.take n).foldl (fun a b => 2 * a + (if b then 1 else 0)) 0, bs.drop n)

/-- A value of category `n` from its `n` bits. -/
def extend (n v : Nat) : Int := if n = 0 then 0 else if v < 2 ^ (n - 1) then (v : Int) - (2 ^ n - 1) else v

/-- The AC coefficients from index `k` on, as (index, value). -/
def acCoefs (t : Huff) : Nat → Nat → List Bool → Jp (List (Nat × Int) × List Bool)
  | 0, _, bs => .ok ([], bs)
  | f + 1, k, bs =>
    if k = 64 then .ok ([], bs)
    else
      match huffSym t 16 1 0 bs with
      | .error e => .error e
      | .ok (rs, bs) =>
        let r := rs / 16
        let n := rs % 16
        if n = 0 then
          if r ≠ 15 then .ok ([], bs)
          else if 63 < k + 16 then .error (.cause caEntropy)
          else acCoefs t f (k + 16) bs
        else if 63 < k + r then .error (.cause caEntropy)
        else
          match takeBits n bs with
          | .error e => .error e
          | .ok (v, bs) =>
            match acCoefs t f (k + r + 1) bs with
            | .error e => .error e
            | .ok (cs, bs) => .ok ((k + r, extend n v) :: cs, bs)

/-- The zigzag order: the natural index (row · 8 + column) of each zigzag index. -/
def zigzag : List Nat :=
  [0, 1, 8, 16, 9, 2, 3, 10, 17, 24, 32, 25, 18, 11, 4, 5, 12, 19, 26, 33, 40, 48, 41, 34, 27, 20, 13, 6, 7, 14, 21, 28] ++
  [35, 42, 49, 56, 57, 50, 43, 36, 29, 22, 15, 23, 30, 37, 44, 51, 58, 59, 52, 45, 38, 31, 39, 46, 53, 60, 61, 54, 47, 55, 62, 63]

/-- The constant RNE(4096 · cos(mπ ÷ 16)) of R475, by m mod 32; RNE(2^13 ÷ (2√2)) at u = 0. -/
def cosK (m : Nat) : Int :=
  let m := m % 32
  let m := if 16 < m then 32 - m else m
  let v : Nat → Int := fun k => [4096, 4017, 3784, 3406, 2896, 2276, 1567, 799, 0].getD k 0
  if m ≤ 8 then v m else -(v (16 - m))

/-- K(x, u). -/
def idctK (x u : Nat) : Int := if u = 0 then 2896 else cosK ((2 * x + 1) * u)

/-- The sum of a function over 0 to 7. -/
def sum8 (f : Nat → Int) : Int := (List.range 8).foldl (fun a k => a + f k) 0

/-- The samples of a block from its dequantised coefficients F(v, u), in natural order. -/
def idct (co : List Int) : List Nat :=
  let r := (List.range 64).map (fun k => (sum8 (fun u => idctK (k % 8) u * co.getD (k / 8 * 8 + u) 0) + 2 ^ 10) / 2 ^ 11)
  (List.range 64).map (fun k =>
    let s := (sum8 (fun v => idctK (k / 8) v * r.getD (v * 8 + k % 8) 0) + 2 ^ 14) / 2 ^ 15
    (max 0 (min 255 (s + 128))).toNat)

/-- One block: its DC difference and AC coefficients, dequantised and transformed. -/
def readBlock (h : JHead) (c : JComp) (sel : Nat × Nat) (pred : Int) (bs : List Bool) : Jp (List Nat × Int × List Bool) := do
  let tab := fun k => ((h.huff.find? (fun t => t.1 == k)).map Prod.snd).getD []
  let q := ((h.quant.find? (fun t => t.1 == c.tq)).map Prod.snd).getD []
  let (n, bs) ← huffSym (tab sel.1) 16 1 0 bs
  let (v, bs) ← takeBits n bs
  let dc := pred + extend n v
  let (ac, bs) ← acCoefs (tab (16 + sel.2)) 64 1 bs
  let zz := (0, dc) :: ac
  let co := (List.range 64).map (fun nat =>
    match (zz.find? (fun z => zigzag.getD z.1 0 == nat)) with
    | some z => z.2 * (q.getD z.1 0 : Nat)
    | none => 0)
  return (idct co, dc, bs)

/-- Blocks of one component in an MCU: a scan of one component has one block to an MCU. -/
def JHead.per (h : JHead) (c : JComp) : Nat × Nat := if h.comps.length = 1 then (1, 1) else (c.h, c.v)

/-- `k` blocks of component number `i`. -/
def readBlocks (h : JHead) (i : Nat) (c : JComp) : Nat → Int → List Bool → Jp (List (List Nat) × Int × List Bool)
  | 0, p, bs => .ok ([], p, bs)
  | k + 1, p, bs => do
    let (b, p, bs) ← readBlock h c (h.sel.getD i (0, 0)) p bs
    let (rest, p, bs) ← readBlocks h i c k p bs
    return (b :: rest, p, bs)

/-- The components of one MCU: their blocks, and the DC predictions. -/
def readMcu (h : JHead) : List (JComp × Nat) → List Int → List Bool → Jp (List (List (List Nat)) × List Int × List Bool)
  | [], _, bs => .ok ([], [], bs)
  | (c, i) :: cs, ps, bs => do
    let (b, p, bs) ← readBlocks h i c ((h.per c).1 * (h.per c).2) (ps.headD 0) bs
    let (rest, ps, bs) ← readMcu h cs ps.tail bs
    return (b :: rest, p :: ps, bs)

/-- `k` MCUs of one run of data. -/
def readMcus (h : JHead) : Nat → List Int → List Bool → Jp (List (List (List (List Nat))))
  | 0, _, _ => .ok []
  | k + 1, ps, bs => do
    let (m, ps, bs) ← readMcu h h.comps.zipIdx ps bs
    let rest ← readMcus h k ps bs
    return m :: rest

/-- Every MCU of the scan: intervals of `ri` MCUs, each but the last followed by its RST marker, and the predictions anew after each. -/
def readScan (h : JHead) : Nat → Nat → Nat → List Nat → Jp (List (List (List (List Nat))))
  | 0, _, _, _ => .ok []
  | f + 1, left, no, bs =>
    let r := scanRun bs []
    let n := if h.ri = 0 then left else min left h.ri
    match readMcus h n (h.comps.map (fun _ => 0)) ((r.1.map byteBits).flatten) with
    | .error e => .error e
    | .ok ms =>
      if left ≤ n then .ok ms
      else
        match r.2 with
        | none => .error (.cause caEntropy)
        | some (m, bs) =>
          if m = 0xD0 + no % 8 then
            match readScan h f (left - n) (no + 1) bs with
            | .error e => .error e
            | .ok rest => .ok (ms ++ rest)
          else .error (.cause caEntropy)

/-- A decoded image: width, height, and the channels as CH asks for them (R475). -/
structure Image8 where
  w  : Nat
  h  : Nat
  px : Nat → Nat → Nat → Nat       -- channel, row, column

/-- A sample of component `c` at a place of the full image, chroma replicated. -/
def JHead.sample (h : JHead) (mcus : List (List (List (List Nat)))) (c y x : Nat) : Nat :=
  let comp := h.comps.getD c ⟨0, 1, 1, 0⟩
  let (ph, pv) := h.per comp
  let (mh, mv) := h.per (h.comps.getD 0 ⟨0, 1, 1, 0⟩)
  let across := ceilDiv h.x (8 * mh)
  let cx := x * ph / mh
  let cy := y * pv / mv
  let m := cy / 8 / pv * across + cx / 8 / ph
  (((mcus.getD m []).getD c []).getD (cy / 8 % pv * ph + cx / 8 % ph) []).getD (cy % 8 * 8 + cx % 8) 0

/-- A value clamped to 0 to 255. -/
def clamp8 (i : Int) : Nat := (max 0 (min 255 i)).toNat

/-- One channel of a pixel: RGB from three components, else the first component. -/
def JHead.channel (h : JHead) (mcus : List (List (List (List Nat)))) (rgb : Bool) (c y x : Nat) : Nat :=
  let s := fun k => (h.sample mcus k y x : Int)
  if h.comps.length ≠ 3 ∨ !rgb then h.sample mcus 0 y x
  else match c with
    | 0 => clamp8 (s 0 + (91881 * (s 2 - 128) + 32768) / 65536)
    | 1 => clamp8 (s 0 + (-22554 * (s 1 - 128) - 46802 * (s 2 - 128) + 32768) / 65536)
    | _ => clamp8 (s 0 + (116130 * (s 1 - 128) + 32768) / 65536)

/-- MCUs of an image. -/
def JHead.mcuCount (h : JHead) : Nat :=
  let (mh, mv) := h.per (h.comps.getD 0 ⟨0, 1, 1, 0⟩)
  ceilDiv h.x (8 * mh) * ceilDiv h.y (8 * mv)

/-- The head of a payload: markers, frame header and claim, up to the scan. -/
def jpegHead (len : Nat) (bs : List Nat) : Jp (JHead × List Nat) := readMarkers len (bs.length + 1) false bs JHead.init

/-- The image of a payload whose head has been read. -/
def jpegBody (h : JHead) (scan : List Nat) (rgb : Bool) : Jp Image8 := do
  let mcus ← readScan h (h.mcuCount + 1) h.mcuCount 0 scan
  return ⟨h.x, h.y, fun c y x => h.channel mcus rgb c y x⟩

end Sys2Proof.Machine
end

