-- ==== Sys2Proof/Machine/Intake.lean ====
section
/-! DEFINITION. Sample intake (chapter 15): the checks of BATCH, samples and items, rejection and replacement, the manifest, and the
engine's errors. -/

namespace Sys2Proof.Machine

/-! ### Take-in (R466 to R469) -/

/-- FIRST and STRMASK of a BATCH (Table 15.1). -/
def Desc.firstRow (d : Desc) : Nat := d.par 1
def Desc.strMask (d : Desc) : Nat := d.at 448 16

/-- Is a stream permitted? -/
def Desc.permits (d : Desc) (k : Nat) : Bool := d.strMask == 0 || decide (d.strMask / 2 ^ k % 2 = 1)

/-- The fields of a BATCH. -/
def intakeFields (d : Desc) : List (Nat × Bool) :=
  [d.rndField 413, d.resv 384 28, d.resv 464 16, (320, d.ext 1 != 0), (416, d.ext 2 != 0), (352, decide (65536 < d.ext 0))]

/-- The objects of a BATCH. -/
def intakeObjs (d : Desc) (n : Named) : List (Nat × Bool) :=
  let u8 := fun (o : Obj) (c : Nat) => o.fmt == fUINT8 && o.rank == 2 && o.d1 == c
  [n.need 0 (fun o => u8 o 32 && decide (d.firstRow + d.ext 0 ≤ o.d0)), n.need 1 (fun o => u8 o 64),
   n.may 2 (fun o => u8 o 32 && decide (1 ≤ o.d0)), n.need 3 (fun o => u8 o 32 && decide (d.ext 0 + 1 ≤ o.d0))]

/-- Fields of a stream record (Table 15.2). -/
def strKind (w : List Word) : Nat := recAt w 0 62 61
def strCh (w : List Word) : Nat := if recAt w 0 60 59 = 0 then 1 else 3
def strSlots (w : List Word) : Nat := recAt w 0 34 23
def strW (w : List Word) : Nat := recAt w 1 63 50 + 1
def strH (w : List Word) : Nat := recAt w 1 49 36 + 1
def strRows (w : List Word) : Nat := recAt w 1 35 15
def strAge (w : List Word) : Nat := recAt w 2 63 32

/-- Does a valid stream record fail R469? -/
def badStream (w : List Word) : Bool :=
  recAt w 0 22 0 != 0 || recAt w 1 14 0 != 0 || recAt w 2 31 0 != 0 || recAt w 3 63 0 != 0 || strKind w == 3 ||
    decide (1 < recAt w 0 60 59) || strSlots w == 0 || strKind w == 2 && (strRows w == 0 || decide (2 ^ 20 < strRows w))

/-- Does an output object meet Table 15.3? -/
def outObjOk (d : Desc) (w : List Word) (o : Obj) : Bool :=
  if strKind w = 2 then
    decide (d.ext 0 * strSlots w * strRows w ≤ o.d0) && o.planes == 1 && [fFP32, fBF16, fFP16, fINT32, fUINT8].contains o.fmt
  else o.d0 == strW w * strH w && o.cols == strCh w && decide (d.ext 0 * strSlots w ≤ o.planes) && [fFP32, fBF16, fFP16, fUINT8].contains o.fmt

/-- The permitted streams from number `k` on: records as (16 + s, words), output objects as (20 + s, object) (R468, R469). -/
def streamRecs (s : State) (ctx : Nat) (d : Desc) (base k : Nat) : Nat → Chk (List (Nat × List Word) × List (Nat × Obj))
  | 0 => .ok ([], [])
  | n + 1 => do
    if !d.permits k then streamRecs s ctx d base (k + 1) n
    else
      let w ← readRec s 3 (base + 32 * k) 4
      if recAt w 0 63 63 = 0 then
        let (rs, os) ← streamRecs s ctx d base (k + 1) n
        return ((16 + k, w) :: rs, os)
      else if badStream w then reject stBadField 448
      else
        let id := recAt w 0 58 35
        let o ← if id = 0 then .ok none else objRec s ctx id 3
        match o with
        | some o =>
          if outObjOk d w o then
            let (rs, os) ← streamRecs s ctx d base (k + 1) n
            return ((16 + k, w) :: rs, (20 + k, o) :: os)
          else reject stBadField 448
        | none => reject stBadField 448

/-- The stream records and output objects of a BATCH. -/
def streamChecks (s : State) (ctx : Nat) (d : Desc) : Chk (List (Nat × List Word) × List (Nat × Obj)) :=
  match s.tableBase (Reg.strBase ctx) 512 with
  | none => reject stBadField 448
  | some b => streamRecs s ctx d b 0 16

/-! ### Rows of bytes -/

/-- The place of row `r` in a UINT8 object of rank 2. -/
def rowAtObj (o : Obj) (r : Nat) : Nat := o.tileOff 0 (r / 128) 0 + 128 * (r % 128)

/-- The words of a row of `8 n` bytes, with the checks of a tile read. -/
def readRow (o : OpRec) (s : State) (slot : Nat) (x : Obj) (r n : Nat) : Except WorkFail (List Word) :=
  match slotted slot (x.tileAddr 0 (r / 128) 0) (s.tagCheck (s.reader o) x 0 (r / 128) 0) with
  | .error e => .error e
  | .ok _ => match slotted slot (x.addr (rowAtObj x r)) (s.readObj x (rowAtObj x r) (8 * n)) with
    | .error e => .error e
    | .ok bs => .ok ((List.range n).map (fun k => BitVec.ofNat 64 (ofBytes ((bs.drop (8 * k)).take 8))))

/-- Write bytes at the start of a row, with the tile's tag. -/
def writeRow (o : OpRec) (s : State) (slot : Nat) (x : Obj) (r last : Nat) (bs : List Byte) : Except WorkFail State :=
  match slotted slot (x.addr (rowAtObj x r)) (s.writeObj (o.wr x (slot == 3)) x (rowAtObj x r) bs) with
  | .error e => .error e
  | .ok s => .ok (s.setTag (x.tileAddr 0 (r / 128) 0) (some (s.tagFor (o.writer last) x 0 (r / 128) 0 false)))

/-- Write a row of the manifest. -/
def writeManifest (o : OpRec) (s : State) (r : Nat) (ws : List Word) : Except WorkFail (OpRec × State) :=
  match o.obj 3 with
  | none => .ok (o, s)
  | some d =>
    match writeRow o s 3 d r (o.d.ext 0 / 128) (wordBytes ws) with
    | .error e => .error e
    | .ok s => .ok (s.wroteTile o d 0 (r / 128) 0)

/-! ### Counts that a BATCH keeps in `aux` -/

def axCount : Nat := 210       -- positions filled
def axRepl : Nat := 211
def axCorrupt : Nat := 212
def axStale : Nat := 213
def axOld : Nat := 2 ^ 20      -- + stream · 4096 + slot: written at this position by an abandoned attempt

/-- A value in `aux`. -/
def OpRec.ax (o : OpRec) (k : Nat) : Nat := o.aux.get (fun _ => 0) k

/-- Set a value in `aux`. -/
def OpRec.setAx (o : OpRec) (k v : Nat) : OpRec := { o with aux := o.aux.set (fun _ => 0) k v }

/-- The writes of an abandoned attempt join those of its position. -/
def OpRec.abandonWrites (o : OpRec) (ws : List Nat) : OpRec := ws.foldl (fun o w => o.setAx (axOld + w) 1) o

/-- Claims of the position that abandoned attempts wrote. -/
def OpRec.oldWrites (o : OpRec) : List Nat := (o.aux.filter (fun p => decide (axOld ≤ p.1))).map (fun p => p.1 - axOld)

/-! ### Output (R470, R478, R479) -/

/-- Store tiles of an output object through the op's conversion, keeping WORK to the manifest's tiles. -/
def storeOut (o : OpRec) (s : State) (x : Obj) (last : Nat) (cov : Nat → Nat → Nat → Bool) (v : Nat → Nat → Elt) (p : Nat) :
    List (Nat × Nat) → Except WorkFail (OpRec × State)
  | [] => .ok (o, s)
  | (r, c) :: ts =>
    match storeResult o s 184 x last p r c (cov r) o.moveRounding false (fun i j => v (128 * r + i) (128 * c + j)) with
    | .error e => .error e
    | .ok (o2, s) => storeOut { o2 with tiles := o.tiles } s x last cov v p ts

/-- Tiles of rows `lo` to `hi - 1`. -/
def rowTiles (x : Obj) (lo hi : Nat) : List (Nat × Nat) :=
  ((List.range (ceilDiv hi 128 - lo / 128)).map (fun r => (List.range x.tc).map (fun c => (lo / 128 + r, c)))).flatten

/-- A plane that the intake engine has written is kept in a tile store (R290): of which die, the first piece that reads it settles, for the engine is on none. -/
def State.keepFrame (s : State) (o : OpRec) (x : Obj) (plane : Nat) : State :=
  { s with resident := s.resident.filter (fun r => !(r.ctx == o.ctx && r.obj == x.id && r.plane == plane)) ++
      [(⟨o.ctx, x.id, plane, o.q, o.s, []⟩ : Resident)] }

/-- Write slot `k` of stream record `w` at a position: an image as a plane, a tensor as MAXROWS rows, from values by row and column of the slot. -/
def writeSlot (o : OpRec) (s : State) (w : List Word) (x : Obj) (pos k : Nat) (v : Nat → Nat → Elt) : Except WorkFail (OpRec × State) :=
  let n := pos * strSlots w + k
  let total := o.d.ext 0 * strSlots w
  if strKind w = 2 then
    let lo := n * strRows w
    let hi := lo + strRows w
    storeOut o s x (x.tileNo 0 (ceilDiv (total * strRows w) 128 - 1) (x.tc - 1)) (fun r i _ => decide (lo ≤ 128 * r + i) && decide (128 * r + i < hi))
      (fun i j => v (i - lo) j) 0 (rowTiles x lo hi)
  else do
    let (o, s) ← storeOut o s x (x.tileNo (total - 1) (x.tr - 1) (x.tc - 1)) (fun _ _ _ => true) v n (rowTiles x 0 x.rows)
    return (o, s.keepFrame o x n)

/-- +0 in a slot. -/
def zeroSlot (o : OpRec) (s : State) (pos : Nat) (claim : Nat) : Except WorkFail (OpRec × State) :=
  match o.obj (20 + claim / 4096) with
  | none => .ok (o, s)
  | some x => writeSlot o s (o.rc (16 + claim / 4096)) x pos (claim % 4096) (fun _ _ => (.zero, false))

/-- +0 in slots of a position. -/
def zeroSlots (o : OpRec) (s : State) (pos : Nat) : List Nat → Except WorkFail (OpRec × State)
  | [] => .ok (o, s)
  | c :: cs =>
    match zeroSlot o s pos c with
    | .error e => .error e
    | .ok (o, s) => zeroSlots o s pos cs

/-- Every slot of every valid permitted stream, as claims. -/
def allSlots (o : OpRec) : List Nat :=
  ((List.range 16).map (fun k =>
    let w := o.rc (16 + k)
    if w ≠ [] ∧ recAt w 0 63 63 = 1 then (List.range (strSlots w)).map (fun j => 4096 * k + j) else [])).flatten

/-! ### Items (R472 to R480) -/

/-- Fields of an item entry (Table 15.5). -/
def itStream (w : List Word) : Nat := recAt w 0 63 60
def itSlot (w : List Word) : Nat := recAt w 0 59 48
def itAddr (w : List Word) : Nat := recAt w 0 43 0
def itLen (w : List Word) : Nat := recAt w 1 63 32
def itTime (w : List Word) : Nat := recAt w 2 63 0

/-- Has an item entry a reserved bit set? -/
def itemResv (w : List Word) : Bool := recAt w 0 47 44 != 0 || recAt w 1 3 0 != 0 || recAt w 3 3 0 != 0 || recAt w 7 63 0 != 0

/-- Has a sample entry a reserved bit set (Table 15.4)? -/
def sampleResv (w : List Word) : Bool := recAt w 1 23 0 != 0 || recAt w 2 63 0 != 0 || recAt w 3 63 0 != 0

/-- Is an item malformed, beside its crop rectangle (R472)? -/
def malformed (o : OpRec) (sm : Sample) (w : List Word) : Bool :=
  let k := itStream w
  let r := o.rc (16 + k)
  itemResv w || sampleResv sm.entry || !o.d.permits k || recAt r 0 63 63 == 0 || decide (strSlots r ≤ itSlot w) ||
    sm.writes.contains (4096 * k + itSlot w)

/-- The age of an item (R480): its cause of rejection, 0 where it is accepted. -/
def ageCause (now : Nat) (r w : List Word) : Nat :=
  let t := itTime w
  if t = 0 then 0
  else if now + 1000000 < t then caFuture
  else if strAge r ≠ 0 ∧ t + strAge r * 1000 < now then caStale
  else 0

/-- The crop rectangle of an item (R479): column, row, width, height. -/
def itCrop (w : List Word) (x y : Nat) : Nat × Nat × Nat × Nat :=
  if recAt w 3 5 5 = 1 then (recAt w 3 63 50, recAt w 3 49 36, recAt w 3 35 22 + 1, recAt w 3 21 8 + 1) else (0, 0, x, y)

/-- Does the crop rectangle lie within the image (R472)? -/
def cropIn (w : List Word) (x y : Nat) : Bool :=
  let (cx, cy, cw, ch) := itCrop w x y
  decide (cx + cw ≤ x) && decide (cy + ch ≤ y)

/-- Where output index `o` of `n` samples the crop (R479): the two places and the fraction, in 2^-16. -/
def cropAt (c0 cn n o : Nat) : Nat × Nat × Nat :=
  let lo := c0 * 2 ^ 16
  let hi := (c0 + cn - 1) * 2 ^ 16
  let p := max lo (min hi (lo + (2 * o + 1) * cn * 2 ^ 15 / n - 2 ^ 15))
  (p / 2 ^ 16, min (p / 2 ^ 16 + 1) (c0 + cn - 1), p % 2 ^ 16)

/-- The gain and the offset of a channel (Table 15.5). -/
def itGain (w : List Word) (c : Nat) : Num := f32n (match c with
  | 0 => recAt w 4 63 32
  | 1 => recAt w 4 31 0
  | _ => recAt w 5 63 32)
def itOff (w : List Word) (c : Nat) : Num := f32n (match c with
  | 0 => recAt w 5 31 0
  | 1 => recAt w 6 63 32
  | _ => recAt w 6 31 0)

/-- Channel `c` of the output pixel at row `oy`, column `ox`, before conversion (R479). -/
def augment (w r : List Word) (im : Image8) (oy ox c : Nat) : Num :=
  let (cx, cy, cw, ch) := itCrop w im.w im.h
  let ox := if recAt w 3 7 7 = 1 then strW r - 1 - ox else ox
  let oy := if recAt w 3 6 6 = 1 then strH r - 1 - oy else oy
  let (x0, x1, fx) := cropAt cx cw (strW r) ox
  let (y0, y1, fy) := cropAt cy ch (strH r) oy
  let p := im.px c
  let t := (p y0 x0 * (2 ^ 16 - fx) + p y0 x1 * fx) * (2 ^ 16 - fy) + (p y1 x0 * (2 ^ 16 - fx) + p y1 x1 * fx) * fy
  let v := (Num.fin false t (-32)).r32
  if recAt w 3 4 4 = 1 then (Num.add (v.mul (itGain w c)) (itOff w c)).r32 else v

/-- The values of an image's plane: row oy · OUTW + ox, column the channel. -/
def imageElt (w r : List Word) (im : Image8) (i j : Nat) : Elt :=
  let v := augment w r im (i / strW r) (i % strW r) j
  (v, !v.isFin)

/-- The readable bytes at the front of a payload. -/
def State.readable (s : State) (a : Nat) : Nat → List Byte
  | 0 => []
  | n + 1 =>
    match s.readByte a with
    | .ok b => b :: s.readable (a + 1) n
    | .error _ => []

/-- A payload whole (R488): a CRC failure is uncorrectable data. -/
def State.payload (s : State) (a n : Nat) : Except WorkFail (List Byte) :=
  match s.readMem a n with
  | .ok bs => .ok bs
  | .error .classA => .error ⟨1, .data, a⟩
  | .error f => .error ⟨1, f, a⟩

/-- What an item gives: its values, or the cause that rejects it. -/
abbrev ItemOut := Except Nat (Nat → Nat → Elt)

/-- A JPEG item (R473 to R475). -/
def jpegItem (s : State) (r w : List Word) : Except WorkFail ItemOut :=
  let len := itLen w
  let pre := (s.readable (itAddr w) len).map BitVec.toNat
  match jpegHead len pre with
  | .error (.cause c) => .ok (.error c)
  | .error (.short c) => if pre.length < len then (s.payload (itAddr w) len).map (fun _ => .error c) else .ok (.error c)
  | .ok (h, scan) =>
    if !cropIn w h.x h.y then .ok (.error caItem)
    else
      match s.payload (itAddr w) len with
      | .error e => .error e
      | .ok _ =>
        match jpegBody h scan (strCh r == 3) with
        | .ok im => .ok (.ok (imageElt w r im))
        | .error _ => .ok (.error caEntropy)

/-- A RAW item (R474, R476). -/
def rawItem (s : State) (r w : List Word) : Except WorkFail ItemOut :=
  let x := recAt w 1 31 18 + 1
  let y := recAt w 1 17 4 + 1
  let len := itLen w
  match claimOk x y (strCh r) len with
  | .error (.cause c) | .error (.short c) => .ok (.error c)
  | .ok _ =>
    if !cropIn w x y then .ok (.error caItem)
    else if len < x * y * strCh r then .ok (.error caRawLen)
    else
      match s.payload (itAddr w) len with
      | .error e => .error e
      | .ok bs => .ok (.ok (imageElt w r ⟨x, y, fun c i j => (bs.getD ((i * x + j) * strCh r + c) 0).toNat⟩))

/-- A TENSOR item (R474, R477, R478). -/
def tensorItem (s : State) (r w : List Word) (out : Obj) : Except WorkFail ItemOut :=
  let len := itLen w
  if len < 16 then .ok (.error caTrec)
  else
    match s.payload (itAddr w) 16 with
    | .error e => .error e
    | .ok hd =>
      let h0 := BitVec.ofNat 64 (ofBytes (hd.take 8))
      let h1 := BitVec.ofNat 64 (ofBytes (hd.drop 8))
      let fmt := bits h0 47 42
      let cols := bits h0 31 0
      let rows := bits h1 63 32
      if bits h0 63 48 ≠ 0x7E51 ∨ !([1, 2, 3, 7, 8].contains fmt) ∨ cols ≠ out.cols ∨ bits h0 41 32 ≠ 0 ∨ bits h1 31 0 ≠ 0 then .ok (.error caTrec)
      else if strRows r < rows then .ok (.error caDims)
      else if 512 * len + 1048576 < rows * cols then .ok (.error caClaim)
      else
        let wd := fmtWidth fmt / 8
        if len ≠ 16 + rows * cols * wd then .ok (.error caTrec)
        else
          match s.payload (itAddr w) len with
          | .error e => .error e
          | .ok bs =>
            .ok (.ok (fun i j =>
              if rows ≤ i then (.zero, false)
              else
                let q := ofBytes ((bs.drop (16 + (i * cols + j) * wd)).take wd)
                match fmtKind fmt with
                | some (.plain e) => let v := e.decode q; (v, !v.isFin)
                | _ => (.zero, false)))

/-- What an item of the running sample gives. -/
def decodeItem (o : OpRec) (s : State) (sm : Sample) (w : List Word) : Except WorkFail ItemOut :=
  if malformed o sm w then .ok (.error caItem)
  else
    let r := o.rc (16 + itStream w)
    let c := ageCause s.ns r w
    if c ≠ 0 then .ok (.error c)
    else match strKind r, o.obj (20 + itStream w) with
      | 0, _ => jpegItem s r w
      | 1, _ => rawItem s r w
      | _, some x => tensorItem s r w x
      | _, none => .ok (.error caItem)

/-! ### Samples, the reservoir and the manifest (R481 to R486) -/

/-- SID, ITEMFIRST and NITEMS of a sample entry. -/
def smSid (w : List Word) : Nat := recAt w 0 63 0
def smFirst (w : List Word) : Nat := recAt w 1 63 32
def smItems (w : List Word) : Nat := recAt w 1 31 24

/-- The manifest entry of the running sample's row (Table 15.10), `orig` being the row's own entry. -/
def manifestEntry (o : OpRec) (sm : Sample) (orig : Nat) (dropped : Bool) : List Word :=
  [BitVec.ofNat 64 orig, BitVec.ofNat 64 (if dropped then 0 else if sm.repl = 0 then orig else smSid sm.entry),
   word [(48, if dropped then 0 else o.ax axCount), (40, min sm.repl 255), (36, sm.cause), (32, sm.cstr), (0, sm.citem)],
   word [(63, b2n dropped), (48, if dropped then 0 else smItems sm.entry)]]

/-- The manifest header (Table 15.9). -/
def manifestHeader (o : OpRec) (next : Nat) : List Word :=
  let n := o.ax axCount
  [word [(32, o.d.ext 0), (0, n)],
   word [(63, b2n (decide (n < o.d.ext 0))), (32, min (o.ax axRepl) 0xFFFF), (16, min (o.ax axCorrupt) 0xFFFF), (0, min (o.ax axStale) 0xFFFF)],
   word [(24, o.startB % 2 ^ 40)], word [(32, next)]]

/-- The reservoir's header: COUNT and NEXT. -/
def reservoir (o : OpRec) (s : State) (x : Obj) : Except WorkFail (Nat × Nat) :=
  (readRow o s 2 x 0 1).map (fun ws => (recAt ws 0 63 32, recAt ws 0 31 0))

/-- Zero every slot of the vacant positions from `pos` on (R484). -/
def zeroVacant (o : OpRec) (s : State) (pos : Nat) : Nat → Except WorkFail (OpRec × State)
  | 0 => .ok (o, s)
  | n + 1 =>
    match zeroSlots o s pos (allSlots o) with
    | .error e => .error e
    | .ok (o, s) => zeroVacant o s (pos + 1) n

/-- The end of a BATCH: vacant positions, then the header (R484, R486). -/
def batchEnd (o : OpRec) (s : State) : Except WorkFail (OpRec × State) := do
  let vacant := o.d.ext 0 - o.ax axCount
  let (o, s) ← zeroVacant o s (o.ax axCount) vacant
  let next ← match o.obj 2 with
    | none => .ok 0
    | some x => (reservoir o s x).map Prod.snd
  let (o, s) ← writeManifest o s 0 (manifestHeader o next)
  return (o, s.bump Reg.itkSamples 31 0 vacant)

/-- A row ends, accepted or dropped: its manifest entry, the slots that abandoned attempts left, and the op's counts; after the last row the
batch ends. The row's work unit is done. -/
def rowEnd (o : OpRec) (s : State) (sm : Sample) (dropped : Bool) : Except WorkFail (OpRec × State) := do
  let orig ← match o.obj 0 with
    | none => .ok 0
    | some a => (readRow o s 0 a sm.row 1).map (fun ws => smSid ws)
  let k := sm.row - o.d.firstRow
  let (o, s) ← writeManifest o s (k + 1) (manifestEntry o sm orig dropped)
  let pos := o.ax axCount
  let (o, s) ← if dropped then .ok (o.abandonWrites sm.writes, s)
    else do
      let (o, s) ← zeroSlots o s pos (o.oldWrites.filter (fun c => !sm.writes.contains c))
      let o := ({ o with aux := Tab.clear o.aux axOld (axOld + 2 ^ 16) } : OpRec).setAx axCount (pos + 1)
      .ok (o, s.bump Reg.itkSamples 63 32 1)
  let o := ((o.setAx axRepl (o.ax axRepl + sm.repl)).setAx axCorrupt (o.ax axCorrupt + sm.corrupt)).setAx axStale (o.ax axStale + sm.stale)
  let s := ({ s with sample := none } : State).putBit Reg.itkStat 0 false
  let (o, s) ← if k + 1 = o.d.ext 0 then batchEnd o s else .ok (o, s)
  return ({ o with done := o.done ++ [k] }, s)

/-- The running sample goes on: a sample whose items have all been written is accepted (R471). -/
def sampleOn (o : OpRec) (s : State) (sm : Sample) : Except WorkFail (OpRec × State) :=
  if smItems sm.entry ≤ sm.item then rowEnd o s sm false
  else .ok (o, ({ s with sample := some sm } : State).putBit Reg.itkStat 0 true)

/-- The stream that an item names, for the counters. -/
def State.countReject (s : State) (stream cause orig : Nat) : State :=
  let s := if cause = caStale then s.bump (Reg.itkScnt0 stream) 31 0 1 else s.bump (Reg.itkScnt0 stream) 63 32 1
  (s.wr Reg.itkLastsid (BitVec.ofNat 64 orig)).wr Reg.itkLastbad (word [(4, stream), (0, cause)])

/-- An item rejects its sample (R481): the next reservoir entry replaces it, or it is dropped (R482, R483). -/
def rejectSample (o : OpRec) (s : State) (sm : Sample) (cause stream item : Nat) : Except WorkFail (OpRec × State) := do
  let orig ← match o.obj 0 with
    | none => .ok 0
    | some a => (readRow o s 0 a sm.row 1).map (fun ws => smSid ws)
  let s := s.countReject stream cause orig
  let sm := if sm.cause = 0 then { sm with cause := cause, cstr := stream, citem := item } else sm
  let sm := if cause = caStale then { sm with stale := sm.stale + 1 } else { sm with corrupt := sm.corrupt + 1 }
  let drop := fun (s : State) => rowEnd o (s.bump (Reg.itkScnt1 stream) 31 0 1) sm true
  match o.obj 2 with
  | none => drop s
  | some x =>
    let (count, next) ← reservoir o s x
    if count ≤ next ∨ x.d0 ≤ next + 1 then drop s
    else
      let e ← readRow o s 2 x (next + 1) 4
      let s ← writeRow o s 2 x 0 0 (bytesOf 4 (next + 1))
      let s := s.bump (Reg.itkScnt1 stream) 63 32 1
      let o := o.abandonWrites sm.writes
      let sm : Sample := { sm with entry := e, item := 0, cursor := next + 1, cursor0 := if sm.repl = 0 then next else sm.cursor0,
                                   repl := sm.repl + 1, writes := [] }
      sampleOn o s sm

/-- The op that a BATCH command concerns: an INTAKE op at work on unit 184 with a running piece that covers work unit `u`, the engine in service. -/
def State.intakeOp (s : State) (q sn u : Nat) : Option OpRec :=
  if s.flag Reg.itkStat 1 then s.worker 9 0 q sn 184 u 1 else none

/-- Put back what an intake step gives. -/
def State.intakePut (s : State) (o : OpRec) (x : Except WorkFail (OpRec × State)) : State :=
  match x with
  | .error w =>
    let s := s.workFails o 184 w
    if w.fail = .classA ∨ w.fail = .wait then s else ({ s with sample := none } : State).putBit Reg.itkStat 0 false
  | .ok (o, s) => s.putOp o

/-- The running sample, while its op is at work. -/
def State.liveSample (s : State) : Option Sample :=
  match s.sample with
  | none => none
  | some sm => match s.op? sm.q sm.s with
    | some o => if o.phase = .started ∧ o.failing = none then some sm else none
    | none => none

/-- BATCH (R466, R471): the engine begins the next row of the sample list; a row without items is accepted at once. After the last row the vacant
positions and the manifest header are written. -/
def execBatch (q sn : Nat) (s : State) : Outcome :=
  match s.op? q sn with
  | none => .next s
  | some o =>
    let k := o.done.length
    match s.liveSample, s.intakeOp q sn k with
    | none, some o =>
      if o.d.ext 0 ≤ k then .next s
      else
        match (s.view 184 o).obj 0 with
        | none => .next s
        | some a =>
          let row := o.d.firstRow + k
          .next (s.intakePut o (do
            let e ← readRow o s 0 a row 4
            sampleOn (s.view 184 o) s { q := q, s := sn, row := row, pos := o.ax axCount, item := 0, cursor := 0, cursor0 := 0, repl := 0, entry := e,
                                        cause := 0, cstr := 0, citem := 0, corrupt := 0, stale := 0, writes := [] }))
    | _, _ => .next s

/-- One item of the running sample. -/
def itemStep (o : OpRec) (s : State) (sm : Sample) : Except WorkFail (OpRec × State) :=
  match o.obj 1 with
  | none => .ok (o, s)
  | some b => do
    let row := smFirst sm.entry + sm.item
    if b.d0 ≤ row then rejectSample o s sm caItem 0 row
    else
      let w ← readRow o s 1 b row 8
      match ← decodeItem o s sm w with
      | .error c => rejectSample o s sm c (itStream w) row
      | .ok v =>
        match o.obj (20 + itStream w) with
        | none => rejectSample o s sm caItem (itStream w) row
        | some x =>
          let (o, s) ← writeSlot o s (o.rc (16 + itStream w)) x sm.pos (itSlot w) v
          sampleOn o s { sm with item := sm.item + 1, writes := sm.writes ++ [4096 * itStream w + itSlot w] }

/-! ### Errors of the engine (R489) -/

/-- The counter field of ITK_DETCNT for a detector: 1 Huffman parity, 2 transform residue, 3 ECC corrected, 4 ECC uncorrectable. -/
def itkCount (s : State) (det : Nat) : State :=
  match det with
  | 1 => s.bump Reg.itkDetcnt 63 48 1
  | 2 => s.bump Reg.itkDetcnt 47 32 1
  | 3 => s.bump Reg.itkDetcnt 31 16 1
  | _ => s.bump Reg.itkDetcnt 15 0 1

/-- Restore the reservoir's cursor of a sample that stops, where it has moved. -/
def State.cursorBack (s : State) (o : OpRec) (sm : Sample) : State :=
  match o.obj 2 with
  | none => s
  | some x =>
    if sm.repl = 0 then s
    else match writeRow o s 2 x 0 0 (bytesOf 4 sm.cursor0) with
      | .ok s => s
      | .error w => s.workFails o 184 w

/-- The running sample stops, to run again from its start. -/
def State.sampleStop (s : State) : State :=
  match s.liveSample with
  | none => { s with sample := none }
  | some sm =>
    match s.op? sm.q sm.s with
    | none => { s with sample := none }
    | some o =>
      let s := s.cursorBack (s.view 184 o) sm
      let s := s.mapOp sm.q sm.s (fun o => { o.abandonWrites sm.writes with replayB := true, replays := o.replays + 1 })
      ({ s with sample := none } : State).putBit Reg.itkStat 0 false

/-- The intake engine stops and leaves service (R489): its sample runs again, from its first piece, when it returns. -/
def State.intakeStop (s : State) : State :=
  let s := s.sampleStop
  let s := ((s.putBit Reg.itkStat 1 false).putBit Reg.itkStat 2 true).putBit Reg.itkStat 0 false
  let live := s.pieces.filter (fun p => p.unit == 184 && p.phase == PiecePhase.running)
  let redo := fun (p : PieceRec) => p.unit == 184 && p.phase != PiecePhase.planned && p.phase != PiecePhase.committed &&
    live.any (fun y => y.q == p.q && y.s == p.s && y.part.first == p.part.first)
  { s with pieces := s.pieces.map (fun (p : PieceRec) => if redo p then p.again 184 else p) }

/-- An error of the intake engine (R489): `det` is the detector's injection kind: 1 Huffman parity, 2 transform residue, 3 ECC, one bit, corrected; 4 two
bits. -/
def State.intakeFault (s : State) (det : Nat) (inj : Bool) : State :=
  let s := itkCount s det
  if det = 3 then s.countDet (0x1A * 65536)
    { cls := 1, sev := 1, rtype := 0, det := 0x1A, inj := inj, dom := 1, inst := 184, unit := 184, op := s.opOn 184 }
  else (s.engineFault 184 (if det = 4 then 0x1A else 0x17 + det) inj 0).intakeStop

/-- An item of the running sample meets the injections armed in ITK_INJ: those of the JPEG decoder a JPEG item alone. -/
def State.meetItem (s : State) (o : OpRec) (sm : Sample) : State × Bool :=
  let jpeg := match o.obj 1 with
    | some b => match readRow o s 1 b (smFirst sm.entry + sm.item) 8 with
      | .ok w => strKind (o.rc (16 + itStream w)) == 0
      | .error _ => false
    | none => false
  s.meet (fun a => if a.reg = Reg.itkInj ∧ (3 ≤ a.kind ∨ jpeg = true) then some (fun s => (s.intakeFault a.kind true, a.kind != 3)) else none)

/-! ### The next item -/

/-- The payload that the running sample's next item reads, unless its form or its age rejects it before, meets what is armed in the memories. -/
def State.meetPayload (s : State) (o : OpRec) (sm : Sample) : State :=
  match o.obj 1 with
  | none => s
  | some b => match readRow o s 1 b (smFirst sm.entry + sm.item) 8 with
    | .error _ => s
    | .ok w =>
      if b.d0 ≤ smFirst sm.entry + sm.item ∨ malformed o sm w = true ∨ ageCause s.ns (o.rc (16 + itStream w)) w ≠ 0 then s
      else s.meetReads (some (o.q, o.s, o.ctx)) [(1, itAddr w, itLen w)]

/-- ITEM (R480): the engine starts the next item of the running sample, checks its form, its age and its claim, and decodes it or rejects the sample. -/
def execItem (q sn : Nat) (s : State) : Outcome :=
  match s.liveSample with
  | none => .next s
  | some sm =>
    if sm.q = q ∧ sm.s = sn then
      match s.op? q sn with
      | none => .next s
      | some o =>
        match s.intakeOp q sn o.done.length with
        | none => .next s
        | some o =>
          match s.meetItem o sm with
          | (s, true) => .next s
          | (s, false) =>
            let s := s.meetPayload (s.view 184 o) sm
            match s.intakeOp q sn o.done.length with
            | none => .next s
            | some o => .next (s.intakePut o (itemStep (s.view 184 o) s sm))
    else .next s

end Sys2Proof.Machine
end

