-- ==== Sys2Proof/Machine/Order.lean ====
section
/-! DEFINITION. When the inputs of a piece are planned to be ready (R78, R344, R350, R362), and the order in which the Rigger plans pieces (R86, R87, R90). -/

namespace Sys2Proof.Machine

/-! ### The tiles that a part reads (R55, R81) -/

/-- Terms of the products of an op: the K indices that its slices cut. -/
def OpRec.termsOf (o : OpRec) (a b : Obj) : Nat :=
  match o.d.cls with
  | 1 => if o.d.op = 2 then 128 else o.d.ext 2
  | 8 => a.rows
  | _ => convTerms o a b

/-- The elements of the first operand that term `k` of slice `t` of result element (row, col) of plane `p` takes: (plane, row, column). -/
def OpRec.leftAt (o : OpRec) (a : Obj) (per p row col t k : Nat) : List (Nat × Nat × Nat) :=
  match o.d.cls, o.d.op with
  | 1, 2 => let j := 128 * (col / 128) + k; [if o.d.ta then (0, j, row) else (0, row, j)]
  | 1, _ => [if o.d.ta then (p, k, row) else (p, row, k)]
  | 8, _ => [(0, k, 128 * p + row)]
  | _, 0 =>
    let (ky, kx, ci) := tapOf o.d a.cols k
    ((tapAt o.d (a.rows / o.d.win) row ky kx).toList).map (fun i => (p, i, ci))
  | _, 1 =>
    let (ky, kx, co) := tapOf o.d a.cols k
    (tapFrom o.d (a.rows / o.d.wout) row ky kx).map (fun i => (p, i, co))
  | _, _ =>
    let (ky, kx, ci) := tapOf o.d a.cols row
    ((tapAt o.d (a.rows / o.d.win) k ky kx).toList).map (fun i => (t / per, i, ci))

/-- The element of the second operand. -/
def OpRec.rightAt (o : OpRec) (a b d : Obj) (per p col t k : Nat) : Nat × Nat × Nat :=
  match o.d.cls, o.d.op with
  | 1, 2 => if o.d.tb then (col / 128, col % 128, k) else (col / 128, k, col % 128)
  | 1, _ => let q := if b.planes = 1 then 0 else p; if o.d.tb then (q, col, k) else (q, k, col)
  | 8, _ => (0, k, 128 * p + col)
  | _, 0 => (0, k, col)
  | _, 1 =>
    let (ky, kx, co) := tapOf o.d a.cols k
    (0, tapRow o.d d.cols ky kx col, co)
  | _, _ => (t / per, k, col)

/-- Tiles of some elements, by number. -/
def Obj.tilesOf (a : Obj) (es : List (Nat × Nat × Nat)) : List Nat := (es.map (fun e => a.tileNo e.1 (e.2.1 / 128) (e.2.2 / 128))).eraseDups

/-- What a part of a product streams: plane, rows, columns and slice, step by step. -/
def OpRec.streamed (o : OpRec) (sh : Shape) (d : Obj) (x : Part) : List (Nat × List Nat × List Nat × Nat) :=
  if x.kind = 0 then
    (x.runs.map (fun k =>
      let gs := bandGroups d k.r0 k.h
      (List.range (k.stop - k.start)).map (fun i =>
        let n := k.start + i
        (k.p, (List.range (groupRows d k.r0 k.h (n % gs))).map (· + (128 * k.r0 + 32 * (n % gs))), (List.range (d.vcols k.c)).map (· + 128 * k.c),
          k.lo + n / gs)))).flatten
  else
    ((List.range x.n).map (fun g =>
      let (f, i, j) := stemGroup d (x.first + g)
      let (h, w) := stemLanes d.cols
      let base := if o.d.op = 2 then f * sh.per else 0
      let (lo, hi) := if x.n = 1 then (x.lo, x.hi) else (0, sh.per)
      (List.range (hi - lo)).map (fun t => (if o.d.op = 2 then 0 else f, (List.range (min h (d.rows - i))).map (· + i),
        (List.range (min w (d.cols - j))).map (· + j), base + lo + t)))).flatten

/-- The tiles of an operand (role 0 or 1) that a part of a product reads. -/
def OpRec.productReads (o : OpRec) (sh : Shape) (a b d : Obj) (x : Part) (left : Bool) : List Nat :=
  let n := o.termsOf a b
  let es := (o.streamed sh d x).map (fun y =>
    let (p, rows, cols, t) := y
    (sliceKs sh.depth n (t % sh.per)).map (fun k =>
      if left then (rows.map (fun r => o.leftAt a sh.per p r (cols.headD 0) t k)).flatten else cols.map (fun c => o.rightAt a b d sh.per p c t k)))
  (if left then a else b).tilesOf es.flatten.flatten

/-- The tiles of a preload that a part reads: those of the slots of leaf 0 that it opens (R194). -/
def OpRec.preReads (o : OpRec) (sh : Shape) (c d : Obj) (x : Part) : List Nat :=
  c.tilesOf (((o.streamed sh d x).filter (fun y => y.2.2.2 == 0)).map (fun y =>
    (y.2.1.map (fun r => y.2.2.1.map (fun j => (if c.planes = 1 then 0 else y.1, if o.d.pre = 2 then 0 else r, j)))).flatten)).flatten

/-- Tiles of the rows of the row view of an operand that a part of a VECTOR op covers. -/
def OpRec.viewReads (o : OpRec) (a d : Obj) (x : Part) : List Nat :=
  a.tilesOf (((List.range x.n).map (fun k => ((coveredRows o d (x.first + k)).map (fun r =>
    (List.range (min a.tc (ceilDiv (o.d.ext 0) 128))).map (fun c => ((a.viewRow r).1, (a.viewRow r).2, 128 * c)))).flatten)).flatten)

/-- Covered tiles of an object by their places in the list of an op's tiles. -/
def listReads (a : Obj) (ts : List (Nat × Nat × Nat)) (x : Part) : List Nat := ((ts.drop x.first).take x.n).map (fun t => a.tileNo t.1 t.2.1 t.2.2)

/-- The tiles of the object of a role that a part reads; `none` stands for all of them. -/
def OpRec.tilesRead (o : OpRec) (x : Part) (role : Nat) (a : Obj) : Option (List Nat) :=
  match o.shape, o.obj 0, o.obj 3 with
  | some (sh, d), some l, _ =>
    let b := (o.obj 1).getD l
    if x.kind = 0 ∨ x.kind = 36 then match role with
      | 0 => if o.d.cls = 1 ∧ o.d.op = 1 then none else some (o.productReads sh l b d x true)
      | 1 => some (o.productReads sh l b d x false)
      | 2 => if o.d.cls = 1 ∧ o.d.op = 1 then some (a.tilesOf ((partRows d x).map (fun r => (0, r, 0)))) else some (o.preReads sh a d x)
      | _ => some []
    else if x.kind = 16 ∧ role = 4 then none
    else some []
  | _, _, od =>
    let same := fun (bb : Nat) => o.d.op == 0 && (bb == 0 || bb == 2)
    match o.d.cls, o.d.op with
    | 2, _ => match od with
      | none => none
      | some d => if role = 0 ∨ role = 1 ∧ same o.d.bb = true ∨ role = 2 ∧ same o.d.cb = true then some (o.viewReads a d x)
          else if o.writes role then some [] else none
    | 3, 2 => if role = 0 then some (a.tilesOf ((List.range x.n).map (fun k => (0, x.first + k, 0)))) else some []
    | 3, _ => if x.kind = 0 then none else some []
    | 6, 0x40 | 7, 0x40 | 7, 0x41 => if role = 0 ∧ x.dir = 0 then some ((o.bucketTiles x.first).map (fun t => a.tileNo t.1 t.2.1 t.2.2)) else some []
    | 6, 1 => some []
    | 6, _ => if role = 0 then some (listReads a o.d.tilesCovered x) else if o.writes role then some [] else none
    | 7, _ => if role = 0 then some (listReads a o.accTiles x) else some []
    | 8, 2 => if role = 0 then some (if x.kind = 0 ∧ x.lo = 0 then (List.range x.n).map (fun k => a.tileNo (o.d.gfirst + x.first + k) 0 0) else []) else
        if role = 12 then none else some []
    | _, _ => none

/-- Does a part of a producer write tile `t` of its object of a role? -/
def OpRec.partWrites (p : OpRec) (y : Part) (role : Nat) (w : Obj) (t : Nat) : Bool :=
  let (pl, r, c) := w.tileAt t
  let within := fun (u : Nat) => decide (y.first ≤ u) && decide (u < y.first + y.n)
  if p.shape.isSome then y.kind == 16 && (if role = 3 ∨ role = 5 then within (p.workOf w pl r c) else true)
  else if role ≠ 3 then true
  else match p.d.cls, p.d.op with
    | 2, 1 => true
    | 2, _ => within (pl * w.tr + r)
    | 6, 0x40 | 7, 0x40 | 7, 0x41 => y.first == r / p.d.brows
    | 6, 0x42 => y.first == p.d.tilesCovered.idxOf (pl, r, c)
    | 6, _ => within (p.d.tilesCovered.idxOf (pl, r, c))
    | 7, 0 => within (p.accTiles.idxOf (pl, r, c))
    | _, _ => true

/-! ### Parts of one op (R76, R350) -/

/-- Does part `x` go on with work that part `y` of the same op leaves open on its unit (R76)? -/
def OpRec.goesOn (o : OpRec) (y x : Part) : Bool :=
  y.kind == x.kind && y.dir == x.dir &&
    (if x.kind = 0 ∧ x.runs ≠ [] then x.runs.any (fun k => k.start != 0 && y.runs.any (fun j => j.band == k.band && j.stop == k.start))
     else if x.lo = 0 then false
     else if x.kind = 36 then y.first + y.n == x.first + 1 && y.hi == x.lo
     else if o.attends then y.first == x.first && y.hi == x.lo
     else if o.d.cls = 8 then x.kind == 0 && y.first == x.first && y.lo + 1 == x.lo
     else if o.d.cls = 9 then y.first == x.first && y.lo + 1 == x.lo
     else x.kind == 56 && !o.d.collective && y.first == x.first && y.hi == x.lo)

/-- Blocks of a message of a ring step of bucket `b`. -/
def OpRec.ringBlocks (o : OpRec) (b : Nat) : Nat := msgBlocks (o.shardBytes b)

/-- Does part `y` make what part `x` of the same op takes: the tiles of an epilogue, the node of a way or a message, the product or the step of an iteration
before, the step of a ring before (R195, R196, R327, R350)? -/
def OpRec.feeds (o : OpRec) (y x : Part) : Bool :=
  let forms := y.kind == 0 || y.kind == 36
  if o.d.cls = 8 ∧ o.d.op = 2 then
    let q := rootProducts o.rootP
    y.first == x.first && (if x.kind = 16 then y.kind == 0 && y.lo + 1 == (x.lo + 1) * q
      else y.kind == 16 && x.lo % q == 0 && decide (0 < x.lo) && (y.lo + 1) * q == x.lo)
  else if o.d.collective then
    let m := o.ringBlocks x.first
    decide (m ≤ x.lo) && y.first == x.first && y.hi == x.hi && y.lo + m == x.lo
  else if o.shape.isNone then false
  else if x.kind = 16 then
    (List.range x.n).any (fun k => forms && partForms o y (x.first + k) none || y.isWay && y.first == x.first + k ||
      y.kind == 56 && y.dir == 1 && y.first % o.units == x.first + k)
  else if x.isWay then forms && partForms o y x.first (some (x.lo, x.hi))
  else if x.kind = 56 ∧ x.dir = 0 then forms && partForms o y x.first none || y.isWay && y.first == x.first
  else false

/-- A piece that an op is cut into, by its number. -/
def State.cutPiece (s : State) (o : OpRec) (i : Nat) : Option PieceRec := s.pieces.find? (fun p => p.q == o.q && p.s == o.s && p.idx == i)

/-- Fold the planned beats of the op's own parts that a part waits for; `none` where one is not planned. -/
def State.ownInput (s : State) (o : OpRec) (x : Part) : Option Nat :=
  (o.split.zipIdx).foldl (fun m y =>
    if o.goesOn y.1 x || o.feeds y.1 x then match m, s.cutPiece o y.2 with
      | some a, some p => some (max a (if o.goesOn y.1 x then p.planned else p.planned + 1))
      | _, _ => none
    else m) (some 0)

/-! ### Ports of a side (R348, R349) -/

/-- The UP ports whose far end is a module. -/
def State.nearPorts (s : State) (a : Nat) : List Nat := (List.range 96).filter (fun p => s.portUp p && (s.routesTo a).contains (p, 1))

/-- The right (0) or left (1) ports of a collective's member: with two members, the lower or the upper half of the ports to the other. -/
def State.sidePorts (s : State) (o : OpRec) (side : Nat) : List Nat :=
  if o.size = 2 then
    let ps := s.nearPorts (o.member (1 - o.rank))
    if side = 0 then ps.take (ps.length / 2) else ps.drop (ps.length / 2)
  else s.nearPorts (o.member (if side = 0 then (o.rank + 1) % o.size else (o.rank + o.size - 1) % o.size))

/-- The ports that carry a side's traffic: its own, else one on the shortest route, at whose capacity it is planned (R349). -/
def State.sideRoute (s : State) (o : OpRec) (side : Nat) : List Nat :=
  match s.sidePorts o side with
  | [] => (s.routePorts (o.member (if side = 0 then (o.rank + 1) % o.size else (o.rank + o.size - 1) % o.size))).take 1
  | ps => ps

/-- P_side, V_b and the span of a bucket in beats (R350). -/
def State.sideCount (s : State) (o : OpRec) : Nat := max 1 (min (s.sidePorts o 0).length (s.sidePorts o 1).length)
def OpRec.sideBytes (o : OpRec) (b : Nat) : Nat := o.ringSteps * o.shardBytes b
def State.span (s : State) (o : OpRec) (b : Nat) : Nat := max (ceilDiv (o.sideBytes b) (s.sideCount o * 25000)) o.ringSteps

/-- The earliest beat of a ring step's piece by the span of its bucket, whose first step began with its own first piece. -/
def State.ringBeat (s : State) (o : OpRec) (x : Part) : Nat :=
  let k := x.lo / o.ringBlocks x.first
  let start := ((s.pieces.filter (fun p => p.q == o.q && p.s == o.s && p.part.first == x.first && p.part.hi == x.hi && p.part.lo == 0)).map
    PieceRec.earliest).foldl max 0
  if k = 0 then 0 else start + k * s.span o x.first / max 1 o.ringSteps

/-! ### The first beat in which every input is planned to be ready (R78) -/

/-- Has an op no pieces: one without work, a SYSTEM op, a cascade op that moves nothing over a port? -/
def OpRec.pieceless (o : OpRec) : Bool := o.noWork || o.stays || o.d.cls == 0

/-- Does part `y` of a producer write something that part `x` of op `o` reads? Everything counts where `o` is not yet cut, or is to await the whole op. -/
def State.partNeeded (o p : OpRec) (tilewise : Bool) (x : Option Part) (y : Part) : Bool :=
  match x with
  | none => true
  | some x =>
    let shared := (p.objs.filter (fun w => p.writes w.1)).map (fun w => (w, o.objs.filter (fun a => a.2.id == w.2.id)))
    if !tilewise || shared.all (fun z => z.2.isEmpty) then true
    else shared.any (fun z => z.2.any (fun a => match o.tilesRead x a.1 a.2 with
      | none => true
      | some ts => ts.any (fun t => p.partWrites y z.1.1 z.1.2 t)))

/-- The beat in which what a part awaits of dependency slot `k` is planned to be there: `none` where the plan of its producer does not yet say. -/
def State.depInput (s : State) (o : OpRec) (x : Option Part) (k : Nat) : Option Nat :=
  if !o.d.depV k then some 0
  else match s.op? (o.d.depQ k) (o.d.depS k) with
    | none => some 0
    | some p =>
      if p.phase = .ended then (if p.status < 0x100 then some (p.endB + 1) else if p.gone then some 0 else none)
      else if p.failing.isSome then none
      else if p.pieceless then some 0
      else if p.split.isEmpty then none
      else (p.split.zipIdx).foldl (fun m y => if State.partNeeded o p (o.d.depTile k) x y.1 then match m, s.cutPiece p y.2 with
          | some a, some z => some (max a (z.planned + 1))
          | _, _ => none
        else m) (some 0)

/-- NOTBEFORE of an op as a beat number (R74, R101). -/
def State.notBefore (s : State) (o : OpRec) : Nat :=
  let nb := recAt (o.rc 0) 1 63 24
  let d := (nb + 2 ^ 40 - s.beat40) % 2 ^ 40
  if nb = 0 ∨ 2 ^ 39 ≤ d then 0 else s.beat + d

/-- The first beat in which every input of a part, or of an op not yet cut, is planned to be ready: p.earliest of R78, were it planned at once. -/
def State.inputBeat (s : State) (o : OpRec) (x : Option Part) : Option Nat :=
  let own := match x with
    | none => some 0
    | some x => (s.ownInput o x).map (fun e => if o.d.collective then max e (s.ringBeat o x) else e)
  match s.depInput o x 0, s.depInput o x 1, own with
  | some a, some b, some c => some (max (max (max a b) (max c o.taken)) (max (s.notBefore o) (if o.d.depTile 0 || o.d.depTile 1 then 0 else o.depBeat.getD 0)))
  | _, _, _ => none

/-! ### Plan order (R86, R87) -/

/-- The priority class of a piece whose inputs are ready in beat `e` (Table 3.4): 0 CRITICAL, 1 STANDARD, 2 BULK, 3 BUBBLE. -/
def State.planClass (s : State) (o : OpRec) (e : Nat) : Nat :=
  match s.fld (Reg.qctl o.q) 51 50 with
  | 1 => 0
  | 0 => 1
  | 2 => if e + 256 < s.beat then 1 else 2
  | _ => if e + 65536 < s.beat then 2 else 3

/-- The place of a PASS in the order of a pipeline mode (R87). -/
def passRank (mode pass : Nat) : Nat :=
  match pass with
  | 1 => if mode = 1 then 1 else 0
  | 2 => if mode = 1 then 0 else 1
  | 3 => 2
  | _ => 3

/-- Does R90 hold pieces of the op back? -/
def State.planHeld (s : State) (o : OpRec) : Bool :=
  let p := s.pipe o.ctx
  let l := if p.mode = 0 then p.micro else p.stages - p.stage
  o.hintAt 61 60 == 1 && decide (o.d.mb < p.micro) && decide (l ≤ o.d.mb - s.lowestMb o.ctx p.micro 0)

/-- A piece that may be planned: its op, its number, the kind of its unit, and the beat of its inputs. -/
structure Cand where
  op   : OpRec
  idx  : Nat
  kind : Nat
  beat : Nat
  deriving DecidableEq, Repr

/-- Class, pass, micro-batch and queue of a piece that may be planned. -/
def State.planKey (s : State) (c : Cand) : List Nat :=
  [s.planClass c.op c.beat, passRank (s.pipe c.op.ctx).mode (c.op.hintAt 61 60), c.op.d.mb, c.op.q]

/-- Is piece `a` planned before piece `b` of the same earliest beat (R86, R87)? -/
def State.plansFirst (s : State) (a b : Cand) : Bool :=
  decide (s.planKey a < s.planKey b) ||
    s.planKey a == s.planKey b && (before a.op.s b.op.s || a.op.s == b.op.s && decide (a.idx < b.idx))

/-- Can an op's pieces be planned now: it runs or waits to, and what its cut rests on can be read? -/
def State.plannable (s : State) (o : OpRec) : Bool :=
  o.phase != .ended && o.failing.isNone && !o.pieceless && !s.planHeld o &&
    (!o.attends || o.att.isSome || match o.obj 0, o.obj 1 with
      | some a, some b => match attRows o s a b 0 (o.d.ext 0) with
        | .ok _ => true
        | .error _ => false
      | _, _ => false)

/-- The pieces that may be planned; an op not yet cut stands with one. -/
def State.cands (s : State) : List Cand :=
  ((s.ops.filter s.plannable).map (fun o =>
    if o.split.isEmpty then ((s.inputBeat o none).map (fun e => (⟨o, 0, o.kindOf, e⟩ : Cand))).toList
    else (o.split.zipIdx).filterMap (fun x => if (s.cutPiece o x.2).isSome then none
      else (s.inputBeat o (some x.1)).map (fun e => ⟨o, x.2, x.1.kind, e⟩)))).flatten

/-- Has the horizon reached a planned beat? -/
def State.withinHorizon (s : State) (b : Nat) : Bool := decide (b ≤ s.beat + s.fld Reg.beatHorizon 7 0)

/-- Is a piece one of a class other than BUBBLE? -/
def State.unbubbly (s : State) (p : PieceRec) : Bool :=
  match s.opAny p.q p.s with
  | some o => decide (s.planClass o p.earliest < 3)
  | none => false

/-- Has a unit no piece of another class within the commit horizon (BUBBLE, Table 3.4)? -/
def State.bubbleOpen (s : State) (u dir : Nat) : Bool :=
  u == 255 || !s.pieces.any (fun p => p.unit == u && p.dir == dir && p.phase != .ended && s.unbubbly p && s.withinHorizon p.planned)

/-- Must another piece be planned before this one: of the same earliest beat and before it in plan order? One of class BUBBLE for which no unit is open
holds up none. -/
def State.overPlanned (s : State) (c : Cand) : Bool :=
  s.cands.any (fun a => !(a.op.q == c.op.q && a.op.s == c.op.s && a.idx == c.idx) && max a.beat s.beat == max c.beat s.beat && s.plansFirst a c &&
    (decide (s.planClass a.op a.beat < 3) || (s.unitsIn a.kind 1024).any (fun u => s.bubbleOpen u 0)))

end Sys2Proof.Machine
end

