-- ==== Sys2Proof/Machine/Plan.lean ====
section
/-! DEFINITION. Pieces: planned, committed, staged, started and ended (R76 to R103, R149). -/

namespace Sys2Proof.Machine

/-! ### Units for a part (R84, R85, R103) -/

/-- Count one RIG_HINTMISS for an op, once: `k` is the note in `aux`. -/
def State.missOnce (s : State) (o : OpRec) (k : Nat) : State :=
  if o.aux.get (fun _ => 0) k = 1 then s
  else (s.bump Reg.hintMiss 63 0 1).mapOp o.q o.s (fun o => { o with aux := o.aux.set (fun _ => 0) k 1 })

/-- Is a part planned whether or not a unit of its kind is in service: a slice's reductions need no UU (R84), a SEQSET's records no ASQ (R275), and only a
link's own rules end an op for links (R355, R529)? -/
def OpRec.anyService (o : OpRec) (kind : Nat) : Bool := o.d.cls == 7 && kind == 40 || o.d.cls == 3 && o.d.op == 2 || decide (56 ≤ kind ∧ kind < 184) || kind == 255

/-- Is no unit of a part's kind left on the module (R85)? The intake engine counts while its self-test runs. -/
def State.kindDead (s : State) (o : OpRec) (kind : Nat) : Bool :=
  !o.anyService kind && (if kind = 184 then s.flag Reg.itkStat 3 else (s.unitsIn kind 1024).isEmpty)

/-- The lowest unit that ENGINE_FAULT reports (R85). -/
def State.lastUnit (s : State) (o : OpRec) (kind : Nat) : Nat :=
  lowestOf kind ((s.pieces.filter (fun p => p.q == o.q && p.s == o.s && p.phase != PiecePhase.planned && p.phase != PiecePhase.ended)).map
    (fun p => p.unit))

/-- Do the hint's masks bear on parts of a kind: on engines that data do not fix (R84, R101)? -/
def OpRec.masked (o : OpRec) (kind : Nat) : Bool := decide (kind < 40) && !(o.d.cls == 3 && o.d.op == 2)

/-- Where an address stands: a compute die 0 to 3, or the hub, 4, with the deep tier and the host links (R22); `none` while its group has no placement. -/
def State.placeAt (s : State) (a : Nat) : Option Nat :=
  match region a with
  | .tile d _ => some d
  | .hbm | .deep =>
    let e := s.tir (groupOf a)
    if !bit e 63 then none else if bit e 62 then some 4 else some (bits e 49 46 / 4)
  | _ => some 4

/-- Where the first and the last byte of tiles of an object stand. -/
def State.tilePlaces (s : State) (x : Obj) (ts : List Nat) : List (Option Nat) :=
  (ts.map (fun t =>
    let (p, r, c) := x.tileAt t
    [s.placeAt (x.addr (x.tileOff p r c)), s.placeAt (x.addr (x.tileOff p r c + fmtStride x.fmt - 1))])).flatten

/-- Does a bundle in direction `dir` run from place `a` to place `b` (R77, Table 17.1)? -/
def bundleJoins (u dir a b : Nat) : Bool :=
  decide (152 ≤ u) && decide (u < 184) && bundleEnds (u - 152) == (if dir = 0 then (a, b) else (b, a))

/-- Do assigned groups of HBM all stand on stack `n`? -/
def State.stackOf (s : State) (gs : List Nat) (n : Nat) : Bool := gs.all (fun g => let e := s.tir g; !bit e 63 || bit e 62 || bits e 49 46 == n)

/-- Where the piece of a COPY without conversion runs (R629): on a bundle that joins the two places, or on no unit where no strand hop is crossed. -/
def State.copyFits (s : State) (o : OpRec) (x : Part) (v : Nat) : Bool :=
  match o.obj 0, o.obj 3 with
  | some a, some d =>
    let at_ := fun (y : Obj) => (s.tilePlaces y (listReads y o.d.tilesCovered x)).filterMap id
    let src := at_ a
    let dst := at_ d
    if x.kind = 255 then v == 255 && (src ++ dst).eraseDups.length ≤ 1
    else (src.eraseDups.length ≤ 1 && dst.eraseDups.length ≤ 1 && src != dst) &&
      (List.range 5).any (fun a => (List.range 5).any (fun b => bundleJoins v x.dir a b && src.all (· == a) && dst.all (· == b)))
  | _, _ => false

/-- The unit on which the piece that forms a node of work unit `u` is planned. -/
def State.homeOf (s : State) (o : OpRec) (u : Nat) (node : Nat × Nat) : Option Nat :=
  (s.pieces.find? (fun p => p.q == o.q && p.s == o.s && decide (p.idx < o.split.length) && (p.part.kind == 0 || p.part.kind == 36) &&
    partForms o p.part u (some node))).map PieceRec.unit

/-- The way of a node of work unit `u` that an op's cut names. -/
def OpRec.wayOf (o : OpRec) (u : Nat) (node : Nat × Nat) : Option Part := o.split.find? (fun w => w.isWay && w.first == u && (w.lo, w.hi) == node)

/-- May unit `v` form what part `x` forms: one unit forms each node; nodes without a way form where slice 0 does, those with one on its die or another as
the way says (R195, R196)? -/
def State.nodesFit (s : State) (o : OpRec) (sh : Shape) (d : Obj) (x : Part) (v : Nat) : Bool :=
  ((List.range o.units).filter (fun u => partForms o x u none)).all (fun u =>
    let ns := o.nodesOf sh d o.split u
    let home := fun (nd : Nat × Nat) => if partForms o x u (some nd) then some v else s.homeOf o u nd
    let top := (ns.find? (fun nd => nd.1 == sh.own.1)).bind home
    ns.all (fun nd =>
      (!partForms o x u (some nd) || s.pieces.all (fun p => !(p.q == o.q && p.s == o.s && decide (p.idx < o.split.length) &&
        (p.part.kind == 0 || p.part.kind == 36) && partForms o p.part u (some nd)) || p.unit == v)) &&
      match home nd, top with
      | some a, some b => (match o.wayOf u nd with
        | none => a == b
        | some w => (w.kind == 255) == (unitDie a == unitDie b))
      | _, _ => true))

/-- Where the way of a node tile runs: on a bundle that joins the dies of its two units, or on no unit within one die. -/
def State.wayFits (s : State) (o : OpRec) (sh : Shape) (d : Obj) (x : Part) (v : Nat) : Bool :=
  match s.homeOf o x.first (x.lo, x.hi), ((o.nodesOf sh d o.split x.first).find? (fun nd => nd.1 == sh.own.1)).bind (s.homeOf o x.first) with
  | some a, some b => match unitDie a, unitDie b with
    | some i, some j => if x.kind = 255 then v == 255 && i == j else bundleJoins v x.dir i j
    | _, _ => false
  | _, _ => false

/-- Where the epilogues of a part run: on the VXE paired with the MXE that holds slice 0, or on one of the stem engine's die, that of its started pieces
(R214, R226, R296). -/
def State.epiFits (s : State) (o : OpRec) (sh : Shape) (d : Obj) (x : Part) (v : Nat) : Bool :=
  (List.range x.n).all (fun k =>
    let u := x.first + k
    match ((o.nodesOf sh d o.split u).find? (fun nd => nd.1 == sh.own.1)).bind (s.homeOf o u) with
    | none => false
    | some h =>
      if o.d.cls = 5 then (v - 16) / 4 == h - 36 && s.pieces.all (fun p => !(p.q == o.q && p.s == o.s && p.part.kind == 36 &&
        (p.phase == .running || p.phase == .ended) && partForms o p.part u none) || 16 + p.vxe == v)
      else v == 16 + h)

/-- The ports that a part may take, in turn: a side's, or those toward the partner (R348, R349, R84). -/
def State.partPorts (s : State) (o : OpRec) (x : Part) : List Nat × Nat :=
  if o.d.collective then (s.sideRoute o (if x.dir = 0 then x.hi else 1 - x.hi), x.lo)
  else if o.d.pairwise then (s.routePorts (o.member o.d.peer), x.first)
  else (s.routePorts (if o.rank = 0 then o.member (x.first / o.units) else o.member 0), x.first % o.units)

/-- Is `v` the port of a part? -/
def State.portFits (s : State) (o : OpRec) (x : Part) (v : Nat) : Bool :=
  match s.partPorts o x with
  | (ps, k) => ps != [] && v == 56 + ps.getD (k % ps.length) 0

/-- Is a part of pairs with the parts that run the same pairs, on an MXE, the ASQ of its die and the paired VXE (R273)? -/
def State.trioFits (s : State) (o : OpRec) (x : Part) (v : Nat) : Bool :=
  (List.range 16).any (fun m => attPlace m x.kind == v && [0, 16, 32].all (fun k => s.unitIn (attPlace m k)) &&
    s.pieces.all (fun p => !(p.q == o.q && p.s == o.s && decide (p.idx < o.split.length) && p.part == { x with kind := p.part.kind }) ||
      p.unit == attPlace m p.part.kind))

/-- May a part of an op be planned on a unit (R76, R84, R177, R226, R267, R295, R322, R387, R629)? -/
def State.unitFits (s : State) (o : OpRec) (x : Part) (v : Nat) : Bool :=
  (v == 255 && x.kind == 255 || decide (x.kind ≤ v) && decide (v < x.kind + (unitKind x.kind).2) && (s.unitIn v || o.anyService x.kind && decide (v < 56))) &&
  (o.split.zipIdx).all (fun y => !o.goesOn y.1 x || (s.cutPiece o y.2).all (fun p => p.unit == v)) &&
  match o.shape with
  | some (sh, d) =>
    if x.isWay then s.wayFits o sh d x v
    else if x.kind = 16 then s.epiFits o sh d x v
    else if x.kind = 56 then s.portFits o x v
    else s.nodesFit o sh d x v && (x.kind != 0 || s.unitIn (16 + v))
  | none =>
    if x.kind = 56 then s.portFits o x v
    else match o.d.cls, o.d.op with
      | 3, 2 => (List.range x.n).all (fun k => match s.seqsetEntry o (x.first + k) with
        | some e => v == 32 + e / 65536
        | none => true)
      | 3, _ => s.trioFits o x v
      | 6, 0 => !o.rawCopy || s.copyFits o x v
      | 7, 0 => match o.obj 3 with
        | some d => s.stackOf ((((o.accTiles.drop x.first).take x.n).map (fun t => d.groups (d.tileOff t.1 t.2.1 t.2.2) (fmtStride d.fmt))).flatten) (v - 40)
        | none => true
      | 8, 0 => match o.obj 1 with
        | some w => s.stackOf (((List.range x.n).map (fun k =>
            let (p, r, c, _) := blockAt w (o.d.gfirst + x.first + k)
            w.groups (w.tileOff p r c) (fmtStride w.fmt))).flatten) (v - 40)
        | none => true
      | 8, 2 => if x.kind = 16 then (s.pieces.find? (fun p => p.q == o.q && p.s == o.s && p.part.kind == 0 && p.part.first == x.first)).all
            (fun p => v == 16 + p.unit) else s.unitIn (16 + v)
      | _, _ => true

/-! ### Resident feature maps (R290, R291) -/

/-- The planes of operand A (and of B, for a weight gradient) that a part of a CONV or STEM op reads. -/
def OpRec.partPlanes (o : OpRec) (x : Part) : List Nat :=
  match o.shape with
  | some (sh, d) =>
    if x.kind = 0 then (if o.d.op = 2 then ((x.runs.map (fun k => (List.range (ceilDiv k.hi sh.per - k.lo / sh.per)).map (· + k.lo / sh.per))).flatten).eraseDups
        else (x.runs.map Run.p).eraseDups)
    else if x.kind = 36 then ((List.range x.n).map (fun g => (stemGroup d (x.first + g)).1)).eraseDups
    else []
  | none => []

/-- The operand slots of a CONV or STEM op that hold feature maps. -/
def OpRec.mapSlots (o : OpRec) : List Nat := if o.d.cls ≠ 4 ∧ o.d.cls ≠ 5 then [] else if o.d.op = 2 then [0, 1] else [0]

/-- The copy of a plane of the operand in a slot that the op reads under a dependency. -/
def State.residentOf (s : State) (o : OpRec) (slot plane : Nat) : Option Resident :=
  s.resident.find? (fun r => o.readsPlane r && r.plane == plane && (o.obj slot).map Obj.id == some r.obj)

/-- The die whose tile store holds it, where one does. -/
def State.residentDie (s : State) (o : OpRec) (slot plane : Nat) : Option Nat :=
  match s.residentOf o slot plane with
  | some r => if r.dies.length = 1 then r.dies.head? else none
  | none => none

/-- Bytes of one plane in its object's layout. -/
def Obj.planeBytes (o : Obj) : Nat := o.tr * o.tc * fmtStride o.fmt

/-- Bytes of the planes of an op, inputs and outputs, that are placed on a die. -/
def State.residentBytes (s : State) (o : OpRec) (die : Nat) : Nat :=
  (o.mapSlots.map (fun k => match o.obj k, o.obj 3 with
    | some a, some d => ((List.range a.planes).filter (fun p => s.residentDie o k p == some die)).length *
        (a.planeBytes + (if o.d.op = 2 then 0 else d.planeBytes))
    | _, _ => 0)).sum

/-- Copies that a reading op finds on a die where its planes take more than 384 MiB are not kept. -/
def State.trimPlanes (s : State) (o : OpRec) : State :=
  let full := (List.range 4).filter (fun d => decide (384 * 2 ^ 20 < s.residentBytes o d))
  { s with resident := s.resident.filter (fun r => !(o.readsPlane r && r.dies.any full.contains)) }

/-- The planes that an INTAKE has written and a part reads settle on the die of the first unit planned to read them: the intake engine is on none. -/
def State.bindPlanes (s : State) (o : OpRec) (x : Part) (v : Nat) : State :=
  match unitDie v with
  | none => s
  | some h =>
    let mine := fun (r : Resident) => r.dies.isEmpty && o.readsPlane r && (o.partPlanes x).contains r.plane && o.mapSlots.any (fun k => (o.obj k).map Obj.id == some r.obj)
    { s with resident := s.resident.map (fun (r : Resident) => if mine r then { r with dies := [h] } else r) }

/-- Is a part for a resident plane bound to another die: one with a unit of the kind in service, which no STRICT hint excludes (R290, R291)? -/
def State.residentHold (s : State) (o : OpRec) (x : Part) (v : Nat) : Bool :=
  (unitDie v).isSome && o.mapSlots.any (fun k => (o.partPlanes x).any (fun p => match s.residentDie o k p with
    | some h => unitDie v != some h && (s.unitsIn v 1024).any (fun w => unitDie w == some h) &&
        !(o.hintAt 62 62 == 1 && o.hintAt 42 39 != 0 && o.hintAt 42 39 / 2 ^ h % 2 == 0)
    | none => false))

/-! ### The spill area (R201) -/

/-- Node tiles of spill area that an op's planned pieces need on a die: for each quad, the most tiles of a band of its runs. -/
def State.spillTiles (s : State) (o : OpRec) (sh : Shape) (die : Nat) : Nat :=
  ((List.range 4).map (fun k => ((List.range 4).map (fun quad =>
    (((s.pieces.filter (fun p => p.q == o.q && p.s == o.s && p.unit == 4 * die + k && p.part.kind == 0)).map (fun p => p.part.runs)).flatten.filter
      (fun r => r.quad == quad)).foldl (fun m r => max m (r.h * sh.spill)) 0)).sum)).sum

/-- The plan of an op reserves its spill area. -/
def State.syncSpills (s : State) (o : OpRec) : State :=
  match o.shape with
  | none => s
  | some (sh, _) =>
    let mine := ((List.range 4).map (fun d => (⟨o.q, o.s, d, s.spillTiles o sh d⟩ : Spill))).filter (fun x => decide (0 < x.tiles))
    { s with spills := s.spills.filter (fun x => !(x.q == o.q && x.s == o.s)) ++ mine }

/-! ### Planning (R76, R78, R83, R86 to R91, R101 to R103) -/

/-- The cost of an INTAKE item as its list row gives it (R487). -/
def OpRec.itemCost (o : OpRec) (w : List Word) : Nat :=
  let r := o.rc (16 + itStream w)
  let out := ceilDiv (strW r * strH r) 32
  match strKind r with
  | 0 => 512 + max (ceilDiv (itLen w) 16) out
  | 1 => 512 + max (ceilDiv (itLen w) 64) out
  | _ => 512 + max (ceilDiv (itLen w) 64) (ceilDiv (strRows r * strW r) 512)

/-- The planned cost of row `u` of an INTAKE's sample list; `none` where its entry or its items cannot be read. -/
def State.sampleCost (s : State) (o : OpRec) (u : Nat) : Option Nat :=
  match o.obj 0, o.obj 1 with
  | some a, some b => match readRow o s 0 a (o.d.firstRow + u) 4 with
    | .error _ => none
    | .ok e => (((List.range (smItems e)).mapM (fun k => match readRow o s 1 b (smFirst e + k) 8 with
      | .error _ => none
      | .ok w => some (o.itemCost w))).map List.sum)
  | _, _ => none

/-- Is a part no more than a unit of its kind does in a beat: of links that data fix, a port's or a whole bundle's capacity, else the least of the kind's
units in service (R76)? Its own op's part before it has left the weight registers loaded. -/
def State.partInBeat (s : State) (o : OpRec) (x : Part) : Bool :=
  let cost := s.partCost o x (o.split.map Part.runs).flatten
  if x.kind = 255 then true
  else if x.kind = 152 ∧ o.shape.isSome = true then decide (cost ≤ 256000)
  else (s.unitsIn x.kind 1024).all (fun v => decide (cost ≤ s.capacity v))

/-- May an op be cut so, where the cut is fixed: as its chapter allows, each part within a beat, a sample at its cost (R76, R83, R487)? -/
def State.cutOk (s : State) (o : OpRec) : Bool :=
  o.splitOk o.split && o.split.all (fun x => s.partInBeat o x) &&
    (o.d.cls != 9 || (List.range o.units).all (fun u => match s.sampleCost o u with
      | some c => max 1 c == ((o.split.filter (fun x => x.first == u)).map Part.hi).sum
      | none => true))

/-- Runs of the op that the piece planned last on a unit streams: their weight registers stay loaded (R169). -/
def State.runsBefore (s : State) (o : OpRec) (v dir : Nat) : List Run :=
  match (s.pieces.filter (fun p => p.unit == v && p.dir == dir)).getLast? with
  | some p => if p.q = o.q ∧ p.s = o.s then p.part.runs else []
  | none => []

/-- What R78 gives for a part on a unit: its cost, p.earliest, the running total, the planned beat. A piece of class BUBBLE comes after those of the other
classes (Table 3.4). A piece on no scheduled unit takes no capacity (R629). -/
def State.planFigures (s : State) (o : OpRec) (x : Part) (v e : Nat) : Nat × Nat × Nat × Nat :=
  let cost := s.partCost o x (s.runsBefore o v x.dir)
  let e := if s.planClass o e < 3 then e
    else ((s.pieces.filter (fun p => p.unit == v && p.dir == x.dir && p.phase != .ended && s.unbubbly p)).map (fun p => p.planned + 1)).foldl max e
  let e := max e s.beat
  if v = 255 then (cost, e, 0, e)
  else
    let y := planBeat (s.capacity v) (s.total v x.dir) e cost
    (cost, e, y.1, y.2)

/-- Is the unit one that the hint lets a part have: STRICT, a permitted one where any is in service; else a permitted one if that plans it no later (R101,
R103)? -/
def State.hintLets (s : State) (o : OpRec) (x : Part) (v e : Nat) : Bool :=
  !o.masked x.kind || o.permits v ||
    (if o.hintAt 62 62 = 1 then s.hintDead o x.kind
     else !(s.unitsIn x.kind 1024).any (fun w => o.permits w && s.unitFits o x w && !s.residentHold o x w &&
       decide ((s.planFigures o x w e).2.2.2 ≤ (s.planFigures o x v e).2.2.2)))

/-- The piece that a plan makes of part `idx` of an op. -/
def State.newPiece (s : State) (o : OpRec) (x : Part) (idx v e : Nat) : PieceRec :=
  let y := s.planFigures o x v e
  { q := o.q, s := o.s, idx := idx, unit := v, vxe := if x.kind = 0 then v else if x.kind = 16 then v - 16 else 0, part := x, cost := y.1, earliest := y.2.1,
    planned := y.2.2.2, atCommit := y.2.2.2, cyc := s.fld Reg.beatCyc 15 0, startB := 0, staged := [], lower := false, pos := [], hist := [], failed := false,
    did := [], dets := [], depth := 0, reader := none, phase := .planned }

/-- Place a part on the running total of its unit (R78), with the split of its op (R83), the counts of R91 and R103, and the spill area of R201. -/
def State.planOn (s : State) (o : OpRec) (x : Part) (idx v e : Nat) : State :=
  let p := s.newPiece o x idx v e
  let t := (s.planFigures o x v e).2.2.1
  let s := (s.mapOp o.q o.s (fun y => { y with split := o.split })).cond (o.hintAt 61 60 == 1 && decide ((s.pipe o.ctx).micro ≤ o.d.mb)) (fun s => s.missOnce o 204)
  let s := s.cond (o.masked x.kind && s.hintDead o x.kind) (fun s => s.missOnce ((s.op? o.q o.s).getD o) 205)
  let s := ({ s with pieces := s.pieces ++ [p] } : State).cond (v != 255) (fun s => s.setTotal v x.dir t)
  s.syncSpills o

/-- PIECE_PLAN (R78, R83, R86 to R91, R101 to R103, R290): part `idx` of an op on a unit. The first one fixes the split; later ones leave it. -/
def execPiecePlan (q sn : Nat) (split : List Part) (idx unit : Nat) (s : State) : Outcome :=
  match s.op? q sn with
  | none => .next s
  | some o =>
    let fresh := o.split.isEmpty
    let o := if fresh then { o with split := split } else o
    match o.split[idx]? with
    | none => .next s
    | some x =>
      if s.rebaseNow || !s.plannable o || (s.cutPiece o idx).isSome || fresh && !s.cutOk o then .next s
      else if s.kindDead o x.kind then .next (s.failOp q sn stEngineFault (s.lastUnit o x.kind))
      else
        let t := s.mapOp q sn (fun y => { y with split := o.split })
        match t.inputBeat o (some x) with
        | none => .next s
        | some e =>
          let t := (s.bindPlanes o x unit).trimPlanes o
          let y := s.planFigures o x unit e
          if (s.mapOp q sn (fun y => { y with split := o.split })).overPlanned ⟨o, idx, x.kind, e⟩ || !s.unitFits o x unit || t.residentHold o x unit ||
              !s.hintLets o x unit e || decide (3 ≤ s.planClass o e) && !s.bubbleOpen unit x.dir ||
              unit != 255 && decide (s.capacity unit < y.1) && y.1 != s.partCost o x (o.split.map Part.runs).flatten then .next s
          else .next (t.planOn o x idx unit e)

/-! ### Committing (R76, R80) -/

/-- A piece by its op and number. -/
def State.piece? (s : State) (q sn idx : Nat) : Option PieceRec := s.pieces.find? (fun p => p.q == q && p.s == sn && p.idx == idx)

/-- Change a piece. -/
def State.mapPiece (s : State) (q sn idx : Nat) (f : PieceRec → PieceRec) : State :=
  { s with pieces := s.pieces.map (fun p => if p.q = q ∧ p.s = sn ∧ p.idx = idx then f p else p) }

/-- Is a ROOT product the last of its iteration: its quads keep nothing of another piece's (R327)? -/
def OpRec.closesRoot (o : OpRec) (x : Part) : Bool := o.d.cls == 8 && o.d.op == 2 && (x.lo + 1) % rootProducts o.rootP == 0

/-- The parts that are to go on with what a piece leaves open on its unit, and that are not committed yet (R76). Query tiles keep no other piece off a unit
(R267). -/
def State.openAfter (s : State) (p : PieceRec) : List Nat :=
  match s.op? p.q p.s with
  | none => []
  | some o =>
    if o.failing.isSome || o.attends || o.closesRoot p.part || p.reader.isSome || p.phase == .planned then []
    else ((o.split.zipIdx).filter (fun x => o.goesOn p.part x.1 && (s.cutPiece o x.2).all (fun y => y.phase == .planned))).map Prod.snd

/-- Is a unit free of continued work of other pieces (R76)? -/
def State.unitOpen (s : State) (p : PieceRec) : Bool :=
  p.unit == 255 || p.reader.isSome ||
    let held := s.pieces.filter (fun y => y.unit == p.unit && y.dir == p.dir && (s.openAfter y) != [])
    held.isEmpty || held.any (fun y => y.q == p.q && y.s == p.s && (s.openAfter y).contains p.idx)

/-- PIECE_COMMIT (R80); none while a module recovery runs (R584) or a re-base is due at this boundary (R96). -/
def execPieceCommit (q sn idx : Nat) (s : State) : Outcome :=
  match s.piece? q sn idx, s.op? q sn with
  | some p, some o =>
    if p.phase = .planned ∧ s.withinHorizon p.planned = true ∧ s.recovering 6 0 = false ∧ s.rebaseNow = false ∧
        (s.unitIn p.unit || o.anyService p.part.kind) = true ∧ s.unitOpen p = true then
      let s := if p.unit = 255 then s else { s with lastBeat := s.lastBeat.set (fun _ => 0) (2 * p.unit + p.dir) (p.planned + 1) }
      .next (s.mapPiece q sn idx (fun p => { p with phase := .committed, atCommit := p.planned, cyc := s.fld Reg.beatCyc 15 0 }))
    else .next s
  | _, _ => .next s

/-! ### Inputs and staging (R54, R55, R81, R149) -/

/-- Are the tiles of an operand that a part reads ready under the op's dependencies? -/
def State.operandReady (s : State) (o : OpRec) (x : Part) (role : Nat) (a : Obj) : Bool :=
  let rd := s.reader o
  !rd.waits.any (fun w => w.2.2 == a.id) ||
    (match o.tilesRead x role a with
      | some ts => ts
      | none => List.range a.tiles).all (fun t => let (p, r, c) := a.tileAt t; s.tileReady rd a p r c)

/-- Has an op started, so that its pieces may read; a replay's op may have ended? -/
def OpRec.atWork (o : OpRec) (p : PieceRec) : Bool := o.phase == .started || o.phase == .ended && p.reader.isSome

/-- The operands that a piece needs in the tile store of its die, by role: of an MXE or stem engine its operands (R149, R291), of pairs the rows and pages
(role 1) of the heads (R273), of an APPLY G and U (R321). -/
def OpRec.stageRoles (o : OpRec) (x : Part) : List Nat :=
  let have_ := fun (rs : List Nat) => rs.filter (fun k => (o.obj k).isSome)
  match o.d.cls, o.d.op with
  | 1, 1 => if x.kind = 0 then have_ [0, 1] else []
  | 1, _ | 4, _ => if x.kind = 0 then have_ [0, 1, 2] else []
  | 5, _ => if x.kind = 36 then have_ [0, 1, 2] else []
  | 3, 0 => if x.kind = 0 then have_ [0, 1] else []
  | 3, 1 => if x.kind = 0 then have_ [0, 1, 8, 9] else []
  | 8, 0 => have_ [0, 8]
  | 8, 1 => if x.kind = 0 then have_ [0] else []
  | 8, _ => if x.kind = 0 ∧ x.lo = 0 then have_ [0] else []
  | _, _ => []

/-- The tiles of an operand that are to be staged for a piece. -/
def OpRec.stageTiles (o : OpRec) (x : Part) (role : Nat) (a : Obj) : List Nat :=
  match o.d.cls, o.d.op, o.obj 1 with
  | 8, 0, some w => ((List.range x.n).map (fun k => let (p, r, c, _) := blockAt w (o.d.gfirst + x.first + k); a.tileNo p r c)).eraseDups
  | _, _, _ => (o.tilesRead x role a).getD (List.range a.tiles)

/-- Where the tiles of an operand stand. For the pages of an ATTN op, those of the contexts read count too. -/
def State.operandPlaces (s : State) (o : OpRec) (x : Part) (role : Nat) : List (Option Nat) :=
  match o.obj role with
  | none => []
  | some a =>
    s.tilePlaces a (o.stageTiles x role a) ++ (if o.attends ∧ role = 1 then ((o.att.getD []).filterMap AttEntry.kv).map (fun k => s.placeAt (k.addr 0)) else [])

/-- Does a piece have an operand at hand without staging: in its die's tile store, as a resident plane (R290), or, of an APPLY, on its UU's own stack? -/
def State.atHand (s : State) (o : OpRec) (p : PieceRec) (role : Nat) : Bool :=
  match o.obj role with
  | none => true
  | some a =>
    let ts := o.stageTiles p.part role a
    let home := fun (b : Nat) => match region b with
      | .tile d _ => unitDie p.unit == some d
      | .hbm | .deep => o.d.cls == 8 && o.d.op == 0 && s.onStack (p.unit - 40) [groupOf b] && bit (s.tir (groupOf b)) 63
      | _ => false
    ts.all (fun t => let (i, r, c) := a.tileAt t; home (a.addr (a.tileOff i r c)) && home (a.addr (a.tileOff i r c + fmtStride a.fmt - 1))) ||
      o.mapSlots.contains role && (o.partPlanes p.part).all (fun k => unitDie p.unit == s.residentDie o role k && (unitDie p.unit).isSome)

/-- STAGING (R22, R149): an operand's copy in the tile store of the die that reads it, over the bundles of `path`: one in service from every other place where
the operand stands. The values stay those of the operand. -/
def execStaging (q sn idx role : Nat) (path : List Nat) (s : State) : Outcome :=
  match s.piece? q sn idx, s.opAny q sn with
  | some p, some o =>
    match unitDie p.unit, o.obj role with
    | some die, some a =>
      let from_ := (s.operandPlaces o p.part role).filterMap id
      let joined := fun (b : Nat) => b == die || path.any (fun u => s.unitIn u && (bundleJoins u 0 b die || bundleJoins u 1 b die))
      if (p.phase = .planned ∨ p.phase = .committed) ∧ (o.stageRoles p.part).contains role = true ∧ o.atWork p = true ∧ s.operandReady o p.part role a = true ∧
          path.all (fun u => decide (152 ≤ u) && decide (u < 184)) = true ∧ from_.all joined = true then
        .next ((path.foldl (fun s u => s.meetStrand (u - 152)) s).mapPiece q sn idx (fun p => { p with staged := p.staged.filter (· != role) ++ [role], lower := p.lower || from_.contains 4 }))
      else .next s
    | _, _ => .next s
  | _, _ => .next s

/-! ### Starting (R81) -/

/-- Has an op's NOTBEFORE come (R74, R101)? -/
def State.notBeforePast (s : State) (o : OpRec) : Bool := decide (s.notBefore o ≤ s.beat)

/-- Are the engines parked (R429, R584)? Links and slices go on. -/
def State.enginesIdle (s : State) (unit : Nat) : Bool := (s.parked || s.recovering 6 0) && (decide (unit < 56) || unit == 184)

/-- Does a running piece leave its unit free for piece `p`? A reader that waits for a replay leaves it for the replay's pieces (R394), a contribution
that is held waits at its slice (R383), and epilogues whose tile does not stand at the head of their queue leave the VXE to other work. -/
def State.yields (s : State) (x p : PieceRec) : Bool :=
  (match p.reader with
    | some b => x.q == b.1 && x.s == b.2.1 || x.reader == p.reader && decide (x.depth < p.depth)
    | none => false) ||
  match s.opAny x.q x.s with
  | some o => o.d.cls == 7 && o.d.op == 0 && s.seqs.any (fun z => z.has o && z.held.any (fun h => h.1 == o.d.ord)) ||
      o.shape.isSome && x.part.kind == 16 && !(s.tileQ.find? (fun t => t.vxe == x.unit - 16)).any (fun t => t.q == x.q && t.s == x.s &&
        decide (x.part.first ≤ t.work) && decide (t.work < x.part.first + x.part.n))
  | none => false

/-- Is the unit of a piece able to run it: in service, not parked, free in that direction (R81)? A slice's reductions need no UU. -/
def State.unitFree (s : State) (o : OpRec) (p : PieceRec) : Bool :=
  p.unit == 255 || ((s.unitIn p.unit || o.anyService p.part.kind && decide (p.unit < 56)) && !s.enginesIdle p.unit &&
    !s.pieces.any (fun x => x.unit == p.unit && x.dir == p.dir && x.phase == PiecePhase.running && !s.yields x p))

/-- Is a tile of the op's in a tile queue, or waiting for room in one? -/
def State.queued (s : State) (o : OpRec) (u : Nat) : Bool := (s.tileQ ++ s.stalled).any (fun t => t.q == o.q && t.s == o.s && t.work == u)

/-- The node tile of a work unit that this module formed. -/
def State.ownNode (s : State) (o : OpRec) (u : Nat) (node : Nat × Nat) : Option NodeTile :=
  s.nodes.find? (fun n => n.q == o.q && n.s == o.s && n.work == u && n.src == s.selfAddr && (n.lo, n.hi) == node)

/-- Has the step of iteration `i` of the planes of a ROOT part been reached: they are past it, or at their end? -/
def State.rootPast (s : State) (o : OpRec) (x : Part) (i : Nat) : Bool :=
  (List.range x.n).all (fun k => o.done.contains (x.first + k) ||
    s.roots.any (fun r => r.q == o.q && r.s == o.s && r.plane == x.first + k && decide (i < r.iter)))

/-- Have flits come of the message that brings a part of an XRECV, or of a node tile? -/
def State.came (s : State) (o : OpRec) (typ src : Nat) (t : Nat × Nat × Nat) : Bool :=
  s.inbox.any (fun f => f.typ == typ && f.src == src && ((tagOf f.tag).tdep, (tagOf f.tag).trow, (tagOf f.tag).tcol) == t &&
    (typ != 1 || (tagOf f.tag).pq == o.q && (tagOf f.tag).ps == o.s))

/-- Are the inputs that pieces of the op itself make ready for a piece: a tile for its epilogue, a node for its way or its message, the product before it, the
running MXE piece of its pairs, the partner's notice or flits? -/
def State.ownReady (s : State) (o : OpRec) (p : PieceRec) : Bool :=
  let x := p.part
  if p.reader.isSome then true
  else match o.shape with
    | some (sh, d) =>
      if x.kind = 16 then (List.range x.n).any (fun k => s.queued o (x.first + k)) || (List.range x.n).all (fun k => o.done.contains (x.first + k))
      else if x.isWay then (s.ownNode o x.first (x.lo, x.hi)).isSome
      else if x.kind = 56 then (if x.dir = 0 then (s.ownNode o x.first sh.own).isSome
        else
          let u := x.first % o.units
          o.done.contains u || s.queued o u || s.nodes.any (fun n => n.q == o.q && n.s == o.s && n.work == u && n.src == o.member (x.first / o.units)) ||
            s.came o 1 (o.member (x.first / o.units)) (o.tileOf d u))
      else true
    | none => match o.d.cls, o.d.op with
      | 3, 2 => true
      | 3, _ => x.kind == 0 || (s.trio p).any (fun y => y.part.kind == 0 && y.phase == .running)
      | 6, 0x41 => o.matched != 0
      | 6, 0x42 => o.done.contains x.first || s.came o 0 (o.member o.d.peer) (o.d.tilesCovered.getD x.first (0, 0, 0))
      | 8, 2 =>
        let q := rootProducts o.rootP
        if x.kind = 16 then (s.rootPast o x x.lo || (List.range x.n).all (fun k => o.done.contains (x.first + k)))
        else x.lo == 0 || (o.split.zipIdx).all (fun y => !(o.goesOn y.1 x || x.lo % q == 0 && o.feeds y.1 x) || (s.cutPiece o y.2).any (fun z => z.phase == .ended))
      | _, _ => true

/-- Could a committed piece start, were its unit free: its op at work, its inputs ready, its operands staged, the horizon and NOTBEFORE reached (R81, R149)? -/
def State.couldStart (s : State) (o : OpRec) (p : PieceRec) : Bool :=
  p.phase == .committed && o.atWork p && o.failing.isNone && s.withinHorizon p.planned && s.notBeforePast o && s.ownReady o p &&
    o.objs.all (fun y => o.writes y.1 && !(o.d.cls == 8) || s.operandReady o p.part y.1 y.2) &&
    (o.stageRoles p.part).all (fun k => p.staged.contains k || s.atHand o p k)

/-- Is a piece overtaken by none: no piece committed to its unit before it could start (R81)? -/
def State.firstInLine (s : State) (p : PieceRec) : Bool :=
  p.unit == 255 || p.reader.isSome ||
    ((s.pieces.takeWhile (fun y => !(y.q == p.q && y.s == p.s && y.idx == p.idx))).filter (fun y => y.unit == p.unit && y.dir == p.dir)).all (fun y =>
      match s.opAny y.q y.s with
      | some o => !s.couldStart o y
      | none => true)

/-- The class A input tiles of a part of an op that it has not read before, with the producer that each tag names (R395). -/
def State.noteReads (s : State) (o : OpRec) (x : Part) : OpRec :=
  let k := o.split.idxOf x
  let tiles := ((o.objs.filter (fun y => !o.writes y.1 && y.2.pclass == 1)).map (fun y => ((o.tilesRead x y.1 y.2).getD (List.range y.2.tiles)).map (fun t =>
    let (p, r, c) := y.2.tileAt t
    y.2.tileAddr p r c))).flatten
  let fresh := tiles.filter (fun a => !o.reads.any (fun e => e.1 == k && e.2.1 == a))
  { o with reads := o.reads ++ fresh.eraseDups.map (fun a => match s.tags.get (fun _ => none) a with
      | some t => (k, a, t.pq, t.ps)
      | none => (k, a, 1024, 0)) }

/-- The VXE whose tile queue a stem piece fills is one of its die, that of the op's pieces for the same tiles (R296); other pieces have theirs from the plan. -/
def State.vxeOk (s : State) (o : OpRec) (p : PieceRec) (vxe : Nat) : Bool :=
  p.part.kind != 36 || p.reader.isSome || (decide (vxe < 16) && vxe / 4 == p.unit - 36 && s.unitIn (16 + vxe) &&
    (List.range o.units).all (fun u => !partForms o p.part u none || s.pieces.all (fun y => !(y.q == o.q && y.s == o.s && y.idx != p.idx) ||
      (if y.part.kind = 36 then !(partForms o y.part u none && (y.phase == .running || y.phase == .ended)) || y.vxe == vxe
       else !(y.part.kind == 16 && decide (y.part.first ≤ u) && decide (u < y.part.first + y.part.n)) || y.unit == 16 + vxe))))

/-- What a starting piece reads before anything else: the index rows of a MATMUL_ROWS (R161), an ATTN op's table and directory entries (R246), an UPDATE op's
schedule row and receipt bits (R308, R312). Whether it could. -/
def State.readFirst (s : State) (o : OpRec) (p : PieceRec) : State × Bool :=
  match o.d.cls, o.d.op with
  | 1, 1 => if p.part.kind ≠ 0 then (s, true) else match readRows p (s.view p.unit o) s with
    | .ok (o2, s) => (s.putOp o2, true)
    | .error w => (s.workFails o p.unit w, false)
  | 3, 2 => (s, true)
  | 3, _ => if p.part.kind ≠ 0 then (s, true) else s.attBegin o.q o.s p.unit p.part.first p.part.n
  | 8, _ => match updateBegin (s.view p.unit o) s with
    | .ok o2 => (s.putOp o2, true)
    | .error w => (s.workFails o p.unit w, false)
  | _, _ => (s, true)

/-- What the reads of a starting piece meet (R404): the tiles of the operands that it reads, each role's slot with them. -/
def State.pieceReads (s : State) (o : OpRec) (p : PieceRec) : State :=
  let xs := ((o.objs.filter (fun y => !o.writes y.1)).map (fun y => ((o.tilesRead p.part y.1 y.2).getD (List.range y.2.tiles)).map (fun t =>
    let (i, r, c) := y.2.tileAt t
    (y.2.runs (y.2.tileOff i r c) (fmtStride y.2.fmt) (fmtStride y.2.fmt / 2 ^ 12 + 2)).map (fun e => (min y.1 3, e.1, e.2))))).flatten.flatten
  s.meetReads (some (o.q, o.s, o.ctx)) xs

/-- The piece runs from this beat on, on a bundle with what its flits meet (R546): its engine is BUSY (a stem engine with the shape of its lanes, Table 9.8) and its op's work has begun (R60). -/
def State.runPiece (s : State) (o : OpRec) (p : PieceRec) (vxe : Nat) : State :=
  let s := s.mapOp o.q o.s (fun o => { o with reads := (s.noteReads o p.part).reads })
  let s := (s.mapPiece o.q o.s p.idx (fun p => { p with phase := .running, startB := s.beat, vxe := if p.part.kind = 36 ∧ p.reader.isNone = true then vxe else p.vxe })).beginOp o.q o.s
  let s := s.cond (decide (152 ≤ p.unit) && decide (p.unit < 184)) (fun s => s.meetStrand (p.unit - 152))
  let s := s.cond (p.part.kind == 36) (fun s => s.putBit (Reg.stmStat (p.unit - 36)) 4 (match o.obj 3 with
    | some d => decide (16 < d.cols)
    | none => false))
  s.cond (decide (p.unit < 56) || p.unit == 184) (fun s => s.putBit (unitStat p.unit) 0 true)

/-- PIECE_START (R81): `errs` are the units that the piece's reads find wrong, `vxe` the VXE of a stem engine's tiles. -/
def execPieceStart (q sn idx : Nat) (errs : List (Nat × Nat)) (vxe : Nat) (s : State) : Outcome :=
  match s.piece? q sn idx, s.opAny q sn with
  | some p, some o =>
    if s.rebaseNow || !s.couldStart o p || !s.unitFree o p || !s.firstInLine p || !s.vxeOk o p vxe then .next s
    else
      match (if o.d.cls = 7 ∧ o.d.op = 0 then s.seqJoin o else some s) with
      | none => .next s
      | some s =>
        let s := (s.unitErrors (some (q, sn, o.ctx)) errs).pieceReads o p
        if (s.piece? q sn idx).isNone then .next s
        else match s.readFirst o p with
          | (s, false) => .next s
          | (s, true) => .next (s.runPiece o p vxe)
  | _, _ => .next s

/-! ### Ending a piece (R92 to R94) -/

/-- Has a piece performed its part? A replay performs each unit again; a port's piece of a cascade op ends with its messages. -/
def State.pieceDid? (s : State) (o : OpRec) (p : PieceRec) : Bool :=
  let x := p.part
  let gone := fun u => p.did.contains u || p.reader.isNone && o.done.contains u
  let all := (List.range x.n).all (fun k => gone (x.first + k))
  let free := !s.stalled.any (fun t => t.q == o.q && t.s == o.s && t.piece == p.idx)
  match o.shape with
  | some (sh, d) =>
    if x.kind = 0 then free && x.runs.all (fun k => decide (k.stop - k.start ≤ p.pos.get (fun _ => 0) k.quad))
    else if x.kind = 36 then free && (p.stemNext sh.per).isNone
    else if x.kind = 16 then all
    else if x.kind = 56 ∧ x.dir = 1 then
      let u := x.first % o.units
      o.done.contains u || s.queued o u || s.nodes.any (fun n => n.q == o.q && n.s == o.s && n.work == u && n.src == o.member (x.first / o.units)) ||
        decide (x.hi < msgBlocks (nodeTileBytes sh.acc)) && s.came o 1 (o.member (x.first / o.units)) (o.tileOf d u)
    else true
  | none => match o.d.cls, o.d.op with
    | 3, 2 => all
    | 3, _ => p.cutDone || (p.attNext o).isNone
    | 6, 0x41 => p.did != []
    | 6, 0x42 => o.done.contains x.first || decide (x.hi < msgBlocks o.tileBytes)
    | 8, 2 => if x.kind = 0 then all else s.rootPast o x x.lo || (List.range x.n).all (fun k => o.done.contains (x.first + k))
    | 9, _ => o.done.contains x.first || o.split.any (fun y => y.first == x.first && decide (x.lo < y.lo))
    | _, _ => o.d.cascade || all

/-- Does a piece of a failing op wait for what will not come: its op starts no other piece, and none that runs makes it (R622)? -/
def State.stranded (s : State) (o : OpRec) (p : PieceRec) : Bool :=
  !(s.reader o).waits.isEmpty || p.part.kind == 16 && !(List.range p.part.n).any (fun k => s.queued o (p.part.first + k)) &&
    !s.pieces.any (fun y => y.q == o.q && y.s == o.s && y.phase == .running && o.feeds y.part p.part) || o.d.cascade

/-- May a running piece end: its part done or, when its op fails, given up? -/
def State.pieceDone (s : State) (o : OpRec) (p : PieceRec) : Bool := s.pieceDid? o p || o.failing.isSome && (p.failed || s.stranded o p)

/-- The counter of BEAT_SLIPTAB that a rise of an offset raises (R93): 0 TIERLATE, 1 INHERITED, 2 CLKSTEP, 3 OVERRUN. -/
def State.slipCause (s : State) (p : PieceRec) (waitTier waitData : Bool) : Nat :=
  if waitTier && p.lower then 0 else if waitData then 1 else if s.fld Reg.beatCyc 15 0 < p.cyc then 2 else 3

/-- Count a rise by its cause. -/
def State.countSlip (s : State) (u cause n : Nat) : State :=
  match cause with
  | 0 => s.bump (Reg.sliptab1 u) 63 32 n
  | 1 => s.bump (Reg.sliptab0 u) 31 0 n
  | 2 => s.bump (Reg.sliptab1 u) 31 16 n
  | _ => s.bump (Reg.sliptab0 u) 63 32 n

/-- The unit's offset takes the lateness of the piece that ended (R92, R93, R96). -/
def State.slip (s : State) (p : PieceRec) (cause late : Nat) : State :=
  let k := 2 * p.unit + p.dir
  let old := s.offset k
  let s := s.cond (decide (old < late)) (fun s => s.countSlip p.unit cause (late - old))
  let s := s.setOffset k late
  if s.fld Reg.beatSliplim 15 0 < late then { s with rebaseDue := true } else s

/-- The busy-cycle counter of an engine. -/
def busyReg (u : Nat) : Option Nat :=
  if u < 16 then some (Reg.mxeBusycyc u)
  else if u < 32 then some (Reg.vxeBusycyc (u - 16))
  else if u < 36 then some (Reg.asqBusycyc (u - 32))
  else if u < 40 then some (Reg.stmBusycyc (u - 36))
  else if u = 184 then some Reg.itkBusycyc
  else none

/-- A node tile's way ends: it stands in the accumulator store of the part that holds slice 0, counts in NODEXFER there, and is combined when the others have
come (R195, R196, Table 6.5). -/
def State.endWay (s : State) (o : OpRec) (x : Part) : State :=
  match o.shape with
  | none => s
  | some (sh, d) =>
    match ((o.nodesOf sh d o.split x.first).find? (fun nd => nd.1 == sh.own.1)).bind (s.homeOf o x.first), s.ownNode o x.first (x.lo, x.hi) with
    | some h, some n =>
      let s := { s with nodes := s.nodes.map (fun (y : NodeTile) => if y = n then { y with unit := h } else y) }
      (s.cond (decide (h < 16)) (fun s => s.bump (Reg.mxeAccstat h) 15 0 1)).combine o sh d x.first
    | _, _ => s

/-- A port's piece of a mirrored op sends its blocks of a node tile to rank 0; with the last of them the node tile has left (R364). -/
def State.endNodeSend (s : State) (o : OpRec) (p : PieceRec) : State :=
  match o.shape with
  | none => s
  | some (sh, _) =>
    match s.ownNode o p.part.first sh.own with
    | none => s
    | some n =>
      let blocks := blocksOf s.selfAddr (o.member 0) n.tag o.nodeHead 0 n.data (msgBlocks n.data.length)
      let s := s.sendOn (p.unit - 56) 1 ((blocks.drop p.part.lo).take (p.part.hi - p.part.lo))
      if p.part.hi < msgBlocks n.data.length then s
      else
        let s := s.mapOp o.q o.s (fun o => o.didUnit n.work)
        { s with nodes := s.nodes.filter (fun y => y != n), sentOut := s.sentOut ++ [(⟨o.q, o.s, 1, o.member 0, msgName n.tag⟩ : SentMsg)] }

/-- What the end of a piece does for its op beside its counts. -/
def State.endPart (s : State) (o : OpRec) (p : PieceRec) : State :=
  if o.shape.isNone || !s.pieceDid? o p then s
  else if p.part.isWay then s.endWay o p.part
  else if p.part.kind = 56 ∧ p.part.dir = 0 then s.endNodeSend o p
  else s

/-- PIECE_END (R92): `cyc` is what the piece adds to its engine's busy cycles; `waitTier`, `waitData` say that it waited past its planned start for data
of a lower tier, or for data that a piece of another unit writes. -/
def execPieceEnd (q sn idx cyc : Nat) (waitTier waitData : Bool) (s : State) : Outcome :=
  match s.piece? q sn idx, s.opAny q sn with
  | some p, some o =>
    if p.phase ≠ .running ∨ s.rebaseNow = true ∨ s.noProgress p = true ∨ s.pieceDone o p = false then .next s
    else
      let late := s.beat - p.planned
      let cause := s.slipCause p waitTier waitData
      let rose := decide (s.offset (2 * p.unit + p.dir) < late) && p.unit != 255
      let s := s.endPart o p
      let s := if p.unit = 255 then s else s.slip p cause late
      let s := s.mapOp q sn (fun o => { o with slips := max o.slips (s.beat - p.atCommit), late := o.late || (rose && cause == 0) })
      let s := match busyReg p.unit with
        | some r => s.bump r 63 0 cyc
        | none => s
      let add := match s.piece? q sn idx with
        | some p => p.hist
        | none => []
      let s := s.mapPiece q sn idx (fun p => { p with phase := .ended, hist := [] })
      let s := s.addHist q sn add
      let idle := !s.pieces.any (fun x => x.unit == p.unit && x.phase == PiecePhase.running)
      let s := s.cond (idle && (decide (p.unit < 56) || p.unit == 184)) (fun s => s.putBit (unitStat p.unit) 0 false)
      .next s.settle
  | _, _ => .next s

end Sys2Proof.Machine
end

