-- ==== Sys2Proof/Machine/Faults.lean ====
section
/-! DEFINITION. Errors that detectors meet (R171, R172, R202, R238, R275, R298, R330, R489, R590, R591), watchdogs, lost partners, the fault queue's
registers, and the arming of the injections of chapters 05 to 10, 15 and 19. -/

namespace Sys2Proof.Machine

/-! ### Errors of an engine -/

/-- A unit's own rule for an error of it. -/
def State.ownRule (s : State) (u : Nat) : State :=
  if u < 16 then s.engineStop u
  else if u < 32 then s.pairStop (u - 16)
  else if u < 56 then s.engineStop u
  else s.intakeStop

/-- COLUMN_ERROR (R172): `col` is the physical column of the quad. -/
def execColumnError (mxe quad col : Nat) (s : State) : Outcome :=
  if mxe < 16 ∧ quad < 4 ∧ col < 130 ∧ s.unitIn mxe = true then
    let (inj, s) := s.takeInj (Reg.mxeInj mxe) 1 (quad * 256 + col)
    .next (s.columnError mxe quad col inj)
  else .next s

/-- PASS_ERROR (R172, Table 5.8): `det` is the detector's injection kind: 2 weight register parity, 3 A-stream parity, 4 turn loader parity. -/
def execPassError (mxe quad det : Nat) (s : State) : Outcome :=
  if mxe < 16 ∧ quad < 4 ∧ 2 ≤ det ∧ det ≤ 4 ∧ s.unitIn mxe = true then
    let (inj, s) := s.takeInj (Reg.mxeInj mxe) det quad
    .next (s.passError mxe quad det inj)
  else .next s

/-- ACCUMULATOR_ECC (R202): one bit is corrected and counted, two bits are a pass error. -/
def execAccumulatorEcc (mxe quad : Nat) (two : Bool) (s : State) : Outcome :=
  if mxe < 16 ∧ quad < 4 ∧ s.unitIn mxe = true then
    let (inj, s) := s.takeInj (Reg.mxeAccinj mxe) (if two then 2 else 1) quad
    .next (s.slotError mxe quad two inj)
  else .next s

/-- The node tiles of an op that a unit holds, or that its running pieces carry. -/
def State.nodesOn (s : State) (o : OpRec) (unit : Nat) : List NodeTile :=
  s.nodes.filter (fun n => n.q == o.q && n.s == o.s && n.src == s.selfAddr && (n.unit == unit || s.pieces.any (fun p => p.q == o.q && p.s == o.s &&
    p.unit == unit && p.phase == .running && p.part.kind != 0 && p.part.kind != 36 && partForms o p.part n.work (some (n.lo, n.hi)))))

/-- NODE_TILE_LOST (R197): the node tiles that a unit or link loses are computed again, by the pieces that formed them, or where those units fail by the
ones to which they are re-placed; the record names the unit or link. -/
def execNodeTileLost (q sn unit : Nat) (s : State) : Outcome :=
  match s.op? q sn with
  | none => .next s
  | some o =>
    let ns := s.nodesOn o unit
    if o.phase = .started ∧ ns ≠ [] then
      let c := if 56 ≤ unit ∧ unit < 184 then 3 else 1
      let s := s.event c 0 { cls := c, sev := 0, rtype := 3, det := 0, unit := unit, op := some (q, sn, o.ctx) }
      let s := s.mapOp q sn (fun o => { o with replayB := true })
      let s := { s with nodes := s.nodes.filter (fun n => !ns.contains n) }
      .next (s.rehomeOp 1024 (ns.filterMap (NodeTile.lost s.selfAddr)) o)
    else .next s

/-- PAIR_ERROR (R237, R238): `det` is the detector's injection kind: 1 tile queue ECC, one bit, corrected; 2 two bits; 3 lane parity; 4 permute network
parity. -/
def execPairError (vxe det : Nat) (s : State) : Outcome :=
  if vxe < 16 ∧ 1 ≤ det ∧ det ≤ 4 ∧ s.unitIn (16 + vxe) = true then
    let (inj, s) := s.takeInj (Reg.vxeInj vxe) det 0
    .next (s.pairError vxe det inj)
  else .next s

/-- ASQ_ERROR (R274, R275): `det` is the detector's injection kind: 3 exponent unit parity, 4 gather parity. -/
def execAsqError (die det : Nat) (s : State) : Outcome :=
  if die < 4 ∧ (det = 3 ∨ det = 4) ∧ s.unitIn (32 + die) = true then
    let (inj, s) := s.takeInj (Reg.asqInj die) det 0
    .next (s.asqError die det inj)
  else .next s

/-- STEM_ERROR (R297, R298): `det` is the detector's injection kind, 1 to 3. -/
def execStemError (die det : Nat) (s : State) : Outcome :=
  if die < 4 ∧ 1 ≤ det ∧ det ≤ 3 ∧ s.unitIn (36 + die) = true then
    let (inj, s) := s.takeInj (Reg.stmInj die) det 0
    .next (s.stemError die det inj)
  else .next s

/-- UU_ERROR (R328, R330): `det` is the detector's injection kind, 1 to 3. -/
def execUuError (n det : Nat) (s : State) : Outcome :=
  if n < 16 ∧ 1 ≤ det ∧ det ≤ 3 ∧ s.unitIn (40 + n) = true then
    let (inj, s) := s.takeInj (Reg.uuInj n) det 0
    .next (s.uuError n det inj)
  else .next s

/-- INTAKE_ERROR (R489, Table 15.12): `det` is the detector's injection kind: 1 Huffman parity, 2 transform residue, 3 ECC, one bit, corrected; 4 two
bits. -/
def execIntakeError (det : Nat) (s : State) : Outcome :=
  if 1 ≤ det ∧ det ≤ 4 ∧ s.unitIn 184 = true then
    let (inj, s) := s.takeInj Reg.itkInj det 0
    .next (s.intakeFault det inj)
  else .next s

/-! ### Watchdogs (R591, R592) -/

/-- UNIT_WATCHDOG (R591): a running piece of a scheduled unit other than a link has made no progress for 1,000 µs. -/
def execUnitWatchdog (unit : Nat) (s : State) : Outcome :=
  if (unit < 56 ∨ unit = 184) ∧ s.unitIn unit = true ∧ s.pieces.any (fun p => p.unit == unit && p.phase == PiecePhase.running) = true then
    let (inj, s) := s.takeInj Reg.fltInj 1 unit
    .next ((s.engineFault unit 0x1C inj 0).ownRule unit)
  else .next s

/-- CORE_WATCHDOG (R592): a rigging core has not kicked its watchdog within 10 ms; it is held in reset, and a module recovery begins. -/
def execCoreWatchdog (core : Nat) (s : State) : Outcome :=
  if core < 8 ∧ s.rigOut.get (fun _ => false) core = false then
    let (inj, s) := s.takeInj Reg.fltInj 9 core
    .next (s.coreExpires core inj)
  else .next s

/-! ### The tile stores (R590) -/

/-- TILE_STORE_ECC (R590): a read of a bank meets one wrong bit, or two. `case` 1: a copy that the Rigger staged, staged again; 2: a class A tile; else op
(`q`, `sn`) ends DATA_ERR with `slot`. -/
def execTileStoreEcc (addr : Nat) (two : Bool) (case q sn slot : Nat) (s : State) : Outcome :=
  match region addr with
  | .tile d b =>
    if s.populated addr then
      let (inj, s) := s.takeInj Reg.fltInj (if two then 3 else 2) (56 * d + b)
      .next (s.bankError addr two inj case ((s.op? q sn).map (fun o => (o.q, o.s, o.ctx))) slot)
    else .next s
  | _ => .next s

/-! ### A lost partner (R586, R355) -/

/-- End the cascade ops, and the mirrored ones with work, that must exchange with a module. -/
def State.partnerOps (s : State) (addr port : Nat) : List OpRec → State
  | [] => s
  | o :: os =>
    let s := if (o.d.cascade || o.mirrored && !o.noWork) && o.phase != .ended && o.rc 5 != [] && o.partners.contains addr then s.failOp o.q o.s stLinkLost port else s
    s.partnerOps addr port os

/-- PARTNER_LOST (R586): `port` is the lowest port to the partner. -/
def execPartnerLost (addr port : Nat) (s : State) : Outcome :=
  if addr < 4096 ∧ port < 96 then
    let s := s.detect { cls := 3, sev := 2, rtype := 0, det := 0x37, dom := 3, inst := 32 + port, info := addr }
    .next (s.partnerOps addr port s.ops)
  else .next s

/-! ### The fault queue (R575, R576, R580, R596) -/

/-- FLT_QHEAD (R575). -/
def execFltQhead (ag : Agent) (h : BitVec 32) (s : State) : Outcome :=
  if Who.barRigCore.admits ag then
    let head := s.fld Reg.fltQhead 31 0
    if (h.toNat + 2 ^ 32 - head) % 2 ^ 32 ≤ (s.fld Reg.fltQtail 31 0 + 2 ^ 32 - head) % 2 ^ 32 then
      let s := s.put Reg.fltQhead 31 0 h.toNat
      .next (s.putBit Reg.fltStat 1 s.queueFull)
    else .next (s.putBit Reg.fltStat 3 true)
  else .next s

/-- OVF_CLEAR (R576). -/
def execOvfClear (ag : Agent) (s : State) : Outcome :=
  if Who.barRigCore.admits ag then .next (((s.putBit Reg.fltStat 0 false).put Reg.fltStat 31 28 0).put Reg.fltStat 63 32 0) else .next s

/-- WINDOW_CLOSE (R580): the hold after the instance's recovery has passed. -/
def execWindowClose (dom inst : Nat) (s : State) : Outcome :=
  match s.window dom inst with
  | some w =>
    if w.busy = false ∧ w.into = 0 ∧ w.ends ≤ s.ns then .next (s.setWindows (s.windows.filter (fun v => !(v.dom == dom && v.inst == inst))))
    else .next s
  | none => .next s

/-! ### MXE_COLMAP and injections (R176, R178, R203, R239, R276, R298, R331, R489, R595) -/

/-- Would a column map have two enabled slots of one quad that name the same column? -/
def colmapClash (v : Word) : Bool :=
  (List.range 4).any (fun q => bit v (16 * q + 7) && bit v (16 * q + 15) && bits v (16 * q + 6) (16 * q) == bits v (16 * q + 14) (16 * q + 8))

/-- MXE_COLMAP (R176). -/
def execMxeColmap (ag : Agent) (n : Nat) (v : Word) (s : State) : Outcome :=
  if isRig ag && decide (n < 16) then
    if s.unitIn n || colmapClash v then .next (s.putBit (Reg.mxeStat n) 3 true) else .next (s.wr (Reg.mxeColmap n) v)
  else .next s

/-- Arm an injection in a register that accepts writes from the rigging cores alone. -/
def State.armRig (s : State) (ag : Agent) (ok : Bool) (reg kind target : Nat) : State := if isRig ag && ok then s.arm reg kind target else s

/-- MXE_INJ KIND 1. A COL of 130 to 255, which R178 does not give, is armed and meets no column (DESIGN CHOICE, log entry 155). -/
def execMxeInjColumnResidue (ag : Agent) (n quad col : Nat) (s : State) : Outcome :=
  .next (s.armRig ag (decide (n < 16)) (Reg.mxeInj n) 1 (quad * 256 + col))

/-- MXE_INJ KIND 2. -/
def execMxeInjWeightRegisterParity (ag : Agent) (n quad : Nat) (s : State) : Outcome := .next (s.armRig ag (decide (n < 16)) (Reg.mxeInj n) 2 quad)

/-- MXE_INJ KIND 3. -/
def execMxeInjAStreamParity (ag : Agent) (n quad : Nat) (s : State) : Outcome := .next (s.armRig ag (decide (n < 16)) (Reg.mxeInj n) 3 quad)

/-- MXE_INJ KIND 4. -/
def execMxeInjTurnLoaderParity (ag : Agent) (n quad : Nat) (s : State) : Outcome := .next (s.armRig ag (decide (n < 16)) (Reg.mxeInj n) 4 quad)

/-- MXE_ACCINJ KIND 1. -/
def execMxeAccinjOneBit (ag : Agent) (n quad : Nat) (s : State) : Outcome := .next (s.armRig ag (decide (n < 16)) (Reg.mxeAccinj n) 1 quad)

/-- MXE_ACCINJ KIND 2. -/
def execMxeAccinjTwoBits (ag : Agent) (n quad : Nat) (s : State) : Outcome := .next (s.armRig ag (decide (n < 16)) (Reg.mxeAccinj n) 2 quad)

/-- VXE_INJ KIND 1. -/
def execVxeInjTqEccOneBit (ag : Agent) (n : Nat) (s : State) : Outcome := .next (s.armRig ag (decide (n < 16)) (Reg.vxeInj n) 1 0)

/-- VXE_INJ KIND 2. -/
def execVxeInjTqEccTwoBits (ag : Agent) (n : Nat) (s : State) : Outcome := .next (s.armRig ag (decide (n < 16)) (Reg.vxeInj n) 2 0)

/-- VXE_INJ KIND 3. -/
def execVxeInjLaneParity (ag : Agent) (n : Nat) (s : State) : Outcome := .next (s.armRig ag (decide (n < 16)) (Reg.vxeInj n) 3 0)

/-- VXE_INJ KIND 4. -/
def execVxeInjPermuteParity (ag : Agent) (n : Nat) (s : State) : Outcome := .next (s.armRig ag (decide (n < 16)) (Reg.vxeInj n) 4 0)

/-- ASQ_INJ KIND 1. -/
def execAsqInjDirEccOneBit (ag : Agent) (n : Nat) (s : State) : Outcome := .next (s.armRig ag (decide (n < 4)) (Reg.asqInj n) 1 0)

/-- ASQ_INJ KIND 2. -/
def execAsqInjDirEccTwoBits (ag : Agent) (n : Nat) (s : State) : Outcome := .next (s.armRig ag (decide (n < 4)) (Reg.asqInj n) 2 0)

/-- ASQ_INJ KIND 3. -/
def execAsqInjExponentParity (ag : Agent) (n : Nat) (s : State) : Outcome := .next (s.armRig ag (decide (n < 4)) (Reg.asqInj n) 3 0)

/-- ASQ_INJ KIND 4. -/
def execAsqInjGatherParity (ag : Agent) (n : Nat) (s : State) : Outcome := .next (s.armRig ag (decide (n < 4)) (Reg.asqInj n) 4 0)

/-- STM_INJ KIND 1. -/
def execStmInjLaneResidue (ag : Agent) (n : Nat) (s : State) : Outcome := .next (s.armRig ag (decide (n < 4)) (Reg.stmInj n) 1 0)

/-- STM_INJ KIND 2. -/
def execStmInjTermParity (ag : Agent) (n : Nat) (s : State) : Outcome := .next (s.armRig ag (decide (n < 4)) (Reg.stmInj n) 2 0)

/-- STM_INJ KIND 3. -/
def execStmInjGatherParity (ag : Agent) (n : Nat) (s : State) : Outcome := .next (s.armRig ag (decide (n < 4)) (Reg.stmInj n) 3 0)

/-- UU_INJ KIND 1. -/
def execUuInjDatapathResidue (ag : Agent) (n : Nat) (s : State) : Outcome := .next (s.armRig ag (decide (n < 16)) (Reg.uuInj n) 1 0)

/-- UU_INJ KIND 2. -/
def execUuInjRecordParity (ag : Agent) (n : Nat) (s : State) : Outcome := .next (s.armRig ag (decide (n < 16)) (Reg.uuInj n) 2 0)

/-- UU_INJ KIND 3. -/
def execUuInjEncoderParity (ag : Agent) (n : Nat) (s : State) : Outcome := .next (s.armRig ag (decide (n < 16)) (Reg.uuInj n) 3 0)

/-- ITK_INJ KIND 1. -/
def execItkInjHuffmanParity (ag : Agent) (s : State) : Outcome := .next (s.armRig ag true Reg.itkInj 1 0)

/-- ITK_INJ KIND 2. -/
def execItkInjTransformResidue (ag : Agent) (s : State) : Outcome := .next (s.armRig ag true Reg.itkInj 2 0)

/-- ITK_INJ KIND 3. -/
def execItkInjEccOneBit (ag : Agent) (s : State) : Outcome := .next (s.armRig ag true Reg.itkInj 3 0)

/-- ITK_INJ KIND 4. -/
def execItkInjEccTwoBits (ag : Agent) (s : State) : Outcome := .next (s.armRig ag true Reg.itkInj 4 0)

/-- FLT_INJ KIND 1. -/
def execFltInjUnitWatchdog (ag : Agent) (target : Nat) (s : State) : Outcome := .next (s.armRig ag true Reg.fltInj 1 target)

/-- FLT_INJ KIND 2. -/
def execFltInjTileStoreOneBit (ag : Agent) (target : Nat) (s : State) : Outcome := .next (s.armRig ag true Reg.fltInj 2 target)

/-- FLT_INJ KIND 3. -/
def execFltInjTileStoreTwoBits (ag : Agent) (target : Nat) (s : State) : Outcome := .next (s.armRig ag true Reg.fltInj 3 target)

/-- FLT_INJ KIND 4. -/
def execFltInjTcrc (ag : Agent) (target : Nat) (s : State) : Outcome := .next (s.armRig ag true Reg.fltInj 4 target)

/-- FLT_INJ KIND 5. -/
def execFltInjRfmAlarm (ag : Agent) (target : Nat) (s : State) : Outcome := .next (s.armRig ag true Reg.fltInj 5 target)

/-- FLT_INJ KIND 6. -/
def execFltInjLaneLockLoss (ag : Agent) (target : Nat) (s : State) : Outcome := .next (s.armRig ag true Reg.fltInj 6 target)

/-- FLT_INJ KIND 7. -/
def execFltInjHostUr (ag : Agent) (target : Nat) (s : State) : Outcome := .next (s.armRig ag true Reg.fltInj 7 target)

/-- FLT_INJ KIND 8. -/
def execFltInjOffset (ag : Agent) (target : Nat) (s : State) : Outcome := .next (s.armRig ag true Reg.fltInj 8 target)

/-- FLT_INJ KIND 9. -/
def execFltInjCoreWatchdog (ag : Agent) (target : Nat) (s : State) : Outcome := .next (s.armRig ag true Reg.fltInj 9 target)

/-- FLT_INJ KIND 10. -/
def execFltInjQueueTwoBits (ag : Agent) (target : Nat) (s : State) : Outcome := .next (s.armRig ag true Reg.fltInj 10 target)

/-- FLT_INJ KIND 11. -/
def execFltInjFuse (ag : Agent) (target : Nat) (s : State) : Outcome := .next (s.armRig ag true Reg.fltInj 11 target)

/-- INJECTION_EXPIRY (R178): injections armed for 65,536 beats expire unrecorded; KIND 11 of FLT_INJ waits for the next fuse sense (R595). -/
def execInjectionExpiry (s : State) : Outcome :=
  .next { s with armed := s.armed.filter (fun (a : Armed) => decide (s.beat < a.beat + 65536) || (a.reg == Reg.fltInj && a.kind == 11)) }

end Sys2Proof.Machine
end

