-- ==== Sys2Proof/Machine/Mailbox.lean ====
section
/-! DEFINITION. The Rigger mailboxes (R106 to R109). -/

namespace Sys2Proof.Machine

/-- RESULT codes. -/
def mbDone : Nat := 0
def mbBadCmd : Nat := 1
def mbBadArg : Nat := 2
def mbNoContext : Nat := 3
def mbRefused : Nat := 4

/-- An argument of a mailbox. -/
def State.mbArg (s : State) (m i hi lo : Nat) : Nat := s.fld (Reg.mbxArg m i) hi lo

/-- A write to RIG_MBXCMD (R107, R432): ignored while BUSY, else the command is performed and its answer made ready. `f` gives the state, RESULT and
VALUE. -/
def State.mailCmd (s : State) (ag : Agent) (m : Nat) (seq : BitVec 16) (f : State → State × Nat × Nat) : State :=
  if ag = .move ∨ 2 ≤ m ∨ (m = 1 ∧ s.fld Reg.cdstat 1 0 ≠ 0) then s
  else if s.flag (Reg.mbxStat m) 0 then s.putBit (Reg.mbxStat m) 1 true
  else
    let (s, r, v) := f (s.putBit (Reg.mbxStat m) 0 true)
    { s with mailbox := s.mailbox ++ [⟨m, seq.toNat, r, v⟩] }

/-- GET_INFO (R108). -/
def execGetInfo (ag : Agent) (m : Nat) (seq : BitVec 16) (s : State) : Outcome :=
  .next (s.mailCmd ag m seq (fun s => (s, mbDone, Config.firmwareVersion.toNat)))

/-- A context is bound to a queue with BUSY = 1. -/
def State.ctxBusy (s : State) (ctx : Nat) : Bool := s.ops.any (fun o => o.phase != .ended && s.qctx o.q == ctx)

/-- SET_PIPELINE (R88). R108 gives no order to its errors: here BAD_ARG comes before NO_CONTEXT before REFUSED (DESIGN CHOICE, log entry 152). -/
def execSetPipeline (ag : Agent) (m : Nat) (seq : BitVec 16) (s : State) : Outcome :=
  .next (s.mailCmd ag m seq (fun s =>
    let ctx := s.mbArg m 0 63 0
    let p : Pipe := ⟨s.mbArg m 1 63 48, s.mbArg m 1 47 32, s.mbArg m 1 31 0, s.mbArg m 2 15 0⟩
    if p.stages = 0 ∨ 4096 < p.stages ∨ p.stages ≤ p.stage ∨ p.micro = 0 ∨ 2048 < p.micro ∨ 1 < p.mode then (s, mbBadArg, 0)
    else if 4095 < ctx then (s, mbNoContext, 0)
    else if s.ctxBusy ctx then (s, mbRefused, 0)
    else ({ s with pipes := s.pipes.set (fun _ => defaultPipe) ctx p }, mbDone, 0)))

/-- GET_PIPELINE (R108): r, and the setting in ARG1 and ARG2. -/
def execGetPipeline (ag : Agent) (m : Nat) (seq : BitVec 16) (s : State) : Outcome :=
  .next (s.mailCmd ag m seq (fun s =>
    let ctx := s.mbArg m 0 63 0
    if 4095 < ctx then (s, mbNoContext, 0)
    else
      let p := s.pipe ctx
      let r := s.lowestMb ctx p.micro 0
      ((s.wr (Reg.mbxArg m 1) (word [(48, p.stages), (32, p.stage), (0, p.micro)])).wr (Reg.mbxArg m 2) (word [(0, p.mode)]), mbDone, r)))

/-- SET_SLIPLIM (R108): an offset that exceeds the new limit makes a re-base due (R96). -/
def execSetSliplim (ag : Agent) (m : Nat) (seq : BitVec 16) (s : State) : Outcome :=
  .next (s.mailCmd ag m seq (fun s =>
    let v := s.mbArg m 0 63 0
    if 1 ≤ v ∧ v ≤ 65535 then
      ({ (s.put Reg.beatSliplim 15 0 v) with rebaseDue := s.rebaseDue || decide (v < s.largestOffset) }, mbDone, 0)
    else (s, mbBadArg, 0)))

/-- SET_MARGIN (R108). -/
def execSetMargin (ag : Agent) (m : Nat) (seq : BitVec 16) (s : State) : Outcome :=
  .next (s.mailCmd ag m seq (fun s =>
    let v := s.mbArg m 0 63 0
    if v ≤ 500 then ({ s with marginNext := some v }, mbDone, 0) else (s, mbBadArg, 0)))

/-- Insert a piece in the order of plan records: unit, then planned beat. -/
def insertPiece (p : PieceRec) : List PieceRec → List PieceRec
  | [] => [p]
  | x :: xs => if p.unit < x.unit ∨ (p.unit = x.unit ∧ p.planned < x.planned) then p :: x :: xs else x :: insertPiece p xs

/-- A plan record (Table 3.11). -/
def planRecord (p : PieceRec) : List Word :=
  [word [(56, p.unit), (16, p.planned % 2 ^ 40), (15, p.dir)], word [(54, p.q), (22, p.s), (0, p.idx % 2 ^ 22)]]

/-- READ_PLAN (R108): the committed pieces of a context that have not ended. What R108 leaves open is the model's choice (DESIGN CHOICE, log entry 153): running
pieces are among them, a buffer that they exceed takes the first ARG2 ÷ 16 records and the command counts those, and a size above 16 MiB is BAD_ARG. -/
def execReadPlan (ag : Agent) (m : Nat) (seq : BitVec 16) (s : State) : Outcome :=
  .next (s.mailCmd ag m seq (fun s =>
    let ctx := s.mbArg m 0 63 0
    let a := s.mbArg m 1 63 0
    let n := s.mbArg m 2 63 0
    if 4095 < ctx then (s, mbNoContext, 0)
    else if a % 16 ≠ 0 ∨ 2 ^ 24 < n ∨ inMemRegions a (max 1 n) = false then (s, mbBadArg, 0)
    else
      let mine := s.pieces.filter (fun p => (p.phase == PiecePhase.committed || p.phase == PiecePhase.running) && match s.opAny p.q p.s with
        | some o => o.ctx == ctx
        | none => false)
      let ps := (mine.foldl (fun l p => insertPiece p l) []).take (n / 16)
      match s.writeMem (.plain 0) a (wordBytes (ps.map planRecord).flatten) with
      | .ok s => (s, mbDone, ps.length)
      | .error f => (s.failRecord f a none, mbBadArg, 0)))

/-- CLEAR_COUNTERS (R98, R104). -/
def execClearCounters (ag : Agent) (m : Nat) (seq : BitVec 16) (s : State) : Outcome :=
  .next (s.mailCmd ag m seq (fun s =>
    ((s.each 185 (fun s u => (s.wr (Reg.sliptab0 u) 0).put (Reg.sliptab1 u) 63 16 0)).wr Reg.hintMiss 0, mbDone, 0)))

/-- REBASE (R98, R108): R96 even if no offset exceeds the limit. -/
def execRebase (ag : Agent) (m : Nat) (seq : BitVec 16) (s : State) : Outcome :=
  .next (s.mailCmd ag m seq (fun s => (s.rebaseBy s.largestOffset, mbDone, s.largestOffset)))

/-- A code that Table 3.10 does not define. -/
def State.badMail (s : State) (ag : Agent) (m : Nat) (seq : BitVec 16) : State := s.mailCmd ag m seq (fun s => (s, mbBadCmd, 0))

/-- MAILBOX_RESPONSE (R107, R109): RIG_MBXRSP, BUSY, then the interrupt. -/
def execMailboxResponse (m : Nat) (s : State) : Outcome :=
  match s.mailbox.find? (fun x => x.m == m) with
  | none => .next s
  | some x =>
    if s.recovering 6 0 then .next s
    else
      let s := { s with mailbox := s.mailbox.eraseP (fun x => x.m == m) }
      let s := (s.wr (Reg.mbxRsp m) (word [(48, x.result), (32, x.seq), (0, x.value % 2 ^ 32)])).putBit (Reg.mbxStat m) 0 false
      if !s.flag (Reg.mbxStat m) 2 then .next s
      else if m = 0 then .next (s.signal (s.fld (Reg.mbxStat 0) 26 16))
      else if s.fld Reg.cdstat 1 0 = 0 then .next { s with coreIrq := s.coreIrq ++ [(s.fld Reg.cdctl 55 50, s.fld Reg.cdctl 49 39)] }
      else .next s

end Sys2Proof.Machine
end

