-- ==== Sys2Proof/Machine/Repair.lean ====
section
/-! DEFINITION. Targeted self-tests and their outcomes (R587 to R590, Tables 5.9, 12.8 and 19.4), and the recoveries of a die and of the module (R583,
R584). What a test finds is an operand: `located k` names the element, by the numbering of its kind (see each function). -/

namespace Sys2Proof.Machine

/-- Count a test that R588 does not judge: a pass after a remap. -/
def State.countPass (s : State) : State := (s.bump Reg.fltStcnt 63 32 1).bump Reg.fltStcnt 31 16 1

/-! ### Engines -/

/-- QFAIL of a unit other than an MXE; any quad of an MXE. -/
def State.qfail (s : State) (u : Nat) : Bool := if u < 16 then s.fld (unitStat u) 31 28 != 0 else s.flag (unitStat u) 3

/-- An MXE returns to service, unless its VXE is out (R238). -/
def State.mxeBack (s : State) (n : Nat) : State :=
  let s := s.putBit (Reg.mxeStat n) 2 false
  if s.unitIn (16 + n) then s.putBit (Reg.mxeStat n) 1 true else s

/-- A unit that has passed returns to service; a VXE brings its MXE with it unless that is being tested or has failed (R238). -/
def State.passed (s : State) (u : Nat) : State :=
  if u < 16 then s.mxeBack u
  else
    let s := s.unitBack u
    if u < 32 ∧ s.flag (Reg.mxeStat (u - 16)) 2 = false ∧ s.qfail (u - 16) = false then s.putBit (Reg.mxeStat (u - 16)) 1 true else s

/-- Every INTAKE op that has not ended, once the engine has failed (R489). -/
def State.intakeDead (s : State) : List OpRec → State
  | [] => s
  | o :: os => (if o.d.cls = 9 ∧ 0 < o.units ∧ o.phase ≠ .ended then s.failOp o.q o.s stEngineFault 0x0B8 else s).intakeDead os

/-- A unit that has failed stays out until module reset: QFAIL, of a quad for an MXE. -/
def State.unitFailed (s : State) (u quad : Nat) : State :=
  let s := if s.unitIn u then s.ownRule u else s
  let s := if u < 16 then s.putBit (unitStat u) (28 + quad % 4) true else s.putBit (unitStat u) 3 true
  let s := (s.putBit (unitStat u) 2 false).putBit (unitStat u) 1 false
  if u = 184 then s.intakeDead s.ops else s

/-- The quad that a fault of an MXE names; quad 0 for one that names none. -/
def faultQuad (w : Window) : Nat := if w.det = 1 then w.info / 256 % 4 else if w.det ≤ 5 then w.info % 4 else 0

/-- The slot of a quad whose new map is being tested (REMAPPING of Table 5.9), plus 1. -/
def State.remapping (s : State) (n quad : Nat) : Nat := s.remap.get (fun _ => 0) (4 * n + quad)

/-- Bits of slot `k` of a quad in MXE_COLMAP: the least significant one. -/
def slotLsb (quad k : Nat) : Nat := 16 * quad + 8 * k

/-- COL of a slot. -/
def State.slotCol (s : State) (n quad k : Nat) : Nat := s.fld (Reg.mxeColmap n) (slotLsb quad k + 6) (slotLsb quad k)

/-- Is a slot free: not enabled, and not disabled after its spare column failed? -/
def State.slotFree (s : State) (n quad k : Nat) : Bool :=
  !s.flag (Reg.mxeColmap n) (slotLsb quad k + 7) && !s.spareGone.get (fun _ => false) (8 * n + 2 * quad + k)

/-- The remapped slot is consumed: SPUSED counts it and the remap has ended. -/
def State.endRemap (s : State) (n quad : Nat) : State :=
  ({ s with remap := s.remap.set (fun _ => 0) (4 * n + quad) 0 } : State).bump (Reg.mxeStat n) (33 + 2 * quad) (32 + 2 * quad) 1

/-- The TESTING rows of Table 5.9 for a column that a test names: `none` where the quad has no free slot. -/
def State.mapNext (s : State) (n quad col : Nat) : Option State :=
  let logical := if col < 128 then col else s.slotCol n quad (col - 128)
  let s := if col < 128 then s
    else ({ s with spareGone := s.spareGone.set (fun _ => false) (8 * n + 2 * quad + (col - 128)) true } : State).putBit (Reg.mxeColmap n)
      (slotLsb quad (col - 128) + 7) false
  match [0, 1].find? (fun k => s.slotFree n quad k) with
  | none => none
  | some k =>
    some ({ (s.put (Reg.mxeColmap n) (slotLsb quad k + 7) (slotLsb quad k) (128 + logical)) with
      remap := s.remap.set (fun _ => 0) (4 * n + quad) (k + 1) } : State)

/-- A quad that cannot be repaired: the MXE is OUT (Table 5.9). -/
def State.mxeDead (s : State) (n quad : Nat) (w : Window) : State := (s.unitFailed n quad).settleFault w 5 0

/-- A test of an MXE's quad has failed: `col` is the physical column it names, 0 to 129 (Table 5.9). -/
def State.mxeFails (s : State) (n quad : Nat) (col : Option Nat) (w : Window) : State :=
  let s := if s.remapping n quad = 0 then s else s.endRemap n quad
  let s := if s.unitIn n then s.engineStop n else s
  match col with
  | none => s.mxeDead n quad w
  | some c =>
    if 130 ≤ c then s.mxeDead n quad w
    else match s.mapNext n quad c with
      | some s => s.putBit (Reg.mxeStat n) 2 true
      | none => s.mxeDead n quad w

/-- The self-test of an MXE (R173): `located k` names physical column k mod 256 of quad k ÷ 256. -/
def State.mxeTest (s : State) (n : Nat) (w : Window) (out : SelfTest) : State :=
  let quad := faultQuad w
  let slot := s.remapping n quad
  if slot ≠ 0 ∧ out = .transient then
    let s := s.countPass
    let col := s.slotCol n quad (slot - 1)
    ((s.endRemap n quad).mxeBack n).settleFault w 2 (repairEntry 1 n (quad * 128 + col))
  else
    let (fin, s) := s.selfTest 1 n (if w.det = 1 then some w.info else none) out
    match fin with
    | .transient => (s.mxeBack n).settleFault w 1 0
    | .located k => if k < 1024 then s.mxeFails n (k / 256) (some (k % 256)) w else s.mxeFails n quad none w
    | .unlocated => s.mxeFails n quad none w

/-- The self-test of any other engine: it has no spares. -/
def State.unitTest (s : State) (u : Nat) (w : Window) (out : SelfTest) : State :=
  let (fin, s) := s.selfTest 1 u none out
  if fin = .transient then (s.passed u).settleFault w 1 0 else (s.unitFailed u 0).settleFault w 5 0

/-! ### Memory -/

/-- A channel of a stack is to be mapped out (Table 12.9): a fault without a window becomes CONTAINED; its RESOLVE comes when the channel has drained. -/
def State.channelFails (s : State) (inst : Nat) (w : Window) : State :=
  let s := if w.busy || w.into != 0 then s else s.contain w true
  s.mapOut (inst / 16) (inst % 16)

/-- The self-test of an HBM row, lane or channel (Table 12.8). `located k`: below 2^29 row k mod 2^24 of pseudo-channel k ÷ 2^24, with a repair left
in its bank; plus 2^29, such a row without one; plus 2^30, lane k mod 64 of pseudo-channel k ÷ 64, with a spare left; plus 3 · 2^29, a lane without. -/
def State.hbmTest (s : State) (inst : Nat) (w : Window) (out : SelfTest) : State :=
  let st := inst / 16
  let row := if w.det = 0x23 then none else some w.info
  let (fin, s) := s.selfTest 2 inst row out
  match fin with
  | .transient => s.settleFault w 1 0
  | .unlocated => s.channelFails inst w
  | .located k =>
    if k < 2 ^ 29 then (s.bump (Reg.hbcRepcnt st) 63 48 1).settleFault w 2 (repairEntry 3 st k)
    else if k < 2 ^ 30 then
      let n := s.rowsOut.get (fun _ => 0) inst + 1
      let s := { s with rowsOut := s.rowsOut.set (fun _ => 0) inst n }
      if 8 ≤ n then s.channelFails inst w else s.settleFault w 3 0
    else if k < 3 * 2 ^ 29 then
      let l := (k - 2 ^ 30) % 2048
      (s.bump (Reg.hbcRepcnt st) 47 32 1).settleFault w 2 (repairEntry 4 st l)
    else s.channelFails inst w

/-- The self-test of a deep-tier channel (R458). -/
def State.deepTest (s : State) (n : Nat) (w : Window) (out : SelfTest) : State :=
  let (fin, s) := s.selfTest 2 (256 + n) none out
  if fin = .transient then s.settleFault w 1 0 else (s.dtcOut n).settleFault w 4 (repairEntry 6 n 0)

/-- The self-test of an MSC slice (Table 19.4): `located k` names way k ÷ 4,096 of set k mod 4,096. -/
def State.mscTest (s : State) (slice : Nat) (w : Window) (out : SelfTest) : State :=
  let (fin, s) := s.selfTest 2 (272 + slice) (if w.det = 0x25 then some w.info else none) out
  match fin with
  | .transient => s.settleFault w 1 0
  | .located k =>
    ({ s with wayOff := s.wayOff.set (fun _ => false) (slice * 2 ^ 20 + k % 4096 * 16 + k / 4096 % 16) true } : State).settleFault w 3 0
  | .unlocated => ({ s with mscOut := s.mscOut.set (fun _ => false) slice true } : State).settleFault w 5 0

/-- The self-test of a tile-store bank (R590): a retired bank's addresses become unpopulated. -/
def State.bankTest (s : State) (i : Nat) (w : Window) (out : SelfTest) : State :=
  let (fin, s) := s.selfTest 2 (512 + i) (some i) out
  if fin = .transient then s.settleFault w 1 0
  else ({ s with bankOut := s.bankOut.set (fun _ => false) i true } : State).settleFault w 5 0

/-! ### Links, cores -/

/-- The self-test of a lane of a bundle (R529): `located k` names lane k mod 64 of direction k ÷ 64. -/
def State.bundleTest (s : State) (b : Nat) (w : Window) (out : SelfTest) : State :=
  let (fin, s) := s.selfTest 3 b (if w.det = 0x30 then some w.info else none) out
  match fin with
  | .transient => s.settleFault w 1 0
  | .located k =>
    let was := s.fld (Reg.stlBstat b) 63 62
    let dir := k / 64 % 2
    let entry := repairEntry 2 b (k % 128)
    if s.standby b dir then ((s.loseLane b dir (k % 64)).bump (Reg.stlBcnt b) 15 8 1).settleFault w 2 entry
    else
      let s := s.loseLane b dir (k % 64)
      (s.settleFault w (if s.fld (Reg.stlBstat b) 63 62 = 0 then 5 else 3) entry).bundleGone false b was
  | .unlocated => s.settleFault w 3 0

/-- TARGETED_SELF_TEST (R587): of the element of the fault that stands unresolved in this instance; nothing where there is none. -/
def execTargetedSelfTest (dom inst : Nat) (out : SelfTest) (s : State) : Outcome :=
  match s.testFault dom inst with
  | none => .next s
  | some w =>
    match dom with
    | 1 => if inst < 16 then .next (s.mxeTest inst w out) else if inst < 56 ∨ inst = 184 then .next (s.unitTest inst w out) else .next s
    | 2 =>
      if inst < 256 then .next (s.hbmTest inst w out)
      else if inst < 272 then .next (s.deepTest (inst - 256) w out)
      else if inst < 289 then .next (s.mscTest (inst - 272) w out)
      else if 512 ≤ inst ∧ inst < 736 then .next (s.bankTest (inst - 512) w out)
      else .next s
    | 3 =>
      if inst < 32 then .next (s.bundleTest inst w out)
      else if out = .transient ∧ (128 ≤ inst ∨ s.portUp (inst - 32) = true) then
        let (_, s) := s.selfTest 3 inst none out
        .next (s.settleFault w 1 0)
      else .next s
    | 5 =>
      let (fin, s) := s.selfTest 5 0 none out
      .next (if fin = .transient then s else { s with coreHeld := s.coreHeld.set (fun _ => false) w.info true })
    | 6 =>
      let (fin, s) := s.selfTest 6 0 none out
      .next (if fin = .transient then { s with rigOut := s.rigOut.set (fun _ => false) w.info false } else s)
    | _ => .next s

/-! ### Recovery of a die (R583) -/

/-- The VXEs, MXEs, ASQ, stem engine and UUs of a die. -/
def dieUnits (d : Nat) : List Nat :=
  (List.range 4).map (fun k => 16 + 4 * d + k) ++ (List.range 4).map (fun k => 4 * d + k) ++ [32 + d, 36 + d] ++
    (List.range 4).map (fun k => 40 + 4 * d + k)

/-- A test within a larger recovery: the unit returns or stays out, and its folded fault is resolved. -/
def State.retest (s : State) (bad : List Nat) (u : Nat) : State :=
  if s.qfail u then s
  else
    let quad := ((List.range 4).find? (fun q => bad.contains (u + 1024 * q))).getD 0
    let out := if (List.range 4).any (fun q => bad.contains (u + 1024 * q)) then SelfTest.unlocated else SelfTest.transient
    let f := s.testFault 1 u
    let (fin, s) := s.selfTest 1 u none out
    let (s, code) := if fin = .transient then (s.passed u, 1) else (s.unitFailed u quad, 5)
    match f with
    | some w => if w.busy then s else s.settleFault w code 0
    | none => s

/-- A recovery ends FAILED, which is a fault of the next domain (R582). -/
def State.recoveryFails (s : State) (dom inst : Nat) : State :=
  match s.window dom inst with
  | none => s
  | some w => (s.resolve dom inst 9 0).climb 4 w.cls dom inst w.seq w.seq

/-- Has the die lost every hub bundle, or every bundle to some compute die? -/
def State.dieAlone (s : State) (d : Nat) : Bool :=
  (List.range 32).any (fun b => ((bundleEnds b).1 == d || (bundleEnds b).2 == d) && s.pairOut b)

/-- DIE_RECOVERY (R583): the units of the die leave service with their work re-placed, are tested, and return unless they fail; `bad` lists the units
that fail, quad q of an MXE as unit + 1,024 q; `isolated`: the die cannot be reached. -/
def execDieRecovery (die : Nat) (bad : List Nat) (isolated : Bool) (s : State) : Outcome :=
  if die < 4 ∧ s.recovering 4 die = true then
    let us := dieUnits die
    let s := us.foldl (fun s u => s.putBit (unitStat u) 1 false) s
    let s := us.foldl (fun s u => s.unitOut u) s
    let s := us.foldl (fun s u => s.retest bad u) s
    let s := (List.range 4).foldl (fun s k => if s.unitIn (16 + 4 * die + k) then s else s.queueLost (4 * die + k)) s
    let s := ((List.range 32).filter (fun b => (bundleEnds b).1 == die || (bundleEnds b).2 == die)).foldl (fun s b => s.setBundle b) s
    .next (if isolated || s.dieAlone die then s.recoveryFails 4 die else s.resolve 4 die 7 0)
  else .next s

/-! ### Recovery of the module (R584) -/

/-- Rigging cores in service. -/
def State.rigCores (s : State) : Nat := ((List.range 8).filter (fun c => !s.rigOut.get (fun _ => false) c)).length

/-- MODULE_RECOVERY (R584): units named in open windows and the rigging cores held are tested; plans are rebuilt with a re-base by `beats`. `bad` lists
the units that fail as for a die, and core c as 256 + c; `isolated`: a compute die stays isolated. -/
def execModuleRecovery (beats : Nat) (bad : List Nat) (isolated : Bool) (s : State) : Outcome :=
  if s.recovering 6 0 then
    let us := ((s.windows.filter (fun w => w.dom == 1 && w.into != 0 && !w.tested)).map Window.inst).eraseDups
    let s := us.foldl (fun s u => s.retest bad u) s
    let cores := (List.range 8).filter (fun c => s.rigOut.get (fun _ => false) c)
    let s := cores.foldl (fun s c =>
      let (fin, s) := s.selfTest 6 0 none (if bad.contains (256 + c) then SelfTest.unlocated else SelfTest.transient)
      if fin = .transient then { s with rigOut := s.rigOut.set (fun _ => false) c false } else s) s
    let s := s.rebaseBy beats
    .next (if s.rigCores < 4 ∨ isolated = true then s.recoveryFails 6 0 else s.resolve 6 0 7 0)
  else .next s

end Sys2Proof.Machine
end

