-- ==== Sys2Proof/Machine/TakeIn.lean ====
section
/-! DEFINITION. Taking descriptors in (R51 to R53, R620, R621): the checks in their order, the records and objects captured, and the op as it is held
from then on. -/

namespace Sys2Proof.Machine

/-! ### Step 1: OPCLASS and OP (R29) -/

/-- Is the op code defined in its class? -/
def Desc.defined (d : Desc) : Bool :=
  match d.cls with
  | 0 | 1 | 3 | 4 | 5 | 8 => decide (d.op < 3)
  | 2 => decide (d.op < 9)
  | 6 => decide (d.op < 3) || d.op == 0x40 || d.op == 0x41 || d.op == 0x42
  | 7 => d.op == 0 || d.op == 0x40 || d.op == 0x41
  | 9 => d.op == 0
  | _ => false

/-! ### The checks of a class, by step -/

/-- Fields of NOP and WAIT (R41, R42). -/
def ctrlFields (d : Desc) : List (Nat × Bool) :=
  let rest := [d.resv 320 32, d.resv 416 32, d.resv 384 32]
  if d.op = 0 then d.resv 352 32 :: d.resv 480 32 :: d.resv 448 32 :: rest else rest

/-- Objects of NOP and WAIT. -/
def ctrlObjs (d : Desc) (n : Named) : List (Nat × Bool) :=
  [if d.op = 0 then n.no 0 else n.need 0 (fun o => o.fmt == fUINT8 && o.rank == 1 && decide (8 ≤ o.d0) && o.off % 8 == 0), n.no 1, n.no 2, n.no 3]

/-- The field checks of a class that need no record; those of cascade ops stand with their group. -/
def plainFields (d : Desc) (n : Named) : List (Nat × Bool) :=
  if d.cascade then []
  else match d.cls with
    | 0 => ctrlFields d
    | 1 => matrixFields d n
    | 2 => vectorFields d n
    | 3 => attnFields d
    | 4 | 5 => convFields d
    | 6 => moveFields d
    | 7 => reduceFields d
    | 8 => updateFields d
    | _ => intakeFields d

/-- The field checks that a chapter puts in an order of its own (R282). -/
def orderedFields (d : Desc) (n : Named) : List (Nat × Bool) := if d.cls = 4 ∨ d.cls = 5 then convOrdered d n else []

/-- The object checks of a class; `ws` is the rule record of an UPDATE op. -/
def objChecks (d : Desc) (ws : List Word) (n : Named) : List (Nat × Bool) :=
  if d.cascade then castObjs d n
  else match d.cls with
    | 0 => ctrlObjs d n
    | 1 => matrixObjs d n
    | 2 => vectorObjs d n
    | 3 => attnObjs d n
    | 4 | 5 => convObjs d n
    | 6 => moveObjs d n
    | 7 => reduceObjs d n
    | 8 => updateObjs d ws n
    | _ => intakeObjs d n

/-! ### Which object a comparison may use (R621) -/

/-- The named objects as slot `k` alone is judged: every other object named counts as unsound. -/
def Named.only (n : Named) (k : Nat) : Named := fun j => if j = k then n j else (n j).map (fun _ => none)

/-- The named objects with every one that fails the checks of its own slot made unsound. -/
def Named.sound (n : Named) (checks : Named → List (Nat × Bool)) : Named := fun k =>
  match n k with
  | some (some o) => if (checks (n.only k)).any (fun c => c.1 == k && c.2) then some none else some (some o)
  | x => x

/-! ### Records (R620) -/

/-- What the records of a descriptor bring: records by number, objects by role, members, the fields that fail, and the reads that failed, by the position
of the field whose check made them. -/
structure Recs where
  recs    : List (Nat × List Word) := []
  objs    : List (Nat × Obj) := []
  members : List Nat := []
  bad     : List (Nat × Bool) := []
  fails   : List (Nat × Rej) := []
  deriving DecidableEq, Repr

/-- Two records' parts together. -/
def Recs.join (a b : Recs) : Recs := ⟨a.recs ++ b.recs, a.objs ++ b.objs, a.members ++ b.members, a.bad ++ b.bad, a.fails ++ b.fails⟩

/-- A record of number `k`, named by the field at `pos`. -/
def recStep (pos k : Nat) (c : Chk (List Word × List (Nat × Obj) × List (Nat × Bool))) : Recs :=
  match c with
  | .ok (ws, os, bad) => { recs := if ws.isEmpty then [] else [(k, ws)], objs := os, bad := bad }
  | .error r => { fails := [(pos, r)] }

/-- The hint record (R100). -/
def hintStep (s : State) (ctx : Nat) (d : Desc) : Recs :=
  if d.hint = 0 then {}
  else match s.hintRec ctx d.hint with
    | .ok (some ws) => { recs := [(0, ws)] }
    | .ok none => { bad := [(32, true)] }
    | .error f => { fails := [(32, badRead 3 (s.fld (Reg.hintBase ctx) 43 12 * 4096 + 16 * d.hint) f)] }

/-- What the EPI word of an op is judged against (Table 9.5, R224, R292, R626). -/
def epiFor (d : Desc) (n : Named) : EpiFor :=
  let x := n.ok? 3
  match d.cls with
  | 1 => ⟨some (d.ext 1), some (d.ext 0), x⟩
  | 4 => match d.op with
    | 0 => ⟨some (d.ext 1), some (d.ext 0), x⟩
    | 1 => ⟨some (d.ext 2), x.map Obj.rows, x⟩
    | _ => ⟨some (d.ext 1), some (d.ext 2 * d.taps), x⟩
  | 5 => ⟨if d.op = 1 then x.map Obj.cols else some (d.ext 1), x.map Obj.rows, x⟩
  | 2 => ⟨none, some (d.ext 1), x⟩
  | _ => ⟨none, some (d.ext 0), x⟩

/-- The epilogue record of the classes that have an EPI word. -/
def epiStep (s : State) (ctx : Nat) (d : Desc) (n : Named) : Recs :=
  match d.cls with
  | 1 | 4 | 5 => recStep 500 1 (epiCheck s ctx (d.par 1) 500 true (epiFor d n))
  | 2 => recStep 468 1 (epiCheck s ctx (d.par 2) 468 false (epiFor d n))
  | 6 => if d.op < 2 then recStep 468 1 (epiCheck s ctx (d.par 2) 468 false (epiFor d n)) else {}
  | _ => {}

/-- The stream records of a BATCH: a rejection inside them is one of R469. -/
def streamStep (s : State) (ctx : Nat) (d : Desc) : Recs :=
  match streamChecks s ctx d with
  | .ok (rs, os) => { recs := rs, objs := os }
  | .error r => if r.status = stBadField then { bad := [(r.detail, true)] } else { fails := [(448, r)] }

/-- The group record of a cascade op, with its field step. -/
def groupStep (s : State) (q ctx : Nat) (d : Desc) : Recs :=
  match groupRec s ctx d.grp with
  | .ok g => { recs := (g.map (fun x => (5, x.1))).toList, members := (g.map Prod.snd).getD [], bad := castFields q d g }
  | .error r => { bad := (castFields q d (some ([], []))).filter (fun p => p.1 != 408 && p.1 != 396), fails := [(408, r)] }

/-- The mirrored widen group whose descriptors the queue takes in (R363): the first of its context's groups that has MIRROR and names the queue. -/
def mirrorGroup (s : State) (q ctx : Nat) : Option (List Word × List Nat) :=
  if (s.tableBase (Reg.grpBase ctx) 8192).isNone then none
  else (List.range 256).findSome? (fun g => match groupRec s ctx g with
    | .ok (some (ws, ms)) => if recAt ws 0 60 60 = 1 ∧ recAt ws 0 34 25 = q then some (ws, ms) else none
    | _ => none)

/-- The records of a MATMUL or MATMUL_BLOCKDIAG that a mirrored group splits. -/
def mirrorStep (s : State) (q ctx : Nat) (d : Desc) : Recs :=
  if d.cls = 1 ∧ d.op ≠ 1 then match mirrorGroup s q ctx with
    | some (ws, ms) => { recs := [(5, ws)], members := ms }
    | none => {}
  else {}

/-- The rule record of an UPDATE op. -/
def ruleStep (s : State) (ctx : Nat) (d : Desc) : Recs := if d.cls = 8 then recStep 408 3 (updateRule s ctx d) else {}

/-- Every record but the rule. -/
def recSteps (s : State) (q ctx : Nat) (d : Desc) (n : Named) : Recs :=
  let own :=
    if d.cascade then groupStep s q ctx d
    else match d.cls with
      | 1 => (epiStep s ctx d n).join (mirrorStep s q ctx d)
      | 3 => if d.op = 2 then {} else recStep 468 2 (attnRecord s ctx d n)
      | 8 => recStep 468 4 (updateSet s ctx d n)
      | 9 => streamStep s ctx d
      | _ => epiStep s ctx d n
  (hintStep s ctx d).join own

/-- The failed read at the lowest position. -/
def lowestRej : List (Nat × Rej) → Option (Nat × Rej)
  | [] => none
  | (p, r) :: xs => match lowestRej xs with
    | some (k, t) => if k < p then some (k, t) else some (p, r)
    | none => some (p, r)

/-- Step 2: the lowest failing field, or the failed record read that stands before it. -/
def fieldStep (bad : List (Nat × Bool)) (fails : List (Nat × Rej)) : Chk Unit :=
  match lowest bad, lowestRej fails with
  | none, none => .ok ()
  | some p, none => reject stBadField p
  | none, some (_, r) => .error r
  | some p, some (k, r) => if p < k then reject stBadField p else .error r

/-! ### Step 3: objects -/

/-- The object records of the four slots, as read. -/
def namedReads (s : State) (ctx : Nat) (d : Desc) : List (Chk (Option (Option Obj))) := (List.range 4).map (fun k => objIf s ctx (d.obj k) k)

/-- The named objects; a record that could not be read counts as unsound. -/
def namedOf (rs : List (Chk (Option (Option Obj)))) : Named := fun k =>
  match rs[k]? with
  | some (.ok o) => o
  | some (.error _) => some none
  | none => none

/-- BAD_OBJ for the first failing slot, or what its read met. -/
def objStep (rs : List (Chk (Option (Option Obj)))) (cs : List (Nat × Bool)) : Chk Unit :=
  match firstFail cs with
  | none => .ok ()
  | some k => match rs[k]? with
    | some (.error r) => .error r
    | _ => reject stBadObj k

/-! ### Step 4: dependencies (R53) -/

/-- What a dependency slot asks. -/
inductive DepOut where
  | fine
  | bad
  | wait (w : WaitRec)
  deriving DecidableEq, Repr

/-- Does following the waits from queue `p` reach queue `q`? -/
def reaches (ws : List WaitRec) (q : Nat) : Nat → Nat → Bool
  | 0, p => p == q
  | f + 1, p => p == q || ws.any (fun w => w.q == p && reaches ws q f w.prod)

/-- Slot `k` of the descriptor of serial `sn` on queue `q`. -/
def State.depSlot (s : State) (q sn ctx : Nat) (d : Desc) (k : Nat) : DepOut :=
  if !d.depV k then .fine
  else
    let p := d.depQ k
    let t := d.depS k
    if s.qctx p ≠ ctx then .bad
    else if p = q then (if before t sn then .fine else .bad)
    else if !before t (s.fld (Reg.qtail p) 31 0) then .bad
    else if before t (s.fld (Reg.qhead p) 31 0) then .fine
    else if reaches s.waits q 1024 p then .bad
    else .wait ⟨q, p, t⟩

/-! ### Step 5: translation (R445) -/

/-- Does the op read the object of this role: the "in" of its owning table? -/
def roleReads (d : Desc) (role : Nat) : Bool :=
  match role with
  | 0 => true
  | 1 => !(d.cls == 2 && d.op == 6)
  | 2 => match d.cls with
    | 2 => d.op != 6 && d.op != 7 && d.op != 8
    | 3 => d.op == 1
    | 7 => false
    | 8 => d.op == 0
    | _ => true
  | 3 => d.cls == 7 && d.op == 0 || d.cls == 8 && d.op == 1
  | 10 => d.op == 1
  | r => r == 4 || r == 8 || r == 9 || r == 12 || r == 13

/-- Does it write the object: the "out"? -/
def roleWrites (d : Desc) (role : Nat) : Bool :=
  match role with
  | 0 => false
  | 1 => d.cls == 2 && d.op == 6 || d.cls == 8 && d.op == 0
  | 2 => match d.cls with
    | 2 => d.op == 6 || d.op == 7 || d.op == 8
    | 3 => d.op == 0
    | 7 | 8 | 9 => true
    | _ => false
  | 10 => d.op == 0
  | 13 => d.at 403 1 == 1
  | r => r == 3 || r == 5 || r == 6 || r == 7 || r == 11 || decide (20 ≤ r)

/-- Translate the objects of a list, in order; objects that records name report slot 3. -/
def translateAll (s : State) (ctx : Nat) (d : Desc) : List (Nat × Obj) → Chk (List (Nat × Obj))
  | [] => .ok []
  | (r, o) :: os => do
    let x ← translate s ctx (min r 3) o (roleReads d r) (roleWrites d r)
    let xs ← translateAll s ctx d os
    return (r, x) :: xs

/-! ### The op taken in -/

/-- An extent that the op uses and that is zero (R34, R36). -/
def Desc.zeroExtent (d : Desc) : Bool :=
  let z := fun (ks : List Nat) => ks.any (fun k => d.ext k == 0)
  match d.cls with
  | 0 => false
  | 1 | 6 | 7 => z [0, 1, 2]
  | 2 => z [0, 1]
  | 3 => if d.op = 2 then z [0] else z [0, 1, 2]
  | 4 => z [0, 1, 2] || d.kh == 0 || d.kw == 0
  | 5 => z [0, 1] || d.kh == 0 || d.kw == 0
  | 8 => z [0] || d.op == 2 && d.at 396 5 == 0
  | _ => z [0]

/-- The work units of an op, as its chapter counts them; of an ATTN op, before its table is read, every number that one can have. -/
def OpRec.workUnits (o : OpRec) : Nat :=
  let tiles := match o.obj 3 with
    | some x => x.tiles
    | none => 0
  match o.d.cls, o.d.op with
  | 0, 2 => 1
  | 0, _ => 0
  | 1, _ | 4, _ | 5, _ => tiles
  | 2, _ => match o.obj 3 with
    | some x => vectorUnits o.d x
    | none => 0
  | 3, 2 => o.d.ext 0
  | 3, _ => o.d.ext 0 * o.d.ext 1 * attSpan
  | 6, 0 | 6, 1 => o.d.tilesCovered.length
  | 7, 0 => o.accTiles.length
  | 6, _ | 7, _ => if o.d.noData then 1 else if o.d.pairwise then o.d.tilesCovered.length else o.d.buckets
  | _, _ => o.d.ext 0

/-- Has a mirrored op of this rank no node (R363)? -/
def OpRec.beyondCut (o : OpRec) : Bool :=
  o.mirrored && match o.matrixShape with
    | some (x, _) => decide ((mirrorCut x.slices o.size).length ≤ o.rank)
    | none => false

/-- Is the op one without work (R36, R623)? A cascade op with a zero extent still takes part in its exchange (R340). -/
def OpRec.idle (o : OpRec) : Bool :=
  if o.d.cls = 0 then o.d.op == 0
  else !o.d.cascade && (o.d.zeroExtent || o.objs.any (fun x => x.2.empty) || o.beyondCut)

/-- The histogram record that the op writes (R131). -/
def OpRec.histIndex (o : OpRec) : Nat :=
  match o.d.cls with
  | 1 | 4 | 5 => o.d.par 1 % 2 ^ 20
  | 3 => o.d.at 448 20
  | 8 => recAt (o.rc 4) 1 39 20
  | _ => o.d.par 2 % 2 ^ 20

/-- The key under which ops of one kind are numbered: a collective's group identity (R338), or the key of an XSEND or XRECV (R339). -/
def OpRec.numKey (o : OpRec) : Nat := if o.d.pairwise then 2 ^ 110 + o.castKey else o.gid

/-- Number a cascade op taken in. -/
def State.numberOp (s : State) (o : OpRec) : OpRec × State :=
  if !o.d.cascade then (o, s)
  else
    let n := s.collNo.get (fun _ => 0) o.numKey
    ({ o with num := n }, { s with collNo := s.collNo.set (fun _ => 0) o.numKey (n + 1) })

/-- Bring groups into HBM: D of a REDUCE_ACC (R387), the master of an APPLY (R321). An unassigned group is placed; one in the deep tier moves, pinned or
not (R449), where HBM has room. -/
def State.bringIn (s : State) (place : Option Wr) : List Nat → State
  | [] => s
  | g :: gs =>
    let e := s.tir g
    let s :=
      if !bit e 63 then match place with
        | some w => match s.placeGroup g w with
          | .ok t => t
          | .error _ => s
        | none => s
      else if bit e 62 then match s.placeDest g 0 with
        | some n => s.moveTo g 0 n
        | none => s
      else s
    s.bringIn place gs

/-- The groups of G, U, S and D with no placement that cover blocks of an APPLY, each with the master group of those blocks (R321). -/
def State.steerings (s : State) (o : OpRec) : List (Nat × Nat) :=
  match o.obj 1 with
  | none => []
  | some w =>
    let ts := ((List.range (o.d.ext 0)).map (fun k => (o.d.gfirst + k) / 128)).eraseDups
    let found := (ts.map (fun t =>
      let (p, r, c) := w.tileAt t
      let tile := fun (k : Nat) => ((o.obj k).map (fun x => x.groups (x.tileOff p r c) (fmtStride x.fmt))).getD []
      let st := ((o.obj 2).map (fun x => x.groups (x.tileOff 0 t 0) (x.tc * fmtStride x.fmt))).getD []
      (tile 0 ++ tile 8 ++ st ++ tile 3).map (fun g => (g, groupOf (w.addr (w.tileOff p r c)))))).flatten
    found.filter (fun e => !bit (s.tir e.1) 63)

/-- An APPLY taken in steers the first writes of groups, the first of its blocks that a group covers deciding. -/
def State.steerTo (s : State) (o : OpRec) : State :=
  let es := s.steerings o
  s.mapOp o.q o.s (fun o => { o with aux := es.foldr (fun e t => t.set (fun _ => 0) (steerKey e.1) (e.2 + 1)) o.aux })

/-- The groups of HBM that an op asks for at take-in. -/
def State.settleGroups (s : State) (o : OpRec) : State :=
  if o.noWork then s
  else match o.d.cls, o.d.op with
    | 7, 0 => match o.obj 3 with
      | some x => s.bringIn (some { o.wr x true with tier := 1 })
          ((o.accTiles.map (fun t => x.groups (x.tileOff t.1 t.2.1 t.2.2) (fmtStride x.fmt))).flatten.eraseDups)
      | none => s
    | 8, 0 => match o.obj 1 with
      | some x => (s.bringIn none (x.groups 0 x.size)).steerTo o
      | none => s
    | _, _ => s

/-! ### TAKE_IN -/

/-- Accepted: what the checks captured, and the records of a rank that keeps no result of a mirrored op (R364) left out. -/
def takenOp (q sn ctx beat : Nat) (d : Desc) (wins : List (Nat × Nat × Nat)) (r : Recs) (objs : List (Nat × Obj)) : OpRec :=
  let o := { freshOp q sn ctx d with objs := objs, recs := r.recs, members := r.members, windows := wins, taken := beat }
  let o := { o with noWork := o.idle, units := o.workUnits, aux := o.aux.set (fun _ => 0) 201 o.histIndex }
  if o.mirrored && !o.noWork && o.rank != 0 then { o with objs := o.objs.filter (fun x => !(x.1 == 5 || x.1 == 6 || x.1 == 7)) } else o

/-- Does the covered range split no block of a second result, in the ops whose results need not be covered whole (R212)? -/
def Desc.wholeSecond (d : Desc) (x : Obj) : Bool :=
  match d.cls with
  | 2 => x.wholeBlocks (d.ext 1) (if d.op = 1 then 1 else d.ext 0)
  | 6 => d.wholeIn x
  | _ => true

/-- Everything that take-in checks before dependencies: the records captured and the sound objects of the slots. -/
def checkHead (s : State) (q ctx : Nat) (d : Desc) : Chk (Recs × Named) :=
  if !d.defined then reject stBadOp 0
  else do
    let rs := namedReads s ctx d
    let rule := ruleStep s ctx d
    let ws := ((rule.recs.find? (fun x => x.1 == 3)).map Prod.snd).getD []
    let n := (namedOf rs).sound (objChecks d ws)
    let r := rule.join (recSteps s q ctx d n)
    match firstFail (orderedFields d n) with
    | some p => reject stBadField p
    | none => fieldStep (d.commonFields ++ plainFields d n ++ r.bad) r.fails
    objStep rs (objChecks d ws n)
    match r.objs.find? (fun x => x.1 == 5) with
    | some x => if d.wholeSecond x.2 then .ok (r, n) else reject stBadObj 3
    | none => .ok (r, n)

/-- The objects of the slots and of the records, in the order of R445. -/
def allObjs (r : Recs) (n : Named) : List (Nat × Obj) := ((List.range 4).filterMap (fun k => (n.ok? k).map (fun o => (k, o)))) ++ r.objs

/-- A descriptor that fails a check ends with that status (R51). -/
def State.turnAway (s : State) (o : OpRec) (r : Rej) (told : Bool) : State :=
  let s := match r.fail with
    | some (f, a) => s.readRecord f a (some (o.q, o.s, o.ctx)) told
    | none => if r.status = stAddrFault then s.bump Reg.trnCnt 63 32 1 else s
  (({ s with ops := s.ops ++ [o] } : State).put (Reg.qhead o.q) 31 0 (o.s + 1)).endOp o.q o.s r.status r.detail

/-- An op enters: numbered, its groups placed, ended at once where a partner has already abandoned it (R355); node tiles that came for it before are taken
in (R364). -/
def State.enter (s : State) (o : OpRec) : State :=
  let (o, s) := s.numberOp o
  let s := ({ s with ops := s.ops ++ [o] } : State).put (Reg.qhead o.q) 31 0 (o.s + 1)
  let s := (s.settleGroups o).noteDeps.syncQ o.q
  match s.abandoned.find? (fun x => o.d.cascade && x.1 == o.castKey && x.2 != 127) with
  | some (_, port) => s.failOp o.q o.s stLinkLost port
  | none => if o.mirrored && o.rank == 0 && !o.noWork then s.takeHeld o else s

/-- Steps 4 and 5, and the op's entry. R53 does not say what comes of a descriptor whose slot 0 waits while slot 1 is bad already: here take-in waits first,
slot by slot, and rejects it afterwards (DESIGN CHOICE, log entry 150). -/
def State.takeTail (s : State) (q sn ctx : Nat) (d : Desc) (wins : List (Nat × Nat × Nat)) (r : Recs) (n : Named) (told : Bool) : State :=
  let o := { freshOp q sn ctx d with windows := wins, recs := r.recs.filter (fun x => x.1 == 0) }
  match s.depSlot q sn ctx d 0, s.depSlot q sn ctx d 1 with
  | .bad, _ => s.turnAway o ⟨stBadDep, 0, none⟩ told
  | .wait w, _ => { s with waits := s.waits ++ [w] }
  | .fine, .bad => s.turnAway o ⟨stBadDep, 1, none⟩ told
  | .fine, .wait w => { s with waits := s.waits ++ [w] }
  | .fine, .fine =>
    match translateAll s ctx d (allObjs r n) with
    | .error e => match e.fail with
      | some (.wait, _) => s
      | _ => s.turnAway o e told
    | .ok os => s.enter (takenOp q sn ctx s.beat d wins r os)

/-- May the queue take a descriptor in: RUNNING, one submitted, not waiting (R53), its context not under DRAIN (R463)? -/
def State.mayTake (s : State) (q : Nat) : Bool :=
  s.running q && s.fld (Reg.qhead q) 31 0 != s.fld (Reg.qtail q) 31 0 && !s.waits.any (fun w => w.q == q) &&
    match s.inv with
    | some i => !(i.drain && i.ctx == s.qctx q)
    | none => true

/-- Take in the descriptor read from its slot. -/
def State.takeDesc (s : State) (q sn ctx : Nat) (d : Desc) (told : Bool) : State :=
  let (wins, miss) := s.hintWindows ctx
  let o := { freshOp q sn ctx d with windows := wins }
  match checkHead s q ctx d with
  | .error e => match e.fail with
    | some (.wait, _) => s
    | _ => (s.bump Reg.cdcnt 15 0 miss).turnAway { o with recs := (hintStep s ctx d).recs } e told
  | .ok (r, n) =>
    match s.depSlot q sn ctx d 0, s.depSlot q sn ctx d 1 with
    | .wait _, _ | .fine, .wait _ => s.takeTail q sn ctx d wins r n told
    | _, _ => (s.bump Reg.cdcnt 15 0 miss).takeTail q sn ctx d wins r n told

/-- TAKE_IN (R51): the descriptor at RIG_QHEAD. A slot that cannot be read is not taken in (R49). `errs` are the units that the reads find wrong, beside
what the slot's read meets of armed injections (R404). -/
def execTakeIn (q : Nat) (errs : List (Nat × Nat)) (s : State) : Outcome :=
  if !s.mayTake q then .next s
  else
    let sn := s.fld (Reg.qhead q) 31 0
    let ctx := s.qctx q
    let a := s.slotAddr q sn
    let bad := s.mark a == .poison
    let s := (s.unitErrors (some (q, sn, ctx)) errs).meetReads (some (q, sn, ctx)) [(0, a, 64)]
    let told := s.told errs || !bad && s.mark a == .poison
    match s.readWords a 8 with
    | .ok ws => .next (s.takeDesc q sn ctx (descOf ws) told)
    | .error .wait => .next s
    | .error f => .next ((s.ringRecord f a (some (q, sn, ctx)) told).ringFails q sn (failStatus f 0).1)

end Sys2Proof.Machine
end

