-- ==== Sys2Proof/Machine/RegWrite.lean ====
section
/-! DEFINITION. Register writes (R7, R8): the plain fields by the register map, and the writes that have a command of their own, which have that
command's effect; and the accesses of a debug session (R615). -/

namespace Sys2Proof.Machine

/-- A write as it reaches the 64-bit word at `a`: the word with the written bits in place and zero elsewhere, and the bits `hi`:`lo` covered. -/
structure Wrt where
  ag : Agent
  a  : Nat
  v  : Word
  hi : Nat
  lo : Nat
  deriving DecidableEq, Repr

/-- Place a write of `width` bytes at `addr` in its word. -/
def Wrt.of (ag : Agent) (addr width : Nat) (v : Word) : Wrt :=
  let lo := 8 * (addr % 8)
  let hi := lo + 8 * width - 1
  ⟨ag, addr - addr % 8, putBits 0#64 hi lo (v.toNat % 2 ^ (8 * width)), hi, lo⟩

/-- Does the write cover the low half of its word (bits 31:0)? -/
def Wrt.low (w : Wrt) : Bool := w.lo == 0

/-- The word `old` with the covered bits replaced. -/
def Wrt.merge (w : Wrt) (old : Word) : Word := putBits old w.hi w.lo (bits w.v w.hi w.lo)

/-- Follow an outcome by another operation. -/
def andThen (o : Outcome) (f : State → Outcome) : Outcome :=
  match o with
  | .next s => f s
  | o => o

/-- The index of a register among `count` from `base`, `stride` bytes apart. -/
def regIndex (a base stride count : Nat) : Option Nat :=
  if base ≤ a ∧ (a - base) % stride = 0 ∧ (a - base) / stride < count then some ((a - base) / stride) else none

/-- A plain write: the fields of the register map, for an agent that its row admits (R7, R8). -/
def State.plainWrite (s : State) (w : Wrt) : State :=
  match rowAt w.a regMap with
  | some r => if r.who.admits w.ag then s.wr w.a (writeFields r.fields (s.rd w.a) w.v w.hi w.lo) else s
  | none => s

/-! ### Queue registers (Tables 2.6 to 2.9) -/

/-- RIG_QCTL: CTX while EN was 0 (R47) and PRIO, then EN, then FLUSH, then RESUME. -/
def State.writeQctl (s : State) (q : Nat) (w : Wrt) : Outcome :=
  let fields : List (Nat × Nat × Access) := if s.enabled q then [(51, 50, .rw)] else [(63, 52, .rw), (51, 50, .rw)]
  let s := s.wr w.a (writeFields fields (s.rd w.a) w.v w.hi w.lo)
  if !w.low then .next s
  else
    andThen (if bit w.v 0 then execEnSet q s else if s.enabled q then execEnClear q s else .next s) (fun s =>
      andThen (if bit w.v 2 then execFlush q s else .next s) (fun s => if bit w.v 1 then execResume q s else .next s))

/-- A write to the register at offset `off` of queue q. -/
def State.writeQueue (s : State) (q off : Nat) (w : Wrt) : Outcome :=
  match off with
  | 0x00 => if s.enabled q then .next s else .next (s.plainWrite w)
  | 0x08 => s.writeQctl q w
  | 0x10 => if w.low then execDoorbell q (BitVec.ofNat 32 (bits w.v 31 0)) s else .next s
  | 0x28 => if s.enabled q then .next s else .next (s.plainWrite w)
  | 0x30 => .next ((s.plainWrite w).syncQ q)
  | _ => .next (s.plainWrite w)

/-! ### Mailboxes (R107, R108) -/

/-- A write to RIG_MBXCMD issues the command of its CODE. -/
def State.writeMbxCmd (s : State) (m : Nat) (w : Wrt) : Outcome :=
  let seq : BitVec 16 := BitVec.ofNat 16 (bits w.v 31 16)
  if !w.low then .next s
  else
    match bits w.v 7 0 with
    | 1 => execGetInfo w.ag m seq s
    | 2 => execSetPipeline w.ag m seq s
    | 3 => execGetPipeline w.ag m seq s
    | 4 => execSetSliplim w.ag m seq s
    | 5 => execSetMargin w.ag m seq s
    | 6 => execReadPlan w.ag m seq s
    | 7 => execClearCounters w.ag m seq s
    | 8 => execRebase w.ag m seq s
    | _ => .next (s.badMail w.ag m seq)

/-- A write to a register of mailbox m: the arguments are ignored with COLL while BUSY. -/
def State.writeMailbox (s : State) (m off : Nat) (w : Wrt) : Outcome :=
  if off = 0 then s.writeMbxCmd m w
  else if off < 0x28 ∧ s.flag (Reg.mbxStat m) 0 = true then .next (s.putBit (Reg.mbxStat m) 1 true)
  else .next (s.plainWrite w)

/-! ### Injection registers -/

/-- KIND of an injection register whose KIND is bits 6:4, when ARM is set. -/
def Wrt.kind (w : Wrt) : Nat := if bit w.v 0 then bits w.v 6 4 else 0

/-- KIND in bits 7:4. -/
def Wrt.kind4 (w : Wrt) : Nat := if bit w.v 0 then bits w.v 7 4 else 0

/-- Arm by a register of the engines (chapters 05 to 10, 15). -/
def State.writeEngineInj (s : State) (w : Wrt) : Option Outcome :=
  let quad := bits w.v 8 7
  match regIndex w.a (Reg.mxeInj 0) 256 16, regIndex w.a (Reg.mxeAccinj 0) 64 16, regIndex w.a (Reg.vxeInj 0) 256 16 with
  | some n, _, _ => some (match w.kind with
    | 1 => execMxeInjColumnResidue w.ag n quad (bits w.v 16 9) s
    | 2 => execMxeInjWeightRegisterParity w.ag n quad s
    | 3 => execMxeInjAStreamParity w.ag n quad s
    | 4 => execMxeInjTurnLoaderParity w.ag n quad s
    | _ => .next s)
  | _, some n, _ => some (match w.kind with
    | 1 => execMxeAccinjOneBit w.ag n quad s
    | 2 => execMxeAccinjTwoBits w.ag n quad s
    | _ => .next s)
  | _, _, some n => some (match w.kind with
    | 1 => execVxeInjTqEccOneBit w.ag n s
    | 2 => execVxeInjTqEccTwoBits w.ag n s
    | 3 => execVxeInjLaneParity w.ag n s
    | 4 => execVxeInjPermuteParity w.ag n s
    | _ => .next s)
  | _, _, _ =>
    match regIndex w.a (Reg.asqInj 0) 256 4, regIndex w.a (Reg.stmInj 0) 256 4, regIndex w.a (Reg.uuInj 0) 256 16 with
    | some n, _, _ => some (match w.kind with
      | 1 => execAsqInjDirEccOneBit w.ag n s
      | 2 => execAsqInjDirEccTwoBits w.ag n s
      | 3 => execAsqInjExponentParity w.ag n s
      | 4 => execAsqInjGatherParity w.ag n s
      | _ => .next s)
    | _, some n, _ => some (match w.kind with
      | 1 => execStmInjLaneResidue w.ag n s
      | 2 => execStmInjTermParity w.ag n s
      | 3 => execStmInjGatherParity w.ag n s
      | _ => .next s)
    | _, _, some n => some (match w.kind with
      | 1 => execUuInjDatapathResidue w.ag n s
      | 2 => execUuInjRecordParity w.ag n s
      | 3 => execUuInjEncoderParity w.ag n s
      | _ => .next s)
    | _, _, _ =>
      if w.a = Reg.itkInj then some (match w.kind with
        | 1 => execItkInjHuffmanParity w.ag s
        | 2 => execItkInjTransformResidue w.ag s
        | 3 => execItkInjEccOneBit w.ag s
        | 4 => execItkInjEccTwoBits w.ag s
        | _ => .next s)
      else none

/-- Arm by a register of the memories and the coherent domain (chapters 12 to 14). -/
def State.writeMemoryInj (s : State) (w : Wrt) : Option Outcome :=
  match regIndex w.a (Reg.hbcInj 0) 256 16, regIndex w.a (Reg.mscInj 0) 256 17, regIndex w.a (Reg.dtcInj 0) 256 16 with
  | some n, _, _ => some (match w.kind4 with
    | 1 => execHbcInjWOneSymbol w.ag n (bits w.v 12 8) s
    | 2 => execHbcInjWFourSymbols w.ag n (bits w.v 12 8) s
    | 3 => execHbcInjACrc w.ag n (bits w.v 12 8) s
    | 4 => execHbcInjReadoutFailure w.ag n s
    | _ => .next s)
  | _, some n, _ => some (match w.kind with
    | 1 => execMscInjOneBit w.ag n s
    | 2 => execMscInjTwoBits w.ag n s
    | _ => .next s)
  | _, _, some n => some (match w.kind with
    | 1 => execDtcInjOneSector w.ag n s
    | 2 => execDtcInjThreeSectors w.ag n s
    | 3 => execDtcInjClassASector w.ag n s
    | _ => .next s)
  | _, _, _ =>
    if w.a = Reg.cdinj then some (match w.kind with
      | 1 => execRigCdinjL2OneBit w.ag (bits w.v 10 8) s
      | 2 => execRigCdinjL2TwoBits w.ag (bits w.v 10 8) s
      | 3 => execRigCdinjL3TwoBits w.ag (bits w.v 10 8) s
      | 4 => execRigCdinjDirectory w.ag (bits w.v 10 8) s
      | 5 => execRigCdinjDeadAgent w.ag (bits w.v 10 8) s
      | _ => .next s)
    else none

/-- Arm by a register of the links (chapters 16 and 17). -/
def State.writeLinkInj (s : State) (w : Wrt) : Option Outcome :=
  match regIndex w.a (Reg.hlkInj 0) 256 2, regIndex w.a (Reg.pinj 0) 64 96 with
  | some n, _ => some (match w.kind with
    | 1 => execHlkInjFlitCrc w.ag n s
    | 2 => execHlkInjCompletionTimeout w.ag n s
    | 3 => execHlkInjForcedRecovery w.ag n s
    | _ => .next s)
  | _, some n => some (match w.kind with
    | 1 => execHwpPinjUncorrectableCodeword w.ag n s
    | 2 => execHwpPinjCrcError w.ag n s
    | 3 => execHwpPinjForcedRetrain w.ag n s
    | _ => .next s)
  | _, _ =>
    if w.a = Reg.stlInj then
      (if 36 ≤ bits w.v 13 8 then some (.next s)
       else some (match w.kind with
        | 1 => execStlInjLaneParity w.ag (bits w.v 20 16) (bits w.v 7 7) (bits w.v 13 8) s
        | 2 => execStlInjFlitCrc w.ag (bits w.v 20 16) (bits w.v 7 7) (bits w.v 13 8) s
        | _ => .next s))
    else none

/-- FLT_INJ and PWR_INJ (R595, R618). -/
def State.writeFaultInj (s : State) (w : Wrt) : Option Outcome :=
  let t := bits w.v 47 32
  let p := bits w.v 15 8
  if w.a = Reg.fltInj then some (match w.kind4 with
    | 1 => execFltInjUnitWatchdog w.ag t s
    | 2 => execFltInjTileStoreOneBit w.ag t s
    | 3 => execFltInjTileStoreTwoBits w.ag t s
    | 4 => execFltInjTcrc w.ag t s
    | 5 => execFltInjRfmAlarm w.ag t s
    | 6 => execFltInjLaneLockLoss w.ag t s
    | 7 => execFltInjHostUr w.ag t s
    | 8 => execFltInjOffset w.ag t s
    | 9 => execFltInjCoreWatchdog w.ag t s
    | 10 => execFltInjQueueTwoBits w.ag t s
    | 11 => execFltInjFuse w.ag t s
    | _ => .next s)
  else if w.a = Reg.pwrInj then some (match w.kind4 with
    | 1 => execPwrInjInputAlert w.ag p s
    | 2 => execPwrInjInputFault w.ag p s
    | 3 => execPwrInjRailFault w.ag p s
    | 4 => execPwrInjCapfail w.ag p s
    | 5 => execPwrInjHot w.ag p s
    | 6 => execPwrInjTrip w.ag p s
    | 7 => execPwrInjHbmHot w.ag p s
    | 8 => execPwrInjCoolant w.ag p s
    | 9 => execPwrInjSensor w.ag p s
    | 10 => execPwrInjMezzanine w.ag p s
    | _ => .next s)
  else none

/-- A write to an injection register, if the word is one. -/
def State.writeInj (s : State) (w : Wrt) : Option Outcome :=
  match s.writeEngineInj w with
  | some o => some o
  | none =>
    match s.writeMemoryInj w with
    | some o => some o
    | none =>
      match s.writeLinkInj w with
      | some o => some o
      | none => s.writeFaultInj w

/-! ### Registers with rules of their own -/

/-- The word that a slot's control register holds or is to hold (R136). -/
def State.wctlWord (s : State) (slot : Nat) : Word :=
  match s.wctlNext.get (fun _ => none) slot with
  | some v => v
  | none => s.rd (Reg.wctl slot)

/-- HBC_SCRUB.PERIOD: 1 to 168 h, others ignored (Table 12.11). -/
def State.writeScrub (s : State) (w : Wrt) : State :=
  if Who.barRig.admits w.ag && w.low && decide (0 < bits w.v 7 0) && decide (bits w.v 7 0 ≤ 168) then s.put w.a 7 0 (bits w.v 7 0) else s

/-- RIG_CDCTL: HOLD from the rigging cores, MBXCORE and MBXID, then RELEASE (R433). -/
def State.writeCdctl (s : State) (w : Wrt) : Outcome :=
  if !Who.barRig.admits w.ag then .next s
  else
    let s := if isRig w.ag && decide (w.hi = 63) && decide (16 ≤ bits w.v 63 56) then s.put w.a 63 56 (bits w.v 63 56) else s
    let s := s.wr w.a (writeFields [(55, 39, .rw)] (s.rd w.a) w.v w.hi w.lo)
    if w.low && bit w.v 0 then execRelease w.ag s else .next s

/-- TRN_INVRNG: ignored with COLL while BUSY (R463). -/
def State.writeInvrng (s : State) (w : Wrt) : State :=
  if !Who.barRig.admits w.ag then s
  else if s.flag Reg.trnStat 0 then s.putBit Reg.trnStat 1 true
  else s.wr w.a (w.merge (s.rd w.a))

/-- BIA_CMD: the command of its CODE when GO is set (R500). -/
def State.writeBiaCmd (s : State) (w : Wrt) : State :=
  if w.low && bit w.v 0 then
    s.biasStart w.ag (bits w.v 47 32) (bits w.v 7 4) (bits w.v 63 48 != 0 || bits w.v 31 8 != 0 || bits w.v 3 1 != 0)
  else s

/-- BIA_ARG, ignored with COLL while BUSY, and BIA_ARGW; a reserved bit written as 1 spoils the command that uses the argument (R500). -/
def State.writeBiaArg (s : State) (w : Wrt) : State :=
  if !Who.barRig.admits w.ag then s
  else if w.a = Reg.biaArg then
    (if s.flag Reg.biaStat 0 then s.putBit Reg.biaStat 1 true
     else
      let bad := bits w.v 63 52 != 0 || bits w.v 20 2 != 0
      { (s.plainWrite w) with biaResv := s.biaResv / 2 * 2 + b2n bad })
  else { (s.plainWrite w) with biaResv := s.biaResv % 2 + 2 * b2n (bits w.v 63 20 != 0) }

/-- FLT_STAT: the plain bits, and OVF with its latches (R576). -/
def State.writeFltStat (s : State) (w : Wrt) : Outcome :=
  let s := s.plainWrite w
  if w.low && bit w.v 0 then execOvfClear w.ag s else .next s

/-- SEC_BOOTCMD (R562). -/
def State.writeBootCmd (s : State) (w : Wrt) : Outcome :=
  andThen (if bit w.v 0 then execGo w.ag s else .next s) (fun s => if bit w.v 1 then execAbort w.ag s else .next s)

/-- The single registers whose writes are commands or have rules of their own. -/
def State.writeSingle (s : State) (w : Wrt) : Option Outcome :=
  let lowV := fun (o : Outcome) => if w.low then o else .next s
  if w.a = Reg.asqDirclr then some (lowV (execAsqDirclr w.ag w.v s))
  else if w.a = Reg.cdctl then some (s.writeCdctl w)
  else if w.a = Reg.trnInv then some (execTrnInv w.ag w.v s)
  else if w.a = Reg.trnInvrng then some (.next (s.writeInvrng w))
  else if w.a = Reg.tirRelease then some (execTirRelease w.ag w.v s)
  else if w.a = Reg.biaCmd then some (.next (s.writeBiaCmd w))
  else if w.a = Reg.biaArg ∨ w.a = Reg.biaArgw then some (.next (s.writeBiaArg w))
  else if w.a = Reg.tmbOutctl then some (execTmbOutctl w.ag (w.merge (s.rd w.a)) s)
  else if w.a = Reg.rscRst then some (execRscRst w.ag w.v s)
  else if w.a = Reg.rscWdog then some (lowV (execKick w.ag w.v s))
  else if w.a = Reg.bootCmd then some (s.writeBootCmd w)
  else if w.a = Reg.secRevoke then some (execSecRevoke w.ag w.v s)
  else if w.a = Reg.attCmd then some (if bit w.v 0 then execSecAttcmd w.ag s else .next s)
  else if w.a = Reg.fltQhead then some (lowV (execFltQhead w.ag (BitVec.ofNat 32 (bits w.v 31 0)) s))
  else if w.a = Reg.fltStat then some (s.writeFltStat w)
  else if w.a = Reg.capHost then some (lowV (execPwrCaphost w.ag w.v s))
  else if w.a = Reg.capBmc then some (lowV (execPwrCapbmc w.ag w.v s))
  else if w.a = Reg.pwrOff then some (execPwrOff w.ag w.v s)
  else none

/-- The registers in groups whose writes are commands or have rules of their own. -/
def State.writeGroup (s : State) (w : Wrt) : Option Outcome :=
  if 0x0F0001000000 ≤ w.a ∧ w.a < 0x0F0001020000 then
    some (s.writeQueue ((w.a - 0x0F0001000000) / 128) ((w.a - 0x0F0001000000) % 128) w)
  else if 0x0F0001040000 ≤ w.a ∧ w.a < 0x0F0001040080 then
    some (s.writeMailbox ((w.a - 0x0F0001040000) / 64) ((w.a - 0x0F0001040000) % 64) w)
  else
    match regIndex w.a (Reg.wctl 0) 128 8, regIndex w.a (Reg.wstat 0) 128 8, regIndex w.a (Reg.mxeColmap 0) 256 16,
        regIndex w.a (Reg.hbcScrub 0) 256 16 with
    | some n, _, _, _ => some (execRigWctl w.ag n (w.merge (s.wctlWord n)) s)
    | _, some n, _, _ => some (if bit w.v 1 then execTrippedClear w.ag n s else .next s)
    | _, _, some n, _ => some (execMxeColmap w.ag n (w.merge (s.rd w.a)) s)
    | _, _, _, some _ => some (.next (s.writeScrub w))
    | _, _, _, _ => none

/-- A write that has reached its word. -/
def State.writeWord (s : State) (w : Wrt) : Outcome :=
  match s.writeSingle w with
  | some o => o
  | none =>
    match s.writeGroup w with
    | some o => o
    | none =>
      match s.writeInj w with
      | some o => o
      | none => .next (s.plainWrite w)

/-- First byte and size of the boot window (R558). -/
def bootBase : Nat := 0x0F0006000000

/-- Is a register access of a size and alignment that the registers have? -/
def regAligned (addr width : Nat) : Bool := (width == 4 || width == 8) && addr % width == 0

/-- Where the model puts a function's BAR2 (R493) among the addresses of a host's register write: above the unified range (DESIGN CHOICE, log entry 163). -/
def bar2 : Nat := 2 ^ 62

/-- A host's write to its function's BAR2 (R493, R496): bit 0 of byte 12 of entry v of the MSI-X table masks the vector. -/
def State.bar2Write (s : State) (n off width : Nat) (v : Word) : State :=
  if off < 0x4000 ∧ width = 4 ∧ off % 16 = 12 then s.maskVector (1024 * n + off / 16) (bit v 0)
  else if off < 0x4000 ∧ width = 8 ∧ off % 16 = 8 then s.maskVector (1024 * n + off / 16) (bit v 32)
  else s

/-- REGISTER_WRITE. BAR0 refuses what R494 names and counts it; a core's write to an unpopulated address is an address error (R437); a MOVE op reaches
no control space (R445); the I3C target takes the bytes of PWR_CAPBMC, PWR_ALERT and PWR_AMASK alone (R612). -/
def execRegisterWrite (ag : Agent) (addr width : Nat) (v : Word) (s : State) : Outcome :=
  let ok := regAligned addr width && inRegBlock addr
  match ag with
  | .move => .next s
  | .hl n =>
    if bar2 ≤ addr ∧ addr < bar2 + 0x10000 then .next (s.bar2Write n (addr - bar2) width v)
    else if !ok then .next (s.bump (Reg.hlkBar n) 63 32 1)
    else if bootBase ≤ addr then execBootWindowWrite n (addr - bootBase) (bytesOf width v.toNat) s
    else s.writeWord (Wrt.of ag addr width v)
  | .i3c =>
    let w := Wrt.of ag addr width v
    if ok && (w.a == Reg.capBmc || w.a == Reg.alert || w.a == Reg.amask) then s.writeWord w else .next s
  | _ =>
    if !inRegBlock addr then .next (s.addrRecord addr none)
    else if !ok || decide (bootBase ≤ addr) then .next s
    else s.writeWord (Wrt.of ag addr width v)

/-! ### Stores of the server cores (Table 13.3) -/

/-- The holder of a line that CBO.CLEAN or CBO.FLUSH names: dirty data is written back, and with FLUSH every copy goes. -/
def State.cboLine (s : State) (addr : Nat) (flush : Bool) : State :=
  if flush then s.dropLine addr false
  else match s.line addr with
    | some l => s.readLine (addr / 64 * 64) l
    | none => s

/-- The end of an LR's hold (R412): its SC has performed. -/
def State.endHold (s : State) (core addr : Nat) : State :=
  match s.line addr with
  | some l => s.setLine addr (some { l with copies := l.copies.map (fun (c : Copy) =>
      if c.core = core then { c with hold := false, waits := false } else c) })
  | none => s

/-- A store of a core, or a CBO.ZERO of its whole line, into the copy that it wins: the line is no longer reserved by it, a store of class A writes the null
tag (R427), and a line covered whole is poisoned no more (R426). -/
def State.coreStore (s : State) (core addr : Nat) (bs : List Byte) : State :=
  let s := (s.winExcl core addr true).copyStore core addr bs
  let s := s.cond (decide (bs.length = 64)) (fun s => match s.line addr with
    | some l => s.setLine addr (some { l with copies := l.copies.map (fun (c : Copy) => { c with poison := false }) })
    | none => s)
  let s := if s.lr.get (fun _ => 0) core = addr / 64 + 1 then s.dropLr core else s
  s.untag addr bs.length

/-- A store of a core to main memory by its kind. The answer of LR is the word, of SC 0 where it is performed and 1 where the reservation is gone. -/
def State.coreMain (s : State) (core addr width : Nat) (v : Word) (kind : StoreKind) : State :=
  match kind with
  | .lr =>
    let s := s.winExcl core addr false
    let x := s.copyValue core addr width
    if x.2 then { (s.poisonFault core addr) with reply := none }
    else { s with reply := some (BitVec.ofNat 64 x.1), lr := s.lr.set (fun _ => 0) core (addr / 64 + 1) }
  | .clean => s.cboLine addr false
  | .flush => s.cboLine addr true
  | .sc =>
    if s.lr.get (fun _ => 0) core ≠ addr / 64 + 1 then { (s.dropLr core) with reply := some 1 }
    else match s.coreOpens addr with
      | none => s.noRoom.coreFault addr true
      | some s => { ((s.coreStore core addr (bytesOf width v.toNat)).endHold core addr) with reply := some 0 }
  | .zero => match s.coreOpens addr with
    | none => s.noRoom.coreFault addr true
    | some s => s.coreStore core (addr / 64 * 64) (List.replicate 64 0)
  | .store => match s.coreOpens addr with
    | none => s.noRoom.coreFault addr true
    | some s => s.coreStore core addr (bytesOf width v.toNat)

/-- CORE_WRITE (R410): a store, LR, SC or cache-block operation of a core. LR and SC need main memory (R407), and are of 4 or 8 bytes, aligned; a register
write is REGISTER_WRITE of the cores. -/
def execCoreWrite (core addr width : Nat) (v : Word) (kind : StoreKind) (s : State) : Outcome :=
  if !s.coreRuns core then .next s
  else if !isMain addr then
    match region addr with
    | .nowhere => .next (s.coreFault addr true)
    | r =>
      if kind != .store || !ioOk addr width then .next (s.coreFault addr false)
      else if r == .control then (if !s.populated addr then .next (s.coreFault addr true) else execRegisterWrite .core addr width v s)
      else match s.writeMem (.plain 0) addr (bytesOf width v.toNat) with
        | .ok s => .next s
        | .error _ => .next (s.coreFault addr true)
  else if !oneLine addr width ∨ s.hostWaits addr then .next s
  else if !s.mainOk addr then .next (s.coreFault addr (region addr != .host || !s.populated addr))
  else if (kind = .lr ∨ kind = .sc) ∧ ((width ≠ 4 ∧ width ≠ 8) ∨ addr % width ≠ 0) then .next (s.coreFault addr false)
  else if s.mustWait addr core then .next { (s.probeWaits addr core) with reply := none }
  else
    let s := s.meetCore core addr
    if !s.coreRuns core then .next { s with reply := none } else .next (s.coreMain core addr width v kind)

/-! ### Debug access (R615) -/

/-- A word of control space as a debug session reads it, on the rigging cores' path; an unpopulated address has its record (R13). -/
def State.debugRead (s : State) (addr : Nat) : Option Word × State :=
  if inRegBlock addr then ((some (s.readReg 3 (addr - addr % 8)).1), (s.readReg 3 (addr - addr % 8)).2) else (none, s.addrRecord addr none)

/-- DBGACC: the access of an open session; the access codes are the model's numbering (see the assumption log). -/
def execDbgacc (code arg : Nat) (v : Word) (s : State) : Outcome :=
  let s := { s with jtag := 0x11 }
  if !s.session then .next s
  else
    match code with
    | 0 => .next { s with halted := true }
    | 1 => .next { s with halted := false }
    | 2 => .next { (s.debugRead arg).2 with reply := (s.debugRead arg).1 }
    | 3 => execRegisterWrite .rig arg 8 v s
    | 4 =>
      match s.readMem arg 8 with
      | .ok bs => .next { s with reply := some (BitVec.ofNat 64 (ofBytes bs)) }
      | .error f => .next { (s.failRecord f arg none) with reply := none }
    | 5 =>
      match s.writeMem (.plain (b2n (s.isClassA arg))) arg (bytesOf 8 v.toNat) with
      | .ok t => .next t
      | .error f => .next (s.failRecord f arg none)
    | 6 => .next { s with uart := true }
    | 7 => .next { s with uart := false }
    | 8 => execDebug s
    | 9 => .next { s with session := false }
    | _ => .next s

end Sys2Proof.Machine
end

