-- ==== Sys2Proof/Machine/Dispatch.lean ====
section
/-! DEFINITION. The dispatch: one arm for each command, each a direct call of its meaning. -/

namespace Sys2Proof.Machine

def exec (i : Instr) (s : State) : Host.Outcome State Fault Refusal :=
  match i with
  | .registerWrite ag addr width v => Sys2Proof.Machine.execRegisterWrite ag addr width v s
  | .doorbell q t => Sys2Proof.Machine.execDoorbell q t s
  | .enSet q => Sys2Proof.Machine.execEnSet q s
  | .enClear q => Sys2Proof.Machine.execEnClear q s
  | .flush q => Sys2Proof.Machine.execFlush q s
  | .flushEnd q => Sys2Proof.Machine.execFlushEnd q s
  | .resume q => Sys2Proof.Machine.execResume q s
  | .takeIn q errs => Sys2Proof.Machine.execTakeIn q errs s
  | .producerTakenIn q => Sys2Proof.Machine.execProducerTakenIn q s
  | .opStart q sn => Sys2Proof.Machine.execOpStart q sn s
  | .nop q sn => Sys2Proof.Machine.execNop q sn s
  | .wait q sn => Sys2Proof.Machine.execWait q sn s
  | .waitRead q sn errs => Sys2Proof.Machine.execWaitRead q sn errs s
  | .completionRecord q sn => Sys2Proof.Machine.execCompletionRecord q sn s
  | .beatBoundary p1 p10 p1000 inv => Sys2Proof.Machine.execBeatBoundary p1 p10 p1000 inv s
  | .piecePlan q sn split idx unit => Sys2Proof.Machine.execPiecePlan q sn split idx unit s
  | .pieceCommit q sn idx => Sys2Proof.Machine.execPieceCommit q sn idx s
  | .staging q sn idx role path => Sys2Proof.Machine.execStaging q sn idx role path s
  | .pieceStart q sn idx errs vxe => Sys2Proof.Machine.execPieceStart q sn idx errs vxe s
  | .pieceEnd q sn idx cyc waitTier waitData => Sys2Proof.Machine.execPieceEnd q sn idx cyc waitTier waitData s
  | .reBase => Sys2Proof.Machine.execReBase s
  | .getInfo ag m seq => Sys2Proof.Machine.execGetInfo ag m seq s
  | .setPipeline ag m seq => Sys2Proof.Machine.execSetPipeline ag m seq s
  | .getPipeline ag m seq => Sys2Proof.Machine.execGetPipeline ag m seq s
  | .setSliplim ag m seq => Sys2Proof.Machine.execSetSliplim ag m seq s
  | .setMargin ag m seq => Sys2Proof.Machine.execSetMargin ag m seq s
  | .readPlan ag m seq => Sys2Proof.Machine.execReadPlan ag m seq s
  | .clearCounters ag m seq => Sys2Proof.Machine.execClearCounters ag m seq s
  | .rebase ag m seq => Sys2Proof.Machine.execRebase ag m seq s
  | .rigWctl ag slot v => Sys2Proof.Machine.execRigWctl ag slot v s
  | .trippedClear ag slot => Sys2Proof.Machine.execTrippedClear ag slot s
  | .matmul q sn unit vxe quad n => Sys2Proof.Machine.execMatmul q sn unit vxe quad n s
  | .matmulRows q sn unit vxe quad n => Sys2Proof.Machine.execMatmulRows q sn unit vxe quad n s
  | .matmulBlockdiag q sn unit vxe quad n => Sys2Proof.Machine.execMatmulBlockdiag q sn unit vxe quad n s
  | .tileQueueRoom unit => Sys2Proof.Machine.execTileQueueRoom unit s
  | .columnError mxe quad col => Sys2Proof.Machine.execColumnError mxe quad col s
  | .passError mxe quad det => Sys2Proof.Machine.execPassError mxe quad det s
  | .targetedSelfTest dom inst out => Sys2Proof.Machine.execTargetedSelfTest dom inst out s
  | .mxeColmap ag n v => Sys2Proof.Machine.execMxeColmap ag n v s
  | .mxeInjColumnResidue ag n quad col => Sys2Proof.Machine.execMxeInjColumnResidue ag n quad col s
  | .mxeInjWeightRegisterParity ag n quad => Sys2Proof.Machine.execMxeInjWeightRegisterParity ag n quad s
  | .mxeInjAStreamParity ag n quad => Sys2Proof.Machine.execMxeInjAStreamParity ag n quad s
  | .mxeInjTurnLoaderParity ag n quad => Sys2Proof.Machine.execMxeInjTurnLoaderParity ag n quad s
  | .injectionExpiry => Sys2Proof.Machine.execInjectionExpiry s
  | .accumulatorEcc mxe quad two => Sys2Proof.Machine.execAccumulatorEcc mxe quad two s
  | .mxeAccinjOneBit ag n quad => Sys2Proof.Machine.execMxeAccinjOneBit ag n quad s
  | .mxeAccinjTwoBits ag n quad => Sys2Proof.Machine.execMxeAccinjTwoBits ag n quad s
  | .nodeTileLost q sn unit => Sys2Proof.Machine.execNodeTileLost q sn unit s
  | .epilogue vxe => Sys2Proof.Machine.execEpilogue vxe s
  | .eltwise q sn unit first n => Sys2Proof.Machine.execEltwise q sn unit first n s
  | .rowreduce q sn unit first n => Sys2Proof.Machine.execRowreduce q sn unit first n s
  | .rownorm q sn unit first n => Sys2Proof.Machine.execRownorm q sn unit first n s
  | .permute q sn unit first n => Sys2Proof.Machine.execPermute q sn unit first n s
  | .shuffle q sn unit first n => Sys2Proof.Machine.execShuffle q sn unit first n s
  | .pack q sn unit first n => Sys2Proof.Machine.execPack q sn unit first n s
  | .unpack q sn unit first n => Sys2Proof.Machine.execUnpack q sn unit first n s
  | .compress q sn unit first n => Sys2Proof.Machine.execCompress q sn unit first n s
  | .expand q sn unit first n => Sys2Proof.Machine.execExpand q sn unit first n s
  | .pairError vxe det => Sys2Proof.Machine.execPairError vxe det s
  | .vxeInjTqEccOneBit ag n => Sys2Proof.Machine.execVxeInjTqEccOneBit ag n s
  | .vxeInjTqEccTwoBits ag n => Sys2Proof.Machine.execVxeInjTqEccTwoBits ag n s
  | .vxeInjLaneParity ag n => Sys2Proof.Machine.execVxeInjLaneParity ag n s
  | .vxeInjPermuteParity ag n => Sys2Proof.Machine.execVxeInjPermuteParity ag n s
  | .attnFwd q sn unit quad n => Sys2Proof.Machine.execAttnFwd q sn unit quad n s
  | .attnBwd q sn unit quad n => Sys2Proof.Machine.execAttnBwd q sn unit quad n s
  | .seqset q sn unit first n => Sys2Proof.Machine.execSeqset q sn unit first n s
  | .asqDirclr ag v => Sys2Proof.Machine.execAsqDirclr ag v s
  | .asqDirclrDone => Sys2Proof.Machine.execAsqDirclrDone s
  | .directoryEcc die index two q sn => Sys2Proof.Machine.execDirectoryEcc die index two q sn s
  | .asqError die det => Sys2Proof.Machine.execAsqError die det s
  | .asqInjDirEccOneBit ag n => Sys2Proof.Machine.execAsqInjDirEccOneBit ag n s
  | .asqInjDirEccTwoBits ag n => Sys2Proof.Machine.execAsqInjDirEccTwoBits ag n s
  | .asqInjExponentParity ag n => Sys2Proof.Machine.execAsqInjExponentParity ag n s
  | .asqInjGatherParity ag n => Sys2Proof.Machine.execAsqInjGatherParity ag n s
  | .convFwd q sn unit vxe quad n => Sys2Proof.Machine.execConvFwd q sn unit vxe quad n s
  | .convBwdData q sn unit vxe quad n => Sys2Proof.Machine.execConvBwdData q sn unit vxe quad n s
  | .convBwdWeight q sn unit vxe quad n => Sys2Proof.Machine.execConvBwdWeight q sn unit vxe quad n s
  | .stemFwd q sn unit vxe n => Sys2Proof.Machine.execStemFwd q sn unit vxe n s
  | .stemBwdData q sn unit vxe n => Sys2Proof.Machine.execStemBwdData q sn unit vxe n s
  | .stemBwdWeight q sn unit vxe n => Sys2Proof.Machine.execStemBwdWeight q sn unit vxe n s
  | .stemError die det => Sys2Proof.Machine.execStemError die det s
  | .stmInjLaneResidue ag n => Sys2Proof.Machine.execStmInjLaneResidue ag n s
  | .stmInjTermParity ag n => Sys2Proof.Machine.execStmInjTermParity ag n s
  | .stmInjGatherParity ag n => Sys2Proof.Machine.execStmInjGatherParity ag n s
  | .apply q sn unit first n => Sys2Proof.Machine.execApply q sn unit first n s
  | .gram q sn unit vxe quad n => Sys2Proof.Machine.execGram q sn unit vxe quad n s
  | .root q sn unit first n => Sys2Proof.Machine.execRoot q sn unit first n s
  | .uuError n det => Sys2Proof.Machine.execUuError n det s
  | .uuInjDatapathResidue ag n => Sys2Proof.Machine.execUuInjDatapathResidue ag n s
  | .uuInjRecordParity ag n => Sys2Proof.Machine.execUuInjRecordParity ag n s
  | .uuInjEncoderParity ag n => Sys2Proof.Machine.execUuInjEncoderParity ag n s
  | .sync q sn data => Sys2Proof.Machine.execSync q sn data s
  | .xallgather q sn bucket data => Sys2Proof.Machine.execXallgather q sn bucket data s
  | .xsend q sn => Sys2Proof.Machine.execXsend q sn s
  | .xrecv q sn => Sys2Proof.Machine.execXrecv q sn s
  | .xallreduce q sn bucket data => Sys2Proof.Machine.execXallreduce q sn bucket data s
  | .xreducescatter q sn bucket data => Sys2Proof.Machine.execXreducescatter q sn bucket data s
  | .collectiveAdmit q sn => Sys2Proof.Machine.execCollectiveAdmit q sn s
  | .limit q sn rank => Sys2Proof.Machine.execLimit q sn rank s
  | .data port b => Sys2Proof.Machine.execData port b s
  | .node port b => Sys2Proof.Machine.execNode port b s
  | .e2eack port b => Sys2Proof.Machine.execE2eack port b s
  | .ready port b => Sys2Proof.Machine.execReady port b s
  | .abandon port b => Sys2Proof.Machine.execAbandon port b s
  | .align port answer t1 t2 t3 t4 upAligned => Sys2Proof.Machine.execAlign port answer t1 t2 t3 t4 upAligned s
  | .alignExchange => Sys2Proof.Machine.execAlignExchange s
  | .retry port ack => Sys2Proof.Machine.execRetry port ack s
  | .ident port farSerial farPort => Sys2Proof.Machine.execIdent port farSerial farPort s
  | .advert port serial hops closed => Sys2Proof.Machine.execAdvert port serial hops closed s
  | .join port serial => Sys2Proof.Machine.execJoin port serial s
  | .electionClose => Sys2Proof.Machine.execElectionClose s
  | .addr port serial addr => Sys2Proof.Machine.execAddr port serial addr s
  | .route port addr hops => Sys2Proof.Machine.execRoute port addr hops s
  | .nozenith => Sys2Proof.Machine.execNozenith s
  | .zenithLost elected => Sys2Proof.Machine.execZenithLost elected s
  | .reduceAcc q sn unit first n => Sys2Proof.Machine.execReduceAcc q sn unit first n s
  | .contributionRelease q sn tile => Sys2Proof.Machine.execContributionRelease q sn tile s
  | .classADetection q sn idx role tile => Sys2Proof.Machine.execClassADetection q sn idx role tile s
  | .mscWrite cls addr data errs => Sys2Proof.Machine.execMscWrite cls addr data errs s
  | .mscEcc slice set way addr two dirty => Sys2Proof.Machine.execMscEcc slice set way addr two dirty s
  | .add addr width v => Sys2Proof.Machine.execAdd addr width v s
  | .and addr width v => Sys2Proof.Machine.execAnd addr width v s
  | .or addr width v => Sys2Proof.Machine.execOr addr width v s
  | .xor addr width v => Sys2Proof.Machine.execXor addr width v s
  | .swap addr width v => Sys2Proof.Machine.execSwap addr width v s
  | .cas addr width cmp v => Sys2Proof.Machine.execCas addr width cmp v s
  | .smin addr width v => Sys2Proof.Machine.execSmin addr width v s
  | .smax addr width v => Sys2Proof.Machine.execSmax addr width v s
  | .umin addr width v => Sys2Proof.Machine.execUmin addr width v s
  | .umax addr width v => Sys2Proof.Machine.execUmax addr width v s
  | .fadd32 addr v => Sys2Proof.Machine.execFadd32 addr v s
  | .fadd64 addr v => Sys2Proof.Machine.execFadd64 addr v s
  | .temperatureReadout stack temp => Sys2Proof.Machine.execTemperatureReadout stack temp s
  | .patrolScrub stack errs => Sys2Proof.Machine.execPatrolScrub stack errs s
  | .channelDrained stack chan => Sys2Proof.Machine.execChannelDrained stack chan s
  | .hbcInjWOneSymbol ag n pc => Sys2Proof.Machine.execHbcInjWOneSymbol ag n pc s
  | .hbcInjWFourSymbols ag n pc => Sys2Proof.Machine.execHbcInjWFourSymbols ag n pc s
  | .hbcInjACrc ag n pc => Sys2Proof.Machine.execHbcInjACrc ag n pc s
  | .hbcInjReadoutFailure ag n => Sys2Proof.Machine.execHbcInjReadoutFailure ag n s
  | .mscInjOneBit ag n => Sys2Proof.Machine.execMscInjOneBit ag n s
  | .mscInjTwoBits ag n => Sys2Proof.Machine.execMscInjTwoBits ag n s
  | .coreRead core addr width => Sys2Proof.Machine.execCoreRead core addr width s
  | .coreWrite core addr width v kind => Sys2Proof.Machine.execCoreWrite core addr width v kind s
  | .engineRead addr => Sys2Proof.Machine.execEngineRead addr s
  | .engineWrite ctx addr data => Sys2Proof.Machine.execEngineWrite ctx addr data s
  | .farAtomic core op addr width cmp v => Sys2Proof.Machine.execFarAtomic core op addr width cmp v s
  | .famoaddW core addr v => Sys2Proof.Machine.execFamoaddW core addr v s
  | .famoaddD core addr v => Sys2Proof.Machine.execFamoaddD core addr v s
  | .eviction core addr toL3 => Sys2Proof.Machine.execEviction core addr toL3 s
  | .probe core addr => Sys2Proof.Machine.execProbe core addr s
  | .holdEnd core addr => Sys2Proof.Machine.execHoldEnd core addr s
  | .deadAgent core => Sys2Proof.Machine.execDeadAgent core s
  | .uncorrectableCoherenceError core => Sys2Proof.Machine.execUncorrectableCoherenceError core s
  | .enginesParked unreadable => Sys2Proof.Machine.execEnginesParked unreadable s
  | .recoveryComplete => Sys2Proof.Machine.execRecoveryComplete s
  | .release ag => Sys2Proof.Machine.execRelease ag s
  | .coreEcc core addr two => Sys2Proof.Machine.execCoreEcc core addr two s
  | .poisonedLineAccess core addr => Sys2Proof.Machine.execPoisonedLineAccess core addr s
  | .rigCdinjL2OneBit ag group => Sys2Proof.Machine.execRigCdinjL2OneBit ag group s
  | .rigCdinjL2TwoBits ag group => Sys2Proof.Machine.execRigCdinjL2TwoBits ag group s
  | .rigCdinjL3TwoBits ag group => Sys2Proof.Machine.execRigCdinjL3TwoBits ag group s
  | .rigCdinjDirectory ag group => Sys2Proof.Machine.execRigCdinjDirectory ag group s
  | .rigCdinjDeadAgent ag group => Sys2Proof.Machine.execRigCdinjDeadAgent ag group s
  | .firstWrite q sn role group => Sys2Proof.Machine.execFirstWrite q sn role group s
  | .migrationStart group tier stack => Sys2Proof.Machine.execMigrationStart group tier stack s
  | .migrationSwitch group => Sys2Proof.Machine.execMigrationSwitch group s
  | .migrationAbandon group => Sys2Proof.Machine.execMigrationAbandon group s
  | .tirRelease ag v => Sys2Proof.Machine.execTirRelease ag v s
  | .trnInv ag v => Sys2Proof.Machine.execTrnInv ag v s
  | .rangeAck unit => Sys2Proof.Machine.execRangeAck unit s
  | .trnInvDone => Sys2Proof.Machine.execTrnInvDone s
  | .copy q sn unit first n => Sys2Proof.Machine.execCopy q sn unit first n s
  | .fill q sn unit first n => Sys2Proof.Machine.execFill q sn unit first n s
  | .place q sn unit first n => Sys2Proof.Machine.execPlace q sn unit first n s
  | .sectorRebuild group chunk failed => Sys2Proof.Machine.execSectorRebuild group chunk failed s
  | .deepTierScrub errs => Sys2Proof.Machine.execDeepTierScrub errs s
  | .dtcInjOneSector ag n => Sys2Proof.Machine.execDtcInjOneSector ag n s
  | .dtcInjThreeSectors ag n => Sys2Proof.Machine.execDtcInjThreeSectors ag n s
  | .dtcInjClassASector ag n => Sys2Proof.Machine.execDtcInjClassASector ag n s
  | .batch q sn => Sys2Proof.Machine.execBatch q sn s
  | .item q sn => Sys2Proof.Machine.execItem q sn s
  | .intakeError det => Sys2Proof.Machine.execIntakeError det s
  | .itkInjHuffmanParity ag => Sys2Proof.Machine.execItkInjHuffmanParity ag s
  | .itkInjTransformResidue ag => Sys2Proof.Machine.execItkInjTransformResidue ag s
  | .itkInjEccOneBit ag => Sys2Proof.Machine.execItkInjEccOneBit ag s
  | .itkInjEccTwoBits ag => Sys2Proof.Machine.execItkInjEccTwoBits ag s
  | .bar0AccessRefused link offset size write => Sys2Proof.Machine.execBar0AccessRefused link offset size write s
  | .map ag entry => Sys2Proof.Machine.execMap ag entry s
  | .todevice ag entry => Sys2Proof.Machine.execTodevice ag entry s
  | .toshared ag entry => Sys2Proof.Machine.execToshared ag entry s
  | .unmap ag entry => Sys2Proof.Machine.execUnmap ag entry s
  | .biaCmdComplete => Sys2Proof.Machine.execBiaCmdComplete s
  | .hostSnoop link addr kind => Sys2Proof.Machine.execHostSnoop link addr kind s
  | .flushingRead link => Sys2Proof.Machine.execFlushingRead link s
  | .completionTimeout link q sn slot => Sys2Proof.Machine.execCompletionTimeout link q sn slot s
  | .unsupportedRequest link q sn slot => Sys2Proof.Machine.execUnsupportedRequest link q sn slot s
  | .perstHigh link => Sys2Proof.Machine.execPerstHigh link s
  | .dlActive link width speed cxl => Sys2Proof.Machine.execDlActive link width speed cxl s
  | .recoveryEntered link => Sys2Proof.Machine.execRecoveryEntered link s
  | .l0Regained link => Sys2Proof.Machine.execL0Regained link s
  | .hostReset link perst => Sys2Proof.Machine.execHostReset link perst s
  | .tmbNow path => Sys2Proof.Machine.execTmbNow path s
  | .ptmDialog link host t1 t4 turn frac ok => Sys2Proof.Machine.execPtmDialog link host t1 t4 turn frac ok s
  | .ppsOut => Sys2Proof.Machine.execPpsOut s
  | .todTx => Sys2Proof.Machine.execTodTx s
  | .tmbOutctl ag v => Sys2Proof.Machine.execTmbOutctl ag v s
  | .hlkInjFlitCrc ag n => Sys2Proof.Machine.execHlkInjFlitCrc ag n s
  | .hlkInjCompletionTimeout ag n => Sys2Proof.Machine.execHlkInjCompletionTimeout ag n s
  | .hlkInjForcedRecovery ag n => Sys2Proof.Machine.execHlkInjForcedRecovery ag n s
  | .strandFlitCrc bundle dir lane => Sys2Proof.Machine.execStrandFlitCrc bundle dir lane s
  | .laneParityAlarm bundle dir lane out => Sys2Proof.Machine.execLaneParityAlarm bundle dir lane out s
  | .stlInjLaneParity ag bundle dir lane => Sys2Proof.Machine.execStlInjLaneParity ag bundle dir lane s
  | .stlInjFlitCrc ag bundle dir lane => Sys2Proof.Machine.execStlInjFlitCrc ag bundle dir lane s
  | .portTraining port => Sys2Proof.Machine.execPortTraining port s
  | .noLock port => Sys2Proof.Machine.execNoLock port s
  | .uncorrectableCodewords port => Sys2Proof.Machine.execUncorrectableCodewords port s
  | .lockRegained port => Sys2Proof.Machine.execLockRegained port s
  | .retrainFail port => Sys2Proof.Machine.execRetrainFail port s
  | .hwpPinjUncorrectableCodeword ag n => Sys2Proof.Machine.execHwpPinjUncorrectableCodeword ag n s
  | .hwpPinjCrcError ag n => Sys2Proof.Machine.execHwpPinjCrcError ag n s
  | .hwpPinjForcedRetrain ag n => Sys2Proof.Machine.execHwpPinjForcedRetrain ag n s
  | .por => Sys2Proof.Machine.execPor s
  | .pin low => Sys2Proof.Machine.execPin low s
  | .rscRst ag v => Sys2Proof.Machine.execRscRst ag v s
  | .wdog => Sys2Proof.Machine.execWdog s
  | .escal => Sys2Proof.Machine.execEscal s
  | .therm clear => Sys2Proof.Machine.execTherm clear s
  | .supply clear => Sys2Proof.Machine.execSupply clear s
  | .debug => Sys2Proof.Machine.execDebug s
  | .resetRelease b => Sys2Proof.Machine.execResetRelease b s
  | .optload c1 c2 => Sys2Proof.Machine.execOptload c1 c2 s
  | .bootWindowWrite link offset data => Sys2Proof.Machine.execBootWindowWrite link offset data s
  | .go ag => Sys2Proof.Machine.execGo ag s
  | .abort ag => Sys2Proof.Machine.execAbort ag s
  | .verifyResult => Sys2Proof.Machine.execVerifyResult s
  | .selfReady => Sys2Proof.Machine.execSelfReady s
  | .secAttcmd ag => Sys2Proof.Machine.execSecAttcmd ag s
  | .secRevoke ag v => Sys2Proof.Machine.execSecRevoke ag v s
  | .kick ag v => Sys2Proof.Machine.execKick ag v s
  | .fltQhead ag h => Sys2Proof.Machine.execFltQhead ag h s
  | .ovfClear ag => Sys2Proof.Machine.execOvfClear ag s
  | .windowClose dom inst => Sys2Proof.Machine.execWindowClose dom inst s
  | .dieRecovery die failed isolated => Sys2Proof.Machine.execDieRecovery die failed isolated s
  | .moduleRecovery beats failed isolated => Sys2Proof.Machine.execModuleRecovery beats failed isolated s
  | .partnerLost addr port => Sys2Proof.Machine.execPartnerLost addr port s
  | .unitWatchdog unit => Sys2Proof.Machine.execUnitWatchdog unit s
  | .coreWatchdog core => Sys2Proof.Machine.execCoreWatchdog core s
  | .tileStoreEcc addr two case q sn slot => Sys2Proof.Machine.execTileStoreEcc addr two case q sn slot s
  | .fltInjUnitWatchdog ag target => Sys2Proof.Machine.execFltInjUnitWatchdog ag target s
  | .fltInjTileStoreOneBit ag target => Sys2Proof.Machine.execFltInjTileStoreOneBit ag target s
  | .fltInjTileStoreTwoBits ag target => Sys2Proof.Machine.execFltInjTileStoreTwoBits ag target s
  | .fltInjTcrc ag target => Sys2Proof.Machine.execFltInjTcrc ag target s
  | .fltInjRfmAlarm ag target => Sys2Proof.Machine.execFltInjRfmAlarm ag target s
  | .fltInjLaneLockLoss ag target => Sys2Proof.Machine.execFltInjLaneLockLoss ag target s
  | .fltInjHostUr ag target => Sys2Proof.Machine.execFltInjHostUr ag target s
  | .fltInjOffset ag target => Sys2Proof.Machine.execFltInjOffset ag target s
  | .fltInjCoreWatchdog ag target => Sys2Proof.Machine.execFltInjCoreWatchdog ag target s
  | .fltInjQueueTwoBits ag target => Sys2Proof.Machine.execFltInjQueueTwoBits ag target s
  | .fltInjFuse ag target => Sys2Proof.Machine.execFltInjFuse ag target s
  | .wake input pwrEn perst0 perst1 => Sys2Proof.Machine.execWake input pwrEn perst0 perst1 s
  | .railsInRegulation => Sys2Proof.Machine.execRailsInRegulation s
  | .rampTimeout => Sys2Proof.Machine.execRampTimeout s
  | .railFault rail => Sys2Proof.Machine.execRailFault rail s
  | .pwrEnFall => Sys2Proof.Machine.execPwrEnFall s
  | .pwrOff ag v => Sys2Proof.Machine.execPwrOff ag v s
  | .inputBelow40v => Sys2Proof.Machine.execInputBelow40v s
  | .conversionOff => Sys2Proof.Machine.execConversionOff s
  | .latchoffExit input cycled => Sys2Proof.Machine.execLatchoffExit input cycled s
  | .pwrCaphost ag v => Sys2Proof.Machine.execPwrCaphost ag v s
  | .pwrCapbmc ag v => Sys2Proof.Machine.execPwrCapbmc ag v s
  | .capfail p10 => Sys2Proof.Machine.execCapfail p10 s
  | .mzloss n => Sys2Proof.Machine.execMzloss n s
  | .sensorReading t => Sys2Proof.Machine.execSensorReading t s
  | .thermalTrip part temp => Sys2Proof.Machine.execThermalTrip part temp s
  | .tripClear => Sys2Proof.Machine.execTripClear s
  | .cagePresence cage pos low => Sys2Proof.Machine.execCagePresence cage pos low s
  | .cageOvercurrent cage => Sys2Proof.Machine.execCageOvercurrent cage s
  | .setdasa addr => Sys2Proof.Machine.execSetdasa addr s
  | .entdaa addr => Sys2Proof.Machine.execEntdaa addr s
  | .extest => Sys2Proof.Machine.execExtest s
  | .idcode => Sys2Proof.Machine.execIdcode s
  | .samplePreload => Sys2Proof.Machine.execSamplePreload s
  | .dbgauth random req key sig => Sys2Proof.Machine.execDbgauth random req key sig s
  | .dbgacc code arg v => Sys2Proof.Machine.execDbgacc code arg v s
  | .bypass => Sys2Proof.Machine.execBypass s
  | .pwrInjInputAlert ag target => Sys2Proof.Machine.execPwrInjInputAlert ag target s
  | .pwrInjInputFault ag target => Sys2Proof.Machine.execPwrInjInputFault ag target s
  | .pwrInjRailFault ag target => Sys2Proof.Machine.execPwrInjRailFault ag target s
  | .pwrInjCapfail ag target => Sys2Proof.Machine.execPwrInjCapfail ag target s
  | .pwrInjHot ag target => Sys2Proof.Machine.execPwrInjHot ag target s
  | .pwrInjTrip ag target => Sys2Proof.Machine.execPwrInjTrip ag target s
  | .pwrInjHbmHot ag target => Sys2Proof.Machine.execPwrInjHbmHot ag target s
  | .pwrInjCoolant ag target => Sys2Proof.Machine.execPwrInjCoolant ag target s
  | .pwrInjSensor ag target => Sys2Proof.Machine.execPwrInjSensor ag target s
  | .pwrInjMezzanine ag target => Sys2Proof.Machine.execPwrInjMezzanine ag target s
  | .mailboxResponse m => Sys2Proof.Machine.execMailboxResponse m s
  | .tirReleaseDone => Sys2Proof.Machine.execTirReleaseDone s
  | .attestationQuote => Sys2Proof.Machine.execAttestationQuote s
  | .mezzanineSupplyReturn n => Sys2Proof.Machine.execMezzanineSupplyReturn n s
  | .globalObservation link q sn => Sys2Proof.Machine.execGlobalObservation link q sn s

end Sys2Proof.Machine
end

