-- ==== Sys2Proof/Safety.lean ====
section
/-! DEFINITION. What the claims speak of: the canonical forms that a sound state keeps, what a command that writes registers leaves alone, who sends a
command, and the injection that a command arms. -/

namespace Sys2Proof.Machine

/-- A copy that its core may not share: modified or exclusive (R411). -/
def Copy.alone (c : Copy) : Bool := c.st == .m || c.st == .e

/-- A line as the directory may hold it (R410, R411): every copy holds the 64 bytes of the line, no core holds two copies, at most one copy is dirty, and a
modified or exclusive copy is the only one. -/
def Line.sound (l : Line) : Prop :=
  (∀ c ∈ l.copies, c.bytes.length = 64) ∧ (l.copies.map Copy.core).Nodup ∧ (l.copies.filter (fun c => c.st == .m || c.st == .o)).length ≤ 1 ∧
    ∀ c ∈ l.copies, c.alone = true → l.copies = [c]

/-- Every line that the directory holds is as it may be. -/
def linesSound (t : Tab (Option Line)) : Prop := ∀ e ∈ t, ∀ l, e.2 = some l → l.sound

/-- A sound state: memory and control space in canonical form, so that states that read alike are equal data, every cached line sound, and the last
fault records, at most 16 of 8 words (R550), kept for RSC_KEEP. -/
def State.sound (s : State) : Prop := Memory.wf s.mem = true ∧ Tab.wf resetWord s.regs = true ∧ linesSound s.dirLines ∧
  s.keep.length ≤ 16 ∧ ∀ r ∈ s.keep, r.length = 8

/-- `t` is `s` but for the registers at the listed addresses. -/
def regsOnly (s t : State) (as : List Nat) : Prop := { t with regs := s.regs } = s ∧ ∀ a, a ∉ as → t.rd a = s.rd a

/-- Does the op hold in its state's list of ops, and no other entry hold its queue and serial? -/
def State.holds (s : State) (o : OpRec) : Prop := s.op? o.q o.s = some o

/-- An injection that a command asks for: its sender, whether the instance it names exists, and what is armed (R178). -/
structure Injection where
  ag     : Agent
  ok     : Bool
  reg    : Nat
  kind   : Nat
  target : Nat
  deriving DecidableEq, Repr

/-- The injection commands of chapters 5 to 20, each with the register, kind and target that it arms. -/
def injectionOf (i : Instr) : Option Injection :=
  match i with
  | .mxeInjColumnResidue ag n quad col => some ⟨ag, decide (n < 16), Reg.mxeInj n, 1, quad * 256 + col⟩
  | .mxeInjWeightRegisterParity ag n quad => some ⟨ag, decide (n < 16), Reg.mxeInj n, 2, quad⟩
  | .mxeInjAStreamParity ag n quad => some ⟨ag, decide (n < 16), Reg.mxeInj n, 3, quad⟩
  | .mxeInjTurnLoaderParity ag n quad => some ⟨ag, decide (n < 16), Reg.mxeInj n, 4, quad⟩
  | .mxeAccinjOneBit ag n quad => some ⟨ag, decide (n < 16), Reg.mxeAccinj n, 1, quad⟩
  | .mxeAccinjTwoBits ag n quad => some ⟨ag, decide (n < 16), Reg.mxeAccinj n, 2, quad⟩
  | .vxeInjTqEccOneBit ag n => some ⟨ag, decide (n < 16), Reg.vxeInj n, 1, 0⟩
  | .vxeInjTqEccTwoBits ag n => some ⟨ag, decide (n < 16), Reg.vxeInj n, 2, 0⟩
  | .vxeInjLaneParity ag n => some ⟨ag, decide (n < 16), Reg.vxeInj n, 3, 0⟩
  | .vxeInjPermuteParity ag n => some ⟨ag, decide (n < 16), Reg.vxeInj n, 4, 0⟩
  | .asqInjDirEccOneBit ag n => some ⟨ag, decide (n < 4), Reg.asqInj n, 1, 0⟩
  | .asqInjDirEccTwoBits ag n => some ⟨ag, decide (n < 4), Reg.asqInj n, 2, 0⟩
  | .asqInjExponentParity ag n => some ⟨ag, decide (n < 4), Reg.asqInj n, 3, 0⟩
  | .asqInjGatherParity ag n => some ⟨ag, decide (n < 4), Reg.asqInj n, 4, 0⟩
  | .stmInjLaneResidue ag n => some ⟨ag, decide (n < 4), Reg.stmInj n, 1, 0⟩
  | .stmInjTermParity ag n => some ⟨ag, decide (n < 4), Reg.stmInj n, 2, 0⟩
  | .stmInjGatherParity ag n => some ⟨ag, decide (n < 4), Reg.stmInj n, 3, 0⟩
  | .uuInjDatapathResidue ag n => some ⟨ag, decide (n < 16), Reg.uuInj n, 1, 0⟩
  | .uuInjRecordParity ag n => some ⟨ag, decide (n < 16), Reg.uuInj n, 2, 0⟩
  | .uuInjEncoderParity ag n => some ⟨ag, decide (n < 16), Reg.uuInj n, 3, 0⟩
  | .hbcInjWOneSymbol ag n pc => some ⟨ag, true, Reg.hbcInj n, 1, pc⟩
  | .hbcInjWFourSymbols ag n pc => some ⟨ag, true, Reg.hbcInj n, 2, pc⟩
  | .hbcInjACrc ag n pc => some ⟨ag, true, Reg.hbcInj n, 3, pc⟩
  | .hbcInjReadoutFailure ag n => some ⟨ag, true, Reg.hbcInj n, 4, 0⟩
  | .mscInjOneBit ag n => some ⟨ag, true, Reg.mscInj n, 1, 0⟩
  | .mscInjTwoBits ag n => some ⟨ag, true, Reg.mscInj n, 2, 0⟩
  | .rigCdinjL2OneBit ag group => some ⟨ag, true, Reg.cdinj, 1, group⟩
  | .rigCdinjL2TwoBits ag group => some ⟨ag, true, Reg.cdinj, 2, group⟩
  | .rigCdinjL3TwoBits ag group => some ⟨ag, true, Reg.cdinj, 3, group⟩
  | .rigCdinjDirectory ag group => some ⟨ag, true, Reg.cdinj, 4, group⟩
  | .rigCdinjDeadAgent ag group => some ⟨ag, true, Reg.cdinj, 5, group⟩
  | .dtcInjOneSector ag n => some ⟨ag, true, Reg.dtcInj n, 1, 0⟩
  | .dtcInjThreeSectors ag n => some ⟨ag, true, Reg.dtcInj n, 2, 0⟩
  | .dtcInjClassASector ag n => some ⟨ag, true, Reg.dtcInj n, 3, 0⟩
  | .itkInjHuffmanParity ag => some ⟨ag, true, Reg.itkInj, 1, 0⟩
  | .itkInjTransformResidue ag => some ⟨ag, true, Reg.itkInj, 2, 0⟩
  | .itkInjEccOneBit ag => some ⟨ag, true, Reg.itkInj, 3, 0⟩
  | .itkInjEccTwoBits ag => some ⟨ag, true, Reg.itkInj, 4, 0⟩
  | .hlkInjFlitCrc ag n => some ⟨ag, true, Reg.hlkInj n, 1, 0⟩
  | .hlkInjCompletionTimeout ag n => some ⟨ag, true, Reg.hlkInj n, 2, 0⟩
  | .hlkInjForcedRecovery ag n => some ⟨ag, true, Reg.hlkInj n, 3, 0⟩
  | .stlInjLaneParity ag bundle dir lane => some ⟨ag, true, Reg.stlInj, 1, 128 * bundle + 64 * dir + lane⟩
  | .stlInjFlitCrc ag bundle dir lane => some ⟨ag, true, Reg.stlInj, 2, 128 * bundle + 64 * dir + lane⟩
  | .hwpPinjUncorrectableCodeword ag n => some ⟨ag, true, Reg.pinj n, 1, 0⟩
  | .hwpPinjCrcError ag n => some ⟨ag, true, Reg.pinj n, 2, 0⟩
  | .hwpPinjForcedRetrain ag n => some ⟨ag, true, Reg.pinj n, 3, 0⟩
  | .fltInjUnitWatchdog ag target => some ⟨ag, true, Reg.fltInj, 1, target⟩
  | .fltInjTileStoreOneBit ag target => some ⟨ag, true, Reg.fltInj, 2, target⟩
  | .fltInjTileStoreTwoBits ag target => some ⟨ag, true, Reg.fltInj, 3, target⟩
  | .fltInjTcrc ag target => some ⟨ag, true, Reg.fltInj, 4, target⟩
  | .fltInjRfmAlarm ag target => some ⟨ag, true, Reg.fltInj, 5, target⟩
  | .fltInjLaneLockLoss ag target => some ⟨ag, true, Reg.fltInj, 6, target⟩
  | .fltInjHostUr ag target => some ⟨ag, true, Reg.fltInj, 7, target⟩
  | .fltInjOffset ag target => some ⟨ag, true, Reg.fltInj, 8, target⟩
  | .fltInjCoreWatchdog ag target => some ⟨ag, true, Reg.fltInj, 9, target⟩
  | .fltInjQueueTwoBits ag target => some ⟨ag, true, Reg.fltInj, 10, target⟩
  | .fltInjFuse ag target => some ⟨ag, true, Reg.fltInj, 11, target⟩
  | .pwrInjInputAlert ag _ => some ⟨ag, true, Reg.pwrInj, 1, 0⟩
  | .pwrInjInputFault ag _ => some ⟨ag, true, Reg.pwrInj, 2, 0⟩
  | .pwrInjRailFault ag _ => some ⟨ag, true, Reg.pwrInj, 3, 0⟩
  | .pwrInjCapfail ag _ => some ⟨ag, true, Reg.pwrInj, 4, 0⟩
  | .pwrInjHot ag target => some ⟨ag, true, Reg.pwrInj, 5, target⟩
  | .pwrInjTrip ag target => some ⟨ag, true, Reg.pwrInj, 6, target⟩
  | .pwrInjHbmHot ag target => some ⟨ag, true, Reg.pwrInj, 7, target⟩
  | .pwrInjCoolant ag _ => some ⟨ag, true, Reg.pwrInj, 8, 0⟩
  | .pwrInjSensor ag target => some ⟨ag, true, Reg.pwrInj, 9, target⟩
  | .pwrInjMezzanine ag _ => some ⟨ag, true, Reg.pwrInj, 10, 0⟩
  | _ => none

/-- The agent that sends a command, where the command is a write to control space. -/
def sender (i : Instr) : Option Agent :=
  match i with
  | .registerWrite ag _ _ _ => some ag
  | .getInfo ag _ _ => some ag
  | .setPipeline ag _ _ => some ag
  | .getPipeline ag _ _ => some ag
  | .setSliplim ag _ _ => some ag
  | .setMargin ag _ _ => some ag
  | .readPlan ag _ _ => some ag
  | .clearCounters ag _ _ => some ag
  | .rebase ag _ _ => some ag
  | .rigWctl ag _ _ => some ag
  | .trippedClear ag _ => some ag
  | .mxeColmap ag _ _ => some ag
  | .mxeInjColumnResidue ag _ _ _ => some ag
  | .mxeInjWeightRegisterParity ag _ _ => some ag
  | .mxeInjAStreamParity ag _ _ => some ag
  | .mxeInjTurnLoaderParity ag _ _ => some ag
  | .mxeAccinjOneBit ag _ _ => some ag
  | .mxeAccinjTwoBits ag _ _ => some ag
  | .vxeInjTqEccOneBit ag _ => some ag
  | .vxeInjTqEccTwoBits ag _ => some ag
  | .vxeInjLaneParity ag _ => some ag
  | .vxeInjPermuteParity ag _ => some ag
  | .asqDirclr ag _ => some ag
  | .asqInjDirEccOneBit ag _ => some ag
  | .asqInjDirEccTwoBits ag _ => some ag
  | .asqInjExponentParity ag _ => some ag
  | .asqInjGatherParity ag _ => some ag
  | .stmInjLaneResidue ag _ => some ag
  | .stmInjTermParity ag _ => some ag
  | .stmInjGatherParity ag _ => some ag
  | .uuInjDatapathResidue ag _ => some ag
  | .uuInjRecordParity ag _ => some ag
  | .uuInjEncoderParity ag _ => some ag
  | .hbcInjWOneSymbol ag _ _ => some ag
  | .hbcInjWFourSymbols ag _ _ => some ag
  | .hbcInjACrc ag _ _ => some ag
  | .hbcInjReadoutFailure ag _ => some ag
  | .mscInjOneBit ag _ => some ag
  | .mscInjTwoBits ag _ => some ag
  | .release ag => some ag
  | .rigCdinjL2OneBit ag _ => some ag
  | .rigCdinjL2TwoBits ag _ => some ag
  | .rigCdinjL3TwoBits ag _ => some ag
  | .rigCdinjDirectory ag _ => some ag
  | .rigCdinjDeadAgent ag _ => some ag
  | .tirRelease ag _ => some ag
  | .trnInv ag _ => some ag
  | .dtcInjOneSector ag _ => some ag
  | .dtcInjThreeSectors ag _ => some ag
  | .dtcInjClassASector ag _ => some ag
  | .itkInjHuffmanParity ag => some ag
  | .itkInjTransformResidue ag => some ag
  | .itkInjEccOneBit ag => some ag
  | .itkInjEccTwoBits ag => some ag
  | .map ag _ => some ag
  | .todevice ag _ => some ag
  | .toshared ag _ => some ag
  | .unmap ag _ => some ag
  | .tmbOutctl ag _ => some ag
  | .hlkInjFlitCrc ag _ => some ag
  | .hlkInjCompletionTimeout ag _ => some ag
  | .hlkInjForcedRecovery ag _ => some ag
  | .stlInjLaneParity ag _ _ _ => some ag
  | .stlInjFlitCrc ag _ _ _ => some ag
  | .hwpPinjUncorrectableCodeword ag _ => some ag
  | .hwpPinjCrcError ag _ => some ag
  | .hwpPinjForcedRetrain ag _ => some ag
  | .rscRst ag _ => some ag
  | .go ag => some ag
  | .abort ag => some ag
  | .secAttcmd ag => some ag
  | .secRevoke ag _ => some ag
  | .kick ag _ => some ag
  | .fltQhead ag _ => some ag
  | .ovfClear ag => some ag
  | .fltInjUnitWatchdog ag _ => some ag
  | .fltInjTileStoreOneBit ag _ => some ag
  | .fltInjTileStoreTwoBits ag _ => some ag
  | .fltInjTcrc ag _ => some ag
  | .fltInjRfmAlarm ag _ => some ag
  | .fltInjLaneLockLoss ag _ => some ag
  | .fltInjHostUr ag _ => some ag
  | .fltInjOffset ag _ => some ag
  | .fltInjCoreWatchdog ag _ => some ag
  | .fltInjQueueTwoBits ag _ => some ag
  | .fltInjFuse ag _ => some ag
  | .pwrOff ag _ => some ag
  | .pwrCaphost ag _ => some ag
  | .pwrCapbmc ag _ => some ag
  | .pwrInjInputAlert ag _ => some ag
  | .pwrInjInputFault ag _ => some ag
  | .pwrInjRailFault ag _ => some ag
  | .pwrInjCapfail ag _ => some ag
  | .pwrInjHot ag _ => some ag
  | .pwrInjTrip ag _ => some ag
  | .pwrInjHbmHot ag _ => some ag
  | .pwrInjCoolant ag _ => some ag
  | .pwrInjSensor ag _ => some ag
  | .pwrInjMezzanine ag _ => some ag
  | _ => none

end Sys2Proof.Machine
end

