-- ==== Sys2Proof/Certificates/Slice0/Obligations.lean ====
section
/-! DEFINITION. The statements for the provers. -/

open Sys2Proof Sys2Proof.Machine

/-! ### The machine as a whole -/

/-- A step runs the command at the front of the queue on the rest of the state. On an empty queue the block idles (the model's choice, log entry 2). -/
def Obligations.StepRunsTheFrontCommand : Prop :=
  (∀ (c : Instr) (cs : List Instr) (s : State), step { s with pending := c :: cs } = exec c { s with pending := cs }) ∧
  (∀ s : State, s.pending = [] → step s = .next s)

/-- No command of the table faults or is refused, in any state. -/
def Obligations.NoCommandStops : Prop := ∀ (c : Instr) (s : State), ∃ t, exec c s = .next t

/-- The state right after reset is sound, and no command waits in it. -/
def Obligations.ResetIsSound : Prop := State.reset.sound ∧ State.reset.pending = []

/-- Every step keeps soundness: memory and control space stay in canonical form, and every cached copy stays a whole line. -/
def Obligations.StepKeepsSoundness : Prop := ∀ s t : State, s.sound → step s = .next t → t.sound

/-- Every step takes exactly the front command off the queue, and no command adds one. -/
def Obligations.StepTakesOneCommand : Prop := ∀ s t : State, step s = .next t → t.pending = s.pending.tail

/-- What is written reads back. A field of a register: every other field of it and every other register is as before, and nothing but control space changes.
Bytes of memory: every other byte reads as before, and the canonical form is kept. -/
def Obligations.WritesReadBack : Prop :=
  (∀ (s : State) (a hi lo v : Nat), lo ≤ hi → hi < 64 →
    (s.put a hi lo v).fld a hi lo = v % 2 ^ (hi + 1 - lo) ∧
    (∀ h l, h < lo ∨ hi < l → l ≤ h → h < 64 → (s.put a hi lo v).fld a h l = s.fld a h l) ∧
    regsOnly s (s.put a hi lo v) [a]) ∧
  (∀ (s : State) (a : Nat) (bs : List Byte), Memory.wf s.mem = true →
    Memory.wf (s.poke a bs).mem = true ∧ { (s.poke a bs) with mem := s.mem } = s ∧
    ∀ b, (s.poke a bs).byte b = if a ≤ b ∧ b < a + bs.length then bs.getD (b - a) 0 else s.byte b)

/-! ### Who may command -/

/-- A MOVE op reaches no control space: whatever it sends there has no effect (R445, check 5, and R7). -/
def Obligations.MoveOpsReachNoControlSpace : Prop := ∀ (c : Instr) (s : State), sender c = some .move → exec c s = .next s

/-- Injection registers take writes from the rigging cores alone. -/
def Obligations.OnlyRiggingCoresInject : Prop :=
  ∀ (c : Instr) (i : Injection) (s : State), injectionOf c = some i → i.ag ≠ .rig → exec c s = .next s

/-- An injection command of a rigging core, for an instance that exists, arms its detector in the current beat and changes nothing else. 65,536 beats after it
was armed an injection has expired, unrecorded; KIND 11 of FLT_INJ waits for its fuse sense. -/
def Obligations.InjectionArmsItsDetector : Prop :=
  (∀ (c : Instr) (i : Injection) (s : State), injectionOf c = some i → i.ag = .rig → i.ok = true →
    ∃ t, exec c s = .next t ∧ t.armed = s.armed ++ [⟨i.reg, i.kind, i.target, s.beat⟩] ∧ { t with armed := s.armed } = s) ∧
  (∀ s : State, ∃ t, exec .injectionExpiry s = .next t ∧ { t with armed := s.armed } = s ∧
    ∀ a : Armed, a ∈ t.armed ↔ a ∈ s.armed ∧ (s.beat < a.beat + 65536 ∨ (a.reg = Reg.fltInj ∧ a.kind = 11)))

/-! ### Queues -/

/-- The distance of a serial from another, modulo 2^32. -/
def Sys2Proof.Machine.ahead (a b : Nat) : Nat := (a + 2 ^ 32 - b) % 2 ^ 32

/-- RIG_QTAIL takes a doorbell's value where both distances fit the ring; any other doorbell sets DBERR alone (R45). -/
def Obligations.DoorbellRule : Prop :=
  ∀ (q : Nat) (t : BitVec 32) (s : State),
    let fits := s.enabled q = true ∧ s.flushing q = false ∧ ahead t.toNat (s.fld (Reg.qtail q) 31 0) ≤ s.ringEntries q ∧
      ahead t.toNat (s.fld (Reg.qhead q) 31 0) ≤ s.ringEntries q
    (fits → ∃ u, exec (.doorbell q t) s = .next u ∧ u.fld (Reg.qtail q) 31 0 = t.toNat ∧
      u.fld (Reg.qtail q) 63 32 = s.fld (Reg.qtail q) 63 32 ∧ regsOnly s u [Reg.qtail q]) ∧
    (¬ fits → ∃ u, exec (.doorbell q t) s = .next u ∧ u.flag (Reg.qstat q) 2 = true ∧ regsOnly s u [Reg.qstat q])

/-- Enabling and disabling a queue (Table 2.10): EN follows, a failed check leaves it 0 with CFGERR, and no other register changes. -/
def Obligations.QueueEnableRule : Prop :=
  ∀ (q : Nat) (s : State),
    (s.enabled q = false → s.flushing q = true ∨ s.queueOk q = true → ∃ u, exec (.enSet q) s = .next u ∧ u.enabled q = true ∧
      u.fld (Reg.qctl q) 63 1 = s.fld (Reg.qctl q) 63 1 ∧ regsOnly s u [Reg.qctl q]) ∧
    (s.enabled q = false → s.flushing q = false → s.queueOk q = false → ∃ u, exec (.enSet q) s = .next u ∧ u.flag (Reg.qstat q) 4 = true ∧
      regsOnly s u [Reg.qstat q]) ∧
    (s.enabled q = true → exec (.enSet q) s = .next s) ∧
    (∃ u, exec (.enClear q) s = .next u ∧ u.enabled q = false ∧ u.fld (Reg.qctl q) 63 1 = s.fld (Reg.qctl q) 63 1 ∧ regsOnly s u [Reg.qctl q])

/-- FLUSH, its end, and RESUME (Table 2.10), in the model's shared operations: what each clears, cancels, releases and retires; and the end of a wait at
take-in (R53). A flush that is not at its end goes on with the cancelled slots that waited for a page. -/
def Obligations.QueueControlRule : Prop :=
  ∀ (q : Nat) (s : State),
    (s.flushing q = false → ∃ u v,
        u = { (s.putBit (Reg.qstat q) 5 true) with waits := s.waits.filter (fun w => w.q != q), recFail := s.recFail.filter (· != q) } ∧ v = u.cancelOps q u.ops ∧
      exec (.flush q) s = .next ((v.cancelSlots q (v.fld (Reg.qhead q) 31 0) (ahead (v.fld (Reg.qtail q) 31 0) (v.fld (Reg.qhead q) 31 0))).syncQ q)) ∧
    (s.flushDone q = true → ∃ u v w, u = (((s.releaseAll q (s.ops.length + 1)).putBit (Reg.qstat q) 5 false).putBit (Reg.qstat q) 1 false).putBit (Reg.qstat q) 6 false ∧
      v = (u.put (Reg.qhead q) 31 0 (u.fld (Reg.qtail q) 31 0)).put (Reg.qdone q) 31 0 (u.fld (Reg.qtail q) 31 0) ∧
      w = { v with ops := v.ops.filter (fun o => !(o.q == q && o.record == RecPhase.written)) } ∧
      exec (.flushEnd q) s = .next
        ((if w.enabled q && !w.queueOk q then (w.putBit (Reg.qctl q) 0 false).putBit (Reg.qstat q) 4 true else w).noteDeps.syncQ q)) ∧
    (s.flushDone q = false → s.flushing q = true → exec (.flushEnd q) s = .next ((s.cancelRest q).syncQ q)) ∧
    (s.enabled q = true → s.qHalted q = true → s.flushing q = false → ∃ u, u = (s.putBit (Reg.qstat q) 1 false).putBit (Reg.qstat q) 6 false ∧
      exec (.resume q) s = .next ((State.release { u with recFail := s.recFail.filter (· != q) } q).noteDeps.syncQ q)) ∧
    (∃ u, exec (.producerTakenIn q) s = .next u ∧ { u with waits := s.waits } = s ∧
      ∀ w : WaitRec, w ∈ u.waits ↔ w ∈ s.waits ∧ ¬ (w.q = q ∧ before w.s (s.fld (Reg.qhead w.prod) 31 0) = true))

/-- A RUNNING queue with a descriptor submitted takes in the one at RIG_QHEAD, read from its slot (R44, R51), after the errors and the armed injections that
the read meets (R404); a slot that cannot be read is recorded and halts the queue with RINGERR (R49), and one in a page that waits is not taken in yet (R501). -/
def Obligations.TakeInReadsTheSlotAtHead : Prop :=
  ∀ (q : Nat) (errs : List (Nat × Nat)) (s t : State) (sn a : Nat) (told : Bool), s.mayTake q = true → sn = s.fld (Reg.qhead q) 31 0 → a = s.slotAddr q sn →
    t = (s.unitErrors (some (q, sn, s.qctx q)) errs).meetReads (some (q, sn, s.qctx q)) [(0, a, 64)] →
    told = (t.told errs || !(s.mark a == .poison) && t.mark a == .poison) →
    (∀ ws, t.readWords a 8 = .ok ws → exec (.takeIn q errs) s = .next (t.takeDesc q sn (s.qctx q) (descOf ws) told)) ∧
    (∀ f, f ≠ .wait → t.readWords a 8 = .error f →
      exec (.takeIn q errs) s = .next ((t.ringRecord f a (some (q, sn, s.qctx q)) told).ringFails q sn (failStatus f 0).1)) ∧
    (t.readWords a 8 = .error .wait → exec (.takeIn q errs) s = .next t)

/-! ### Ops -/

/-- The state after an op has started in the current beat, `e` being the op then; every other op and all else are as before. -/
def Sys2Proof.Machine.startedAs (s t : State) (o e : OpRec) : Prop :=
  t.op? o.q o.s = some e ∧ (∀ q sn, (q, sn) ≠ (o.q, o.s) → t.op? q sn = s.op? q sn) ∧ { t with ops := s.ops, journal := s.journal } = s

/-- An op with work starts when its dependencies let it (R54, R55); of a cascade op that moves nothing over a port the work begins with that (R60), of any
other with its first piece. A WAIT starts, and begins, in the beat after its dependencies were satisfied (R42). -/
def Obligations.OpsStart : Prop :=
  ∀ (q sn : Nat) (s : State) (o u : OpRec), s.op? q sn = some o → o.phase = .taken → s.startable o = true →
    u = { o with phase := .started, aux := o.aux.set (fun _ => 0) 208 s.beat } →
    ((o.d.cls, o.d.op) ≠ (0, 1) → o.noWork = false → s.depStarts o 0 = true → s.depStarts o 1 = true →
      ∃ t, exec (.opStart q sn) s = .next t ∧ startedAs s t o (if o.stays then u.begin s.beat else u)) ∧
    (o.d.collective = true → s.depStarts o 0 = true → s.depStarts o 1 = true →
      ∃ t, exec (.collectiveAdmit q sn) s = .next t ∧ startedAs s t o (if o.stays then u.begin s.beat else u)) ∧
    (o.d.cls = 0 → o.d.op = 1 → s.depPast o = true → s.depsOk o = true → ∃ t, exec (.wait q sn) s = .next t ∧ startedAs s t o (u.begin s.beat))

/-- An op without work starts and ends in one beat, the one after its dependencies were satisfied (R36, R623): NOP with OK, any other with ZERO_WORK. One
that asks for no histogram stands ended there with BEATS 1 and that status, outside the cascade and the reductions, which have more to do at an end. -/
def Obligations.OpsWithoutWorkEndAtOnce : Prop :=
  ∀ (q sn : Nat) (s : State) (o : OpRec), s.op? q sn = some o → o.phase = .taken → s.startable o = true → s.depPast o = true → s.depsOk o = true →
    (o.d.cls = 0 → o.d.op = 0 → exec (.nop q sn) s = .next (s.startIdle o stOk) ∧
      (o.noWork = true → exec (.opStart q sn) s = .next (s.startIdle o stOk)) ∧
      (o.obj 6 = none → o.begun = false → ∃ t e, exec (.nop q sn) s = .next t ∧ t.op? q sn = some e ∧ e.phase = .ended ∧ e.status = stOk ∧ e.detail = 0 ∧
        e.startB = s.beat ∧ e.endB = s.beat ∧ e.beats = 1)) ∧
    (o.noWork = true → (o.d.cls, o.d.op) ≠ (0, 1) → (o.d.cls, o.d.op) ≠ (0, 0) → exec (.opStart q sn) s = .next (s.startIdle o stZero) ∧
      (o.obj 6 = none → o.begun = false → o.d.cascade = false → o.d.cls ≠ 7 → ∃ t e, exec (.opStart q sn) s = .next t ∧ t.op? q sn = some e ∧
        e.phase = .ended ∧ e.status = stZero ∧ e.detail = 0 ∧ e.startB = s.beat ∧ e.endB = s.beat ∧ e.beats = 1))

/-- An op outside the cascade and the reductions that ends well, having started, stands ended with that status, in the current beat, after the beats since its
work began, or none where it had not begun (R60, R62). -/
def Obligations.EndedOpHoldsItsOutcome : Prop :=
  ∀ (s : State) (o : OpRec) (status detail : Nat), s.holds o → o.phase = .started → status < 0x100 → o.d.cascade = false → o.d.cls ≠ 7 →
    ∃ e, (s.endOp o.q o.s status detail).op? o.q o.s = some e ∧ e.phase = .ended ∧ e.status = status ∧ e.detail = detail ∧ e.endB = s.beat ∧
      e.startB = (if o.begun then o.startB else s.beat) ∧ e.beats = (if o.begun then min (s.beat + 1 - o.startB) 0xFFFFFF else 0) ∧
      e.tiles = o.tiles ∧ (e.record = o.record ∨ e.record = .ready)

/-- A WAIT's read, once a beat, after the errors that the read finds: the WAIT ends well at or above its threshold, and with WAIT_TIMEOUT once EXT0 beats
have passed below it; also while a class A detection or a page keeps the read from being made (R42). -/
def Obligations.WaitPollsItsWord : Prop :=
  ∀ (q sn : Nat) (errs : List (Nat × Nat)) (s u : State) (o : OpRec) (x : Obj), s.op? q sn = some o → o.obj 0 = some x →
    o.d.cls = 0 → o.d.op = 1 → o.phase = .started → o.aux.get (fun _ => 0) 0 < s.beat + 1 → u = s.unitErrors (some (q, sn, o.ctx)) errs →
    (∀ bs t, u.tagCheck (u.reader o) x 0 0 0 = .ok () → u.readObj x 0 8 = .ok bs →
      t = u.mapOp o.q o.s (fun p => { p with aux := p.aux.set (fun _ => 0) 0 (u.beat + 1) }) →
      (o.d.par 1 * 2 ^ 32 + o.d.par 2 ≤ ofBytes bs → t.waitOver o = false →
        exec (.waitRead q sn errs) s = .next (t.endOp o.q o.s o.goodStatus.1 o.goodStatus.2)) ∧
      (t.waitOver o = true ∨ ofBytes bs < o.d.par 1 * 2 ^ 32 + o.d.par 2 ∧ o.d.ext 0 ≠ 0xFFFFFFFF ∧ o.startB + o.d.ext 0 ≤ t.beat →
        exec (.waitRead q sn errs) s = .next (t.endOp o.q o.s stWaitTimeout 0)) ∧
      (ofBytes bs < o.d.par 1 * 2 ^ 32 + o.d.par 2 → t.waitOver o = false → o.d.ext 0 = 0xFFFFFFFF ∨ t.beat < o.startB + o.d.ext 0 →
        exec (.waitRead q sn errs) s = .next t)) ∧
    (∀ f, f = .classA ∨ f = .wait → u.tagCheck (u.reader o) x 0 0 0 = .error f ∨ u.tagCheck (u.reader o) x 0 0 0 = .ok () ∧ u.readObj x 0 8 = .error f →
      exec (.waitRead q sn errs) s = .next (if u.waitOver o then u.endOp o.q o.s stWaitTimeout 0 else u))

/-- A record that is next on its queue enters slot CRTAIL of a ring with room, with the phase bit of its lap (R48, Table 2.12); what follows a written
record then takes place. -/
def Obligations.CompletionRecordEntersTheRing : Prop :=
  ∀ (q sn : Nat) (s t : State) (o : OpRec), s.op? q sn = some o → o.record = .ready →
    (s.ready.filter (fun r => r.1 == q)).head? = some (q, sn) → s.recFail.contains q = false → s.crUsed q ≠ s.crEntries q →
    s.writeRing o.windows (s.fld (Reg.qcr q) 43 12 * 4096 + 32 * (s.fld (Reg.qcrptr q) 31 0 % s.crEntries q))
      (wordBytes (o.recordWords ((s.fld (Reg.qcrptr q) 31 0 / s.crEntries q + 1) % 2))) = .ok t →
    exec (.completionRecord q sn) s = .next (t.recorded o)

/-! ### Pieces and beats -/

/-- The piece of an op is `p` after the event, and nothing but the pieces has changed. -/
def Sys2Proof.Machine.pieceNow (s t : State) (p : PieceRec) : Prop :=
  t.piece? p.q p.s p.idx = some p ∧ { t with pieces := s.pieces } = s ∧
    ∀ q sn idx, (q, sn, idx) ≠ (p.q, p.s, p.idx) → t.piece? q sn idx = s.piece? q sn idx

/-- The op as an op not yet cut is planned for: with the cut that the command gives it (R83). -/
def Sys2Proof.Machine.OpRec.cutAs (o : OpRec) (split : List Part) : OpRec := if o.split.isEmpty then { o with split := split } else o

/-- The life of a piece up to its start. Where plan order, its unit, its hint and its inputs admit it, a part of an op is planned: the piece enters the plan with
the planned beat, the cost and the earliest beat that R78 gives it, and the op's cut is fixed (R83, R86, R87). A planned piece is committed once its planned beat is
within BEAT_HORIZON (R80), while its unit is in service and holds no open work of others (R76). Staging of an operand from where it stands is noted (R149). A
committed piece that no earlier one on its unit forestalls starts, when its inputs are ready, its unit is free and what it reads first can be read (R81). -/
def Obligations.PiecesArePlannedAndStarted : Prop :=
  (∀ (q sn idx unit e : Nat) (split : List Part) (s t u : State) (o p : OpRec) (x : Part), s.op? q sn = some o → p = o.cutAs split → p.split[idx]? = some x →
    s.rebaseNow = false → s.plannable p = true → s.cutPiece p idx = none → (o.split = [] → s.cutOk p = true) → s.kindDead p x.kind = false →
    t = s.mapOp q sn (fun y => { y with split := p.split }) → t.inputBeat p (some x) = some e → t.overPlanned ⟨p, idx, x.kind, e⟩ = false →
    s.unitFits p x unit = true → u = (s.bindPlanes p x unit).trimPlanes p → u.residentHold p x unit = false → s.hintLets p x unit e = true →
    s.planClass p e < 3 ∨ s.bubbleOpen unit x.dir = true →
    unit = 255 ∨ (s.planFigures p x unit e).1 ≤ s.capacity unit ∨ (s.planFigures p x unit e).1 = s.partCost p x (p.split.map Part.runs).flatten →
    exec (.piecePlan q sn split idx unit) s = .next (u.planOn p x idx unit e) ∧
    ∃ y, y ∈ (u.planOn p x idx unit e).pieces ∧ y.q = p.q ∧ y.s = p.s ∧ y.idx = idx ∧ y.unit = unit ∧ y.part = x ∧ y.phase = .planned ∧
      y.planned = (u.planFigures p x unit e).2.2.2) ∧
  (∀ (q sn idx : Nat) (s : State) (p : PieceRec) (o : OpRec), s.piece? q sn idx = some p → s.op? q sn = some o → p.phase = .planned →
    s.withinHorizon p.planned = true → s.recovering 6 0 = false → s.rebaseNow = false → (s.unitIn p.unit || o.anyService p.part.kind) = true →
    s.unitOpen p = true → ∃ t, exec (.pieceCommit q sn idx) s = .next t ∧
      pieceNow { s with lastBeat := t.lastBeat } t { p with phase := .committed, atCommit := p.planned, cyc := s.fld Reg.beatCyc 15 0 } ∧
      t.lastBeat = (if p.unit = 255 then s.lastBeat else s.lastBeat.set (fun _ => 0) (2 * p.unit + p.dir) (p.planned + 1))) ∧
  (∀ (q sn idx role die : Nat) (path : List Nat) (s u : State) (p : PieceRec) (o : OpRec) (a : Obj) (from_ : List Nat), s.piece? q sn idx = some p →
    s.opAny q sn = some o → unitDie p.unit = some die → o.obj role = some a → p.phase = .planned ∨ p.phase = .committed →
    (o.stageRoles p.part).contains role = true → o.atWork p = true → s.operandReady o p.part role a = true →
    (∀ v ∈ path, 152 ≤ v ∧ v < 184) → from_ = (s.operandPlaces o p.part role).filterMap id →
    (∀ b ∈ from_, b = die ∨ ∃ v ∈ path, s.unitIn v = true ∧ (bundleJoins v 0 b die = true ∨ bundleJoins v 1 b die = true)) →
    u = path.foldl (fun s v => s.meetStrand (v - 152)) s → exec (.staging q sn idx role path) s = .next
      (u.mapPiece q sn idx (fun y => { y with staged := y.staged.filter (· != role) ++ [role], lower := y.lower || from_.contains 4 }))) ∧
  (∀ (q sn idx vxe : Nat) (errs : List (Nat × Nat)) (s u v w : State) (p : PieceRec) (o : OpRec), s.piece? q sn idx = some p → s.opAny q sn = some o →
    s.rebaseNow = false → s.couldStart o p = true → s.unitFree o p = true → s.firstInLine p = true → s.vxeOk o p vxe = true →
    (if o.d.cls = 7 ∧ o.d.op = 0 then s.seqJoin o else some s) = some u → v = (u.unitErrors (some (q, sn, o.ctx)) errs).pieceReads o p →
    (v.piece? q sn idx).isSome = true → v.readFirst o p = (w, true) →
    exec (.pieceStart q sn idx errs vxe) s = .next (w.runPiece o p vxe))

/-- A running piece whose work is done ends: what its end does for its op takes place, its unit's offset and slip counters follow its lateness (R92, R93),
its op's SLIP does (R94), its cycles are counted, its own counts join its op's histogram record (R217, R225), a unit left idle clears BUSY, and ops that have
reached their end end. -/
def Obligations.PiecesEnd : Prop :=
  ∀ (q sn idx cyc : Nat) (waitTier waitData : Bool) (s : State) (p : PieceRec) (o : OpRec), s.piece? q sn idx = some p → s.opAny q sn = some o →
    p.phase = .running → s.rebaseNow = false → s.noProgress p = false → s.pieceDone o p = true →
    let late := s.beat - p.planned
    let cause := s.slipCause p waitTier waitData
    let rose := decide (s.offset (2 * p.unit + p.dir) < late) && p.unit != 255
    ∃ u v w x, u = (if p.unit = 255 then s.endPart o p else (s.endPart o p).slip p cause late) ∧
      v = u.mapOp q sn (fun y => { y with slips := max y.slips (u.beat - p.atCommit), late := y.late || (rose && cause == 0) }) ∧
      w = (match busyReg p.unit with
        | some r => v.bump r 63 0 cyc
        | none => v) ∧
      x = (w.mapPiece q sn idx (fun y => { y with phase := .ended, hist := [] })).addHist q sn (((w.piece? q sn idx).map PieceRec.hist).getD []) ∧
      exec (.pieceEnd q sn idx cyc waitTier waitData) s = .next (State.settle (x.cond
        (!x.pieces.any (fun y => y.unit == p.unit && y.phase == PiecePhase.running) && (decide (p.unit < 56) || p.unit == 184))
        (fun y => y.putBit (unitStat p.unit) 0 false)))

/-- The next beat of a module that does not leave UNALIGNED: BEAT_NOW advances by one (R73) and module time stands at the next multiple of 1,000 ns
(R71); no other register changes. -/
def Obligations.BeatAdvancesByOne : Prop :=
  ∀ s : State, s.alignSet = false → s.nextBeat.rd Reg.beatNow = s.rd Reg.beatNow + 1 ∧ s.nextBeat.ns = (s.ns / 1000 + 1) * 1000 ∧
    s.nextBeat.frac = 0 ∧ { s.nextBeat with regs := s.regs, ns := s.ns, frac := s.frac } = s ∧
    ∀ a, a ≠ Reg.beatNow → s.nextBeat.rd a = s.rd a

/-- A beat boundary in READY (R71): a re-base that an offset asked for a beat before takes place (R96), the watch slots resolve the beat (R136), a new margin
(R108) and the power rules take effect, BEAT_NOW advances, armed events of the module come, and ops that have reached their end end. Between the boundary and
the work of the next beat RE_BASE performs a re-base that is due. A re-base by D beats (R96): every planned beat rises by D, every offset falls by D, to no less
than 0, REBASES counts it, and none is due any more; for a table of offsets in canonical form that lists units of Table 3.2 alone, as every step keeps it. -/
def Obligations.BeatBoundaryRule : Prop :=
  (∀ (p1 p10 p1000 inv : Nat) (s : State),
    (s.start = 5 → ∃ r u v w, r = (if s.rebaseNow then s.rebaseBy s.largestOffset else s).watchBoundary ∧
      u = (match r.marginNext with
        | none => r
        | some m => { (r.recap (fun s => s.put Reg.beatMargin 8 0 m)) with marginNext := none }) ∧
      v = (u.powerBoundary p1 p10 p1000 inv).nextBeat ∧
      w = { v with alignDue := v.alignDue + 1, rebaseNow := v.rebaseDue, sincePg := v.sincePg + 1, beatFaults := [],
                   ppsHigh := v.ppsHigh && decide (v.ns < v.ppsFall), outRun := v.outRun % 4 + 4 * v.fld Reg.tmbOutctl 2 2 } ∧
      exec (.beatBoundary p1 p10 p1000 inv) s = .next
        (((if w.armed.isEmpty then w else w.flitErrors.forcedRecoveries.forcedRetrains.rfmAlarms.lockLosses.forcedExpiries).msixExpire).noteDeps.settle)) ∧
    (s.rebaseNow = true → exec .reBase s = .next (s.rebaseBy s.largestOffset))) ∧
  (∀ (s : State) (d : Nat), Tab.wf (fun _ => 0) s.offsets = true → (∀ e ∈ s.offsets, e.1 < 370) → ∃ t, t = s.rebaseBy d ∧
    t.pieces = s.pieces.map (fun p => if p.phase = .ended then p else { p with planned := p.planned + d }) ∧
    (∀ k, t.offset k = s.offset k - d) ∧ t.rebaseDue = false ∧ t.rebaseNow = false ∧ t.rd Reg.beatNow = s.rd Reg.beatNow ∧
    t.fld Reg.beatStat 63 32 = satAdd 32 (s.fld Reg.beatStat 63 32) 1)

/-- The watch slots are privileged (R134): a write of RIG_WCTL, and a clear of TRIPPED, from BAR0 or a rigging core waits for the beat boundary (R136, R138);
the same from any other agent has no effect. -/
def Obligations.WatchWritesWaitForTheBoundary : Prop :=
  ∀ (ag : Agent) (slot : Nat) (v : Word) (s : State), slot < 8 →
    (Who.barRig.admits ag = true →
      (∃ t, exec (.rigWctl ag slot v) s = .next t ∧ t.wctlNext.get (fun _ => none) slot = some v ∧
        (∀ k, k ≠ slot → t.wctlNext.get (fun _ => none) k = s.wctlNext.get (fun _ => none) k) ∧ { t with wctlNext := s.wctlNext } = s) ∧
      (∃ t, exec (.trippedClear ag slot) s = .next t ∧ t.tripClear = s.tripClear ++ [slot] ∧ { t with tripClear := s.tripClear } = s)) ∧
    (Who.barRig.admits ag = false → exec (.rigWctl ag slot v) s = .next s ∧ exec (.trippedClear ag slot) s = .next s)

/-! ### Mailboxes -/

/-- A command has entered mailbox `m`: BUSY is set, and the Rigger will answer with this result and value. -/
def Sys2Proof.Machine.mailed (s t : State) (m : Nat) (seq : BitVec 16) (result value : Nat) : Prop :=
  t.mailbox = s.mailbox ++ [⟨m, seq.toNat, result, value⟩] ∧ t.flag (Reg.mbxStat m) 0 = true

/-- A command has entered mailbox `m`, with this answer to come, and has done nothing else. -/
def Sys2Proof.Machine.mailedOnly (s t : State) (m : Nat) (seq : BitVec 16) (result value : Nat) : Prop :=
  mailed s t m seq result value ∧ regsOnly s { t with mailbox := s.mailbox } [Reg.mbxStat m]

/-- Mailbox `m` takes a command of this agent: it exists, it is not BUSY, and mailbox 1 only while the coherent domain runs. -/
def Sys2Proof.Machine.mailTakes (s : State) (ag : Agent) (m : Nat) : Prop :=
  ag ≠ .move ∧ m < 2 ∧ (m = 1 → s.fld Reg.cdstat 1 0 = 0) ∧ s.flag (Reg.mbxStat m) 0 = false

/-- The mailbox commands of Table 3.11 that read or set values (R88, R98, R104, R108), in a mailbox that takes them: what each changes, and the result and value
of its answer; the commands turned away, with none of their effect; and the order of the errors of SET_PIPELINE, which is the model's choice (log entry 152). -/
def Obligations.MailboxCommandsActAndAnswer : Prop :=
  ∀ (ag : Agent) (m : Nat) (seq : BitVec 16) (s : State) (v : Nat) (p : Pipe), mailTakes s ag m → v = s.mbArg m 0 63 0 →
    p = ⟨s.mbArg m 1 63 48, s.mbArg m 1 47 32, s.mbArg m 1 31 0, s.mbArg m 2 15 0⟩ →
    (∃ t, exec (.getInfo ag m seq) s = .next t ∧ mailedOnly s t m seq mbDone Config.firmwareVersion.toNat) ∧
    (1 ≤ v → v ≤ 65535 → ∃ t, exec (.setSliplim ag m seq) s = .next t ∧ mailed s t m seq mbDone 0 ∧ t.fld Reg.beatSliplim 15 0 = v ∧
      t.rebaseDue = (s.rebaseDue || decide (v < s.largestOffset)) ∧
      regsOnly s { t with mailbox := s.mailbox, rebaseDue := s.rebaseDue } [Reg.mbxStat m, Reg.beatSliplim]) ∧
    (v = 0 ∨ 65535 < v → ∃ t, exec (.setSliplim ag m seq) s = .next t ∧ mailedOnly s t m seq mbBadArg 0) ∧
    (v ≤ 500 → ∃ t, exec (.setMargin ag m seq) s = .next t ∧ mailed s t m seq mbDone 0 ∧ t.marginNext = some v ∧
      regsOnly s { t with mailbox := s.mailbox, marginNext := s.marginNext } [Reg.mbxStat m]) ∧
    (500 < v → ∃ t, exec (.setMargin ag m seq) s = .next t ∧ mailedOnly s t m seq mbBadArg 0) ∧
    ((0 < p.stages ∧ p.stages ≤ 4096 ∧ p.stage < p.stages ∧ 0 < p.micro ∧ p.micro ≤ 2048 ∧ p.mode ≤ 1) →
      (v ≤ 4095 → s.ctxBusy v = false → ∃ t, exec (.setPipeline ag m seq) s = .next t ∧ mailed s t m seq mbDone 0 ∧ t.pipe v = p ∧
        (∀ c, c ≠ v → t.pipe c = s.pipe c) ∧ regsOnly s { t with mailbox := s.mailbox, pipes := s.pipes } [Reg.mbxStat m]) ∧
      (4095 < v → ∃ t, exec (.setPipeline ag m seq) s = .next t ∧ mailedOnly s t m seq mbNoContext 0) ∧
      (v ≤ 4095 → s.ctxBusy v = true → ∃ t, exec (.setPipeline ag m seq) s = .next t ∧ mailedOnly s t m seq mbRefused 0)) ∧
    (¬ (0 < p.stages ∧ p.stages ≤ 4096 ∧ p.stage < p.stages ∧ 0 < p.micro ∧ p.micro ≤ 2048 ∧ p.mode ≤ 1) →
      ∃ t, exec (.setPipeline ag m seq) s = .next t ∧ mailedOnly s t m seq mbBadArg 0) ∧
    (v ≤ 4095 → ∃ t, exec (.getPipeline ag m seq) s = .next t ∧ mailed s t m seq mbDone (s.lowestMb v (s.pipe v).micro 0) ∧
      t.rd (Reg.mbxArg m 1) = word [(48, (s.pipe v).stages), (32, (s.pipe v).stage), (0, (s.pipe v).micro)] ∧
      t.rd (Reg.mbxArg m 2) = word [(0, (s.pipe v).mode)] ∧ regsOnly s { t with mailbox := s.mailbox } [Reg.mbxStat m, Reg.mbxArg m 1, Reg.mbxArg m 2]) ∧
    (4095 < v → ∃ t, exec (.getPipeline ag m seq) s = .next t ∧ mailedOnly s t m seq mbNoContext 0) ∧
    (∃ t, exec (.clearCounters ag m seq) s = .next t ∧ mailed s t m seq mbDone 0 ∧ t.rd Reg.hintMiss = 0 ∧
      ∀ k, k < 185 → t.rd (Reg.sliptab0 k) = 0 ∧ t.fld (Reg.sliptab1 k) 63 16 = 0)

/-- BUSY and the answer (R107): a command written while BUSY = 1 is ignored and sets COLL, whatever the command; the response that ends a command writes
RIG_MBXRSP whole and clears BUSY, and then the interrupt goes out if it is enabled: of mailbox 0 by its vector, of mailbox 1 to the core that CDCTL names. The
mailbox commands that act on the plan. REBASE re-bases by the largest offset, which it answers (R98, R108). READ_PLAN writes a record of each committed piece of
the context, in order of unit and planned beat, as many as the buffer takes, and answers their number (Table 3.11; that and the running pieces among them are
the model's choice, log entry 153); a context or a buffer that it cannot take is refused. -/
def Obligations.MailboxBusyResponseAndPlan : Prop :=
  (∀ (ag : Agent) (m : Nat) (seq : BitVec 16) (s : State), ag ≠ .move → m < 2 → (m = 1 → s.fld Reg.cdstat 1 0 = 0) →
    s.flag (Reg.mbxStat m) 0 = true →
    ∀ c ∈ [Instr.getInfo ag m seq, .setPipeline ag m seq, .getPipeline ag m seq, .setSliplim ag m seq, .setMargin ag m seq, .readPlan ag m seq,
           .clearCounters ag m seq, .rebase ag m seq],
      ∃ t, exec c s = .next t ∧ t.flag (Reg.mbxStat m) 1 = true ∧ regsOnly s t [Reg.mbxStat m]) ∧
  (∀ (m : Nat) (s v : State) (x : MbxRec), s.mailbox.find? (fun y => y.m == m) = some x → s.recovering 6 0 = false →
    v = (({ s with mailbox := s.mailbox.eraseP (fun y => y.m == m) } : State).wr (Reg.mbxRsp m)
      (word [(48, x.result), (32, x.seq), (0, x.value % 2 ^ 32)])).putBit (Reg.mbxStat m) 0 false →
    (s.flag (Reg.mbxStat m) 2 = false → ∃ t, exec (.mailboxResponse m) s = .next t ∧
      t.rd (Reg.mbxRsp m) = word [(48, x.result), (32, x.seq), (0, x.value % 2 ^ 32)] ∧
      t.flag (Reg.mbxStat m) 0 = false ∧ t.mailbox = s.mailbox.eraseP (fun y => y.m == m) ∧
      regsOnly s { t with mailbox := s.mailbox } [Reg.mbxRsp m, Reg.mbxStat m]) ∧
    (v.flag (Reg.mbxStat m) 2 = true → m = 0 → exec (.mailboxResponse m) s = .next (v.signal (v.fld (Reg.mbxStat 0) 26 16))) ∧
    (v.flag (Reg.mbxStat m) 2 = true → m ≠ 0 → v.fld Reg.cdstat 1 0 = 0 → exec (.mailboxResponse m) s = .next
      { v with coreIrq := v.coreIrq ++ [(v.fld Reg.cdctl 55 50, v.fld Reg.cdctl 49 39)] })) ∧
  (∀ (ag : Agent) (m : Nat) (seq : BitVec 16) (s u : State) (c a n : Nat), mailTakes s ag m → u = s.putBit (Reg.mbxStat m) 0 true →
    c = s.mbArg m 0 63 0 → a = s.mbArg m 1 63 0 → n = s.mbArg m 2 63 0 →
    exec (.rebase ag m seq) s = .next
      { (u.rebaseBy u.largestOffset) with mailbox := (u.rebaseBy u.largestOffset).mailbox ++ [⟨m, seq.toNat, mbDone, u.largestOffset⟩] } ∧
    (∀ v ps, c ≤ 4095 → a % 16 = 0 → n ≤ 2 ^ 24 → inMemRegions a (max 1 n) = true →
      ps = ((u.pieces.filter (fun p => (p.phase == PiecePhase.committed || p.phase == PiecePhase.running) && match u.opAny p.q p.s with
        | some o => o.ctx == c
        | none => false)).foldl (fun l p => insertPiece p l) []).take (n / 16) →
      u.writeMem (.plain 0) a (wordBytes (ps.map planRecord).flatten) = .ok v →
      exec (.readPlan ag m seq) s = .next { v with mailbox := v.mailbox ++ [⟨m, seq.toNat, mbDone, ps.length⟩] }) ∧
    (4095 < c → ∃ t, exec (.readPlan ag m seq) s = .next t ∧ mailedOnly s t m seq mbNoContext 0) ∧
    (c ≤ 4095 → a % 16 ≠ 0 ∨ 2 ^ 24 < n ∨ inMemRegions a (max 1 n) = false →
      ∃ t, exec (.readPlan ag m seq) s = .next t ∧ mailedOnly s t m seq mbBadArg 0))

/-! ### Work -/

/-- The command performs work units `first` to `first + n - 1` of an op at work there, one after the other, with this meaning `f` of a unit, once its unit's
detectors have met (`meet`) no armed injection that stops the unit; `after` follows. Of one unit that can be performed, the op has it among its units done. -/
def Sys2Proof.Machine.performsUnits (c : Instr) (meet : State → State × Bool) (cls op q sn unit first n : Nat)
    (f : OpRec → State → Nat → Except WorkFail (OpRec × State)) (after : State → State) : Prop :=
  ∀ (s v : State) (o : OpRec), s.worker cls op q sn unit first n = some o → meet s = (v, false) →
    exec c s = .next (after (v.perform q sn unit f first n)) ∧
    ∀ (p x : OpRec) (t : State), n = 1 → v.op? q sn = some p → f { v.view unit p with hist := [] } v first = .ok (x, t) → x.q = q → x.s = sn →
      (t.op? q sn).isSome = true → ∃ w e, exec c s = .next (after w) ∧ w.op? q sn = some e ∧ first ∈ e.done

/-- The command streams `n` groups of rows of a product of this class and code on a quad of an MXE (R143, R163); the first of them, when the quad's detectors meet
no injection that stops the MXE and the step can be made, moves the piece one step on. -/
def Sys2Proof.Machine.streamsSteps (c : Instr) (cls op q sn unit quad n : Nat) (shape : OpRec → Option (Shape × Obj)) (src : OpRec → State → Source) : Prop :=
  ∀ (s : State), exec c s = .next ((s.stream cls op q sn unit quad shape src n).settle) ∧
    ∀ (o : OpRec) (p : PieceRec) (k : Run) (x : Shape) (d : Obj) (v w : State), n = 1 → s.opAny q sn = some o → s.streamer q sn unit quad = some (p, k) →
      o.d.cls = cls → o.d.op = op → shape o = some (x, d) → s.unitIn unit = true → s.stalled.any (fun t => t.unit == unit && t.quad == quad) = false →
      s.meetQuad unit quad ((k.start + p.pos.get (fun _ => 0) quad) % bandGroups d k.r0 k.h == 0) = (v, false) →
      v.streamStep o x d p k (src (v.view unit o) v) = .ok w → exec c s = .next (State.settle { w with pieces := w.pieces.map (fun (y : PieceRec) =>
        if y.q = q ∧ y.s = sn ∧ y.idx = p.idx then { y with pos := y.pos.set (fun _ => 0) quad (y.pos.get (fun _ => 0) quad + 1) } else y) })

/-- A unit of work done well: the op has it among its units done and every running piece of the op that covers it has it among its own; the op's histogram
waits for the piece's end (R217), and all else is as the unit's own meaning left it. -/
def Obligations.WorkUnitIsRecorded : Prop :=
  ∀ (s t : State) (q sn unit u : Nat) (f : OpRec → State → Nat → Except WorkFail (OpRec × State)) (o o2 p : OpRec),
    s.op? q sn = some o → f { s.view unit o with hist := [] } s u = .ok (o2, t) → o2.q = q → o2.s = sn → t.op? q sn = some p →
    ∃ v o3, s.perform q sn unit f u 1 = v ∧ v.op? q sn = some o3 ∧ u ∈ o3.done ∧ (∀ k, k ∈ o3.done ↔ k = u ∨ k ∈ o2.done) ∧
      o3.tiles = o2.tiles ∧ o3.hist = o.hist ∧ o3.objs = p.objs ∧ { v with ops := t.ops, journal := t.journal, pieces := t.pieces } = t ∧
      (∀ y ∈ v.pieces, y.q = q → y.s = sn → y.phase = .running → y.part.first ≤ u → u < y.part.first + y.part.n → u ∈ y.did) ∧
      v.pieces.map (fun (y : PieceRec) => { y with did := [], hist := [] }) = t.pieces.map (fun (y : PieceRec) => { y with did := [], hist := [] })

/-- The vector ops perform their rows or tiles on a VXE (R228 to R235), whose lanes, and for some the permute network, meet armed injections (R239). The update,
copy and placement ops perform their units on the units of their kind: APPLY on a UU in service, to whose stack its blocks have come (R309, R321), FILL and COPY
on a VXE, a COPY without conversion on a bundle or no unit (R459, R629), PLACE on no unit (R461). -/
def Obligations.UnitsArePerformed : Prop :=
  (∀ (q sn unit first n : Nat), 16 ≤ unit → unit < 32 →
    let lanes := fun (s : State) => s.meetVxe (unit - 16) [3]
    let net := fun (s : State) => s.meetVxe (unit - 16) [3, 4]
    performsUnits (.eltwise q sn unit first n) lanes 2 0 q sn unit first n (fun o s u => rowUnit unit (o.d.ext 0) eltwiseRow o s u) id ∧
    performsUnits (.rowreduce q sn unit first n) lanes 2 1 q sn unit first n (fun o s u => rowUnit unit 1 rowreduceRow o s u) id ∧
    performsUnits (.rownorm q sn unit first n) lanes 2 2 q sn unit first n (fun o s u => rowUnit unit (o.d.ext 0) rownormRow o s u) id ∧
    performsUnits (.permute q sn unit first n) net 2 3 q sn unit first n (permuteUnit unit) id ∧
    performsUnits (.shuffle q sn unit first n) net 2 4 q sn unit first n (moveUnit unit shuffleRow) id ∧
    performsUnits (.pack q sn unit first n) lanes 2 5 q sn unit first n (packUnit unit) id ∧
    performsUnits (.unpack q sn unit first n) lanes 2 6 q sn unit first n (unpackUnit unit) id ∧
    performsUnits (.compress q sn unit first n) net 2 7 q sn unit first n (maskUnit unit compressRow) id ∧
    performsUnits (.expand q sn unit first n) net 2 8 q sn unit first n (maskUnit unit expandRow) id ∧
    performsUnits (.fill q sn unit first n) lanes 6 1 q sn unit first n (fillUnit unit) State.settle) ∧
  (∀ (q sn unit first n : Nat),
    (40 ≤ unit → unit < 56 → ∀ (s t : State) (o p : OpRec), s.flag (Reg.uuStat (unit - 40)) 1 = true → s.worker 8 0 q sn unit first n = some o →
      s.bringBlocks o (unit - 40) first n = t → t.worker 8 0 q sn unit first n = some p → ∀ v, t.meetApply q sn unit first n = (v, false) →
      exec (.apply q sn unit first n) s = .next (v.perform q sn unit (applyUnit unit) first n)) ∧
    (∀ (s : State) (o x : OpRec), s.opAny q sn = some x → x.rawCopy = true → s.worker 6 0 q sn unit first n = some o → (152 ≤ unit ∧ unit < 184) ∨ unit = 255 →
      exec (.copy q sn unit first n) s = .next ((s.perform q sn unit (copyUnit unit) first n).settle)) ∧
    (∀ (s v : State) (o x : OpRec), s.opAny q sn = some x → x.rawCopy = false → s.worker 6 0 q sn unit first n = some o → 16 ≤ unit ∧ unit < 32 →
      s.meetVxe (unit - 16) [3] = (v, false) → exec (.copy q sn unit first n) s = .next ((v.perform q sn unit (copyUnit unit) first n).settle)) ∧
    (∀ (s : State) (o : OpRec), s.worker 6 2 q sn 255 first n = some o →
      (∀ p, (s.perform q sn 255 placeUnit first n).op? q sn = some p → p.aux.get (fun _ => 0) 207 ≠ 1) →
      exec (.place q sn 255 first n) s = .next (s.perform q sn 255 placeUnit first n)))

/-- The products, the convolutions and GRAM stream on a quad of an MXE, whose paired VXE takes their tiles (R143, R161 to R163, R285, R287, R324). A stem op
streams slices of its groups on a die's stem engine (R293, R295); the first of them, where the engine's detectors meet no injection and the step can be made, moves
the piece one slice on. -/
def Obligations.ProductsStream : Prop :=
  (∀ (q sn unit quad n : Nat), unit < 16 → quad < 4 →
    streamsSteps (.matmul q sn unit unit quad n) 1 0 q sn unit quad n OpRec.matrixShape matmulSource ∧
    streamsSteps (.matmulRows q sn unit unit quad n) 1 1 q sn unit quad n OpRec.matrixShape rowsSource ∧
    streamsSteps (.matmulBlockdiag q sn unit unit quad n) 1 2 q sn unit quad n OpRec.matrixShape diagSource ∧
    streamsSteps (.convFwd q sn unit unit quad n) 4 0 q sn unit quad n OpRec.convShape convSource ∧
    streamsSteps (.convBwdData q sn unit unit quad n) 4 1 q sn unit quad n OpRec.convShape convSource ∧
    streamsSteps (.convBwdWeight q sn unit unit quad n) 4 2 q sn unit quad n OpRec.convShape convSource ∧
    streamsSteps (.gram q sn unit unit quad n) 8 1 q sn unit quad n OpRec.gramShape gramSource) ∧
  (∀ (q sn unit vxe n op : Nat) (c : Instr) (s : State),
    (c, op) ∈ [(Instr.stemFwd q sn unit vxe n, 0), (.stemBwdData q sn unit vxe n, 1), (.stemBwdWeight q sn unit vxe n, 2)] → 36 ≤ unit → unit < 40 → vxe / 4 = unit - 36 →
    s.pieces.any (fun p => p.q == q && p.s == sn && p.unit == unit && p.phase == PiecePhase.running && p.vxe == vxe) = true →
    exec c s = .next ((s.stemStream op q sn unit n).settle) ∧
    ∀ (o : OpRec) (p : PieceRec) (x : Shape) (d : Obj) (g k : Nat) (v w : State), n = 1 → s.opAny q sn = some o →
      s.pieces.find? (fun p => p.q == q && p.s == sn && p.unit == unit && p.phase == PiecePhase.running && !p.failed && !s.noProgress p) = some p →
      o.d.cls = 5 → o.d.op = op → o.convShape = some (x, d) → p.stemNext x.per = some (g, k) → s.unitIn unit = true →
      s.stalled.any (fun t => t.unit == unit) = false → s.meetStem (unit - 36) = (v, false) →
      v.stemStep o x d p g k (convSource (v.view unit o) v) = .ok w → exec c s = .next (State.settle { w with pieces := w.pieces.map (fun (y : PieceRec) =>
        if y.q = q ∧ y.s = sn ∧ y.idx = p.idx then { y with pos := y.pos.set (fun _ => 0) 0 (y.pos.get (fun _ => 0) 0 + 1) } else y) }))

/-- The pairs of an attention op run step by step on an MXE with the ASQ of its die and the paired VXE (R265, R267, R269, R273): a step that their detectors let
by (R178, R276) and that can be made goes into the op, and moves its three pieces on. SEQSET performs its records on the ASQ of a die (R257), each after what
the directory's ECC meets (R276). ROOT runs the product of its running piece for each plane on the plane's quad (R325, R327): one that the quad's detectors let
by and that can be made goes into the op, whose plane may end with it (R326), and the piece has done its part for the plane. -/
def Obligations.AttentionAndRootRun : Prop :=
  (∀ (q sn unit quad n op : Nat) (c : Instr) (s : State), (c, op) ∈ [(Instr.attnFwd q sn unit quad n, 0), (.attnBwd q sn unit quad n, 1)] → unit < 16 → quad < 4 →
    exec c s = .next ((s.attRun op q sn unit quad n).settle) ∧
    ∀ (o o2 : OpRec) (p : PieceRec) (u : Nat) (v w t x : State) (ended : Bool), n = 1 → s.opAny q sn = some o → s.attPiece q sn unit = some p →
      p.attNext o = some u → o.d.cls = 3 → o.d.op = op → s.unitIn unit = true → s.unitIn (32 + unit / 4) = true → s.meetQuad unit quad true = (v, false) →
      v.meetAsq (unit / 4) = (w, false) → attStep op unit u p.part.lo { w.view unit o with hist := [] } w = .ok (ended, o2, t) →
      x = t.putOp (if ended then (({ o2 with hist := o.hist } : OpRec).didUnit u).attClose else { o2 with hist := o.hist }) →
      exec c s = .next (State.settle (State.pieceCount { x with pieces := x.pieces.map (fun (y : PieceRec) =>
        if ((t.trio p).any (fun z => z.idx == y.idx) && y.q == q && y.s == sn) = true then
          { y with pos := y.pos.set (fun _ => 0) 0 (y.pos.get (fun _ => 0) 0 + 1), did := if ended then y.did ++ [u] else y.did } else y) } q sn unit u o2.hist))) ∧
  (∀ (q sn unit first n : Nat) (s : State), 32 ≤ unit → unit < 36 →
    exec (.seqset q sn unit first n) s = .next ((List.range n).foldl (fun s k => seqsetOne q sn unit (first + k) s) s) ∧
    ∀ (o x : OpRec) (v t : State) (scx : Nat), n = 1 → s.worker 3 2 q sn unit first 1 = some o → s.op? q sn = some o → s.seqsetEntry o first = some scx →
      s.meetDir o scx = (v, false) → v.op? q sn = some o → seqsetUnit { v.view unit o with hist := [] } v first = .ok (x, t) → x.q = q → x.s = sn →
      (t.op? q sn).isSome = true → ∃ w e, exec (.seqset q sn unit first n) s = .next w ∧ w.op? q sn = some e ∧ first ∈ e.done) ∧
  (∀ (q sn unit first n : Nat) (s : State), unit < 16 →
    exec (.root q sn unit first n) s = .next (((List.range n).foldl (fun s k => s.rootRun q sn unit (first + k)) s).settle) ∧
    ∀ (o o2 : OpRec) (p : PieceRec) (v t x : State) (ended : Bool), n = 1 → s.opAny q sn = some o →
      s.pieces.find? (fun p => p.covers q sn unit first 1 && p.part.kind == 0 && !p.did.contains first && !s.noProgress p) = some p →
      o.d.cls = 8 → o.d.op = 2 → s.unitIn unit = true → o.rc schedKey ≠ [] → s.meetQuad unit (first - p.part.first) true = (v, false) →
      rootProduct unit (first - p.part.first) p.part.lo { v.view unit o with hist := [] } v first = .ok (ended, o2, t) →
      x = t.putOp (if ended then ({ o2 with hist := o.hist } : OpRec).didUnit first else { o2 with hist := o.hist }) →
      exec (.root q sn unit first n) s = .next (State.settle { x with pieces := x.pieces.map (fun (y : PieceRec) =>
        if y.q = q ∧ y.s = sn ∧ y.idx = p.idx then { y with did := y.did ++ [first] } else y) }))

/-- A finished tile enters its tile queue with its tag when an entry is free there, and else waits at its unit (R58, R148, R214): one of the two, at the end, and
no other queue's level changes. At another rank of a mirrored group than 0 it stands as a node tile instead (R364). -/
def Obligations.FinishedTileIsQueuedOrWaits : Prop :=
  (∀ (s : State) (o : OpRec) (x : Shape) (d : Obj) (unit vxe piece quad work : Nat) (bads : List Bool) (f : Nat → Nat → Node),
    ((o.mirrored && o.rank != 0) = false → o.done.contains work = false → ∃ e : TileEntry, e.vxe = vxe ∧ e.unit = unit ∧ e.q = o.q ∧ e.s = o.s ∧ e.piece = piece ∧
      e.quad = quad ∧ e.work = work ∧ e.nans = bads ∧ e.tag = s.queueTag o d (o.tileOf d work).1 (o.tileOf d work).2.1 (o.tileOf d work).2.2 ∧
      e.vals.length = d.vrows (o.tileOf d work).2.1 * d.vcols (o.tileOf d work).2.2 ∧ s.finishTile o x d unit vxe piece quad work bads f = s.feed e) ∧
    ((o.mirrored && o.rank != 0) = true → ∃ n : NodeTile, n.q = o.q ∧ n.s = o.s ∧ n.work = work ∧ n.src = s.selfAddr ∧ (n.lo, n.hi) = x.own ∧ n.unit = unit ∧
      s.finishTile o x d unit vxe piece quad work bads f =
        { s with nodes := s.nodes.filter (fun m => !(m.q == o.q && m.s == o.s && m.work == work)) ++ [n] })) ∧
  (∀ (s : State) (e : TileEntry),
    ((s.tileQ.filter (fun t => t.vxe == e.vxe)).length < tqEntries → (s.feed e).tileQ = s.tileQ ++ [e] ∧
      (s.feed e).fld (Reg.vxeStat e.vxe) 11 8 = ((s.tileQ.filter (fun t => t.vxe == e.vxe)).length + 1) % 16 ∧
      regsOnly s { s.feed e with tileQ := s.tileQ } [Reg.vxeStat e.vxe]) ∧
    (tqEntries ≤ (s.tileQ.filter (fun t => t.vxe == e.vxe)).length → s.feed e = { s with stalled := s.stalled ++ [e] }))

/-- A stopped unit's tile enters its queue once an entry is free (R148), and the stall's cycles are counted, a free value (log entry 16). The VXE serves the
oldest entry of its queue (R215), after what its detectors meet: its tile is scaled, activated, converted and written, the entry's place is free with that
(R216), the counts go to the piece that made the tile (R217), and the op and its pieces have performed it. An entry of an op that is over frees its place. -/
def Obligations.TileQueueIsServedInOrder : Prop :=
  (∀ (unit : Nat) (s : State) (e : TileEntry), s.stalled.find? (fun t => t.unit == unit) = some e →
    (s.tileQ.filter (fun t => t.vxe == e.vxe)).length < tqEntries →
    exec (.tileQueueRoom unit) s = .next
      ((({ s with tileQ := s.tileQ ++ [e], stalled := s.stalled.eraseP (fun t => t.unit == unit), free := s.free + 1 } : State).syncTq e.vxe).bump
        (Reg.vxeTqstall e.vxe) 63 0 (Config.stallCycles s.free))) ∧
  (∀ (vxe : Nat) (s : State) (e : TileEntry) (o : OpRec), s.tileQ.find? (fun t => t.vxe == vxe) = some e → s.opAny e.q e.s = some o →
    (s.entryVoid e o = true → exec (.epilogue vxe) s = .next (s.freeEntry vxe)) ∧
    (∀ (v t : State) (p x : OpRec), s.entryVoid e o = false → s.epilogueWaits e = false → s.meetVxe vxe [1, 2, 3] = (v, false) →
      epilogueTile { v.view (16 + vxe) o with hist := [] } v e = .ok (p, t) → x = ({ p with hist := o.hist } : OpRec).didUnit e.work →
      exec (.epilogue vxe) s = .next
        ((((((t.freeEntry vxe).putOp x).entryCount e p.hist).keepPlane x (vxe / 4) e.work).pieceDid e.q e.s e.work).settle)))

/-- REDUCE_ACC: a contribution joins its sequence and brings its tiles to the slices (R382, R383); a held one is added, or discarded with a broken tile,
in its turn (R383, R384). -/
def Obligations.ContributionsJoinInOrder : Prop :=
  (∀ (q sn unit first n : Nat) (s t : State) (o : OpRec), 40 ≤ unit → unit < 56 → s.worker 7 0 q sn unit first n = some o →
    s.seqJoin o = some t → exec (.reduceAcc q sn unit first n) s = .next ((t.accTilesFrom q sn unit first n).settle)) ∧
  (∀ (q sn tile u : Nat) (s : State) (o p : OpRec) (a d : Obj) (y : PieceRec), s.opAny q sn = some p → o = s.view 255 p → o.obj 0 = some a → o.obj 3 = some d →
    u = (o.accTiles.map (fun e => d.tileNo e.1 e.2.1 e.2.2)).idxOf tile → s.pieces.find? (fun p => p.covers q sn p.unit u 1) = some y →
    o.d.cls = 7 → o.d.op = 0 → u < o.accTiles.length → s.seqs.any (fun x => x.has o && x.held.contains (o.d.ord, tile)) = true →
    (s.accTurn o tile || s.accBroken o tile) = true → exec (.contributionRelease q sn tile) s = .next ((s.accTile o y.unit a d u).settle))

/-! ### The cascade -/

/-- Bucket `b` of a collective may be exchanged: it is due and not done, every partner can be reached, and every other member's part has come and agrees (R338,
R343). -/
def Sys2Proof.Machine.exchangeReady (s : State) (o : OpRec) (data : List Block) (b : Nat) : Prop :=
  o.done.contains b = false ∧ b < o.units ∧ s.unreached o = none ∧ ∀ r ∈ o.others, ∃ x, partOf o data r = some x ∧ x.extra = o.agreement

/-- The command exchanges bucket `b` of a collective of this class and code: its results are written by `f` once the pieces of the exchange run, and the bucket is
done. Without data the op's part is done with the agreement (R340). -/
def Sys2Proof.Machine.exchanges (c : Instr) (cls op q sn b : Nat) (data : List Block) (f : OpRec → State → Except WorkFail (OpRec × State)) : Prop :=
  ∀ (s : State) (o : OpRec), s.castAt cls op q sn = some o → exchangeReady s o data b →
    (o.d.noData = true → exec c s = .next ((s.mapOp q sn (fun x => { x with done := [0] })).settle)) ∧
    (∀ (p : OpRec) (t : State), o.d.noData = false → s.bucketOpen o b = true → f o s = .ok (p, t) →
      exec c s = .next (((t.putOp { p with done := p.done ++ [b] }).pieceDid q sn b).settle))

/-- The collectives, bucket by bucket (R343, R346, R347), and SYNC, whose dependencies must be satisfied and, with FENCE, R66 met (R342). Transfers between two
modules (R352, R353, R339, R340). XSEND takes its peer's ready notice, with which it must agree; after that its running pieces send the blocks of their tiles.
XRECV sends its notice once, when its dependencies are satisfied. A partner that cannot be reached, or one silent for LIMIT beats after the dependencies were
satisfied and the op started, ends the op LINK_LOST with the port toward it (R355). -/
def Obligations.CollectivesAndTransfers : Prop :=
  (∀ (q sn b : Nat) (data : List Block),
    (∀ (s : State) (o x : OpRec), s.castAt 0 2 q sn = some o → s.op? q sn = some x → s.depsOk x = true → (x.d.fence = true → s.fenceOk x = true) →
      exchangeReady s o data 0 → o.d.noData = false → s.bucketOpen o 0 = true →
      exec (.sync q sn data) s = .next (((s.putOp { o with done := o.done ++ [0] }).pieceDid q sn 0).settle)) ∧
    exchanges (.xallreduce q sn b data) 7 0x40 q sn b data (reduceAll false b data) ∧
    exchanges (.xreducescatter q sn b data) 7 0x41 q sn b data (reduceAll true b data) ∧
    exchanges (.xallgather q sn b data) 6 0x40 q sn b data (gatherAll b data)) ∧
  (∀ (q sn : Nat) (s : State) (o : OpRec),
    (∀ a n, s.castAt 6 0x41 q sn = some o → s.unreached o = none → o.obj 0 = some a → o.matched = 0 →
      s.notices.find? (fun n => n.1 == o.member o.d.peer && tagBits n.2.1 0 100 == o.castKey) = some n →
      ∀ u v, u = ({ s with notices := s.notices.filter (fun m => m != n) } : State) →
        ((tagBits n.2.1 110 32 == o.d.ext 0 && tagBits n.2.1 142 32 == o.d.ext 1 && tagBits n.2.1 174 32 == o.d.ext 2 && tagBits n.2.1 206 6 == a.fmt) = true →
          v = u.mapOp o.q o.s (fun x => { x with aux := x.aux.set (fun _ => 0) 206 (tagBits n.2.1 100 10 + 1), done := if x.d.noData then [0] else x.done }) →
          exec (.xsend q sn) s = .next ((if o.d.noData then v.sendMsg 0 (o.member o.d.peer) (wide [(0, o.castKey)]) [o.castKey] [] else v).settle)) ∧
        ((tagBits n.2.1 110 32 == o.d.ext 0 && tagBits n.2.1 142 32 == o.d.ext 1 && tagBits n.2.1 174 32 == o.d.ext 2 && tagBits n.2.1 206 6 == a.fmt) = false →
          exec (.xsend q sn) s = .next (u.castMismatch o (o.member o.d.peer)))) ∧
    (∀ a m, s.castAt 6 0x41 q sn = some o → s.unreached o = none → o.obj 0 = some a → o.matched = m + 1 → exec (.xsend q sn) s = .next
      ((s.sendTiles q sn a m (s.pieces.filter (fun p => p.q == q && p.s == sn && p.phase == .running && p.did == []))).settle)) ∧
    (s.castAt 6 0x42 q sn = some o → s.depsOk o = true → o.matched = 0 → s.unreached o = none →
      exec (.xrecv q sn) s = .next (((s.mapOp q sn (fun x => { x with aux := x.aux.set (fun _ => 0) 206 1 })).sendMsg 3
        (o.member o.d.peer) o.readyTag [] []).settle)) ∧
    (∀ a, s.unreached o = some a → (s.castAt 6 0x41 q sn = some o → exec (.xsend q sn) s = .next (s.failOp q sn stLinkLost (s.portToward a))) ∧
      (s.castAt 6 0x42 q sn = some o → s.depsOk o = true → o.matched = 0 → exec (.xrecv q sn) s = .next (s.failOp q sn stLinkLost (s.portToward a)))) ∧
    (∀ rank, s.op? q sn = some o → o.d.cascade = true → o.phase = .started → o.failing = none → s.depsOk o = true → o.d.xlimit ≠ 0 →
      max (o.depBeat.getD s.beat) (o.aux.get (fun _ => 0) 208) + o.d.xlimit ≤ s.beat →
      (if o.d.pairwise then rank = o.d.peer else rank ≠ o.rank ∧ rank < o.size) → s.announcedTo o = false →
      exec (.limit q sn rank) s = .next (s.failOp q sn stLinkLost (s.portToward (o.member rank)))))

/-- A block for this module that is accepted once (R533): the messages of Table 17.5 that carry notices (R352, R355) and acknowledgements (R534), and a RETRY
(R533). A block of a tile message adds its flits to the tile store of its port's die (R23); the one that completes the message brings the tile to the running
XRECV of its key (R339, R352, R532). A node tile for an op taken in at rank 0 likewise: one that agrees enters the accumulator store, is acknowledged and
combined (R195, R196, R534), and one with a failing TCRC is sent again (R197); one that comes before its op waits (R364). -/
def Obligations.MessagesArrive : Prop :=
  (∀ (port : Nat) (b : Block) (s t : State),
    (s.receive port 3 b = (true, t) → exec (.ready port b) s = .next { t with notices := t.notices ++ [(b.src, b.tag, port)] }) ∧
    (s.receive port 2 b = (true, t) → ∀ u, u = ({ t with sentOut := t.sentOut.eraseP (fun m => m.q == (tagOf b.tag).pq && m.s == (tagOf b.tag).ps &&
        m.typ == tagBits b.tag 192 4 && m.dst == b.src && m.name == msgName b.tag) } : State) →
      exec (.e2eack port b) s = .next ((u.settle.freshen.noteDeps).syncQ (tagOf b.tag).pq)) ∧
    (s.receive port 4 b = (true, t) →
      (t.abandoned.any (fun x => x.1 == tagBits b.tag 0 100) = true → exec (.abandon port b) s = .next (t.bump Reg.xcnt 15 0 1)) ∧
      (t.abandoned.any (fun x => x.1 == tagBits b.tag 0 100) = false →
        ∀ u, u = { (t.bump Reg.xcnt 15 0 1) with abandoned := t.abandoned ++ [(tagBits b.tag 0 100, port)] } →
        (∀ o, u.ops.find? (fun o => o.d.cascade && o.rc 5 != [] && o.phase != .ended && o.castKey == tagBits b.tag 0 100) = some o →
          exec (.abandon port b) s = .next (u.failOp o.q o.s stLinkLost port)) ∧
        (u.ops.find? (fun o => o.d.cascade && o.rc 5 != [] && o.phase != .ended && o.castKey == tagBits b.tag 0 100) = none →
          exec (.abandon port b) s = .next u))) ∧
    (s.portUp port = true → ∀ ack, exec (.retry port ack) s = .next ((s.acked port ack).resend port))) ∧
  (∀ (port : Nat) (b : Block) (s t v : State) (o : OpRec) (d : Obj), s.receive port 0 b = (true, t) →
    (t.xrecvFor b.src (b.extra.headD 0)).map (t.view (56 + port)) = some o →
    (o.d.noData = true → exec (.data port b) s = .next ((t.mapOp o.q o.s (fun x => { x with done := [0] })).settle)) ∧
    (o.d.noData = false → o.obj 3 = some d → o.lacks (tagOf b.tag) = true →
      ((t.addFlits port 0 b).takeMsg 0 b.src b.tag d.msgBytes = (none, v) → exec (.data port b) s = .next v) ∧
      (∀ tag bs, (t.addFlits port 0 b).takeMsg 0 b.src b.tag d.msgBytes = (some (tag, bs), v) →
        exec (.data port b) s = .next (v.arrive o d b.src port tag bs)))) ∧
  (∀ (port : Nat) (b : Block) (s t : State), s.receive port 1 b = (true, t) →
    (t.op? (tagOf b.tag).pq (tagOf b.tag).ps = none → before (tagOf b.tag).ps (t.fld (Reg.qhead (tagOf b.tag).pq) 31 0) = false →
      exec (.node port b) s = .next (t.addFlits port 1 b)) ∧
    (∀ (o : OpRec) (tag : BitVec 256) (bs : List Byte) (v : State) (x : Shape) (d : Obj) (lh : Nat × Nat),
      t.op? (tagOf b.tag).pq (tagOf b.tag).ps = some o → o.mirrored = true → o.rank = 0 → o.matrixShape = some (x, d) →
      (t.addFlits port 1 b).takeMsg 1 b.src b.tag (nodeTileBytes (accOf o.d.acc)) = (some (tag, bs), v) →
      lh = (mirrorCut x.slices o.size).getD (o.members.idxOf b.src) (0, 0) →
      ((tagOf tag).crcOk = true → b.extra = o.nodeHead → ∀ n : NodeTile,
        n = { src := b.src, q := o.q, s := o.s, work := o.workOf d (tagOf tag).tdep (tagOf tag).trow (tagOf tag).tcol, tag := tag, lo := lh.1, hi := lh.2,
              piece := 0, home := 255, quad := 255, unit := 255, head := b.extra, bads := [], data := bs } →
        exec (.node port b) s = .next (((({ v with nodes := v.nodes ++ [n] } : State).sendMsg 2 b.src (ackTag 1 tag) [] []).combine o x d n.work).settle)) ∧
      ((tagOf tag).crcOk = false → exec (.node port b) s = .next (((v.form
        { cls := 2, sev := 2, rtype := 0, det := 0x2A, dom := 3, inst := 32 + port, op := some (o.q, o.s, o.ctx) }).mapOp o.q o.s
          (fun x => { x with replayB := true, replays := x.replays + 1 })).forgetMsg 1 b.src tag))))

/-- Discovery on ports that are UP (R539): an ADVERT of a better candidate is taken and passed on, a JOIN is recorded at the candidate and forwarded elsewhere, an
address is taken or passed on, the fewest hops by a port are kept and better ones passed on. The election (R539, R540, R542): it closes 40 ms after the last JOIN,
NOZENITH shows after 100 ms without an ADVERT, and a lost zenith starts discovery again. -/
def Obligations.DiscoveryAndElection : Prop :=
  (∀ (port : Nat) (serial : Word) (s : State), s.portUp port = true →
    (∀ hops closed a change fresh u v w, serial.toNat ≠ s.serial → hops ≤ 16 → a = (⟨serial.toNat, hops, port, closed⟩ : Advert) →
      (∀ b, s.best = some b → a.better b = true) → (change = true ↔ ∀ b, s.best = some b → b.serial ≠ serial.toNat) →
      (fresh = true ↔ closed = true ∧ ∀ b, s.best = some b → b.closed = false ∨ b.serial ≠ serial.toNat) →
      u = ((((({ s with best := some a } : State).wr Reg.zser serial).put Reg.casc 39 35 hops).setDisc (if closed then 3 else 2)).closeKnown fresh) →
      v = (if closed then u.put Reg.casc 63 52 (u.addrs.get (fun _ => 0) serial.toNat - 1) else u) →
      w = (if change then v.flood 8 (joinTag v.serial) [port] else v) →
      exec (.advert port serial hops closed) s = .next (w.advertise (w.upPorts.filter (· != port)))) ∧
    (∀ b hops closed, s.best = some b → (⟨serial.toNat, hops, port, closed⟩ : Advert).better b = false → hops ≤ 16 → exec (.advert port serial hops closed) s = .next s) ∧
    (∀ b, s.best = some b → 96 ≤ b.port → b.closed = false → ∃ t, exec (.join port serial) s = .next t ∧
      t.joins = (if s.joins.contains serial.toNat then s.joins else s.joins ++ [serial.toNat]) ∧ t.joinAt = s.ns ∧
      t.joinPort.get (fun _ => 0) serial.toNat = port + 1 ∧ t.fld Reg.disc 59 47 = t.joins.length % 2 ^ 13 ∧
      regsOnly s { t with joins := s.joins, joinAt := s.joinAt, joinPort := s.joinPort } [Reg.disc]) ∧
    (∀ b, s.best = some b → b.port < 96 → exec (.join port serial) s = .next (State.flood
      { s with joinPort := s.joinPort.set (fun _ => 0) serial.toNat (port + 1) } 8 (joinTag serial.toNat) [b.port])) ∧
    (∀ addr, (serial.toNat ≠ s.serial → exec (.addr port serial addr) s = .next (s.sendAddr serial.toNat addr)) ∧
      (serial.toNat = s.serial → exec (.addr port serial addr) s = .next
        ((({ s with addrs := s.addrs.set (fun _ => 0) s.serial (addr + 1) } : State).setDisc 3).takeAddr addr))) ∧
    (∀ addr hops u v, u = (if hops = 1 then s.put (Reg.pstat port) 63 52 addr else s) →
      v = { u with routes := u.routes.set (fun _ => []) addr ((u.routesTo addr).filter (fun r => r.1 != port) ++ [(port,
        match (u.routesTo addr).find? (fun r => r.1 == port) with
        | some r => min r.2 hops
        | none => hops)]) } →
      exec (.route port addr hops) s = .next (if hops < (u.routesTo addr).foldl (fun m r => min m r.2) 4096 then
        v.flood 10 (routeTag addr (hops + 1)) (v.upPorts.filter (· != port)) else v))) ∧
  (∀ (s : State) (b : Advert) (t0 : Nat),
    (s.best = some b → s.upAt = some t0 → s.candidate = true → 96 ≤ b.port → b.closed = false → max t0 s.joinAt + 40000000 ≤ s.ns →
      exec .electionClose s = .next s.becomeZenith) ∧
    (s.best = none → s.upAt = some t0 → s.fld Reg.disc 63 61 < 2 → t0 + 100000000 ≤ s.ns →
      ∃ t, exec .nozenith s = .next t ∧ t.fld Reg.disc 63 61 = 5 ∧ t.fld Reg.disc 60 0 = s.fld Reg.disc 60 0 ∧ regsOnly s t [Reg.disc]) ∧
    (s.best = some b → b.closed = true → b.port < 96 →
      ∀ u v, u = (if s.alignState = 1 then s.holdover false 0 else s) →
        v = State.setDisc { u with alignOut := false, best := if u.candidate then some ⟨u.serial, 0, 128, false⟩ else none } 1 →
        exec (.zenithLost true) s = .next (if v.candidate then v.becomeZenith else v.advertise v.upPorts) ∧
        exec (.zenithLost false) s = .next (v.advertise v.upPorts)))

/-- Alignment (R358, R359, R541, Table 11.4): every 1,000 beats the module asks its upstream, with its send time; it answers a neighbour's request at once; the
answer's offset (40 ns more under FLT_INJ kind 8) corrects an ALIGNED module, sends one that is off by more than 20 ns into HOLDOVER, and steps the time of one that
leaves UNALIGNED; three offsets in a row within 2 ns take a module out of HOLDOVER. -/
def Obligations.AlignmentRule : Prop :=
  (∀ (s : State) (p : Nat) (b : Advert), s.upstream = some p → s.best = some b → b.closed = true → s.flag Reg.casc 32 = false → 1000 ≤ s.alignDue →
    exec .alignExchange s = .next
      { (s.sendBlock p 5 ⟨wide [(0, s.stamp % 2 ^ 64)], 0, 0, 0, s.selfAddr, 0, 0, false, true, [], []⟩) with alignOut := true, alignDue := 0 }) ∧
  (∀ (port : Nat) (t1 t2 t3 t4 : Int) (up : Bool) (s : State), s.portUp port = true → exec (.align port false t1 t2 t3 t4 up) s = .next (s.answerAlign port t1)) ∧
  (∀ (port : Nat) (t1 t2 t3 t4 off : Int) (up inj : Bool) (s v w u : State), s.alignOut = true → s.takeInj Reg.fltInj 8 0 = (inj, v) →
    w = { v with alignOut := false } → off = Int.tdiv ((t2 - t1) - (t4 - t3)) 2 + (if inj then 640 else 0) →
    u = { (w.put Reg.toff 31 0 (Sys2Proof.Machine.trunc 32 off)) with steer := off } →
    (s.alignState = 0 → up = true → ∃ x, x = ((w.stepTime off).put Reg.toff 31 0 (Sys2Proof.Machine.trunc 32 off)).setAlign 1 ∧
      exec (.align port true t1 t2 t3 t4 up) s = .next { x with alignSet := true, steer := off, inLock := 0 }) ∧
    (s.alignState = 0 → up = false → exec (.align port true t1 t2 t3 t4 up) s = .next w) ∧
    (s.alignState = 1 → -320 ≤ off → off ≤ 320 → exec (.align port true t1 t2 t3 t4 up) s = .next u) ∧
    (s.alignState = 1 → 320 < off ∨ off < -320 → exec (.align port true t1 t2 t3 t4 up) s = .next (u.holdover inj off)) ∧
    (s.alignState = 2 → -32 ≤ off → off ≤ 32 → s.inLock = 2 → exec (.align port true t1 t2 t3 t4 up) s = .next { (u.setAlign 1) with inLock := 0 }) ∧
    (s.alignState = 2 → -32 ≤ off → off ≤ 32 → s.inLock ≠ 2 → exec (.align port true t1 t2 t3 t4 up) s = .next { u with inLock := s.inLock + 1 }) ∧
    (s.alignState = 2 → 32 < off ∨ off < -32 → exec (.align port true t1 t2 t3 t4 up) s = .next { u with inLock := 0 }))

/-- A port (Table 17.6, R536): it trains when it may, comes UP on IDENT unless the far end is this module, with its sequence numbers at 0 and discovery starting
on it (R539), retrains on uncorrectable codewords, sends its retry buffer again when it regains lock, and goes DOWN, with its blocks sent by other ports, when
it does not. Strands: a flit CRC error counts one replay and one error of its bundle (R525), and a lane in service that alarms is tested (R529). -/
def Obligations.PortsAndStrandsFail : Prop :=
  (∀ (port : Nat) (s : State),
    (s.ready? = true → s.portState port = 0 → s.downAt.get (fun _ => 0) port = 0 ∨ s.downAt.get (fun _ => 0) port - 1 + 100000000 ≤ s.ns →
      ∃ t, exec (.portTraining port) s = .next t ∧ t.portState port = 1 ∧ regsOnly s t [Reg.pstat port]) ∧
    (s.portState port = 1 → s.recovering 3 (32 + port) = false → exec (.noLock port) s = .next
      ((s.portDown port).detect { cls := 3, sev := 2, rtype := 0, det := 0x34, dom := 3, inst := 32 + port })) ∧
    (s.portState port = 1 → s.recovering 3 (32 + port) = true → exec (.noLock port) s = .next
      ((s.portDown port).form { cls := 3, sev := 0, rtype := 3, det := 0x34, dom := 3, inst := 32 + port })) ∧
    (s.portState port = 3 → exec (.lockRegained port) s = .next ((s.setPort port 2).resend port)) ∧
    (s.portState port = 2 → ∀ inj u v w, s.takeInj (Reg.pinj port) 3 0 = (inj, u) →
      v = (if inj then u else u.bump (Reg.pcnt port) 31 16 (16 - (u.cwErr.filter (fun c => c.1 == port && decide (u.ns < c.2 + 1000000))).length)) →
      w = { ((v.setPort port 3).bump (Reg.pretry port) 31 16 1) with cwErr := v.cwErr.filter (fun c => c.1 != port) } →
      exec (.uncorrectableCodewords port) s = .next ((w.rehomeAll (56 + port) [] w.ops).form
        { cls := 3, sev := 0, rtype := 3, det := 0x34, inj := inj, dom := 3, inst := 32 + port })) ∧
    (s.portState port = 3 → ∃ u, u = { ((s.portDown port).bump (Reg.pretry port) 15 0 1) with retry := s.retry.filter (fun x => x.port != port) } ∧
      exec (.retrainFail port) s = .next
        (((u.reroute (s.retry.filter (fun x => x.port == port))).bump (Reg.pretry port) 63 32 (s.retry.filter (fun x => x.port == port)).length).detect
          { cls := 3, sev := 2, rtype := 0, det := 0x34, dom := 3, inst := 32 + port })) ∧
    (∀ farSerial farPort, s.portState port = 1 → farSerial.toNat = s.serial → exec (.ident port farSerial farPort) s = .next
      ((((s.setPort port 4).putBit (Reg.pstat port) 44 true).detect { cls := 3, sev := 2, rtype := 0, det := 0x36, dom := 3, inst := 32 + port }).resolve
        3 (32 + port) 5 0)) ∧
    (∀ farSerial farPort u v w x, s.portState port = 1 → farSerial.toNat ≠ s.serial →
      u = ((((((s.setPort port 2).put (Reg.pstat port) 51 45 farPort).wr (Reg.pfar port) farSerial).noteTime Reg.bup1 31 0).setPseq port 0).setPseq
        (96 + port) 0).setPseq (192 + port) 0 →
      v = { u with downAt := u.downAt.set (fun _ => 0) port 0, retry := u.retry.filter (fun x => x.port != port),
                   upAt := if u.upAt.isNone then some u.ns else u.upAt } →
      w = (if v.best.isNone && v.candidate then { (v.wr Reg.zser (v.rd Reg.secSerial)) with best := some ⟨v.serial, 0, 128, false⟩ } else v) →
      x = ((w.cond (w.fld Reg.disc 63 61 == 0) (fun s => s.setDisc 1)).resolve 3 (32 + port) 7 0).advertise [port] →
      exec (.ident port farSerial farPort) s = .next (if x.addrs.get (fun _ => 0) x.serial = 0 then x else x.flood 10 (routeTag x.selfAddr 1) [port]))) ∧
  (∀ (bundle dir lane : Nat) (out : SelfTest) (s u v : State) (i1 i2 : Bool),
    (s.takeInj Reg.stlInj 1 (128 * bundle + 64 * dir + lane) = (i1, u) → u.takeInj Reg.stlInj 2 (128 * bundle + 64 * dir + lane) = (i2, v) →
      exec (.strandFlitCrc bundle dir lane) s = .next (((v.bump (Reg.stlBcnt bundle) 63 32 1).bump (Reg.stlBcnt bundle) 31 16 1).countDet
        (0x31 * 65536 + bundle) { cls := 3, sev := 1, rtype := 0, det := 0x31, inj := i1 || i2, dom := 3, inst := bundle })) ∧
    (s.laneIn bundle dir lane = true → s.takeInj Reg.fltInj 6 (dir * 2048 + lane * 32 + bundle) = (i1, u) →
      exec (.laneParityAlarm bundle dir lane out) s = .next
        ((u.selfTest 3 bundle (some (64 * dir + lane)) out).2.laneOutcome i1 bundle dir lane (u.selfTest 3 bundle (some (64 * dir + lane)) out).1)))

/-! ### Memory -/

/-- A write accepted at a slice (R374, R415) is what every engine read then sees: its own bytes where it wrote, and everywhere else what was seen before,
cached dirty lines among it. A write at a slice reads first the lines that it covers in part, with the errors found there (R625). -/
def Obligations.AcceptedWritesAreSeen : Prop :=
  ∀ (addr : Nat) (data : List Byte) (s : State), s.sound → data ≠ [] → inMemRegions addr data.length = true →
    (∀ cls errs r t, r = s.unitErrors none (errs.filter (fun e => (partialUnits addr data.length).contains (e.1 / 64 * 64))) →
      r.writeMem (.plain cls) addr data = .ok t → ∃ u, exec (.mscWrite cls addr data errs) s = .next u ∧
      ∀ b, u.seen b = if addr ≤ b ∧ b < addr + data.length then data.getD (b - addr) 0 else r.seen b) ∧
    (∀ ctx t, ((List.range ((addr + data.length + 63) / 64 - addr / 64)).all (fun k => !s.mustWait ((addr / 64 + k) * 64) 1024)) = true →
      s.writeMem { Wr.plain (b2n (s.isClassA addr)) with wins := (s.hintWindows ctx).1 } addr data = .ok t → ∃ u, exec (.engineWrite ctx addr data) s = .next u ∧
      ∀ b, u.seen b = if addr ≤ b ∧ b < addr + data.length then data.getD (b - addr) 0 else s.seen b)

/-- The atomic commands of Table 12.5, as functions of the word's old value. -/
def Sys2Proof.Machine.atomicOf (addr width : Nat) (cmp v : Word) : List (Instr × (Nat → Nat)) :=
  [(.add addr width v, fun old => (old + v.toNat) % 2 ^ (8 * width)), (.and addr width v, fun old => old.land v.toNat),
   (.or addr width v, fun old => old.lor (v.toNat % 2 ^ (8 * width))), (.xor addr width v, fun old => old.xor (v.toNat % 2 ^ (8 * width))),
   (.swap addr width v, fun _ => v.toNat % 2 ^ (8 * width)),
   (.cas addr width cmp v, fun old => if old = cmp.toNat % 2 ^ (8 * width) then v.toNat % 2 ^ (8 * width) else old),
   (.smin addr width v, fun old => if sext (8 * width) old < sext (8 * width) v.toNat then old else v.toNat % 2 ^ (8 * width)),
   (.smax addr width v, fun old => if sext (8 * width) old < sext (8 * width) v.toNat then v.toNat % 2 ^ (8 * width) else old),
   (.umin addr width v, fun old => min old (v.toNat % 2 ^ (8 * width))), (.umax addr width v, fun old => max old (v.toNat % 2 ^ (8 * width)))]

/-- An atomic on a naturally aligned word that its slice can read and write returns the old value, leaves the new one, and changes no other byte that an
engine sees (R377, Table 12.5). FADD32 and FADD64 likewise, with the sum rounded once to nearest even (R377); MSC_ATOM counts them apart. A server core's
atomics to HBM or the deep tier act at the slice, whose line is recalled first (R378, R422, R423): the old value, sign-extended from 32 bits, is the
answer. -/
def Obligations.AtomicsReturnTheOldWord : Prop :=
  (∀ (addr width : Nat) (cmp v : Word) (s : State) (bs : List Byte) (c : Instr) (f : Nat → Nat), s.sound → width = 4 ∨ width = 8 →
    addr % width = 0 → inMemRegions addr 1 = true → s.readMem addr width = .ok bs → (c, f) ∈ atomicOf addr width cmp v →
    (∃ t, s.writeMem (.plain (b2n (s.isClassA addr))) addr (bytesOf width (f (ofBytes bs))) = .ok t) →
    ∃ u, exec c s = .next u ∧ u.reply = some (BitVec.ofNat 64 (ofBytes bs)) ∧
      ∀ b, u.seen b = if addr ≤ b ∧ b < addr + width then (bytesOf width (f (ofBytes bs))).getD (b - addr) 0 else s.seen b) ∧
  (∀ (addr : Nat) (v : Word) (s t : State) (bs : List Byte), inMemRegions addr 1 = true →
    (addr % 4 = 0 → s.readMem addr 4 = .ok bs → s.writeMem (.plain (b2n (s.isClassA addr))) addr (bytesOf 4 (faddBits32 v.toNat (ofBytes bs))) = .ok t →
      exec (.fadd32 addr v) s = .next
        { ((t.bump (Reg.mscAtom (t.sliceOf addr)) 63 32 1).bump (Reg.mscAtom (t.sliceOf addr)) 31 0 1) with reply := some (BitVec.ofNat 64 (ofBytes bs)) }) ∧
    (addr % 8 = 0 → s.readMem addr 8 = .ok bs → s.writeMem (.plain (b2n (s.isClassA addr))) addr (bytesOf 8 (faddBits64 v.toNat (ofBytes bs))) = .ok t →
      exec (.fadd64 addr v) s = .next
        { ((t.bump (Reg.mscAtom (t.sliceOf addr)) 63 32 1).bump (Reg.mscAtom (t.sliceOf addr)) 31 0 1) with reply := some (BitVec.ofNat 64 (ofBytes bs)) })) ∧
  (∀ (core addr old : Nat) (v : Word) (s t : State), s.coreRuns core = true → inMemRegions addr 1 = true → s.mainOk addr = true →
    s.mustWait addr core = false →
    (∀ (op width : Nat) (cmp : Word), width = 4 ∨ width = 8 → op < 10 → addr % width = 0 →
      (s.recallLine addr).atomicAt addr width false (atomicFun op width cmp.toNat v.toNat) = .ok (old, t) →
      exec (.farAtomic core op addr width cmp v) s = .next { (t.untag addr width) with reply := some (rdValue width old) }) ∧
    (addr % 4 = 0 → (s.recallLine addr).atomicAt addr 4 true (faddBits32 v.toNat) = .ok (old, t) →
      exec (.famoaddW core addr v) s = .next { (t.untag addr 4) with reply := some (rdValue 4 old) }) ∧
    (addr % 8 = 0 → (s.recallLine addr).atomicAt addr 8 true (faddBits64 v.toNat) = .ok (old, t) →
      exec (.famoaddD core addr v) s = .next { (t.untag addr 8) with reply := some (rdValue 8 old) }))

/-- A slice's own errors (R376), the refresh rate of a stack (R397, R454, Table 12.7), the patrol scrub (R398) and the sector errors of the deep tier (R457). A
channel that holds no group's slot any more leaves its stack for good (R400): the groups named above the new top are renamed, CHOUT and HBC_CAP follow, and a
record tells it. -/
def Obligations.MemoryHealthRule : Prop :=
  (∀ (s : State),
    (∀ slice set way addr two dirty inj u, slice < 17 → s.sliceOf addr = slice → inMemRegions addr 1 = true → s.mscOut.get (fun _ => false) slice = false →
      s.wayOff.get (fun _ => false) (slice * 2 ^ 20 + set * 16 + way) = false → s.takeInj (Reg.mscInj slice) (if two then 2 else 1) 0 = (inj, u) →
      ∃ f : FaultIn, f = { cls := 2, sev := if two && !s.isClassA addr && dirty then 2 else 1, rtype := 0, det := 0x25, inj := inj, dom := 2, inst := 272 + slice, addr := addr, info := way % 16 * 2 ^ 12 + set % 2 ^ 12 } ∧
        (two = false → exec (.mscEcc slice set way addr two dirty) s =
          .next ((u.bump (Reg.mscDetcnt slice) 63 48 1).countDet (2 * 1024 + 272 + slice) f)) ∧
        (two = true → ∀ v, v = u.bump (Reg.mscDetcnt slice) 47 32 1 → exec (.mscEcc slice set way addr two dirty) s = .next
          ((if v.isClassA addr then v.markLine addr .badCrc else if dirty then v.markLine addr .poison else v).detect f))) ∧
    (∀ stack t u, stack < 16 → s.takeInj (Reg.hbcInj stack) 4 0 = (false, u) → 95 ≤ t → ∃ w, exec (.temperatureReadout stack (some t)) s = .next w ∧
      w.fld (Reg.hbcStat stack) 23 22 = 2 ∧ w.fld (Reg.hbcStat stack) 31 24 = Sys2Proof.Machine.trunc 8 t ∧
      regsOnly u { w with cool := u.cool } [Reg.hbcStat stack]) ∧
    (∀ stack inj u temp, stack < 16 → s.takeInj (Reg.hbcInj stack) 4 0 = (inj, u) → inj = true ∨ temp = none →
      exec (.temperatureReadout stack temp) s = .next ((u.put (Reg.hbcStat stack) 23 22 3).detect
        { cls := 2, sev := 1, rtype := 0, det := 0x23, inj := inj, dom := 2, inst := 16 * stack })) ∧
    (∀ stack t, 16 ≤ stack → stack < 32 → exec (.temperatureReadout stack (some t)) s =
      .next (s.put (Reg.dtcStat (stack - 16)) 31 24 (Sys2Proof.Machine.trunc 8 t))) ∧
    (∀ stack errs u, stack < 16 → u = s.unitErrors none (errs.filter (fun e => inMemRegions e.1 1 && bit (s.tir (groupOf e.1)) 63 &&
        !bit (s.tir (groupOf e.1)) 62 && bits (s.tir (groupOf e.1)) 49 46 == stack && !s.isClassA e.1)) →
      exec (.patrolScrub stack errs) s = .next (u.put (Reg.hbcScrub stack) 63 32 (s.fld (Reg.hbcScrub stack) 63 32 + 1))) ∧
    (∀ g k n, exec (.sectorRebuild g k n) s = .next (s.sectorsFail g k n)) ∧
    (∀ errs, exec (.deepTierScrub errs) s = .next (errs.foldl (fun s e => if bit (s.tir e.1) 61 then s else s.sectorsFail e.1 e.2.1 e.2.2) s))) ∧
  (∀ (stack chan : Nat) (s u v : State) (all : List Nat), stack < 16 → chan < 16 → s.flag (Reg.hbcStat stack) (32 + chan) = true →
    all = (List.range 16).filter (fun c => !s.flag (Reg.hbcStat stack) (48 + c)) → 8 ≤ all.length - 1 →
    (s.slotsUsed stack).any (fun k => decide (2048 * (all.length - 1) ≤ k)) = false →
    u = (s.relocate (512 * (s.fld Reg.hbcCap 10 0 - 4))).channelsOut stack [chan] →
    v = u.putBit (Reg.hbcStat stack) 1 (decide (u.fld (Reg.hbcStat stack) 47 32 = 0)) →
    exec (.channelDrained stack chan) s = .next (v.syncHfree.mapOutRecord stack chan))

/-- A bad class A tile whose producer can still be run again is replayed, for the op whose detection began the chain (R394, R395); a tile without a producer
ends the reading op DATA_ERR. Stated for tiles in a tile store, where no memory channel counts the detection. -/
def Obligations.ClassADetectionReplays : Prop :=
  ∀ (q sn idx role tile p r c a die bank : Nat) (s u v : State) (o : OpRec) (x : Obj) (y : PieceRec), s.opAny q sn = some o → o.obj role = some x →
    x.tileAt tile = (p, r, c) → a = x.tileAddr p r c → region a = .tile die bank → s.tileBad o.ctx x p r c = true →
    s.pieces.find? (fun y => y.q == q && y.s == sn && y.idx == idx && y.phase == PiecePhase.running) = some y →
    (∀ j f, s.producer o.ctx x p r c = some j → s.pieces.any (fun z => z.q == j.q && z.s == j.s && z.reader.isSome && z.phase != PiecePhase.ended &&
        j.handles z.part (j.unitsOf x tile).1) = false →
      y.depth + 1 ≤ 8 → (y.dets.filter (· == a)).length < 2 → s.inputsSame j (j.partsFor (j.unitsOf x tile)) = true →
      f = ({ cls := 2, sev := 1, rtype := 0, det := 0x29, dom := 2, inst := s.memInst a, addr := a, op := some (q, sn, o.ctx), info := s.memInfo a } : FaultIn) →
      u = s.detect f → v = { u with pieces := u.pieces.map (fun (z : PieceRec) => if z.q = q ∧ z.s = sn ∧ z.idx = idx then { z with dets := z.dets ++ [a] } else z) } →
      ∃ base, base = y.reader.getD (q, sn, min role 3) ∧ exec (.classADetection q sn idx role tile) s = .next
        ((v.mapOp base.1 base.2.1 (fun (z : OpRec) => { z with replayA := true, replays := z.replays + 1 })).replay j (y.depth + 1) base
          (j.partsFor (j.unitsOf x tile)))) ∧
    (∀ f, s.producer o.ctx x p r c = none →
      f = ({ cls := 2, sev := 2, rtype := 0, det := 0x29, dom := 2, inst := s.memInst a, addr := a, op := some (q, sn, o.ctx), info := s.memInfo a } : FaultIn) →
      u = s.detect f → v = { u with pieces := u.pieces.map (fun (z : PieceRec) => if z.q = q ∧ z.s = sn ∧ z.idx = idx then { z with dets := z.dets ++ [a] } else z) } →
      ∃ base, base = y.reader.getD (q, sn, min role 3) ∧ exec (.classADetection q sn idx role tile) s = .next (v.failOp base.1 base.2.1 stDataErr base.2.2))

/-! ### The coherent domain -/

/-- A core's load answers the line's bytes as it wins a copy (R410); a store is what the core and every engine then see, and no other byte changes. LR
reserves the line that it wins (R412, R421), SC stores where its reservation stands and answers 0, else 1; CBO.ZERO zeroes the whole line, CBO.CLEAN and
CBO.FLUSH leave what engines see (R405, R416). Stated where no injection of the coherent domain is armed. -/
def Obligations.CoreLoadsAndStores : Prop :=
  ∀ (core addr width : Nat) (v : Word) (s : State), s.sound → s.coreRuns core = true → isMain addr = true → oneLine addr width = true →
    s.hostWaits addr = false → s.mainOk addr = true → s.mustWait addr core = false → (∀ a ∈ s.armed, a.reg ≠ Reg.cdinj) →
    (((s.winShared core addr).copyValue core addr width).2 = false → ∃ t, exec (.coreRead core addr width) s = .next t ∧
      t.reply = some (BitVec.ofNat 64 ((s.winShared core addr).copyValue core addr width).1) ∧ ∀ b, t.seen b = s.seen b) ∧
    (inMemRegions addr 1 = true → bit (s.tir (groupOf addr)) 63 = true → ∃ t, exec (.coreWrite core addr width v .store) s = .next t ∧
      (∀ b, addr ≤ b → b < addr + width → t.seen b = (bytesOf width v.toNat).getD (b - addr) 0) ∧
      ∀ b, b < addr ∨ addr + width ≤ b → b / 64 ≠ addr / 64 ∨ s.line addr = none ∨ (∃ l, s.line addr = some l ∧ l.dirty.isSome = true) →
        t.seen b = s.seen b) ∧
    (width = 4 ∨ width = 8 → addr % width = 0 →
      (((s.winExcl core addr false).copyValue core addr width).2 = false → ∃ t, exec (.coreWrite core addr width v .lr) s = .next t ∧
        t.reply = some (BitVec.ofNat 64 ((s.winExcl core addr false).copyValue core addr width).1) ∧
        t.lr.get (fun _ => 0) core = addr / 64 + 1 ∧ ∀ b, t.seen b = s.seen b) ∧
      (s.lr.get (fun _ => 0) core ≠ addr / 64 + 1 → exec (.coreWrite core addr width v .sc) s = .next { (s.dropLr core) with reply := some 1 }) ∧
      (s.lr.get (fun _ => 0) core = addr / 64 + 1 → inMemRegions addr 1 = true → bit (s.tir (groupOf addr)) 63 = true →
        ∃ t, exec (.coreWrite core addr width v .sc) s = .next t ∧ t.reply = some 0 ∧ t.lr.get (fun _ => 0) core = 0 ∧
          ∀ b, addr ≤ b → b < addr + width → t.seen b = (bytesOf width v.toNat).getD (b - addr) 0)) ∧
    (inMemRegions addr 1 = true →
      (bit (s.tir (groupOf addr)) 63 = true → ∃ t, exec (.coreWrite core addr width v .zero) s = .next t ∧ ∀ b, t.seen b = if b / 64 = addr / 64 then 0 else s.seen b) ∧
      (∃ t, exec (.coreWrite core addr width v .clean) s = .next t ∧ ∀ b, t.seen b = s.seen b) ∧
      ∃ t, exec (.coreWrite core addr width v .flush) s = .next t ∧ t.line addr = none ∧ ∀ b, t.seen b = s.seen b)

/-- What befalls a cached line (Table 13.3, R411, R412, R425, R426): a probe that reaches a copy in its hold waits and is counted, the hold's end answers it,
an eviction removes the copy or hands it to the L3, and an engine read makes a dirty copy clean first; none of it changes what engines see. An engine read of
an unpopulated address is recorded (R13, R437). -/
def Obligations.LineEventsKeepTheData : Prop :=
  ∀ (core addr : Nat) (s : State) (l : Line) (c : Copy), s.sound → inMemRegions addr 1 = true → s.line addr = some l → l.copyOf core = some c →
    (∃ t, exec (.eviction core addr false) s = .next t ∧ (∀ m, t.line addr = some m → m.copies = l.copies.filter (fun x => x.core != core)) ∧
      (l.copies.filter (fun x => x.core != core) = [] → t.line addr = none) ∧
      ∀ b, t.seen b = s.seen b) ∧
    (core < 64 → ∃ t, exec (.eviction core addr true) s = .next t ∧ (∀ m, t.line addr = some m → m.copyOf core = none) ∧ ∀ b, t.seen b = s.seen b) ∧
    (c.hold = true → c.waits = false → (∀ a ∈ s.armed, a.reg ≠ Reg.cdinj) → ∃ t u, u = s.setLine addr (some { l with copies := l.copies.map (fun (x : Copy) => if x.core = core then { x with waits := true } else x) }) ∧
      t = u.bump Reg.cderr 15 0 1 ∧ exec (.probe core addr) s = .next t) ∧
    (∃ t, exec (.holdEnd core addr) s = .next t ∧ t = s.setLine addr (some { l with copies := l.copies.map (fun (x : Copy) => if x.core = core then { x with hold := false, waits := false } else x) }) ∧
      ∀ b, t.seen b = s.seen b) ∧
    (s.populated addr = true → s.mustWait addr 1024 = false → exec (.engineRead addr) s = .next (s.meetReads none [(0, addr, 1)]) ∧
      (s.armed = [] → ∀ b, (s.meetReads none [(0, addr, 1)]).seen b = s.seen b)) ∧
    (s.populated addr = false → exec (.engineRead addr) s = .next (s.addrRecord addr none))

/-- Cache errors (R425, R426): one bit is corrected and counted, two bits drop a clean copy and poison a dirty one, which is recorded as lost; the
access of a core that reads a poisoned line faults, with its record. -/
def Obligations.CacheErrorRule : Prop :=
  ∀ (core addr : Nat) (s u : State) (l : Line) (c : Copy) (inj : Bool), s.line addr = some l → l.copyOf core = some c →
    (s.takeCd 1 (core % 64) = (inj, u) → exec (.coreEcc core addr false) s = .next ((u.bump Reg.cderr 63 48 1).countDet (0x50 * 1024 + core)
      { cls := 4, sev := 1, rtype := 0, det := 0x50, inj := inj, dom := 5, inst := 0, addr := addr / 64 * 64, info := core })) ∧
    (s.takeCd (if core = 64 then 3 else 2) (core % 64) = (inj, u) → c.st = .m ∨ c.st = .o → ∃ v,
      v = u.setLine addr (some { l with copies := l.copies.map (fun (x : Copy) => if x.core = core then { x with poison := true } else x) }) ∧
      exec (.coreEcc core addr true) s = .next (((v.bump Reg.cderr 47 32 1).detect
        { cls := 4, sev := 2, rtype := 0, det := 0x51, inj := inj, dom := 5, inst := 0, addr := addr / 64 * 64, info := core }).resolve 5 0 8 0)) ∧
    (s.takeCd (if core = 64 then 3 else 2) (core % 64) = (inj, u) → c.st = .e ∨ c.st = .s →
      exec (.coreEcc core addr true) s = .next (u.setLine addr (if (l.copies.filter (fun x => x.core != core)).isEmpty then none
        else some { l with copies := l.copies.filter (fun x => x.core != core) }))) ∧
    (s.coreRuns core = true → isMain addr = true → (s.lineData addr).2 = true →
      exec (.poisonedLineAccess core addr) s = .next { (s.poisonFault core addr) with reply := none })

/-- The coherent domain's failure and return (R413, R428 to R431, Table 13.7): a dead agent or an uncorrectable error takes a RUNNING domain DOWN, the parked
engines find it RECOVERING, its recovery leaves it HELD, and RELEASE lets it run with no copy, no reservation and no HELD group left. -/
def Obligations.DomainFailsAndReturns : Prop :=
  ∀ (core : Nat) (s : State),
    (core < 64 → exec (.deadAgent core) s = .next (s.domainFails true core)) ∧ exec (.uncorrectableCoherenceError core) s = .next (s.domainFails false core) ∧
    (s.fld Reg.cdstat 1 0 = 1 → ∃ t, exec (.enginesParked false) s = .next t ∧ t.fld Reg.cdstat 1 0 = 2 ∧ t.parked = true ∧ t.lr = []) ∧
    (s.fld Reg.cdstat 1 0 = 2 → ∃ u, u = s.domainDown s.ops ∧ exec .recoveryComplete s = .next
      (State.resolve { (u.put Reg.cdstat 1 0 3) with parked := false, downOps := [], reverted := [] } 5 0 7 0)) ∧
    (∀ ag, Who.barRig.admits ag = true → s.fld Reg.cdstat 1 0 = 3 → ∃ t, exec (.release ag) s = .next t ∧ t.fld Reg.cdstat 1 0 = 0 ∧ t.dirLines = [] ∧
      t.lr = [] ∧ { t with dirLines := s.dirLines, lr := s.lr, regs := s.regs } = s ∧ (s.sound → ∀ g, g < 2 ^ 20 → bit (t.tir g) 59 = false))

/-! ### Tiers and translation -/

/-- Groups (R448, R450, R451, R453, Table 14.6): a first write places its group, a migration begins where it may, switches where its destination has room and
can be abandoned, and a release returns groups to UNASSIGNED. -/
def Obligations.GroupsArePlacedMovedAndReleased : Prop :=
  (∀ (q sn role group : Nat) (s t : State) (o : OpRec) (x : Obj), s.op? q sn = some o → o.obj role = some x → o.phase = .started → o.failing = none →
    o.writes role = true → (x.groups 0 x.size).contains group = true → bit (s.tir group) 63 = false → s.placeGroup group (o.wr x (role == 3)) = .ok t →
    exec (.firstWrite q sn role group) s = .next t) ∧
  (∀ (group tier stack : Nat) (s : State), group < 2 ^ 20 → tier < 2 → stack < 16 → bit (s.tir group) 63 = true → bit (s.tir group) 60 = false →
    (bits (s.tir group) 62 62 == tier && (tier == 1 || bits (s.tir group) 49 46 == stack)) = false → s.mayMigrate group tier = true →
    s.roomFor group tier stack = true → ∃ t, exec (.migrationStart group tier stack) s = .next t ∧ t.migs = s.migs ++ [⟨group, tier, stack, List.range 32⟩] ∧
      bit (t.tir group) 60 = true ∧ regsOnly s { t with migs := s.migs } [Reg.tirMap group]) ∧
  (∀ (group : Nat) (s : State) (m : MigRec), s.migs.find? (fun m => m.group == group) = some m →
    (s.roomFor group m.tier m.stack = true → exec (.migrationSwitch group) s = .next (s.moveTo group m.tier m.stack)) ∧
    (∃ t, exec (.migrationAbandon group) s = .next t ∧ t.migs = s.migs.filter (fun m => m.group != group) ∧ bit (t.tir group) 60 = false ∧
      regsOnly s { t with migs := s.migs } [Reg.tirMap group])) ∧
  (∀ (ag : Agent) (v : Word) (s : State), Who.barRig.admits ag = true → bit v 0 = true → s.flag Reg.tirStat 0 = false →
    exec (.tirRelease ag v) s = .next ((((s.tirEntries.map Prod.fst).filter (fun k => decide (bits v 43 21 ≤ k) && decide (k < bits v 43 21 + bits v 20 1))).foldl
      (fun s k => s.releaseGroup k) s).putBit Reg.tirStat 0 true)) ∧
  (∀ s : State, ∃ t, exec .tirReleaseDone s = .next t ∧ t.flag Reg.tirStat 0 = false ∧ regsOnly s t [Reg.tirStat])

/-- TRN_INV (R462, R463): it begins, or sets COLL while one is in progress; each unit acknowledges the range and uses the new translation, and the last of them,
or under DRAIN the last op of the context, ends it. ASQ_DIRCLR clears a context's directory entries (R263). -/
def Obligations.MappingsAreWithdrawn : Prop :=
  (∀ (ag : Agent) (v : Word) (s : State), Who.barRig.admits ag = true →
    (s.flag Reg.trnStat 0 = true → ∃ t, exec (.trnInv ag v) s = .next t ∧ t.flag Reg.trnStat 1 = true ∧ regsOnly s t [Reg.trnStat]) ∧
    (s.flag Reg.trnStat 0 = false → bit v 0 = true → bit v 47 = false → s.fld Reg.trnInvrng 63 32 = 0 →
      exec (.trnInv ag v) s = .next (s.bump Reg.trnStat 63 32 1)) ∧
    (s.flag Reg.trnStat 0 = false → bit v 0 = true → bit v 47 = true ∨ s.fld Reg.trnInvrng 63 32 ≠ 0 → ∃ t i, exec (.trnInv ag v) s = .next t ∧
      t.inv = some i ∧ i.ctx = bits v 63 52 ∧ i.seg = bits v 51 48 ∧
      (if bit v 47 = true then i.off = 0 ∧ i.len = 2 ^ 33 else i.off = s.fld Reg.trnInvrng 31 0 ∧ i.len = s.fld Reg.trnInvrng 63 32) ∧
      (if s.flag Reg.trnCfg 0 = true then i.drain = true ∧ i.units = [] ∧ ∀ q sn, (q, sn) ∈ i.ops ↔ ∃ o ∈ s.ops, o.ctx = i.ctx ∧ o.phase ≠ .ended ∧ o.q = q ∧ o.s = sn
        else i.drain = false ∧ i.units = ackUnits ∧ i.ops = []) ∧
      t.flag Reg.trnStat 0 = true ∧ t.fld Reg.trnStat 31 16 = i.units.length ∧ regsOnly s { t with inv := s.inv } [Reg.trnStat])) ∧
  (∀ (unit : Nat) (s : State) (i : InvRec), s.inv = some i → i.drain = false → i.units.contains unit = true →
    ∃ u, u = s.setInv (some { i with units := i.units.filter (· != unit) }) ∧ exec (.rangeAck unit) s = .next (u.switchOps i unit u.ops)) ∧
  (∀ (s : State) (i : InvRec), s.inv = some i → i.units = [] → i.ops.all (fun k => match s.op? k.1 k.2 with
      | some o => o.phase == .ended
      | none => true) = true → exec .trnInvDone s = .next (s.invEnd i.ctx)) ∧
  (∀ (ag : Agent) (v : Word) (s : State), Who.barRig.admits ag = true → bit v 15 = true → s.flag Reg.asqDirclr 14 = false →
    ∃ t, exec (.asqDirclr ag v) s = .next t ∧ t.dirClear = some (bits v 11 0) ∧ t.flag Reg.asqDirclr 14 = true ∧
      regsOnly s { t with dirClear := s.dirClear } [Reg.asqDirclr]) ∧
  (∀ (s : State) (c : Nat), s.dirClear = some c → exec .asqDirclrDone s = .next
    (State.putBit { (s.clearDirs (s.dirOf c)) with dirClear := none } Reg.asqDirclr 14 false))

/-! ### Intake -/

/-- The intake engine begins the next row of the sample list (R466, R471) and starts the next item of the running sample (R480), with the outcome of
the model's shared operations, unless the engine's own detectors stop it first (R489). -/
def Obligations.IntakeBeginsRowsAndItems : Prop :=
  ∀ (q sn : Nat) (s : State) (o p : OpRec), s.op? q sn = some o → s.intakeOp q sn o.done.length = some p →
    (∀ a e, s.liveSample = none → o.done.length < p.d.ext 0 → (s.view 184 p).obj 0 = some a → readRow p s 0 a (p.d.firstRow + o.done.length) 4 = .ok e →
      exec (.batch q sn) s = .next (s.intakePut p (sampleOn (s.view 184 p) s
        ⟨q, sn, p.d.firstRow + o.done.length, p.ax axCount, 0, 0, 0, 0, e, 0, 0, 0, 0, 0, []⟩))) ∧
    (∀ sm u v r, s.liveSample = some sm → sm.q = q → sm.s = sn →
      (s.meetItem p sm = (u, true) → exec (.item q sn) s = .next u) ∧
      (s.meetItem p sm = (u, false) → v = u.meetPayload (u.view 184 p) sm → v.intakeOp q sn o.done.length = some r →
        exec (.item q sn) s = .next (v.intakePut r (itemStep (v.view 184 r) v sm))))

/-! ### The host -/

/-- The bias commands of Table 16.5 with their codes. -/
def Sys2Proof.Machine.biasCommand (ag : Agent) (entry : Nat) : List (Instr × Nat) := [(.map ag entry, 1), (.todevice ag entry, 2), (.toshared ag entry, 3), (.unmap ag entry, 4)]

/-- HLK_BIACMD (R499 to R501): a command written while BUSY is 1 sets COLL alone; any other raises BUSY and the entry's PENDING and holds the outcome of its
checks, which its completion answers. A host snoop (R503) is answered from the copies of a SHARED page. -/
def Obligations.BiasCommandsAndSnoops : Prop :=
  (∀ (ag : Agent) (entry code : Nat) (c : Instr) (s : State), Who.barRig.admits ag = true → (c, code) ∈ biasCommand ag entry →
    (s.flag Reg.biaStat 0 = true → ∃ t, exec c s = .next t ∧ t.flag Reg.biaStat 1 = true ∧ regsOnly s t [Reg.biaStat]) ∧
    (s.flag Reg.biaStat 0 = false → ∃ t b, exec c s = .next t ∧ t.bias = some b ∧ b.code = code ∧ b.entry = entry ∧ b.arg = s.rd Reg.biaArg ∧
      b.argw = s.rd Reg.biaArgw ∧ (b.result = 0 ∨ b.result = 2) ∧
      (b.result = 0 ↔ entry < 65536 ∧ s.biaResv = 0 ∧ biasAccepts s code entry (bits (s.rd Reg.biaArgw) 19 0) = true) ∧
      t.flag Reg.biaStat 0 = true ∧ (entry < 65536 → t.flag (Reg.biaEnt0 entry) 59 = true) ∧
      regsOnly s { t with bias := s.bias } [Reg.biaStat, Reg.biaEnt0 entry])) ∧
  (∀ (s u : State) (b : BiaRec), s.bias = some b →
    (b.result ≠ 0 → u = s.biasEnd b.entry b.result → exec .biaCmdComplete s = .next (State.flagsOn { u with flagWait := [] } u.flagWait)) ∧
    (b.result = 0 → b.code = 1 ∨ biasAccepts s b.code b.entry (bits b.argw 19 0) = true → u = (s.biasEffect b).biasEnd b.entry 0 →
      exec .biaCmdComplete s = .next (State.flagsOn { u with flagWait := [] } u.flagWait))) ∧
  (∀ (s : State) (b : BiaRec), s.bias = some b → b.entry < 65536 → ∃ t, t = s.biasEnd b.entry b.result ∧ t.flag Reg.biaStat 0 = false ∧
    t.flag (Reg.biaEnt0 b.entry) 59 = false ∧ t.fld Reg.biaStat 15 8 = b.result % 256 ∧ t.bias = none ∧
    regsOnly s { t with bias := s.bias } [Reg.biaStat, Reg.biaEnt0 b.entry]) ∧
  (∀ (link addr kind : Nat) (s : State), (s.sharedAt link addr = none → exec (.hostSnoop link addr kind) s = .next { s with reply := none }) ∧
    (∀ a l c, s.sharedAt link addr = some a → s.line a = some l → l.dirty = some c → ∃ u : State,
      u = { s with reply := some (BitVec.ofNat 64 (ofBytes ((c.bytes.drop (a % 64 / 8 * 8)).take 8))) } ∧
      (kind = 0 → exec (.hostSnoop link addr kind) s = .next ((u.writeBack a c).setLine a (some { l with st := .shared, copies := l.copies.map (fun (x : Copy) => { x with st := .s }) }))) ∧
      (kind = 1 → ∃ t, exec (.hostSnoop link addr kind) s = .next t ∧ t.line a = none ∧ t.lr = (u.writeBack a c).lr.filter (fun p => p.2 != a / 64 + 1) ∧
        { t with dirLines := (u.writeBack a c).dirLines, lr := (u.writeBack a c).lr } = u.writeBack a c) ∧
      (kind = 2 → exec (.hostSnoop link addr kind) s = .next u)))

/-- Host links (Table 16.7, R494, R505, R508, R510 to R512): training, UP with the trained width and speed, RECOVERY and back; refused accesses are counted;
a read that times out ends its op HOST_LOST, one that meets Unsupported Request ADDR_FAULT; the fences' completions; and a host reset. -/
def Obligations.HostLinksRule : Prop :=
  ∀ (link : Nat) (s : State),
    (∀ offset size w, barRefuses offset size = true → ∃ t, exec (.bar0AccessRefused link offset size w) s = .next t ∧ t.reply = none ∧
      t.fld (Reg.hlkBar link) 63 32 = satAdd 32 (s.fld (Reg.hlkBar link) 63 32) 1 ∧ regsOnly s { t with reply := s.reply } [Reg.hlkBar link]) ∧
    (s.fld (Reg.hlkStat link) 1 0 = 0 → s.power = .on → 2 ≤ s.fld Reg.rscStat 2 0 → s.fld Reg.rscStat 2 0 ≤ 5 → link < 2 →
      ∃ t, exec (.perstHigh link) s = .next t ∧ t.fld (Reg.hlkStat link) 1 0 = 1 ∧ t.flag (Reg.hlkStat link) 5 = false ∧ t.perst = s.perst.set link true ∧
        regsOnly s { t with perst := s.perst } [Reg.hlkStat link]) ∧
    (∀ width speed cxl, s.fld (Reg.hlkStat link) 1 0 = 1 → width ∈ [16, 8, 4, 2, 1] → 1 ≤ speed → speed ≤ 6 →
      ∃ t, exec (.dlActive link width speed cxl) s = .next t ∧ t.fld (Reg.hlkStat link) 1 0 = 2 ∧ t.flag (Reg.hlkStat link) 3 = decide (speed = 6) ∧
        t.flag (Reg.hlkStat link) 4 = (cxl && decide (speed = 6)) ∧ t.fld (Reg.hlkStat link) 26 24 = speed ∧ t.fld (Reg.hlkStat link) 31 27 = width ∧
        regsOnly s t [Reg.hlkStat link]) ∧
    (∀ inj u, s.fld (Reg.hlkStat link) 1 0 = 2 → s.takeInj (Reg.hlkInj link) 3 0 = (inj, u) →
      exec (.recoveryEntered link) s = .next ((u.put (Reg.hlkStat link) 1 0 3).hostEvent link 0x43 inj)) ∧
    (s.fld (Reg.hlkStat link) 1 0 = 3 → ∃ t, exec (.l0Regained link) s = .next t ∧ t.fld (Reg.hlkStat link) 1 0 = 2 ∧
      t.fld (Reg.hlkRetrain link) 63 32 = satAdd 32 (s.fld (Reg.hlkRetrain link) 63 32) 1 ∧ regsOnly s t [Reg.hlkStat link, Reg.hlkRetrain link]) ∧
    (s.fld (Reg.hlkStat link) 1 0 = 2 → exec (.flushingRead link) s = .next
      (State.fences { s with hostOut := s.showWrites (fun w => w.link == link && w.dev) [] s.hostOut })) ∧
    (∀ q sn w, s.hostOut.find? (fun w => w.link == link && !w.dev && w.q == q && w.s == sn) = some w → exec (.globalObservation link q sn) s = .next
      (State.fences { s with hostOut := s.showWrites (fun v => v == w) [] s.hostOut })) ∧
    (∀ q sn slot o inj u, s.op? q sn = some o → o.phase ≠ .ended →
      (s.takeInj (Reg.hlkInj link) 2 0 = (inj, u) → exec (.completionTimeout link q sn slot) s = .next
        (((u.bump (Reg.hlkErrcnt link) 47 32 1).detect { cls := 8, sev := 2, rtype := 0, det := 0x41, inj := inj, dom := 3, inst := 128 + link, op := some (q, sn, o.ctx) }).failOp
          q sn stHostLost link)) ∧
      (s.takeInj Reg.fltInj 7 link = (inj, u) → exec (.unsupportedRequest link q sn slot) s = .next
        (((u.bump (Reg.hlkErrcnt link) 31 16 1).detect { cls := 8, sev := 2, rtype := 0, det := 0x42, inj := inj, dom := 3, inst := 128 + link, op := some (q, sn, o.ctx) }).failOp
          q sn stAddrFault slot))) ∧
    (∀ perst, s.fld (Reg.hlkStat link) 1 0 = 0 → ∃ t, exec (.hostReset link perst) s = .next t ∧ t.flag (Reg.hlkStat link) 5 = perst ∧
      t.perst = (if perst then s.perst.set link false else s.perst) ∧ regsOnly s { t with perst := s.perst } [Reg.hlkStat link]) ∧
    (∀ perst u v w x y mine, s.fld (Reg.hlkStat link) 1 0 ≠ 0 → u = ({ s with perst := if perst then s.perst.set link false else s.perst } : State) →
      mine = s.hostOut.filter (fun w => w.link == link) →
      v = ((((u.dropWrites link).hostLost link ((mine.map (fun w => (w.q, w.s))).eraseDups)).wr (Reg.hlkStat link) (word [(5, b2n perst)])).bump
        (Reg.hlkLost link) 63 32 1).bump (Reg.hlkLost link) 31 0 mine.length →
      w = (match v.bias with
        | some b => v.biasEnd b.entry 3
        | none => v) →
      x = ((w.revertAll w.biasEntries).bump Reg.biaCnt 63 32 1).quiesce 1024 →
      y = State.bump { x with msixOn := Tab.clear x.msixOn (1024 * link) (1024 * link + 1024), msixPend := x.msixPend.filter (fun e => e.1 / 1024 != link) }
        (Reg.hlkBar link) 31 0 (x.msixPend.filter (fun e => e.1 / 1024 == link)).length →
      exec (.hostReset link perst) s = .next ((State.bootLinkReset y link).hostEvent link 0x44 false).fences)

/-- Module time (R517 to R522): a read of TMB_NOW latches its fraction for the path; a PTM dialog makes a correlation record, also in memory with EN; PPS_OUT
rises at a second with the enabled outputs, one time-of-day frame follows each edge, and TMB_OUTCTL stops at once what it disables. -/
def Obligations.ModuleTimeRule : Prop :=
  (∀ (path : Nat) (s : State), ∃ t, exec (.tmbNow path) s = .next t ∧ t.reply = some (BitVec.ofNat 64 s.ns) ∧
    t.fracLatch.get (fun _ => 0) path = s.frac ∧ (∀ p, p ≠ path → t.fracLatch.get (fun _ => 0) p = s.fracLatch.get (fun _ => 0) p) ∧
    { t with reply := s.reply, fracLatch := s.fracLatch } = s) ∧
  (∀ (link host t1 t4 turn : Nat) (frac : BitVec 16) (s u v : State), s.fld (Reg.hlkStat link) 1 0 = 2 → s.flag Reg.tmbPtmctl link = true →
    u = { s with ptmSeq := s.ptmSeq + 1 } → v = (u.wrRun (Reg.tmbCorr 0) (corrRecord u link host t1 t4 turn frac (s.ptmSeq + 1))).put Reg.tmbStat 15 0 (u.fld Reg.tmbStat 15 0 + 1) →
    exec (.ptmDialog link host t1 t4 turn frac false) s = .next (u.bump Reg.tmbStat 63 32 1) ∧
    (v.flag Reg.tmbCorrbase 0 = false → exec (.ptmDialog link host t1 t4 turn frac true) s = .next v) ∧
    (v.flag Reg.tmbCorrbase 0 = true → ∀ x, v.writeMem (.plain 0) (v.fld Reg.tmbCorrbase 43 6 * 64 + 32 * ((s.ptmSeq + 1) % 2 ^ v.fld Reg.tmbCorrbase 5 2))
        (wordBytes (corrRecord u link host t1 t4 turn frac (s.ptmSeq + 1))) = .ok x →
      exec (.ptmDialog link host t1 t4 turn frac true) s = .next x)) ∧
  (∀ s : State, s.ns % 1000000000 = 0 → s.ppsEdge ≠ some s.ns → s.ppsHold ≤ s.ns → ∃ t, exec .ppsOut s = .next t ∧
    t.outRun = s.fld Reg.tmbOutctl 1 0 + s.outRun / 4 % 2 * 4 ∧
    (s.flag Reg.tmbOutctl 0 = true → t.ppsHigh = true ∧ t.ppsFall = s.ns + s.ppsWidth ∧ t.ppsEdge = some s.ns ∧
      { t with outRun := s.outRun, ppsHigh := s.ppsHigh, ppsFall := s.ppsFall, ppsEdge := s.ppsEdge } = s) ∧
    (s.flag Reg.tmbOutctl 0 = false → { t with outRun := s.outRun } = s)) ∧
  (∀ (s : State) (e : Nat), s.ppsEdge = some e → s.outRun / 2 % 2 = 1 → s.flag Reg.tmbOutctl 1 = true → e + 10000000 ≤ s.ns → s.ppsHold ≤ s.ns →
    (∀ f, s.todSent.getLast? = some f → (f.drop 2).take 8 ≠ bytesOf 8 e) → ∃ t, exec .todTx s = .next t ∧ t.todSent = s.todSent ++ [s.timeFrame e] ∧
      t.todSeq = (s.todSeq + 1) % 256 ∧ { t with todSent := s.todSent, todSeq := s.todSeq } = s) ∧
  (∀ (ag : Agent) (v : Word) (s : State), Who.barRig.admits ag = true → ∃ t, exec (.tmbOutctl ag v) s = .next t ∧
    t.fld Reg.tmbOutctl 31 16 = bits v 31 16 ∧ t.fld Reg.tmbOutctl 2 0 = bits v 2 0 ∧ t.outRun = s.outRun.land (bits v 2 0) ∧
    t.ppsHigh = (s.ppsHigh && bit v 0) ∧ regsOnly s { t with outRun := s.outRun, ppsHigh := s.ppsHigh } [Reg.tmbOutctl])

/-! ### Reset, start and security -/

/-- A module reset (R547, R548, R550): every source, when it may act, resets the module under its code. RSC_CAUSE names it, RSC_KEEP holds the last records of
the previous run unless the source is POR or SUPPLY, which clear it; memory is wiped, no op is left, and every other register has its reset value. -/
def Obligations.ModuleResetRule : Prop :=
  (∀ (s : State) (code : Nat), s.sound → 1 ≤ code → code ≤ 8 → ∃ t, t = s.moduleReset code ∧ t.mem = [] ∧ t.ops = [] ∧ t.pieces = [] ∧ t.dirLines = [] ∧
    t.pending = s.pending ∧ t.start = 0 ∧ t.rd Reg.rscCause = s.causeWord code ∧ bit (t.rd Reg.rscCause) (code - 1) = true ∧
    (code = 1 ∨ code = 7 → ∀ i, i < 128 → t.rd (Reg.rscKeep i) = 0) ∧
    (code ≠ 1 → code ≠ 7 → s.start ≠ 0 → ∀ i, i < 128 → t.rd (Reg.rscKeep i) = ((s.resetRecord code).keep.flatten.getD i 0)) ∧
    (∀ a, a ≠ Reg.rscCause → (∀ i, i < 128 → a ≠ Reg.rscKeep i) → t.rd a = State.reset.rd a) ∧
    ∀ x ∈ t.armed, code ≠ 1 ∧ code ≠ 7 ∧ x ∈ s.armed ∧ x.reg = Reg.fltInj ∧ x.kind = 11) ∧
  (∀ s : State,
    (s.powerGood = true → exec .por s = .next (State.moduleReset { s with sincePg := 0 } 1)) ∧
    exec (.pin true) s = .next (State.moduleReset { s with pinHigh := false, held := s.held.lor 1 } 2) ∧
    (∃ t, exec (.pin false) s = .next t ∧ t.pinHigh = true ∧ t.held = s.held.land 6 ∧ { t with pinHigh := s.pinHigh, held := s.held } = s) ∧
    (∀ ag v, Who.barRig.admits ag = true → bits v 15 8 = 0xA5 → bit v 0 = true → exec (.rscRst ag v) s = .next (s.moduleReset 3)) ∧
    (s.wdogOn = true → s.start ≠ 5 ∨ s.wdogAt + s.fld Reg.rscWdog 31 16 * 1000000 ≤ s.ns → exec .wdog s = .next (s.moduleReset 4)) ∧
    ((s.window 7 0).isSome = true → exec .escal s = .next (s.moduleReset 5)) ∧
    exec (.therm false) s = .next (State.moduleReset { s with tripN := true, held := s.held.lor 2 } 6) ∧
    (∃ t, exec (.therm true) s = .next t ∧ t.tripN = false ∧ t.held = s.held.land 5 ∧ { t with tripN := s.tripN, held := s.held } = s) ∧
    exec (.supply false) s = .next (State.moduleReset { s with powerGood := false, held := s.held.lor 4 } 7) ∧
    (s.power = .on → s.powerGood = false → exec (.supply true) s = .next
      (State.moduleReset { s with powerGood := true, sincePg := 0, held := s.held.land 3 } 1)) ∧
    (s.power ≠ .on ∨ s.powerGood = true → exec (.supply true) s = .next { s with held := s.held.land 3 }) ∧
    (s.session = true → exec .debug s = .next (s.moduleReset 8)))

/-- The start (R551 to R554, R560 to R564, Table 18.3): release and training, the option straps, the boot window and its owner, GO, ABORT, the outcome of
verification, and READY. Attestation, key revocation and the watchdog's KICK (R566, R568, R569): a quote is asked for once, outside SCRAP and once READY, and
answered with the signed words; slots in use are not revoked. -/
def Obligations.StartAndSecurityRule : Prop :=
  (∀ s : State,
    (∀ b u v w, s.start = 0 → s.held = 0 → s.power = .on → s.powerGood = true →
      u = State.each (((s.fuseSense b.softFuses).setStart 1).wr Reg.cage (word [(8, s.cagePins % 2 ^ 24)])) 2 (fun t n => t.putBit (Reg.hlkStat n) 5 (!t.perst.getD n false)) →
      v = u.trainStrands b.margins →
      w = State.trainMemory { (v.put Reg.bup0 63 32 (max 1 (Config.startTime v.free % 2 ^ 32))) with discovered := true, free := v.free + 1 } b.hbmBad b.dtcBad →
      (v.strandCause b ≠ 0 → exec (.resetRelease b) s = .next (v.startFail (v.strandCause b))) ∧
      (v.strandCause b = 0 → w.memoryFails = true → exec (.resetRelease b) s = .next (w.startFail 4)) ∧
      (v.strandCause b = 0 → w.memoryFails = false → exec (.resetRelease b) s = .next
        { (w.put Reg.bup0 31 0 (max 1 (Config.startTime w.free % 2 ^ 32))) with wiped := true, free := w.free + 1 })) ∧
    (∀ c1 c2 k, s.start = 1 → optCode c1 = some k →
      (optCode c2 = some k → exec (.optload c1 c2) s = .next (s.takeOption k)) ∧
      (optCode c2 ≠ some k → s.fld Reg.rscStat 7 6 < 3 → exec (.optload c1 c2) s = .next (s.bump Reg.rscStat 7 6 1)) ∧
      (optCode c2 ≠ some k → s.fld Reg.rscStat 7 6 = 3 → exec (.optload c1 c2) s = .next ((s.putBit Reg.rscStat 5 true).takeOption 15))) ∧
    (∀ link offset data, link < 2 → s.fld (Reg.hlkStat link) 1 0 = 2 → offset + data.length ≤ 2 ^ 25 →
      (s.start = 2 → s.owned = false ∨ s.fld Reg.bootStat 9 9 = link → ∃ t, exec (.bootWindowWrite link offset data) s = .next t ∧
        t.bootWin = s.bootWin.setRun (fun _ => 0) offset data ∧ t.owned = true ∧ t.fld Reg.bootStat 9 9 = link ∧
        regsOnly s { t with bootWin := s.bootWin, owned := s.owned } [Reg.bootStat]) ∧
      (s.start ≠ 2 ∨ (s.owned = true ∧ s.fld Reg.bootStat 9 9 ≠ link) → ∃ t, exec (.bootWindowWrite link offset data) s = .next t ∧
        t.fld Reg.bootStat 47 32 = satAdd 16 (s.fld Reg.bootStat 47 32) 1 ∧ regsOnly s t [Reg.bootStat])) ∧
    (∀ ag, Who.barRig.admits ag = true →
      (s.start = 2 → ∃ t, exec (.go ag) s = .next t ∧ t.start = 3 ∧ t.fld Reg.rscStat 63 3 = s.fld Reg.rscStat 63 3 ∧ regsOnly s t [Reg.rscStat]) ∧
      (s.start ≠ 2 → ∃ t, exec (.go ag) s = .next t ∧ t.flag Reg.bootStat 8 = true ∧ regsOnly s t [Reg.bootStat]) ∧
      (s.start = 3 → ∃ t, exec (.abort ag) s = .next t ∧ t.start = 2 ∧ t.bootWin = [] ∧ t.owned = decide (s.fld Reg.rscStat 10 10 = 0) ∧
        t.fld Reg.bootStat 3 0 = 0 ∧ regsOnly s { t with bootWin := s.bootWin, owned := s.owned } [Reg.rscStat, Reg.bootStat])) ∧
    (s.start = 3 → s.verify ≠ 1 → exec .verifyResult s = .next ((s.reopenBoot.put Reg.bootStat 3 0 s.verify).bump Reg.bootStat 63 48 1)) ∧
    (∀ u v, s.start = 3 → s.verify = 1 →
      u = { ((s.setStart 4).put Reg.bootStat 3 0 1) with image := some s.imageOf, bootWin := [], wdogOn := true, wdogAt := s.ns } →
      v = ((u.put Reg.rscWdog 31 16 4000).repairs s.imageOf.repair (s.imageOf.repair.length / 8)).syncHfree → v.dieCut = false → v.pairCut = false →
      v.memoryFails = false → exec .verifyResult s = .next (v.loadCores s.imageOf.cores)) ∧
    (∀ im u v w, s.image = some im → s.start = 4 → s.wiped = true → s.discovered = true →
      u = (if im.raise then s.burn Fuse.svn (max (s.fuse Fuse.svn) im.isvn) else s) →
      v = (match im.lcreq with
        | 2 => u.burn Fuse.lc 3
        | 3 => u.burn Fuse.lc 7
        | 4 => u.burn Fuse.lc 15
        | _ => u) →
      w = (v.put Reg.secLc 63 56 (v.fuse Fuse.svn)).put Reg.secLc 3 0 (v.fuse Fuse.lc) →
      exec .selfReady s = .next ((((State.setStart { w with sincePg := max 1 (Config.startTime w.free % 2 ^ 32), free := w.free + 1, ns := 0, frac := 0, wdogAt := 0,
                                                             aliasCert := w.certify im, coreHeld := if im.entry = 0 then w.coreHeld else [] } 5).wr
        Reg.beatNow 0).noteTime Reg.bup1 63 32)))) ∧
  ((∀ (ag : Agent) (s : State), Who.barRig.admits ag = true →
    (s.attest = true → ∃ t, exec (.secAttcmd ag) s = .next t ∧ t.fld Reg.attStat 3 2 = 3 ∧ regsOnly s t [Reg.attStat]) ∧
    (s.attest = false → s.start ≠ 5 ∨ s.lc = 15 → ∃ t, exec (.secAttcmd ag) s = .next t ∧ t.fld Reg.attStat 3 2 = 2 ∧ regsOnly s t [Reg.attStat]) ∧
    (s.attest = false → s.start = 5 → s.lc ≠ 15 → ∃ t, exec (.secAttcmd ag) s = .next t ∧ t.attest = true ∧ t.flag Reg.attStat 0 = true ∧
      regsOnly s { t with attest := s.attest } [Reg.attStat])) ∧
  (∀ (s : State) (im : Image), s.image = some im → s.attest = true → ∃ t bs, exec .attestationQuote s = .next t ∧ t.attest = false ∧
    t.rd Reg.attStat = word [(2, 1)] ∧ bs = s.quote im ++ fit 4640 (fit 4627 (Config.mldsaSign (s.aliasSeed im) (s.quote im))) ++
      fit 2592 (Config.mldsaPublic (s.aliasSeed im)) ++ fit 4640 (fit 4627 s.aliasCert) ++ fit 2592 (Config.mldsaPublic s.deviceSeed) ∧
    t = State.wr (State.wrRun { s with attest := false } (Reg.secOut 0) (wordsOf bs 1840)) Reg.attStat (word [(2, 1)])) ∧
  (∀ (v : Word) (s : State),
    (∃ t, exec (.secRevoke .rig v) s = .next t ∧ { t with revokes := s.revokes } = s ∧
      ∀ k, k < 4 → t.revokes.testBit k = (s.revokes.testBit k || (bit v k && match s.image with
        | some im => decide (im.keyslot ≠ k)
        | none => true))) ∧
    (∃ t, exec (.kick .rig v) s = .next t ∧ t.fld Reg.rscWdog 31 16 = (if bits v 31 16 = 0 then s.fld Reg.rscWdog 31 16 else bits v 31 16) ∧
      t.wdogAt = (if bit v 0 then s.ns else s.wdogAt) ∧ regsOnly s { t with wdogAt := s.wdogAt } [Reg.rscWdog])))

/-! ### Faults -/

/-- An error of a unit in service takes its detector's injection and counts it; a corrected one counts against its element, any other is a fault of
the unit under which the unit stops: alone, as a pair, or as the intake engine (R172, R202, R237, R274, R297, R328, R489, R591). -/
def Obligations.EngineErrorsStopTheirUnit : Prop :=
  ∀ (s u : State) (inj : Bool) (n k : Nat),
    (n < 16 → s.unitIn n = true →
      (∀ col, k < 4 → col < 130 → s.takeInj (Reg.mxeInj n) 1 (k * 256 + col) = (inj, u) → exec (.columnError n k col) s =
        .next (((u.bump (Reg.mxeDetcnt n) 63 48 1).engineFault n 0x01 inj (k * 256 + col)).engineStop n)) ∧
      (∀ det, k < 4 → 2 ≤ det → det ≤ 4 → s.takeInj (Reg.mxeInj n) det k = (inj, u) → exec (.passError n k det) s =
        .next (((u.bump (Reg.mxeDetcnt n) (passField det).1 (passField det).2 1).engineFault n det inj k).engineStop n)) ∧
      (k < 4 → s.takeInj (Reg.mxeAccinj n) 2 k = (inj, u) → exec (.accumulatorEcc n k true) s =
        .next (((u.bump (Reg.mxeAccstat n) 47 32 1).engineFault n 0x05 inj k).engineStop n)) ∧
      (k < 4 → s.takeInj (Reg.mxeAccinj n) 1 k = (inj, u) → exec (.accumulatorEcc n k false) s =
        .next ((u.bump (Reg.mxeAccstat n) 63 48 1).countDet (0x05 * 65536 + n)
          { cls := 1, sev := 1, rtype := 0, det := 0x05, inj := inj, dom := 1, inst := n, unit := n, op := u.opOn n, info := k }))) ∧
    (n < 16 → s.unitIn (16 + n) = true → s.takeInj (Reg.vxeInj n) k 0 = (inj, u) →
      (k = 1 → exec (.pairError n k) s = .next ((u.bump (Reg.vxeDetcnt n) 63 48 1).countDet (0x08 * 65536 + n)
        { cls := 1, sev := 1, rtype := 0, det := 0x08, inj := inj, dom := 1, inst := 16 + n, unit := 16 + n, op := u.opOn (16 + n) })) ∧
      (2 ≤ k → k ≤ 4 → exec (.pairError n k) s = .next (((u.bump (Reg.vxeDetcnt n)
        (if k = 2 then 47 else if k = 3 then 31 else 15) (if k = 2 then 32 else if k = 3 then 16 else 0) 1).engineFault (16 + n) (6 + k) inj 0).pairStop n))) ∧
    (n < 4 → s.unitIn (32 + n) = true → s.takeInj (Reg.asqInj n) k 0 = (inj, u) → k = 3 ∨ k = 4 → exec (.asqError n k) s =
      .next (((u.bump (Reg.asqDetcnt n) (if k = 3 then 31 else 15) (if k = 3 then 16 else 0) 1).engineFault (32 + n) (9 + k) inj 0).engineStop (32 + n))) ∧
    (n < 4 → s.unitIn (36 + n) = true → s.takeInj (Reg.stmInj n) k 0 = (inj, u) → 1 ≤ k → k ≤ 3 → exec (.stemError n k) s =
      .next (((u.bump (Reg.stmDetcnt n) (third k).1 (third k).2 1).engineFault (36 + n) (0x0F + k) inj 0).engineStop (36 + n))) ∧
    (n < 16 → s.unitIn (40 + n) = true → s.takeInj (Reg.uuInj n) k 0 = (inj, u) → 1 ≤ k → k ≤ 3 → exec (.uuError n k) s =
      .next (((u.bump (Reg.uuDetcnt n) (third k).1 (third k).2 1).engineFault (40 + n) (0x13 + k) inj 0).engineStop (40 + n))) ∧
    (s.unitIn 184 = true → s.takeInj Reg.itkInj k 0 = (inj, u) →
      (k = 3 → exec (.intakeError k) s = .next (State.countDet (itkCount u k) (0x1A * 65536)
        { cls := 1, sev := 1, rtype := 0, det := 0x1A, inj := inj, dom := 1, inst := 184, unit := 184, op := (itkCount u k).opOn 184 })) ∧
      (k = 1 ∨ k = 2 ∨ k = 4 → exec (.intakeError k) s =
        .next (((itkCount u k).engineFault 184 (if k = 4 then 0x1A else 0x17 + k) inj 0).intakeStop))) ∧
    (n < 56 ∨ n = 184 → s.unitIn n = true → (∃ p ∈ s.pieces, p.unit = n ∧ p.phase = .running) → s.takeInj Reg.fltInj 1 n = (inj, u) →
      exec (.unitWatchdog n) s = .next ((u.engineFault n 0x1C inj 0).ownRule n)) ∧
    (∀ index q sn o, n < 4 → index < 65536 → s.op? q sn = some o → o.d.cls = 3 → o.phase = .started →
      (s.takeInj (Reg.asqInj n) 1 0 = (inj, u) → exec (.directoryEcc n index false q sn) s = .next ((u.bump (Reg.asqDetcnt n) 63 48 1).countDet (0x0E * 65536 + n)
        { cls := 1, sev := 2, rtype := 0, det := 0x0E, inj := inj, dom := 1, inst := 32 + n, unit := 32 + n, op := some (q, sn, o.ctx), info := index })) ∧
      (s.takeInj (Reg.asqInj n) 2 0 = (inj, u) → exec (.directoryEcc n index true q sn) s = .next ((((u.bump (Reg.asqDetcnt n) 47 32 1).detect
        { cls := 1, sev := 2, rtype := 0, det := 0x0E, inj := inj, dom := 1, inst := 32 + n, unit := 32 + n, op := some (q, sn, o.ctx), info := index }).clearDir
          (65536 * n + index)).failOp q sn stDataErr (if o.d.op = 2 then 0 else 1))))

/-- Other faults: a node tile computed again (R197), a tile store's bit errors (R590), a rigging core held after its watchdog (R592), a partner lost with its
ops (R586), and the self-test and recoveries that answer a fault (R583, R584, R587). -/
def Obligations.OtherFaultsRule : Prop :=
  ∀ (s u : State) (inj : Bool),
    (∀ q sn unit o ns v w, s.op? q sn = some o → o.phase = .started → ns = s.nodesOn o unit → ns ≠ [] →
      v = (s.event (if 56 ≤ unit ∧ unit < 184 then 3 else 1) 0
        { cls := if 56 ≤ unit ∧ unit < 184 then 3 else 1, sev := 0, rtype := 3, det := 0, unit := unit, op := some (q, sn, o.ctx) }).mapOp
          q sn (fun x => { x with replayB := true }) →
      w = { v with nodes := v.nodes.filter (fun n => !ns.contains n) } →
      exec (.nodeTileLost q sn unit) s = .next (w.rehomeOp 1024 (ns.filterMap (NodeTile.lost w.selfAddr)) o)) ∧
    (∀ core, core < 8 → s.rigOut.get (fun _ => false) core = false → s.takeInj Reg.fltInj 9 core = (inj, u) → exec (.coreWatchdog core) s = .next
      (State.detect { u with rigOut := u.rigOut.set (fun _ => false) core true } { cls := 10, sev := 3, rtype := 0, det := 0x90, inj := inj, dom := 6, inst := 0, info := core })) ∧
    (∀ addr case q sn slot d b two f, region addr = .tile d b → s.populated addr = true → s.takeInj Reg.fltInj (if two then 3 else 2) (56 * d + b) = (inj, u) →
      f = ({ cls := 2, sev := 1, rtype := 0, det := 0x29, inj := inj, dom := 2, inst := 512 + (56 * d + b), addr := addr, op := (u.op? q sn).map (fun o => (o.q, o.s, o.ctx)) } : FaultIn) →
      (two = false → exec (.tileStoreEcc addr two case q sn slot) s = .next ((u.bump Reg.fltTscnt 63 32 1).countDet (0x29 * 65536 + (56 * d + b)) f)) ∧
      (two = true → case = 1 → exec (.tileStoreEcc addr two case q sn slot) s = .next ((u.bump Reg.fltTscnt 31 0 1).detect f)) ∧
      (two = true → case = 2 → exec (.tileStoreEcc addr two case q sn slot) s = .next ((u.bump Reg.fltTscnt 31 0 1).setMark addr .badCrc)) ∧
      (two = true → case ≠ 1 → case ≠ 2 → (u.op? q sn).isSome = true → exec (.tileStoreEcc addr two case q sn slot) s = .next
        (((u.bump Reg.fltTscnt 31 0 1).detect { f with sev := 2 }).failOp q sn stDataErr slot)) ∧
      (two = true → case ≠ 1 → case ≠ 2 → u.op? q sn = none → exec (.tileStoreEcc addr two case q sn slot) s = .next
        ((u.bump Reg.fltTscnt 31 0 1).detect { f with sev := 2 }))) ∧
    (∀ addr port, addr < 4096 → port < 96 → exec (.partnerLost addr port) s = .next
      (State.partnerOps (s.detect { cls := 3, sev := 2, rtype := 0, det := 0x37, dom := 3, inst := 32 + port, info := addr }) addr port
        (s.detect { cls := 3, sev := 2, rtype := 0, det := 0x37, dom := 3, inst := 32 + port, info := addr }).ops)) ∧
    (∀ dom inst out w, s.testFault dom inst = some w →
      (dom = 1 → inst < 16 → exec (.targetedSelfTest dom inst out) s = .next (s.mxeTest inst w out)) ∧
      (dom = 1 → (16 ≤ inst ∧ inst < 56) ∨ inst = 184 → exec (.targetedSelfTest dom inst out) s = .next (s.unitTest inst w out)) ∧
      (dom = 2 → inst < 256 → exec (.targetedSelfTest dom inst out) s = .next (s.hbmTest inst w out)) ∧
      (dom = 2 → 256 ≤ inst → inst < 272 → exec (.targetedSelfTest dom inst out) s = .next (s.deepTest (inst - 256) w out)) ∧
      (dom = 2 → 272 ≤ inst → inst < 289 → exec (.targetedSelfTest dom inst out) s = .next (s.mscTest (inst - 272) w out)) ∧
      (dom = 2 → 512 ≤ inst → inst < 736 → exec (.targetedSelfTest dom inst out) s = .next (s.bankTest (inst - 512) w out)) ∧
      (dom = 3 → inst < 32 → exec (.targetedSelfTest dom inst out) s = .next (s.bundleTest inst w out))) ∧
    (∀ die bad us v, die < 4 → s.recovering 4 die = true → us = dieUnits die →
      v = us.foldl (fun t n => State.retest t bad n) (us.foldl (fun t n => State.unitOut t n) (us.foldl (fun t n => State.putBit t (unitStat n) 1 false) s)) →
      ∃ w, w = ((List.range 32).filter (fun b => (bundleEnds b).1 == die || (bundleEnds b).2 == die)).foldl (fun t b => State.setBundle t b)
          ((List.range 4).foldl (fun t k => if State.unitIn t (16 + 4 * die + k) then t else State.queueLost t (4 * die + k)) v) ∧
        exec (.dieRecovery die bad true) s = .next (w.recoveryFails 4 die) ∧
        exec (.dieRecovery die bad false) s = .next (if w.dieAlone die then w.recoveryFails 4 die else w.resolve 4 die 7 0)) ∧
    (∀ beats bad isolated, s.recovering 6 0 = true → ∃ v,
      v = (((s.windows.filter (fun w => w.dom == 1 && w.into != 0 && !w.tested)).map Window.inst).eraseDups.foldl (fun t n => State.retest t bad n) s) ∧
      (v.rigOut = [] → exec (.moduleRecovery beats bad isolated) s = .next
        (if isolated then (v.rebaseBy beats).recoveryFails 6 0 else (v.rebaseBy beats).resolve 6 0 7 0)))

/-- The fault queue. A formed record is queued or counted as lost (R574, R576): it takes the next SEQ either way, and FLT_LOST counts it as formed; with room
its eight words enter slot FLT_QTAIL mod 4,096 and FLT_QTAIL advances; in a full ring the queue is as before, its class's lost count rises, and OVF, FIRSTLOST and
FIRSTSEQ hold the first such record. RSC_KEEP's source (R550) holds the record last. FLT_QHEAD takes a value no further on than FLT_QTAIL, any other write sets
HEADERR (R575), and the write to OVF clears OVF, FIRSTLOST and FIRSTSEQ (R576). -/
def Obligations.FaultQueueRule : Prop :=
  (∀ (s t : State) (f : FaultIn) (seq tail : Nat) (ws : List Word), t = s.formOne f → seq = s.fld Reg.fltSeq 31 0 → tail = s.fld Reg.fltQtail 31 0 →
    ws = recordWords f seq s.ns s.beat → f.cls < 16 →
    t.fld Reg.fltSeq 31 0 = (seq + 1) % 2 ^ 32 ∧ t.fld (Reg.fltLost f.cls) 63 32 = satAdd 32 (s.fld (Reg.fltLost f.cls) 63 32) 1 ∧
    t.fld Reg.fltQhead 31 0 = s.fld Reg.fltQhead 31 0 ∧ t.keep.getLast? = some ws ∧
    (s.queueFull = false → (∀ i, i < 8 → t.rd (Reg.fltQ (tail % 4096) i) = ws.getD i 0) ∧ t.fld Reg.fltQtail 31 0 = (tail + 1) % 2 ^ 32 ∧
      (∀ k i, k < 4096 → i < 8 → k ≠ tail % 4096 → t.rd (Reg.fltQ k i) = s.rd (Reg.fltQ k i)) ∧
      t.fld (Reg.fltLost f.cls) 31 0 = s.fld (Reg.fltLost f.cls) 31 0 ∧ t.flag Reg.fltStat 0 = s.flag Reg.fltStat 0) ∧
    (s.queueFull = true → (∀ k i, k < 4096 → i < 8 → t.rd (Reg.fltQ k i) = s.rd (Reg.fltQ k i)) ∧ t.fld Reg.fltQtail 31 0 = tail ∧
      t.fld (Reg.fltLost f.cls) 31 0 = satAdd 32 (s.fld (Reg.fltLost f.cls) 31 0) 1 ∧ t.flag Reg.fltStat 0 = true ∧
      (s.flag Reg.fltStat 0 = false → t.fld Reg.fltStat 31 28 = f.cls ∧ t.fld Reg.fltStat 63 32 = seq) ∧
      (s.flag Reg.fltStat 0 = true → t.fld Reg.fltStat 31 28 = s.fld Reg.fltStat 31 28 ∧ t.fld Reg.fltStat 63 32 = s.fld Reg.fltStat 63 32))) ∧
  (∀ (ag : Agent) (h : BitVec 32) (s : State), Who.barRigCore.admits ag = true →
    (ahead h.toNat (s.fld Reg.fltQhead 31 0) ≤ ahead (s.fld Reg.fltQtail 31 0) (s.fld Reg.fltQhead 31 0) → ∃ t, exec (.fltQhead ag h) s = .next t ∧
      t.fld Reg.fltQhead 31 0 = h.toNat ∧ t.flag Reg.fltStat 1 = t.queueFull ∧ t.fld Reg.fltStat 63 2 = s.fld Reg.fltStat 63 2 ∧
      regsOnly s t [Reg.fltQhead, Reg.fltStat]) ∧
    (ahead (s.fld Reg.fltQtail 31 0) (s.fld Reg.fltQhead 31 0) < ahead h.toNat (s.fld Reg.fltQhead 31 0) → ∃ t, exec (.fltQhead ag h) s = .next t ∧
      t.flag Reg.fltStat 3 = true ∧ t.fld Reg.fltStat 2 0 = s.fld Reg.fltStat 2 0 ∧ t.fld Reg.fltStat 63 4 = s.fld Reg.fltStat 63 4 ∧ regsOnly s t [Reg.fltStat]) ∧
    (∃ t, exec (.ovfClear ag) s = .next t ∧ t.flag Reg.fltStat 0 = false ∧ t.fld Reg.fltStat 31 28 = 0 ∧ t.fld Reg.fltStat 63 32 = 0 ∧
      t.fld Reg.fltStat 27 1 = s.fld Reg.fltStat 27 1 ∧ regsOnly s t [Reg.fltStat]))

/-- Windows and repair columns: a window closes after its hold (R580), MXE_COLMAP is written by the rigging cores alone, while the MXE is out of service and
no two enabled slots of a quad name one column (R176). -/
def Obligations.WindowsCloseAndColumnsAreMapped : Prop :=
  (∀ (dom inst : Nat) (s : State) (w : Window), s.window dom inst = some w → w.busy = false → w.into = 0 → w.ends ≤ s.ns →
    exec (.windowClose dom inst) s = .next (s.setWindows (s.windows.filter (fun v => !(v.dom == dom && v.inst == inst))))) ∧
  (∀ (n : Nat) (v : Word) (s : State), n < 16 →
    (s.unitIn n = true ∨ colmapClash v = true → ∃ t, exec (.mxeColmap .rig n v) s = .next t ∧ t.flag (Reg.mxeStat n) 3 = true ∧ regsOnly s t [Reg.mxeStat n]) ∧
    (s.unitIn n = false → colmapClash v = false → ∃ t, exec (.mxeColmap .rig n v) s = .next t ∧ t.rd (Reg.mxeColmap n) = v ∧ regsOnly s t [Reg.mxeColmap n]) ∧
    (∀ ag, ag ≠ .rig → exec (.mxeColmap ag n v) s = .next s))

/-! ### Power, debug and control space -/

/-- The power states (R598, Table 20.3), the caps (R600, R603), the mezzanines (R604), the sensors and the trip (R605 to R607), and the cages. -/
def Obligations.PowerRule : Prop :=
  ∀ s : State,
    (∀ input en p0 p1, s.power = .off → ∃ t, exec (.wake input en p0 p1) s = .next t ∧ t.pwrEn = en ∧ t.perst = [p0, p1] ∧
      (t.power = .ramp ↔ 4350 ≤ input ∧ (en = true ∨ p0 = true ∨ p1 = true)) ∧ { t with pwrEn := s.pwrEn, perst := s.perst, power := s.power } = s) ∧
    (s.power = .ramp → exec .railsInRegulation s = .next (State.moduleReset { s with power := .on, powerGood := true, sincePg := 0, held := s.held.land 3 } 1) ∧
      exec .rampTimeout s = .next (s.powerDown .latchoff)) ∧
    (s.power = .on → exec .inputBelow40v s = .next (s.powerDown .off) ∧
      exec .pwrEnFall s = .next (State.powerDown { s with pwrEn := false } .off) ∧
      (∀ ag v, Who.barRig.admits ag = true → bits v 15 8 = 0x5A → bit v 0 = true → exec (.pwrOff ag v) s = .next (s.powerDown .off)) ∧
      (∀ rail inj u, s.takeInj Reg.pwrInj (if rail = 0 then 2 else 3) 0 = (inj, u) → exec (.railFault rail) s = .next (u.railFaults rail inj)) ∧
      (∀ part temp inj u, (thresholds part).2.2 ≤ temp → s.takeInj Reg.pwrInj 6 part = (inj, u) → exec (.thermalTrip part temp) s = .next (u.tripPart part inj))) ∧
    (s.power = .on ∨ s.power = .ramp → exec .conversionOff s = .next (s.powerDown .latchoff)) ∧
    (∀ p, (s.powerDown p).power = p ∧ (s.powerDown p).powerGood = false ∧ (s.powerDown p).regs = [] ∧ (s.powerDown p).mem = [] ∧
      (s.powerDown p).pending = s.pending) ∧
    (∀ input, s.power = .latchoff → (input < 500 → exec (.latchoffExit input false) s = .next { s with power := .off }) ∧
      ∃ t, exec (.latchoffExit input true) s = .next t ∧ t.power = (if 4350 ≤ input then .ramp else .off) ∧ t.pwrEn = true ∧
        { t with power := s.power, pwrEn := s.pwrEn } = s) ∧
    (∀ ag v, (Who.barRig.admits ag = true → exec (.pwrCaphost ag v) s = .next { s with capNext := s.capNext ++ [(0, min 3200 (max 1600 (bits v 15 0)))] }) ∧
      (Who.rigI3c.admits ag = true → exec (.pwrCapbmc ag v) s = .next { s with capNext := s.capNext ++ [(1, min 3200 (max 1600 (bits v 15 0)))] })) ∧
    (∀ p10 inj u, s.takeInj Reg.pwrInj 4 0 = (inj, u) → inj = true ∨ 10000 ≤ s.floorB → exec (.capfail p10) s =
      .next (u.condition 0x83 0 1 (p10 % 2 ^ 16) inj)) ∧
    (∀ n, n < 2 → s.power = .on →
      (s.mz50.getD n false = true → s.mezzanines = 2 → exec (.mzloss n) s = .next
        ((State.putBit { s with mz50 := s.mz50.set n false, mzFirst := true } Reg.pwrStat (18 + n) false).mzAlert n false)) ∧
      (s.mz50.getD n false = false → exec (.mezzanineSupplyReturn n) s = .next
        ((State.putBit { s with mz50 := s.mz50.set n true, mzFirst := false } Reg.pwrStat (18 + n) true).form { cls := 9, sev := 0, rtype := 3, det := 0x89, info := 2 ^ n }))) ∧
    (∀ temps u v, s.power = .on → s.start ≠ 0 →
      u = State.readTemps { s with cooled := (tempParts temps).all (fun x => decide (heldAt x + 15 ≤ (thresholds x.1).2.2)) } temps →
      v = (tempParts temps).foldl (fun (w : State) x => w.partAlert x)
        (State.putBit { u with hot := holdsOf u.hot ((tempParts temps).map u.reported) } Reg.pwrStat 17 (State.thermalHold { u with hot := holdsOf u.hot ((tempParts temps).map u.reported) })) →
      ∀ cool w, v.takeInj Reg.pwrInj 8 0 = (cool, w) → exec (.sensorReading temps) s = .next (State.injectedReading
        (if cool || decide (temps.inlet < 25) || decide (45 < temps.inlet) || decide (60 < temps.outlet)
          then w.condition 0x87 0 5 (256 * Sys2Proof.Machine.trunc 8 temps.outlet + Sys2Proof.Machine.trunc 8 temps.inlet) cool else w) (tempParts temps))) ∧
    (s.tripN = true → s.cooled = true → exec .tripClear s = .next { s with tripN := false, held := s.held.land 5 }) ∧
    (∀ cage pos low, cage < 8 → pos < 3 → ∃ t, exec (.cagePresence cage pos low) s = .next t ∧ t.cagePins.testBit (3 * cage + pos) = low ∧
      (∀ k, k ≠ 3 * cage + pos → t.cagePins.testBit k = s.cagePins.testBit k) ∧ t.flag Reg.cage (8 + (3 * cage + pos)) = low ∧
      regsOnly s { t with cagePins := s.cagePins } [Reg.cage]) ∧
    (∀ cage, cage < 8 → s.cageOn cage = true → exec (.cageOvercurrent cage) s = .next
      ((s.putBit Reg.cage cage true).condition 0x89 (8 + cage) 8 (2 ^ (8 + cage)) false))

/-- Sideband and debug (R612, R614, R615): dynamic addresses, the JTAG instructions, the signed challenge, and the accesses of an open session (whose codes
are the model's own); a plain register write, which reaches the register's own rule (R7, R494, R612); and a host's mask of one of its vectors in BAR2
(R493, R496; where BAR2 stands among the addresses is the model's choice, log entry 163). -/
def Obligations.SidebandAndControlSpace : Prop :=
  ∀ s : State,
    (∀ addr, s.i3cAddr = 0 → addr < 128 → exec (.setdasa addr) s = .next { s with i3cAddr := addr } ∧ exec (.entdaa addr) s = .next { s with i3cAddr := addr }) ∧
    (s.pinHigh = false → exec .extest s = .next { s with jtag := 0x00 } ∧ exec .samplePreload s = .next { s with jtag := 0x02 }) ∧
    exec .idcode s = .next { s with jtag := 0x01, reply := some 0x01616E4B#64 } ∧ exec .bypass s = .next { s with jtag := 0xFF } ∧
    (∀ (random : BitVec 256) (req : Word) (key sig : List Byte), ∃ t, exec (.dbgauth random req key sig) s = .next t ∧ t.jtag = 0x10 ∧
      t.challenge = Config.sha3 (bytesOf 8 (s.fuse Fuse.serial) ++ bytesOf 8 s.ns ++ bytesOf 32 random.toNat) ∧
      (t.session = true ↔ s.session = true ∨ (s.debugAdmits.1 = true ∧ (s.debugAdmits.2 = false ∨
        (ofBytes (Config.sha3 key) = s.fuse (Fuse.keyHash 3) ∧ s.fuse Fuse.keyRevoke / 8 % 2 = 0 ∧
          Config.mldsaVerify key (t.challenge ++ bytesOf 8 (s.fuse Fuse.serial) ++ bytesOf 8 req.toNat) sig = true)))) ∧
      { t with jtag := s.jtag, challenge := s.challenge, session := s.session } = s) ∧
    (∀ code arg v, s.session = false → exec (.dbgacc code arg v) s = .next { s with jtag := 0x11 }) ∧
    (∀ arg v, s.session = true →
      exec (.dbgacc 0 arg v) s = .next { s with jtag := 0x11, halted := true } ∧ exec (.dbgacc 1 arg v) s = .next { s with jtag := 0x11, halted := false } ∧
      exec (.dbgacc 2 arg v) s =
        .next { (State.debugRead { s with jtag := 0x11 } arg).2 with reply := (State.debugRead { s with jtag := 0x11 } arg).1 } ∧
      exec (.dbgacc 8 arg v) s = .next (State.moduleReset { s with jtag := 0x11 } 8) ∧ exec (.dbgacc 9 arg v) s = .next { s with jtag := 0x11, session := false }) ∧
    (∀ ag r (addr : Nat) (v : Word), addr % 8 = 0 → inRegBlock addr = true → addr < bootBase → ag = .rig ∨ (∃ n, ag = .hl n) →
      s.writeSingle (Wrt.of ag addr 8 v) = none → s.writeGroup (Wrt.of ag addr 8 v) = none → s.writeInj (Wrt.of ag addr 8 v) = none →
      rowAt addr regMap = some r → ∃ t, exec (.registerWrite ag addr 8 v) s = .next t ∧
        t.rd addr = (if r.who.admits ag then writeFields r.fields (s.rd addr) v 63 0 else s.rd addr) ∧ regsOnly s t [addr]) ∧
    (∀ n off v, off < 0x4000 → off % 16 = 12 → exec (.registerWrite (.hl n) (bar2 + off) 4 v) s = .next (s.maskVector (1024 * n + off / 16) (bit v 0))) ∧
    (∀ n addr width v, (regAligned addr width && inRegBlock addr) = false → addr < bar2 ∨ bar2 + 0x10000 ≤ addr → ∃ t, exec (.registerWrite (.hl n) addr width v) s = .next t ∧
      t.fld (Reg.hlkBar n) 63 32 = satAdd 32 (s.fld (Reg.hlkBar n) 63 32) 1 ∧ regsOnly s t [Reg.hlkBar n])

/-- Rounding to nearest, ties to even (R184, Table 4.4): no multiple of 2^q lies nearer to m × 2^e than the rounded one, and of two that lie as near the even
one is taken. -/
def Obligations.RoundsToNearestEven : Prop :=
  ∀ (neg : Bool) (m d k : Nat) (e q : Int), e < q → d = 2 ^ (q - e).toNat → k = roundMag .rne neg m e q →
    (∀ j : Nat, Int.natAbs ((m : Int) - k * d) ≤ Int.natAbs ((m : Int) - j * d)) ∧
    (∀ j : Nat, j ≠ k → Int.natAbs ((m : Int) - j * d) = Int.natAbs ((m : Int) - k * d) → k % 2 = 0)
end

