-- ==== Sys2Proof/Laws/Bits.lean ====
section
/-! SUPPORT. The laws of bit fields: a field written reads back, and every other field is as before. -/

namespace Sys2Proof.Machine

/-- A word split at a field: what lies above it, the field, what lies below. -/
theorem bits_split (w : Word) (hi lo : Nat) (h : lo ≤ hi) :
    w.toNat = w.toNat / 2 ^ (hi + 1) * 2 ^ (hi + 1) + bits w hi lo * 2 ^ lo + w.toNat % 2 ^ lo := by
  have e : (2 : Nat) ^ (hi + 1) = 2 ^ lo * 2 ^ (hi + 1 - lo) := by rw [← pow_add]; congr 1; omega
  have h1 := Nat.div_add_mod w.toNat (2 ^ lo)
  have h2 := Nat.div_add_mod (w.toNat / 2 ^ lo) (2 ^ (hi + 1 - lo))
  unfold bits
  rw [e, ← Nat.div_div_eq_div_mul]
  generalize w.toNat / 2 ^ lo % 2 ^ (hi + 1 - lo) = y at *
  generalize w.toNat / 2 ^ lo / 2 ^ (hi + 1 - lo) = z at *
  generalize w.toNat % 2 ^ lo = x at *
  rw [← h1, ← h2]
  ring

theorem bits_lt (w : Word) (hi lo : Nat) : bits w hi lo < 2 ^ (hi + 1 - lo) := Nat.mod_lt _ (by positivity)

/-- A number built of three parts at a field's bounds. -/
theorem parts_field (a b c hi lo : Nat) (h : lo ≤ hi) (hb : b < 2 ^ (hi + 1 - lo)) (hc : c < 2 ^ lo) :
    (a * 2 ^ (hi + 1) + b * 2 ^ lo + c) % 2 ^ lo = c ∧ (a * 2 ^ (hi + 1) + b * 2 ^ lo + c) / 2 ^ lo % 2 ^ (hi + 1 - lo) = b ∧
      (a * 2 ^ (hi + 1) + b * 2 ^ lo + c) / 2 ^ (hi + 1) = a := by
  have e : (2 : Nat) ^ (hi + 1) = 2 ^ (hi + 1 - lo) * 2 ^ lo := by rw [← pow_add]; congr 1; omega
  have e2 : a * 2 ^ (hi + 1) + b * 2 ^ lo + c = c + (a * 2 ^ (hi + 1 - lo) + b) * 2 ^ lo := by rw [e]; ring
  have hd : (c + (a * 2 ^ (hi + 1 - lo) + b) * 2 ^ lo) / 2 ^ lo = a * 2 ^ (hi + 1 - lo) + b := by
    rw [Nat.add_mul_div_right _ _ (by positivity), Nat.div_eq_of_lt hc, Nat.zero_add]
  refine ⟨?_, ?_, ?_⟩
  · rw [e2, Nat.add_mul_mod_self_right, Nat.mod_eq_of_lt hc]
  · rw [e2, hd, Nat.add_comm, Nat.add_mul_mod_self_right, Nat.mod_eq_of_lt hb]
  · rw [e2, e, mul_comm (2 ^ (hi + 1 - lo)), ← Nat.div_div_eq_div_mul, hd, Nat.add_comm, Nat.add_mul_div_right _ _ (by positivity),
      Nat.div_eq_of_lt hb, Nat.zero_add]

/-- What a field write leaves, in parts. -/
theorem putBits_toNat (w : Word) (hi lo v : Nat) (h : lo ≤ hi) (h64 : hi < 64) :
    (putBits w hi lo v).toNat = w.toNat / 2 ^ (hi + 1) * 2 ^ (hi + 1) + v % 2 ^ (hi + 1 - lo) * 2 ^ lo + w.toNat % 2 ^ lo := by
  have hs := bits_split w hi lo h
  have hv : v % 2 ^ (hi + 1 - lo) < 2 ^ (hi + 1 - lo) := Nat.mod_lt _ (by positivity)
  have hc : w.toNat % 2 ^ lo < 2 ^ lo := Nat.mod_lt _ (by positivity)
  have e : (2 : Nat) ^ (hi + 1) = 2 ^ (hi + 1 - lo) * 2 ^ lo := by rw [← pow_add]; congr 1; omega
  have e64 : (2 : Nat) ^ 64 = 2 ^ (63 - hi) * 2 ^ (hi + 1) := by rw [← pow_add]; congr 1; omega
  have ha : w.toNat / 2 ^ (hi + 1) < 2 ^ (63 - hi) := by
    rw [Nat.div_lt_iff_lt_mul (by positivity), ← e64]; exact w.isLt
  have key : w.toNat - bits w hi lo * 2 ^ lo + v % 2 ^ (hi + 1 - lo) * 2 ^ lo =
      w.toNat / 2 ^ (hi + 1) * 2 ^ (hi + 1) + v % 2 ^ (hi + 1 - lo) * 2 ^ lo + w.toNat % 2 ^ lo := by omega
  have hlow : v % 2 ^ (hi + 1 - lo) * 2 ^ lo + w.toNat % 2 ^ lo < 2 ^ (hi + 1) := by
    rw [e]
    calc v % 2 ^ (hi + 1 - lo) * 2 ^ lo + w.toNat % 2 ^ lo < v % 2 ^ (hi + 1 - lo) * 2 ^ lo + 2 ^ lo := by omega
      _ = (v % 2 ^ (hi + 1 - lo) + 1) * 2 ^ lo := by ring
      _ ≤ 2 ^ (hi + 1 - lo) * 2 ^ lo := Nat.mul_le_mul_right _ hv
  have hlt : w.toNat / 2 ^ (hi + 1) * 2 ^ (hi + 1) + v % 2 ^ (hi + 1 - lo) * 2 ^ lo + w.toNat % 2 ^ lo < 2 ^ 64 := by
    rw [e64]
    calc _ < w.toNat / 2 ^ (hi + 1) * 2 ^ (hi + 1) + 2 ^ (hi + 1) := by omega
      _ = (w.toNat / 2 ^ (hi + 1) + 1) * 2 ^ (hi + 1) := by ring
      _ ≤ 2 ^ (63 - hi) * 2 ^ (hi + 1) := Nat.mul_le_mul_right _ ha
  simp only [putBits, key, BitVec.toNat_ofNat]
  exact Nat.mod_eq_of_lt hlt

/-- The field written reads as the low bits of the value. -/
theorem bits_putBits_same (w : Word) (hi lo v : Nat) (h : lo ≤ hi) (h64 : hi < 64) : bits (putBits w hi lo v) hi lo = v % 2 ^ (hi + 1 - lo) := by
  have := parts_field (w.toNat / 2 ^ (hi + 1)) (v % 2 ^ (hi + 1 - lo)) (w.toNat % 2 ^ lo) hi lo h (Nat.mod_lt _ (by positivity)) (Nat.mod_lt _ (by positivity))
  rw [bits, putBits_toNat w hi lo v h h64]
  exact this.2.1

/-- A field below the one written is as before. -/
theorem bits_putBits_below (w : Word) (hi lo v h l : Nat) (hh : lo ≤ hi) (h64 : hi < 64) (hb : h < lo) (hl : l ≤ h) :
    bits (putBits w hi lo v) h l = bits w h l := by
  have key := (parts_field (w.toNat / 2 ^ (hi + 1)) (v % 2 ^ (hi + 1 - lo)) (w.toNat % 2 ^ lo) hi lo hh (Nat.mod_lt _ (by positivity)) (Nat.mod_lt _ (by positivity))).1
  rw [← putBits_toNat w hi lo v hh h64] at key
  have low : ∀ x : Nat, x / 2 ^ l % 2 ^ (h + 1 - l) = (x % 2 ^ lo) / 2 ^ l % 2 ^ (h + 1 - l) := by
    intro x
    have e : (2 : Nat) ^ lo = 2 ^ l * (2 ^ (h + 1 - l) * 2 ^ (lo - h - 1)) := by rw [← pow_add, ← pow_add]; congr 1; omega
    rw [e, Nat.mod_mul_right_div_self, Nat.mod_mul_right_mod]
  unfold bits
  rw [low, key, ← low]

/-- A field above the one written is as before. -/
theorem bits_putBits_above (w : Word) (hi lo v h l : Nat) (hh : lo ≤ hi) (h64 : hi < 64) (hb : hi < l) : bits (putBits w hi lo v) h l = bits w h l := by
  have key := (parts_field (w.toNat / 2 ^ (hi + 1)) (v % 2 ^ (hi + 1 - lo)) (w.toNat % 2 ^ lo) hi lo hh (Nat.mod_lt _ (by positivity)) (Nat.mod_lt _ (by positivity))).2.2
  rw [← putBits_toNat w hi lo v hh h64] at key
  have e : (2 : Nat) ^ l = 2 ^ (hi + 1) * 2 ^ (l - (hi + 1)) := by rw [← pow_add]; congr 1; omega
  unfold bits
  rw [e, ← Nat.div_div_eq_div_mul, key, Nat.div_div_eq_div_mul]

/-- A flag is a one-bit field. -/
theorem bit_putBits_same (w : Word) (i : Nat) (b : Bool) (h : i < 64) : bit (putBits w i i (b2n b)) i = b := by
  unfold bit
  rw [bits_putBits_same w i i _ (le_refl _) h]
  cases b <;> simp [b2n]

end Sys2Proof.Machine
end

