-- ==== Sys2Proof/Laws/Tab.lean ====
section
/-! SUPPORT. The laws of sparse tables: what a write reads as, and that every operation keeps the canonical form. The form is
stated twice: `Tab.wf`, which computes, and `Tab.Sorted`, which proofs use. -/

namespace Sys2Proof.Machine

variable {α : Type}

/-- The canonical form as a proposition: keys strictly rising, no entry equal to what its key reads as. -/
def Tab.Sorted (d : Nat → α) (t : Tab α) : Prop := t.Pairwise (fun p q => p.1 < q.1) ∧ ∀ p ∈ t, p.2 ≠ d p.1

/-- The computed form and the stated one agree. -/
theorem Tab.wf_iff [DecidableEq α] (d : Nat → α) (t : Tab α) : Tab.wf d t = true ↔ Tab.Sorted d t := by
  induction t with
  | nil => simp [Tab.wf, Tab.Sorted]
  | cons p t ih =>
    cases t with
    | nil => simp [Tab.wf, Tab.Sorted]
    | cons q t =>
      simp only [Tab.wf, Bool.and_eq_true, decide_eq_true_eq, ih, Tab.Sorted, List.pairwise_cons, List.mem_cons]
      constructor
      · rintro ⟨⟨h1, h2⟩, ⟨h3, h4⟩, h5⟩
        refine ⟨⟨?_, h3, h4⟩, ?_⟩
        · rintro x (rfl | hx)
          · exact h2
          · exact lt_trans h2 (h3 x hx)
        · rintro x (rfl | hx)
          · exact h1
          · exact h5 x hx
      · rintro ⟨⟨h1, h3, h4⟩, h5⟩
        exact ⟨⟨h5 p (Or.inl rfl), h1 q (Or.inl rfl)⟩, ⟨h3, h4⟩, fun x hx => h5 x (Or.inr hx)⟩

theorem Tab.sorted_nil (d : Nat → α) : Tab.Sorted d [] := by simp [Tab.Sorted]

theorem Tab.wf_nil [DecidableEq α] (d : Nat → α) : Tab.wf d ([] : Tab α) = true := rfl

/-- Dropping entries keeps the form. -/
theorem Tab.sorted_filter (d : Nat → α) (t : Tab α) (p : Nat × α → Bool) (h : Tab.Sorted d t) : Tab.Sorted d (t.filter p) :=
  ⟨h.1.filter p, fun x hx => h.2 x (List.mem_filter.1 hx).1⟩

theorem Tab.sorted_clear (d : Nat → α) (t : Tab α) (lo hi : Nat) (h : Tab.Sorted d t) : Tab.Sorted d (t.clear lo hi) :=
  Tab.sorted_filter d t _ h

/-- Every key that a write leaves is an old one or the one written. -/
theorem Tab.mem_set [DecidableEq α] (d : Nat → α) (t : Tab α) (k : Nat) (v : α) (p : Nat × α) (h : p ∈ Tab.set d t k v) :
    p ∈ t ∨ (p = (k, v) ∧ v ≠ d k) := by
  induction t with
  | nil =>
    simp only [Tab.set] at h
    split at h <;> simp_all
  | cons q t ih =>
    obtain ⟨j, w⟩ := q
    simp only [Tab.set] at h
    split at h
    · split at h <;> simp_all
      tauto
    · split at h
      · split at h
        · exact Or.inl (List.mem_cons_of_mem _ (List.mem_filter.1 h).1)
        · simp_all; tauto
      · simp only [List.mem_cons] at h ⊢
        rcases h with h | h
        · exact Or.inl (Or.inl h)
        · rcases ih h with h | h
          · exact Or.inl (Or.inr h)
          · exact Or.inr h

/-- A write keeps the form. -/
theorem Tab.sorted_set [DecidableEq α] (d : Nat → α) (t : Tab α) (k : Nat) (v : α) (h : Tab.Sorted d t) : Tab.Sorted d (Tab.set d t k v) := by
  refine ⟨?_, fun p hp => ?_⟩
  · induction t with
    | nil => simp only [Tab.set]; split <;> simp
    | cons q t ih =>
      obtain ⟨j, w⟩ := q
      obtain ⟨h1, h2⟩ := h
      rw [List.pairwise_cons] at h1
      simp only [Tab.set]
      split
      · rename_i hk
        split
        · exact List.pairwise_cons.2 h1
        · refine List.pairwise_cons.2 ⟨?_, List.pairwise_cons.2 h1⟩
          rintro x hx
          rcases List.mem_cons.1 hx with rfl | hx
          · exact hk
          · exact lt_trans hk (h1.1 x hx)
      · split
        · rename_i hk
          subst hk
          split
          · exact h1.2.filter _
          · exact List.pairwise_cons.2 ⟨h1.1, h1.2⟩
        · refine List.pairwise_cons.2 ⟨?_, ih ⟨h1.2, fun x hx => h2 x (List.mem_cons_of_mem _ hx)⟩⟩
          intro x hx
          rcases Tab.mem_set d t k v x hx with hx | ⟨rfl, -⟩
          · exact h1.1 x hx
          · dsimp only; omega
  · rcases Tab.mem_set d t k v p hp with hp | ⟨rfl, hv⟩
    · exact h.2 p hp
    · exact hv

theorem Tab.wf_set [DecidableEq α] (d : Nat → α) (t : Tab α) (k : Nat) (v : α) (h : Tab.wf d t = true) : Tab.wf d (Tab.set d t k v) = true :=
  (Tab.wf_iff d _).2 (Tab.sorted_set d t k v ((Tab.wf_iff d t).1 h))

/-- Where no entry has the key, the key reads as unlisted. -/
theorem Tab.get_absent (d : Nat → α) (t : Tab α) (k : Nat) (h : ∀ p ∈ t, k < p.1) : Tab.get d t k = d k := by
  cases t with
  | nil => rfl
  | cons q t =>
    have := h q (List.mem_cons_self ..)
    simp only [Tab.get]
    rw [if_neg (by omega), if_pos this]

/-- The key written reads as the value. -/
@[simp] theorem Tab.get_set_same [DecidableEq α] (d : Nat → α) (t : Tab α) (k : Nat) (v : α) : Tab.get d (Tab.set d t k v) k = v := by
  induction t with
  | nil => simp only [Tab.set]; split <;> simp_all [Tab.get]
  | cons q t ih =>
    obtain ⟨j, w⟩ := q
    simp only [Tab.set]
    split
    · rename_i hk
      split
      · rename_i hv
        simp only [Tab.get]
        rw [if_neg (by omega), if_pos hk, hv]
      · simp [Tab.get]
    · split
      · split
        · rename_i hv
          rw [Tab.get_absent, hv]
          intro p hp
          simpa using (List.mem_filter.1 hp).2
        · simp [Tab.get]
      · rename_i h1 h2
        simp only [Tab.get]
        rw [if_neg h2, if_neg h1, ih]

/-- Entries below the key do not matter to its reading. -/
theorem Tab.get_filter_low (d : Nat → α) (t : Tab α) (k a : Nat) (h : k < a) :
    Tab.get d (t.filter (fun p => decide (k < p.1))) a = Tab.get d t a := by
  induction t with
  | nil => rfl
  | cons q t ih =>
    obtain ⟨j, w⟩ := q
    simp only [List.filter_cons]
    split
    · simp only [Tab.get, ih]
    · rename_i hj
      simp only [decide_eq_true_eq, not_lt] at hj
      simp only [Tab.get, ih]
      rw [if_neg (by omega), if_neg (by omega)]

/-- Every other key reads as before. -/
theorem Tab.get_set_other [DecidableEq α] (d : Nat → α) (t : Tab α) (k a : Nat) (v : α) (h : a ≠ k) :
    Tab.get d (Tab.set d t k v) a = Tab.get d t a := by
  induction t with
  | nil =>
    simp only [Tab.set]
    split
    · rfl
    · simp only [Tab.get]; rw [if_neg h]; split <;> rfl
  | cons q t ih =>
    obtain ⟨j, w⟩ := q
    simp only [Tab.set]
    split
    · split
      · rfl
      · simp only [Tab.get]
        rw [if_neg h]
        split
        · rename_i h1 h2 h3
          rw [if_neg (by omega), if_pos (by omega)]
        · rfl
    · split
      · rename_i hk
        subst hk
        split
        · by_cases hak : a < k
          · rw [Tab.get_absent]
            · simp only [Tab.get]; rw [if_neg h, if_pos hak]
            · intro p hp
              have := (List.mem_filter.1 hp).2
              simp only [decide_eq_true_eq] at this
              omega
          · rw [Tab.get_filter_low d t k a (by omega)]
            simp only [Tab.get]; rw [if_neg h, if_neg hak]
        · simp only [Tab.get]; rw [if_neg h, if_neg h]
      · simp only [Tab.get, ih]

/-- A write changes the reading of one key. -/
theorem Tab.get_set [DecidableEq α] (d : Nat → α) (t : Tab α) (k a : Nat) (v : α) :
    Tab.get d (Tab.set d t k v) a = if a = k then v else Tab.get d t a := by
  split
  · rename_i h; rw [h, Tab.get_set_same]
  · rename_i h; exact Tab.get_set_other d t k a v h

/-- The entries that list a run lie in it and differ from what their keys read as. -/
theorem Tab.mem_listed [DecidableEq α] (d : Nat → α) (vs : List α) (k : Nat) (p : Nat × α) (h : p ∈ Tab.listed d k vs) :
    k ≤ p.1 ∧ p.1 < k + vs.length ∧ p.2 ≠ d p.1 := by
  induction vs generalizing k with
  | nil => simp [Tab.listed] at h
  | cons v vs ih =>
    simp only [Tab.listed] at h
    split at h
    · have := ih (k + 1) h
      simp only [List.length_cons]
      refine ⟨by omega, by omega, this.2.2⟩
    · rename_i hv
      rcases List.mem_cons.1 h with rfl | h
      · exact ⟨by simp, by simp, hv⟩
      · have := ih (k + 1) h
        simp only [List.length_cons]
        refine ⟨by omega, by omega, this.2.2⟩

theorem Tab.sorted_listed [DecidableEq α] (d : Nat → α) (vs : List α) (k : Nat) : Tab.Sorted d (Tab.listed d k vs) := by
  refine ⟨?_, fun p hp => (Tab.mem_listed d vs k p hp).2.2⟩
  induction vs generalizing k with
  | nil => simp [Tab.listed]
  | cons v vs ih =>
    simp only [Tab.listed]
    split
    · exact ih (k + 1)
    · refine List.pairwise_cons.2 ⟨fun p hp => ?_, ih (k + 1)⟩
      have := (Tab.mem_listed d vs (k + 1) p hp).1
      dsimp only; omega

/-- Writing a run keeps the form. -/
theorem Tab.sorted_setRun [DecidableEq α] (d : Nat → α) (t : Tab α) (k : Nat) (vs : List α) (h : Tab.Sorted d t) :
    Tab.Sorted d (Tab.setRun d t k vs) := by
  have hl := Tab.sorted_listed d vs k
  refine ⟨?_, ?_⟩
  · refine List.pairwise_append.2 ⟨h.1.filter _, List.pairwise_append.2 ⟨hl.1, h.1.filter _, ?_⟩, ?_⟩
    · intro p hp q hq
      have h1 := (Tab.mem_listed d vs k p hp).2.1
      have h2 := (List.mem_filter.1 hq).2
      simp only [decide_eq_true_eq] at h2
      omega
    · intro p hp q hq
      have h1 := (List.mem_filter.1 hp).2
      simp only [decide_eq_true_eq] at h1
      rcases List.mem_append.1 hq with hq | hq
      · have := (Tab.mem_listed d vs k q hq).1; omega
      · have h2 := (List.mem_filter.1 hq).2
        simp only [decide_eq_true_eq] at h2
        omega
  · intro p hp
    rcases List.mem_append.1 hp with hp | hp
    · exact h.2 p (List.mem_filter.1 hp).1
    · rcases List.mem_append.1 hp with hp | hp
      · exact hl.2 p hp
      · exact h.2 p (List.mem_filter.1 hp).1

theorem Tab.wf_setRun [DecidableEq α] (d : Nat → α) (t : Tab α) (k : Nat) (vs : List α) (h : Tab.wf d t = true) :
    Tab.wf d (Tab.setRun d t k vs) = true :=
  (Tab.wf_iff d _).2 (Tab.sorted_setRun d t k vs ((Tab.wf_iff d t).1 h))

theorem Tab.wf_filter [DecidableEq α] (d : Nat → α) (t : Tab α) (p : Nat × α → Bool) (h : Tab.wf d t = true) : Tab.wf d (t.filter p) = true :=
  (Tab.wf_iff d _).2 (Tab.sorted_filter d t p ((Tab.wf_iff d t).1 h))

theorem Tab.wf_clear [DecidableEq α] (d : Nat → α) (t : Tab α) (lo hi : Nat) (h : Tab.wf d t = true) : Tab.wf d (t.clear lo hi) = true :=
  Tab.wf_filter d t _ h

/-- A key is read from the entries that are not above it. -/
theorem Tab.get_append (d : Nat → α) (t u : Tab α) (a : Nat) (h : ∀ p ∈ t, p.1 < a) : Tab.get d (t ++ u) a = Tab.get d u a := by
  induction t with
  | nil => rfl
  | cons q t ih =>
    have := h q (List.mem_cons_self ..)
    simp only [List.cons_append, Tab.get]
    rw [if_neg (by omega), if_neg (by omega), ih (fun p hp => h p (List.mem_cons_of_mem _ hp))]

/-- Entries above a key do not matter to its reading. -/
theorem Tab.get_append_high (d : Nat → α) (t u : Tab α) (a : Nat) (h : ∀ p ∈ u, a < p.1) : Tab.get d (t ++ u) a = Tab.get d t a := by
  induction t with
  | nil => exact Tab.get_absent d u a h
  | cons q t ih => simp only [List.cons_append, Tab.get, ih]

/-- A listed run reads as its values inside it. -/
theorem Tab.get_listed [DecidableEq α] (d : Nat → α) (vs : List α) (k a : Nat) (h1 : k ≤ a) (h2 : a < k + vs.length) :
    Tab.get d (Tab.listed d k vs) a = vs.getD (a - k) (d a) := by
  induction vs generalizing k with
  | nil => simp at h2; omega
  | cons v vs ih =>
    simp only [Tab.listed, List.length_cons] at h2 ⊢
    by_cases ha : a = k
    · subst ha
      simp only [Nat.sub_self, List.getD_cons_zero]
      split
      · rename_i hv
        rw [Tab.get_absent, hv]
        intro p hp
        have := (Tab.mem_listed d vs (a + 1) p hp).1
        omega
      · simp [Tab.get]
    · have e : a - k = (a - (k + 1)) + 1 := by omega
      rw [e, List.getD_cons_succ, ← ih (k + 1) (by omega) (by omega)]
      split
      · rfl
      · simp only [Tab.get]; rw [if_neg ha, if_neg (by omega)]

/-- A sorted table from which the keys above `a` are dropped reads the same at `a`. -/
theorem Tab.get_filter_lt (d : Nat → α) (t : Tab α) (k a : Nat) (h : a < k) (hs : t.Pairwise (fun p q => p.1 < q.1)) :
    Tab.get d (t.filter (fun p => decide (p.1 < k))) a = Tab.get d t a := by
  induction t with
  | nil => rfl
  | cons q t ih =>
    rw [List.pairwise_cons] at hs
    simp only [List.filter_cons]
    split
    · simp only [Tab.get, ih hs.2]
    · rename_i hq
      simp only [decide_eq_true_eq, not_lt] at hq
      rw [ih hs.2, Tab.get_absent d t a (fun p hp => by have := hs.1 p hp; omega)]
      simp only [Tab.get]; rw [if_neg (by omega), if_pos (by omega)]

theorem Tab.get_filter_ge (d : Nat → α) (t : Tab α) (k a : Nat) (h : k ≤ a) :
    Tab.get d (t.filter (fun p => decide (k ≤ p.1))) a = Tab.get d t a := by
  induction t with
  | nil => rfl
  | cons q t ih =>
    simp only [List.filter_cons]
    split
    · simp only [Tab.get, ih]
    · rename_i hq
      simp only [decide_eq_true_eq, not_le] at hq
      simp only [Tab.get, ih]; rw [if_neg (by omega), if_neg (by omega)]

/-- A run written reads as its values inside it, and everything else as before. -/
theorem Tab.get_setRun [DecidableEq α] (d : Nat → α) (t : Tab α) (k a : Nat) (vs : List α) (hs : Tab.wf d t = true) :
    Tab.get d (Tab.setRun d t k vs) a = if k ≤ a ∧ a < k + vs.length then vs.getD (a - k) (d a) else Tab.get d t a := by
  have hs := ((Tab.wf_iff d t).1 hs).1
  have hlow : ∀ p ∈ t.filter (fun p => decide (p.1 < k)), p.1 < k := fun p hp => by simpa using (List.mem_filter.1 hp).2
  have hhigh : ∀ p ∈ t.filter (fun p => decide (k + vs.length ≤ p.1)), k + vs.length ≤ p.1 := fun p hp => by simpa using (List.mem_filter.1 hp).2
  unfold Tab.setRun
  split
  · rename_i h
    rw [Tab.get_append d _ _ a (fun p hp => by have := hlow p hp; omega),
      Tab.get_append_high d _ _ a (fun p hp => by have := hhigh p hp; omega), Tab.get_listed d vs k a h.1 h.2]
  · rename_i h
    by_cases ha : a < k
    · rw [Tab.get_append_high, Tab.get_filter_lt d t k a ha hs]
      intro p hp
      rcases List.mem_append.1 hp with hp | hp
      · have := (Tab.mem_listed d vs k p hp).1; omega
      · have := hhigh p hp; omega
    · rw [Tab.get_append d _ _ a (fun p hp => by have := hlow p hp; omega),
        Tab.get_append d _ _ a (fun p hp => by have := (Tab.mem_listed d vs k p hp).2.1; omega), Tab.get_filter_ge d t _ a (by omega)]

end Sys2Proof.Machine
end

