-- ==== Sys2Proof/Laws/State.lean ====
section
/-! SUPPORT. What each shared update of the state leaves: one lemma per field per update, so that no proof unfolds a record update;
and the laws of registers and memory. -/

namespace Sys2Proof.Machine

/-! ### `State.wr` -/

@[simp] theorem State.wr_pending (s : State) (a : Nat) (v : Word) : (s.wr a v).pending = s.pending := rfl
@[simp] theorem State.wr_mem (s : State) (a : Nat) (v : Word) : (s.wr a v).mem = s.mem := rfl
@[simp] theorem State.wr_hostMem (s : State) (a : Nat) (v : Word) : (s.wr a v).hostMem = s.hostMem := rfl
@[simp] theorem State.wr_hostOut (s : State) (a : Nat) (v : Word) : (s.wr a v).hostOut = s.hostOut := rfl
@[simp] theorem State.wr_sentOut (s : State) (a : Nat) (v : Word) : (s.wr a v).sentOut = s.sentOut := rfl
@[simp] theorem State.wr_ackDue (s : State) (a : Nat) (v : Word) : (s.wr a v).ackDue = s.ackDue := rfl
@[simp] theorem State.wr_tags (s : State) (a : Nat) (v : Word) : (s.wr a v).tags = s.tags := rfl
@[simp] theorem State.wr_marks (s : State) (a : Nat) (v : Word) : (s.wr a v).marks = s.marks := rfl
@[simp] theorem State.wr_ops (s : State) (a : Nat) (v : Word) : (s.wr a v).ops = s.ops := rfl
@[simp] theorem State.wr_pieces (s : State) (a : Nat) (v : Word) : (s.wr a v).pieces = s.pieces := rfl
@[simp] theorem State.wr_waits (s : State) (a : Nat) (v : Word) : (s.wr a v).waits = s.waits := rfl
@[simp] theorem State.wr_ready (s : State) (a : Nat) (v : Word) : (s.wr a v).ready = s.ready := rfl
@[simp] theorem State.wr_recFail (s : State) (a : Nat) (v : Word) : (s.wr a v).recFail = s.recFail := rfl
@[simp] theorem State.wr_cancels (s : State) (a : Nat) (v : Word) : (s.wr a v).cancels = s.cancels := rfl
@[simp] theorem State.wr_flagWait (s : State) (a : Nat) (v : Word) : (s.wr a v).flagWait = s.flagWait := rfl
@[simp] theorem State.wr_totals (s : State) (a : Nat) (v : Word) : (s.wr a v).totals = s.totals := rfl
@[simp] theorem State.wr_lastBeat (s : State) (a : Nat) (v : Word) : (s.wr a v).lastBeat = s.lastBeat := rfl
@[simp] theorem State.wr_offsets (s : State) (a : Nat) (v : Word) : (s.wr a v).offsets = s.offsets := rfl
@[simp] theorem State.wr_rebaseDue (s : State) (a : Nat) (v : Word) : (s.wr a v).rebaseDue = s.rebaseDue := rfl
@[simp] theorem State.wr_rebaseNow (s : State) (a : Nat) (v : Word) : (s.wr a v).rebaseNow = s.rebaseNow := rfl
@[simp] theorem State.wr_pipes (s : State) (a : Nat) (v : Word) : (s.wr a v).pipes = s.pipes := rfl
@[simp] theorem State.wr_retired (s : State) (a : Nat) (v : Word) : (s.wr a v).retired = s.retired := rfl
@[simp] theorem State.wr_mailbox (s : State) (a : Nat) (v : Word) : (s.wr a v).mailbox = s.mailbox := rfl
@[simp] theorem State.wr_marginNext (s : State) (a : Nat) (v : Word) : (s.wr a v).marginNext = s.marginNext := rfl
@[simp] theorem State.wr_wctlNext (s : State) (a : Nat) (v : Word) : (s.wr a v).wctlNext = s.wctlNext := rfl
@[simp] theorem State.wr_tripClear (s : State) (a : Nat) (v : Word) : (s.wr a v).tripClear = s.tripClear := rfl
@[simp] theorem State.wr_detects (s : State) (a : Nat) (v : Word) : (s.wr a v).detects = s.detects := rfl
@[simp] theorem State.wr_tileQ (s : State) (a : Nat) (v : Word) : (s.wr a v).tileQ = s.tileQ := rfl
@[simp] theorem State.wr_stalled (s : State) (a : Nat) (v : Word) : (s.wr a v).stalled = s.stalled := rfl
@[simp] theorem State.wr_resident (s : State) (a : Nat) (v : Word) : (s.wr a v).resident = s.resident := rfl
@[simp] theorem State.wr_nodes (s : State) (a : Nat) (v : Word) : (s.wr a v).nodes = s.nodes := rfl
@[simp] theorem State.wr_accs (s : State) (a : Nat) (v : Word) : (s.wr a v).accs = s.accs := rfl
@[simp] theorem State.wr_spills (s : State) (a : Nat) (v : Word) : (s.wr a v).spills = s.spills := rfl
@[simp] theorem State.wr_roots (s : State) (a : Nat) (v : Word) : (s.wr a v).roots = s.roots := rfl
@[simp] theorem State.wr_armed (s : State) (a : Nat) (v : Word) : (s.wr a v).armed = s.armed := rfl
@[simp] theorem State.wr_seqs (s : State) (a : Nat) (v : Word) : (s.wr a v).seqs = s.seqs := rfl
@[simp] theorem State.wr_journal (s : State) (a : Nat) (v : Word) : (s.wr a v).journal = s.journal := rfl
@[simp] theorem State.wr_cool (s : State) (a : Nat) (v : Word) : (s.wr a v).cool = s.cool := rfl
@[simp] theorem State.wr_rowsOut (s : State) (a : Nat) (v : Word) : (s.wr a v).rowsOut = s.rowsOut := rfl
@[simp] theorem State.wr_dirLines (s : State) (a : Nat) (v : Word) : (s.wr a v).dirLines = s.dirLines := rfl
@[simp] theorem State.wr_lr (s : State) (a : Nat) (v : Word) : (s.wr a v).lr = s.lr := rfl
@[simp] theorem State.wr_coreHeld (s : State) (a : Nat) (v : Word) : (s.wr a v).coreHeld = s.coreHeld := rfl
@[simp] theorem State.wr_downOps (s : State) (a : Nat) (v : Word) : (s.wr a v).downOps = s.downOps := rfl
@[simp] theorem State.wr_reverted (s : State) (a : Nat) (v : Word) : (s.wr a v).reverted = s.reverted := rfl
@[simp] theorem State.wr_parked (s : State) (a : Nat) (v : Word) : (s.wr a v).parked = s.parked := rfl
@[simp] theorem State.wr_migs (s : State) (a : Nat) (v : Word) : (s.wr a v).migs = s.migs := rfl
@[simp] theorem State.wr_inv (s : State) (a : Nat) (v : Word) : (s.wr a v).inv = s.inv := rfl
@[simp] theorem State.wr_dirClear (s : State) (a : Nat) (v : Word) : (s.wr a v).dirClear = s.dirClear := rfl
@[simp] theorem State.wr_sample (s : State) (a : Nat) (v : Word) : (s.wr a v).sample = s.sample := rfl
@[simp] theorem State.wr_bias (s : State) (a : Nat) (v : Word) : (s.wr a v).bias = s.bias := rfl
@[simp] theorem State.wr_biaResv (s : State) (a : Nat) (v : Word) : (s.wr a v).biaResv = s.biaResv := rfl
@[simp] theorem State.wr_ptmSeq (s : State) (a : Nat) (v : Word) : (s.wr a v).ptmSeq = s.ptmSeq := rfl
@[simp] theorem State.wr_msixOn (s : State) (a : Nat) (v : Word) : (s.wr a v).msixOn = s.msixOn := rfl
@[simp] theorem State.wr_msixPend (s : State) (a : Nat) (v : Word) : (s.wr a v).msixPend = s.msixPend := rfl
@[simp] theorem State.wr_msix (s : State) (a : Nat) (v : Word) : (s.wr a v).msix = s.msix := rfl
@[simp] theorem State.wr_coreIrq (s : State) (a : Nat) (v : Word) : (s.wr a v).coreIrq = s.coreIrq := rfl
@[simp] theorem State.wr_ns (s : State) (a : Nat) (v : Word) : (s.wr a v).ns = s.ns := rfl
@[simp] theorem State.wr_frac (s : State) (a : Nat) (v : Word) : (s.wr a v).frac = s.frac := rfl
@[simp] theorem State.wr_fracLatch (s : State) (a : Nat) (v : Word) : (s.wr a v).fracLatch = s.fracLatch := rfl
@[simp] theorem State.wr_steer (s : State) (a : Nat) (v : Word) : (s.wr a v).steer = s.steer := rfl
@[simp] theorem State.wr_ppsHigh (s : State) (a : Nat) (v : Word) : (s.wr a v).ppsHigh = s.ppsHigh := rfl
@[simp] theorem State.wr_ppsFall (s : State) (a : Nat) (v : Word) : (s.wr a v).ppsFall = s.ppsFall := rfl
@[simp] theorem State.wr_ppsEdge (s : State) (a : Nat) (v : Word) : (s.wr a v).ppsEdge = s.ppsEdge := rfl
@[simp] theorem State.wr_todSeq (s : State) (a : Nat) (v : Word) : (s.wr a v).todSeq = s.todSeq := rfl
@[simp] theorem State.wr_todSent (s : State) (a : Nat) (v : Word) : (s.wr a v).todSent = s.todSent := rfl
@[simp] theorem State.wr_ppsHold (s : State) (a : Nat) (v : Word) : (s.wr a v).ppsHold = s.ppsHold := rfl
@[simp] theorem State.wr_outRun (s : State) (a : Nat) (v : Word) : (s.wr a v).outRun = s.outRun := rfl
@[simp] theorem State.wr_collNo (s : State) (a : Nat) (v : Word) : (s.wr a v).collNo = s.collNo := rfl
@[simp] theorem State.wr_notices (s : State) (a : Nat) (v : Word) : (s.wr a v).notices = s.notices := rfl
@[simp] theorem State.wr_abandoned (s : State) (a : Nat) (v : Word) : (s.wr a v).abandoned = s.abandoned := rfl
@[simp] theorem State.wr_inbox (s : State) (a : Nat) (v : Word) : (s.wr a v).inbox = s.inbox := rfl
@[simp] theorem State.wr_accepted (s : State) (a : Nat) (v : Word) : (s.wr a v).accepted = s.accepted := rfl
@[simp] theorem State.wr_retry (s : State) (a : Nat) (v : Word) : (s.wr a v).retry = s.retry := rfl
@[simp] theorem State.wr_portSeq (s : State) (a : Nat) (v : Word) : (s.wr a v).portSeq = s.portSeq := rfl
@[simp] theorem State.wr_outbox (s : State) (a : Nat) (v : Word) : (s.wr a v).outbox = s.outbox := rfl
@[simp] theorem State.wr_inLock (s : State) (a : Nat) (v : Word) : (s.wr a v).inLock = s.inLock := rfl
@[simp] theorem State.wr_alignDue (s : State) (a : Nat) (v : Word) : (s.wr a v).alignDue = s.alignDue := rfl
@[simp] theorem State.wr_alignOut (s : State) (a : Nat) (v : Word) : (s.wr a v).alignOut = s.alignOut := rfl
@[simp] theorem State.wr_alignSet (s : State) (a : Nat) (v : Word) : (s.wr a v).alignSet = s.alignSet := rfl
@[simp] theorem State.wr_best (s : State) (a : Nat) (v : Word) : (s.wr a v).best = s.best := rfl
@[simp] theorem State.wr_joins (s : State) (a : Nat) (v : Word) : (s.wr a v).joins = s.joins := rfl
@[simp] theorem State.wr_joinPort (s : State) (a : Nat) (v : Word) : (s.wr a v).joinPort = s.joinPort := rfl
@[simp] theorem State.wr_addrs (s : State) (a : Nat) (v : Word) : (s.wr a v).addrs = s.addrs := rfl
@[simp] theorem State.wr_nextAddr (s : State) (a : Nat) (v : Word) : (s.wr a v).nextAddr = s.nextAddr := rfl
@[simp] theorem State.wr_routes (s : State) (a : Nat) (v : Word) : (s.wr a v).routes = s.routes := rfl
@[simp] theorem State.wr_upAt (s : State) (a : Nat) (v : Word) : (s.wr a v).upAt = s.upAt := rfl
@[simp] theorem State.wr_joinAt (s : State) (a : Nat) (v : Word) : (s.wr a v).joinAt = s.joinAt := rfl
@[simp] theorem State.wr_downAt (s : State) (a : Nat) (v : Word) : (s.wr a v).downAt = s.downAt := rfl
@[simp] theorem State.wr_cwErr (s : State) (a : Nat) (v : Word) : (s.wr a v).cwErr = s.cwErr := rfl
@[simp] theorem State.wr_laneBad (s : State) (a : Nat) (v : Word) : (s.wr a v).laneBad = s.laneBad := rfl
@[simp] theorem State.wr_margins (s : State) (a : Nat) (v : Word) : (s.wr a v).margins = s.margins := rfl
@[simp] theorem State.wr_held (s : State) (a : Nat) (v : Word) : (s.wr a v).held = s.held := rfl
@[simp] theorem State.wr_sincePg (s : State) (a : Nat) (v : Word) : (s.wr a v).sincePg = s.sincePg := rfl
@[simp] theorem State.wr_fuses (s : State) (a : Nat) (v : Word) : (s.wr a v).fuses = s.fuses := rfl
@[simp] theorem State.wr_revokes (s : State) (a : Nat) (v : Word) : (s.wr a v).revokes = s.revokes := rfl
@[simp] theorem State.wr_wdogOn (s : State) (a : Nat) (v : Word) : (s.wr a v).wdogOn = s.wdogOn := rfl
@[simp] theorem State.wr_wdogAt (s : State) (a : Nat) (v : Word) : (s.wr a v).wdogAt = s.wdogAt := rfl
@[simp] theorem State.wr_bootWin (s : State) (a : Nat) (v : Word) : (s.wr a v).bootWin = s.bootWin := rfl
@[simp] theorem State.wr_owned (s : State) (a : Nat) (v : Word) : (s.wr a v).owned = s.owned := rfl
@[simp] theorem State.wr_image (s : State) (a : Nat) (v : Word) : (s.wr a v).image = s.image := rfl
@[simp] theorem State.wr_wiped (s : State) (a : Nat) (v : Word) : (s.wr a v).wiped = s.wiped := rfl
@[simp] theorem State.wr_discovered (s : State) (a : Nat) (v : Word) : (s.wr a v).discovered = s.discovered := rfl
@[simp] theorem State.wr_attest (s : State) (a : Nat) (v : Word) : (s.wr a v).attest = s.attest := rfl
@[simp] theorem State.wr_aliasCert (s : State) (a : Nat) (v : Word) : (s.wr a v).aliasCert = s.aliasCert := rfl
@[simp] theorem State.wr_keep (s : State) (a : Nat) (v : Word) : (s.wr a v).keep = s.keep := rfl
@[simp] theorem State.wr_beatFaults (s : State) (a : Nat) (v : Word) : (s.wr a v).beatFaults = s.beatFaults := rfl
@[simp] theorem State.wr_windows (s : State) (a : Nat) (v : Word) : (s.wr a v).windows = s.windows := rfl
@[simp] theorem State.wr_tests (s : State) (a : Nat) (v : Word) : (s.wr a v).tests = s.tests := rfl
@[simp] theorem State.wr_spareGone (s : State) (a : Nat) (v : Word) : (s.wr a v).spareGone = s.spareGone := rfl
@[simp] theorem State.wr_remap (s : State) (a : Nat) (v : Word) : (s.wr a v).remap = s.remap := rfl
@[simp] theorem State.wr_counted (s : State) (a : Nat) (v : Word) : (s.wr a v).counted = s.counted := rfl
@[simp] theorem State.wr_transients (s : State) (a : Nat) (v : Word) : (s.wr a v).transients = s.transients := rfl
@[simp] theorem State.wr_rigOut (s : State) (a : Nat) (v : Word) : (s.wr a v).rigOut = s.rigOut := rfl
@[simp] theorem State.wr_mscOut (s : State) (a : Nat) (v : Word) : (s.wr a v).mscOut = s.mscOut := rfl
@[simp] theorem State.wr_wayOff (s : State) (a : Nat) (v : Word) : (s.wr a v).wayOff = s.wayOff := rfl
@[simp] theorem State.wr_bankOut (s : State) (a : Nat) (v : Word) : (s.wr a v).bankOut = s.bankOut := rfl
@[simp] theorem State.wr_power (s : State) (a : Nat) (v : Word) : (s.wr a v).power = s.power := rfl
@[simp] theorem State.wr_pwrEn (s : State) (a : Nat) (v : Word) : (s.wr a v).pwrEn = s.pwrEn := rfl
@[simp] theorem State.wr_perst (s : State) (a : Nat) (v : Word) : (s.wr a v).perst = s.perst := rfl
@[simp] theorem State.wr_mz50 (s : State) (a : Nat) (v : Word) : (s.wr a v).mz50 = s.mz50 := rfl
@[simp] theorem State.wr_powerGood (s : State) (a : Nat) (v : Word) : (s.wr a v).powerGood = s.powerGood := rfl
@[simp] theorem State.wr_tripN (s : State) (a : Nat) (v : Word) : (s.wr a v).tripN = s.tripN := rfl
@[simp] theorem State.wr_capNext (s : State) (a : Nat) (v : Word) : (s.wr a v).capNext = s.capNext := rfl
@[simp] theorem State.wr_sinceStep (s : State) (a : Nat) (v : Word) : (s.wr a v).sinceStep = s.sinceStep := rfl
@[simp] theorem State.wr_capShare (s : State) (a : Nat) (v : Word) : (s.wr a v).capShare = s.capShare := rfl
@[simp] theorem State.wr_sinceShare (s : State) (a : Nat) (v : Word) : (s.wr a v).sinceShare = s.sinceShare := rfl
@[simp] theorem State.wr_mzFirst (s : State) (a : Nat) (v : Word) : (s.wr a v).mzFirst = s.mzFirst := rfl
@[simp] theorem State.wr_mzInj (s : State) (a : Nat) (v : Word) : (s.wr a v).mzInj = s.mzInj := rfl
@[simp] theorem State.wr_floorB (s : State) (a : Nat) (v : Word) : (s.wr a v).floorB = s.floorB := rfl
@[simp] theorem State.wr_p10 (s : State) (a : Nat) (v : Word) : (s.wr a v).p10 = s.p10 := rfl
@[simp] theorem State.wr_hot (s : State) (a : Nat) (v : Word) : (s.wr a v).hot = s.hot := rfl
@[simp] theorem State.wr_alertAt (s : State) (a : Nat) (v : Word) : (s.wr a v).alertAt = s.alertAt := rfl
@[simp] theorem State.wr_cooled (s : State) (a : Nat) (v : Word) : (s.wr a v).cooled = s.cooled := rfl
@[simp] theorem State.wr_i3cAddr (s : State) (a : Nat) (v : Word) : (s.wr a v).i3cAddr = s.i3cAddr := rfl
@[simp] theorem State.wr_i3cIrq (s : State) (a : Nat) (v : Word) : (s.wr a v).i3cIrq = s.i3cIrq := rfl
@[simp] theorem State.wr_jtag (s : State) (a : Nat) (v : Word) : (s.wr a v).jtag = s.jtag := rfl
@[simp] theorem State.wr_challenge (s : State) (a : Nat) (v : Word) : (s.wr a v).challenge = s.challenge := rfl
@[simp] theorem State.wr_session (s : State) (a : Nat) (v : Word) : (s.wr a v).session = s.session := rfl
@[simp] theorem State.wr_halted (s : State) (a : Nat) (v : Word) : (s.wr a v).halted = s.halted := rfl
@[simp] theorem State.wr_uart (s : State) (a : Nat) (v : Word) : (s.wr a v).uart = s.uart := rfl
@[simp] theorem State.wr_pinHigh (s : State) (a : Nat) (v : Word) : (s.wr a v).pinHigh = s.pinHigh := rfl
@[simp] theorem State.wr_cagePins (s : State) (a : Nat) (v : Word) : (s.wr a v).cagePins = s.cagePins := rfl
@[simp] theorem State.wr_reply (s : State) (a : Nat) (v : Word) : (s.wr a v).reply = s.reply := rfl
@[simp] theorem State.wr_free (s : State) (a : Nat) (v : Word) : (s.wr a v).free = s.free := rfl

/-! ### `State.put` -/

@[simp] theorem State.put_pending (s : State) (a hi lo v : Nat) : (s.put a hi lo v).pending = s.pending := rfl
@[simp] theorem State.put_mem (s : State) (a hi lo v : Nat) : (s.put a hi lo v).mem = s.mem := rfl
@[simp] theorem State.put_hostMem (s : State) (a hi lo v : Nat) : (s.put a hi lo v).hostMem = s.hostMem := rfl
@[simp] theorem State.put_hostOut (s : State) (a hi lo v : Nat) : (s.put a hi lo v).hostOut = s.hostOut := rfl
@[simp] theorem State.put_sentOut (s : State) (a hi lo v : Nat) : (s.put a hi lo v).sentOut = s.sentOut := rfl
@[simp] theorem State.put_ackDue (s : State) (a hi lo v : Nat) : (s.put a hi lo v).ackDue = s.ackDue := rfl
@[simp] theorem State.put_tags (s : State) (a hi lo v : Nat) : (s.put a hi lo v).tags = s.tags := rfl
@[simp] theorem State.put_marks (s : State) (a hi lo v : Nat) : (s.put a hi lo v).marks = s.marks := rfl
@[simp] theorem State.put_ops (s : State) (a hi lo v : Nat) : (s.put a hi lo v).ops = s.ops := rfl
@[simp] theorem State.put_pieces (s : State) (a hi lo v : Nat) : (s.put a hi lo v).pieces = s.pieces := rfl
@[simp] theorem State.put_waits (s : State) (a hi lo v : Nat) : (s.put a hi lo v).waits = s.waits := rfl
@[simp] theorem State.put_ready (s : State) (a hi lo v : Nat) : (s.put a hi lo v).ready = s.ready := rfl
@[simp] theorem State.put_recFail (s : State) (a hi lo v : Nat) : (s.put a hi lo v).recFail = s.recFail := rfl
@[simp] theorem State.put_cancels (s : State) (a hi lo v : Nat) : (s.put a hi lo v).cancels = s.cancels := rfl
@[simp] theorem State.put_flagWait (s : State) (a hi lo v : Nat) : (s.put a hi lo v).flagWait = s.flagWait := rfl
@[simp] theorem State.put_totals (s : State) (a hi lo v : Nat) : (s.put a hi lo v).totals = s.totals := rfl
@[simp] theorem State.put_lastBeat (s : State) (a hi lo v : Nat) : (s.put a hi lo v).lastBeat = s.lastBeat := rfl
@[simp] theorem State.put_offsets (s : State) (a hi lo v : Nat) : (s.put a hi lo v).offsets = s.offsets := rfl
@[simp] theorem State.put_rebaseDue (s : State) (a hi lo v : Nat) : (s.put a hi lo v).rebaseDue = s.rebaseDue := rfl
@[simp] theorem State.put_rebaseNow (s : State) (a hi lo v : Nat) : (s.put a hi lo v).rebaseNow = s.rebaseNow := rfl
@[simp] theorem State.put_pipes (s : State) (a hi lo v : Nat) : (s.put a hi lo v).pipes = s.pipes := rfl
@[simp] theorem State.put_retired (s : State) (a hi lo v : Nat) : (s.put a hi lo v).retired = s.retired := rfl
@[simp] theorem State.put_mailbox (s : State) (a hi lo v : Nat) : (s.put a hi lo v).mailbox = s.mailbox := rfl
@[simp] theorem State.put_marginNext (s : State) (a hi lo v : Nat) : (s.put a hi lo v).marginNext = s.marginNext := rfl
@[simp] theorem State.put_wctlNext (s : State) (a hi lo v : Nat) : (s.put a hi lo v).wctlNext = s.wctlNext := rfl
@[simp] theorem State.put_tripClear (s : State) (a hi lo v : Nat) : (s.put a hi lo v).tripClear = s.tripClear := rfl
@[simp] theorem State.put_detects (s : State) (a hi lo v : Nat) : (s.put a hi lo v).detects = s.detects := rfl
@[simp] theorem State.put_tileQ (s : State) (a hi lo v : Nat) : (s.put a hi lo v).tileQ = s.tileQ := rfl
@[simp] theorem State.put_stalled (s : State) (a hi lo v : Nat) : (s.put a hi lo v).stalled = s.stalled := rfl
@[simp] theorem State.put_resident (s : State) (a hi lo v : Nat) : (s.put a hi lo v).resident = s.resident := rfl
@[simp] theorem State.put_nodes (s : State) (a hi lo v : Nat) : (s.put a hi lo v).nodes = s.nodes := rfl
@[simp] theorem State.put_accs (s : State) (a hi lo v : Nat) : (s.put a hi lo v).accs = s.accs := rfl
@[simp] theorem State.put_spills (s : State) (a hi lo v : Nat) : (s.put a hi lo v).spills = s.spills := rfl
@[simp] theorem State.put_roots (s : State) (a hi lo v : Nat) : (s.put a hi lo v).roots = s.roots := rfl
@[simp] theorem State.put_armed (s : State) (a hi lo v : Nat) : (s.put a hi lo v).armed = s.armed := rfl
@[simp] theorem State.put_seqs (s : State) (a hi lo v : Nat) : (s.put a hi lo v).seqs = s.seqs := rfl
@[simp] theorem State.put_journal (s : State) (a hi lo v : Nat) : (s.put a hi lo v).journal = s.journal := rfl
@[simp] theorem State.put_cool (s : State) (a hi lo v : Nat) : (s.put a hi lo v).cool = s.cool := rfl
@[simp] theorem State.put_rowsOut (s : State) (a hi lo v : Nat) : (s.put a hi lo v).rowsOut = s.rowsOut := rfl
@[simp] theorem State.put_dirLines (s : State) (a hi lo v : Nat) : (s.put a hi lo v).dirLines = s.dirLines := rfl
@[simp] theorem State.put_lr (s : State) (a hi lo v : Nat) : (s.put a hi lo v).lr = s.lr := rfl
@[simp] theorem State.put_coreHeld (s : State) (a hi lo v : Nat) : (s.put a hi lo v).coreHeld = s.coreHeld := rfl
@[simp] theorem State.put_downOps (s : State) (a hi lo v : Nat) : (s.put a hi lo v).downOps = s.downOps := rfl
@[simp] theorem State.put_reverted (s : State) (a hi lo v : Nat) : (s.put a hi lo v).reverted = s.reverted := rfl
@[simp] theorem State.put_parked (s : State) (a hi lo v : Nat) : (s.put a hi lo v).parked = s.parked := rfl
@[simp] theorem State.put_migs (s : State) (a hi lo v : Nat) : (s.put a hi lo v).migs = s.migs := rfl
@[simp] theorem State.put_inv (s : State) (a hi lo v : Nat) : (s.put a hi lo v).inv = s.inv := rfl
@[simp] theorem State.put_dirClear (s : State) (a hi lo v : Nat) : (s.put a hi lo v).dirClear = s.dirClear := rfl
@[simp] theorem State.put_sample (s : State) (a hi lo v : Nat) : (s.put a hi lo v).sample = s.sample := rfl
@[simp] theorem State.put_bias (s : State) (a hi lo v : Nat) : (s.put a hi lo v).bias = s.bias := rfl
@[simp] theorem State.put_biaResv (s : State) (a hi lo v : Nat) : (s.put a hi lo v).biaResv = s.biaResv := rfl
@[simp] theorem State.put_ptmSeq (s : State) (a hi lo v : Nat) : (s.put a hi lo v).ptmSeq = s.ptmSeq := rfl
@[simp] theorem State.put_msixOn (s : State) (a hi lo v : Nat) : (s.put a hi lo v).msixOn = s.msixOn := rfl
@[simp] theorem State.put_msixPend (s : State) (a hi lo v : Nat) : (s.put a hi lo v).msixPend = s.msixPend := rfl
@[simp] theorem State.put_msix (s : State) (a hi lo v : Nat) : (s.put a hi lo v).msix = s.msix := rfl
@[simp] theorem State.put_coreIrq (s : State) (a hi lo v : Nat) : (s.put a hi lo v).coreIrq = s.coreIrq := rfl
@[simp] theorem State.put_ns (s : State) (a hi lo v : Nat) : (s.put a hi lo v).ns = s.ns := rfl
@[simp] theorem State.put_frac (s : State) (a hi lo v : Nat) : (s.put a hi lo v).frac = s.frac := rfl
@[simp] theorem State.put_fracLatch (s : State) (a hi lo v : Nat) : (s.put a hi lo v).fracLatch = s.fracLatch := rfl
@[simp] theorem State.put_steer (s : State) (a hi lo v : Nat) : (s.put a hi lo v).steer = s.steer := rfl
@[simp] theorem State.put_ppsHigh (s : State) (a hi lo v : Nat) : (s.put a hi lo v).ppsHigh = s.ppsHigh := rfl
@[simp] theorem State.put_ppsFall (s : State) (a hi lo v : Nat) : (s.put a hi lo v).ppsFall = s.ppsFall := rfl
@[simp] theorem State.put_ppsEdge (s : State) (a hi lo v : Nat) : (s.put a hi lo v).ppsEdge = s.ppsEdge := rfl
@[simp] theorem State.put_todSeq (s : State) (a hi lo v : Nat) : (s.put a hi lo v).todSeq = s.todSeq := rfl
@[simp] theorem State.put_todSent (s : State) (a hi lo v : Nat) : (s.put a hi lo v).todSent = s.todSent := rfl
@[simp] theorem State.put_ppsHold (s : State) (a hi lo v : Nat) : (s.put a hi lo v).ppsHold = s.ppsHold := rfl
@[simp] theorem State.put_outRun (s : State) (a hi lo v : Nat) : (s.put a hi lo v).outRun = s.outRun := rfl
@[simp] theorem State.put_collNo (s : State) (a hi lo v : Nat) : (s.put a hi lo v).collNo = s.collNo := rfl
@[simp] theorem State.put_notices (s : State) (a hi lo v : Nat) : (s.put a hi lo v).notices = s.notices := rfl
@[simp] theorem State.put_abandoned (s : State) (a hi lo v : Nat) : (s.put a hi lo v).abandoned = s.abandoned := rfl
@[simp] theorem State.put_inbox (s : State) (a hi lo v : Nat) : (s.put a hi lo v).inbox = s.inbox := rfl
@[simp] theorem State.put_accepted (s : State) (a hi lo v : Nat) : (s.put a hi lo v).accepted = s.accepted := rfl
@[simp] theorem State.put_retry (s : State) (a hi lo v : Nat) : (s.put a hi lo v).retry = s.retry := rfl
@[simp] theorem State.put_portSeq (s : State) (a hi lo v : Nat) : (s.put a hi lo v).portSeq = s.portSeq := rfl
@[simp] theorem State.put_outbox (s : State) (a hi lo v : Nat) : (s.put a hi lo v).outbox = s.outbox := rfl
@[simp] theorem State.put_inLock (s : State) (a hi lo v : Nat) : (s.put a hi lo v).inLock = s.inLock := rfl
@[simp] theorem State.put_alignDue (s : State) (a hi lo v : Nat) : (s.put a hi lo v).alignDue = s.alignDue := rfl
@[simp] theorem State.put_alignOut (s : State) (a hi lo v : Nat) : (s.put a hi lo v).alignOut = s.alignOut := rfl
@[simp] theorem State.put_alignSet (s : State) (a hi lo v : Nat) : (s.put a hi lo v).alignSet = s.alignSet := rfl
@[simp] theorem State.put_best (s : State) (a hi lo v : Nat) : (s.put a hi lo v).best = s.best := rfl
@[simp] theorem State.put_joins (s : State) (a hi lo v : Nat) : (s.put a hi lo v).joins = s.joins := rfl
@[simp] theorem State.put_joinPort (s : State) (a hi lo v : Nat) : (s.put a hi lo v).joinPort = s.joinPort := rfl
@[simp] theorem State.put_addrs (s : State) (a hi lo v : Nat) : (s.put a hi lo v).addrs = s.addrs := rfl
@[simp] theorem State.put_nextAddr (s : State) (a hi lo v : Nat) : (s.put a hi lo v).nextAddr = s.nextAddr := rfl
@[simp] theorem State.put_routes (s : State) (a hi lo v : Nat) : (s.put a hi lo v).routes = s.routes := rfl
@[simp] theorem State.put_upAt (s : State) (a hi lo v : Nat) : (s.put a hi lo v).upAt = s.upAt := rfl
@[simp] theorem State.put_joinAt (s : State) (a hi lo v : Nat) : (s.put a hi lo v).joinAt = s.joinAt := rfl
@[simp] theorem State.put_downAt (s : State) (a hi lo v : Nat) : (s.put a hi lo v).downAt = s.downAt := rfl
@[simp] theorem State.put_cwErr (s : State) (a hi lo v : Nat) : (s.put a hi lo v).cwErr = s.cwErr := rfl
@[simp] theorem State.put_laneBad (s : State) (a hi lo v : Nat) : (s.put a hi lo v).laneBad = s.laneBad := rfl
@[simp] theorem State.put_margins (s : State) (a hi lo v : Nat) : (s.put a hi lo v).margins = s.margins := rfl
@[simp] theorem State.put_held (s : State) (a hi lo v : Nat) : (s.put a hi lo v).held = s.held := rfl
@[simp] theorem State.put_sincePg (s : State) (a hi lo v : Nat) : (s.put a hi lo v).sincePg = s.sincePg := rfl
@[simp] theorem State.put_fuses (s : State) (a hi lo v : Nat) : (s.put a hi lo v).fuses = s.fuses := rfl
@[simp] theorem State.put_revokes (s : State) (a hi lo v : Nat) : (s.put a hi lo v).revokes = s.revokes := rfl
@[simp] theorem State.put_wdogOn (s : State) (a hi lo v : Nat) : (s.put a hi lo v).wdogOn = s.wdogOn := rfl
@[simp] theorem State.put_wdogAt (s : State) (a hi lo v : Nat) : (s.put a hi lo v).wdogAt = s.wdogAt := rfl
@[simp] theorem State.put_bootWin (s : State) (a hi lo v : Nat) : (s.put a hi lo v).bootWin = s.bootWin := rfl
@[simp] theorem State.put_owned (s : State) (a hi lo v : Nat) : (s.put a hi lo v).owned = s.owned := rfl
@[simp] theorem State.put_image (s : State) (a hi lo v : Nat) : (s.put a hi lo v).image = s.image := rfl
@[simp] theorem State.put_wiped (s : State) (a hi lo v : Nat) : (s.put a hi lo v).wiped = s.wiped := rfl
@[simp] theorem State.put_discovered (s : State) (a hi lo v : Nat) : (s.put a hi lo v).discovered = s.discovered := rfl
@[simp] theorem State.put_attest (s : State) (a hi lo v : Nat) : (s.put a hi lo v).attest = s.attest := rfl
@[simp] theorem State.put_aliasCert (s : State) (a hi lo v : Nat) : (s.put a hi lo v).aliasCert = s.aliasCert := rfl
@[simp] theorem State.put_keep (s : State) (a hi lo v : Nat) : (s.put a hi lo v).keep = s.keep := rfl
@[simp] theorem State.put_beatFaults (s : State) (a hi lo v : Nat) : (s.put a hi lo v).beatFaults = s.beatFaults := rfl
@[simp] theorem State.put_windows (s : State) (a hi lo v : Nat) : (s.put a hi lo v).windows = s.windows := rfl
@[simp] theorem State.put_tests (s : State) (a hi lo v : Nat) : (s.put a hi lo v).tests = s.tests := rfl
@[simp] theorem State.put_spareGone (s : State) (a hi lo v : Nat) : (s.put a hi lo v).spareGone = s.spareGone := rfl
@[simp] theorem State.put_remap (s : State) (a hi lo v : Nat) : (s.put a hi lo v).remap = s.remap := rfl
@[simp] theorem State.put_counted (s : State) (a hi lo v : Nat) : (s.put a hi lo v).counted = s.counted := rfl
@[simp] theorem State.put_transients (s : State) (a hi lo v : Nat) : (s.put a hi lo v).transients = s.transients := rfl
@[simp] theorem State.put_rigOut (s : State) (a hi lo v : Nat) : (s.put a hi lo v).rigOut = s.rigOut := rfl
@[simp] theorem State.put_mscOut (s : State) (a hi lo v : Nat) : (s.put a hi lo v).mscOut = s.mscOut := rfl
@[simp] theorem State.put_wayOff (s : State) (a hi lo v : Nat) : (s.put a hi lo v).wayOff = s.wayOff := rfl
@[simp] theorem State.put_bankOut (s : State) (a hi lo v : Nat) : (s.put a hi lo v).bankOut = s.bankOut := rfl
@[simp] theorem State.put_power (s : State) (a hi lo v : Nat) : (s.put a hi lo v).power = s.power := rfl
@[simp] theorem State.put_pwrEn (s : State) (a hi lo v : Nat) : (s.put a hi lo v).pwrEn = s.pwrEn := rfl
@[simp] theorem State.put_perst (s : State) (a hi lo v : Nat) : (s.put a hi lo v).perst = s.perst := rfl
@[simp] theorem State.put_mz50 (s : State) (a hi lo v : Nat) : (s.put a hi lo v).mz50 = s.mz50 := rfl
@[simp] theorem State.put_powerGood (s : State) (a hi lo v : Nat) : (s.put a hi lo v).powerGood = s.powerGood := rfl
@[simp] theorem State.put_tripN (s : State) (a hi lo v : Nat) : (s.put a hi lo v).tripN = s.tripN := rfl
@[simp] theorem State.put_capNext (s : State) (a hi lo v : Nat) : (s.put a hi lo v).capNext = s.capNext := rfl
@[simp] theorem State.put_sinceStep (s : State) (a hi lo v : Nat) : (s.put a hi lo v).sinceStep = s.sinceStep := rfl
@[simp] theorem State.put_capShare (s : State) (a hi lo v : Nat) : (s.put a hi lo v).capShare = s.capShare := rfl
@[simp] theorem State.put_sinceShare (s : State) (a hi lo v : Nat) : (s.put a hi lo v).sinceShare = s.sinceShare := rfl
@[simp] theorem State.put_mzFirst (s : State) (a hi lo v : Nat) : (s.put a hi lo v).mzFirst = s.mzFirst := rfl
@[simp] theorem State.put_mzInj (s : State) (a hi lo v : Nat) : (s.put a hi lo v).mzInj = s.mzInj := rfl
@[simp] theorem State.put_floorB (s : State) (a hi lo v : Nat) : (s.put a hi lo v).floorB = s.floorB := rfl
@[simp] theorem State.put_p10 (s : State) (a hi lo v : Nat) : (s.put a hi lo v).p10 = s.p10 := rfl
@[simp] theorem State.put_hot (s : State) (a hi lo v : Nat) : (s.put a hi lo v).hot = s.hot := rfl
@[simp] theorem State.put_alertAt (s : State) (a hi lo v : Nat) : (s.put a hi lo v).alertAt = s.alertAt := rfl
@[simp] theorem State.put_cooled (s : State) (a hi lo v : Nat) : (s.put a hi lo v).cooled = s.cooled := rfl
@[simp] theorem State.put_i3cAddr (s : State) (a hi lo v : Nat) : (s.put a hi lo v).i3cAddr = s.i3cAddr := rfl
@[simp] theorem State.put_i3cIrq (s : State) (a hi lo v : Nat) : (s.put a hi lo v).i3cIrq = s.i3cIrq := rfl
@[simp] theorem State.put_jtag (s : State) (a hi lo v : Nat) : (s.put a hi lo v).jtag = s.jtag := rfl
@[simp] theorem State.put_challenge (s : State) (a hi lo v : Nat) : (s.put a hi lo v).challenge = s.challenge := rfl
@[simp] theorem State.put_session (s : State) (a hi lo v : Nat) : (s.put a hi lo v).session = s.session := rfl
@[simp] theorem State.put_halted (s : State) (a hi lo v : Nat) : (s.put a hi lo v).halted = s.halted := rfl
@[simp] theorem State.put_uart (s : State) (a hi lo v : Nat) : (s.put a hi lo v).uart = s.uart := rfl
@[simp] theorem State.put_pinHigh (s : State) (a hi lo v : Nat) : (s.put a hi lo v).pinHigh = s.pinHigh := rfl
@[simp] theorem State.put_cagePins (s : State) (a hi lo v : Nat) : (s.put a hi lo v).cagePins = s.cagePins := rfl
@[simp] theorem State.put_reply (s : State) (a hi lo v : Nat) : (s.put a hi lo v).reply = s.reply := rfl
@[simp] theorem State.put_free (s : State) (a hi lo v : Nat) : (s.put a hi lo v).free = s.free := rfl

/-! ### `State.putBit` -/

@[simp] theorem State.putBit_pending (s : State) (a i : Nat) (b : Bool) : (s.putBit a i b).pending = s.pending := rfl
@[simp] theorem State.putBit_mem (s : State) (a i : Nat) (b : Bool) : (s.putBit a i b).mem = s.mem := rfl
@[simp] theorem State.putBit_hostMem (s : State) (a i : Nat) (b : Bool) : (s.putBit a i b).hostMem = s.hostMem := rfl
@[simp] theorem State.putBit_hostOut (s : State) (a i : Nat) (b : Bool) : (s.putBit a i b).hostOut = s.hostOut := rfl
@[simp] theorem State.putBit_sentOut (s : State) (a i : Nat) (b : Bool) : (s.putBit a i b).sentOut = s.sentOut := rfl
@[simp] theorem State.putBit_ackDue (s : State) (a i : Nat) (b : Bool) : (s.putBit a i b).ackDue = s.ackDue := rfl
@[simp] theorem State.putBit_tags (s : State) (a i : Nat) (b : Bool) : (s.putBit a i b).tags = s.tags := rfl
@[simp] theorem State.putBit_marks (s : State) (a i : Nat) (b : Bool) : (s.putBit a i b).marks = s.marks := rfl
@[simp] theorem State.putBit_ops (s : State) (a i : Nat) (b : Bool) : (s.putBit a i b).ops = s.ops := rfl
@[simp] theorem State.putBit_pieces (s : State) (a i : Nat) (b : Bool) : (s.putBit a i b).pieces = s.pieces := rfl
@[simp] theorem State.putBit_waits (s : State) (a i : Nat) (b : Bool) : (s.putBit a i b).waits = s.waits := rfl
@[simp] theorem State.putBit_ready (s : State) (a i : Nat) (b : Bool) : (s.putBit a i b).ready = s.ready := rfl
@[simp] theorem State.putBit_recFail (s : State) (a i : Nat) (b : Bool) : (s.putBit a i b).recFail = s.recFail := rfl
@[simp] theorem State.putBit_cancels (s : State) (a i : Nat) (b : Bool) : (s.putBit a i b).cancels = s.cancels := rfl
@[simp] theorem State.putBit_flagWait (s : State) (a i : Nat) (b : Bool) : (s.putBit a i b).flagWait = s.flagWait := rfl
@[simp] theorem State.putBit_totals (s : State) (a i : Nat) (b : Bool) : (s.putBit a i b).totals = s.totals := rfl
@[simp] theorem State.putBit_lastBeat (s : State) (a i : Nat) (b : Bool) : (s.putBit a i b).lastBeat = s.lastBeat := rfl
@[simp] theorem State.putBit_offsets (s : State) (a i : Nat) (b : Bool) : (s.putBit a i b).offsets = s.offsets := rfl
@[simp] theorem State.putBit_rebaseDue (s : State) (a i : Nat) (b : Bool) : (s.putBit a i b).rebaseDue = s.rebaseDue := rfl
@[simp] theorem State.putBit_rebaseNow (s : State) (a i : Nat) (b : Bool) : (s.putBit a i b).rebaseNow = s.rebaseNow := rfl
@[simp] theorem State.putBit_pipes (s : State) (a i : Nat) (b : Bool) : (s.putBit a i b).pipes = s.pipes := rfl
@[simp] theorem State.putBit_retired (s : State) (a i : Nat) (b : Bool) : (s.putBit a i b).retired = s.retired := rfl
@[simp] theorem State.putBit_mailbox (s : State) (a i : Nat) (b : Bool) : (s.putBit a i b).mailbox = s.mailbox := rfl
@[simp] theorem State.putBit_marginNext (s : State) (a i : Nat) (b : Bool) : (s.putBit a i b).marginNext = s.marginNext := rfl
@[simp] theorem State.putBit_wctlNext (s : State) (a i : Nat) (b : Bool) : (s.putBit a i b).wctlNext = s.wctlNext := rfl
@[simp] theorem State.putBit_tripClear (s : State) (a i : Nat) (b : Bool) : (s.putBit a i b).tripClear = s.tripClear := rfl
@[simp] theorem State.putBit_detects (s : State) (a i : Nat) (b : Bool) : (s.putBit a i b).detects = s.detects := rfl
@[simp] theorem State.putBit_tileQ (s : State) (a i : Nat) (b : Bool) : (s.putBit a i b).tileQ = s.tileQ := rfl
@[simp] theorem State.putBit_stalled (s : State) (a i : Nat) (b : Bool) : (s.putBit a i b).stalled = s.stalled := rfl
@[simp] theorem State.putBit_resident (s : State) (a i : Nat) (b : Bool) : (s.putBit a i b).resident = s.resident := rfl
@[simp] theorem State.putBit_nodes (s : State) (a i : Nat) (b : Bool) : (s.putBit a i b).nodes = s.nodes := rfl
@[simp] theorem State.putBit_accs (s : State) (a i : Nat) (b : Bool) : (s.putBit a i b).accs = s.accs := rfl
@[simp] theorem State.putBit_spills (s : State) (a i : Nat) (b : Bool) : (s.putBit a i b).spills = s.spills := rfl
@[simp] theorem State.putBit_roots (s : State) (a i : Nat) (b : Bool) : (s.putBit a i b).roots = s.roots := rfl
@[simp] theorem State.putBit_armed (s : State) (a i : Nat) (b : Bool) : (s.putBit a i b).armed = s.armed := rfl
@[simp] theorem State.putBit_seqs (s : State) (a i : Nat) (b : Bool) : (s.putBit a i b).seqs = s.seqs := rfl
@[simp] theorem State.putBit_journal (s : State) (a i : Nat) (b : Bool) : (s.putBit a i b).journal = s.journal := rfl
@[simp] theorem State.putBit_cool (s : State) (a i : Nat) (b : Bool) : (s.putBit a i b).cool = s.cool := rfl
@[simp] theorem State.putBit_rowsOut (s : State) (a i : Nat) (b : Bool) : (s.putBit a i b).rowsOut = s.rowsOut := rfl
@[simp] theorem State.putBit_dirLines (s : State) (a i : Nat) (b : Bool) : (s.putBit a i b).dirLines = s.dirLines := rfl
@[simp] theorem State.putBit_lr (s : State) (a i : Nat) (b : Bool) : (s.putBit a i b).lr = s.lr := rfl
@[simp] theorem State.putBit_coreHeld (s : State) (a i : Nat) (b : Bool) : (s.putBit a i b).coreHeld = s.coreHeld := rfl
@[simp] theorem State.putBit_downOps (s : State) (a i : Nat) (b : Bool) : (s.putBit a i b).downOps = s.downOps := rfl
@[simp] theorem State.putBit_reverted (s : State) (a i : Nat) (b : Bool) : (s.putBit a i b).reverted = s.reverted := rfl
@[simp] theorem State.putBit_parked (s : State) (a i : Nat) (b : Bool) : (s.putBit a i b).parked = s.parked := rfl
@[simp] theorem State.putBit_migs (s : State) (a i : Nat) (b : Bool) : (s.putBit a i b).migs = s.migs := rfl
@[simp] theorem State.putBit_inv (s : State) (a i : Nat) (b : Bool) : (s.putBit a i b).inv = s.inv := rfl
@[simp] theorem State.putBit_dirClear (s : State) (a i : Nat) (b : Bool) : (s.putBit a i b).dirClear = s.dirClear := rfl
@[simp] theorem State.putBit_sample (s : State) (a i : Nat) (b : Bool) : (s.putBit a i b).sample = s.sample := rfl
@[simp] theorem State.putBit_bias (s : State) (a i : Nat) (b : Bool) : (s.putBit a i b).bias = s.bias := rfl
@[simp] theorem State.putBit_biaResv (s : State) (a i : Nat) (b : Bool) : (s.putBit a i b).biaResv = s.biaResv := rfl
@[simp] theorem State.putBit_ptmSeq (s : State) (a i : Nat) (b : Bool) : (s.putBit a i b).ptmSeq = s.ptmSeq := rfl
@[simp] theorem State.putBit_msixOn (s : State) (a i : Nat) (b : Bool) : (s.putBit a i b).msixOn = s.msixOn := rfl
@[simp] theorem State.putBit_msixPend (s : State) (a i : Nat) (b : Bool) : (s.putBit a i b).msixPend = s.msixPend := rfl
@[simp] theorem State.putBit_msix (s : State) (a i : Nat) (b : Bool) : (s.putBit a i b).msix = s.msix := rfl
@[simp] theorem State.putBit_coreIrq (s : State) (a i : Nat) (b : Bool) : (s.putBit a i b).coreIrq = s.coreIrq := rfl
@[simp] theorem State.putBit_ns (s : State) (a i : Nat) (b : Bool) : (s.putBit a i b).ns = s.ns := rfl
@[simp] theorem State.putBit_frac (s : State) (a i : Nat) (b : Bool) : (s.putBit a i b).frac = s.frac := rfl
@[simp] theorem State.putBit_fracLatch (s : State) (a i : Nat) (b : Bool) : (s.putBit a i b).fracLatch = s.fracLatch := rfl
@[simp] theorem State.putBit_steer (s : State) (a i : Nat) (b : Bool) : (s.putBit a i b).steer = s.steer := rfl
@[simp] theorem State.putBit_ppsHigh (s : State) (a i : Nat) (b : Bool) : (s.putBit a i b).ppsHigh = s.ppsHigh := rfl
@[simp] theorem State.putBit_ppsFall (s : State) (a i : Nat) (b : Bool) : (s.putBit a i b).ppsFall = s.ppsFall := rfl
@[simp] theorem State.putBit_ppsEdge (s : State) (a i : Nat) (b : Bool) : (s.putBit a i b).ppsEdge = s.ppsEdge := rfl
@[simp] theorem State.putBit_todSeq (s : State) (a i : Nat) (b : Bool) : (s.putBit a i b).todSeq = s.todSeq := rfl
@[simp] theorem State.putBit_todSent (s : State) (a i : Nat) (b : Bool) : (s.putBit a i b).todSent = s.todSent := rfl
@[simp] theorem State.putBit_ppsHold (s : State) (a i : Nat) (b : Bool) : (s.putBit a i b).ppsHold = s.ppsHold := rfl
@[simp] theorem State.putBit_outRun (s : State) (a i : Nat) (b : Bool) : (s.putBit a i b).outRun = s.outRun := rfl
@[simp] theorem State.putBit_collNo (s : State) (a i : Nat) (b : Bool) : (s.putBit a i b).collNo = s.collNo := rfl
@[simp] theorem State.putBit_notices (s : State) (a i : Nat) (b : Bool) : (s.putBit a i b).notices = s.notices := rfl
@[simp] theorem State.putBit_abandoned (s : State) (a i : Nat) (b : Bool) : (s.putBit a i b).abandoned = s.abandoned := rfl
@[simp] theorem State.putBit_inbox (s : State) (a i : Nat) (b : Bool) : (s.putBit a i b).inbox = s.inbox := rfl
@[simp] theorem State.putBit_accepted (s : State) (a i : Nat) (b : Bool) : (s.putBit a i b).accepted = s.accepted := rfl
@[simp] theorem State.putBit_retry (s : State) (a i : Nat) (b : Bool) : (s.putBit a i b).retry = s.retry := rfl
@[simp] theorem State.putBit_portSeq (s : State) (a i : Nat) (b : Bool) : (s.putBit a i b).portSeq = s.portSeq := rfl
@[simp] theorem State.putBit_outbox (s : State) (a i : Nat) (b : Bool) : (s.putBit a i b).outbox = s.outbox := rfl
@[simp] theorem State.putBit_inLock (s : State) (a i : Nat) (b : Bool) : (s.putBit a i b).inLock = s.inLock := rfl
@[simp] theorem State.putBit_alignDue (s : State) (a i : Nat) (b : Bool) : (s.putBit a i b).alignDue = s.alignDue := rfl
@[simp] theorem State.putBit_alignOut (s : State) (a i : Nat) (b : Bool) : (s.putBit a i b).alignOut = s.alignOut := rfl
@[simp] theorem State.putBit_alignSet (s : State) (a i : Nat) (b : Bool) : (s.putBit a i b).alignSet = s.alignSet := rfl
@[simp] theorem State.putBit_best (s : State) (a i : Nat) (b : Bool) : (s.putBit a i b).best = s.best := rfl
@[simp] theorem State.putBit_joins (s : State) (a i : Nat) (b : Bool) : (s.putBit a i b).joins = s.joins := rfl
@[simp] theorem State.putBit_joinPort (s : State) (a i : Nat) (b : Bool) : (s.putBit a i b).joinPort = s.joinPort := rfl
@[simp] theorem State.putBit_addrs (s : State) (a i : Nat) (b : Bool) : (s.putBit a i b).addrs = s.addrs := rfl
@[simp] theorem State.putBit_nextAddr (s : State) (a i : Nat) (b : Bool) : (s.putBit a i b).nextAddr = s.nextAddr := rfl
@[simp] theorem State.putBit_routes (s : State) (a i : Nat) (b : Bool) : (s.putBit a i b).routes = s.routes := rfl
@[simp] theorem State.putBit_upAt (s : State) (a i : Nat) (b : Bool) : (s.putBit a i b).upAt = s.upAt := rfl
@[simp] theorem State.putBit_joinAt (s : State) (a i : Nat) (b : Bool) : (s.putBit a i b).joinAt = s.joinAt := rfl
@[simp] theorem State.putBit_downAt (s : State) (a i : Nat) (b : Bool) : (s.putBit a i b).downAt = s.downAt := rfl
@[simp] theorem State.putBit_cwErr (s : State) (a i : Nat) (b : Bool) : (s.putBit a i b).cwErr = s.cwErr := rfl
@[simp] theorem State.putBit_laneBad (s : State) (a i : Nat) (b : Bool) : (s.putBit a i b).laneBad = s.laneBad := rfl
@[simp] theorem State.putBit_margins (s : State) (a i : Nat) (b : Bool) : (s.putBit a i b).margins = s.margins := rfl
@[simp] theorem State.putBit_held (s : State) (a i : Nat) (b : Bool) : (s.putBit a i b).held = s.held := rfl
@[simp] theorem State.putBit_sincePg (s : State) (a i : Nat) (b : Bool) : (s.putBit a i b).sincePg = s.sincePg := rfl
@[simp] theorem State.putBit_fuses (s : State) (a i : Nat) (b : Bool) : (s.putBit a i b).fuses = s.fuses := rfl
@[simp] theorem State.putBit_revokes (s : State) (a i : Nat) (b : Bool) : (s.putBit a i b).revokes = s.revokes := rfl
@[simp] theorem State.putBit_wdogOn (s : State) (a i : Nat) (b : Bool) : (s.putBit a i b).wdogOn = s.wdogOn := rfl
@[simp] theorem State.putBit_wdogAt (s : State) (a i : Nat) (b : Bool) : (s.putBit a i b).wdogAt = s.wdogAt := rfl
@[simp] theorem State.putBit_bootWin (s : State) (a i : Nat) (b : Bool) : (s.putBit a i b).bootWin = s.bootWin := rfl
@[simp] theorem State.putBit_owned (s : State) (a i : Nat) (b : Bool) : (s.putBit a i b).owned = s.owned := rfl
@[simp] theorem State.putBit_image (s : State) (a i : Nat) (b : Bool) : (s.putBit a i b).image = s.image := rfl
@[simp] theorem State.putBit_wiped (s : State) (a i : Nat) (b : Bool) : (s.putBit a i b).wiped = s.wiped := rfl
@[simp] theorem State.putBit_discovered (s : State) (a i : Nat) (b : Bool) : (s.putBit a i b).discovered = s.discovered := rfl
@[simp] theorem State.putBit_attest (s : State) (a i : Nat) (b : Bool) : (s.putBit a i b).attest = s.attest := rfl
@[simp] theorem State.putBit_aliasCert (s : State) (a i : Nat) (b : Bool) : (s.putBit a i b).aliasCert = s.aliasCert := rfl
@[simp] theorem State.putBit_keep (s : State) (a i : Nat) (b : Bool) : (s.putBit a i b).keep = s.keep := rfl
@[simp] theorem State.putBit_beatFaults (s : State) (a i : Nat) (b : Bool) : (s.putBit a i b).beatFaults = s.beatFaults := rfl
@[simp] theorem State.putBit_windows (s : State) (a i : Nat) (b : Bool) : (s.putBit a i b).windows = s.windows := rfl
@[simp] theorem State.putBit_tests (s : State) (a i : Nat) (b : Bool) : (s.putBit a i b).tests = s.tests := rfl
@[simp] theorem State.putBit_spareGone (s : State) (a i : Nat) (b : Bool) : (s.putBit a i b).spareGone = s.spareGone := rfl
@[simp] theorem State.putBit_remap (s : State) (a i : Nat) (b : Bool) : (s.putBit a i b).remap = s.remap := rfl
@[simp] theorem State.putBit_counted (s : State) (a i : Nat) (b : Bool) : (s.putBit a i b).counted = s.counted := rfl
@[simp] theorem State.putBit_transients (s : State) (a i : Nat) (b : Bool) : (s.putBit a i b).transients = s.transients := rfl
@[simp] theorem State.putBit_rigOut (s : State) (a i : Nat) (b : Bool) : (s.putBit a i b).rigOut = s.rigOut := rfl
@[simp] theorem State.putBit_mscOut (s : State) (a i : Nat) (b : Bool) : (s.putBit a i b).mscOut = s.mscOut := rfl
@[simp] theorem State.putBit_wayOff (s : State) (a i : Nat) (b : Bool) : (s.putBit a i b).wayOff = s.wayOff := rfl
@[simp] theorem State.putBit_bankOut (s : State) (a i : Nat) (b : Bool) : (s.putBit a i b).bankOut = s.bankOut := rfl
@[simp] theorem State.putBit_power (s : State) (a i : Nat) (b : Bool) : (s.putBit a i b).power = s.power := rfl
@[simp] theorem State.putBit_pwrEn (s : State) (a i : Nat) (b : Bool) : (s.putBit a i b).pwrEn = s.pwrEn := rfl
@[simp] theorem State.putBit_perst (s : State) (a i : Nat) (b : Bool) : (s.putBit a i b).perst = s.perst := rfl
@[simp] theorem State.putBit_mz50 (s : State) (a i : Nat) (b : Bool) : (s.putBit a i b).mz50 = s.mz50 := rfl
@[simp] theorem State.putBit_powerGood (s : State) (a i : Nat) (b : Bool) : (s.putBit a i b).powerGood = s.powerGood := rfl
@[simp] theorem State.putBit_tripN (s : State) (a i : Nat) (b : Bool) : (s.putBit a i b).tripN = s.tripN := rfl
@[simp] theorem State.putBit_capNext (s : State) (a i : Nat) (b : Bool) : (s.putBit a i b).capNext = s.capNext := rfl
@[simp] theorem State.putBit_sinceStep (s : State) (a i : Nat) (b : Bool) : (s.putBit a i b).sinceStep = s.sinceStep := rfl
@[simp] theorem State.putBit_capShare (s : State) (a i : Nat) (b : Bool) : (s.putBit a i b).capShare = s.capShare := rfl
@[simp] theorem State.putBit_sinceShare (s : State) (a i : Nat) (b : Bool) : (s.putBit a i b).sinceShare = s.sinceShare := rfl
@[simp] theorem State.putBit_mzFirst (s : State) (a i : Nat) (b : Bool) : (s.putBit a i b).mzFirst = s.mzFirst := rfl
@[simp] theorem State.putBit_mzInj (s : State) (a i : Nat) (b : Bool) : (s.putBit a i b).mzInj = s.mzInj := rfl
@[simp] theorem State.putBit_floorB (s : State) (a i : Nat) (b : Bool) : (s.putBit a i b).floorB = s.floorB := rfl
@[simp] theorem State.putBit_p10 (s : State) (a i : Nat) (b : Bool) : (s.putBit a i b).p10 = s.p10 := rfl
@[simp] theorem State.putBit_hot (s : State) (a i : Nat) (b : Bool) : (s.putBit a i b).hot = s.hot := rfl
@[simp] theorem State.putBit_alertAt (s : State) (a i : Nat) (b : Bool) : (s.putBit a i b).alertAt = s.alertAt := rfl
@[simp] theorem State.putBit_cooled (s : State) (a i : Nat) (b : Bool) : (s.putBit a i b).cooled = s.cooled := rfl
@[simp] theorem State.putBit_i3cAddr (s : State) (a i : Nat) (b : Bool) : (s.putBit a i b).i3cAddr = s.i3cAddr := rfl
@[simp] theorem State.putBit_i3cIrq (s : State) (a i : Nat) (b : Bool) : (s.putBit a i b).i3cIrq = s.i3cIrq := rfl
@[simp] theorem State.putBit_jtag (s : State) (a i : Nat) (b : Bool) : (s.putBit a i b).jtag = s.jtag := rfl
@[simp] theorem State.putBit_challenge (s : State) (a i : Nat) (b : Bool) : (s.putBit a i b).challenge = s.challenge := rfl
@[simp] theorem State.putBit_session (s : State) (a i : Nat) (b : Bool) : (s.putBit a i b).session = s.session := rfl
@[simp] theorem State.putBit_halted (s : State) (a i : Nat) (b : Bool) : (s.putBit a i b).halted = s.halted := rfl
@[simp] theorem State.putBit_uart (s : State) (a i : Nat) (b : Bool) : (s.putBit a i b).uart = s.uart := rfl
@[simp] theorem State.putBit_pinHigh (s : State) (a i : Nat) (b : Bool) : (s.putBit a i b).pinHigh = s.pinHigh := rfl
@[simp] theorem State.putBit_cagePins (s : State) (a i : Nat) (b : Bool) : (s.putBit a i b).cagePins = s.cagePins := rfl
@[simp] theorem State.putBit_reply (s : State) (a i : Nat) (b : Bool) : (s.putBit a i b).reply = s.reply := rfl
@[simp] theorem State.putBit_free (s : State) (a i : Nat) (b : Bool) : (s.putBit a i b).free = s.free := rfl

/-! ### `State.bump` -/

@[simp] theorem State.bump_pending (s : State) (a hi lo n : Nat) : (s.bump a hi lo n).pending = s.pending := rfl
@[simp] theorem State.bump_mem (s : State) (a hi lo n : Nat) : (s.bump a hi lo n).mem = s.mem := rfl
@[simp] theorem State.bump_hostMem (s : State) (a hi lo n : Nat) : (s.bump a hi lo n).hostMem = s.hostMem := rfl
@[simp] theorem State.bump_hostOut (s : State) (a hi lo n : Nat) : (s.bump a hi lo n).hostOut = s.hostOut := rfl
@[simp] theorem State.bump_sentOut (s : State) (a hi lo n : Nat) : (s.bump a hi lo n).sentOut = s.sentOut := rfl
@[simp] theorem State.bump_ackDue (s : State) (a hi lo n : Nat) : (s.bump a hi lo n).ackDue = s.ackDue := rfl
@[simp] theorem State.bump_tags (s : State) (a hi lo n : Nat) : (s.bump a hi lo n).tags = s.tags := rfl
@[simp] theorem State.bump_marks (s : State) (a hi lo n : Nat) : (s.bump a hi lo n).marks = s.marks := rfl
@[simp] theorem State.bump_ops (s : State) (a hi lo n : Nat) : (s.bump a hi lo n).ops = s.ops := rfl
@[simp] theorem State.bump_pieces (s : State) (a hi lo n : Nat) : (s.bump a hi lo n).pieces = s.pieces := rfl
@[simp] theorem State.bump_waits (s : State) (a hi lo n : Nat) : (s.bump a hi lo n).waits = s.waits := rfl
@[simp] theorem State.bump_ready (s : State) (a hi lo n : Nat) : (s.bump a hi lo n).ready = s.ready := rfl
@[simp] theorem State.bump_recFail (s : State) (a hi lo n : Nat) : (s.bump a hi lo n).recFail = s.recFail := rfl
@[simp] theorem State.bump_cancels (s : State) (a hi lo n : Nat) : (s.bump a hi lo n).cancels = s.cancels := rfl
@[simp] theorem State.bump_flagWait (s : State) (a hi lo n : Nat) : (s.bump a hi lo n).flagWait = s.flagWait := rfl
@[simp] theorem State.bump_totals (s : State) (a hi lo n : Nat) : (s.bump a hi lo n).totals = s.totals := rfl
@[simp] theorem State.bump_lastBeat (s : State) (a hi lo n : Nat) : (s.bump a hi lo n).lastBeat = s.lastBeat := rfl
@[simp] theorem State.bump_offsets (s : State) (a hi lo n : Nat) : (s.bump a hi lo n).offsets = s.offsets := rfl
@[simp] theorem State.bump_rebaseDue (s : State) (a hi lo n : Nat) : (s.bump a hi lo n).rebaseDue = s.rebaseDue := rfl
@[simp] theorem State.bump_rebaseNow (s : State) (a hi lo n : Nat) : (s.bump a hi lo n).rebaseNow = s.rebaseNow := rfl
@[simp] theorem State.bump_pipes (s : State) (a hi lo n : Nat) : (s.bump a hi lo n).pipes = s.pipes := rfl
@[simp] theorem State.bump_retired (s : State) (a hi lo n : Nat) : (s.bump a hi lo n).retired = s.retired := rfl
@[simp] theorem State.bump_mailbox (s : State) (a hi lo n : Nat) : (s.bump a hi lo n).mailbox = s.mailbox := rfl
@[simp] theorem State.bump_marginNext (s : State) (a hi lo n : Nat) : (s.bump a hi lo n).marginNext = s.marginNext := rfl
@[simp] theorem State.bump_wctlNext (s : State) (a hi lo n : Nat) : (s.bump a hi lo n).wctlNext = s.wctlNext := rfl
@[simp] theorem State.bump_tripClear (s : State) (a hi lo n : Nat) : (s.bump a hi lo n).tripClear = s.tripClear := rfl
@[simp] theorem State.bump_detects (s : State) (a hi lo n : Nat) : (s.bump a hi lo n).detects = s.detects := rfl
@[simp] theorem State.bump_tileQ (s : State) (a hi lo n : Nat) : (s.bump a hi lo n).tileQ = s.tileQ := rfl
@[simp] theorem State.bump_stalled (s : State) (a hi lo n : Nat) : (s.bump a hi lo n).stalled = s.stalled := rfl
@[simp] theorem State.bump_resident (s : State) (a hi lo n : Nat) : (s.bump a hi lo n).resident = s.resident := rfl
@[simp] theorem State.bump_nodes (s : State) (a hi lo n : Nat) : (s.bump a hi lo n).nodes = s.nodes := rfl
@[simp] theorem State.bump_accs (s : State) (a hi lo n : Nat) : (s.bump a hi lo n).accs = s.accs := rfl
@[simp] theorem State.bump_spills (s : State) (a hi lo n : Nat) : (s.bump a hi lo n).spills = s.spills := rfl
@[simp] theorem State.bump_roots (s : State) (a hi lo n : Nat) : (s.bump a hi lo n).roots = s.roots := rfl
@[simp] theorem State.bump_armed (s : State) (a hi lo n : Nat) : (s.bump a hi lo n).armed = s.armed := rfl
@[simp] theorem State.bump_seqs (s : State) (a hi lo n : Nat) : (s.bump a hi lo n).seqs = s.seqs := rfl
@[simp] theorem State.bump_journal (s : State) (a hi lo n : Nat) : (s.bump a hi lo n).journal = s.journal := rfl
@[simp] theorem State.bump_cool (s : State) (a hi lo n : Nat) : (s.bump a hi lo n).cool = s.cool := rfl
@[simp] theorem State.bump_rowsOut (s : State) (a hi lo n : Nat) : (s.bump a hi lo n).rowsOut = s.rowsOut := rfl
@[simp] theorem State.bump_dirLines (s : State) (a hi lo n : Nat) : (s.bump a hi lo n).dirLines = s.dirLines := rfl
@[simp] theorem State.bump_lr (s : State) (a hi lo n : Nat) : (s.bump a hi lo n).lr = s.lr := rfl
@[simp] theorem State.bump_coreHeld (s : State) (a hi lo n : Nat) : (s.bump a hi lo n).coreHeld = s.coreHeld := rfl
@[simp] theorem State.bump_downOps (s : State) (a hi lo n : Nat) : (s.bump a hi lo n).downOps = s.downOps := rfl
@[simp] theorem State.bump_reverted (s : State) (a hi lo n : Nat) : (s.bump a hi lo n).reverted = s.reverted := rfl
@[simp] theorem State.bump_parked (s : State) (a hi lo n : Nat) : (s.bump a hi lo n).parked = s.parked := rfl
@[simp] theorem State.bump_migs (s : State) (a hi lo n : Nat) : (s.bump a hi lo n).migs = s.migs := rfl
@[simp] theorem State.bump_inv (s : State) (a hi lo n : Nat) : (s.bump a hi lo n).inv = s.inv := rfl
@[simp] theorem State.bump_dirClear (s : State) (a hi lo n : Nat) : (s.bump a hi lo n).dirClear = s.dirClear := rfl
@[simp] theorem State.bump_sample (s : State) (a hi lo n : Nat) : (s.bump a hi lo n).sample = s.sample := rfl
@[simp] theorem State.bump_bias (s : State) (a hi lo n : Nat) : (s.bump a hi lo n).bias = s.bias := rfl
@[simp] theorem State.bump_biaResv (s : State) (a hi lo n : Nat) : (s.bump a hi lo n).biaResv = s.biaResv := rfl
@[simp] theorem State.bump_ptmSeq (s : State) (a hi lo n : Nat) : (s.bump a hi lo n).ptmSeq = s.ptmSeq := rfl
@[simp] theorem State.bump_msixOn (s : State) (a hi lo n : Nat) : (s.bump a hi lo n).msixOn = s.msixOn := rfl
@[simp] theorem State.bump_msixPend (s : State) (a hi lo n : Nat) : (s.bump a hi lo n).msixPend = s.msixPend := rfl
@[simp] theorem State.bump_msix (s : State) (a hi lo n : Nat) : (s.bump a hi lo n).msix = s.msix := rfl
@[simp] theorem State.bump_coreIrq (s : State) (a hi lo n : Nat) : (s.bump a hi lo n).coreIrq = s.coreIrq := rfl
@[simp] theorem State.bump_ns (s : State) (a hi lo n : Nat) : (s.bump a hi lo n).ns = s.ns := rfl
@[simp] theorem State.bump_frac (s : State) (a hi lo n : Nat) : (s.bump a hi lo n).frac = s.frac := rfl
@[simp] theorem State.bump_fracLatch (s : State) (a hi lo n : Nat) : (s.bump a hi lo n).fracLatch = s.fracLatch := rfl
@[simp] theorem State.bump_steer (s : State) (a hi lo n : Nat) : (s.bump a hi lo n).steer = s.steer := rfl
@[simp] theorem State.bump_ppsHigh (s : State) (a hi lo n : Nat) : (s.bump a hi lo n).ppsHigh = s.ppsHigh := rfl
@[simp] theorem State.bump_ppsFall (s : State) (a hi lo n : Nat) : (s.bump a hi lo n).ppsFall = s.ppsFall := rfl
@[simp] theorem State.bump_ppsEdge (s : State) (a hi lo n : Nat) : (s.bump a hi lo n).ppsEdge = s.ppsEdge := rfl
@[simp] theorem State.bump_todSeq (s : State) (a hi lo n : Nat) : (s.bump a hi lo n).todSeq = s.todSeq := rfl
@[simp] theorem State.bump_todSent (s : State) (a hi lo n : Nat) : (s.bump a hi lo n).todSent = s.todSent := rfl
@[simp] theorem State.bump_ppsHold (s : State) (a hi lo n : Nat) : (s.bump a hi lo n).ppsHold = s.ppsHold := rfl
@[simp] theorem State.bump_outRun (s : State) (a hi lo n : Nat) : (s.bump a hi lo n).outRun = s.outRun := rfl
@[simp] theorem State.bump_collNo (s : State) (a hi lo n : Nat) : (s.bump a hi lo n).collNo = s.collNo := rfl
@[simp] theorem State.bump_notices (s : State) (a hi lo n : Nat) : (s.bump a hi lo n).notices = s.notices := rfl
@[simp] theorem State.bump_abandoned (s : State) (a hi lo n : Nat) : (s.bump a hi lo n).abandoned = s.abandoned := rfl
@[simp] theorem State.bump_inbox (s : State) (a hi lo n : Nat) : (s.bump a hi lo n).inbox = s.inbox := rfl
@[simp] theorem State.bump_accepted (s : State) (a hi lo n : Nat) : (s.bump a hi lo n).accepted = s.accepted := rfl
@[simp] theorem State.bump_retry (s : State) (a hi lo n : Nat) : (s.bump a hi lo n).retry = s.retry := rfl
@[simp] theorem State.bump_portSeq (s : State) (a hi lo n : Nat) : (s.bump a hi lo n).portSeq = s.portSeq := rfl
@[simp] theorem State.bump_outbox (s : State) (a hi lo n : Nat) : (s.bump a hi lo n).outbox = s.outbox := rfl
@[simp] theorem State.bump_inLock (s : State) (a hi lo n : Nat) : (s.bump a hi lo n).inLock = s.inLock := rfl
@[simp] theorem State.bump_alignDue (s : State) (a hi lo n : Nat) : (s.bump a hi lo n).alignDue = s.alignDue := rfl
@[simp] theorem State.bump_alignOut (s : State) (a hi lo n : Nat) : (s.bump a hi lo n).alignOut = s.alignOut := rfl
@[simp] theorem State.bump_alignSet (s : State) (a hi lo n : Nat) : (s.bump a hi lo n).alignSet = s.alignSet := rfl
@[simp] theorem State.bump_best (s : State) (a hi lo n : Nat) : (s.bump a hi lo n).best = s.best := rfl
@[simp] theorem State.bump_joins (s : State) (a hi lo n : Nat) : (s.bump a hi lo n).joins = s.joins := rfl
@[simp] theorem State.bump_joinPort (s : State) (a hi lo n : Nat) : (s.bump a hi lo n).joinPort = s.joinPort := rfl
@[simp] theorem State.bump_addrs (s : State) (a hi lo n : Nat) : (s.bump a hi lo n).addrs = s.addrs := rfl
@[simp] theorem State.bump_nextAddr (s : State) (a hi lo n : Nat) : (s.bump a hi lo n).nextAddr = s.nextAddr := rfl
@[simp] theorem State.bump_routes (s : State) (a hi lo n : Nat) : (s.bump a hi lo n).routes = s.routes := rfl
@[simp] theorem State.bump_upAt (s : State) (a hi lo n : Nat) : (s.bump a hi lo n).upAt = s.upAt := rfl
@[simp] theorem State.bump_joinAt (s : State) (a hi lo n : Nat) : (s.bump a hi lo n).joinAt = s.joinAt := rfl
@[simp] theorem State.bump_downAt (s : State) (a hi lo n : Nat) : (s.bump a hi lo n).downAt = s.downAt := rfl
@[simp] theorem State.bump_cwErr (s : State) (a hi lo n : Nat) : (s.bump a hi lo n).cwErr = s.cwErr := rfl
@[simp] theorem State.bump_laneBad (s : State) (a hi lo n : Nat) : (s.bump a hi lo n).laneBad = s.laneBad := rfl
@[simp] theorem State.bump_margins (s : State) (a hi lo n : Nat) : (s.bump a hi lo n).margins = s.margins := rfl
@[simp] theorem State.bump_held (s : State) (a hi lo n : Nat) : (s.bump a hi lo n).held = s.held := rfl
@[simp] theorem State.bump_sincePg (s : State) (a hi lo n : Nat) : (s.bump a hi lo n).sincePg = s.sincePg := rfl
@[simp] theorem State.bump_fuses (s : State) (a hi lo n : Nat) : (s.bump a hi lo n).fuses = s.fuses := rfl
@[simp] theorem State.bump_revokes (s : State) (a hi lo n : Nat) : (s.bump a hi lo n).revokes = s.revokes := rfl
@[simp] theorem State.bump_wdogOn (s : State) (a hi lo n : Nat) : (s.bump a hi lo n).wdogOn = s.wdogOn := rfl
@[simp] theorem State.bump_wdogAt (s : State) (a hi lo n : Nat) : (s.bump a hi lo n).wdogAt = s.wdogAt := rfl
@[simp] theorem State.bump_bootWin (s : State) (a hi lo n : Nat) : (s.bump a hi lo n).bootWin = s.bootWin := rfl
@[simp] theorem State.bump_owned (s : State) (a hi lo n : Nat) : (s.bump a hi lo n).owned = s.owned := rfl
@[simp] theorem State.bump_image (s : State) (a hi lo n : Nat) : (s.bump a hi lo n).image = s.image := rfl
@[simp] theorem State.bump_wiped (s : State) (a hi lo n : Nat) : (s.bump a hi lo n).wiped = s.wiped := rfl
@[simp] theorem State.bump_discovered (s : State) (a hi lo n : Nat) : (s.bump a hi lo n).discovered = s.discovered := rfl
@[simp] theorem State.bump_attest (s : State) (a hi lo n : Nat) : (s.bump a hi lo n).attest = s.attest := rfl
@[simp] theorem State.bump_aliasCert (s : State) (a hi lo n : Nat) : (s.bump a hi lo n).aliasCert = s.aliasCert := rfl
@[simp] theorem State.bump_keep (s : State) (a hi lo n : Nat) : (s.bump a hi lo n).keep = s.keep := rfl
@[simp] theorem State.bump_beatFaults (s : State) (a hi lo n : Nat) : (s.bump a hi lo n).beatFaults = s.beatFaults := rfl
@[simp] theorem State.bump_windows (s : State) (a hi lo n : Nat) : (s.bump a hi lo n).windows = s.windows := rfl
@[simp] theorem State.bump_tests (s : State) (a hi lo n : Nat) : (s.bump a hi lo n).tests = s.tests := rfl
@[simp] theorem State.bump_spareGone (s : State) (a hi lo n : Nat) : (s.bump a hi lo n).spareGone = s.spareGone := rfl
@[simp] theorem State.bump_remap (s : State) (a hi lo n : Nat) : (s.bump a hi lo n).remap = s.remap := rfl
@[simp] theorem State.bump_counted (s : State) (a hi lo n : Nat) : (s.bump a hi lo n).counted = s.counted := rfl
@[simp] theorem State.bump_transients (s : State) (a hi lo n : Nat) : (s.bump a hi lo n).transients = s.transients := rfl
@[simp] theorem State.bump_rigOut (s : State) (a hi lo n : Nat) : (s.bump a hi lo n).rigOut = s.rigOut := rfl
@[simp] theorem State.bump_mscOut (s : State) (a hi lo n : Nat) : (s.bump a hi lo n).mscOut = s.mscOut := rfl
@[simp] theorem State.bump_wayOff (s : State) (a hi lo n : Nat) : (s.bump a hi lo n).wayOff = s.wayOff := rfl
@[simp] theorem State.bump_bankOut (s : State) (a hi lo n : Nat) : (s.bump a hi lo n).bankOut = s.bankOut := rfl
@[simp] theorem State.bump_power (s : State) (a hi lo n : Nat) : (s.bump a hi lo n).power = s.power := rfl
@[simp] theorem State.bump_pwrEn (s : State) (a hi lo n : Nat) : (s.bump a hi lo n).pwrEn = s.pwrEn := rfl
@[simp] theorem State.bump_perst (s : State) (a hi lo n : Nat) : (s.bump a hi lo n).perst = s.perst := rfl
@[simp] theorem State.bump_mz50 (s : State) (a hi lo n : Nat) : (s.bump a hi lo n).mz50 = s.mz50 := rfl
@[simp] theorem State.bump_powerGood (s : State) (a hi lo n : Nat) : (s.bump a hi lo n).powerGood = s.powerGood := rfl
@[simp] theorem State.bump_tripN (s : State) (a hi lo n : Nat) : (s.bump a hi lo n).tripN = s.tripN := rfl
@[simp] theorem State.bump_capNext (s : State) (a hi lo n : Nat) : (s.bump a hi lo n).capNext = s.capNext := rfl
@[simp] theorem State.bump_sinceStep (s : State) (a hi lo n : Nat) : (s.bump a hi lo n).sinceStep = s.sinceStep := rfl
@[simp] theorem State.bump_capShare (s : State) (a hi lo n : Nat) : (s.bump a hi lo n).capShare = s.capShare := rfl
@[simp] theorem State.bump_sinceShare (s : State) (a hi lo n : Nat) : (s.bump a hi lo n).sinceShare = s.sinceShare := rfl
@[simp] theorem State.bump_mzFirst (s : State) (a hi lo n : Nat) : (s.bump a hi lo n).mzFirst = s.mzFirst := rfl
@[simp] theorem State.bump_mzInj (s : State) (a hi lo n : Nat) : (s.bump a hi lo n).mzInj = s.mzInj := rfl
@[simp] theorem State.bump_floorB (s : State) (a hi lo n : Nat) : (s.bump a hi lo n).floorB = s.floorB := rfl
@[simp] theorem State.bump_p10 (s : State) (a hi lo n : Nat) : (s.bump a hi lo n).p10 = s.p10 := rfl
@[simp] theorem State.bump_hot (s : State) (a hi lo n : Nat) : (s.bump a hi lo n).hot = s.hot := rfl
@[simp] theorem State.bump_alertAt (s : State) (a hi lo n : Nat) : (s.bump a hi lo n).alertAt = s.alertAt := rfl
@[simp] theorem State.bump_cooled (s : State) (a hi lo n : Nat) : (s.bump a hi lo n).cooled = s.cooled := rfl
@[simp] theorem State.bump_i3cAddr (s : State) (a hi lo n : Nat) : (s.bump a hi lo n).i3cAddr = s.i3cAddr := rfl
@[simp] theorem State.bump_i3cIrq (s : State) (a hi lo n : Nat) : (s.bump a hi lo n).i3cIrq = s.i3cIrq := rfl
@[simp] theorem State.bump_jtag (s : State) (a hi lo n : Nat) : (s.bump a hi lo n).jtag = s.jtag := rfl
@[simp] theorem State.bump_challenge (s : State) (a hi lo n : Nat) : (s.bump a hi lo n).challenge = s.challenge := rfl
@[simp] theorem State.bump_session (s : State) (a hi lo n : Nat) : (s.bump a hi lo n).session = s.session := rfl
@[simp] theorem State.bump_halted (s : State) (a hi lo n : Nat) : (s.bump a hi lo n).halted = s.halted := rfl
@[simp] theorem State.bump_uart (s : State) (a hi lo n : Nat) : (s.bump a hi lo n).uart = s.uart := rfl
@[simp] theorem State.bump_pinHigh (s : State) (a hi lo n : Nat) : (s.bump a hi lo n).pinHigh = s.pinHigh := rfl
@[simp] theorem State.bump_cagePins (s : State) (a hi lo n : Nat) : (s.bump a hi lo n).cagePins = s.cagePins := rfl
@[simp] theorem State.bump_reply (s : State) (a hi lo n : Nat) : (s.bump a hi lo n).reply = s.reply := rfl
@[simp] theorem State.bump_free (s : State) (a hi lo n : Nat) : (s.bump a hi lo n).free = s.free := rfl

/-! ### `State.arm` -/

@[simp] theorem State.arm_pending (s : State) (reg kind target : Nat) : (s.arm reg kind target).pending = s.pending := rfl
@[simp] theorem State.arm_regs (s : State) (reg kind target : Nat) : (s.arm reg kind target).regs = s.regs := rfl
@[simp] theorem State.arm_mem (s : State) (reg kind target : Nat) : (s.arm reg kind target).mem = s.mem := rfl
@[simp] theorem State.arm_hostMem (s : State) (reg kind target : Nat) : (s.arm reg kind target).hostMem = s.hostMem := rfl
@[simp] theorem State.arm_hostOut (s : State) (reg kind target : Nat) : (s.arm reg kind target).hostOut = s.hostOut := rfl
@[simp] theorem State.arm_sentOut (s : State) (reg kind target : Nat) : (s.arm reg kind target).sentOut = s.sentOut := rfl
@[simp] theorem State.arm_ackDue (s : State) (reg kind target : Nat) : (s.arm reg kind target).ackDue = s.ackDue := rfl
@[simp] theorem State.arm_tags (s : State) (reg kind target : Nat) : (s.arm reg kind target).tags = s.tags := rfl
@[simp] theorem State.arm_marks (s : State) (reg kind target : Nat) : (s.arm reg kind target).marks = s.marks := rfl
@[simp] theorem State.arm_ops (s : State) (reg kind target : Nat) : (s.arm reg kind target).ops = s.ops := rfl
@[simp] theorem State.arm_pieces (s : State) (reg kind target : Nat) : (s.arm reg kind target).pieces = s.pieces := rfl
@[simp] theorem State.arm_waits (s : State) (reg kind target : Nat) : (s.arm reg kind target).waits = s.waits := rfl
@[simp] theorem State.arm_ready (s : State) (reg kind target : Nat) : (s.arm reg kind target).ready = s.ready := rfl
@[simp] theorem State.arm_recFail (s : State) (reg kind target : Nat) : (s.arm reg kind target).recFail = s.recFail := rfl
@[simp] theorem State.arm_cancels (s : State) (reg kind target : Nat) : (s.arm reg kind target).cancels = s.cancels := rfl
@[simp] theorem State.arm_flagWait (s : State) (reg kind target : Nat) : (s.arm reg kind target).flagWait = s.flagWait := rfl
@[simp] theorem State.arm_totals (s : State) (reg kind target : Nat) : (s.arm reg kind target).totals = s.totals := rfl
@[simp] theorem State.arm_lastBeat (s : State) (reg kind target : Nat) : (s.arm reg kind target).lastBeat = s.lastBeat := rfl
@[simp] theorem State.arm_offsets (s : State) (reg kind target : Nat) : (s.arm reg kind target).offsets = s.offsets := rfl
@[simp] theorem State.arm_rebaseDue (s : State) (reg kind target : Nat) : (s.arm reg kind target).rebaseDue = s.rebaseDue := rfl
@[simp] theorem State.arm_rebaseNow (s : State) (reg kind target : Nat) : (s.arm reg kind target).rebaseNow = s.rebaseNow := rfl
@[simp] theorem State.arm_pipes (s : State) (reg kind target : Nat) : (s.arm reg kind target).pipes = s.pipes := rfl
@[simp] theorem State.arm_retired (s : State) (reg kind target : Nat) : (s.arm reg kind target).retired = s.retired := rfl
@[simp] theorem State.arm_mailbox (s : State) (reg kind target : Nat) : (s.arm reg kind target).mailbox = s.mailbox := rfl
@[simp] theorem State.arm_marginNext (s : State) (reg kind target : Nat) : (s.arm reg kind target).marginNext = s.marginNext := rfl
@[simp] theorem State.arm_wctlNext (s : State) (reg kind target : Nat) : (s.arm reg kind target).wctlNext = s.wctlNext := rfl
@[simp] theorem State.arm_tripClear (s : State) (reg kind target : Nat) : (s.arm reg kind target).tripClear = s.tripClear := rfl
@[simp] theorem State.arm_detects (s : State) (reg kind target : Nat) : (s.arm reg kind target).detects = s.detects := rfl
@[simp] theorem State.arm_tileQ (s : State) (reg kind target : Nat) : (s.arm reg kind target).tileQ = s.tileQ := rfl
@[simp] theorem State.arm_stalled (s : State) (reg kind target : Nat) : (s.arm reg kind target).stalled = s.stalled := rfl
@[simp] theorem State.arm_resident (s : State) (reg kind target : Nat) : (s.arm reg kind target).resident = s.resident := rfl
@[simp] theorem State.arm_nodes (s : State) (reg kind target : Nat) : (s.arm reg kind target).nodes = s.nodes := rfl
@[simp] theorem State.arm_accs (s : State) (reg kind target : Nat) : (s.arm reg kind target).accs = s.accs := rfl
@[simp] theorem State.arm_spills (s : State) (reg kind target : Nat) : (s.arm reg kind target).spills = s.spills := rfl
@[simp] theorem State.arm_roots (s : State) (reg kind target : Nat) : (s.arm reg kind target).roots = s.roots := rfl
@[simp] theorem State.arm_seqs (s : State) (reg kind target : Nat) : (s.arm reg kind target).seqs = s.seqs := rfl
@[simp] theorem State.arm_journal (s : State) (reg kind target : Nat) : (s.arm reg kind target).journal = s.journal := rfl
@[simp] theorem State.arm_cool (s : State) (reg kind target : Nat) : (s.arm reg kind target).cool = s.cool := rfl
@[simp] theorem State.arm_rowsOut (s : State) (reg kind target : Nat) : (s.arm reg kind target).rowsOut = s.rowsOut := rfl
@[simp] theorem State.arm_dirLines (s : State) (reg kind target : Nat) : (s.arm reg kind target).dirLines = s.dirLines := rfl
@[simp] theorem State.arm_lr (s : State) (reg kind target : Nat) : (s.arm reg kind target).lr = s.lr := rfl
@[simp] theorem State.arm_coreHeld (s : State) (reg kind target : Nat) : (s.arm reg kind target).coreHeld = s.coreHeld := rfl
@[simp] theorem State.arm_downOps (s : State) (reg kind target : Nat) : (s.arm reg kind target).downOps = s.downOps := rfl
@[simp] theorem State.arm_reverted (s : State) (reg kind target : Nat) : (s.arm reg kind target).reverted = s.reverted := rfl
@[simp] theorem State.arm_parked (s : State) (reg kind target : Nat) : (s.arm reg kind target).parked = s.parked := rfl
@[simp] theorem State.arm_migs (s : State) (reg kind target : Nat) : (s.arm reg kind target).migs = s.migs := rfl
@[simp] theorem State.arm_inv (s : State) (reg kind target : Nat) : (s.arm reg kind target).inv = s.inv := rfl
@[simp] theorem State.arm_dirClear (s : State) (reg kind target : Nat) : (s.arm reg kind target).dirClear = s.dirClear := rfl
@[simp] theorem State.arm_sample (s : State) (reg kind target : Nat) : (s.arm reg kind target).sample = s.sample := rfl
@[simp] theorem State.arm_bias (s : State) (reg kind target : Nat) : (s.arm reg kind target).bias = s.bias := rfl
@[simp] theorem State.arm_biaResv (s : State) (reg kind target : Nat) : (s.arm reg kind target).biaResv = s.biaResv := rfl
@[simp] theorem State.arm_ptmSeq (s : State) (reg kind target : Nat) : (s.arm reg kind target).ptmSeq = s.ptmSeq := rfl
@[simp] theorem State.arm_msixOn (s : State) (reg kind target : Nat) : (s.arm reg kind target).msixOn = s.msixOn := rfl
@[simp] theorem State.arm_msixPend (s : State) (reg kind target : Nat) : (s.arm reg kind target).msixPend = s.msixPend := rfl
@[simp] theorem State.arm_msix (s : State) (reg kind target : Nat) : (s.arm reg kind target).msix = s.msix := rfl
@[simp] theorem State.arm_coreIrq (s : State) (reg kind target : Nat) : (s.arm reg kind target).coreIrq = s.coreIrq := rfl
@[simp] theorem State.arm_ns (s : State) (reg kind target : Nat) : (s.arm reg kind target).ns = s.ns := rfl
@[simp] theorem State.arm_frac (s : State) (reg kind target : Nat) : (s.arm reg kind target).frac = s.frac := rfl
@[simp] theorem State.arm_fracLatch (s : State) (reg kind target : Nat) : (s.arm reg kind target).fracLatch = s.fracLatch := rfl
@[simp] theorem State.arm_steer (s : State) (reg kind target : Nat) : (s.arm reg kind target).steer = s.steer := rfl
@[simp] theorem State.arm_ppsHigh (s : State) (reg kind target : Nat) : (s.arm reg kind target).ppsHigh = s.ppsHigh := rfl
@[simp] theorem State.arm_ppsFall (s : State) (reg kind target : Nat) : (s.arm reg kind target).ppsFall = s.ppsFall := rfl
@[simp] theorem State.arm_ppsEdge (s : State) (reg kind target : Nat) : (s.arm reg kind target).ppsEdge = s.ppsEdge := rfl
@[simp] theorem State.arm_todSeq (s : State) (reg kind target : Nat) : (s.arm reg kind target).todSeq = s.todSeq := rfl
@[simp] theorem State.arm_todSent (s : State) (reg kind target : Nat) : (s.arm reg kind target).todSent = s.todSent := rfl
@[simp] theorem State.arm_ppsHold (s : State) (reg kind target : Nat) : (s.arm reg kind target).ppsHold = s.ppsHold := rfl
@[simp] theorem State.arm_outRun (s : State) (reg kind target : Nat) : (s.arm reg kind target).outRun = s.outRun := rfl
@[simp] theorem State.arm_collNo (s : State) (reg kind target : Nat) : (s.arm reg kind target).collNo = s.collNo := rfl
@[simp] theorem State.arm_notices (s : State) (reg kind target : Nat) : (s.arm reg kind target).notices = s.notices := rfl
@[simp] theorem State.arm_abandoned (s : State) (reg kind target : Nat) : (s.arm reg kind target).abandoned = s.abandoned := rfl
@[simp] theorem State.arm_inbox (s : State) (reg kind target : Nat) : (s.arm reg kind target).inbox = s.inbox := rfl
@[simp] theorem State.arm_accepted (s : State) (reg kind target : Nat) : (s.arm reg kind target).accepted = s.accepted := rfl
@[simp] theorem State.arm_retry (s : State) (reg kind target : Nat) : (s.arm reg kind target).retry = s.retry := rfl
@[simp] theorem State.arm_portSeq (s : State) (reg kind target : Nat) : (s.arm reg kind target).portSeq = s.portSeq := rfl
@[simp] theorem State.arm_outbox (s : State) (reg kind target : Nat) : (s.arm reg kind target).outbox = s.outbox := rfl
@[simp] theorem State.arm_inLock (s : State) (reg kind target : Nat) : (s.arm reg kind target).inLock = s.inLock := rfl
@[simp] theorem State.arm_alignDue (s : State) (reg kind target : Nat) : (s.arm reg kind target).alignDue = s.alignDue := rfl
@[simp] theorem State.arm_alignOut (s : State) (reg kind target : Nat) : (s.arm reg kind target).alignOut = s.alignOut := rfl
@[simp] theorem State.arm_alignSet (s : State) (reg kind target : Nat) : (s.arm reg kind target).alignSet = s.alignSet := rfl
@[simp] theorem State.arm_best (s : State) (reg kind target : Nat) : (s.arm reg kind target).best = s.best := rfl
@[simp] theorem State.arm_joins (s : State) (reg kind target : Nat) : (s.arm reg kind target).joins = s.joins := rfl
@[simp] theorem State.arm_joinPort (s : State) (reg kind target : Nat) : (s.arm reg kind target).joinPort = s.joinPort := rfl
@[simp] theorem State.arm_addrs (s : State) (reg kind target : Nat) : (s.arm reg kind target).addrs = s.addrs := rfl
@[simp] theorem State.arm_nextAddr (s : State) (reg kind target : Nat) : (s.arm reg kind target).nextAddr = s.nextAddr := rfl
@[simp] theorem State.arm_routes (s : State) (reg kind target : Nat) : (s.arm reg kind target).routes = s.routes := rfl
@[simp] theorem State.arm_upAt (s : State) (reg kind target : Nat) : (s.arm reg kind target).upAt = s.upAt := rfl
@[simp] theorem State.arm_joinAt (s : State) (reg kind target : Nat) : (s.arm reg kind target).joinAt = s.joinAt := rfl
@[simp] theorem State.arm_downAt (s : State) (reg kind target : Nat) : (s.arm reg kind target).downAt = s.downAt := rfl
@[simp] theorem State.arm_cwErr (s : State) (reg kind target : Nat) : (s.arm reg kind target).cwErr = s.cwErr := rfl
@[simp] theorem State.arm_laneBad (s : State) (reg kind target : Nat) : (s.arm reg kind target).laneBad = s.laneBad := rfl
@[simp] theorem State.arm_margins (s : State) (reg kind target : Nat) : (s.arm reg kind target).margins = s.margins := rfl
@[simp] theorem State.arm_held (s : State) (reg kind target : Nat) : (s.arm reg kind target).held = s.held := rfl
@[simp] theorem State.arm_sincePg (s : State) (reg kind target : Nat) : (s.arm reg kind target).sincePg = s.sincePg := rfl
@[simp] theorem State.arm_fuses (s : State) (reg kind target : Nat) : (s.arm reg kind target).fuses = s.fuses := rfl
@[simp] theorem State.arm_revokes (s : State) (reg kind target : Nat) : (s.arm reg kind target).revokes = s.revokes := rfl
@[simp] theorem State.arm_wdogOn (s : State) (reg kind target : Nat) : (s.arm reg kind target).wdogOn = s.wdogOn := rfl
@[simp] theorem State.arm_wdogAt (s : State) (reg kind target : Nat) : (s.arm reg kind target).wdogAt = s.wdogAt := rfl
@[simp] theorem State.arm_bootWin (s : State) (reg kind target : Nat) : (s.arm reg kind target).bootWin = s.bootWin := rfl
@[simp] theorem State.arm_owned (s : State) (reg kind target : Nat) : (s.arm reg kind target).owned = s.owned := rfl
@[simp] theorem State.arm_image (s : State) (reg kind target : Nat) : (s.arm reg kind target).image = s.image := rfl
@[simp] theorem State.arm_wiped (s : State) (reg kind target : Nat) : (s.arm reg kind target).wiped = s.wiped := rfl
@[simp] theorem State.arm_discovered (s : State) (reg kind target : Nat) : (s.arm reg kind target).discovered = s.discovered := rfl
@[simp] theorem State.arm_attest (s : State) (reg kind target : Nat) : (s.arm reg kind target).attest = s.attest := rfl
@[simp] theorem State.arm_aliasCert (s : State) (reg kind target : Nat) : (s.arm reg kind target).aliasCert = s.aliasCert := rfl
@[simp] theorem State.arm_keep (s : State) (reg kind target : Nat) : (s.arm reg kind target).keep = s.keep := rfl
@[simp] theorem State.arm_beatFaults (s : State) (reg kind target : Nat) : (s.arm reg kind target).beatFaults = s.beatFaults := rfl
@[simp] theorem State.arm_windows (s : State) (reg kind target : Nat) : (s.arm reg kind target).windows = s.windows := rfl
@[simp] theorem State.arm_tests (s : State) (reg kind target : Nat) : (s.arm reg kind target).tests = s.tests := rfl
@[simp] theorem State.arm_spareGone (s : State) (reg kind target : Nat) : (s.arm reg kind target).spareGone = s.spareGone := rfl
@[simp] theorem State.arm_remap (s : State) (reg kind target : Nat) : (s.arm reg kind target).remap = s.remap := rfl
@[simp] theorem State.arm_counted (s : State) (reg kind target : Nat) : (s.arm reg kind target).counted = s.counted := rfl
@[simp] theorem State.arm_transients (s : State) (reg kind target : Nat) : (s.arm reg kind target).transients = s.transients := rfl
@[simp] theorem State.arm_rigOut (s : State) (reg kind target : Nat) : (s.arm reg kind target).rigOut = s.rigOut := rfl
@[simp] theorem State.arm_mscOut (s : State) (reg kind target : Nat) : (s.arm reg kind target).mscOut = s.mscOut := rfl
@[simp] theorem State.arm_wayOff (s : State) (reg kind target : Nat) : (s.arm reg kind target).wayOff = s.wayOff := rfl
@[simp] theorem State.arm_bankOut (s : State) (reg kind target : Nat) : (s.arm reg kind target).bankOut = s.bankOut := rfl
@[simp] theorem State.arm_power (s : State) (reg kind target : Nat) : (s.arm reg kind target).power = s.power := rfl
@[simp] theorem State.arm_pwrEn (s : State) (reg kind target : Nat) : (s.arm reg kind target).pwrEn = s.pwrEn := rfl
@[simp] theorem State.arm_perst (s : State) (reg kind target : Nat) : (s.arm reg kind target).perst = s.perst := rfl
@[simp] theorem State.arm_mz50 (s : State) (reg kind target : Nat) : (s.arm reg kind target).mz50 = s.mz50 := rfl
@[simp] theorem State.arm_powerGood (s : State) (reg kind target : Nat) : (s.arm reg kind target).powerGood = s.powerGood := rfl
@[simp] theorem State.arm_tripN (s : State) (reg kind target : Nat) : (s.arm reg kind target).tripN = s.tripN := rfl
@[simp] theorem State.arm_capNext (s : State) (reg kind target : Nat) : (s.arm reg kind target).capNext = s.capNext := rfl
@[simp] theorem State.arm_sinceStep (s : State) (reg kind target : Nat) : (s.arm reg kind target).sinceStep = s.sinceStep := rfl
@[simp] theorem State.arm_capShare (s : State) (reg kind target : Nat) : (s.arm reg kind target).capShare = s.capShare := rfl
@[simp] theorem State.arm_sinceShare (s : State) (reg kind target : Nat) : (s.arm reg kind target).sinceShare = s.sinceShare := rfl
@[simp] theorem State.arm_mzFirst (s : State) (reg kind target : Nat) : (s.arm reg kind target).mzFirst = s.mzFirst := rfl
@[simp] theorem State.arm_mzInj (s : State) (reg kind target : Nat) : (s.arm reg kind target).mzInj = s.mzInj := rfl
@[simp] theorem State.arm_floorB (s : State) (reg kind target : Nat) : (s.arm reg kind target).floorB = s.floorB := rfl
@[simp] theorem State.arm_p10 (s : State) (reg kind target : Nat) : (s.arm reg kind target).p10 = s.p10 := rfl
@[simp] theorem State.arm_hot (s : State) (reg kind target : Nat) : (s.arm reg kind target).hot = s.hot := rfl
@[simp] theorem State.arm_alertAt (s : State) (reg kind target : Nat) : (s.arm reg kind target).alertAt = s.alertAt := rfl
@[simp] theorem State.arm_cooled (s : State) (reg kind target : Nat) : (s.arm reg kind target).cooled = s.cooled := rfl
@[simp] theorem State.arm_i3cAddr (s : State) (reg kind target : Nat) : (s.arm reg kind target).i3cAddr = s.i3cAddr := rfl
@[simp] theorem State.arm_i3cIrq (s : State) (reg kind target : Nat) : (s.arm reg kind target).i3cIrq = s.i3cIrq := rfl
@[simp] theorem State.arm_jtag (s : State) (reg kind target : Nat) : (s.arm reg kind target).jtag = s.jtag := rfl
@[simp] theorem State.arm_challenge (s : State) (reg kind target : Nat) : (s.arm reg kind target).challenge = s.challenge := rfl
@[simp] theorem State.arm_session (s : State) (reg kind target : Nat) : (s.arm reg kind target).session = s.session := rfl
@[simp] theorem State.arm_halted (s : State) (reg kind target : Nat) : (s.arm reg kind target).halted = s.halted := rfl
@[simp] theorem State.arm_uart (s : State) (reg kind target : Nat) : (s.arm reg kind target).uart = s.uart := rfl
@[simp] theorem State.arm_pinHigh (s : State) (reg kind target : Nat) : (s.arm reg kind target).pinHigh = s.pinHigh := rfl
@[simp] theorem State.arm_cagePins (s : State) (reg kind target : Nat) : (s.arm reg kind target).cagePins = s.cagePins := rfl
@[simp] theorem State.arm_reply (s : State) (reg kind target : Nat) : (s.arm reg kind target).reply = s.reply := rfl
@[simp] theorem State.arm_free (s : State) (reg kind target : Nat) : (s.arm reg kind target).free = s.free := rfl
@[simp] theorem State.arm_rd (s : State) (reg kind target : Nat) (x : Nat) : (s.arm reg kind target).rd x = s.rd x := rfl
@[simp] theorem State.arm_fld (s : State) (reg kind target : Nat) (x hi lo : Nat) : (s.arm reg kind target).fld x hi lo = s.fld x hi lo := rfl
@[simp] theorem State.arm_flag (s : State) (reg kind target : Nat) (x i : Nat) : (s.arm reg kind target).flag x i = s.flag x i := rfl

/-! ### `State.disarm` -/

@[simp] theorem State.disarm_pending (s : State) (reg kind target : Nat) : (s.disarm reg kind target).pending = s.pending := rfl
@[simp] theorem State.disarm_regs (s : State) (reg kind target : Nat) : (s.disarm reg kind target).regs = s.regs := rfl
@[simp] theorem State.disarm_mem (s : State) (reg kind target : Nat) : (s.disarm reg kind target).mem = s.mem := rfl
@[simp] theorem State.disarm_hostMem (s : State) (reg kind target : Nat) : (s.disarm reg kind target).hostMem = s.hostMem := rfl
@[simp] theorem State.disarm_hostOut (s : State) (reg kind target : Nat) : (s.disarm reg kind target).hostOut = s.hostOut := rfl
@[simp] theorem State.disarm_sentOut (s : State) (reg kind target : Nat) : (s.disarm reg kind target).sentOut = s.sentOut := rfl
@[simp] theorem State.disarm_ackDue (s : State) (reg kind target : Nat) : (s.disarm reg kind target).ackDue = s.ackDue := rfl
@[simp] theorem State.disarm_tags (s : State) (reg kind target : Nat) : (s.disarm reg kind target).tags = s.tags := rfl
@[simp] theorem State.disarm_marks (s : State) (reg kind target : Nat) : (s.disarm reg kind target).marks = s.marks := rfl
@[simp] theorem State.disarm_ops (s : State) (reg kind target : Nat) : (s.disarm reg kind target).ops = s.ops := rfl
@[simp] theorem State.disarm_pieces (s : State) (reg kind target : Nat) : (s.disarm reg kind target).pieces = s.pieces := rfl
@[simp] theorem State.disarm_waits (s : State) (reg kind target : Nat) : (s.disarm reg kind target).waits = s.waits := rfl
@[simp] theorem State.disarm_ready (s : State) (reg kind target : Nat) : (s.disarm reg kind target).ready = s.ready := rfl
@[simp] theorem State.disarm_recFail (s : State) (reg kind target : Nat) : (s.disarm reg kind target).recFail = s.recFail := rfl
@[simp] theorem State.disarm_cancels (s : State) (reg kind target : Nat) : (s.disarm reg kind target).cancels = s.cancels := rfl
@[simp] theorem State.disarm_flagWait (s : State) (reg kind target : Nat) : (s.disarm reg kind target).flagWait = s.flagWait := rfl
@[simp] theorem State.disarm_totals (s : State) (reg kind target : Nat) : (s.disarm reg kind target).totals = s.totals := rfl
@[simp] theorem State.disarm_lastBeat (s : State) (reg kind target : Nat) : (s.disarm reg kind target).lastBeat = s.lastBeat := rfl
@[simp] theorem State.disarm_offsets (s : State) (reg kind target : Nat) : (s.disarm reg kind target).offsets = s.offsets := rfl
@[simp] theorem State.disarm_rebaseDue (s : State) (reg kind target : Nat) : (s.disarm reg kind target).rebaseDue = s.rebaseDue := rfl
@[simp] theorem State.disarm_rebaseNow (s : State) (reg kind target : Nat) : (s.disarm reg kind target).rebaseNow = s.rebaseNow := rfl
@[simp] theorem State.disarm_pipes (s : State) (reg kind target : Nat) : (s.disarm reg kind target).pipes = s.pipes := rfl
@[simp] theorem State.disarm_retired (s : State) (reg kind target : Nat) : (s.disarm reg kind target).retired = s.retired := rfl
@[simp] theorem State.disarm_mailbox (s : State) (reg kind target : Nat) : (s.disarm reg kind target).mailbox = s.mailbox := rfl
@[simp] theorem State.disarm_marginNext (s : State) (reg kind target : Nat) : (s.disarm reg kind target).marginNext = s.marginNext := rfl
@[simp] theorem State.disarm_wctlNext (s : State) (reg kind target : Nat) : (s.disarm reg kind target).wctlNext = s.wctlNext := rfl
@[simp] theorem State.disarm_tripClear (s : State) (reg kind target : Nat) : (s.disarm reg kind target).tripClear = s.tripClear := rfl
@[simp] theorem State.disarm_detects (s : State) (reg kind target : Nat) : (s.disarm reg kind target).detects = s.detects := rfl
@[simp] theorem State.disarm_tileQ (s : State) (reg kind target : Nat) : (s.disarm reg kind target).tileQ = s.tileQ := rfl
@[simp] theorem State.disarm_stalled (s : State) (reg kind target : Nat) : (s.disarm reg kind target).stalled = s.stalled := rfl
@[simp] theorem State.disarm_resident (s : State) (reg kind target : Nat) : (s.disarm reg kind target).resident = s.resident := rfl
@[simp] theorem State.disarm_nodes (s : State) (reg kind target : Nat) : (s.disarm reg kind target).nodes = s.nodes := rfl
@[simp] theorem State.disarm_accs (s : State) (reg kind target : Nat) : (s.disarm reg kind target).accs = s.accs := rfl
@[simp] theorem State.disarm_spills (s : State) (reg kind target : Nat) : (s.disarm reg kind target).spills = s.spills := rfl
@[simp] theorem State.disarm_roots (s : State) (reg kind target : Nat) : (s.disarm reg kind target).roots = s.roots := rfl
@[simp] theorem State.disarm_seqs (s : State) (reg kind target : Nat) : (s.disarm reg kind target).seqs = s.seqs := rfl
@[simp] theorem State.disarm_journal (s : State) (reg kind target : Nat) : (s.disarm reg kind target).journal = s.journal := rfl
@[simp] theorem State.disarm_cool (s : State) (reg kind target : Nat) : (s.disarm reg kind target).cool = s.cool := rfl
@[simp] theorem State.disarm_rowsOut (s : State) (reg kind target : Nat) : (s.disarm reg kind target).rowsOut = s.rowsOut := rfl
@[simp] theorem State.disarm_dirLines (s : State) (reg kind target : Nat) : (s.disarm reg kind target).dirLines = s.dirLines := rfl
@[simp] theorem State.disarm_lr (s : State) (reg kind target : Nat) : (s.disarm reg kind target).lr = s.lr := rfl
@[simp] theorem State.disarm_coreHeld (s : State) (reg kind target : Nat) : (s.disarm reg kind target).coreHeld = s.coreHeld := rfl
@[simp] theorem State.disarm_downOps (s : State) (reg kind target : Nat) : (s.disarm reg kind target).downOps = s.downOps := rfl
@[simp] theorem State.disarm_reverted (s : State) (reg kind target : Nat) : (s.disarm reg kind target).reverted = s.reverted := rfl
@[simp] theorem State.disarm_parked (s : State) (reg kind target : Nat) : (s.disarm reg kind target).parked = s.parked := rfl
@[simp] theorem State.disarm_migs (s : State) (reg kind target : Nat) : (s.disarm reg kind target).migs = s.migs := rfl
@[simp] theorem State.disarm_inv (s : State) (reg kind target : Nat) : (s.disarm reg kind target).inv = s.inv := rfl
@[simp] theorem State.disarm_dirClear (s : State) (reg kind target : Nat) : (s.disarm reg kind target).dirClear = s.dirClear := rfl
@[simp] theorem State.disarm_sample (s : State) (reg kind target : Nat) : (s.disarm reg kind target).sample = s.sample := rfl
@[simp] theorem State.disarm_bias (s : State) (reg kind target : Nat) : (s.disarm reg kind target).bias = s.bias := rfl
@[simp] theorem State.disarm_biaResv (s : State) (reg kind target : Nat) : (s.disarm reg kind target).biaResv = s.biaResv := rfl
@[simp] theorem State.disarm_ptmSeq (s : State) (reg kind target : Nat) : (s.disarm reg kind target).ptmSeq = s.ptmSeq := rfl
@[simp] theorem State.disarm_msixOn (s : State) (reg kind target : Nat) : (s.disarm reg kind target).msixOn = s.msixOn := rfl
@[simp] theorem State.disarm_msixPend (s : State) (reg kind target : Nat) : (s.disarm reg kind target).msixPend = s.msixPend := rfl
@[simp] theorem State.disarm_msix (s : State) (reg kind target : Nat) : (s.disarm reg kind target).msix = s.msix := rfl
@[simp] theorem State.disarm_coreIrq (s : State) (reg kind target : Nat) : (s.disarm reg kind target).coreIrq = s.coreIrq := rfl
@[simp] theorem State.disarm_ns (s : State) (reg kind target : Nat) : (s.disarm reg kind target).ns = s.ns := rfl
@[simp] theorem State.disarm_frac (s : State) (reg kind target : Nat) : (s.disarm reg kind target).frac = s.frac := rfl
@[simp] theorem State.disarm_fracLatch (s : State) (reg kind target : Nat) : (s.disarm reg kind target).fracLatch = s.fracLatch := rfl
@[simp] theorem State.disarm_steer (s : State) (reg kind target : Nat) : (s.disarm reg kind target).steer = s.steer := rfl
@[simp] theorem State.disarm_ppsHigh (s : State) (reg kind target : Nat) : (s.disarm reg kind target).ppsHigh = s.ppsHigh := rfl
@[simp] theorem State.disarm_ppsFall (s : State) (reg kind target : Nat) : (s.disarm reg kind target).ppsFall = s.ppsFall := rfl
@[simp] theorem State.disarm_ppsEdge (s : State) (reg kind target : Nat) : (s.disarm reg kind target).ppsEdge = s.ppsEdge := rfl
@[simp] theorem State.disarm_todSeq (s : State) (reg kind target : Nat) : (s.disarm reg kind target).todSeq = s.todSeq := rfl
@[simp] theorem State.disarm_todSent (s : State) (reg kind target : Nat) : (s.disarm reg kind target).todSent = s.todSent := rfl
@[simp] theorem State.disarm_ppsHold (s : State) (reg kind target : Nat) : (s.disarm reg kind target).ppsHold = s.ppsHold := rfl
@[simp] theorem State.disarm_outRun (s : State) (reg kind target : Nat) : (s.disarm reg kind target).outRun = s.outRun := rfl
@[simp] theorem State.disarm_collNo (s : State) (reg kind target : Nat) : (s.disarm reg kind target).collNo = s.collNo := rfl
@[simp] theorem State.disarm_notices (s : State) (reg kind target : Nat) : (s.disarm reg kind target).notices = s.notices := rfl
@[simp] theorem State.disarm_abandoned (s : State) (reg kind target : Nat) : (s.disarm reg kind target).abandoned = s.abandoned := rfl
@[simp] theorem State.disarm_inbox (s : State) (reg kind target : Nat) : (s.disarm reg kind target).inbox = s.inbox := rfl
@[simp] theorem State.disarm_accepted (s : State) (reg kind target : Nat) : (s.disarm reg kind target).accepted = s.accepted := rfl
@[simp] theorem State.disarm_retry (s : State) (reg kind target : Nat) : (s.disarm reg kind target).retry = s.retry := rfl
@[simp] theorem State.disarm_portSeq (s : State) (reg kind target : Nat) : (s.disarm reg kind target).portSeq = s.portSeq := rfl
@[simp] theorem State.disarm_outbox (s : State) (reg kind target : Nat) : (s.disarm reg kind target).outbox = s.outbox := rfl
@[simp] theorem State.disarm_inLock (s : State) (reg kind target : Nat) : (s.disarm reg kind target).inLock = s.inLock := rfl
@[simp] theorem State.disarm_alignDue (s : State) (reg kind target : Nat) : (s.disarm reg kind target).alignDue = s.alignDue := rfl
@[simp] theorem State.disarm_alignOut (s : State) (reg kind target : Nat) : (s.disarm reg kind target).alignOut = s.alignOut := rfl
@[simp] theorem State.disarm_alignSet (s : State) (reg kind target : Nat) : (s.disarm reg kind target).alignSet = s.alignSet := rfl
@[simp] theorem State.disarm_best (s : State) (reg kind target : Nat) : (s.disarm reg kind target).best = s.best := rfl
@[simp] theorem State.disarm_joins (s : State) (reg kind target : Nat) : (s.disarm reg kind target).joins = s.joins := rfl
@[simp] theorem State.disarm_joinPort (s : State) (reg kind target : Nat) : (s.disarm reg kind target).joinPort = s.joinPort := rfl
@[simp] theorem State.disarm_addrs (s : State) (reg kind target : Nat) : (s.disarm reg kind target).addrs = s.addrs := rfl
@[simp] theorem State.disarm_nextAddr (s : State) (reg kind target : Nat) : (s.disarm reg kind target).nextAddr = s.nextAddr := rfl
@[simp] theorem State.disarm_routes (s : State) (reg kind target : Nat) : (s.disarm reg kind target).routes = s.routes := rfl
@[simp] theorem State.disarm_upAt (s : State) (reg kind target : Nat) : (s.disarm reg kind target).upAt = s.upAt := rfl
@[simp] theorem State.disarm_joinAt (s : State) (reg kind target : Nat) : (s.disarm reg kind target).joinAt = s.joinAt := rfl
@[simp] theorem State.disarm_downAt (s : State) (reg kind target : Nat) : (s.disarm reg kind target).downAt = s.downAt := rfl
@[simp] theorem State.disarm_cwErr (s : State) (reg kind target : Nat) : (s.disarm reg kind target).cwErr = s.cwErr := rfl
@[simp] theorem State.disarm_laneBad (s : State) (reg kind target : Nat) : (s.disarm reg kind target).laneBad = s.laneBad := rfl
@[simp] theorem State.disarm_margins (s : State) (reg kind target : Nat) : (s.disarm reg kind target).margins = s.margins := rfl
@[simp] theorem State.disarm_held (s : State) (reg kind target : Nat) : (s.disarm reg kind target).held = s.held := rfl
@[simp] theorem State.disarm_sincePg (s : State) (reg kind target : Nat) : (s.disarm reg kind target).sincePg = s.sincePg := rfl
@[simp] theorem State.disarm_fuses (s : State) (reg kind target : Nat) : (s.disarm reg kind target).fuses = s.fuses := rfl
@[simp] theorem State.disarm_revokes (s : State) (reg kind target : Nat) : (s.disarm reg kind target).revokes = s.revokes := rfl
@[simp] theorem State.disarm_wdogOn (s : State) (reg kind target : Nat) : (s.disarm reg kind target).wdogOn = s.wdogOn := rfl
@[simp] theorem State.disarm_wdogAt (s : State) (reg kind target : Nat) : (s.disarm reg kind target).wdogAt = s.wdogAt := rfl
@[simp] theorem State.disarm_bootWin (s : State) (reg kind target : Nat) : (s.disarm reg kind target).bootWin = s.bootWin := rfl
@[simp] theorem State.disarm_owned (s : State) (reg kind target : Nat) : (s.disarm reg kind target).owned = s.owned := rfl
@[simp] theorem State.disarm_image (s : State) (reg kind target : Nat) : (s.disarm reg kind target).image = s.image := rfl
@[simp] theorem State.disarm_wiped (s : State) (reg kind target : Nat) : (s.disarm reg kind target).wiped = s.wiped := rfl
@[simp] theorem State.disarm_discovered (s : State) (reg kind target : Nat) : (s.disarm reg kind target).discovered = s.discovered := rfl
@[simp] theorem State.disarm_attest (s : State) (reg kind target : Nat) : (s.disarm reg kind target).attest = s.attest := rfl
@[simp] theorem State.disarm_aliasCert (s : State) (reg kind target : Nat) : (s.disarm reg kind target).aliasCert = s.aliasCert := rfl
@[simp] theorem State.disarm_keep (s : State) (reg kind target : Nat) : (s.disarm reg kind target).keep = s.keep := rfl
@[simp] theorem State.disarm_beatFaults (s : State) (reg kind target : Nat) : (s.disarm reg kind target).beatFaults = s.beatFaults := rfl
@[simp] theorem State.disarm_windows (s : State) (reg kind target : Nat) : (s.disarm reg kind target).windows = s.windows := rfl
@[simp] theorem State.disarm_tests (s : State) (reg kind target : Nat) : (s.disarm reg kind target).tests = s.tests := rfl
@[simp] theorem State.disarm_spareGone (s : State) (reg kind target : Nat) : (s.disarm reg kind target).spareGone = s.spareGone := rfl
@[simp] theorem State.disarm_remap (s : State) (reg kind target : Nat) : (s.disarm reg kind target).remap = s.remap := rfl
@[simp] theorem State.disarm_counted (s : State) (reg kind target : Nat) : (s.disarm reg kind target).counted = s.counted := rfl
@[simp] theorem State.disarm_transients (s : State) (reg kind target : Nat) : (s.disarm reg kind target).transients = s.transients := rfl
@[simp] theorem State.disarm_rigOut (s : State) (reg kind target : Nat) : (s.disarm reg kind target).rigOut = s.rigOut := rfl
@[simp] theorem State.disarm_mscOut (s : State) (reg kind target : Nat) : (s.disarm reg kind target).mscOut = s.mscOut := rfl
@[simp] theorem State.disarm_wayOff (s : State) (reg kind target : Nat) : (s.disarm reg kind target).wayOff = s.wayOff := rfl
@[simp] theorem State.disarm_bankOut (s : State) (reg kind target : Nat) : (s.disarm reg kind target).bankOut = s.bankOut := rfl
@[simp] theorem State.disarm_power (s : State) (reg kind target : Nat) : (s.disarm reg kind target).power = s.power := rfl
@[simp] theorem State.disarm_pwrEn (s : State) (reg kind target : Nat) : (s.disarm reg kind target).pwrEn = s.pwrEn := rfl
@[simp] theorem State.disarm_perst (s : State) (reg kind target : Nat) : (s.disarm reg kind target).perst = s.perst := rfl
@[simp] theorem State.disarm_mz50 (s : State) (reg kind target : Nat) : (s.disarm reg kind target).mz50 = s.mz50 := rfl
@[simp] theorem State.disarm_powerGood (s : State) (reg kind target : Nat) : (s.disarm reg kind target).powerGood = s.powerGood := rfl
@[simp] theorem State.disarm_tripN (s : State) (reg kind target : Nat) : (s.disarm reg kind target).tripN = s.tripN := rfl
@[simp] theorem State.disarm_capNext (s : State) (reg kind target : Nat) : (s.disarm reg kind target).capNext = s.capNext := rfl
@[simp] theorem State.disarm_sinceStep (s : State) (reg kind target : Nat) : (s.disarm reg kind target).sinceStep = s.sinceStep := rfl
@[simp] theorem State.disarm_capShare (s : State) (reg kind target : Nat) : (s.disarm reg kind target).capShare = s.capShare := rfl
@[simp] theorem State.disarm_sinceShare (s : State) (reg kind target : Nat) : (s.disarm reg kind target).sinceShare = s.sinceShare := rfl
@[simp] theorem State.disarm_mzFirst (s : State) (reg kind target : Nat) : (s.disarm reg kind target).mzFirst = s.mzFirst := rfl
@[simp] theorem State.disarm_mzInj (s : State) (reg kind target : Nat) : (s.disarm reg kind target).mzInj = s.mzInj := rfl
@[simp] theorem State.disarm_floorB (s : State) (reg kind target : Nat) : (s.disarm reg kind target).floorB = s.floorB := rfl
@[simp] theorem State.disarm_p10 (s : State) (reg kind target : Nat) : (s.disarm reg kind target).p10 = s.p10 := rfl
@[simp] theorem State.disarm_hot (s : State) (reg kind target : Nat) : (s.disarm reg kind target).hot = s.hot := rfl
@[simp] theorem State.disarm_alertAt (s : State) (reg kind target : Nat) : (s.disarm reg kind target).alertAt = s.alertAt := rfl
@[simp] theorem State.disarm_cooled (s : State) (reg kind target : Nat) : (s.disarm reg kind target).cooled = s.cooled := rfl
@[simp] theorem State.disarm_i3cAddr (s : State) (reg kind target : Nat) : (s.disarm reg kind target).i3cAddr = s.i3cAddr := rfl
@[simp] theorem State.disarm_i3cIrq (s : State) (reg kind target : Nat) : (s.disarm reg kind target).i3cIrq = s.i3cIrq := rfl
@[simp] theorem State.disarm_jtag (s : State) (reg kind target : Nat) : (s.disarm reg kind target).jtag = s.jtag := rfl
@[simp] theorem State.disarm_challenge (s : State) (reg kind target : Nat) : (s.disarm reg kind target).challenge = s.challenge := rfl
@[simp] theorem State.disarm_session (s : State) (reg kind target : Nat) : (s.disarm reg kind target).session = s.session := rfl
@[simp] theorem State.disarm_halted (s : State) (reg kind target : Nat) : (s.disarm reg kind target).halted = s.halted := rfl
@[simp] theorem State.disarm_uart (s : State) (reg kind target : Nat) : (s.disarm reg kind target).uart = s.uart := rfl
@[simp] theorem State.disarm_pinHigh (s : State) (reg kind target : Nat) : (s.disarm reg kind target).pinHigh = s.pinHigh := rfl
@[simp] theorem State.disarm_cagePins (s : State) (reg kind target : Nat) : (s.disarm reg kind target).cagePins = s.cagePins := rfl
@[simp] theorem State.disarm_reply (s : State) (reg kind target : Nat) : (s.disarm reg kind target).reply = s.reply := rfl
@[simp] theorem State.disarm_free (s : State) (reg kind target : Nat) : (s.disarm reg kind target).free = s.free := rfl
@[simp] theorem State.disarm_rd (s : State) (reg kind target : Nat) (x : Nat) : (s.disarm reg kind target).rd x = s.rd x := rfl
@[simp] theorem State.disarm_fld (s : State) (reg kind target : Nat) (x hi lo : Nat) : (s.disarm reg kind target).fld x hi lo = s.fld x hi lo := rfl
@[simp] theorem State.disarm_flag (s : State) (reg kind target : Nat) (x i : Nat) : (s.disarm reg kind target).flag x i = s.flag x i := rfl

/-! ### `State.poke` -/

@[simp] theorem State.poke_pending (s : State) (a : Nat) (bs : List Byte) : (s.poke a bs).pending = s.pending := rfl
@[simp] theorem State.poke_regs (s : State) (a : Nat) (bs : List Byte) : (s.poke a bs).regs = s.regs := rfl
@[simp] theorem State.poke_hostMem (s : State) (a : Nat) (bs : List Byte) : (s.poke a bs).hostMem = s.hostMem := rfl
@[simp] theorem State.poke_hostOut (s : State) (a : Nat) (bs : List Byte) : (s.poke a bs).hostOut = s.hostOut := rfl
@[simp] theorem State.poke_sentOut (s : State) (a : Nat) (bs : List Byte) : (s.poke a bs).sentOut = s.sentOut := rfl
@[simp] theorem State.poke_ackDue (s : State) (a : Nat) (bs : List Byte) : (s.poke a bs).ackDue = s.ackDue := rfl
@[simp] theorem State.poke_tags (s : State) (a : Nat) (bs : List Byte) : (s.poke a bs).tags = s.tags := rfl
@[simp] theorem State.poke_marks (s : State) (a : Nat) (bs : List Byte) : (s.poke a bs).marks = s.marks := rfl
@[simp] theorem State.poke_ops (s : State) (a : Nat) (bs : List Byte) : (s.poke a bs).ops = s.ops := rfl
@[simp] theorem State.poke_pieces (s : State) (a : Nat) (bs : List Byte) : (s.poke a bs).pieces = s.pieces := rfl
@[simp] theorem State.poke_waits (s : State) (a : Nat) (bs : List Byte) : (s.poke a bs).waits = s.waits := rfl
@[simp] theorem State.poke_ready (s : State) (a : Nat) (bs : List Byte) : (s.poke a bs).ready = s.ready := rfl
@[simp] theorem State.poke_recFail (s : State) (a : Nat) (bs : List Byte) : (s.poke a bs).recFail = s.recFail := rfl
@[simp] theorem State.poke_cancels (s : State) (a : Nat) (bs : List Byte) : (s.poke a bs).cancels = s.cancels := rfl
@[simp] theorem State.poke_flagWait (s : State) (a : Nat) (bs : List Byte) : (s.poke a bs).flagWait = s.flagWait := rfl
@[simp] theorem State.poke_totals (s : State) (a : Nat) (bs : List Byte) : (s.poke a bs).totals = s.totals := rfl
@[simp] theorem State.poke_lastBeat (s : State) (a : Nat) (bs : List Byte) : (s.poke a bs).lastBeat = s.lastBeat := rfl
@[simp] theorem State.poke_offsets (s : State) (a : Nat) (bs : List Byte) : (s.poke a bs).offsets = s.offsets := rfl
@[simp] theorem State.poke_rebaseDue (s : State) (a : Nat) (bs : List Byte) : (s.poke a bs).rebaseDue = s.rebaseDue := rfl
@[simp] theorem State.poke_rebaseNow (s : State) (a : Nat) (bs : List Byte) : (s.poke a bs).rebaseNow = s.rebaseNow := rfl
@[simp] theorem State.poke_pipes (s : State) (a : Nat) (bs : List Byte) : (s.poke a bs).pipes = s.pipes := rfl
@[simp] theorem State.poke_retired (s : State) (a : Nat) (bs : List Byte) : (s.poke a bs).retired = s.retired := rfl
@[simp] theorem State.poke_mailbox (s : State) (a : Nat) (bs : List Byte) : (s.poke a bs).mailbox = s.mailbox := rfl
@[simp] theorem State.poke_marginNext (s : State) (a : Nat) (bs : List Byte) : (s.poke a bs).marginNext = s.marginNext := rfl
@[simp] theorem State.poke_wctlNext (s : State) (a : Nat) (bs : List Byte) : (s.poke a bs).wctlNext = s.wctlNext := rfl
@[simp] theorem State.poke_tripClear (s : State) (a : Nat) (bs : List Byte) : (s.poke a bs).tripClear = s.tripClear := rfl
@[simp] theorem State.poke_detects (s : State) (a : Nat) (bs : List Byte) : (s.poke a bs).detects = s.detects := rfl
@[simp] theorem State.poke_tileQ (s : State) (a : Nat) (bs : List Byte) : (s.poke a bs).tileQ = s.tileQ := rfl
@[simp] theorem State.poke_stalled (s : State) (a : Nat) (bs : List Byte) : (s.poke a bs).stalled = s.stalled := rfl
@[simp] theorem State.poke_resident (s : State) (a : Nat) (bs : List Byte) : (s.poke a bs).resident = s.resident := rfl
@[simp] theorem State.poke_nodes (s : State) (a : Nat) (bs : List Byte) : (s.poke a bs).nodes = s.nodes := rfl
@[simp] theorem State.poke_accs (s : State) (a : Nat) (bs : List Byte) : (s.poke a bs).accs = s.accs := rfl
@[simp] theorem State.poke_spills (s : State) (a : Nat) (bs : List Byte) : (s.poke a bs).spills = s.spills := rfl
@[simp] theorem State.poke_roots (s : State) (a : Nat) (bs : List Byte) : (s.poke a bs).roots = s.roots := rfl
@[simp] theorem State.poke_armed (s : State) (a : Nat) (bs : List Byte) : (s.poke a bs).armed = s.armed := rfl
@[simp] theorem State.poke_seqs (s : State) (a : Nat) (bs : List Byte) : (s.poke a bs).seqs = s.seqs := rfl
@[simp] theorem State.poke_journal (s : State) (a : Nat) (bs : List Byte) : (s.poke a bs).journal = s.journal := rfl
@[simp] theorem State.poke_cool (s : State) (a : Nat) (bs : List Byte) : (s.poke a bs).cool = s.cool := rfl
@[simp] theorem State.poke_rowsOut (s : State) (a : Nat) (bs : List Byte) : (s.poke a bs).rowsOut = s.rowsOut := rfl
@[simp] theorem State.poke_dirLines (s : State) (a : Nat) (bs : List Byte) : (s.poke a bs).dirLines = s.dirLines := rfl
@[simp] theorem State.poke_lr (s : State) (a : Nat) (bs : List Byte) : (s.poke a bs).lr = s.lr := rfl
@[simp] theorem State.poke_coreHeld (s : State) (a : Nat) (bs : List Byte) : (s.poke a bs).coreHeld = s.coreHeld := rfl
@[simp] theorem State.poke_downOps (s : State) (a : Nat) (bs : List Byte) : (s.poke a bs).downOps = s.downOps := rfl
@[simp] theorem State.poke_reverted (s : State) (a : Nat) (bs : List Byte) : (s.poke a bs).reverted = s.reverted := rfl
@[simp] theorem State.poke_parked (s : State) (a : Nat) (bs : List Byte) : (s.poke a bs).parked = s.parked := rfl
@[simp] theorem State.poke_migs (s : State) (a : Nat) (bs : List Byte) : (s.poke a bs).migs = s.migs := rfl
@[simp] theorem State.poke_inv (s : State) (a : Nat) (bs : List Byte) : (s.poke a bs).inv = s.inv := rfl
@[simp] theorem State.poke_dirClear (s : State) (a : Nat) (bs : List Byte) : (s.poke a bs).dirClear = s.dirClear := rfl
@[simp] theorem State.poke_sample (s : State) (a : Nat) (bs : List Byte) : (s.poke a bs).sample = s.sample := rfl
@[simp] theorem State.poke_bias (s : State) (a : Nat) (bs : List Byte) : (s.poke a bs).bias = s.bias := rfl
@[simp] theorem State.poke_biaResv (s : State) (a : Nat) (bs : List Byte) : (s.poke a bs).biaResv = s.biaResv := rfl
@[simp] theorem State.poke_ptmSeq (s : State) (a : Nat) (bs : List Byte) : (s.poke a bs).ptmSeq = s.ptmSeq := rfl
@[simp] theorem State.poke_msixOn (s : State) (a : Nat) (bs : List Byte) : (s.poke a bs).msixOn = s.msixOn := rfl
@[simp] theorem State.poke_msixPend (s : State) (a : Nat) (bs : List Byte) : (s.poke a bs).msixPend = s.msixPend := rfl
@[simp] theorem State.poke_msix (s : State) (a : Nat) (bs : List Byte) : (s.poke a bs).msix = s.msix := rfl
@[simp] theorem State.poke_coreIrq (s : State) (a : Nat) (bs : List Byte) : (s.poke a bs).coreIrq = s.coreIrq := rfl
@[simp] theorem State.poke_ns (s : State) (a : Nat) (bs : List Byte) : (s.poke a bs).ns = s.ns := rfl
@[simp] theorem State.poke_frac (s : State) (a : Nat) (bs : List Byte) : (s.poke a bs).frac = s.frac := rfl
@[simp] theorem State.poke_fracLatch (s : State) (a : Nat) (bs : List Byte) : (s.poke a bs).fracLatch = s.fracLatch := rfl
@[simp] theorem State.poke_steer (s : State) (a : Nat) (bs : List Byte) : (s.poke a bs).steer = s.steer := rfl
@[simp] theorem State.poke_ppsHigh (s : State) (a : Nat) (bs : List Byte) : (s.poke a bs).ppsHigh = s.ppsHigh := rfl
@[simp] theorem State.poke_ppsFall (s : State) (a : Nat) (bs : List Byte) : (s.poke a bs).ppsFall = s.ppsFall := rfl
@[simp] theorem State.poke_ppsEdge (s : State) (a : Nat) (bs : List Byte) : (s.poke a bs).ppsEdge = s.ppsEdge := rfl
@[simp] theorem State.poke_todSeq (s : State) (a : Nat) (bs : List Byte) : (s.poke a bs).todSeq = s.todSeq := rfl
@[simp] theorem State.poke_todSent (s : State) (a : Nat) (bs : List Byte) : (s.poke a bs).todSent = s.todSent := rfl
@[simp] theorem State.poke_ppsHold (s : State) (a : Nat) (bs : List Byte) : (s.poke a bs).ppsHold = s.ppsHold := rfl
@[simp] theorem State.poke_outRun (s : State) (a : Nat) (bs : List Byte) : (s.poke a bs).outRun = s.outRun := rfl
@[simp] theorem State.poke_collNo (s : State) (a : Nat) (bs : List Byte) : (s.poke a bs).collNo = s.collNo := rfl
@[simp] theorem State.poke_notices (s : State) (a : Nat) (bs : List Byte) : (s.poke a bs).notices = s.notices := rfl
@[simp] theorem State.poke_abandoned (s : State) (a : Nat) (bs : List Byte) : (s.poke a bs).abandoned = s.abandoned := rfl
@[simp] theorem State.poke_inbox (s : State) (a : Nat) (bs : List Byte) : (s.poke a bs).inbox = s.inbox := rfl
@[simp] theorem State.poke_accepted (s : State) (a : Nat) (bs : List Byte) : (s.poke a bs).accepted = s.accepted := rfl
@[simp] theorem State.poke_retry (s : State) (a : Nat) (bs : List Byte) : (s.poke a bs).retry = s.retry := rfl
@[simp] theorem State.poke_portSeq (s : State) (a : Nat) (bs : List Byte) : (s.poke a bs).portSeq = s.portSeq := rfl
@[simp] theorem State.poke_outbox (s : State) (a : Nat) (bs : List Byte) : (s.poke a bs).outbox = s.outbox := rfl
@[simp] theorem State.poke_inLock (s : State) (a : Nat) (bs : List Byte) : (s.poke a bs).inLock = s.inLock := rfl
@[simp] theorem State.poke_alignDue (s : State) (a : Nat) (bs : List Byte) : (s.poke a bs).alignDue = s.alignDue := rfl
@[simp] theorem State.poke_alignOut (s : State) (a : Nat) (bs : List Byte) : (s.poke a bs).alignOut = s.alignOut := rfl
@[simp] theorem State.poke_alignSet (s : State) (a : Nat) (bs : List Byte) : (s.poke a bs).alignSet = s.alignSet := rfl
@[simp] theorem State.poke_best (s : State) (a : Nat) (bs : List Byte) : (s.poke a bs).best = s.best := rfl
@[simp] theorem State.poke_joins (s : State) (a : Nat) (bs : List Byte) : (s.poke a bs).joins = s.joins := rfl
@[simp] theorem State.poke_joinPort (s : State) (a : Nat) (bs : List Byte) : (s.poke a bs).joinPort = s.joinPort := rfl
@[simp] theorem State.poke_addrs (s : State) (a : Nat) (bs : List Byte) : (s.poke a bs).addrs = s.addrs := rfl
@[simp] theorem State.poke_nextAddr (s : State) (a : Nat) (bs : List Byte) : (s.poke a bs).nextAddr = s.nextAddr := rfl
@[simp] theorem State.poke_routes (s : State) (a : Nat) (bs : List Byte) : (s.poke a bs).routes = s.routes := rfl
@[simp] theorem State.poke_upAt (s : State) (a : Nat) (bs : List Byte) : (s.poke a bs).upAt = s.upAt := rfl
@[simp] theorem State.poke_joinAt (s : State) (a : Nat) (bs : List Byte) : (s.poke a bs).joinAt = s.joinAt := rfl
@[simp] theorem State.poke_downAt (s : State) (a : Nat) (bs : List Byte) : (s.poke a bs).downAt = s.downAt := rfl
@[simp] theorem State.poke_cwErr (s : State) (a : Nat) (bs : List Byte) : (s.poke a bs).cwErr = s.cwErr := rfl
@[simp] theorem State.poke_laneBad (s : State) (a : Nat) (bs : List Byte) : (s.poke a bs).laneBad = s.laneBad := rfl
@[simp] theorem State.poke_margins (s : State) (a : Nat) (bs : List Byte) : (s.poke a bs).margins = s.margins := rfl
@[simp] theorem State.poke_held (s : State) (a : Nat) (bs : List Byte) : (s.poke a bs).held = s.held := rfl
@[simp] theorem State.poke_sincePg (s : State) (a : Nat) (bs : List Byte) : (s.poke a bs).sincePg = s.sincePg := rfl
@[simp] theorem State.poke_fuses (s : State) (a : Nat) (bs : List Byte) : (s.poke a bs).fuses = s.fuses := rfl
@[simp] theorem State.poke_revokes (s : State) (a : Nat) (bs : List Byte) : (s.poke a bs).revokes = s.revokes := rfl
@[simp] theorem State.poke_wdogOn (s : State) (a : Nat) (bs : List Byte) : (s.poke a bs).wdogOn = s.wdogOn := rfl
@[simp] theorem State.poke_wdogAt (s : State) (a : Nat) (bs : List Byte) : (s.poke a bs).wdogAt = s.wdogAt := rfl
@[simp] theorem State.poke_bootWin (s : State) (a : Nat) (bs : List Byte) : (s.poke a bs).bootWin = s.bootWin := rfl
@[simp] theorem State.poke_owned (s : State) (a : Nat) (bs : List Byte) : (s.poke a bs).owned = s.owned := rfl
@[simp] theorem State.poke_image (s : State) (a : Nat) (bs : List Byte) : (s.poke a bs).image = s.image := rfl
@[simp] theorem State.poke_wiped (s : State) (a : Nat) (bs : List Byte) : (s.poke a bs).wiped = s.wiped := rfl
@[simp] theorem State.poke_discovered (s : State) (a : Nat) (bs : List Byte) : (s.poke a bs).discovered = s.discovered := rfl
@[simp] theorem State.poke_attest (s : State) (a : Nat) (bs : List Byte) : (s.poke a bs).attest = s.attest := rfl
@[simp] theorem State.poke_aliasCert (s : State) (a : Nat) (bs : List Byte) : (s.poke a bs).aliasCert = s.aliasCert := rfl
@[simp] theorem State.poke_keep (s : State) (a : Nat) (bs : List Byte) : (s.poke a bs).keep = s.keep := rfl
@[simp] theorem State.poke_beatFaults (s : State) (a : Nat) (bs : List Byte) : (s.poke a bs).beatFaults = s.beatFaults := rfl
@[simp] theorem State.poke_windows (s : State) (a : Nat) (bs : List Byte) : (s.poke a bs).windows = s.windows := rfl
@[simp] theorem State.poke_tests (s : State) (a : Nat) (bs : List Byte) : (s.poke a bs).tests = s.tests := rfl
@[simp] theorem State.poke_spareGone (s : State) (a : Nat) (bs : List Byte) : (s.poke a bs).spareGone = s.spareGone := rfl
@[simp] theorem State.poke_remap (s : State) (a : Nat) (bs : List Byte) : (s.poke a bs).remap = s.remap := rfl
@[simp] theorem State.poke_counted (s : State) (a : Nat) (bs : List Byte) : (s.poke a bs).counted = s.counted := rfl
@[simp] theorem State.poke_transients (s : State) (a : Nat) (bs : List Byte) : (s.poke a bs).transients = s.transients := rfl
@[simp] theorem State.poke_rigOut (s : State) (a : Nat) (bs : List Byte) : (s.poke a bs).rigOut = s.rigOut := rfl
@[simp] theorem State.poke_mscOut (s : State) (a : Nat) (bs : List Byte) : (s.poke a bs).mscOut = s.mscOut := rfl
@[simp] theorem State.poke_wayOff (s : State) (a : Nat) (bs : List Byte) : (s.poke a bs).wayOff = s.wayOff := rfl
@[simp] theorem State.poke_bankOut (s : State) (a : Nat) (bs : List Byte) : (s.poke a bs).bankOut = s.bankOut := rfl
@[simp] theorem State.poke_power (s : State) (a : Nat) (bs : List Byte) : (s.poke a bs).power = s.power := rfl
@[simp] theorem State.poke_pwrEn (s : State) (a : Nat) (bs : List Byte) : (s.poke a bs).pwrEn = s.pwrEn := rfl
@[simp] theorem State.poke_perst (s : State) (a : Nat) (bs : List Byte) : (s.poke a bs).perst = s.perst := rfl
@[simp] theorem State.poke_mz50 (s : State) (a : Nat) (bs : List Byte) : (s.poke a bs).mz50 = s.mz50 := rfl
@[simp] theorem State.poke_powerGood (s : State) (a : Nat) (bs : List Byte) : (s.poke a bs).powerGood = s.powerGood := rfl
@[simp] theorem State.poke_tripN (s : State) (a : Nat) (bs : List Byte) : (s.poke a bs).tripN = s.tripN := rfl
@[simp] theorem State.poke_capNext (s : State) (a : Nat) (bs : List Byte) : (s.poke a bs).capNext = s.capNext := rfl
@[simp] theorem State.poke_sinceStep (s : State) (a : Nat) (bs : List Byte) : (s.poke a bs).sinceStep = s.sinceStep := rfl
@[simp] theorem State.poke_capShare (s : State) (a : Nat) (bs : List Byte) : (s.poke a bs).capShare = s.capShare := rfl
@[simp] theorem State.poke_sinceShare (s : State) (a : Nat) (bs : List Byte) : (s.poke a bs).sinceShare = s.sinceShare := rfl
@[simp] theorem State.poke_mzFirst (s : State) (a : Nat) (bs : List Byte) : (s.poke a bs).mzFirst = s.mzFirst := rfl
@[simp] theorem State.poke_mzInj (s : State) (a : Nat) (bs : List Byte) : (s.poke a bs).mzInj = s.mzInj := rfl
@[simp] theorem State.poke_floorB (s : State) (a : Nat) (bs : List Byte) : (s.poke a bs).floorB = s.floorB := rfl
@[simp] theorem State.poke_p10 (s : State) (a : Nat) (bs : List Byte) : (s.poke a bs).p10 = s.p10 := rfl
@[simp] theorem State.poke_hot (s : State) (a : Nat) (bs : List Byte) : (s.poke a bs).hot = s.hot := rfl
@[simp] theorem State.poke_alertAt (s : State) (a : Nat) (bs : List Byte) : (s.poke a bs).alertAt = s.alertAt := rfl
@[simp] theorem State.poke_cooled (s : State) (a : Nat) (bs : List Byte) : (s.poke a bs).cooled = s.cooled := rfl
@[simp] theorem State.poke_i3cAddr (s : State) (a : Nat) (bs : List Byte) : (s.poke a bs).i3cAddr = s.i3cAddr := rfl
@[simp] theorem State.poke_i3cIrq (s : State) (a : Nat) (bs : List Byte) : (s.poke a bs).i3cIrq = s.i3cIrq := rfl
@[simp] theorem State.poke_jtag (s : State) (a : Nat) (bs : List Byte) : (s.poke a bs).jtag = s.jtag := rfl
@[simp] theorem State.poke_challenge (s : State) (a : Nat) (bs : List Byte) : (s.poke a bs).challenge = s.challenge := rfl
@[simp] theorem State.poke_session (s : State) (a : Nat) (bs : List Byte) : (s.poke a bs).session = s.session := rfl
@[simp] theorem State.poke_halted (s : State) (a : Nat) (bs : List Byte) : (s.poke a bs).halted = s.halted := rfl
@[simp] theorem State.poke_uart (s : State) (a : Nat) (bs : List Byte) : (s.poke a bs).uart = s.uart := rfl
@[simp] theorem State.poke_pinHigh (s : State) (a : Nat) (bs : List Byte) : (s.poke a bs).pinHigh = s.pinHigh := rfl
@[simp] theorem State.poke_cagePins (s : State) (a : Nat) (bs : List Byte) : (s.poke a bs).cagePins = s.cagePins := rfl
@[simp] theorem State.poke_reply (s : State) (a : Nat) (bs : List Byte) : (s.poke a bs).reply = s.reply := rfl
@[simp] theorem State.poke_free (s : State) (a : Nat) (bs : List Byte) : (s.poke a bs).free = s.free := rfl
@[simp] theorem State.poke_rd (s : State) (a : Nat) (bs : List Byte) (x : Nat) : (s.poke a bs).rd x = s.rd x := rfl
@[simp] theorem State.poke_fld (s : State) (a : Nat) (bs : List Byte) (x hi lo : Nat) : (s.poke a bs).fld x hi lo = s.fld x hi lo := rfl
@[simp] theorem State.poke_flag (s : State) (a : Nat) (bs : List Byte) (x i : Nat) : (s.poke a bs).flag x i = s.flag x i := rfl

/-! ### `State.setTag` -/

@[simp] theorem State.setTag_pending (s : State) (a : Nat) (t : Option Tag) : (s.setTag a t).pending = s.pending := rfl
@[simp] theorem State.setTag_regs (s : State) (a : Nat) (t : Option Tag) : (s.setTag a t).regs = s.regs := rfl
@[simp] theorem State.setTag_mem (s : State) (a : Nat) (t : Option Tag) : (s.setTag a t).mem = s.mem := rfl
@[simp] theorem State.setTag_hostMem (s : State) (a : Nat) (t : Option Tag) : (s.setTag a t).hostMem = s.hostMem := rfl
@[simp] theorem State.setTag_hostOut (s : State) (a : Nat) (t : Option Tag) : (s.setTag a t).hostOut = s.hostOut := rfl
@[simp] theorem State.setTag_sentOut (s : State) (a : Nat) (t : Option Tag) : (s.setTag a t).sentOut = s.sentOut := rfl
@[simp] theorem State.setTag_ackDue (s : State) (a : Nat) (t : Option Tag) : (s.setTag a t).ackDue = s.ackDue := rfl
@[simp] theorem State.setTag_marks (s : State) (a : Nat) (t : Option Tag) : (s.setTag a t).marks = s.marks := rfl
@[simp] theorem State.setTag_ops (s : State) (a : Nat) (t : Option Tag) : (s.setTag a t).ops = s.ops := rfl
@[simp] theorem State.setTag_pieces (s : State) (a : Nat) (t : Option Tag) : (s.setTag a t).pieces = s.pieces := rfl
@[simp] theorem State.setTag_waits (s : State) (a : Nat) (t : Option Tag) : (s.setTag a t).waits = s.waits := rfl
@[simp] theorem State.setTag_ready (s : State) (a : Nat) (t : Option Tag) : (s.setTag a t).ready = s.ready := rfl
@[simp] theorem State.setTag_recFail (s : State) (a : Nat) (t : Option Tag) : (s.setTag a t).recFail = s.recFail := rfl
@[simp] theorem State.setTag_cancels (s : State) (a : Nat) (t : Option Tag) : (s.setTag a t).cancels = s.cancels := rfl
@[simp] theorem State.setTag_flagWait (s : State) (a : Nat) (t : Option Tag) : (s.setTag a t).flagWait = s.flagWait := rfl
@[simp] theorem State.setTag_totals (s : State) (a : Nat) (t : Option Tag) : (s.setTag a t).totals = s.totals := rfl
@[simp] theorem State.setTag_lastBeat (s : State) (a : Nat) (t : Option Tag) : (s.setTag a t).lastBeat = s.lastBeat := rfl
@[simp] theorem State.setTag_offsets (s : State) (a : Nat) (t : Option Tag) : (s.setTag a t).offsets = s.offsets := rfl
@[simp] theorem State.setTag_rebaseDue (s : State) (a : Nat) (t : Option Tag) : (s.setTag a t).rebaseDue = s.rebaseDue := rfl
@[simp] theorem State.setTag_rebaseNow (s : State) (a : Nat) (t : Option Tag) : (s.setTag a t).rebaseNow = s.rebaseNow := rfl
@[simp] theorem State.setTag_pipes (s : State) (a : Nat) (t : Option Tag) : (s.setTag a t).pipes = s.pipes := rfl
@[simp] theorem State.setTag_retired (s : State) (a : Nat) (t : Option Tag) : (s.setTag a t).retired = s.retired := rfl
@[simp] theorem State.setTag_mailbox (s : State) (a : Nat) (t : Option Tag) : (s.setTag a t).mailbox = s.mailbox := rfl
@[simp] theorem State.setTag_marginNext (s : State) (a : Nat) (t : Option Tag) : (s.setTag a t).marginNext = s.marginNext := rfl
@[simp] theorem State.setTag_wctlNext (s : State) (a : Nat) (t : Option Tag) : (s.setTag a t).wctlNext = s.wctlNext := rfl
@[simp] theorem State.setTag_tripClear (s : State) (a : Nat) (t : Option Tag) : (s.setTag a t).tripClear = s.tripClear := rfl
@[simp] theorem State.setTag_detects (s : State) (a : Nat) (t : Option Tag) : (s.setTag a t).detects = s.detects := rfl
@[simp] theorem State.setTag_tileQ (s : State) (a : Nat) (t : Option Tag) : (s.setTag a t).tileQ = s.tileQ := rfl
@[simp] theorem State.setTag_stalled (s : State) (a : Nat) (t : Option Tag) : (s.setTag a t).stalled = s.stalled := rfl
@[simp] theorem State.setTag_resident (s : State) (a : Nat) (t : Option Tag) : (s.setTag a t).resident = s.resident := rfl
@[simp] theorem State.setTag_nodes (s : State) (a : Nat) (t : Option Tag) : (s.setTag a t).nodes = s.nodes := rfl
@[simp] theorem State.setTag_accs (s : State) (a : Nat) (t : Option Tag) : (s.setTag a t).accs = s.accs := rfl
@[simp] theorem State.setTag_spills (s : State) (a : Nat) (t : Option Tag) : (s.setTag a t).spills = s.spills := rfl
@[simp] theorem State.setTag_roots (s : State) (a : Nat) (t : Option Tag) : (s.setTag a t).roots = s.roots := rfl
@[simp] theorem State.setTag_armed (s : State) (a : Nat) (t : Option Tag) : (s.setTag a t).armed = s.armed := rfl
@[simp] theorem State.setTag_seqs (s : State) (a : Nat) (t : Option Tag) : (s.setTag a t).seqs = s.seqs := rfl
@[simp] theorem State.setTag_journal (s : State) (a : Nat) (t : Option Tag) : (s.setTag a t).journal = s.journal := rfl
@[simp] theorem State.setTag_cool (s : State) (a : Nat) (t : Option Tag) : (s.setTag a t).cool = s.cool := rfl
@[simp] theorem State.setTag_rowsOut (s : State) (a : Nat) (t : Option Tag) : (s.setTag a t).rowsOut = s.rowsOut := rfl
@[simp] theorem State.setTag_dirLines (s : State) (a : Nat) (t : Option Tag) : (s.setTag a t).dirLines = s.dirLines := rfl
@[simp] theorem State.setTag_lr (s : State) (a : Nat) (t : Option Tag) : (s.setTag a t).lr = s.lr := rfl
@[simp] theorem State.setTag_coreHeld (s : State) (a : Nat) (t : Option Tag) : (s.setTag a t).coreHeld = s.coreHeld := rfl
@[simp] theorem State.setTag_downOps (s : State) (a : Nat) (t : Option Tag) : (s.setTag a t).downOps = s.downOps := rfl
@[simp] theorem State.setTag_reverted (s : State) (a : Nat) (t : Option Tag) : (s.setTag a t).reverted = s.reverted := rfl
@[simp] theorem State.setTag_parked (s : State) (a : Nat) (t : Option Tag) : (s.setTag a t).parked = s.parked := rfl
@[simp] theorem State.setTag_migs (s : State) (a : Nat) (t : Option Tag) : (s.setTag a t).migs = s.migs := rfl
@[simp] theorem State.setTag_inv (s : State) (a : Nat) (t : Option Tag) : (s.setTag a t).inv = s.inv := rfl
@[simp] theorem State.setTag_dirClear (s : State) (a : Nat) (t : Option Tag) : (s.setTag a t).dirClear = s.dirClear := rfl
@[simp] theorem State.setTag_sample (s : State) (a : Nat) (t : Option Tag) : (s.setTag a t).sample = s.sample := rfl
@[simp] theorem State.setTag_bias (s : State) (a : Nat) (t : Option Tag) : (s.setTag a t).bias = s.bias := rfl
@[simp] theorem State.setTag_biaResv (s : State) (a : Nat) (t : Option Tag) : (s.setTag a t).biaResv = s.biaResv := rfl
@[simp] theorem State.setTag_ptmSeq (s : State) (a : Nat) (t : Option Tag) : (s.setTag a t).ptmSeq = s.ptmSeq := rfl
@[simp] theorem State.setTag_msixOn (s : State) (a : Nat) (t : Option Tag) : (s.setTag a t).msixOn = s.msixOn := rfl
@[simp] theorem State.setTag_msixPend (s : State) (a : Nat) (t : Option Tag) : (s.setTag a t).msixPend = s.msixPend := rfl
@[simp] theorem State.setTag_msix (s : State) (a : Nat) (t : Option Tag) : (s.setTag a t).msix = s.msix := rfl
@[simp] theorem State.setTag_coreIrq (s : State) (a : Nat) (t : Option Tag) : (s.setTag a t).coreIrq = s.coreIrq := rfl
@[simp] theorem State.setTag_ns (s : State) (a : Nat) (t : Option Tag) : (s.setTag a t).ns = s.ns := rfl
@[simp] theorem State.setTag_frac (s : State) (a : Nat) (t : Option Tag) : (s.setTag a t).frac = s.frac := rfl
@[simp] theorem State.setTag_fracLatch (s : State) (a : Nat) (t : Option Tag) : (s.setTag a t).fracLatch = s.fracLatch := rfl
@[simp] theorem State.setTag_steer (s : State) (a : Nat) (t : Option Tag) : (s.setTag a t).steer = s.steer := rfl
@[simp] theorem State.setTag_ppsHigh (s : State) (a : Nat) (t : Option Tag) : (s.setTag a t).ppsHigh = s.ppsHigh := rfl
@[simp] theorem State.setTag_ppsFall (s : State) (a : Nat) (t : Option Tag) : (s.setTag a t).ppsFall = s.ppsFall := rfl
@[simp] theorem State.setTag_ppsEdge (s : State) (a : Nat) (t : Option Tag) : (s.setTag a t).ppsEdge = s.ppsEdge := rfl
@[simp] theorem State.setTag_todSeq (s : State) (a : Nat) (t : Option Tag) : (s.setTag a t).todSeq = s.todSeq := rfl
@[simp] theorem State.setTag_todSent (s : State) (a : Nat) (t : Option Tag) : (s.setTag a t).todSent = s.todSent := rfl
@[simp] theorem State.setTag_ppsHold (s : State) (a : Nat) (t : Option Tag) : (s.setTag a t).ppsHold = s.ppsHold := rfl
@[simp] theorem State.setTag_outRun (s : State) (a : Nat) (t : Option Tag) : (s.setTag a t).outRun = s.outRun := rfl
@[simp] theorem State.setTag_collNo (s : State) (a : Nat) (t : Option Tag) : (s.setTag a t).collNo = s.collNo := rfl
@[simp] theorem State.setTag_notices (s : State) (a : Nat) (t : Option Tag) : (s.setTag a t).notices = s.notices := rfl
@[simp] theorem State.setTag_abandoned (s : State) (a : Nat) (t : Option Tag) : (s.setTag a t).abandoned = s.abandoned := rfl
@[simp] theorem State.setTag_inbox (s : State) (a : Nat) (t : Option Tag) : (s.setTag a t).inbox = s.inbox := rfl
@[simp] theorem State.setTag_accepted (s : State) (a : Nat) (t : Option Tag) : (s.setTag a t).accepted = s.accepted := rfl
@[simp] theorem State.setTag_retry (s : State) (a : Nat) (t : Option Tag) : (s.setTag a t).retry = s.retry := rfl
@[simp] theorem State.setTag_portSeq (s : State) (a : Nat) (t : Option Tag) : (s.setTag a t).portSeq = s.portSeq := rfl
@[simp] theorem State.setTag_outbox (s : State) (a : Nat) (t : Option Tag) : (s.setTag a t).outbox = s.outbox := rfl
@[simp] theorem State.setTag_inLock (s : State) (a : Nat) (t : Option Tag) : (s.setTag a t).inLock = s.inLock := rfl
@[simp] theorem State.setTag_alignDue (s : State) (a : Nat) (t : Option Tag) : (s.setTag a t).alignDue = s.alignDue := rfl
@[simp] theorem State.setTag_alignOut (s : State) (a : Nat) (t : Option Tag) : (s.setTag a t).alignOut = s.alignOut := rfl
@[simp] theorem State.setTag_alignSet (s : State) (a : Nat) (t : Option Tag) : (s.setTag a t).alignSet = s.alignSet := rfl
@[simp] theorem State.setTag_best (s : State) (a : Nat) (t : Option Tag) : (s.setTag a t).best = s.best := rfl
@[simp] theorem State.setTag_joins (s : State) (a : Nat) (t : Option Tag) : (s.setTag a t).joins = s.joins := rfl
@[simp] theorem State.setTag_joinPort (s : State) (a : Nat) (t : Option Tag) : (s.setTag a t).joinPort = s.joinPort := rfl
@[simp] theorem State.setTag_addrs (s : State) (a : Nat) (t : Option Tag) : (s.setTag a t).addrs = s.addrs := rfl
@[simp] theorem State.setTag_nextAddr (s : State) (a : Nat) (t : Option Tag) : (s.setTag a t).nextAddr = s.nextAddr := rfl
@[simp] theorem State.setTag_routes (s : State) (a : Nat) (t : Option Tag) : (s.setTag a t).routes = s.routes := rfl
@[simp] theorem State.setTag_upAt (s : State) (a : Nat) (t : Option Tag) : (s.setTag a t).upAt = s.upAt := rfl
@[simp] theorem State.setTag_joinAt (s : State) (a : Nat) (t : Option Tag) : (s.setTag a t).joinAt = s.joinAt := rfl
@[simp] theorem State.setTag_downAt (s : State) (a : Nat) (t : Option Tag) : (s.setTag a t).downAt = s.downAt := rfl
@[simp] theorem State.setTag_cwErr (s : State) (a : Nat) (t : Option Tag) : (s.setTag a t).cwErr = s.cwErr := rfl
@[simp] theorem State.setTag_laneBad (s : State) (a : Nat) (t : Option Tag) : (s.setTag a t).laneBad = s.laneBad := rfl
@[simp] theorem State.setTag_margins (s : State) (a : Nat) (t : Option Tag) : (s.setTag a t).margins = s.margins := rfl
@[simp] theorem State.setTag_held (s : State) (a : Nat) (t : Option Tag) : (s.setTag a t).held = s.held := rfl
@[simp] theorem State.setTag_sincePg (s : State) (a : Nat) (t : Option Tag) : (s.setTag a t).sincePg = s.sincePg := rfl
@[simp] theorem State.setTag_fuses (s : State) (a : Nat) (t : Option Tag) : (s.setTag a t).fuses = s.fuses := rfl
@[simp] theorem State.setTag_revokes (s : State) (a : Nat) (t : Option Tag) : (s.setTag a t).revokes = s.revokes := rfl
@[simp] theorem State.setTag_wdogOn (s : State) (a : Nat) (t : Option Tag) : (s.setTag a t).wdogOn = s.wdogOn := rfl
@[simp] theorem State.setTag_wdogAt (s : State) (a : Nat) (t : Option Tag) : (s.setTag a t).wdogAt = s.wdogAt := rfl
@[simp] theorem State.setTag_bootWin (s : State) (a : Nat) (t : Option Tag) : (s.setTag a t).bootWin = s.bootWin := rfl
@[simp] theorem State.setTag_owned (s : State) (a : Nat) (t : Option Tag) : (s.setTag a t).owned = s.owned := rfl
@[simp] theorem State.setTag_image (s : State) (a : Nat) (t : Option Tag) : (s.setTag a t).image = s.image := rfl
@[simp] theorem State.setTag_wiped (s : State) (a : Nat) (t : Option Tag) : (s.setTag a t).wiped = s.wiped := rfl
@[simp] theorem State.setTag_discovered (s : State) (a : Nat) (t : Option Tag) : (s.setTag a t).discovered = s.discovered := rfl
@[simp] theorem State.setTag_attest (s : State) (a : Nat) (t : Option Tag) : (s.setTag a t).attest = s.attest := rfl
@[simp] theorem State.setTag_aliasCert (s : State) (a : Nat) (t : Option Tag) : (s.setTag a t).aliasCert = s.aliasCert := rfl
@[simp] theorem State.setTag_keep (s : State) (a : Nat) (t : Option Tag) : (s.setTag a t).keep = s.keep := rfl
@[simp] theorem State.setTag_beatFaults (s : State) (a : Nat) (t : Option Tag) : (s.setTag a t).beatFaults = s.beatFaults := rfl
@[simp] theorem State.setTag_windows (s : State) (a : Nat) (t : Option Tag) : (s.setTag a t).windows = s.windows := rfl
@[simp] theorem State.setTag_tests (s : State) (a : Nat) (t : Option Tag) : (s.setTag a t).tests = s.tests := rfl
@[simp] theorem State.setTag_spareGone (s : State) (a : Nat) (t : Option Tag) : (s.setTag a t).spareGone = s.spareGone := rfl
@[simp] theorem State.setTag_remap (s : State) (a : Nat) (t : Option Tag) : (s.setTag a t).remap = s.remap := rfl
@[simp] theorem State.setTag_counted (s : State) (a : Nat) (t : Option Tag) : (s.setTag a t).counted = s.counted := rfl
@[simp] theorem State.setTag_transients (s : State) (a : Nat) (t : Option Tag) : (s.setTag a t).transients = s.transients := rfl
@[simp] theorem State.setTag_rigOut (s : State) (a : Nat) (t : Option Tag) : (s.setTag a t).rigOut = s.rigOut := rfl
@[simp] theorem State.setTag_mscOut (s : State) (a : Nat) (t : Option Tag) : (s.setTag a t).mscOut = s.mscOut := rfl
@[simp] theorem State.setTag_wayOff (s : State) (a : Nat) (t : Option Tag) : (s.setTag a t).wayOff = s.wayOff := rfl
@[simp] theorem State.setTag_bankOut (s : State) (a : Nat) (t : Option Tag) : (s.setTag a t).bankOut = s.bankOut := rfl
@[simp] theorem State.setTag_power (s : State) (a : Nat) (t : Option Tag) : (s.setTag a t).power = s.power := rfl
@[simp] theorem State.setTag_pwrEn (s : State) (a : Nat) (t : Option Tag) : (s.setTag a t).pwrEn = s.pwrEn := rfl
@[simp] theorem State.setTag_perst (s : State) (a : Nat) (t : Option Tag) : (s.setTag a t).perst = s.perst := rfl
@[simp] theorem State.setTag_mz50 (s : State) (a : Nat) (t : Option Tag) : (s.setTag a t).mz50 = s.mz50 := rfl
@[simp] theorem State.setTag_powerGood (s : State) (a : Nat) (t : Option Tag) : (s.setTag a t).powerGood = s.powerGood := rfl
@[simp] theorem State.setTag_tripN (s : State) (a : Nat) (t : Option Tag) : (s.setTag a t).tripN = s.tripN := rfl
@[simp] theorem State.setTag_capNext (s : State) (a : Nat) (t : Option Tag) : (s.setTag a t).capNext = s.capNext := rfl
@[simp] theorem State.setTag_sinceStep (s : State) (a : Nat) (t : Option Tag) : (s.setTag a t).sinceStep = s.sinceStep := rfl
@[simp] theorem State.setTag_capShare (s : State) (a : Nat) (t : Option Tag) : (s.setTag a t).capShare = s.capShare := rfl
@[simp] theorem State.setTag_sinceShare (s : State) (a : Nat) (t : Option Tag) : (s.setTag a t).sinceShare = s.sinceShare := rfl
@[simp] theorem State.setTag_mzFirst (s : State) (a : Nat) (t : Option Tag) : (s.setTag a t).mzFirst = s.mzFirst := rfl
@[simp] theorem State.setTag_mzInj (s : State) (a : Nat) (t : Option Tag) : (s.setTag a t).mzInj = s.mzInj := rfl
@[simp] theorem State.setTag_floorB (s : State) (a : Nat) (t : Option Tag) : (s.setTag a t).floorB = s.floorB := rfl
@[simp] theorem State.setTag_p10 (s : State) (a : Nat) (t : Option Tag) : (s.setTag a t).p10 = s.p10 := rfl
@[simp] theorem State.setTag_hot (s : State) (a : Nat) (t : Option Tag) : (s.setTag a t).hot = s.hot := rfl
@[simp] theorem State.setTag_alertAt (s : State) (a : Nat) (t : Option Tag) : (s.setTag a t).alertAt = s.alertAt := rfl
@[simp] theorem State.setTag_cooled (s : State) (a : Nat) (t : Option Tag) : (s.setTag a t).cooled = s.cooled := rfl
@[simp] theorem State.setTag_i3cAddr (s : State) (a : Nat) (t : Option Tag) : (s.setTag a t).i3cAddr = s.i3cAddr := rfl
@[simp] theorem State.setTag_i3cIrq (s : State) (a : Nat) (t : Option Tag) : (s.setTag a t).i3cIrq = s.i3cIrq := rfl
@[simp] theorem State.setTag_jtag (s : State) (a : Nat) (t : Option Tag) : (s.setTag a t).jtag = s.jtag := rfl
@[simp] theorem State.setTag_challenge (s : State) (a : Nat) (t : Option Tag) : (s.setTag a t).challenge = s.challenge := rfl
@[simp] theorem State.setTag_session (s : State) (a : Nat) (t : Option Tag) : (s.setTag a t).session = s.session := rfl
@[simp] theorem State.setTag_halted (s : State) (a : Nat) (t : Option Tag) : (s.setTag a t).halted = s.halted := rfl
@[simp] theorem State.setTag_uart (s : State) (a : Nat) (t : Option Tag) : (s.setTag a t).uart = s.uart := rfl
@[simp] theorem State.setTag_pinHigh (s : State) (a : Nat) (t : Option Tag) : (s.setTag a t).pinHigh = s.pinHigh := rfl
@[simp] theorem State.setTag_cagePins (s : State) (a : Nat) (t : Option Tag) : (s.setTag a t).cagePins = s.cagePins := rfl
@[simp] theorem State.setTag_reply (s : State) (a : Nat) (t : Option Tag) : (s.setTag a t).reply = s.reply := rfl
@[simp] theorem State.setTag_free (s : State) (a : Nat) (t : Option Tag) : (s.setTag a t).free = s.free := rfl
@[simp] theorem State.setTag_rd (s : State) (a : Nat) (t : Option Tag) (x : Nat) : (s.setTag a t).rd x = s.rd x := rfl
@[simp] theorem State.setTag_fld (s : State) (a : Nat) (t : Option Tag) (x hi lo : Nat) : (s.setTag a t).fld x hi lo = s.fld x hi lo := rfl
@[simp] theorem State.setTag_flag (s : State) (a : Nat) (t : Option Tag) (x i : Nat) : (s.setTag a t).flag x i = s.flag x i := rfl

/-! ### `State.setMark` -/

@[simp] theorem State.setMark_pending (s : State) (a : Nat) (m : Mark) : (s.setMark a m).pending = s.pending := rfl
@[simp] theorem State.setMark_regs (s : State) (a : Nat) (m : Mark) : (s.setMark a m).regs = s.regs := rfl
@[simp] theorem State.setMark_mem (s : State) (a : Nat) (m : Mark) : (s.setMark a m).mem = s.mem := rfl
@[simp] theorem State.setMark_hostMem (s : State) (a : Nat) (m : Mark) : (s.setMark a m).hostMem = s.hostMem := rfl
@[simp] theorem State.setMark_hostOut (s : State) (a : Nat) (m : Mark) : (s.setMark a m).hostOut = s.hostOut := rfl
@[simp] theorem State.setMark_sentOut (s : State) (a : Nat) (m : Mark) : (s.setMark a m).sentOut = s.sentOut := rfl
@[simp] theorem State.setMark_ackDue (s : State) (a : Nat) (m : Mark) : (s.setMark a m).ackDue = s.ackDue := rfl
@[simp] theorem State.setMark_tags (s : State) (a : Nat) (m : Mark) : (s.setMark a m).tags = s.tags := rfl
@[simp] theorem State.setMark_ops (s : State) (a : Nat) (m : Mark) : (s.setMark a m).ops = s.ops := rfl
@[simp] theorem State.setMark_pieces (s : State) (a : Nat) (m : Mark) : (s.setMark a m).pieces = s.pieces := rfl
@[simp] theorem State.setMark_waits (s : State) (a : Nat) (m : Mark) : (s.setMark a m).waits = s.waits := rfl
@[simp] theorem State.setMark_ready (s : State) (a : Nat) (m : Mark) : (s.setMark a m).ready = s.ready := rfl
@[simp] theorem State.setMark_recFail (s : State) (a : Nat) (m : Mark) : (s.setMark a m).recFail = s.recFail := rfl
@[simp] theorem State.setMark_cancels (s : State) (a : Nat) (m : Mark) : (s.setMark a m).cancels = s.cancels := rfl
@[simp] theorem State.setMark_flagWait (s : State) (a : Nat) (m : Mark) : (s.setMark a m).flagWait = s.flagWait := rfl
@[simp] theorem State.setMark_totals (s : State) (a : Nat) (m : Mark) : (s.setMark a m).totals = s.totals := rfl
@[simp] theorem State.setMark_lastBeat (s : State) (a : Nat) (m : Mark) : (s.setMark a m).lastBeat = s.lastBeat := rfl
@[simp] theorem State.setMark_offsets (s : State) (a : Nat) (m : Mark) : (s.setMark a m).offsets = s.offsets := rfl
@[simp] theorem State.setMark_rebaseDue (s : State) (a : Nat) (m : Mark) : (s.setMark a m).rebaseDue = s.rebaseDue := rfl
@[simp] theorem State.setMark_rebaseNow (s : State) (a : Nat) (m : Mark) : (s.setMark a m).rebaseNow = s.rebaseNow := rfl
@[simp] theorem State.setMark_pipes (s : State) (a : Nat) (m : Mark) : (s.setMark a m).pipes = s.pipes := rfl
@[simp] theorem State.setMark_retired (s : State) (a : Nat) (m : Mark) : (s.setMark a m).retired = s.retired := rfl
@[simp] theorem State.setMark_mailbox (s : State) (a : Nat) (m : Mark) : (s.setMark a m).mailbox = s.mailbox := rfl
@[simp] theorem State.setMark_marginNext (s : State) (a : Nat) (m : Mark) : (s.setMark a m).marginNext = s.marginNext := rfl
@[simp] theorem State.setMark_wctlNext (s : State) (a : Nat) (m : Mark) : (s.setMark a m).wctlNext = s.wctlNext := rfl
@[simp] theorem State.setMark_tripClear (s : State) (a : Nat) (m : Mark) : (s.setMark a m).tripClear = s.tripClear := rfl
@[simp] theorem State.setMark_detects (s : State) (a : Nat) (m : Mark) : (s.setMark a m).detects = s.detects := rfl
@[simp] theorem State.setMark_tileQ (s : State) (a : Nat) (m : Mark) : (s.setMark a m).tileQ = s.tileQ := rfl
@[simp] theorem State.setMark_stalled (s : State) (a : Nat) (m : Mark) : (s.setMark a m).stalled = s.stalled := rfl
@[simp] theorem State.setMark_resident (s : State) (a : Nat) (m : Mark) : (s.setMark a m).resident = s.resident := rfl
@[simp] theorem State.setMark_nodes (s : State) (a : Nat) (m : Mark) : (s.setMark a m).nodes = s.nodes := rfl
@[simp] theorem State.setMark_accs (s : State) (a : Nat) (m : Mark) : (s.setMark a m).accs = s.accs := rfl
@[simp] theorem State.setMark_spills (s : State) (a : Nat) (m : Mark) : (s.setMark a m).spills = s.spills := rfl
@[simp] theorem State.setMark_roots (s : State) (a : Nat) (m : Mark) : (s.setMark a m).roots = s.roots := rfl
@[simp] theorem State.setMark_armed (s : State) (a : Nat) (m : Mark) : (s.setMark a m).armed = s.armed := rfl
@[simp] theorem State.setMark_seqs (s : State) (a : Nat) (m : Mark) : (s.setMark a m).seqs = s.seqs := rfl
@[simp] theorem State.setMark_journal (s : State) (a : Nat) (m : Mark) : (s.setMark a m).journal = s.journal := rfl
@[simp] theorem State.setMark_cool (s : State) (a : Nat) (m : Mark) : (s.setMark a m).cool = s.cool := rfl
@[simp] theorem State.setMark_rowsOut (s : State) (a : Nat) (m : Mark) : (s.setMark a m).rowsOut = s.rowsOut := rfl
@[simp] theorem State.setMark_dirLines (s : State) (a : Nat) (m : Mark) : (s.setMark a m).dirLines = s.dirLines := rfl
@[simp] theorem State.setMark_lr (s : State) (a : Nat) (m : Mark) : (s.setMark a m).lr = s.lr := rfl
@[simp] theorem State.setMark_coreHeld (s : State) (a : Nat) (m : Mark) : (s.setMark a m).coreHeld = s.coreHeld := rfl
@[simp] theorem State.setMark_downOps (s : State) (a : Nat) (m : Mark) : (s.setMark a m).downOps = s.downOps := rfl
@[simp] theorem State.setMark_reverted (s : State) (a : Nat) (m : Mark) : (s.setMark a m).reverted = s.reverted := rfl
@[simp] theorem State.setMark_parked (s : State) (a : Nat) (m : Mark) : (s.setMark a m).parked = s.parked := rfl
@[simp] theorem State.setMark_migs (s : State) (a : Nat) (m : Mark) : (s.setMark a m).migs = s.migs := rfl
@[simp] theorem State.setMark_inv (s : State) (a : Nat) (m : Mark) : (s.setMark a m).inv = s.inv := rfl
@[simp] theorem State.setMark_dirClear (s : State) (a : Nat) (m : Mark) : (s.setMark a m).dirClear = s.dirClear := rfl
@[simp] theorem State.setMark_sample (s : State) (a : Nat) (m : Mark) : (s.setMark a m).sample = s.sample := rfl
@[simp] theorem State.setMark_bias (s : State) (a : Nat) (m : Mark) : (s.setMark a m).bias = s.bias := rfl
@[simp] theorem State.setMark_biaResv (s : State) (a : Nat) (m : Mark) : (s.setMark a m).biaResv = s.biaResv := rfl
@[simp] theorem State.setMark_ptmSeq (s : State) (a : Nat) (m : Mark) : (s.setMark a m).ptmSeq = s.ptmSeq := rfl
@[simp] theorem State.setMark_msixOn (s : State) (a : Nat) (m : Mark) : (s.setMark a m).msixOn = s.msixOn := rfl
@[simp] theorem State.setMark_msixPend (s : State) (a : Nat) (m : Mark) : (s.setMark a m).msixPend = s.msixPend := rfl
@[simp] theorem State.setMark_msix (s : State) (a : Nat) (m : Mark) : (s.setMark a m).msix = s.msix := rfl
@[simp] theorem State.setMark_coreIrq (s : State) (a : Nat) (m : Mark) : (s.setMark a m).coreIrq = s.coreIrq := rfl
@[simp] theorem State.setMark_ns (s : State) (a : Nat) (m : Mark) : (s.setMark a m).ns = s.ns := rfl
@[simp] theorem State.setMark_frac (s : State) (a : Nat) (m : Mark) : (s.setMark a m).frac = s.frac := rfl
@[simp] theorem State.setMark_fracLatch (s : State) (a : Nat) (m : Mark) : (s.setMark a m).fracLatch = s.fracLatch := rfl
@[simp] theorem State.setMark_steer (s : State) (a : Nat) (m : Mark) : (s.setMark a m).steer = s.steer := rfl
@[simp] theorem State.setMark_ppsHigh (s : State) (a : Nat) (m : Mark) : (s.setMark a m).ppsHigh = s.ppsHigh := rfl
@[simp] theorem State.setMark_ppsFall (s : State) (a : Nat) (m : Mark) : (s.setMark a m).ppsFall = s.ppsFall := rfl
@[simp] theorem State.setMark_ppsEdge (s : State) (a : Nat) (m : Mark) : (s.setMark a m).ppsEdge = s.ppsEdge := rfl
@[simp] theorem State.setMark_todSeq (s : State) (a : Nat) (m : Mark) : (s.setMark a m).todSeq = s.todSeq := rfl
@[simp] theorem State.setMark_todSent (s : State) (a : Nat) (m : Mark) : (s.setMark a m).todSent = s.todSent := rfl
@[simp] theorem State.setMark_ppsHold (s : State) (a : Nat) (m : Mark) : (s.setMark a m).ppsHold = s.ppsHold := rfl
@[simp] theorem State.setMark_outRun (s : State) (a : Nat) (m : Mark) : (s.setMark a m).outRun = s.outRun := rfl
@[simp] theorem State.setMark_collNo (s : State) (a : Nat) (m : Mark) : (s.setMark a m).collNo = s.collNo := rfl
@[simp] theorem State.setMark_notices (s : State) (a : Nat) (m : Mark) : (s.setMark a m).notices = s.notices := rfl
@[simp] theorem State.setMark_abandoned (s : State) (a : Nat) (m : Mark) : (s.setMark a m).abandoned = s.abandoned := rfl
@[simp] theorem State.setMark_inbox (s : State) (a : Nat) (m : Mark) : (s.setMark a m).inbox = s.inbox := rfl
@[simp] theorem State.setMark_accepted (s : State) (a : Nat) (m : Mark) : (s.setMark a m).accepted = s.accepted := rfl
@[simp] theorem State.setMark_retry (s : State) (a : Nat) (m : Mark) : (s.setMark a m).retry = s.retry := rfl
@[simp] theorem State.setMark_portSeq (s : State) (a : Nat) (m : Mark) : (s.setMark a m).portSeq = s.portSeq := rfl
@[simp] theorem State.setMark_outbox (s : State) (a : Nat) (m : Mark) : (s.setMark a m).outbox = s.outbox := rfl
@[simp] theorem State.setMark_inLock (s : State) (a : Nat) (m : Mark) : (s.setMark a m).inLock = s.inLock := rfl
@[simp] theorem State.setMark_alignDue (s : State) (a : Nat) (m : Mark) : (s.setMark a m).alignDue = s.alignDue := rfl
@[simp] theorem State.setMark_alignOut (s : State) (a : Nat) (m : Mark) : (s.setMark a m).alignOut = s.alignOut := rfl
@[simp] theorem State.setMark_alignSet (s : State) (a : Nat) (m : Mark) : (s.setMark a m).alignSet = s.alignSet := rfl
@[simp] theorem State.setMark_best (s : State) (a : Nat) (m : Mark) : (s.setMark a m).best = s.best := rfl
@[simp] theorem State.setMark_joins (s : State) (a : Nat) (m : Mark) : (s.setMark a m).joins = s.joins := rfl
@[simp] theorem State.setMark_joinPort (s : State) (a : Nat) (m : Mark) : (s.setMark a m).joinPort = s.joinPort := rfl
@[simp] theorem State.setMark_addrs (s : State) (a : Nat) (m : Mark) : (s.setMark a m).addrs = s.addrs := rfl
@[simp] theorem State.setMark_nextAddr (s : State) (a : Nat) (m : Mark) : (s.setMark a m).nextAddr = s.nextAddr := rfl
@[simp] theorem State.setMark_routes (s : State) (a : Nat) (m : Mark) : (s.setMark a m).routes = s.routes := rfl
@[simp] theorem State.setMark_upAt (s : State) (a : Nat) (m : Mark) : (s.setMark a m).upAt = s.upAt := rfl
@[simp] theorem State.setMark_joinAt (s : State) (a : Nat) (m : Mark) : (s.setMark a m).joinAt = s.joinAt := rfl
@[simp] theorem State.setMark_downAt (s : State) (a : Nat) (m : Mark) : (s.setMark a m).downAt = s.downAt := rfl
@[simp] theorem State.setMark_cwErr (s : State) (a : Nat) (m : Mark) : (s.setMark a m).cwErr = s.cwErr := rfl
@[simp] theorem State.setMark_laneBad (s : State) (a : Nat) (m : Mark) : (s.setMark a m).laneBad = s.laneBad := rfl
@[simp] theorem State.setMark_margins (s : State) (a : Nat) (m : Mark) : (s.setMark a m).margins = s.margins := rfl
@[simp] theorem State.setMark_held (s : State) (a : Nat) (m : Mark) : (s.setMark a m).held = s.held := rfl
@[simp] theorem State.setMark_sincePg (s : State) (a : Nat) (m : Mark) : (s.setMark a m).sincePg = s.sincePg := rfl
@[simp] theorem State.setMark_fuses (s : State) (a : Nat) (m : Mark) : (s.setMark a m).fuses = s.fuses := rfl
@[simp] theorem State.setMark_revokes (s : State) (a : Nat) (m : Mark) : (s.setMark a m).revokes = s.revokes := rfl
@[simp] theorem State.setMark_wdogOn (s : State) (a : Nat) (m : Mark) : (s.setMark a m).wdogOn = s.wdogOn := rfl
@[simp] theorem State.setMark_wdogAt (s : State) (a : Nat) (m : Mark) : (s.setMark a m).wdogAt = s.wdogAt := rfl
@[simp] theorem State.setMark_bootWin (s : State) (a : Nat) (m : Mark) : (s.setMark a m).bootWin = s.bootWin := rfl
@[simp] theorem State.setMark_owned (s : State) (a : Nat) (m : Mark) : (s.setMark a m).owned = s.owned := rfl
@[simp] theorem State.setMark_image (s : State) (a : Nat) (m : Mark) : (s.setMark a m).image = s.image := rfl
@[simp] theorem State.setMark_wiped (s : State) (a : Nat) (m : Mark) : (s.setMark a m).wiped = s.wiped := rfl
@[simp] theorem State.setMark_discovered (s : State) (a : Nat) (m : Mark) : (s.setMark a m).discovered = s.discovered := rfl
@[simp] theorem State.setMark_attest (s : State) (a : Nat) (m : Mark) : (s.setMark a m).attest = s.attest := rfl
@[simp] theorem State.setMark_aliasCert (s : State) (a : Nat) (m : Mark) : (s.setMark a m).aliasCert = s.aliasCert := rfl
@[simp] theorem State.setMark_keep (s : State) (a : Nat) (m : Mark) : (s.setMark a m).keep = s.keep := rfl
@[simp] theorem State.setMark_beatFaults (s : State) (a : Nat) (m : Mark) : (s.setMark a m).beatFaults = s.beatFaults := rfl
@[simp] theorem State.setMark_windows (s : State) (a : Nat) (m : Mark) : (s.setMark a m).windows = s.windows := rfl
@[simp] theorem State.setMark_tests (s : State) (a : Nat) (m : Mark) : (s.setMark a m).tests = s.tests := rfl
@[simp] theorem State.setMark_spareGone (s : State) (a : Nat) (m : Mark) : (s.setMark a m).spareGone = s.spareGone := rfl
@[simp] theorem State.setMark_remap (s : State) (a : Nat) (m : Mark) : (s.setMark a m).remap = s.remap := rfl
@[simp] theorem State.setMark_counted (s : State) (a : Nat) (m : Mark) : (s.setMark a m).counted = s.counted := rfl
@[simp] theorem State.setMark_transients (s : State) (a : Nat) (m : Mark) : (s.setMark a m).transients = s.transients := rfl
@[simp] theorem State.setMark_rigOut (s : State) (a : Nat) (m : Mark) : (s.setMark a m).rigOut = s.rigOut := rfl
@[simp] theorem State.setMark_mscOut (s : State) (a : Nat) (m : Mark) : (s.setMark a m).mscOut = s.mscOut := rfl
@[simp] theorem State.setMark_wayOff (s : State) (a : Nat) (m : Mark) : (s.setMark a m).wayOff = s.wayOff := rfl
@[simp] theorem State.setMark_bankOut (s : State) (a : Nat) (m : Mark) : (s.setMark a m).bankOut = s.bankOut := rfl
@[simp] theorem State.setMark_power (s : State) (a : Nat) (m : Mark) : (s.setMark a m).power = s.power := rfl
@[simp] theorem State.setMark_pwrEn (s : State) (a : Nat) (m : Mark) : (s.setMark a m).pwrEn = s.pwrEn := rfl
@[simp] theorem State.setMark_perst (s : State) (a : Nat) (m : Mark) : (s.setMark a m).perst = s.perst := rfl
@[simp] theorem State.setMark_mz50 (s : State) (a : Nat) (m : Mark) : (s.setMark a m).mz50 = s.mz50 := rfl
@[simp] theorem State.setMark_powerGood (s : State) (a : Nat) (m : Mark) : (s.setMark a m).powerGood = s.powerGood := rfl
@[simp] theorem State.setMark_tripN (s : State) (a : Nat) (m : Mark) : (s.setMark a m).tripN = s.tripN := rfl
@[simp] theorem State.setMark_capNext (s : State) (a : Nat) (m : Mark) : (s.setMark a m).capNext = s.capNext := rfl
@[simp] theorem State.setMark_sinceStep (s : State) (a : Nat) (m : Mark) : (s.setMark a m).sinceStep = s.sinceStep := rfl
@[simp] theorem State.setMark_capShare (s : State) (a : Nat) (m : Mark) : (s.setMark a m).capShare = s.capShare := rfl
@[simp] theorem State.setMark_sinceShare (s : State) (a : Nat) (m : Mark) : (s.setMark a m).sinceShare = s.sinceShare := rfl
@[simp] theorem State.setMark_mzFirst (s : State) (a : Nat) (m : Mark) : (s.setMark a m).mzFirst = s.mzFirst := rfl
@[simp] theorem State.setMark_mzInj (s : State) (a : Nat) (m : Mark) : (s.setMark a m).mzInj = s.mzInj := rfl
@[simp] theorem State.setMark_floorB (s : State) (a : Nat) (m : Mark) : (s.setMark a m).floorB = s.floorB := rfl
@[simp] theorem State.setMark_p10 (s : State) (a : Nat) (m : Mark) : (s.setMark a m).p10 = s.p10 := rfl
@[simp] theorem State.setMark_hot (s : State) (a : Nat) (m : Mark) : (s.setMark a m).hot = s.hot := rfl
@[simp] theorem State.setMark_alertAt (s : State) (a : Nat) (m : Mark) : (s.setMark a m).alertAt = s.alertAt := rfl
@[simp] theorem State.setMark_cooled (s : State) (a : Nat) (m : Mark) : (s.setMark a m).cooled = s.cooled := rfl
@[simp] theorem State.setMark_i3cAddr (s : State) (a : Nat) (m : Mark) : (s.setMark a m).i3cAddr = s.i3cAddr := rfl
@[simp] theorem State.setMark_i3cIrq (s : State) (a : Nat) (m : Mark) : (s.setMark a m).i3cIrq = s.i3cIrq := rfl
@[simp] theorem State.setMark_jtag (s : State) (a : Nat) (m : Mark) : (s.setMark a m).jtag = s.jtag := rfl
@[simp] theorem State.setMark_challenge (s : State) (a : Nat) (m : Mark) : (s.setMark a m).challenge = s.challenge := rfl
@[simp] theorem State.setMark_session (s : State) (a : Nat) (m : Mark) : (s.setMark a m).session = s.session := rfl
@[simp] theorem State.setMark_halted (s : State) (a : Nat) (m : Mark) : (s.setMark a m).halted = s.halted := rfl
@[simp] theorem State.setMark_uart (s : State) (a : Nat) (m : Mark) : (s.setMark a m).uart = s.uart := rfl
@[simp] theorem State.setMark_pinHigh (s : State) (a : Nat) (m : Mark) : (s.setMark a m).pinHigh = s.pinHigh := rfl
@[simp] theorem State.setMark_cagePins (s : State) (a : Nat) (m : Mark) : (s.setMark a m).cagePins = s.cagePins := rfl
@[simp] theorem State.setMark_reply (s : State) (a : Nat) (m : Mark) : (s.setMark a m).reply = s.reply := rfl
@[simp] theorem State.setMark_free (s : State) (a : Nat) (m : Mark) : (s.setMark a m).free = s.free := rfl
@[simp] theorem State.setMark_rd (s : State) (a : Nat) (m : Mark) (x : Nat) : (s.setMark a m).rd x = s.rd x := rfl
@[simp] theorem State.setMark_fld (s : State) (a : Nat) (m : Mark) (x hi lo : Nat) : (s.setMark a m).fld x hi lo = s.fld x hi lo := rfl
@[simp] theorem State.setMark_flag (s : State) (a : Nat) (m : Mark) (x i : Nat) : (s.setMark a m).flag x i = s.flag x i := rfl

/-! ### `State.mapOp` -/

@[simp] theorem State.mapOp_pending (s : State) (q sn : Nat) (f : OpRec → OpRec) : (s.mapOp q sn f).pending = s.pending := rfl
@[simp] theorem State.mapOp_regs (s : State) (q sn : Nat) (f : OpRec → OpRec) : (s.mapOp q sn f).regs = s.regs := rfl
@[simp] theorem State.mapOp_mem (s : State) (q sn : Nat) (f : OpRec → OpRec) : (s.mapOp q sn f).mem = s.mem := rfl
@[simp] theorem State.mapOp_hostMem (s : State) (q sn : Nat) (f : OpRec → OpRec) : (s.mapOp q sn f).hostMem = s.hostMem := rfl
@[simp] theorem State.mapOp_hostOut (s : State) (q sn : Nat) (f : OpRec → OpRec) : (s.mapOp q sn f).hostOut = s.hostOut := rfl
@[simp] theorem State.mapOp_sentOut (s : State) (q sn : Nat) (f : OpRec → OpRec) : (s.mapOp q sn f).sentOut = s.sentOut := rfl
@[simp] theorem State.mapOp_ackDue (s : State) (q sn : Nat) (f : OpRec → OpRec) : (s.mapOp q sn f).ackDue = s.ackDue := rfl
@[simp] theorem State.mapOp_tags (s : State) (q sn : Nat) (f : OpRec → OpRec) : (s.mapOp q sn f).tags = s.tags := rfl
@[simp] theorem State.mapOp_marks (s : State) (q sn : Nat) (f : OpRec → OpRec) : (s.mapOp q sn f).marks = s.marks := rfl
@[simp] theorem State.mapOp_pieces (s : State) (q sn : Nat) (f : OpRec → OpRec) : (s.mapOp q sn f).pieces = s.pieces := rfl
@[simp] theorem State.mapOp_waits (s : State) (q sn : Nat) (f : OpRec → OpRec) : (s.mapOp q sn f).waits = s.waits := rfl
@[simp] theorem State.mapOp_ready (s : State) (q sn : Nat) (f : OpRec → OpRec) : (s.mapOp q sn f).ready = s.ready := rfl
@[simp] theorem State.mapOp_recFail (s : State) (q sn : Nat) (f : OpRec → OpRec) : (s.mapOp q sn f).recFail = s.recFail := rfl
@[simp] theorem State.mapOp_cancels (s : State) (q sn : Nat) (f : OpRec → OpRec) : (s.mapOp q sn f).cancels = s.cancels := rfl
@[simp] theorem State.mapOp_flagWait (s : State) (q sn : Nat) (f : OpRec → OpRec) : (s.mapOp q sn f).flagWait = s.flagWait := rfl
@[simp] theorem State.mapOp_totals (s : State) (q sn : Nat) (f : OpRec → OpRec) : (s.mapOp q sn f).totals = s.totals := rfl
@[simp] theorem State.mapOp_lastBeat (s : State) (q sn : Nat) (f : OpRec → OpRec) : (s.mapOp q sn f).lastBeat = s.lastBeat := rfl
@[simp] theorem State.mapOp_offsets (s : State) (q sn : Nat) (f : OpRec → OpRec) : (s.mapOp q sn f).offsets = s.offsets := rfl
@[simp] theorem State.mapOp_rebaseDue (s : State) (q sn : Nat) (f : OpRec → OpRec) : (s.mapOp q sn f).rebaseDue = s.rebaseDue := rfl
@[simp] theorem State.mapOp_rebaseNow (s : State) (q sn : Nat) (f : OpRec → OpRec) : (s.mapOp q sn f).rebaseNow = s.rebaseNow := rfl
@[simp] theorem State.mapOp_pipes (s : State) (q sn : Nat) (f : OpRec → OpRec) : (s.mapOp q sn f).pipes = s.pipes := rfl
@[simp] theorem State.mapOp_retired (s : State) (q sn : Nat) (f : OpRec → OpRec) : (s.mapOp q sn f).retired = s.retired := rfl
@[simp] theorem State.mapOp_mailbox (s : State) (q sn : Nat) (f : OpRec → OpRec) : (s.mapOp q sn f).mailbox = s.mailbox := rfl
@[simp] theorem State.mapOp_marginNext (s : State) (q sn : Nat) (f : OpRec → OpRec) : (s.mapOp q sn f).marginNext = s.marginNext := rfl
@[simp] theorem State.mapOp_wctlNext (s : State) (q sn : Nat) (f : OpRec → OpRec) : (s.mapOp q sn f).wctlNext = s.wctlNext := rfl
@[simp] theorem State.mapOp_tripClear (s : State) (q sn : Nat) (f : OpRec → OpRec) : (s.mapOp q sn f).tripClear = s.tripClear := rfl
@[simp] theorem State.mapOp_detects (s : State) (q sn : Nat) (f : OpRec → OpRec) : (s.mapOp q sn f).detects = s.detects := rfl
@[simp] theorem State.mapOp_tileQ (s : State) (q sn : Nat) (f : OpRec → OpRec) : (s.mapOp q sn f).tileQ = s.tileQ := rfl
@[simp] theorem State.mapOp_stalled (s : State) (q sn : Nat) (f : OpRec → OpRec) : (s.mapOp q sn f).stalled = s.stalled := rfl
@[simp] theorem State.mapOp_resident (s : State) (q sn : Nat) (f : OpRec → OpRec) : (s.mapOp q sn f).resident = s.resident := rfl
@[simp] theorem State.mapOp_nodes (s : State) (q sn : Nat) (f : OpRec → OpRec) : (s.mapOp q sn f).nodes = s.nodes := rfl
@[simp] theorem State.mapOp_accs (s : State) (q sn : Nat) (f : OpRec → OpRec) : (s.mapOp q sn f).accs = s.accs := rfl
@[simp] theorem State.mapOp_spills (s : State) (q sn : Nat) (f : OpRec → OpRec) : (s.mapOp q sn f).spills = s.spills := rfl
@[simp] theorem State.mapOp_roots (s : State) (q sn : Nat) (f : OpRec → OpRec) : (s.mapOp q sn f).roots = s.roots := rfl
@[simp] theorem State.mapOp_armed (s : State) (q sn : Nat) (f : OpRec → OpRec) : (s.mapOp q sn f).armed = s.armed := rfl
@[simp] theorem State.mapOp_seqs (s : State) (q sn : Nat) (f : OpRec → OpRec) : (s.mapOp q sn f).seqs = s.seqs := rfl
@[simp] theorem State.mapOp_cool (s : State) (q sn : Nat) (f : OpRec → OpRec) : (s.mapOp q sn f).cool = s.cool := rfl
@[simp] theorem State.mapOp_rowsOut (s : State) (q sn : Nat) (f : OpRec → OpRec) : (s.mapOp q sn f).rowsOut = s.rowsOut := rfl
@[simp] theorem State.mapOp_dirLines (s : State) (q sn : Nat) (f : OpRec → OpRec) : (s.mapOp q sn f).dirLines = s.dirLines := rfl
@[simp] theorem State.mapOp_lr (s : State) (q sn : Nat) (f : OpRec → OpRec) : (s.mapOp q sn f).lr = s.lr := rfl
@[simp] theorem State.mapOp_coreHeld (s : State) (q sn : Nat) (f : OpRec → OpRec) : (s.mapOp q sn f).coreHeld = s.coreHeld := rfl
@[simp] theorem State.mapOp_downOps (s : State) (q sn : Nat) (f : OpRec → OpRec) : (s.mapOp q sn f).downOps = s.downOps := rfl
@[simp] theorem State.mapOp_reverted (s : State) (q sn : Nat) (f : OpRec → OpRec) : (s.mapOp q sn f).reverted = s.reverted := rfl
@[simp] theorem State.mapOp_parked (s : State) (q sn : Nat) (f : OpRec → OpRec) : (s.mapOp q sn f).parked = s.parked := rfl
@[simp] theorem State.mapOp_migs (s : State) (q sn : Nat) (f : OpRec → OpRec) : (s.mapOp q sn f).migs = s.migs := rfl
@[simp] theorem State.mapOp_inv (s : State) (q sn : Nat) (f : OpRec → OpRec) : (s.mapOp q sn f).inv = s.inv := rfl
@[simp] theorem State.mapOp_dirClear (s : State) (q sn : Nat) (f : OpRec → OpRec) : (s.mapOp q sn f).dirClear = s.dirClear := rfl
@[simp] theorem State.mapOp_sample (s : State) (q sn : Nat) (f : OpRec → OpRec) : (s.mapOp q sn f).sample = s.sample := rfl
@[simp] theorem State.mapOp_bias (s : State) (q sn : Nat) (f : OpRec → OpRec) : (s.mapOp q sn f).bias = s.bias := rfl
@[simp] theorem State.mapOp_biaResv (s : State) (q sn : Nat) (f : OpRec → OpRec) : (s.mapOp q sn f).biaResv = s.biaResv := rfl
@[simp] theorem State.mapOp_ptmSeq (s : State) (q sn : Nat) (f : OpRec → OpRec) : (s.mapOp q sn f).ptmSeq = s.ptmSeq := rfl
@[simp] theorem State.mapOp_msixOn (s : State) (q sn : Nat) (f : OpRec → OpRec) : (s.mapOp q sn f).msixOn = s.msixOn := rfl
@[simp] theorem State.mapOp_msixPend (s : State) (q sn : Nat) (f : OpRec → OpRec) : (s.mapOp q sn f).msixPend = s.msixPend := rfl
@[simp] theorem State.mapOp_msix (s : State) (q sn : Nat) (f : OpRec → OpRec) : (s.mapOp q sn f).msix = s.msix := rfl
@[simp] theorem State.mapOp_coreIrq (s : State) (q sn : Nat) (f : OpRec → OpRec) : (s.mapOp q sn f).coreIrq = s.coreIrq := rfl
@[simp] theorem State.mapOp_ns (s : State) (q sn : Nat) (f : OpRec → OpRec) : (s.mapOp q sn f).ns = s.ns := rfl
@[simp] theorem State.mapOp_frac (s : State) (q sn : Nat) (f : OpRec → OpRec) : (s.mapOp q sn f).frac = s.frac := rfl
@[simp] theorem State.mapOp_fracLatch (s : State) (q sn : Nat) (f : OpRec → OpRec) : (s.mapOp q sn f).fracLatch = s.fracLatch := rfl
@[simp] theorem State.mapOp_steer (s : State) (q sn : Nat) (f : OpRec → OpRec) : (s.mapOp q sn f).steer = s.steer := rfl
@[simp] theorem State.mapOp_ppsHigh (s : State) (q sn : Nat) (f : OpRec → OpRec) : (s.mapOp q sn f).ppsHigh = s.ppsHigh := rfl
@[simp] theorem State.mapOp_ppsFall (s : State) (q sn : Nat) (f : OpRec → OpRec) : (s.mapOp q sn f).ppsFall = s.ppsFall := rfl
@[simp] theorem State.mapOp_ppsEdge (s : State) (q sn : Nat) (f : OpRec → OpRec) : (s.mapOp q sn f).ppsEdge = s.ppsEdge := rfl
@[simp] theorem State.mapOp_todSeq (s : State) (q sn : Nat) (f : OpRec → OpRec) : (s.mapOp q sn f).todSeq = s.todSeq := rfl
@[simp] theorem State.mapOp_todSent (s : State) (q sn : Nat) (f : OpRec → OpRec) : (s.mapOp q sn f).todSent = s.todSent := rfl
@[simp] theorem State.mapOp_ppsHold (s : State) (q sn : Nat) (f : OpRec → OpRec) : (s.mapOp q sn f).ppsHold = s.ppsHold := rfl
@[simp] theorem State.mapOp_outRun (s : State) (q sn : Nat) (f : OpRec → OpRec) : (s.mapOp q sn f).outRun = s.outRun := rfl
@[simp] theorem State.mapOp_collNo (s : State) (q sn : Nat) (f : OpRec → OpRec) : (s.mapOp q sn f).collNo = s.collNo := rfl
@[simp] theorem State.mapOp_notices (s : State) (q sn : Nat) (f : OpRec → OpRec) : (s.mapOp q sn f).notices = s.notices := rfl
@[simp] theorem State.mapOp_abandoned (s : State) (q sn : Nat) (f : OpRec → OpRec) : (s.mapOp q sn f).abandoned = s.abandoned := rfl
@[simp] theorem State.mapOp_inbox (s : State) (q sn : Nat) (f : OpRec → OpRec) : (s.mapOp q sn f).inbox = s.inbox := rfl
@[simp] theorem State.mapOp_accepted (s : State) (q sn : Nat) (f : OpRec → OpRec) : (s.mapOp q sn f).accepted = s.accepted := rfl
@[simp] theorem State.mapOp_retry (s : State) (q sn : Nat) (f : OpRec → OpRec) : (s.mapOp q sn f).retry = s.retry := rfl
@[simp] theorem State.mapOp_portSeq (s : State) (q sn : Nat) (f : OpRec → OpRec) : (s.mapOp q sn f).portSeq = s.portSeq := rfl
@[simp] theorem State.mapOp_outbox (s : State) (q sn : Nat) (f : OpRec → OpRec) : (s.mapOp q sn f).outbox = s.outbox := rfl
@[simp] theorem State.mapOp_inLock (s : State) (q sn : Nat) (f : OpRec → OpRec) : (s.mapOp q sn f).inLock = s.inLock := rfl
@[simp] theorem State.mapOp_alignDue (s : State) (q sn : Nat) (f : OpRec → OpRec) : (s.mapOp q sn f).alignDue = s.alignDue := rfl
@[simp] theorem State.mapOp_alignOut (s : State) (q sn : Nat) (f : OpRec → OpRec) : (s.mapOp q sn f).alignOut = s.alignOut := rfl
@[simp] theorem State.mapOp_alignSet (s : State) (q sn : Nat) (f : OpRec → OpRec) : (s.mapOp q sn f).alignSet = s.alignSet := rfl
@[simp] theorem State.mapOp_best (s : State) (q sn : Nat) (f : OpRec → OpRec) : (s.mapOp q sn f).best = s.best := rfl
@[simp] theorem State.mapOp_joins (s : State) (q sn : Nat) (f : OpRec → OpRec) : (s.mapOp q sn f).joins = s.joins := rfl
@[simp] theorem State.mapOp_joinPort (s : State) (q sn : Nat) (f : OpRec → OpRec) : (s.mapOp q sn f).joinPort = s.joinPort := rfl
@[simp] theorem State.mapOp_addrs (s : State) (q sn : Nat) (f : OpRec → OpRec) : (s.mapOp q sn f).addrs = s.addrs := rfl
@[simp] theorem State.mapOp_nextAddr (s : State) (q sn : Nat) (f : OpRec → OpRec) : (s.mapOp q sn f).nextAddr = s.nextAddr := rfl
@[simp] theorem State.mapOp_routes (s : State) (q sn : Nat) (f : OpRec → OpRec) : (s.mapOp q sn f).routes = s.routes := rfl
@[simp] theorem State.mapOp_upAt (s : State) (q sn : Nat) (f : OpRec → OpRec) : (s.mapOp q sn f).upAt = s.upAt := rfl
@[simp] theorem State.mapOp_joinAt (s : State) (q sn : Nat) (f : OpRec → OpRec) : (s.mapOp q sn f).joinAt = s.joinAt := rfl
@[simp] theorem State.mapOp_downAt (s : State) (q sn : Nat) (f : OpRec → OpRec) : (s.mapOp q sn f).downAt = s.downAt := rfl
@[simp] theorem State.mapOp_cwErr (s : State) (q sn : Nat) (f : OpRec → OpRec) : (s.mapOp q sn f).cwErr = s.cwErr := rfl
@[simp] theorem State.mapOp_laneBad (s : State) (q sn : Nat) (f : OpRec → OpRec) : (s.mapOp q sn f).laneBad = s.laneBad := rfl
@[simp] theorem State.mapOp_margins (s : State) (q sn : Nat) (f : OpRec → OpRec) : (s.mapOp q sn f).margins = s.margins := rfl
@[simp] theorem State.mapOp_held (s : State) (q sn : Nat) (f : OpRec → OpRec) : (s.mapOp q sn f).held = s.held := rfl
@[simp] theorem State.mapOp_sincePg (s : State) (q sn : Nat) (f : OpRec → OpRec) : (s.mapOp q sn f).sincePg = s.sincePg := rfl
@[simp] theorem State.mapOp_fuses (s : State) (q sn : Nat) (f : OpRec → OpRec) : (s.mapOp q sn f).fuses = s.fuses := rfl
@[simp] theorem State.mapOp_revokes (s : State) (q sn : Nat) (f : OpRec → OpRec) : (s.mapOp q sn f).revokes = s.revokes := rfl
@[simp] theorem State.mapOp_wdogOn (s : State) (q sn : Nat) (f : OpRec → OpRec) : (s.mapOp q sn f).wdogOn = s.wdogOn := rfl
@[simp] theorem State.mapOp_wdogAt (s : State) (q sn : Nat) (f : OpRec → OpRec) : (s.mapOp q sn f).wdogAt = s.wdogAt := rfl
@[simp] theorem State.mapOp_bootWin (s : State) (q sn : Nat) (f : OpRec → OpRec) : (s.mapOp q sn f).bootWin = s.bootWin := rfl
@[simp] theorem State.mapOp_owned (s : State) (q sn : Nat) (f : OpRec → OpRec) : (s.mapOp q sn f).owned = s.owned := rfl
@[simp] theorem State.mapOp_image (s : State) (q sn : Nat) (f : OpRec → OpRec) : (s.mapOp q sn f).image = s.image := rfl
@[simp] theorem State.mapOp_wiped (s : State) (q sn : Nat) (f : OpRec → OpRec) : (s.mapOp q sn f).wiped = s.wiped := rfl
@[simp] theorem State.mapOp_discovered (s : State) (q sn : Nat) (f : OpRec → OpRec) : (s.mapOp q sn f).discovered = s.discovered := rfl
@[simp] theorem State.mapOp_attest (s : State) (q sn : Nat) (f : OpRec → OpRec) : (s.mapOp q sn f).attest = s.attest := rfl
@[simp] theorem State.mapOp_aliasCert (s : State) (q sn : Nat) (f : OpRec → OpRec) : (s.mapOp q sn f).aliasCert = s.aliasCert := rfl
@[simp] theorem State.mapOp_keep (s : State) (q sn : Nat) (f : OpRec → OpRec) : (s.mapOp q sn f).keep = s.keep := rfl
@[simp] theorem State.mapOp_beatFaults (s : State) (q sn : Nat) (f : OpRec → OpRec) : (s.mapOp q sn f).beatFaults = s.beatFaults := rfl
@[simp] theorem State.mapOp_windows (s : State) (q sn : Nat) (f : OpRec → OpRec) : (s.mapOp q sn f).windows = s.windows := rfl
@[simp] theorem State.mapOp_tests (s : State) (q sn : Nat) (f : OpRec → OpRec) : (s.mapOp q sn f).tests = s.tests := rfl
@[simp] theorem State.mapOp_spareGone (s : State) (q sn : Nat) (f : OpRec → OpRec) : (s.mapOp q sn f).spareGone = s.spareGone := rfl
@[simp] theorem State.mapOp_remap (s : State) (q sn : Nat) (f : OpRec → OpRec) : (s.mapOp q sn f).remap = s.remap := rfl
@[simp] theorem State.mapOp_counted (s : State) (q sn : Nat) (f : OpRec → OpRec) : (s.mapOp q sn f).counted = s.counted := rfl
@[simp] theorem State.mapOp_transients (s : State) (q sn : Nat) (f : OpRec → OpRec) : (s.mapOp q sn f).transients = s.transients := rfl
@[simp] theorem State.mapOp_rigOut (s : State) (q sn : Nat) (f : OpRec → OpRec) : (s.mapOp q sn f).rigOut = s.rigOut := rfl
@[simp] theorem State.mapOp_mscOut (s : State) (q sn : Nat) (f : OpRec → OpRec) : (s.mapOp q sn f).mscOut = s.mscOut := rfl
@[simp] theorem State.mapOp_wayOff (s : State) (q sn : Nat) (f : OpRec → OpRec) : (s.mapOp q sn f).wayOff = s.wayOff := rfl
@[simp] theorem State.mapOp_bankOut (s : State) (q sn : Nat) (f : OpRec → OpRec) : (s.mapOp q sn f).bankOut = s.bankOut := rfl
@[simp] theorem State.mapOp_power (s : State) (q sn : Nat) (f : OpRec → OpRec) : (s.mapOp q sn f).power = s.power := rfl
@[simp] theorem State.mapOp_pwrEn (s : State) (q sn : Nat) (f : OpRec → OpRec) : (s.mapOp q sn f).pwrEn = s.pwrEn := rfl
@[simp] theorem State.mapOp_perst (s : State) (q sn : Nat) (f : OpRec → OpRec) : (s.mapOp q sn f).perst = s.perst := rfl
@[simp] theorem State.mapOp_mz50 (s : State) (q sn : Nat) (f : OpRec → OpRec) : (s.mapOp q sn f).mz50 = s.mz50 := rfl
@[simp] theorem State.mapOp_powerGood (s : State) (q sn : Nat) (f : OpRec → OpRec) : (s.mapOp q sn f).powerGood = s.powerGood := rfl
@[simp] theorem State.mapOp_tripN (s : State) (q sn : Nat) (f : OpRec → OpRec) : (s.mapOp q sn f).tripN = s.tripN := rfl
@[simp] theorem State.mapOp_capNext (s : State) (q sn : Nat) (f : OpRec → OpRec) : (s.mapOp q sn f).capNext = s.capNext := rfl
@[simp] theorem State.mapOp_sinceStep (s : State) (q sn : Nat) (f : OpRec → OpRec) : (s.mapOp q sn f).sinceStep = s.sinceStep := rfl
@[simp] theorem State.mapOp_capShare (s : State) (q sn : Nat) (f : OpRec → OpRec) : (s.mapOp q sn f).capShare = s.capShare := rfl
@[simp] theorem State.mapOp_sinceShare (s : State) (q sn : Nat) (f : OpRec → OpRec) : (s.mapOp q sn f).sinceShare = s.sinceShare := rfl
@[simp] theorem State.mapOp_mzFirst (s : State) (q sn : Nat) (f : OpRec → OpRec) : (s.mapOp q sn f).mzFirst = s.mzFirst := rfl
@[simp] theorem State.mapOp_mzInj (s : State) (q sn : Nat) (f : OpRec → OpRec) : (s.mapOp q sn f).mzInj = s.mzInj := rfl
@[simp] theorem State.mapOp_floorB (s : State) (q sn : Nat) (f : OpRec → OpRec) : (s.mapOp q sn f).floorB = s.floorB := rfl
@[simp] theorem State.mapOp_p10 (s : State) (q sn : Nat) (f : OpRec → OpRec) : (s.mapOp q sn f).p10 = s.p10 := rfl
@[simp] theorem State.mapOp_hot (s : State) (q sn : Nat) (f : OpRec → OpRec) : (s.mapOp q sn f).hot = s.hot := rfl
@[simp] theorem State.mapOp_alertAt (s : State) (q sn : Nat) (f : OpRec → OpRec) : (s.mapOp q sn f).alertAt = s.alertAt := rfl
@[simp] theorem State.mapOp_cooled (s : State) (q sn : Nat) (f : OpRec → OpRec) : (s.mapOp q sn f).cooled = s.cooled := rfl
@[simp] theorem State.mapOp_i3cAddr (s : State) (q sn : Nat) (f : OpRec → OpRec) : (s.mapOp q sn f).i3cAddr = s.i3cAddr := rfl
@[simp] theorem State.mapOp_i3cIrq (s : State) (q sn : Nat) (f : OpRec → OpRec) : (s.mapOp q sn f).i3cIrq = s.i3cIrq := rfl
@[simp] theorem State.mapOp_jtag (s : State) (q sn : Nat) (f : OpRec → OpRec) : (s.mapOp q sn f).jtag = s.jtag := rfl
@[simp] theorem State.mapOp_challenge (s : State) (q sn : Nat) (f : OpRec → OpRec) : (s.mapOp q sn f).challenge = s.challenge := rfl
@[simp] theorem State.mapOp_session (s : State) (q sn : Nat) (f : OpRec → OpRec) : (s.mapOp q sn f).session = s.session := rfl
@[simp] theorem State.mapOp_halted (s : State) (q sn : Nat) (f : OpRec → OpRec) : (s.mapOp q sn f).halted = s.halted := rfl
@[simp] theorem State.mapOp_uart (s : State) (q sn : Nat) (f : OpRec → OpRec) : (s.mapOp q sn f).uart = s.uart := rfl
@[simp] theorem State.mapOp_pinHigh (s : State) (q sn : Nat) (f : OpRec → OpRec) : (s.mapOp q sn f).pinHigh = s.pinHigh := rfl
@[simp] theorem State.mapOp_cagePins (s : State) (q sn : Nat) (f : OpRec → OpRec) : (s.mapOp q sn f).cagePins = s.cagePins := rfl
@[simp] theorem State.mapOp_reply (s : State) (q sn : Nat) (f : OpRec → OpRec) : (s.mapOp q sn f).reply = s.reply := rfl
@[simp] theorem State.mapOp_free (s : State) (q sn : Nat) (f : OpRec → OpRec) : (s.mapOp q sn f).free = s.free := rfl
@[simp] theorem State.mapOp_rd (s : State) (q sn : Nat) (f : OpRec → OpRec) (x : Nat) : (s.mapOp q sn f).rd x = s.rd x := rfl
@[simp] theorem State.mapOp_fld (s : State) (q sn : Nat) (f : OpRec → OpRec) (x hi lo : Nat) : (s.mapOp q sn f).fld x hi lo = s.fld x hi lo := rfl
@[simp] theorem State.mapOp_flag (s : State) (q sn : Nat) (f : OpRec → OpRec) (x i : Nat) : (s.mapOp q sn f).flag x i = s.flag x i := rfl

/-! ### `State.mapPiece` -/

@[simp] theorem State.mapPiece_pending (s : State) (q sn idx : Nat) (f : PieceRec → PieceRec) : (s.mapPiece q sn idx f).pending = s.pending := rfl
@[simp] theorem State.mapPiece_regs (s : State) (q sn idx : Nat) (f : PieceRec → PieceRec) : (s.mapPiece q sn idx f).regs = s.regs := rfl
@[simp] theorem State.mapPiece_mem (s : State) (q sn idx : Nat) (f : PieceRec → PieceRec) : (s.mapPiece q sn idx f).mem = s.mem := rfl
@[simp] theorem State.mapPiece_hostMem (s : State) (q sn idx : Nat) (f : PieceRec → PieceRec) : (s.mapPiece q sn idx f).hostMem = s.hostMem := rfl
@[simp] theorem State.mapPiece_hostOut (s : State) (q sn idx : Nat) (f : PieceRec → PieceRec) : (s.mapPiece q sn idx f).hostOut = s.hostOut := rfl
@[simp] theorem State.mapPiece_sentOut (s : State) (q sn idx : Nat) (f : PieceRec → PieceRec) : (s.mapPiece q sn idx f).sentOut = s.sentOut := rfl
@[simp] theorem State.mapPiece_ackDue (s : State) (q sn idx : Nat) (f : PieceRec → PieceRec) : (s.mapPiece q sn idx f).ackDue = s.ackDue := rfl
@[simp] theorem State.mapPiece_tags (s : State) (q sn idx : Nat) (f : PieceRec → PieceRec) : (s.mapPiece q sn idx f).tags = s.tags := rfl
@[simp] theorem State.mapPiece_marks (s : State) (q sn idx : Nat) (f : PieceRec → PieceRec) : (s.mapPiece q sn idx f).marks = s.marks := rfl
@[simp] theorem State.mapPiece_ops (s : State) (q sn idx : Nat) (f : PieceRec → PieceRec) : (s.mapPiece q sn idx f).ops = s.ops := rfl
@[simp] theorem State.mapPiece_waits (s : State) (q sn idx : Nat) (f : PieceRec → PieceRec) : (s.mapPiece q sn idx f).waits = s.waits := rfl
@[simp] theorem State.mapPiece_ready (s : State) (q sn idx : Nat) (f : PieceRec → PieceRec) : (s.mapPiece q sn idx f).ready = s.ready := rfl
@[simp] theorem State.mapPiece_recFail (s : State) (q sn idx : Nat) (f : PieceRec → PieceRec) : (s.mapPiece q sn idx f).recFail = s.recFail := rfl
@[simp] theorem State.mapPiece_cancels (s : State) (q sn idx : Nat) (f : PieceRec → PieceRec) : (s.mapPiece q sn idx f).cancels = s.cancels := rfl
@[simp] theorem State.mapPiece_flagWait (s : State) (q sn idx : Nat) (f : PieceRec → PieceRec) : (s.mapPiece q sn idx f).flagWait = s.flagWait := rfl
@[simp] theorem State.mapPiece_totals (s : State) (q sn idx : Nat) (f : PieceRec → PieceRec) : (s.mapPiece q sn idx f).totals = s.totals := rfl
@[simp] theorem State.mapPiece_lastBeat (s : State) (q sn idx : Nat) (f : PieceRec → PieceRec) : (s.mapPiece q sn idx f).lastBeat = s.lastBeat := rfl
@[simp] theorem State.mapPiece_offsets (s : State) (q sn idx : Nat) (f : PieceRec → PieceRec) : (s.mapPiece q sn idx f).offsets = s.offsets := rfl
@[simp] theorem State.mapPiece_rebaseDue (s : State) (q sn idx : Nat) (f : PieceRec → PieceRec) : (s.mapPiece q sn idx f).rebaseDue = s.rebaseDue := rfl
@[simp] theorem State.mapPiece_rebaseNow (s : State) (q sn idx : Nat) (f : PieceRec → PieceRec) : (s.mapPiece q sn idx f).rebaseNow = s.rebaseNow := rfl
@[simp] theorem State.mapPiece_pipes (s : State) (q sn idx : Nat) (f : PieceRec → PieceRec) : (s.mapPiece q sn idx f).pipes = s.pipes := rfl
@[simp] theorem State.mapPiece_retired (s : State) (q sn idx : Nat) (f : PieceRec → PieceRec) : (s.mapPiece q sn idx f).retired = s.retired := rfl
@[simp] theorem State.mapPiece_mailbox (s : State) (q sn idx : Nat) (f : PieceRec → PieceRec) : (s.mapPiece q sn idx f).mailbox = s.mailbox := rfl
@[simp] theorem State.mapPiece_marginNext (s : State) (q sn idx : Nat) (f : PieceRec → PieceRec) : (s.mapPiece q sn idx f).marginNext = s.marginNext := rfl
@[simp] theorem State.mapPiece_wctlNext (s : State) (q sn idx : Nat) (f : PieceRec → PieceRec) : (s.mapPiece q sn idx f).wctlNext = s.wctlNext := rfl
@[simp] theorem State.mapPiece_tripClear (s : State) (q sn idx : Nat) (f : PieceRec → PieceRec) : (s.mapPiece q sn idx f).tripClear = s.tripClear := rfl
@[simp] theorem State.mapPiece_detects (s : State) (q sn idx : Nat) (f : PieceRec → PieceRec) : (s.mapPiece q sn idx f).detects = s.detects := rfl
@[simp] theorem State.mapPiece_tileQ (s : State) (q sn idx : Nat) (f : PieceRec → PieceRec) : (s.mapPiece q sn idx f).tileQ = s.tileQ := rfl
@[simp] theorem State.mapPiece_stalled (s : State) (q sn idx : Nat) (f : PieceRec → PieceRec) : (s.mapPiece q sn idx f).stalled = s.stalled := rfl
@[simp] theorem State.mapPiece_resident (s : State) (q sn idx : Nat) (f : PieceRec → PieceRec) : (s.mapPiece q sn idx f).resident = s.resident := rfl
@[simp] theorem State.mapPiece_nodes (s : State) (q sn idx : Nat) (f : PieceRec → PieceRec) : (s.mapPiece q sn idx f).nodes = s.nodes := rfl
@[simp] theorem State.mapPiece_accs (s : State) (q sn idx : Nat) (f : PieceRec → PieceRec) : (s.mapPiece q sn idx f).accs = s.accs := rfl
@[simp] theorem State.mapPiece_spills (s : State) (q sn idx : Nat) (f : PieceRec → PieceRec) : (s.mapPiece q sn idx f).spills = s.spills := rfl
@[simp] theorem State.mapPiece_roots (s : State) (q sn idx : Nat) (f : PieceRec → PieceRec) : (s.mapPiece q sn idx f).roots = s.roots := rfl
@[simp] theorem State.mapPiece_armed (s : State) (q sn idx : Nat) (f : PieceRec → PieceRec) : (s.mapPiece q sn idx f).armed = s.armed := rfl
@[simp] theorem State.mapPiece_seqs (s : State) (q sn idx : Nat) (f : PieceRec → PieceRec) : (s.mapPiece q sn idx f).seqs = s.seqs := rfl
@[simp] theorem State.mapPiece_journal (s : State) (q sn idx : Nat) (f : PieceRec → PieceRec) : (s.mapPiece q sn idx f).journal = s.journal := rfl
@[simp] theorem State.mapPiece_cool (s : State) (q sn idx : Nat) (f : PieceRec → PieceRec) : (s.mapPiece q sn idx f).cool = s.cool := rfl
@[simp] theorem State.mapPiece_rowsOut (s : State) (q sn idx : Nat) (f : PieceRec → PieceRec) : (s.mapPiece q sn idx f).rowsOut = s.rowsOut := rfl
@[simp] theorem State.mapPiece_dirLines (s : State) (q sn idx : Nat) (f : PieceRec → PieceRec) : (s.mapPiece q sn idx f).dirLines = s.dirLines := rfl
@[simp] theorem State.mapPiece_lr (s : State) (q sn idx : Nat) (f : PieceRec → PieceRec) : (s.mapPiece q sn idx f).lr = s.lr := rfl
@[simp] theorem State.mapPiece_coreHeld (s : State) (q sn idx : Nat) (f : PieceRec → PieceRec) : (s.mapPiece q sn idx f).coreHeld = s.coreHeld := rfl
@[simp] theorem State.mapPiece_downOps (s : State) (q sn idx : Nat) (f : PieceRec → PieceRec) : (s.mapPiece q sn idx f).downOps = s.downOps := rfl
@[simp] theorem State.mapPiece_reverted (s : State) (q sn idx : Nat) (f : PieceRec → PieceRec) : (s.mapPiece q sn idx f).reverted = s.reverted := rfl
@[simp] theorem State.mapPiece_parked (s : State) (q sn idx : Nat) (f : PieceRec → PieceRec) : (s.mapPiece q sn idx f).parked = s.parked := rfl
@[simp] theorem State.mapPiece_migs (s : State) (q sn idx : Nat) (f : PieceRec → PieceRec) : (s.mapPiece q sn idx f).migs = s.migs := rfl
@[simp] theorem State.mapPiece_inv (s : State) (q sn idx : Nat) (f : PieceRec → PieceRec) : (s.mapPiece q sn idx f).inv = s.inv := rfl
@[simp] theorem State.mapPiece_dirClear (s : State) (q sn idx : Nat) (f : PieceRec → PieceRec) : (s.mapPiece q sn idx f).dirClear = s.dirClear := rfl
@[simp] theorem State.mapPiece_sample (s : State) (q sn idx : Nat) (f : PieceRec → PieceRec) : (s.mapPiece q sn idx f).sample = s.sample := rfl
@[simp] theorem State.mapPiece_bias (s : State) (q sn idx : Nat) (f : PieceRec → PieceRec) : (s.mapPiece q sn idx f).bias = s.bias := rfl
@[simp] theorem State.mapPiece_biaResv (s : State) (q sn idx : Nat) (f : PieceRec → PieceRec) : (s.mapPiece q sn idx f).biaResv = s.biaResv := rfl
@[simp] theorem State.mapPiece_ptmSeq (s : State) (q sn idx : Nat) (f : PieceRec → PieceRec) : (s.mapPiece q sn idx f).ptmSeq = s.ptmSeq := rfl
@[simp] theorem State.mapPiece_msixOn (s : State) (q sn idx : Nat) (f : PieceRec → PieceRec) : (s.mapPiece q sn idx f).msixOn = s.msixOn := rfl
@[simp] theorem State.mapPiece_msixPend (s : State) (q sn idx : Nat) (f : PieceRec → PieceRec) : (s.mapPiece q sn idx f).msixPend = s.msixPend := rfl
@[simp] theorem State.mapPiece_msix (s : State) (q sn idx : Nat) (f : PieceRec → PieceRec) : (s.mapPiece q sn idx f).msix = s.msix := rfl
@[simp] theorem State.mapPiece_coreIrq (s : State) (q sn idx : Nat) (f : PieceRec → PieceRec) : (s.mapPiece q sn idx f).coreIrq = s.coreIrq := rfl
@[simp] theorem State.mapPiece_ns (s : State) (q sn idx : Nat) (f : PieceRec → PieceRec) : (s.mapPiece q sn idx f).ns = s.ns := rfl
@[simp] theorem State.mapPiece_frac (s : State) (q sn idx : Nat) (f : PieceRec → PieceRec) : (s.mapPiece q sn idx f).frac = s.frac := rfl
@[simp] theorem State.mapPiece_fracLatch (s : State) (q sn idx : Nat) (f : PieceRec → PieceRec) : (s.mapPiece q sn idx f).fracLatch = s.fracLatch := rfl
@[simp] theorem State.mapPiece_steer (s : State) (q sn idx : Nat) (f : PieceRec → PieceRec) : (s.mapPiece q sn idx f).steer = s.steer := rfl
@[simp] theorem State.mapPiece_ppsHigh (s : State) (q sn idx : Nat) (f : PieceRec → PieceRec) : (s.mapPiece q sn idx f).ppsHigh = s.ppsHigh := rfl
@[simp] theorem State.mapPiece_ppsFall (s : State) (q sn idx : Nat) (f : PieceRec → PieceRec) : (s.mapPiece q sn idx f).ppsFall = s.ppsFall := rfl
@[simp] theorem State.mapPiece_ppsEdge (s : State) (q sn idx : Nat) (f : PieceRec → PieceRec) : (s.mapPiece q sn idx f).ppsEdge = s.ppsEdge := rfl
@[simp] theorem State.mapPiece_todSeq (s : State) (q sn idx : Nat) (f : PieceRec → PieceRec) : (s.mapPiece q sn idx f).todSeq = s.todSeq := rfl
@[simp] theorem State.mapPiece_todSent (s : State) (q sn idx : Nat) (f : PieceRec → PieceRec) : (s.mapPiece q sn idx f).todSent = s.todSent := rfl
@[simp] theorem State.mapPiece_ppsHold (s : State) (q sn idx : Nat) (f : PieceRec → PieceRec) : (s.mapPiece q sn idx f).ppsHold = s.ppsHold := rfl
@[simp] theorem State.mapPiece_outRun (s : State) (q sn idx : Nat) (f : PieceRec → PieceRec) : (s.mapPiece q sn idx f).outRun = s.outRun := rfl
@[simp] theorem State.mapPiece_collNo (s : State) (q sn idx : Nat) (f : PieceRec → PieceRec) : (s.mapPiece q sn idx f).collNo = s.collNo := rfl
@[simp] theorem State.mapPiece_notices (s : State) (q sn idx : Nat) (f : PieceRec → PieceRec) : (s.mapPiece q sn idx f).notices = s.notices := rfl
@[simp] theorem State.mapPiece_abandoned (s : State) (q sn idx : Nat) (f : PieceRec → PieceRec) : (s.mapPiece q sn idx f).abandoned = s.abandoned := rfl
@[simp] theorem State.mapPiece_inbox (s : State) (q sn idx : Nat) (f : PieceRec → PieceRec) : (s.mapPiece q sn idx f).inbox = s.inbox := rfl
@[simp] theorem State.mapPiece_accepted (s : State) (q sn idx : Nat) (f : PieceRec → PieceRec) : (s.mapPiece q sn idx f).accepted = s.accepted := rfl
@[simp] theorem State.mapPiece_retry (s : State) (q sn idx : Nat) (f : PieceRec → PieceRec) : (s.mapPiece q sn idx f).retry = s.retry := rfl
@[simp] theorem State.mapPiece_portSeq (s : State) (q sn idx : Nat) (f : PieceRec → PieceRec) : (s.mapPiece q sn idx f).portSeq = s.portSeq := rfl
@[simp] theorem State.mapPiece_outbox (s : State) (q sn idx : Nat) (f : PieceRec → PieceRec) : (s.mapPiece q sn idx f).outbox = s.outbox := rfl
@[simp] theorem State.mapPiece_inLock (s : State) (q sn idx : Nat) (f : PieceRec → PieceRec) : (s.mapPiece q sn idx f).inLock = s.inLock := rfl
@[simp] theorem State.mapPiece_alignDue (s : State) (q sn idx : Nat) (f : PieceRec → PieceRec) : (s.mapPiece q sn idx f).alignDue = s.alignDue := rfl
@[simp] theorem State.mapPiece_alignOut (s : State) (q sn idx : Nat) (f : PieceRec → PieceRec) : (s.mapPiece q sn idx f).alignOut = s.alignOut := rfl
@[simp] theorem State.mapPiece_alignSet (s : State) (q sn idx : Nat) (f : PieceRec → PieceRec) : (s.mapPiece q sn idx f).alignSet = s.alignSet := rfl
@[simp] theorem State.mapPiece_best (s : State) (q sn idx : Nat) (f : PieceRec → PieceRec) : (s.mapPiece q sn idx f).best = s.best := rfl
@[simp] theorem State.mapPiece_joins (s : State) (q sn idx : Nat) (f : PieceRec → PieceRec) : (s.mapPiece q sn idx f).joins = s.joins := rfl
@[simp] theorem State.mapPiece_joinPort (s : State) (q sn idx : Nat) (f : PieceRec → PieceRec) : (s.mapPiece q sn idx f).joinPort = s.joinPort := rfl
@[simp] theorem State.mapPiece_addrs (s : State) (q sn idx : Nat) (f : PieceRec → PieceRec) : (s.mapPiece q sn idx f).addrs = s.addrs := rfl
@[simp] theorem State.mapPiece_nextAddr (s : State) (q sn idx : Nat) (f : PieceRec → PieceRec) : (s.mapPiece q sn idx f).nextAddr = s.nextAddr := rfl
@[simp] theorem State.mapPiece_routes (s : State) (q sn idx : Nat) (f : PieceRec → PieceRec) : (s.mapPiece q sn idx f).routes = s.routes := rfl
@[simp] theorem State.mapPiece_upAt (s : State) (q sn idx : Nat) (f : PieceRec → PieceRec) : (s.mapPiece q sn idx f).upAt = s.upAt := rfl
@[simp] theorem State.mapPiece_joinAt (s : State) (q sn idx : Nat) (f : PieceRec → PieceRec) : (s.mapPiece q sn idx f).joinAt = s.joinAt := rfl
@[simp] theorem State.mapPiece_downAt (s : State) (q sn idx : Nat) (f : PieceRec → PieceRec) : (s.mapPiece q sn idx f).downAt = s.downAt := rfl
@[simp] theorem State.mapPiece_cwErr (s : State) (q sn idx : Nat) (f : PieceRec → PieceRec) : (s.mapPiece q sn idx f).cwErr = s.cwErr := rfl
@[simp] theorem State.mapPiece_laneBad (s : State) (q sn idx : Nat) (f : PieceRec → PieceRec) : (s.mapPiece q sn idx f).laneBad = s.laneBad := rfl
@[simp] theorem State.mapPiece_margins (s : State) (q sn idx : Nat) (f : PieceRec → PieceRec) : (s.mapPiece q sn idx f).margins = s.margins := rfl
@[simp] theorem State.mapPiece_held (s : State) (q sn idx : Nat) (f : PieceRec → PieceRec) : (s.mapPiece q sn idx f).held = s.held := rfl
@[simp] theorem State.mapPiece_sincePg (s : State) (q sn idx : Nat) (f : PieceRec → PieceRec) : (s.mapPiece q sn idx f).sincePg = s.sincePg := rfl
@[simp] theorem State.mapPiece_fuses (s : State) (q sn idx : Nat) (f : PieceRec → PieceRec) : (s.mapPiece q sn idx f).fuses = s.fuses := rfl
@[simp] theorem State.mapPiece_revokes (s : State) (q sn idx : Nat) (f : PieceRec → PieceRec) : (s.mapPiece q sn idx f).revokes = s.revokes := rfl
@[simp] theorem State.mapPiece_wdogOn (s : State) (q sn idx : Nat) (f : PieceRec → PieceRec) : (s.mapPiece q sn idx f).wdogOn = s.wdogOn := rfl
@[simp] theorem State.mapPiece_wdogAt (s : State) (q sn idx : Nat) (f : PieceRec → PieceRec) : (s.mapPiece q sn idx f).wdogAt = s.wdogAt := rfl
@[simp] theorem State.mapPiece_bootWin (s : State) (q sn idx : Nat) (f : PieceRec → PieceRec) : (s.mapPiece q sn idx f).bootWin = s.bootWin := rfl
@[simp] theorem State.mapPiece_owned (s : State) (q sn idx : Nat) (f : PieceRec → PieceRec) : (s.mapPiece q sn idx f).owned = s.owned := rfl
@[simp] theorem State.mapPiece_image (s : State) (q sn idx : Nat) (f : PieceRec → PieceRec) : (s.mapPiece q sn idx f).image = s.image := rfl
@[simp] theorem State.mapPiece_wiped (s : State) (q sn idx : Nat) (f : PieceRec → PieceRec) : (s.mapPiece q sn idx f).wiped = s.wiped := rfl
@[simp] theorem State.mapPiece_discovered (s : State) (q sn idx : Nat) (f : PieceRec → PieceRec) : (s.mapPiece q sn idx f).discovered = s.discovered := rfl
@[simp] theorem State.mapPiece_attest (s : State) (q sn idx : Nat) (f : PieceRec → PieceRec) : (s.mapPiece q sn idx f).attest = s.attest := rfl
@[simp] theorem State.mapPiece_aliasCert (s : State) (q sn idx : Nat) (f : PieceRec → PieceRec) : (s.mapPiece q sn idx f).aliasCert = s.aliasCert := rfl
@[simp] theorem State.mapPiece_keep (s : State) (q sn idx : Nat) (f : PieceRec → PieceRec) : (s.mapPiece q sn idx f).keep = s.keep := rfl
@[simp] theorem State.mapPiece_beatFaults (s : State) (q sn idx : Nat) (f : PieceRec → PieceRec) : (s.mapPiece q sn idx f).beatFaults = s.beatFaults := rfl
@[simp] theorem State.mapPiece_windows (s : State) (q sn idx : Nat) (f : PieceRec → PieceRec) : (s.mapPiece q sn idx f).windows = s.windows := rfl
@[simp] theorem State.mapPiece_tests (s : State) (q sn idx : Nat) (f : PieceRec → PieceRec) : (s.mapPiece q sn idx f).tests = s.tests := rfl
@[simp] theorem State.mapPiece_spareGone (s : State) (q sn idx : Nat) (f : PieceRec → PieceRec) : (s.mapPiece q sn idx f).spareGone = s.spareGone := rfl
@[simp] theorem State.mapPiece_remap (s : State) (q sn idx : Nat) (f : PieceRec → PieceRec) : (s.mapPiece q sn idx f).remap = s.remap := rfl
@[simp] theorem State.mapPiece_counted (s : State) (q sn idx : Nat) (f : PieceRec → PieceRec) : (s.mapPiece q sn idx f).counted = s.counted := rfl
@[simp] theorem State.mapPiece_transients (s : State) (q sn idx : Nat) (f : PieceRec → PieceRec) : (s.mapPiece q sn idx f).transients = s.transients := rfl
@[simp] theorem State.mapPiece_rigOut (s : State) (q sn idx : Nat) (f : PieceRec → PieceRec) : (s.mapPiece q sn idx f).rigOut = s.rigOut := rfl
@[simp] theorem State.mapPiece_mscOut (s : State) (q sn idx : Nat) (f : PieceRec → PieceRec) : (s.mapPiece q sn idx f).mscOut = s.mscOut := rfl
@[simp] theorem State.mapPiece_wayOff (s : State) (q sn idx : Nat) (f : PieceRec → PieceRec) : (s.mapPiece q sn idx f).wayOff = s.wayOff := rfl
@[simp] theorem State.mapPiece_bankOut (s : State) (q sn idx : Nat) (f : PieceRec → PieceRec) : (s.mapPiece q sn idx f).bankOut = s.bankOut := rfl
@[simp] theorem State.mapPiece_power (s : State) (q sn idx : Nat) (f : PieceRec → PieceRec) : (s.mapPiece q sn idx f).power = s.power := rfl
@[simp] theorem State.mapPiece_pwrEn (s : State) (q sn idx : Nat) (f : PieceRec → PieceRec) : (s.mapPiece q sn idx f).pwrEn = s.pwrEn := rfl
@[simp] theorem State.mapPiece_perst (s : State) (q sn idx : Nat) (f : PieceRec → PieceRec) : (s.mapPiece q sn idx f).perst = s.perst := rfl
@[simp] theorem State.mapPiece_mz50 (s : State) (q sn idx : Nat) (f : PieceRec → PieceRec) : (s.mapPiece q sn idx f).mz50 = s.mz50 := rfl
@[simp] theorem State.mapPiece_powerGood (s : State) (q sn idx : Nat) (f : PieceRec → PieceRec) : (s.mapPiece q sn idx f).powerGood = s.powerGood := rfl
@[simp] theorem State.mapPiece_tripN (s : State) (q sn idx : Nat) (f : PieceRec → PieceRec) : (s.mapPiece q sn idx f).tripN = s.tripN := rfl
@[simp] theorem State.mapPiece_capNext (s : State) (q sn idx : Nat) (f : PieceRec → PieceRec) : (s.mapPiece q sn idx f).capNext = s.capNext := rfl
@[simp] theorem State.mapPiece_sinceStep (s : State) (q sn idx : Nat) (f : PieceRec → PieceRec) : (s.mapPiece q sn idx f).sinceStep = s.sinceStep := rfl
@[simp] theorem State.mapPiece_capShare (s : State) (q sn idx : Nat) (f : PieceRec → PieceRec) : (s.mapPiece q sn idx f).capShare = s.capShare := rfl
@[simp] theorem State.mapPiece_sinceShare (s : State) (q sn idx : Nat) (f : PieceRec → PieceRec) : (s.mapPiece q sn idx f).sinceShare = s.sinceShare := rfl
@[simp] theorem State.mapPiece_mzFirst (s : State) (q sn idx : Nat) (f : PieceRec → PieceRec) : (s.mapPiece q sn idx f).mzFirst = s.mzFirst := rfl
@[simp] theorem State.mapPiece_mzInj (s : State) (q sn idx : Nat) (f : PieceRec → PieceRec) : (s.mapPiece q sn idx f).mzInj = s.mzInj := rfl
@[simp] theorem State.mapPiece_floorB (s : State) (q sn idx : Nat) (f : PieceRec → PieceRec) : (s.mapPiece q sn idx f).floorB = s.floorB := rfl
@[simp] theorem State.mapPiece_p10 (s : State) (q sn idx : Nat) (f : PieceRec → PieceRec) : (s.mapPiece q sn idx f).p10 = s.p10 := rfl
@[simp] theorem State.mapPiece_hot (s : State) (q sn idx : Nat) (f : PieceRec → PieceRec) : (s.mapPiece q sn idx f).hot = s.hot := rfl
@[simp] theorem State.mapPiece_alertAt (s : State) (q sn idx : Nat) (f : PieceRec → PieceRec) : (s.mapPiece q sn idx f).alertAt = s.alertAt := rfl
@[simp] theorem State.mapPiece_cooled (s : State) (q sn idx : Nat) (f : PieceRec → PieceRec) : (s.mapPiece q sn idx f).cooled = s.cooled := rfl
@[simp] theorem State.mapPiece_i3cAddr (s : State) (q sn idx : Nat) (f : PieceRec → PieceRec) : (s.mapPiece q sn idx f).i3cAddr = s.i3cAddr := rfl
@[simp] theorem State.mapPiece_i3cIrq (s : State) (q sn idx : Nat) (f : PieceRec → PieceRec) : (s.mapPiece q sn idx f).i3cIrq = s.i3cIrq := rfl
@[simp] theorem State.mapPiece_jtag (s : State) (q sn idx : Nat) (f : PieceRec → PieceRec) : (s.mapPiece q sn idx f).jtag = s.jtag := rfl
@[simp] theorem State.mapPiece_challenge (s : State) (q sn idx : Nat) (f : PieceRec → PieceRec) : (s.mapPiece q sn idx f).challenge = s.challenge := rfl
@[simp] theorem State.mapPiece_session (s : State) (q sn idx : Nat) (f : PieceRec → PieceRec) : (s.mapPiece q sn idx f).session = s.session := rfl
@[simp] theorem State.mapPiece_halted (s : State) (q sn idx : Nat) (f : PieceRec → PieceRec) : (s.mapPiece q sn idx f).halted = s.halted := rfl
@[simp] theorem State.mapPiece_uart (s : State) (q sn idx : Nat) (f : PieceRec → PieceRec) : (s.mapPiece q sn idx f).uart = s.uart := rfl
@[simp] theorem State.mapPiece_pinHigh (s : State) (q sn idx : Nat) (f : PieceRec → PieceRec) : (s.mapPiece q sn idx f).pinHigh = s.pinHigh := rfl
@[simp] theorem State.mapPiece_cagePins (s : State) (q sn idx : Nat) (f : PieceRec → PieceRec) : (s.mapPiece q sn idx f).cagePins = s.cagePins := rfl
@[simp] theorem State.mapPiece_reply (s : State) (q sn idx : Nat) (f : PieceRec → PieceRec) : (s.mapPiece q sn idx f).reply = s.reply := rfl
@[simp] theorem State.mapPiece_free (s : State) (q sn idx : Nat) (f : PieceRec → PieceRec) : (s.mapPiece q sn idx f).free = s.free := rfl
@[simp] theorem State.mapPiece_rd (s : State) (q sn idx : Nat) (f : PieceRec → PieceRec) (x : Nat) : (s.mapPiece q sn idx f).rd x = s.rd x := rfl
@[simp] theorem State.mapPiece_fld (s : State) (q sn idx : Nat) (f : PieceRec → PieceRec) (x hi lo : Nat) : (s.mapPiece q sn idx f).fld x hi lo = s.fld x hi lo := rfl
@[simp] theorem State.mapPiece_flag (s : State) (q sn idx : Nat) (f : PieceRec → PieceRec) (x i : Nat) : (s.mapPiece q sn idx f).flag x i = s.flag x i := rfl

/-! ### Registers -/

/-- The word written reads back. -/
@[simp] theorem State.rd_wr_same (s : State) (a : Nat) (v : Word) : (s.wr a v).rd a = v := Tab.get_set_same resetWord s.regs a v

/-- Every other register reads as before. -/
@[simp] theorem State.rd_wr_other (s : State) (a b : Nat) (v : Word) (h : b ≠ a) : (s.wr a v).rd b = s.rd b :=
  Tab.get_set_other resetWord s.regs a b v h

@[simp] theorem State.rd_put_same (s : State) (a hi lo v : Nat) : (s.put a hi lo v).rd a = putBits (s.rd a) hi lo v := State.rd_wr_same s a _

@[simp] theorem State.rd_put_other (s : State) (a b hi lo v : Nat) (h : b ≠ a) : (s.put a hi lo v).rd b = s.rd b := State.rd_wr_other s a b _ h

@[simp] theorem State.rd_putBit_other (s : State) (a b i : Nat) (v : Bool) (h : b ≠ a) : (s.putBit a i v).rd b = s.rd b := State.rd_wr_other s a b _ h

@[simp] theorem State.rd_bump_other (s : State) (a b hi lo n : Nat) (h : b ≠ a) : (s.bump a hi lo n).rd b = s.rd b := State.rd_wr_other s a b _ h

/-- The field written reads back. -/
theorem State.fld_put_same (s : State) (a hi lo v : Nat) (h : lo ≤ hi) (h64 : hi < 64) : (s.put a hi lo v).fld a hi lo = v % 2 ^ (hi + 1 - lo) := by
  rw [State.fld, State.rd_put_same, bits_putBits_same _ _ _ _ h h64]

/-- A field apart from the one written is as before. -/
theorem State.fld_put_apart (s : State) (a hi lo v h l : Nat) (hh : lo ≤ hi) (h64 : hi < 64) (hl : l ≤ h) (d : h < lo ∨ hi < l) :
    (s.put a hi lo v).fld a h l = s.fld a h l := by
  rw [State.fld, State.rd_put_same]
  rcases d with d | d
  · exact bits_putBits_below _ _ _ _ _ _ hh h64 d hl
  · exact bits_putBits_above _ _ _ _ _ _ hh h64 d

/-- A field of another register is as before. -/
theorem State.fld_put_other (s : State) (a b hi lo v h l : Nat) (hb : b ≠ a) : (s.put a hi lo v).fld b h l = s.fld b h l := by
  rw [State.fld, State.rd_put_other _ _ _ _ _ _ hb, State.fld]

theorem State.fld_putBit_other (s : State) (a b i h l : Nat) (v : Bool) (hb : b ≠ a) : (s.putBit a i v).fld b h l = s.fld b h l :=
  State.fld_put_other s a b i i _ h l hb

theorem State.fld_putBit_apart (s : State) (a i h l : Nat) (v : Bool) (h64 : i < 64) (hl : l ≤ h) (d : h < i ∨ i < l) :
    (s.putBit a i v).fld a h l = s.fld a h l :=
  State.fld_put_apart s a i i _ h l (le_refl _) h64 hl d

/-- A counter field after counting, saturating. -/
theorem State.fld_bump_same (s : State) (a hi lo n : Nat) (h : lo ≤ hi) (h64 : hi < 64) :
    (s.bump a hi lo n).fld a hi lo = satAdd (hi + 1 - lo) (s.fld a hi lo) n := by
  unfold State.bump
  rw [State.fld_put_same _ _ _ _ _ h h64]
  refine Nat.mod_eq_of_lt (lt_of_le_of_lt (Nat.min_le_right _ _) ?_)
  unfold satMax
  have : 0 < 2 ^ (hi + 1 - lo) := by positivity
  omega

theorem State.fld_bump_other (s : State) (a b hi lo n h l : Nat) (hb : b ≠ a) : (s.bump a hi lo n).fld b h l = s.fld b h l :=
  State.fld_put_other s a b hi lo _ h l hb

theorem State.fld_bump_apart (s : State) (a hi lo n h l : Nat) (hh : lo ≤ hi) (h64 : hi < 64) (hl : l ≤ h) (d : h < lo ∨ hi < l) :
    (s.bump a hi lo n).fld a h l = s.fld a h l :=
  State.fld_put_apart s a hi lo _ h l hh h64 hl d

theorem State.flag_put_other (s : State) (a b hi lo v i : Nat) (hb : b ≠ a) : (s.put a hi lo v).flag b i = s.flag b i := by
  unfold State.flag; rw [State.fld_put_other _ _ _ _ _ _ _ _ hb]

theorem State.flag_put_apart (s : State) (a hi lo v i : Nat) (hh : lo ≤ hi) (h64 : hi < 64) (d : i < lo ∨ hi < i) : (s.put a hi lo v).flag a i = s.flag a i := by
  unfold State.flag; rw [State.fld_put_apart _ _ _ _ _ _ _ hh h64 (le_refl _) d]

theorem State.flag_putBit_other (s : State) (a b i j : Nat) (v : Bool) (hb : b ≠ a) : (s.putBit a i v).flag b j = s.flag b j :=
  State.flag_put_other s a b i i _ j hb

theorem State.flag_putBit_apart (s : State) (a i j : Nat) (v : Bool) (h64 : i < 64) (d : j < i ∨ i < j) : (s.putBit a i v).flag a j = s.flag a j :=
  State.flag_put_apart s a i i _ j (le_refl _) h64 d

theorem State.flag_bump_other (s : State) (a b hi lo n i : Nat) (hb : b ≠ a) : (s.bump a hi lo n).flag b i = s.flag b i :=
  State.flag_put_other s a b hi lo _ i hb

/-- A field of a register just written. -/
theorem State.fld_wr_same (s : State) (a h l : Nat) (v : Word) : (s.wr a v).fld a h l = bits v h l := by
  unfold State.fld; rw [State.rd_wr_same]

theorem State.fld_wr_other (s : State) (a b h l : Nat) (v : Word) (hb : b ≠ a) : (s.wr a v).fld b h l = s.fld b h l := by
  unfold State.fld; rw [State.rd_wr_other _ _ _ _ hb]

/-- The flag written reads back. -/
theorem State.flag_putBit_same (s : State) (a i : Nat) (b : Bool) (h : i < 64) : (s.putBit a i b).flag a i = b := by
  unfold State.flag State.putBit
  rw [State.fld_put_same _ _ _ _ _ (le_refl _) h]
  cases b <;> simp [b2n]

/-- Control space stays in canonical form under a write. -/
theorem State.wf_wr (s : State) (a : Nat) (v : Word) (h : Tab.wf resetWord s.regs = true) : Tab.wf resetWord (s.wr a v).regs = true :=
  Tab.wf_set resetWord s.regs a v h

theorem State.wf_put (s : State) (a hi lo v : Nat) (h : Tab.wf resetWord s.regs = true) : Tab.wf resetWord (s.put a hi lo v).regs = true :=
  State.wf_wr s a _ h

theorem State.wf_putBit (s : State) (a i : Nat) (b : Bool) (h : Tab.wf resetWord s.regs = true) : Tab.wf resetWord (s.putBit a i b).regs = true :=
  State.wf_wr s a _ h

theorem State.wf_bump (s : State) (a hi lo n : Nat) (h : Tab.wf resetWord s.regs = true) : Tab.wf resetWord (s.bump a hi lo n).regs = true :=
  State.wf_wr s a _ h

/-- A run of words written changes control space alone, and keeps its form. -/
theorem State.wrRun_frame (ws : List Word) (s : State) (a : Nat) :
    (∃ r, s.wrRun a ws = { s with regs := r } ∧ (Tab.wf resetWord s.regs = true → Tab.wf resetWord r = true)) ∧
      ∀ b, (∀ i, i < ws.length → b ≠ a + 8 * i) → (s.wrRun a ws).rd b = s.rd b := by
  induction ws generalizing s a with
  | nil => exact ⟨⟨s.regs, rfl, id⟩, fun _ _ => rfl⟩
  | cons w ws ih =>
    obtain ⟨⟨r, h1, h2⟩, h3⟩ := ih (s.wr a w) (a + 8)
    refine ⟨⟨r, h1, fun h => h2 (State.wf_wr s a w h)⟩, fun b hb => ?_⟩
    rw [State.wrRun, h3 b (fun i hi e => hb (i + 1) (by simpa using hi) (by omega)), State.rd_wr_other]
    exact fun e => hb 0 (by simp) (by omega)

/-! ### Memory -/

/-- Bytes written read back, every other byte reads as before, and the form is kept. -/
theorem State.byte_poke (s : State) (a : Nat) (bs : List Byte) (h : Memory.wf s.mem = true) (b : Nat) :
    (s.poke a bs).byte b = if a ≤ b ∧ b < a + bs.length then bs.getD (b - a) 0 else s.byte b := by
  unfold State.byte State.poke
  rw [Tab.get_setRun _ _ _ _ _ h]
  rfl

theorem State.wf_poke (s : State) (a : Nat) (bs : List Byte) (h : Memory.wf s.mem = true) : Memory.wf (s.poke a bs).mem = true :=
  Tab.wf_setRun Memory.unlisted s.mem a bs h

/-- Taking an injection changes what is armed alone. -/
theorem State.takeInj_frame (s : State) (reg kind target : Nat) : { (s.takeInj reg kind target).2 with armed := s.armed } = s := rfl

end Sys2Proof.Machine
end

