-- ==== Sys2Proof/Laws/Faults.lean ====
section
/-! SUPPORT. What the shared fault operations may change: control space, the ring of the last records, the vectors signalled, the armed injections
and the lists of the fault handler, and nothing else; control space keeps its canonical form and the ring its 16 records of 8 words. -/

namespace Sys2Proof.Machine

/-- `t` is `s` but for what the fault handler writes. -/
structure InFaults (s t : State) : Prop where
  rest : ({ t with regs := s.regs, keep := s.keep, msix := s.msix, msixPend := s.msixPend, armed := s.armed, windows := s.windows, tests := s.tests,
                   beatFaults := s.beatFaults, transients := s.transients, counted := s.counted } : State) = s
  regs : Tab.wf resetWord s.regs = true → Tab.wf resetWord t.regs = true
  keep : (s.keep.length ≤ 16 ∧ ∀ r ∈ s.keep, r.length = 8) → t.keep.length ≤ 16 ∧ ∀ r ∈ t.keep, r.length = 8

theorem InFaults.refl (s : State) : InFaults s s := ⟨rfl, id, id⟩

theorem InFaults.trans {s t u : State} (h : InFaults s t) (g : InFaults t u) : InFaults s u := by
  refine ⟨?_, fun x => g.regs (h.regs x), fun x => g.keep (h.keep x)⟩
  have e : ({ u with regs := s.regs, keep := s.keep, msix := s.msix, msixPend := s.msixPend, armed := s.armed, windows := s.windows, tests := s.tests,
                     beatFaults := s.beatFaults, transients := s.transients, counted := s.counted } : State) =
      { ({ u with regs := t.regs, keep := t.keep, msix := t.msix, msixPend := t.msixPend, armed := t.armed, windows := t.windows, tests := t.tests,
                  beatFaults := t.beatFaults, transients := t.transients, counted := t.counted } : State) with
        regs := s.regs, keep := s.keep, msix := s.msix, msixPend := s.msixPend, armed := s.armed, windows := s.windows, tests := s.tests,
        beatFaults := s.beatFaults, transients := s.transients, counted := s.counted } := rfl
  rw [e, g.rest, h.rest]

/-! ### Updates that a fault operation may make -/

theorem State.wr_inFaults (s : State) (a : Nat) (v : Word) : InFaults s (s.wr a v) := ⟨rfl, State.wf_wr s a v, id⟩
theorem State.put_inFaults (s : State) (a hi lo v : Nat) : InFaults s (s.put a hi lo v) := State.wr_inFaults s a _
theorem State.putBit_inFaults (s : State) (a i : Nat) (b : Bool) : InFaults s (s.putBit a i b) := State.wr_inFaults s a _
theorem State.bump_inFaults (s : State) (a hi lo n : Nat) : InFaults s (s.bump a hi lo n) := State.wr_inFaults s a _

theorem State.wrRun_inFaults (ws : List Word) (s : State) (a : Nat) : InFaults s (s.wrRun a ws) := by
  induction ws generalizing s a with
  | nil => exact InFaults.refl s
  | cons w ws ih => exact (State.wr_inFaults s a w).trans (ih _ _)

theorem State.windows_inFaults (s : State) (ws : List Window) : InFaults s { s with windows := ws } := ⟨rfl, id, id⟩
theorem State.tests_inFaults (s : State) (ws : List Window) : InFaults s { s with tests := ws } := ⟨rfl, id, id⟩
theorem State.beatFaults_inFaults (s : State) (bs : List (Nat × Nat × Nat × Nat × Nat)) : InFaults s { s with beatFaults := bs } := ⟨rfl, id, id⟩
theorem State.counted_inFaults (s : State) (cs : List (Nat × Nat)) : InFaults s { s with counted := cs } := ⟨rfl, id, id⟩
theorem State.transients_inFaults (s : State) (ts : List (Nat × Nat × Nat)) : InFaults s { s with transients := ts } := ⟨rfl, id, id⟩
theorem State.disarm_inFaults (s : State) (reg kind target : Nat) : InFaults s (s.disarm reg kind target) := ⟨rfl, id, id⟩
theorem State.takeInj_inFaults (s : State) (reg kind target : Nat) : InFaults s (s.takeInj reg kind target).2 := ⟨rfl, id, id⟩

/-- Every fault record has eight words (Table 19.2). -/
theorem recordWords_length (f : FaultIn) (seq time beat : Nat) : (recordWords f seq time beat).length = 8 := by
  unfold recordWords
  rcases f.op with _ | ⟨q, sr, c⟩ <;> rfl

/-- The ring of the last records keeps its bound (R578). -/
theorem ring_bound (k : List (List Word)) (ws : List Word) (hw : ws.length = 8) (h : k.length ≤ 16 ∧ ∀ r ∈ k, r.length = 8) :
    ((k ++ [ws]).drop (k.length + 1 - 16)).length ≤ 16 ∧ ∀ r ∈ (k ++ [ws]).drop (k.length + 1 - 16), r.length = 8 := by
  refine ⟨by simp; omega, fun r hr => ?_⟩
  have hm := List.mem_of_mem_drop hr
  rcases List.mem_append.1 hm with h1 | h1
  · exact h.2 r h1
  · rw [List.mem_singleton.1 h1]; exact hw

theorem State.ring_inFaults (s : State) (ws : List Word) (hw : ws.length = 8) :
    InFaults s { s with keep := (s.keep ++ [ws]).drop (s.keep.length + 1 - 16) } := ⟨rfl, id, ring_bound s.keep ws hw⟩

/-! ### Interrupts and records -/

/-- A vector is queued or counted (R496). -/
theorem State.signal_inFaults (s : State) (v : Nat) : InFaults s (s.signal v) := by
  unfold State.signal
  dsimp only
  split
  · exact ⟨rfl, id, id⟩
  · split
    · split
      · exact InFaults.refl s
      · exact ⟨rfl, id, id⟩
    · exact State.bump_inFaults s _ _ _ _

/-- A condition on a step. -/
theorem InFaults.ite {s a b : State} {c : Prop} [Decidable c] (ha : InFaults s a) (hb : InFaults s b) : InFaults s (if c then a else b) := by
  split <;> assumption

/-- Forming a record (R573 to R579). -/
theorem State.formOne_inFaults (s : State) (f : FaultIn) : InFaults s (s.formOne f) := by
  unfold State.formOne
  extract_lets seq ws head tail occ full s1 s2 s3 ovf s4 s5 s6 s7 escWas esc n s8 s9 thr fires
  have h3 : InFaults s s3 := ((State.put_inFaults s _ _ _ _).trans (State.bump_inFaults s1 _ _ _ _)).trans
    (State.ring_inFaults s2 ws (recordWords_length _ _ _ _))
  have h7 : InFaults s s7 := by
    refine h3.trans (InFaults.ite ((State.bump_inFaults s3 _ _ _ _).trans (InFaults.ite (InFaults.refl s4) ?_)) ?_)
    · exact ((State.putBit_inFaults s4 _ _ _).trans (State.put_inFaults _ _ _ _ _)).trans (State.put_inFaults _ _ _ _ _)
    · exact ((State.wrRun_inFaults ws s3 _).trans (State.put_inFaults s5 _ _ _ _)).trans (State.putBit_inFaults s6 _ _ _)
  have h9 : InFaults s s9 := h7.trans
    (InFaults.ite (((State.wrRun_inFaults ws s7 _).trans (State.put_inFaults s8 _ _ _ _)).trans (State.putBit_inFaults _ _ _ _)) (InFaults.refl s7))
  exact h9.trans (InFaults.ite (State.signal_inFaults s9 _) (InFaults.refl s9))

/-- A record, and that of a damaged slot where FLT_INJ kind 10 is armed. -/
theorem State.form_inFaults (s : State) (f : FaultIn) : InFaults s (s.form f) := by
  unfold State.form
  exact InFaults.ite (InFaults.trans (InFaults.trans (InFaults.trans (State.formOne_inFaults _ _) (State.disarm_inFaults _ _ _ _)) (State.bump_inFaults _ _ _ _ _))
    (State.formOne_inFaults _ _)) (State.formOne_inFaults _ _)

theorem State.event_inFaults (s : State) (cls det : Nat) (f : FaultIn) : InFaults s (s.event cls det f) := State.form_inFaults s _

/-! ### Windows and the ladder -/

theorem State.setWindows_inFaults (s : State) (ws : List Window) : InFaults s (s.setWindows ws) :=
  (State.windows_inFaults s ws).trans (State.wr_inFaults _ _ _)

theorem State.resolveRec_inFaults (s : State) (w : Window) (outcome : Nat) (repair : Word) : InFaults s (s.resolveRec w outcome repair) :=
  (State.form_inFaults s _).trans (State.tests_inFaults _ _)

/-- Folding of lower recoveries (R581). -/
theorem State.foldLower_inFaults (ws : List Window) (s : State) (dom inst : Nat) : InFaults s (s.foldLower dom inst ws) := by
  induction ws generalizing s with
  | nil => exact InFaults.refl s
  | cons w ws ih =>
    unfold State.foldLower
    refine InFaults.trans (InFaults.ite ?_ (InFaults.refl s)) (ih _)
    exact InFaults.trans (InFaults.trans (State.resolveRec_inFaults _ _ _ _) (State.bump_inFaults _ _ _ _ _)) (State.setWindows_inFaults _ _)

theorem State.openWindow_inFaults (s : State) (w : Window) : InFaults s (s.openWindow w) :=
  (State.setWindows_inFaults s _).trans (State.foldLower_inFaults _ _ _ _)

theorem State.keepFault_inFaults (s : State) (w : Window) (key : Nat) : InFaults s (s.keepFault w key) := by
  unfold State.keepFault
  dsimp only
  cases s.window w.dom w.inst <;> exact State.setWindows_inFaults _ _

theorem State.foldStep_inFaults (s : State) (cls d i seq : Nat) : InFaults s (s.foldStep cls d i seq) :=
  (State.form_inFaults s _).trans (State.bump_inFaults _ _ _ _ _)

/-- What follows a step of the ladder (R582). -/
theorem State.climbAt_inFaults (s : State) (cls d i seq : Nat) (next : Nat → State) (hn : ∀ f, InFaults s (next f)) :
    InFaults s (s.climbAt cls d i seq next) := by
  unfold State.climbAt
  cases s.window d i with
  | none =>
    cases s.ancestor 3 d i with
    | none => exact State.openWindow_inFaults s _
    | some _ => exact State.foldStep_inFaults s _ _ _ _
  | some w => exact InFaults.ite (State.foldStep_inFaults s _ _ _ _) (InFaults.ite (InFaults.refl s) (hn w.seq))

/-- A climb of the ladder (R582). -/
theorem State.climb_inFaults (k : Nat) (s : State) (cls dom inst first second : Nat) : InFaults s (s.climb k cls dom inst first second) := by
  induction k generalizing s cls dom inst first second with
  | zero => exact InFaults.refl s
  | succ k ih =>
    rw [State.climb]
    exact ((State.form_inFaults s _).trans (State.bump_inFaults _ _ _ _ _)).trans (State.climbAt_inFaults _ _ _ _ _ _ (fun f => ih _ _ _ _ _ _))

/-- A detection (R570, R571, R580 to R582, R628). -/
theorem State.detect_inFaults (s : State) (f : FaultIn) : InFaults s (s.detect f) := by
  unfold State.detect
  extract_lets seq s1 s2 w
  cases s.beatFaults.find? (fun b => f.dom != 0 && b.1 == f.dom && b.2.1 == f.inst) with
  | some b => exact State.form_inFaults s _
  | none =>
    have h2 : InFaults s s2 := (State.form_inFaults s _).trans (InFaults.ite (InFaults.refl s1) (State.beatFaults_inFaults s1 _))
    clear_value s2
    refine h2.trans (InFaults.ite (InFaults.refl s2) (InFaults.ite (State.tests_inFaults s2 _) ?_))
    cases s2.ancestor 3 f.dom f.inst with
    | some key => exact ((State.resolveRec_inFaults s2 _ _ _).trans (State.bump_inFaults _ _ _ _ _)).trans (State.keepFault_inFaults _ _ _)
    | none =>
      cases s2.window f.dom f.inst with
      | none => exact State.openWindow_inFaults s2 w
      | some v =>
        refine InFaults.ite (InFaults.ite ((State.resolveRec_inFaults s2 _ _ _).trans (State.bump_inFaults _ _ _ _ _)) (State.setWindows_inFaults s2 _)) ?_
        have hc := State.climb_inFaults 4 s2 f.cls f.dom f.inst v.seq seq
        generalize s2.climb 4 f.cls f.dom f.inst v.seq seq = x at hc
        show InFaults s2 (match x.ancestor 3 f.dom f.inst with | some key => x.keepFault w key | none => x)
        cases x.ancestor 3 f.dom f.inst with
        | some key => exact hc.trans (State.keepFault_inFaults x w key)
        | none => exact hc

/-- The resolution of a recovery (R580, R627). -/
theorem State.resolve_inFaults (s : State) (dom inst outcome : Nat) (repair : Word) : InFaults s (s.resolve dom inst outcome repair) := by
  unfold State.resolve
  cases s.window dom inst with
  | none => exact InFaults.refl _
  | some w => exact InFaults.ite (InFaults.refl _) ((State.resolveRec_inFaults _ _ _ _).trans (State.setWindows_inFaults _ _))

/-- The outcome of a self-test (R588). -/
theorem State.selfTest_inFaults (s : State) (dom inst : Nat) (elem : Option Nat) (out : SelfTest) : InFaults s (s.selfTest dom inst elem out).2 := by
  unfold State.selfTest
  extract_lets key recent mine e fin s1
  have h1 : InFaults s s1 := State.bump_inFaults s _ _ _ _
  clear_value s1 fin
  by_cases hf : fin = SelfTest.transient
  · rw [if_pos hf]; exact h1.trans ((State.transients_inFaults s1 _).trans (State.bump_inFaults _ _ _ _ _))
  · rw [if_neg hf]; exact h1.trans ((State.transients_inFaults s1 _).trans (State.bump_inFaults _ _ _ _ _))

/-- A counted detection (R570). -/
theorem State.countDet_inFaults (s : State) (elem : Nat) (f : FaultIn) : InFaults s (s.countDet elem f) := by
  unfold State.countDet
  exact InFaults.ite ((State.counted_inFaults s _).trans (State.detect_inFaults _ _)) (State.counted_inFaults s _)

theorem State.outRecord_inFaults (s : State) (inst : Nat) (r : Word) : InFaults s (s.outRecord inst r) := State.form_inFaults s _

/-- The containment of a fault whose self-test has ended (R399, R580, R582). -/
theorem State.contain_inFaults (s : State) (w : Window) (busy : Bool) : InFaults s (s.contain w busy) := by
  unfold State.contain
  refine (State.tests_inFaults s (s.tests.filter (fun (v : Window) => v.seq != w.seq))).trans ?_
  generalize ({ s with tests := s.tests.filter (fun (v : Window) => v.seq != w.seq) } : State) = u
  dsimp only
  cases u.ancestor 3 w.dom w.inst with
  | some key => exact InFaults.ite (((State.resolveRec_inFaults _ _ _ _).trans (State.bump_inFaults _ _ _ _ _)).trans (State.keepFault_inFaults _ _ _)) (InFaults.refl _)
  | none =>
    dsimp only
    cases u.window w.dom w.inst with
    | none => exact InFaults.ite (State.openWindow_inFaults _ _) (State.setWindows_inFaults _ _)
    | some v =>
      dsimp only
      refine (State.climb_inFaults 4 u w.cls w.dom w.inst v.seq w.seq).trans ?_
      generalize u.climb 4 w.cls w.dom w.inst v.seq w.seq = x
      cases x.ancestor 3 w.dom w.inst with
      | some key => exact InFaults.ite (State.keepFault_inFaults _ _ _) (InFaults.refl _)
      | none => exact InFaults.refl _

/-- The end of a fault's test (R627). -/
theorem State.settleFault_inFaults (s : State) (w : Window) (outcome : Nat) (repair : Word) : InFaults s (s.settleFault w outcome repair) := by
  unfold State.settleFault
  refine InFaults.ite (State.resolve_inFaults _ _ _ _ _) ((State.resolveRec_inFaults s w outcome repair).trans ?_)
  exact InFaults.ite (State.setWindows_inFaults _ _) (InFaults.ite (State.contain_inFaults _ _ _) (InFaults.refl _))

end Sys2Proof.Machine
end

