-- ==== Sys2Proof/Laws/Memory.lean ====
section
/-! SUPPORT. Every operation on memory keeps its canonical form; and what the shared accesses keep of a state: the queue of commands, and soundness
(the canonical forms of memory and control space, whole cached lines, the ring of the last records). -/

namespace Sys2Proof.Machine

/-! ### Groups that move to another name -/

/-- Keys of a group given another name (R452) stay in canonical form. -/
theorem sorted_moveKeys {α : Type} (c : α) (per g h : Nat) (t : Tab α) (hp : 0 < per) (ht : Tab.Sorted (fun _ => c) t) :
    Tab.Sorted (fun _ => c) (moveKeys per g h t) := by
  have hdiv : ∀ k m : Nat, k / per = m → m * per ≤ k ∧ k < (m + 1) * per := fun k m e => by
    subst e
    exact ⟨Nat.div_mul_le_self k per, by rw [Nat.add_mul, Nat.one_mul, Nat.mul_comm]; exact Nat.lt_mul_div_succ k hp |>.trans_eq (by ring)⟩
  have hapart : ∀ k : Nat, k / per ≠ h → h * per ≤ k → (h + 1) * per ≤ k := fun k e l => by
    by_contra hc
    exact e (Nat.div_eq_of_lt_le l (by omega))
  set rest := t.filter (fun e => e.1 / per != g && e.1 / per != h) with hrest
  have hr : Tab.Sorted (fun _ => c) rest := Tab.sorted_filter _ t _ ht
  have hm : Tab.Sorted (fun _ => c) ((t.filter (fun e => e.1 / per == g)).map (fun e => (e.1 - g * per + h * per, e.2))) := by
    refine ⟨?_, ?_⟩
    · rw [List.pairwise_map]
      refine List.Pairwise.imp_of_mem ?_ ((ht.1).filter _)
      intro p q hp' hq hlt
      have h1 := (hdiv p.1 g (by simpa using (List.mem_filter.1 hp').2)).1
      have h2 := (hdiv q.1 g (by simpa using (List.mem_filter.1 hq).2)).1
      show p.1 - g * per + h * per < q.1 - g * per + h * per
      omega
    · intro p hp'
      obtain ⟨q, hq, rfl⟩ := List.mem_map.1 hp'
      exact ht.2 q (List.mem_filter.1 hq).1
  have hlow : ∀ p ∈ rest.filter (fun e => decide (e.1 < h * per)), p.1 < h * per := fun p hp' => by simpa using (List.mem_filter.1 hp').2
  have hhigh : ∀ p ∈ rest.filter (fun e => decide (h * per ≤ e.1)), (h + 1) * per ≤ p.1 := fun p hp' => by
    have h1 : h * per ≤ p.1 := by simpa using (List.mem_filter.1 hp').2
    have h2 := (List.mem_filter.1 ((List.mem_filter.1 hp').1)).2
    exact hapart p.1 (by simp at h2; exact h2.2) h1
  have hmid : ∀ p ∈ (t.filter (fun e => e.1 / per == g)).map (fun e => (e.1 - g * per + h * per, e.2)), h * per ≤ p.1 ∧ p.1 < (h + 1) * per := fun p hp' => by
    obtain ⟨q, hq, rfl⟩ := List.mem_map.1 hp'
    have h1 := hdiv q.1 g (by simpa using (List.mem_filter.1 hq).2)
    rw [Nat.add_mul, Nat.one_mul] at h1 ⊢
    exact ⟨by simp, by show q.1 - g * per + h * per < h * per + per; omega⟩
  have hl := Tab.sorted_filter _ rest (fun e => decide (e.1 < h * per)) hr
  have hh := Tab.sorted_filter _ rest (fun e => decide (h * per ≤ e.1)) hr
  have hgrow : h * per ≤ (h + 1) * per := Nat.mul_le_mul_right _ (Nat.le_succ h)
  refine ⟨?_, ?_⟩
  · unfold moveKeys
    refine List.pairwise_append.2 ⟨List.pairwise_append.2 ⟨hl.1, hm.1, fun p hp' q hq => ?_⟩, hh.1, fun p hp' q hq => ?_⟩
    · exact lt_of_lt_of_le (hlow p hp') (hmid q hq).1
    · rcases List.mem_append.1 hp' with h1 | h1
      · exact lt_of_lt_of_le (hlow p h1) (hgrow.trans (hhigh q hq))
      · exact lt_of_lt_of_le (hmid p h1).2 (hhigh q hq)
  · intro p hp'
    unfold moveKeys at hp'
    rcases List.mem_append.1 hp' with h1 | h1
    · rcases List.mem_append.1 h1 with h2 | h2
      · exact hl.2 p h2
      · exact hm.2 p h2
    · exact hh.2 p h1

/-- Memory stays in canonical form when a group takes another name. -/
theorem wf_moveKeys (per g h : Nat) (m : Memory) (hp : 0 < per) (hm : Memory.wf m = true) : Memory.wf (moveKeys per g h m) = true :=
  (Tab.wf_iff _ _).2 (sorted_moveKeys 0 per g h m hp ((Tab.wf_iff _ _).1 hm))

/-- Memory stays in canonical form when a range reads zero again. -/
theorem wf_clearMem (m : Memory) (lo hi : Nat) (hm : Memory.wf m = true) : Memory.wf (m.clear lo hi) = true := Tab.wf_clear _ m lo hi hm

/-! ### What shared operations keep -/

/-- What every command keeps of a state: the queue of commands, and soundness. -/
structure Keeps (s t : State) : Prop where
  pending : t.pending = s.pending
  sound   : s.sound → t.sound

theorem Keeps.refl (s : State) : Keeps s s := ⟨rfl, id⟩

theorem Keeps.trans {s t u : State} (h : Keeps s t) (g : Keeps t u) : Keeps s u := ⟨g.pending.trans h.pending, fun x => g.sound (h.sound x)⟩

theorem Keeps.ite {s a b : State} {c : Prop} [Decidable c] (ha : Keeps s a) (hb : Keeps s b) : Keeps s (if c then a else b) := by
  split <;> assumption

theorem Keeps.foldl {α : Type} (f : State → α → State) (hf : ∀ x a, Keeps x (f x a)) (l : List α) (s : State) : Keeps s (l.foldl f s) := by
  induction l generalizing s with
  | nil => exact Keeps.refl s
  | cons a l ih => exact (hf s a).trans (ih (f s a))

/-- An operation whose answer may be a state keeps it. -/
def KeepsOk {ε : Type} (s : State) (x : Except ε State) : Prop := ∀ t, x = .ok t → Keeps s t

theorem KeepsOk.ok {ε : Type} {s t : State} (h : Keeps s t) : KeepsOk (ε := ε) s (.ok t) := fun u e => by cases e; exact h
theorem KeepsOk.error {ε : Type} (s : State) (e : ε) : KeepsOk s (.error e) := fun u h => by cases h
theorem KeepsOk.ite {ε : Type} {s : State} {a b : Except ε State} {c : Prop} [Decidable c] (ha : KeepsOk s a) (hb : KeepsOk s b) :
    KeepsOk s (if c then a else b) := by split <;> assumption
theorem KeepsOk.after {ε : Type} {s t : State} {x : Except ε State} (h : Keeps s t) (g : KeepsOk t x) : KeepsOk s x := fun u e => h.trans (g u e)

/-- Fault operations keep the queue and soundness. -/
theorem InFaults.keeps {s t : State} (h : InFaults s t) : Keeps s t := by
  have e := h.rest
  refine ⟨?_, fun x => ⟨?_, h.regs x.2.1, ?_, h.keep x.2.2.2⟩⟩
  · have h1 := congrArg State.pending e
    exact h1
  · have h1 := congrArg State.mem e
    dsimp only at h1
    rw [h1]; exact x.1
  · have h1 := congrArg State.dirLines e
    dsimp only at h1
    rw [h1]; exact x.2.2.1

/-- A write to a register keeps them. -/
theorem State.wr_keeps (s : State) (a : Nat) (v : Word) : Keeps s (s.wr a v) := (State.wr_inFaults s a v).keeps
theorem State.put_keeps (s : State) (a hi lo v : Nat) : Keeps s (s.put a hi lo v) := State.wr_keeps s a _
theorem State.bump_keeps (s : State) (a hi lo n : Nat) : Keeps s (s.bump a hi lo n) := State.wr_keeps s a _
theorem State.setTir_keeps (s : State) (g : Nat) (e : Word) : Keeps s (s.setTir g e) := State.wr_keeps s _ _

/-- Any change of memory that keeps its form. -/
theorem State.mem_keeps (s : State) (m : Memory) (h : Memory.wf s.mem = true → Memory.wf m = true) : Keeps s { s with mem := m } :=
  ⟨rfl, fun x => ⟨h x.1, x.2⟩⟩

/-- Any change of the directory that keeps its lines sound. -/
theorem State.dirLines_keeps (s : State) (d : Tab (Option Line)) (h : s.sound → linesSound d) : Keeps s { s with dirLines := d } :=
  ⟨rfl, fun x => ⟨x.1, x.2.1, h x, x.2.2.2⟩⟩

theorem State.poke_keeps (s : State) (a : Nat) (bs : List Byte) : Keeps s (s.poke a bs) := State.mem_keeps s _ (fun x => Tab.wf_setRun _ _ a bs x)
theorem State.clear_keeps (s : State) (lo hi : Nat) : Keeps s { s with mem := s.mem.clear lo hi } := State.mem_keeps s _ (wf_clearMem s.mem lo hi)
theorem State.setMark_keeps (s : State) (a : Nat) (m : Mark) : Keeps s (s.setMark a m) := ⟨rfl, fun x => x⟩
theorem State.setTag_keeps (s : State) (a : Nat) (t : Option Tag) : Keeps s (s.setTag a t) := ⟨rfl, fun x => x⟩
theorem State.pokeHost_keeps (s : State) (l a : Nat) (bs : List Byte) : Keeps s (s.pokeHost l a bs) := ⟨rfl, fun x => x⟩
theorem State.clearMarks_keeps (s : State) (a n : Nat) : Keeps s (s.clearMarks a n) := ⟨rfl, fun x => x⟩
theorem State.lr_keeps (s : State) (l : Tab Nat) : Keeps s { s with lr := l } := ⟨rfl, fun x => x⟩
theorem State.free_keeps (s : State) (n : Nat) : Keeps s { s with free := n } := ⟨rfl, fun x => x⟩

/-! ### Lines of the directory -/

theorem State.syncHeld_keeps (s : State) (a : Nat) : Keeps s (s.syncHeld a) := by
  unfold State.syncHeld
  cases region a <;> first | exact Keeps.refl s | exact State.setTir_keeps s _ _

/-- A directory entry set to a sound line, or dropped. -/
theorem State.setLine_keeps (s : State) (a : Nat) (l : Option Line) (hl : s.sound → ∀ x, l = some x → x.sound) : Keeps s (s.setLine a l) := by
  refine (State.dirLines_keeps s _ (fun x => ?_)).trans (State.syncHeld_keeps _ a)
  intro e he y hy
  rcases Tab.mem_set _ _ _ _ e he with h1 | h1
  · exact x.2.2.1 e h1 y hy
  · rw [h1.1] at hy; exact hl x y hy

theorem State.dropEntry_keeps (s : State) (a : Nat) : Keeps s (s.setLine a none) := State.setLine_keeps s a none (fun _ _ e => by cases e)

/-- A copy written back (R410, R426). -/
theorem State.writeBack_keeps (s : State) (a : Nat) (c : Copy) : Keeps s (s.writeBack a c) := by
  unfold State.writeBack
  dsimp only
  have h : Keeps s ((s.poke (a / 64 * 64) c.lineBytes).setMark (a / 64 * 64)
      (if c.poison then (if (s.poke (a / 64 * 64) c.lineBytes).isClassA (a / 64 * 64) then .badCrc else .poison) else .good)) :=
    (State.poke_keeps s _ _).trans (State.setMark_keeps _ _ _)
  cases region (a / 64 * 64) <;> first | exact h | skip
  cases s.hostAt (a / 64 * 64) with
  | error _ => exact Keeps.refl s
  | ok p => exact State.pokeHost_keeps s _ _ _

/-- An engine write takes a line's copies away (Table 13.3). -/
theorem State.dropLine_keeps (s : State) (a : Nat) (whole : Bool) : Keeps s (s.dropLine a whole) := by
  unfold State.dropLine
  cases s.line a with
  | none => exact Keeps.refl s
  | some l =>
    dsimp only
    have h : Keeps s (match l.dirty with
        | some c => if whole then s else s.writeBack a c
        | none => s) := by
      cases l.dirty with
      | none => exact Keeps.refl s
      | some c => exact Keeps.ite (Keeps.refl s) (State.writeBack_keeps s a c)
    exact (h.trans (State.dropEntry_keeps _ a)).trans (State.lr_keeps _ _)

theorem State.dropLines_keeps (s : State) (a n k : Nat) : Keeps s (s.dropLines a n k) := by
  induction k with
  | zero => exact Keeps.refl s
  | succ k ih => unfold State.dropLines; exact ih.trans (State.dropLine_keeps _ _ _)

/-- A write hint's install (R420). -/
theorem State.install_keeps (s : State) (w : List (Nat × Nat × Nat)) (l : Nat) : Keeps s (s.install w l) := by
  unfold State.install
  cases hintTarget w (64 * l) with
  | none => exact Keeps.refl s
  | some t =>
    refine Keeps.ite (Keeps.refl s) (Keeps.ite (State.bump_keeps s _ _ _ _) ?_)
    refine (State.setLine_keeps s _ _ (fun _ x e => ?_)).trans (State.bump_keeps _ _ _ _ _)
    cases e
    refine ⟨fun c hc => ?_, by simp, by simp, fun c hc ha => ?_⟩
    · rw [List.mem_singleton.1 hc]
      dsimp only
      cases region (64 * l) <;> first | (simp; done) | skip
      cases s.hostAt (64 * l) <;> simp
    · rw [List.mem_singleton.1 hc]

theorem State.installRange_keeps (s : State) (w : List (Nat × Nat × Nat)) (a n : Nat) : Keeps s (s.installRange w a n) :=
  Keeps.ite (Keeps.refl s) (Keeps.foldl _ (fun x _ => State.install_keeps x w _) _ s)

/-! ### Groups and writes -/

theorem State.placeHbm_keeps (s : State) (g n : Nat) (w : Wr) (pin : Nat) : Keeps s (s.placeHbm g n w pin) :=
  (State.setTir_keeps s _ _).trans (State.put_keeps _ _ _ _ _)

theorem State.placeDeep_keeps (s : State) (g : Nat) (w : Wr) (pin : Nat) : Keeps s (s.placeDeep g w pin) := State.setTir_keeps s _ _

/-- The placement of a first write (R448). -/
theorem State.placeGroup_keeps (s : State) (g : Nat) (w : Wr) : KeepsOk s (s.placeGroup g w) := by
  unfold State.placeGroup
  extract_lets s1 wantDeep pin miss
  have h1 : Keeps s s1 := Keeps.ite (State.bump_keeps s _ _ _ _) (Keeps.refl s)
  have hm : ∀ t, Keeps t (miss t) := fun t => Keeps.ite (Keeps.refl t) (State.bump_keeps t _ _ _ _)
  clear_value s1 miss
  refine KeepsOk.after h1 ?_
  cases s1.steered g with
  | some n =>
    exact KeepsOk.ok (Keeps.ite ((State.placeHbm_keeps s1 _ _ _ _).trans (hm _)) (State.placeHbm_keeps s1 _ _ _ _))
  | none =>
    refine KeepsOk.ite (KeepsOk.ite (KeepsOk.ok (State.placeDeep_keeps s1 _ _ _)) ?_) ?_
    · cases s1.hbmStack w with
      | none => exact KeepsOk.error _ _
      | some n => exact KeepsOk.ok ((State.placeHbm_keeps s1 _ _ _ _).trans (hm _))
    · cases s1.hbmStack w with
      | none => exact KeepsOk.ite (KeepsOk.ok ((State.placeDeep_keeps s1 _ _ _).trans (hm _))) (KeepsOk.error _ _)
      | some n => exact KeepsOk.ok (State.placeHbm_keeps s1 _ _ _ _)

theorem State.noRoom_keeps (s : State) : Keeps s s.noRoom := State.bump_keeps s _ _ _ _

theorem State.openGroup_keeps (s : State) (g : Nat) (w : Wr) : KeepsOk s (s.openGroup g w) := by
  unfold State.openGroup
  exact KeepsOk.ite (State.placeGroup_keeps s g w) (KeepsOk.ite (KeepsOk.ok (Keeps.refl s)) (KeepsOk.error _ _))

theorem State.openRange_keeps (w : Wr) (k : Nat) (s : State) (g : Nat) : KeepsOk s (s.openRange w g k) := by
  induction k generalizing s g with
  | zero => exact KeepsOk.ok (Keeps.refl s)
  | succ k ih =>
    unfold State.openRange
    have h := State.openGroup_keeps s g w
    cases e : s.openGroup g w with
    | error x => exact KeepsOk.error _ _
    | ok t => exact KeepsOk.after (h t e) (ih t _)

theorem State.recode_keeps (s : State) (g : Nat) (ks : List Nat) : Keeps s (s.recode g ks) := by
  unfold State.recode
  exact Keeps.ite ((((State.put_keeps s _ _ _ _).trans (State.setTir_keeps _ _ _)).trans (State.bump_keeps _ _ _ _ _)).trans (State.bump_keeps _ _ _ _ _))
    (Keeps.refl s)

theorem State.eachGroup_keeps (s : State) (a n : Nat) (f : State → Nat → State) (h : ∀ x g, Keeps x (f x g)) : Keeps s (s.eachGroup a n f) :=
  Keeps.foldl (fun s k => f s (groupOf a + k)) (fun x _ => h x _) _ s

theorem State.recodeRange_keeps (s : State) (a n : Nat) (told : Bool) : Keeps s (s.recodeRange a n told) :=
  State.eachGroup_keeps s a n _ (fun x g => State.recode_keeps x g _)

theorem State.markGroup_keeps (s : State) (a n g : Nat) : Keeps s (s.markGroup a n g) := by
  unfold State.markGroup
  exact Keeps.ite ⟨rfl, fun x => x⟩ (Keeps.refl s)

theorem State.markMoving_keeps (s : State) (a n : Nat) : Keeps s (s.markMoving a n) :=
  State.eachGroup_keeps s a n _ (fun x g => State.markGroup_keeps x a n g)

theorem State.mscCount_keeps (s : State) (a n : Nat) : Keeps s (s.mscCount a n) := by
  unfold State.mscCount
  cases region a <;> first
    | exact Keeps.refl s
    | exact Keeps.ite (((State.bump_keeps s _ _ _ _).trans (State.bump_keeps _ _ _ _ _)).trans (State.free_keeps _ _)) (Keeps.refl s)

/-- A write to host memory for a writer (R65). -/
theorem State.issueHost_keeps (s : State) (w : Wr) (link hpa : Nat) (dev : Bool) (bs : List Byte) : Keeps s (s.issueHost w link hpa dev bs) := by
  unfold State.issueHost
  cases w.owner <;> exact ⟨rfl, fun x => x⟩

/-- A write of an engine (R374, R415): it keeps the queue and soundness. -/
theorem State.writeMem_keeps (s : State) (w : Wr) (a : Nat) (bs : List Byte) : KeepsOk s (s.writeMem w a bs) := by
  unfold State.writeMem
  extract_lets n z
  refine KeepsOk.ite (KeepsOk.ok (Keeps.refl s)) (KeepsOk.ite (KeepsOk.error _ _) ?_)
  have hr := State.openRange_keeps w (groupOf z + 1 - groupOf a) s (groupOf a)
  have hm : ∀ t, s.openRange w (groupOf a) (groupOf z + 1 - groupOf a) = .ok t → KeepsOk (ε := Fail) s
      (.ok ((((((t.dropLines a n (z / 64 + 1 - a / 64)).poke a bs).clearMarks a n).markMoving a n).recodeRange a n true |>.mscCount a n).installRange w.wins a n)) :=
    fun t e => KeepsOk.ok (((((((hr t e).trans (State.dropLines_keeps t _ _ _)).trans (State.poke_keeps _ _ _)).trans (State.clearMarks_keeps _ _ _)).trans
      (State.markMoving_keeps _ _ _)).trans (State.recodeRange_keeps _ _ _ _)).trans (State.mscCount_keeps _ _ _) |>.trans (State.installRange_keeps _ _ _ _))
  cases region a with
  | hbm =>
    dsimp only
    cases e : s.openRange w (groupOf a) (groupOf z + 1 - groupOf a) with
    | error x => exact KeepsOk.error _ _
    | ok t => exact hm t e
  | deep =>
    dsimp only
    cases e : s.openRange w (groupOf a) (groupOf z + 1 - groupOf a) with
    | error x => exact KeepsOk.error _ _
    | ok t => exact hm t e
  | tile d b => exact KeepsOk.ok ((State.poke_keeps s _ _).trans (State.clearMarks_keeps _ _ _))
  | host =>
    dsimp only
    cases s.hostAt a with
    | error x => exact KeepsOk.error _ _
    | ok p => exact KeepsOk.ok (((State.dropLines_keeps s _ _ _).trans (State.issueHost_keeps _ _ _ _ _ _)).trans (State.installRange_keeps _ _ _ _))
  | _ => exact KeepsOk.error _ _

/-- A write of zeros, as one write. -/
theorem State.zeroMem_keeps (s : State) (w : Wr) (a n : Nat) : KeepsOk s (s.zeroMem w a n) := by
  unfold State.zeroMem
  extract_lets z
  refine KeepsOk.ite (KeepsOk.ok (Keeps.refl s)) (KeepsOk.ite (KeepsOk.error _ _) ?_)
  have hr := State.openRange_keeps w (groupOf z + 1 - groupOf a) s (groupOf a)
  have hd : ∀ t : State, Keeps t { t with dirLines := t.dirLines.clear ((a + 63) / 64) ((a + n) / 64) } := fun t =>
    State.dirLines_keeps t _ (fun x e he => x.2.2.1 e (List.mem_filter.1 he).1)
  have hf : ∀ t u : State, Keeps s t → u = ((t.dropLine a false).dropLine z false) → Keeps s
      ((((({ u with mem := u.mem.clear a (a + n) } : State).clearMarks a n).markMoving a n).recodeRange a n false |>.mscCount a n).installRange w.wins a n) :=
    fun t u h e => by
      subst e
      exact ((((((h.trans (State.dropLine_keeps t _ _)).trans (State.dropLine_keeps _ _ _)).trans (State.clear_keeps _ _ _)).trans (State.clearMarks_keeps _ _ _)).trans
        (State.markMoving_keeps _ _ _)).trans (State.recodeRange_keeps _ _ _ _)).trans (State.mscCount_keeps _ _ _) |>.trans (State.installRange_keeps _ _ _ _)
  cases region a with
  | hbm =>
    dsimp only
    cases e : s.openRange w (groupOf a) (groupOf z + 1 - groupOf a) with
    | error x => exact KeepsOk.error _ _
    | ok t => exact KeepsOk.ok (hf _ _ ((hr t e).trans (hd t)) rfl)
  | deep =>
    dsimp only
    cases e : s.openRange w (groupOf a) (groupOf z + 1 - groupOf a) with
    | error x => exact KeepsOk.error _ _
    | ok t => exact KeepsOk.ok (hf _ _ ((hr t e).trans (hd t)) rfl)
  | tile d b => exact KeepsOk.ok ((State.clear_keeps s _ _).trans (State.clearMarks_keeps _ _ _))
  | host => exact State.writeMem_keeps s w a _
  | _ => exact KeepsOk.error _ _

/-! ### Errors and records of accesses -/

theorem State.addrRecord_keeps (s : State) (a : Nat) (op : Option (Nat × Nat × Nat)) : Keeps s (s.addrRecord a op) :=
  ((State.bump_inFaults s _ _ _ _).trans (State.event_inFaults _ _ _ _)).keeps

theorem State.failRecord_keeps (s : State) (f : Fail) (a : Nat) (op : Option (Nat × Nat × Nat)) : Keeps s (s.failRecord f a op) := by
  cases f <;> first | exact Keeps.refl s | exact State.addrRecord_keeps s a op | exact (State.noRoom_keeps s).trans (State.addrRecord_keeps _ a op)

/-- Errors that a read finds (R390, R391, R393). -/
theorem State.unitError_keeps (s : State) (op : Option (Nat × Nat × Nat)) (a n : Nat) : Keeps s (s.unitError op a n) := by
  unfold State.unitError
  extract_lets e st m miss
  have h : Keeps s (if n = 0 ∨ !bit e 63 then s
      else if bit e 61 then s.setMark a .badCrc
      else
        match (if bit e 62 then (false, s) else if n = 1 then s.takeInj (Reg.hbcInj st) 1 (s.pcOf a)
          else if n = 4 then s.takeInj (Reg.hbcInj st) 2 (s.pcOf a) else (false, s)) with
        | (inj, s) =>
          let f : FaultIn := { cls := 2, sev := 1, rtype := 0, det := 0x20, inj := inj, dom := 2, inst := s.memInst a, addr := a / 64 * 64, op := op,
                               info := s.memInfo a }
          if m ≤ 3 then
            (if bit e 62 then s else s.bump (Reg.hbcErrcnt st) 63 48 1).detect f
          else if miss then
            let s := s.poke (a / 64 * 64) ((List.range 64).map (fun i => Config.freeByte s.free (a / 64 * 64 + i)))
            (({ s with free := s.free + 1 } : State).setMark a .good).detect f
          else
            let s := if bit e 62 then s else (s.bump (Reg.hbcErrcnt st) 47 32 1).bump (Reg.hbcErrcnt st) 15 0 1
            (s.setMark a .poison).detect { f with det := 0x21, sev := 2 }) := by
    refine Keeps.ite (Keeps.refl s) (Keeps.ite (State.setMark_keeps s _ _) ?_)
    have hp : Keeps s (if bit e 62 then (false, s) else if n = 1 then s.takeInj (Reg.hbcInj st) 1 (s.pcOf a)
        else if n = 4 then s.takeInj (Reg.hbcInj st) 2 (s.pcOf a) else (false, s)).2 := by
      split
      · exact Keeps.refl s
      · split
        · exact (State.takeInj_inFaults s _ _ _).keeps
        · split
          · exact (State.takeInj_inFaults s _ _ _).keeps
          · exact Keeps.refl s
    generalize (if bit e 62 then (false, s) else if n = 1 then s.takeInj (Reg.hbcInj st) 1 (s.pcOf a)
        else if n = 4 then s.takeInj (Reg.hbcInj st) 2 (s.pcOf a) else (false, s)) = p at hp
    obtain ⟨inj, t⟩ := p
    dsimp -zeta only
    extract_lets f t1 t2
    refine hp.trans (Keeps.ite ((Keeps.ite (Keeps.refl _) (State.bump_keeps _ _ _ _ _)).trans (State.detect_inFaults _ _).keeps)
      (Keeps.ite ?_ ?_))
    · exact (((State.poke_keeps t _ _).trans (State.free_keeps _ _)).trans (State.setMark_keeps _ _ _)).trans (State.detect_inFaults _ _).keeps
    · exact ((Keeps.ite (Keeps.refl t) ((State.bump_keeps t _ _ _ _).trans (State.bump_keeps _ _ _ _ _))).trans (State.setMark_keeps _ _ _)).trans
        (State.detect_inFaults _ _).keeps
  cases region a <;> first | exact h | exact Keeps.refl s

theorem State.unitErrors_keeps (s : State) (op : Option (Nat × Nat × Nat)) (es : List (Nat × Nat)) : Keeps s (s.unitErrors op es) := by
  induction es generalizing s with
  | nil => exact Keeps.refl s
  | cons p es ih => unfold State.unitErrors; exact (State.unitError_keeps s op _ _).trans (ih _)

/-- The record of a read that fails (R49, R620, R631). -/
theorem State.readRecord_keeps (s : State) (f : Fail) (a : Nat) (op : Option (Nat × Nat × Nat)) (told : Bool) : Keeps s (s.readRecord f a op told) := by
  unfold State.readRecord
  cases f with
  | data => exact Keeps.ite (Keeps.refl s) (State.event_inFaults s _ _ _).keeps
  | classA => exact (InFaults.ite (State.bump_inFaults s _ _ _ _) (State.bump_inFaults s _ _ _ _)).keeps.trans (State.detect_inFaults _ _).keeps
  | _ => exact State.failRecord_keeps s _ a op

/-- An atomic (R377 to R379). -/
theorem State.atomicAt_keeps (s : State) (a n : Nat) (flt : Bool) (f : Nat → Nat) (w : Option (Nat × Nat × Nat)) (old : Nat) (t : State)
    (h : s.atomicAt a n flt f w = .ok (old, t)) :
    Keeps s t := by
  unfold State.atomicAt at h
  cases hr : s.readMem a n with
  | error e => rw [hr] at h; cases e <;> cases h
  | ok bs =>
    rw [hr] at h
    dsimp only at h
    generalize hx : s.writeMem _ a _ = x at h
    have hw : KeepsOk s x := hx ▸ State.writeMem_keeps s _ a _
    cases x with
    | error x => cases h
    | ok u =>
      dsimp only at h
      cases h
      exact ((hw u rfl).trans (State.bump_keeps u _ _ _ _)).trans (State.bump_keeps _ _ _ _ _)

end Sys2Proof.Machine
end

