-- ==== Sys2Proof/Laws/Operands.lean ====
section
/-! SUPPORT. The writes of objects, tiles, lines and side data keep the queue of commands and soundness: the shared operations of Operands. -/

namespace Sys2Proof.Machine

theorem KeepsOk.bind {ε α : Type} {s : State} {x : Except ε α} {f : α → Except ε State} (h : ∀ a, x = .ok a → KeepsOk s (f a)) : KeepsOk s (x >>= f) := by
  intro u e
  cases x with
  | error _ => cases e
  | ok a => exact h a rfl u e

theorem State.writeRuns_keeps (w : Wr) (rs : List (Nat × Nat)) (s : State) (bs : List Byte) : KeepsOk s (s.writeRuns w bs rs) := by
  induction rs generalizing s bs with
  | nil => exact KeepsOk.ok (Keeps.refl s)
  | cons r rs ih =>
    unfold State.writeRuns
    have h := State.writeMem_keeps s w r.1 (bs.take r.2)
    cases e : s.writeMem w r.1 (bs.take r.2) with
    | error x => exact KeepsOk.error _ _
    | ok t => exact KeepsOk.after (h t e) (ih t _)

/-- A write to an object, through its groups. -/
theorem State.writeObj_keeps (s : State) (w : Wr) (o : Obj) (x : Nat) (bs : List Byte) : KeepsOk s (s.writeObj w o x bs) := State.writeRuns_keeps w _ s bs

theorem State.zeroRuns_keeps (w : Wr) (rs : List (Nat × Nat)) (s : State) : KeepsOk s (s.zeroRuns w rs) := by
  induction rs generalizing s with
  | nil => exact KeepsOk.ok (Keeps.refl s)
  | cons r rs ih =>
    unfold State.zeroRuns
    have h := State.zeroMem_keeps s w r.1 r.2
    cases e : s.zeroMem w r.1 r.2 with
    | error x => exact KeepsOk.error _ _
    | ok t => exact KeepsOk.after (h t e) (ih t)

theorem State.zeroObj_keeps (s : State) (w : Wr) (o : Obj) (x n : Nat) : KeepsOk s (s.zeroObj w o x n) := State.zeroRuns_keeps w _ s

theorem State.putBytes_keeps (s : State) (a : Nat) (bs : List Byte) : Keeps s (s.putBytes a bs) := by
  unfold State.putBytes
  cases region a <;> first | exact State.poke_keeps s _ _ | skip
  cases s.hostAt a with
  | error _ => exact Keeps.refl s
  | ok p => exact State.pokeHost_keeps s _ _ _

theorem State.putRuns_keeps (rs : List (Nat × Nat)) (s : State) (bs : List Byte) : Keeps s (s.putRuns bs rs) := by
  induction rs generalizing s bs with
  | nil => exact Keeps.refl s
  | cons r rs ih => unfold State.putRuns; exact (State.putBytes_keeps s _ _).trans (ih _ _)

theorem State.putObj_keeps (s : State) (o : Obj) (x : Nat) (bs : List Byte) : Keeps s (s.putObj o x bs) := State.putRuns_keeps _ s bs

theorem State.putSides_keeps (o : Obj) (x : Nat) (ks : List (Nat × Nat)) (s : State) : Keeps s (s.putSides o x ks) := by
  induction ks generalizing s with
  | nil => exact Keeps.refl s
  | cons k ks ih => unfold State.putSides; exact (State.putObj_keeps s _ _ _).trans (ih _)

theorem State.putLines_keeps (o : Obj) (x : Nat) (ls : List (List Nat)) (l : Nat) (s : State) : Keeps s (s.putLines o x l ls) := by
  induction ls generalizing s l with
  | nil => exact Keeps.refl s
  | cons k ks ih => unfold State.putLines; exact (State.putObj_keeps s _ _ _).trans (ih _ _)

theorem State.recodeRuns_keeps (rs : List (Nat × Nat)) (s : State) : Keeps s (s.recodeRuns rs) := by
  induction rs generalizing s with
  | nil => exact Keeps.refl s
  | cons r rs ih =>
    unfold State.recodeRuns
    extract_lets s1
    have h : Keeps s s1 := by
      subst s1
      cases region r.1 <;> first | exact State.recodeRange_keeps s _ _ _ | exact Keeps.refl s
    clear_value s1
    exact h.trans (ih s1)

/-- A whole tile written with its tag (R58, R114). -/
theorem State.writeTile_keeps (s : State) (w : Wr) (wr : Writer) (o : Obj) (p r c : Nat) (t : TileOut) : KeepsOk s (s.writeTile w wr o p r c t) := by
  unfold State.writeTile
  extract_lets x
  refine KeepsOk.ite ?_ ?_
  · exact KeepsOk.bind (fun u e => KeepsOk.ok ((State.writeObj_keeps s w o x _ u e).trans (State.setTag_keeps u _ _)))
  · apply KeepsOk.bind
    intro u e
    have h0 : Keeps s u := State.zeroObj_keeps s _ o x _ u e
    clear e
    extract_lets s1 s2
    have h1 : Keeps s s1 := (h0.trans (State.putLines_keeps o x _ 0 u)).trans (State.putSides_keeps o x t.sides _)
    clear_value s1
    have h2 : Keeps s s2 := h1.trans (Keeps.foldl (fun (y : State) (e : Nat × Nat) => y.installRange w.wins e.1 e.2)
      (fun y e => State.installRange_keeps y w.wins e.1 e.2) _ s1)
    clear_value s2
    exact KeepsOk.ok ((h2.trans (State.setTag_keeps s2 _ _)).trans (State.recodeRuns_keeps _ _))

/-- The covered elements of one line (R46). -/
theorem State.writeLine_keeps (s : State) (w : Wr) (o : Obj) (x l : Nat) (col : Bool) (cov : Nat → Nat → Bool) (cs : List Nat) :
    KeepsOk s (s.writeLine w o x l col cov cs) := by
  unfold State.writeLine
  extract_lets here ks
  cases ks.head? <;> cases ks.getLast? <;> first | exact KeepsOk.ok (Keeps.refl s) | exact State.writeObj_keeps s w o _ _

theorem State.writeLines_keeps (w : Wr) (o : Obj) (x : Nat) (cov : Nat → Nat → Bool) (ls : List (List Nat)) (l : Nat) (s : State) :
    KeepsOk s (s.writeLines w o x cov l ls) := by
  induction ls generalizing s l with
  | nil => exact KeepsOk.ok (Keeps.refl s)
  | cons k ks ih =>
    unfold State.writeLines
    have h := State.writeLine_keeps s w o x l (colAxis o.fmt) cov k
    cases e : s.writeLine w o x l (colAxis o.fmt) cov k with
    | error y => exact KeepsOk.error _ _
    | ok t => exact KeepsOk.after (h t e) (ih _ t)

theorem State.writeSides_keeps (w : Wr) (o : Obj) (x : Nat) (ks : List (Nat × Nat)) (s : State) : KeepsOk s (s.writeSides w o x ks) := by
  induction ks generalizing s with
  | nil => exact KeepsOk.ok (Keeps.refl s)
  | cons k ks ih =>
    unfold State.writeSides
    have h := State.writeObj_keeps s w o (x + sideAt o.fmt k.1) (bytesOf (fmtSide o.fmt) k.2)
    cases e : s.writeObj w o (x + sideAt o.fmt k.1) (bytesOf (fmtSide o.fmt) k.2) with
    | error y => exact KeepsOk.error _ _
    | ok t => exact KeepsOk.after (h t e) (ih t)

theorem State.zeroTails_keeps (w : Wr) (o : Obj) (x len l : Nat) (s : State) : KeepsOk s (s.zeroTails w o x len l) := by
  induction l generalizing s with
  | zero => exact KeepsOk.ok (Keeps.refl s)
  | succ l ih =>
    unfold State.zeroTails
    extract_lets n
    have h := State.zeroObj_keeps s w o (x + 16 * fmtWidth o.fmt * l + n) (16 * fmtWidth o.fmt - n)
    cases e : s.zeroObj w o (x + 16 * fmtWidth o.fmt * l + n) (16 * fmtWidth o.fmt - n) with
    | error y => exact KeepsOk.error _ _
    | ok t => exact KeepsOk.after (h t e) (ih t)

theorem State.zeroInvalid_keeps (s : State) (w : Wr) (o : Obj) (x nl len : Nat) : KeepsOk s (s.zeroInvalid w o x nl len) := by
  unfold State.zeroInvalid
  dsimp only
  refine KeepsOk.ite (KeepsOk.bind (fun u e => ?_)) (KeepsOk.bind (fun u e => ?_))
  · exact KeepsOk.after (State.zeroTails_keeps w o x len nl s u e) (State.zeroObj_keeps u w o _ _)
  · cases e; exact State.zeroObj_keeps s w o _ _

/-- The covered part of a tile written with its tag. -/
theorem State.writePart_keeps (s : State) (w : Wr) (wr : Writer) (o : Obj) (p r c : Nat) (cov : Nat → Nat → Bool) (t : TileOut) :
    KeepsOk s (s.writePart w wr o p r c cov t) := by
  unfold State.writePart
  extract_lets x lines jp
  have hj : ∀ u, KeepsOk u (jp u) := fun u =>
    KeepsOk.bind (fun v e => KeepsOk.ok ((State.writeSides_keeps w o x _ u v e).trans (State.setTag_keeps v _ _)))
  refine KeepsOk.ite (KeepsOk.bind (fun u e => KeepsOk.after (State.writeLine_keeps s w o x 0 true cov _ u e) (hj u))) ?_
  refine KeepsOk.bind (fun u e => KeepsOk.after (State.writeLines_keeps w o x cov lines 0 s u e) ?_)
  exact KeepsOk.bind (fun v e => KeepsOk.after (State.zeroInvalid_keeps u w o x _ _ v e) (hj v))

/-- The record of a histogram (R131). -/
theorem State.writeHist_keeps (s : State) (w : Wr) (o : Obj) (k ctx obj : Nat) (h : Tab Nat) : KeepsOk s (s.writeHist w o k ctx obj h) :=
  State.writeObj_keeps s w o _ _

/-- The watch notes detections alone (R135). -/
theorem State.watchTile_keeps (s : State) (o : OpRec) (unit : Nat) (d : Obj) (p r c sslot : Nat) (cov : Nat → Nat → Bool) (x : Nat → Nat → Elt)
    (t : TileOut) : Keeps s (s.watchTile o unit d p r c sslot cov x t) := ⟨rfl, fun y => y⟩

end Sys2Proof.Machine
end

