-- ==== Sys2Proof/Laws/Program.lean ====
section
/-! SUPPORT. The operations that every op shares (messages of the ports, the life of ops and queues, the work of pieces) keep the queue of commands
and soundness. -/

namespace Sys2Proof.Machine

theorem State.putBit_keeps (s : State) (a i : Nat) (b : Bool) : Keeps s (s.putBit a i b) := State.wr_keeps s a _

/-! ### Messages -/

theorem State.setPseq_keeps (s : State) (k v : Nat) : Keeps s (s.setPseq k v) := ⟨rfl, fun y => y⟩

/-- A block sent (R532, R533). -/
theorem State.sendBlock_keeps (s : State) (port typ : Nat) (b : Block) : Keeps s (s.sendBlock port typ b) := by
  unfold State.sendBlock
  extract_lets n ask b2 s1 s2
  have h2 : Keeps s s2 := (State.setPseq_keeps s _ _).trans (Keeps.ite (State.setPseq_keeps s1 _ _) (Keeps.refl s1))
  clear_value s2
  exact h2.trans ⟨rfl, fun y => y⟩

theorem State.sendTurn_keeps (typ dst : Nat) (ports : List Nat) (bs : List Block) (s : State) : Keeps s (s.sendTurn typ dst ports bs) := by
  induction bs generalizing s with
  | nil => exact Keeps.refl s
  | cons b bs ih => unfold State.sendTurn; exact ((State.setPseq_keeps s _ _).trans (State.sendBlock_keeps _ _ _ _)).trans (ih _)

theorem State.sendMsg_keeps (s : State) (typ dst : Nat) (tag : BitVec 256) (extra : List Nat) (bs : List Byte) : Keeps s (s.sendMsg typ dst tag extra bs) := by
  unfold State.sendMsg
  cases s.routePorts dst with
  | nil => exact Keeps.refl s
  | cons p ps => exact State.sendTurn_keeps typ dst _ _ s

theorem State.sendNotes_keeps (typ : Nat) (tag : BitVec 256) (as : List Nat) (s : State) : Keeps s (s.sendNotes typ tag as) := by
  induction as generalizing s with
  | nil => exact Keeps.refl s
  | cons a as ih => unfold State.sendNotes; exact (State.sendMsg_keeps s _ _ _ _ _).trans (ih _)

/-- An abandonment (R355). -/
theorem State.abandon_keeps (s : State) (o : OpRec) : Keeps s (s.abandon o) := by
  unfold State.abandon
  have h := State.sendNotes_keeps 4 (wide [(0, o.castKey)]) o.partners s
  generalize s.sendNotes 4 (wide [(0, o.castKey)]) o.partners = t at h
  exact h.trans ⟨rfl, fun y => y⟩

/-! ### Queues and records -/

theorem State.mapOp_keeps (s : State) (q sn : Nat) (f : OpRec → OpRec) : Keeps s (s.mapOp q sn f) := ⟨rfl, fun y => y⟩
theorem State.ops_keeps (s : State) (os : List OpRec) : Keeps s { s with ops := os } := ⟨rfl, fun y => y⟩
theorem State.pieces_keeps (s : State) (ps : List PieceRec) : Keeps s { s with pieces := ps } := ⟨rfl, fun y => y⟩
theorem State.journal_keeps (s : State) (os : List OpRec) : Keeps s { s with journal := os } := ⟨rfl, fun y => y⟩
theorem State.seqs_keeps (s : State) (xs : List SeqRec) : Keeps s { s with seqs := xs } := ⟨rfl, fun y => y⟩

theorem State.syncQ_keeps (s : State) (q : Nat) : Keeps s (s.syncQ q) := (State.putBit_keeps s _ _ _).trans (State.putBit_keeps _ _ _ _)

/-- A queue halts (R62). -/
theorem State.haltOn_keeps (s : State) (q sn status : Nat) : Keeps s (s.haltOn q sn status) := by
  unfold State.haltOn
  extract_lets was held s1
  have h1 : Keeps s s1 := State.putBit_keeps s _ _ _
  clear_value s1
  exact h1.trans (Keeps.ite (State.wr_keeps s1 _ _) (Keeps.refl s1))

theorem State.ringFails_keeps (s : State) (q sn status : Nat) : Keeps s (s.ringFails q sn status) :=
  (State.haltOn_keeps s q sn status).trans (State.putBit_keeps _ _ _ _)

theorem State.retireMb_keeps (s : State) (ctx mb : Nat) : Keeps s (s.retireMb ctx mb) := by
  unfold State.retireMb
  extract_lets b t all
  exact Keeps.ite (Keeps.refl s) ⟨rfl, fun y => y⟩

theorem State.noteDeps_keeps (s : State) : Keeps s s.noteDeps := State.ops_keeps s _
theorem State.freshen_keeps (s : State) : Keeps s s.freshen := ⟨rfl, fun y => y⟩

/-- Retirement (R60). -/
theorem State.retireOps_keeps (q k : Nat) (s : State) : Keeps s (s.retireOps q k) := by
  induction k generalizing s with
  | zero => exact Keeps.refl s
  | succ k ih =>
    unfold State.retireOps
    dsimp only
    cases s.op? q (s.fld (Reg.qdone q) 31 0) with
    | none => exact Keeps.refl s
    | some o => exact Keeps.ite (((State.ops_keeps s _).trans (State.put_keeps _ _ _ _ _)).trans (ih _)) (Keeps.refl s)

/-! ### Sequences of REDUCE_ACC -/

theorem State.syncSeq_keeps (s : State) : Keeps s s.syncSeq := State.put_keeps s _ _ _ _

theorem State.seqJoin_keeps (s : State) (o : OpRec) (t : State) (h : s.seqJoin o = some t) : Keeps s t := by
  unfold State.seqJoin at h
  split at h
  · cases h; exact Keeps.refl s
  · split at h
    · cases h; exact State.seqs_keeps s _
    · split at h
      · cases h; exact (State.seqs_keeps s _).trans (State.syncSeq_keeps _)
      · cases h

theorem State.poisonTile_keeps (s : State) (o : OpRec) (d : Obj) (p r c : Nat) : Keeps s (s.poisonTile o d p r c) := by
  unfold State.poisonTile
  extract_lets a s1
  have h1 : Keeps s s1 := State.bump_keeps s _ _ _ _
  clear_value s1
  exact h1.trans (Keeps.ite (State.setTag_keeps s1 _ _) (Keeps.foldl _ (fun x _ => State.setMark_keeps x _ _) _ s1))

theorem State.poisonTiles_keeps (o : OpRec) (d : Obj) (ts : List Nat) (s : State) : Keeps s (s.poisonTiles o d ts) := by
  induction ts generalizing s with
  | nil => exact Keeps.refl s
  | cons t ts ih => unfold State.poisonTiles; exact (State.poisonTile_keeps s o d _ _ _).trans (ih _)

/-- The end of a contribution (R384). -/
theorem State.seqEnd_keeps (s : State) (o : OpRec) : Keeps s (s.seqEnd o) := by
  unfold State.seqEnd
  cases o.obj 3 with
  | none => exact Keeps.refl s
  | some d =>
    dsimp only
    have hj := State.seqJoin_keeps s o
    cases e : s.seqJoin o with
    | none => exact Keeps.refl s
    | some t =>
      have h := hj t e
      clear hj e
      dsimp -zeta only
      cases t.seqs.find? (fun x => x.has o) with
      | none => exact h
      | some x =>
        exact ((h.trans (State.poisonTiles_keeps o d _ t)).trans (State.seqs_keeps _ _)).trans (State.syncSeq_keeps _)

/-! ### The end of an op -/

/-- Bytes of a result left unspecified (R62, R131). -/
theorem State.loosen_keeps (rs : List (Nat × Nat)) (s : State) : Keeps s (s.loosen rs) := by
  induction rs generalizing s with
  | nil => exact Keeps.refl s
  | cons r rs ih => unfold State.loosen; exact (Keeps.ite (State.putBytes_keeps s _ _) (Keeps.refl s)).trans (ih _)

theorem State.looseResults_keeps (o : OpRec) (xs : List (Nat × Obj)) (s : State) : Keeps s (s.looseResults o xs) := by
  induction xs generalizing s with
  | nil => exact State.free_keeps s _
  | cons x xs ih =>
    obtain ⟨r, x⟩ := x
    unfold State.looseResults
    generalize o.span r x = p
    exact (Keeps.ite (State.loosen_keeps _ s) (Keeps.refl s)).trans (ih _)

/-- An op ends (R54, R62, R63). -/
theorem State.endOp_keeps (s : State) (q sn status detail : Nat) : Keeps s (s.endOp q sn status detail) := by
  unfold State.endOp
  cases s.op? q sn with
  | none => exact Keeps.refl s
  | some o =>
    dsimp -zeta only
    refine Keeps.ite (Keeps.refl s) ?_
    extract_lets b begun e s1 s2 s2' s2'' s3 s4 s5 s6 s7 s8
    have h1 : Keeps s s1 := State.mapOp_keeps s _ _ _
    clear_value s1
    have h2 : Keeps s s2 := h1.trans ⟨rfl, fun y => y⟩
    clear_value s2
    have h2' : Keeps s s2' := h2.trans ⟨rfl, fun y => y⟩
    clear_value s2'
    have h2'' : Keeps s s2'' := h2'.trans (Keeps.ite ⟨rfl, fun y => y⟩ (Keeps.refl s2'))
    clear_value s2''
    have h3 : Keeps s s3 := h2''.trans (Keeps.ite (State.looseResults_keeps o o.objs s2'') (Keeps.refl s2''))
    clear_value s3
    have h4 : Keeps s s4 := h3.trans (Keeps.ite (State.retireMb_keeps s3 _ _) (Keeps.refl s3))
    clear_value s4
    have h5 : Keeps s s5 := h4.trans (Keeps.ite (State.seqEnd_keeps s4 _) (Keeps.refl s4))
    clear_value s5
    have h6 : Keeps s s6 := h5.trans (Keeps.ite (State.bump_keeps s5 _ _ _ _) (Keeps.refl s5))
    clear_value s6
    have h7 : Keeps s s7 := h6.trans (Keeps.ite (State.abandon_keeps s6 o) (Keeps.refl s6))
    clear_value s7
    have h8 : Keeps s s8 := h7.trans (Keeps.ite (State.haltOn_keeps s7 _ _ _) (Keeps.refl s7))
    clear_value s8
    exact ((h8.trans (State.freshen_keeps s8)).trans (State.noteDeps_keeps _)).trans (State.syncQ_keeps _ q)

theorem State.putHist_keeps (s : State) (o : OpRec) (h d : Obj) : KeepsOk s (s.putHist o h d) := State.writeHist_keeps s _ _ _ _ _ _

/-- An op whose work is done ends, its histogram written (R131). -/
theorem State.finish_keeps (s : State) (o : OpRec) : Keeps s (s.finish o) := by
  unfold State.finish
  cases o.failing with
  | some f => exact State.endOp_keeps s _ _ _ _
  | none =>
    dsimp only
    generalize (if o.units = 0 ∨ o.d.noData = true then (stZero, 0) else o.goodStatus) = p
    cases o.obj 6 with
    | none => exact State.endOp_keeps s _ _ _ _
    | some h =>
      cases o.main with
      | none => exact State.endOp_keeps s _ _ _ _
      | some d =>
        dsimp only
        cases e : s.putHist o h d with
        | ok t => exact (State.putHist_keeps s o h d t e).trans (State.endOp_keeps t _ _ _ _)
        | error f => exact (State.failRecord_keeps s _ _ _).trans (State.endOp_keeps _ _ _ _ _)

theorem State.finishAll_keeps (os : List OpRec) (s : State) : Keeps s (s.finishAll os) := by
  induction os generalizing s with
  | nil => exact Keeps.refl s
  | cons o os ih =>
    unfold State.finishAll
    refine Keeps.trans ?_ (ih _)
    cases s.op? o.q o.s with
    | none => exact Keeps.refl s
    | some o => exact Keeps.ite (State.finish_keeps s o) (Keeps.refl s)

theorem State.settle_keeps (s : State) : Keeps s s.settle := State.finishAll_keeps _ s

/-! ### Failures -/

/-- The record of a failure after the first (R64). -/
theorem State.otherFailure_keeps (s : State) (o : OpRec) (status : Nat) : Keeps s (s.otherFailure o status) := by
  unfold State.otherFailure
  extract_lets cls
  exact Keeps.ite (Keeps.refl s) (State.form_inFaults s _).keeps

/-- An op meets a failure (R62 to R64). -/
theorem State.markFail_keeps (s : State) (q sn status detail : Nat) : Keeps s (s.markFail q sn status detail) := by
  unfold State.markFail
  cases s.op? q sn with
  | none => exact Keeps.refl s
  | some o =>
    dsimp only
    cases o.phase with
    | ended => exact Keeps.refl s
    | taken => exact State.endOp_keeps s _ _ _ _
    | started => exact Keeps.ite (State.otherFailure_keeps s o status) ((State.mapOp_keeps s _ _ _).trans (State.pieces_keeps _ _))

theorem State.failOp_keeps (s : State) (q sn status detail : Nat) : Keeps s (s.failOp q sn status detail) :=
  (State.markFail_keeps s q sn status detail).trans (State.settle_keeps _)

/-- A piece's counts enter the op's histogram record (R225). -/
theorem State.addHist_keeps (s : State) (q sn : Nat) (add : Tab Nat) : Keeps s (s.addHist q sn add) := by
  unfold State.addHist
  cases s.op? q sn with
  | none => exact Keeps.refl s
  | some o =>
    dsimp only
    cases o.obj 6 with
    | none => exact Keeps.refl s
    | some h =>
      cases o.main with
      | none => exact Keeps.refl s
      | some d =>
        dsimp only
        generalize ht : s.mapOp q sn _ = s1
        have h1 : Keeps s s1 := ht ▸ State.mapOp_keeps s _ _ _
        refine Keeps.ite h1 ?_
        cases e : s1.putHist _ h d with
        | ok t => exact h1.trans (State.putHist_keeps s1 _ h d t e)
        | error f => exact h1.trans ((State.failRecord_keeps s1 _ _ _).trans (State.markFail_keeps _ _ _ _ _))

/-- Ops that depend on failed ones fail (R59). -/
theorem State.depFail_keeps (gone : List (Nat × Nat)) (os : List OpRec) (s : State) : Keeps s (s.depFail gone os) := by
  induction os generalizing s with
  | nil => exact Keeps.refl s
  | cons o os ih =>
    unfold State.depFail
    exact (Keeps.ite (Keeps.refl s) (Keeps.ite (State.failOp_keeps s _ _ _ _) (Keeps.ite (State.failOp_keeps s _ _ _ _) (Keeps.refl s)))).trans (ih _)

theorem State.releaseOnce_keeps (s : State) (q : Nat) : Keeps s (s.releaseOnce q) := by
  unfold State.releaseOnce
  extract_lets gone s1
  have h1 : Keeps s s1 := State.ops_keeps s _
  clear_value s1
  exact h1.trans (State.depFail_keeps gone s1.ops s1)

theorem State.release_keeps (s : State) (q : Nat) : Keeps s (s.release q) :=
  (State.releaseOnce_keeps s q).trans (State.retireOps_keeps q _ _)

theorem State.releaseAll_keeps (q k : Nat) (s : State) : Keeps s (s.releaseAll q k) := by
  induction k generalizing s with
  | zero => exact Keeps.refl s
  | succ k ih =>
    unfold State.releaseAll
    exact (State.releaseOnce_keeps s q).trans (Keeps.ite (State.retireOps_keeps q _ _) (ih _))

/-! ### Starting, and the work of pieces -/

theorem State.startOp_keeps (s : State) (o : OpRec) : Keeps s (s.startOp o) := State.mapOp_keeps s _ _ _

theorem State.beginOp_keeps (s : State) (q sn : Nat) : Keeps s (s.beginOp q sn) := State.mapOp_keeps s _ _ _

theorem State.startIdle_keeps (s : State) (o : OpRec) (status : Nat) : Keeps s (s.startIdle o status) := by
  unfold State.startIdle
  extract_lets s1
  have h1 : Keeps s s1 := (State.startOp_keeps s o).trans (State.beginOp_keeps _ _ _)
  clear_value s1
  refine h1.trans ?_
  cases o.obj 6 with
  | none => exact State.endOp_keeps s1 _ _ _ _
  | some h =>
    cases o.main with
    | none => exact State.endOp_keeps s1 _ _ _ _
    | some d =>
      dsimp only
      have hw := State.writeHist_keeps s1 (o.wr h false) h (o.aux.get (fun _ => 0) 201) o.ctx d.id []
      cases e : s1.writeHist (o.wr h false) h (o.aux.get (fun _ => 0) 201) o.ctx d.id [] with
      | ok t => exact (hw t e).trans (State.endOp_keeps t _ _ _ _)
      | error f => exact (State.failRecord_keeps s1 _ _ _).trans (State.endOp_keeps _ _ _ _ _)

/-- Work that fails (R62, R391). -/
theorem State.workFails_keeps (s : State) (o : OpRec) (unit : Nat) (w : WorkFail) : Keeps s (s.workFails o unit w) := by
  unfold State.workFails
  have h : ∀ f, Keeps s (((if f = .trans ∧ o.failing.isSome = true then (s.failRecord f w.addr (some (o.q, o.s, o.ctx))).addrRecord w.addr (some (o.q, o.s, o.ctx))
      else s.failRecord f w.addr (some (o.q, o.s, o.ctx))).pieceFails o.q o.s unit).failOp o.q o.s (failStatus f w.slot).1 (failStatus f w.slot).2) := fun f =>
    (((State.failRecord_keeps s f _ _).trans (Keeps.ite (State.addrRecord_keeps _ _ _) (Keeps.refl _))).trans (State.pieces_keeps _ _)).trans
      (State.failOp_keeps _ _ _ _ _)
  cases w.fail with
  | classA => exact Keeps.refl s
  | wait => exact Keeps.refl s
  | addr => exact h _
  | trans => exact h _
  | room => exact h _
  | data => exact h _
  | lost l => exact h _

theorem State.putOp_keeps (s : State) (o : OpRec) : Keeps s (s.putOp o) := State.mapOp_keeps s _ _ _
theorem State.pieceDid_keeps (s : State) (q sn u : Nat) : Keeps s (s.pieceDid q sn u) := State.pieces_keeps s _

theorem State.pieceCount_keeps (s : State) (q sn unit u : Nat) (add : Tab Nat) : Keeps s (s.pieceCount q sn unit u add) := State.pieces_keeps s _

/-- The work units of a piece, where each unit's work keeps the queue and soundness. -/
theorem State.perform_keeps (q sn unit : Nat) (f : OpRec → State → Nat → Except WorkFail (OpRec × State))
    (hf : ∀ o t u o2 t2, f o t u = .ok (o2, t2) → Keeps t t2) (n u : Nat) (s : State) : Keeps s (s.perform q sn unit f u n) := by
  induction n generalizing s u with
  | zero => exact Keeps.refl s
  | succ n ih =>
    unfold State.perform
    cases s.opAny q sn with
    | none => exact Keeps.refl s
    | some o =>
      dsimp only
      have h := hf { s.view unit o with hist := [] } s u
      cases e : f { s.view unit o with hist := [] } s u with
      | error w => exact State.workFails_keeps s o unit w
      | ok p =>
        obtain ⟨o2, t⟩ := p
        exact ((((h o2 t e).trans (State.putOp_keeps t _)).trans (State.pieceDid_keeps _ _ _ _)).trans (State.pieceCount_keeps _ _ _ _ _ _)).trans (ih _ _)

/-- A work command, where its use of the detectors and each unit's work keep them. -/
theorem State.workOn_keeps (s : State) (meet : State → State × Bool) (cls op q sn unit first n : Nat)
    (f : OpRec → State → Nat → Except WorkFail (OpRec × State)) (hm : Keeps s (meet s).1)
    (hf : ∀ o t u o2 t2, f o t u = .ok (o2, t2) → Keeps t t2) : Keeps s (s.workOn meet cls op q sn unit first n f) := by
  unfold State.workOn
  cases s.worker cls op q sn unit first n with
  | none => exact Keeps.refl s
  | some _ =>
    dsimp only
    generalize meet s = p at hm
    obtain ⟨t, b⟩ := p
    cases b with
    | true => exact hm
    | false => exact hm.trans (State.perform_keeps q sn unit f hf n first t)

theorem State.journalAdd_keeps (s : State) (o : OpRec) (d : Obj) : Keeps s (s.journalAdd o d) := by
  unfold State.journalAdd
  exact Keeps.ite (State.journal_keeps s _) (Keeps.refl s)

theorem State.wroteTile_keeps (s : State) (o : OpRec) (d : Obj) (p r c : Nat) : Keeps s (s.wroteTile o d p r c).2 := State.journalAdd_keeps s _ d

/-! ### Units that leave service -/

/-- The pieces of an op move from a unit that leaves service, or the op fails (R85, R583). -/
theorem State.rehomeOp_keeps (s : State) (u : Nat) (gone : List Lost) (o : OpRec) : Keeps s (s.rehomeOp u gone o) := by
  unfold State.rehomeOp
  extract_lets mine here lost again miss undone s1 open_ t us readers s3 s4
  refine Keeps.ite (Keeps.refl s) (Keeps.ite (State.pieces_keeps s _) ?_)
  have h1 : Keeps s s1 := Keeps.ite (State.bump_keeps s _ _ _ _) (Keeps.refl s)
  have h3 : Keeps s s3 := State.pieces_keeps s _
  clear_value s1 s3
  have ht : Keeps s t := h1.trans (State.mapOp_keeps s1 _ _ _)
  have h4 : Keeps s s4 := h3.trans (Keeps.foldl (fun (s : State) (r : Nat × Nat × Nat) => s.failOp r.1 r.2.1 stEngineFault u)
    (fun x r => State.failOp_keeps x _ _ _ _) readers s3)
  clear_value t s4
  cases (if s.pieces.any (fun p => here p && p.unit == u) then s.destOf o u else some (fun p => p.unit)) with
  | some f => exact ht.trans (State.pieces_keeps t _)
  | none => exact h4.trans (State.failOp_keeps s4 _ _ _ _)

theorem State.rehomeAll_keeps (u : Nat) (gone : List Lost) (os : List OpRec) (s : State) : Keeps s (s.rehomeAll u gone os) := by
  induction os generalizing s with
  | nil => exact Keeps.refl s
  | cons o os ih => unfold State.rehomeAll; exact (State.rehomeOp_keeps s u gone o).trans (ih _)

theorem State.unitOutWith_keeps (s : State) (u : Nat) (drop : TileEntry → Bool) : Keeps s (s.unitOutWith u drop) := by
  unfold State.unitOutWith
  extract_lets s1 inQ wait gone t1 t2
  have h1 : Keeps s s1 := (State.putBit_keeps s _ _ _).trans (State.putBit_keeps _ _ _ _)
  clear_value s1
  have h2 : Keeps s t1 := h1.trans ⟨rfl, fun y => y⟩
  clear_value t1
  have h3 : Keeps s t2 := h2.trans (State.rehomeAll_keeps u gone _ t1)
  clear_value t2
  refine h3.trans (Keeps.trans ?_ (State.settle_keeps _))
  exact ⟨rfl, fun y => y⟩

theorem State.unitOut_keeps (s : State) (u : Nat) : Keeps s (s.unitOut u) := State.unitOutWith_keeps s u _

theorem State.unitBack_keeps (s : State) (u : Nat) : Keeps s (s.unitBack u) := (State.putBit_keeps s _ _ _).trans (State.putBit_keeps _ _ _ _)

end Sys2Proof.Machine
end

