-- ==== Sys2Proof/Tests/Slice0.lean ====
section
/-! SUPPORT. Tests: an ill-formed term for each check of WellFormed, and small states that meet the hypotheses of each statement, clause by clause. -/

namespace Sys2Proof.Tests

open Sys2Proof Sys2Proof.Machine

-- One theorem after the other: each evaluation takes a stack of its own.
set_option Elab.async false

/-! ### Helpers -/

/-- The state that an outcome answers. -/
def nxt (o : Outcome) : State :=
  match o with
  | .next s => s
  | _ => State.reset

/-- Does a write go well? -/
def well {ε α : Type} (e : Except ε α) : Bool :=
  match e with
  | .ok _ => true
  | .error _ => false

/-- The machine right after reset, taken to READY. -/
def ready : State := State.reset.put Reg.rscStat 2 0 5

/-- READY with all 16 stacks of HBM in use and group 0 ASSIGNED to HBM. -/
def stocked : State := (ready.put Reg.hbcCap 10 0 512).wr (Reg.tirMap 0) (word [(63, 1)])

/-- READY with queue 3 enabled and RUNNING. -/
def queue3 : State := stocked.put (Reg.qctl 3) 0 0 1

/-- A descriptor from fields. -/
def desc (cls op : Nat) (fs : List (Nat × Nat)) : Desc :=
  BitVec.ofNat 512 (((60, cls) :: (52, op) :: fs).foldl (fun n f => n + f.2 * 2 ^ f.1) 0)

/-- An object of one tile at an address: 128 × 128 elements of a format. -/
def objAt (fmt pclass a : Nat) : Obj := ⟨9, 0, 0, fmt, pclass, 2, 128, 128, 1, 1, 0, .linear a⟩

/-- An op of queue 3 with serial 5. -/
def opOf (d : Desc) (objs : List (Nat × Obj)) (phase : Phase) : OpRec :=
  { q := 3, s := 5, ctx := 0, d := d, objs := objs, objs2 := [], recs := [], members := [], windows := [], num := 0, phase := phase, depBeat := none,
    startB := 0, endB := 0, beats := 0, reads := [], failing := none, status := 0, detail := 0, slips := 0, replays := 0, replayA := false,
    replayB := false, late := false, units := 1, noWork := false, done := [], tiles := [], hist := [], aux := [],
    taken := 0, begun := false, split := [], att := none, attOpen := [], attParts := [], record := .none, gone := false }

/-- A started ELTWISE of one unit. -/
def eltOp : OpRec := opOf (desc 2 0 []) [] .started

/-- The kind of a unit: the first number of its kind (Table 3.2). -/
def kindOf (unit : Nat) : Nat :=
  if unit < 16 then 0 else if unit < 32 then 16 else if unit < 36 then 32 else if unit < 40 then 36 else if unit < 56 then 40
  else if unit < 152 then 56 else if unit < 184 then 152 else unit

/-- The part of an op that its first work unit is, on a kind of unit. -/
def partOn (kind : Nat) : Part := ⟨kind, 0, 0, 1, 0, 0, []⟩

/-- A piece of that op on a unit, over its first work unit. -/
def pieceOn (unit : Nat) (phase : PiecePhase) : PieceRec :=
  { q := 3, s := 5, idx := 0, unit := unit, vxe := unit % 16, part := partOn (kindOf unit), cost := 1, earliest := 0, planned := 0, atCommit := 0, cyc := 1500,
    startB := 0, staged := [], lower := false, pos := [], hist := [], failed := false, did := [], dets := [], depth := 0, reader := none, phase := phase }

/-- READY with one op. -/
def withOp (o : OpRec) : State := { queue3 with ops := [o] }

/-- READY with one op that runs on a unit. -/
def atWork (o : OpRec) (unit : Nat) : State := { (withOp o) with pieces := [pieceOn unit .running] }

/-- A descriptor's fields for an extent of one element. -/
def oneElt : List (Nat × Nat) := [(352, 1), (320, 1), (416, 1)]

/-- An address in tile store 0. -/
def inStore (a : Nat) : Nat := 0x080000000000 + a

/-- An FP32 vector of one element in tile store 0. -/
def cell (a : Nat) : Obj := ⟨9, 0, 0, fFP32, 2, 1, 1, 1, 1, 1, 0, .linear (inStore a)⟩

/-! ### Ill-formed commands -/

theorem test_ill_agent : wellFormed (.go (.hl 2)) = false := by decide
theorem test_ill_address : wellFormed (.registerWrite .rig (2 ^ 64) 8 0) = false := by decide
theorem test_ill_width : wellFormed (.registerWrite .rig 0 2 0) = false := by decide
theorem test_ill_core_width : wellFormed (.coreRead 0 0 9) = false := by decide
theorem test_ill_queue : wellFormed (.enSet 1024) = false := by decide
theorem test_ill_serial : wellFormed (.opStart 0 (2 ^ 32)) = false := by decide
theorem test_ill_unit : wellFormed (.rangeAck 256) = false := by decide
theorem test_ill_direction : wellFormed (.piecePlan 0 0 [⟨56, 2, 0, 1, 0, 0, []⟩] 0 0) = false := by decide
theorem test_ill_mailbox : wellFormed (.getInfo .rig 2 0) = false := by decide
theorem test_ill_watch_slot : wellFormed (.trippedClear .rig 8) = false := by decide
theorem test_ill_operand_slot : wellFormed (.completionTimeout 0 0 0 4) = false := by decide
theorem test_ill_mxe : wellFormed (.columnError 16 0 0) = false := by decide
theorem test_ill_quad : wellFormed (.columnError 0 4 0) = false := by decide
theorem test_ill_vxe : wellFormed (.epilogue 16) = false := by decide
theorem test_ill_asq : wellFormed (.asqError 4 3) = false := by decide
theorem test_ill_die : wellFormed (.stemError 4 0) = false := by decide
theorem test_ill_uu : wellFormed (.uuError 16 0) = false := by decide
theorem test_ill_injection_unit : wellFormed (.mscInjOneBit .rig 17) = false := by decide
theorem test_ill_core_group : wellFormed (.rigCdinjDirectory .rig 8) = false := by decide
theorem test_ill_port : wellFormed (.portTraining 96) = false := by decide
theorem test_ill_link : wellFormed (.perstHigh 2) = false := by decide
theorem test_ill_bundle : wellFormed (.strandFlitCrc 32 0 0) = false := by decide
theorem test_ill_lane : wellFormed (.strandFlitCrc 0 0 36) = false := by decide
theorem test_ill_slice : wellFormed (.mscEcc 17 0 0 0 false false) = false := by decide
theorem test_ill_stack : wellFormed (.channelDrained 16 0) = false := by decide
theorem test_ill_channel : wellFormed (.channelDrained 0 16) = false := by decide
theorem test_ill_core : wellFormed (.deadAgent 64) = false := by decide
theorem test_ill_cache : wellFormed (.eviction 65 0 false) = false := by decide
theorem test_ill_rigging_core : wellFormed (.coreWatchdog 8) = false := by decide
theorem test_ill_group : wellFormed (.migrationSwitch (2 ^ 20)) = false := by decide
theorem test_ill_bias_entry : wellFormed (.map .rig 65536) = false := by decide
theorem test_ill_cascade_address : wellFormed (.route 0 4096 1) = false := by decide
theorem test_ill_mezzanine : wellFormed (.mzloss 2) = false := by decide
theorem test_ill_cage : wellFormed (.cagePresence 8 0 true) = false := by decide
theorem test_ill_cage_pin : wellFormed (.cagePresence 0 3 true) = false := by decide
theorem test_ill_i3c_address : wellFormed (.setdasa 128) = false := by decide

/-! ### Hypotheses met: the machine as a whole -/

theorem test_reset_is_sound : State.reset.sound := ⟨by decide, by decide, (fun _ h => nomatch h), by decide, (fun _ h => nomatch h)⟩
theorem test_step_idles : step State.reset = .next State.reset := rfl
theorem test_step_takes_the_front : (nxt (step { ready with pending := [.enClear 0, .enSet 1] })).pending = [.enSet 1] := by decide
theorem test_field_write_field : (ready.put (Reg.qctl 1023) 63 63 1).fld (Reg.qctl 1023) 63 63 = 1 := by decide
theorem test_memory_is_canonical : Memory.wf (ready.poke 0 [0, 7]).mem = true := by decide
theorem test_move_sends_nothing : sender (.go .move) = some .move := by decide
theorem test_injection_other_agent : (injectionOf (.fltInjOffset (.hl 1) 0)).any (fun i => i.ag != .rig) = true := by decide
theorem test_injection_rig : (injectionOf (.mxeAccinjTwoBits .rig 15 3)).any (fun i => i.ag == .rig && i.ok) = true := by decide

/-! ### Hypotheses met: queues -/

theorem test_doorbell_fits : queue3.enabled 3 = true ∧ queue3.flushing 3 = false ∧ 64 ≤ queue3.ringEntries 3 := by decide
theorem test_doorbell_full_ring : (nxt (exec (.doorbell 3 64#32) queue3)).fld (Reg.qtail 3) 31 0 = 64 := by decide
theorem test_doorbell_beyond_ring : (nxt (exec (.doorbell 3 65#32) queue3)).flag (Reg.qstat 3) 2 = true := by decide
theorem test_enable_checked : ready.enabled 1023 = false ∧ ready.flushing 1023 = false ∧ ready.queueOk 1023 = true := by decide
theorem test_enable_failing : (ready.put (Reg.qbase 3) 3 0 15).enabled 3 = false ∧ (ready.put (Reg.qbase 3) 3 0 15).queueOk 3 = false := by decide
theorem test_enable_twice : queue3.enabled 3 = true := by decide
theorem test_flush_idle_queue : queue3.flushing 3 = false := by decide
theorem test_flush_done : (queue3.putBit (Reg.qstat 3) 5 true).flushDone 3 = true := by decide
theorem test_resume_halted : (queue3.putBit (Reg.qstat 3) 1 true).qHalted 3 = true ∧ (queue3.putBit (Reg.qstat 3) 1 true).flushing 3 = false := by decide
theorem test_take_in_may : (queue3.put (Reg.qtail 3) 31 0 1).mayTake 3 = true := by decide
theorem test_take_in_reads : well ((queue3.put (Reg.qtail 3) 31 0 1).readWords ((queue3.put (Reg.qtail 3) 31 0 1).slotAddr 3 0) 8) = true := by decide
theorem test_take_in_bad_slot : well (({ queue3 with marks := [(0, .poison)] } : State).readWords 0 8) = false := by decide

/-! ### Hypotheses met: ops -/

theorem test_op_starts : (withOp (opOf (desc 2 0 []) [] .taken)).startable (opOf (desc 2 0 []) [] .taken) = true ∧
    (withOp (opOf (desc 2 0 []) [] .taken)).depStarts (opOf (desc 2 0 []) [] .taken) 0 = true := by decide +kernel

theorem test_collective_starts : (desc 7 0x40 []).collective = true ∧
    ((withOp (opOf (desc 7 0x40 []) [] .taken)).setAlign 1).startable (opOf (desc 7 0x40 []) [] .taken) = true := by decide +kernel

/-- An op whose dependencies were satisfied in beat 0, in beat 1. -/
def pastDeps (cls op : Nat) (none : Bool) : OpRec := { (opOf (desc cls op []) [] .taken) with depBeat := some 0, noWork := none }

/-- The same in beat 1. -/
def beatOne (o : OpRec) : State := (withOp o).wr Reg.beatNow 1

theorem test_wait_starts : (beatOne (pastDeps 0 1 false)).op? 3 5 = some (pastDeps 0 1 false) ∧
    (beatOne (pastDeps 0 1 false)).startable (pastDeps 0 1 false) = true ∧ (beatOne (pastDeps 0 1 false)).depPast (pastDeps 0 1 false) = true ∧
    (beatOne (pastDeps 0 1 false)).depsOk (pastDeps 0 1 false) = true := by decide +kernel

theorem test_nop_starts : (nxt (exec (.nop 3 5) (beatOne (pastDeps 0 0 true)))).ops.map OpRec.status = [stOk] := by decide +kernel
theorem test_no_work_starts : (nxt (exec (.opStart 3 5) (beatOne (pastDeps 2 0 true)))).ops.map OpRec.status = [stZero] := by decide +kernel

theorem test_op_held : (withOp eltOp).op? eltOp.q eltOp.s = some eltOp ∧ eltOp.phase = .started ∧ eltOp.d.cascade = false ∧ eltOp.d.cls ≠ 7 := by
  decide +kernel

/-- A started WAIT on the word at address 0: its threshold and its limit. -/
def poll (threshold limit : Nat) : OpRec := opOf (desc 0 1 [(448, threshold), (352, limit)]) [(0, objAt 0 2 0)] .started

theorem test_wait_reads : (poll 0 0).d.cls = 0 ∧ (poll 0 0).d.op = 1 ∧ (poll 0 0).obj 0 = some (objAt 0 2 0) ∧
    well ((withOp (poll 0 0)).tagCheck ((withOp (poll 0 0)).reader (poll 0 0)) (objAt 0 2 0) 0 0 0) = true ∧
    well ((withOp (poll 0 0)).readObj (objAt 0 2 0) 0 8) = true := by decide +kernel
theorem test_wait_meets : (nxt (exec (.waitRead 3 5 []) (withOp (poll 0 0)))).ops.map OpRec.status = [stOk] := by decide +kernel
theorem test_wait_times_out : (nxt (exec (.waitRead 3 5 []) (withOp (poll 1 0)))).ops.map OpRec.status = [stWaitTimeout] := by decide +kernel
theorem test_wait_goes_on : (nxt (exec (.waitRead 3 5 []) (withOp (poll 1 1)))).ops.map OpRec.phase = [.started] ∧
    (nxt (exec (.waitRead 3 5 []) (withOp (poll 1 0xFFFFFFFF)))).ops.map OpRec.phase = [.started] := by decide +kernel

/-- An op whose record is ready and next, on a ring at address 0 in HBM. -/
def recordReady : State :=
  { (withOp { (opOf (desc 2 0 []) [] .ended) with record := .ready }) with ready := [(3, 5)] }

theorem test_record_ready : (recordReady.ready.filter (fun r => r.1 == 3)).head? = some (3, 5) ∧ recordReady.recFail.contains 3 = false ∧
    recordReady.crUsed 3 ≠ recordReady.crEntries 3 := by decide +kernel
theorem test_record_written : (nxt (exec (.completionRecord 3 5) recordReady)).fld (Reg.qcrptr 3) 31 0 = 1 := by decide +kernel
theorem test_idle_op_ends : (beatOne (pastDeps 0 0 true)).startable (pastDeps 0 0 true) = true ∧ (beatOne (pastDeps 0 0 true)).depPast (pastDeps 0 0 true) = true ∧
    (beatOne (pastDeps 0 0 true)).depsOk (pastDeps 0 0 true) = true ∧ (pastDeps 0 0 true).obj 6 = none ∧ (pastDeps 2 0 true).obj 6 = none ∧
    (pastDeps 2 0 true).d.cascade = false ∧ (nxt (exec (.opStart 3 5) (beatOne (pastDeps 2 0 true)))).ops.map OpRec.beats = [1] := by decide +kernel

/-- A WAIT of one beat, two beats after it began, on a class A word whose unit is bad. -/
def badPoll : State :=
  { (withOp { (opOf (desc 0 1 [(448, 1), (352, 1)]) [(0, { objAt fUINT8 1 (inStore 0) with d0 := 1, d1 := 1 })] .started) with startB := 0 }).wr Reg.beatNow 2 with
    marks := [(inStore 0 / 64, .badCrc)] }

theorem test_wait_meets_a_detection : badPoll.ops.all (fun o => badPoll.waitOver o &&
    well (badPoll.tagCheck (badPoll.reader o) { objAt fUINT8 1 (inStore 0) with d0 := 1, d1 := 1 } 0 0 0) &&
    match badPoll.readObj { objAt fUINT8 1 (inStore 0) with d0 := 1, d1 := 1 } 0 8 with
    | .error .classA => true
    | _ => false) = true ∧ (nxt (exec (.waitRead 3 5 []) badPoll)).ops.map OpRec.status = [stWaitTimeout] := by decide +kernel

/-! ### Hypotheses met: pieces and beats -/

/-- A started ELTWISE of one element, with its objects. -/
def cellOp (phase : Phase) : OpRec := opOf (desc 2 0 oneElt) [(0, cell 0), (3, cell 512)] phase

/-- READY with VXE 0 in service and that op. -/
def cellState : State := (withOp (cellOp .started)).putBit (Reg.vxeStat 0) 1 true

/-- The op as it is planned for. -/
def cutOp : OpRec := { (cellOp .started) with split := [partOn 16] }

theorem test_piece_plans : cellState.op? 3 5 = some (cellOp .started) ∧ cutOp.split[0]? = some (partOn 16) ∧ cellState.rebaseNow = false ∧
    cellState.plannable cutOp = true ∧ cellState.cutPiece cutOp 0 = none ∧ cellState.cutOk cutOp = true ∧ cellState.kindDead cutOp 16 = false ∧
    (cellState.mapOp 3 5 (fun y => { y with split := cutOp.split })).inputBeat cutOp (some (partOn 16)) = some 0 ∧
    (cellState.mapOp 3 5 (fun y => { y with split := cutOp.split })).overPlanned ⟨cutOp, 0, 16, 0⟩ = false := by decide +kernel
theorem test_piece_fits : cellState.unitFits cutOp (partOn 16) 16 = true ∧ cellState.hintLets cutOp (partOn 16) 16 0 = true ∧
    cellState.planClass cutOp 0 < 3 ∧ (cellState.planFigures cutOp (partOn 16) 16 0).1 ≤ cellState.capacity 16 := by decide +kernel
theorem test_piece_planned : (nxt (exec (.piecePlan 3 5 [partOn 16] 0 16) cellState)).pieces.map PieceRec.unit = [16] := by decide +kernel

/-- The same with a piece on VXE 0. -/
def pieced (phase : PiecePhase) : State := { cellState with pieces := [pieceOn 16 phase] }

theorem test_piece_commits : (pieced .planned).withinHorizon 0 = true ∧ (pieced .planned).unitIn 16 = true ∧ (pieced .planned).unitOpen (pieceOn 16 .planned) = true ∧
    (nxt (exec (.pieceCommit 3 5 0) (pieced .planned))).pieces.map PieceRec.phase = [.committed] := by decide +kernel
theorem test_piece_starts : (pieced .committed).couldStart (cellOp .started) (pieceOn 16 .committed) = true ∧
    (pieced .committed).unitFree (cellOp .started) (pieceOn 16 .committed) = true ∧ (pieced .committed).firstInLine (pieceOn 16 .committed) = true ∧
    (pieced .committed).vxeOk (cellOp .started) (pieceOn 16 .committed) 0 = true ∧
    ((pieced .committed).readFirst (cellOp .started) (pieceOn 16 .committed)).2 = true := by decide +kernel
theorem test_piece_started : (nxt (exec (.pieceStart 3 5 0 [] 0) (pieced .committed))).flag (Reg.vxeStat 0) 0 = true := by decide +kernel
theorem test_piece_ends : (pieced .running).noProgress (pieceOn 16 .running) = false ∧
    ({ (pieced .running) with ops := [{ (cellOp .started) with done := [0] }] } : State).pieceDone { (cellOp .started) with done := [0] }
      { (pieceOn 16 .running) with did := [0] } = true := by decide +kernel
theorem test_piece_ended : (nxt (exec (.pieceEnd 3 5 0 7 false false)
    { (pieced .running) with ops := [{ (cellOp .started) with done := [0] }], pieces := [{ (pieceOn 16 .running) with did := [0] }] })).fld
    (Reg.vxeBusycyc 0) 63 0 = 7 := by decide +kernel

/-- A MATMUL whose piece on MXE 0 reads an operand in HBM. -/
def stagedOp : OpRec := opOf (desc 1 0 oneElt) [(0, objAt fBF16 2 0), (1, objAt fBF16 2 32768), (3, cell 512)] .started
def stagedState : State := { (withOp stagedOp) with pieces := [{ (pieceOn 0 .committed) with part := ⟨0, 0, 0, 0, 0, 0, [⟨0, 0, 0, 0, 1, 0, 1, 0, 1⟩]⟩ }] }

theorem test_staging_may : unitDie 0 = some 0 ∧ (stagedOp.stageRoles ⟨0, 0, 0, 0, 0, 0, [⟨0, 0, 0, 0, 1, 0, 1, 0, 1⟩]⟩).contains 0 = true ∧
    stagedState.pieces.all (fun p => stagedOp.atWork p && stagedState.operandReady stagedOp p.part 0 (objAt fBF16 2 0) &&
      ((stagedState.operandPlaces stagedOp p.part 0).filterMap id).all (· == 0)) = true := by decide +kernel
theorem test_piece_stages : (nxt (exec (.staging 3 5 0 0 []) stagedState)).pieces.map PieceRec.staged = [[0]] := by decide +kernel

/-! ### Hypotheses met: mailboxes -/

theorem test_mailbox_takes : ready.flag (Reg.mbxStat 0) 0 = false := by decide
theorem test_mailbox_one_takes : (ready.put Reg.cdstat 1 0 0).fld Reg.cdstat 1 0 = 0 ∧ (ready.put Reg.cdstat 1 0 0).flag (Reg.mbxStat 1) 0 = false := by decide
theorem test_mailbox_busy : (ready.putBit (Reg.mbxStat 0) 0 true).flag (Reg.mbxStat 0) 0 = true := by decide
theorem test_sliplim_bounds : (ready.wr (Reg.mbxArg 0 0) 65535).mbArg 0 0 63 0 = 65535 ∧ (ready.wr (Reg.mbxArg 0 0) 65536).mbArg 0 0 63 0 = 65536 ∧
    ready.mbArg 0 0 63 0 = 0 := by decide
theorem test_margin_bounds : (ready.wr (Reg.mbxArg 0 0) 500).mbArg 0 0 63 0 = 500 ∧ (ready.wr (Reg.mbxArg 0 0) 501).mbArg 0 0 63 0 = 501 := by decide
theorem test_pipeline_valid : (ready.wr (Reg.mbxArg 0 1) (word [(48, 4096), (32, 4095), (0, 2048)])).mbArg 0 1 63 48 = 4096 ∧
    (ready.putBit (Reg.mbxStat 0) 0 true).ctxBusy 0 = false := by decide
theorem test_plan_read : well (stocked.writeMem (.plain 0) 0 []) = true ∧ inMemRegions 0 1 = true ∧ stocked.mbArg 0 2 63 0 ≤ 2 ^ 24 := by decide
theorem test_plan_writes : (nxt (exec (.readPlan .rig 0 1) ((atWork eltOp 16).wr (Reg.mbxArg 0 2) 16))).mailbox = [⟨0, 1, mbDone, 1⟩] := by decide +kernel
theorem test_mailbox_responds : (nxt (exec (.mailboxResponse 0) { (ready.putBit (Reg.mbxStat 0) 0 true) with mailbox := [⟨0, 1, mbDone, 0⟩] })).mailbox = [] := by
  decide

/-! ### Hypotheses met: work -/

/-- Is an op of a class and operation at work on a unit a worker there? -/
def works (cls op unit : Nat) : Bool := ((atWork (opOf (desc cls op oneElt) [(0, cell 0), (3, cell 512)] .started) unit).worker cls op 3 5 unit 0 1).isSome

theorem test_vector_workers : [(2, 0), (2, 1), (2, 2), (2, 3), (2, 4), (2, 5), (2, 6), (2, 7), (2, 8), (6, 1), (6, 0)].all (fun x =>
    works x.1 x.2 16 && works x.1 x.2 31) = true := by decide +kernel
theorem test_other_workers : (works 3 2 32 && works 3 2 35 && works 6 0 152 && works 6 0 255 && works 6 2 255) = true := by decide +kernel
theorem test_detectors_quiet : queue3.meetVxe 15 [1, 2, 3, 4] = (queue3, false) ∧ queue3.meetQuad 15 3 true = (queue3, false) ∧ queue3.meetAsq 3 = (queue3, false) ∧
    queue3.meetStem 3 = (queue3, false) := by decide +kernel
theorem test_raw_copy : (opOf (desc 6 0 oneElt) [(0, cell 0), (3, cell 512)] .started).rawCopy = true ∧
    (opOf (desc 6 0 oneElt) [(0, cell 0), (3, objAt 0x02 2 512)] .started).rawCopy = false := by decide +kernel
theorem test_place_works : ((atWork (opOf (desc 6 2 []) [] .started) 255).perform 3 5 255 placeUnit 0 1).ops.map (fun p => p.aux.get (fun _ => 0) 207) = [0] := by
  decide +kernel

/-- A FILL of one element with 1.0. -/
def fillOp : OpRec := opOf (desc 6 1 ((480, 0x3F800000) :: oneElt)) [(3, cell 512)] .started

theorem test_unit_is_done : ((atWork fillOp 16).perform 3 5 16 (fillUnit 16) 0 1).ops.map (fun o => (o.done, o.failing)) = [([0], none)] := by decide +kernel
theorem test_fill_writes : (nxt (exec (.fill 3 5 16 0 1) (atWork fillOp 16))).byte (inStore 515) = 0x3F := by decide +kernel

/-- An APPLY without results at work on UU 15. -/
def applyState : State := (atWork (opOf (desc 8 0 oneElt) [] .started) 55).putBit (Reg.uuStat 15) 1 true

theorem test_apply_works : applyState.flag (Reg.uuStat 15) 1 = true ∧ (applyState.worker 8 0 3 5 55 0 1).isSome = true ∧
    (applyState.ops.all (fun o => ((applyState.bringBlocks o 15 0 1).worker 8 0 3 5 55 0 1).isSome && !((applyState.bringBlocks o 15 0 1).meetApply 3 5 55 0 1).2)) =
      true := by decide +kernel

/-- One group of rows of one pass, and a part that is that run. -/
def runPart (kind : Nat) : Part := ⟨kind, 0, 0, 0, 0, 0, [⟨0, 0, 0, 0, 1, 0, 1, 0, 1⟩]⟩

/-- An object of one element in tile store 0. -/
def one (fmt a : Nat) : Obj := ⟨9, 0, 0, fmt, 2, 2, 1, 1, 1, 1, 0, .linear (inStore a)⟩

/-- A CONV_FWD that reads object 9 under a dependency on serial 4, and plane 0 of that object resident on C1. -/
def mapReader : OpRec := opOf (desc 4 0 [(127, 1), (116, 3), (64, 4)]) [(0, objAt 1 0 0), (1, objAt 1 0 0), (3, objAt 1 0 0)] .started
def mapState : State := { ((withOp mapReader).putBit (Reg.mxeStat 0) 1 true).putBit (Reg.mxeStat 4) 1 true with resident := [⟨0, 9, 0, 3, 4, [1]⟩] }
theorem test_resident_plane_binds : mapState.residentHold mapReader (runPart 0) 0 = true ∧ mapState.residentHold mapReader (runPart 0) 4 = false := by decide +kernel
theorem test_resident_plane_released : (mapState.endOp 3 5 0 0).resident = [] := by decide +kernel
theorem test_beat_follows : State.reset.alignSet = false ∧ (nxt (exec (.beatBoundary 0 0 0 0) ready)).beat = 1 := by decide +kernel
/-- An offset of 3 beats on VXE 0, for which a re-base is due now. -/
def rebasing : State := { (pieced .committed) with offsets := [(32, 3)], rebaseNow := true }
theorem test_rebase_moves_the_plan : Tab.wf (fun _ => 0) rebasing.offsets = true ∧ rebasing.offsets.all (fun e => decide (e.1 < 370)) = true ∧
    (nxt (exec .reBase rebasing)).pieces.map PieceRec.planned = [3] ∧ (nxt (exec .reBase rebasing)).offset 32 = 0 := by decide +kernel
theorem test_watch_admits : Who.barRig.admits (.hl 1) = true ∧ Who.barRig.admits .core = false := by decide

/-- A product of one element at work on MXE 0. -/
def productOp (cls op : Nat) : OpRec :=
  { (opOf (desc cls op oneElt) [(0, one fBF16 0), (1, one fBF16 32768), (3, cell 512)] .started) with split := [runPart 0], aux := [(rowKey 0, 1)] }
def productState (cls op : Nat) : State :=
  { ((withOp (productOp cls op)).putBit (Reg.mxeStat 0) 1 true).putBit (Reg.vxeStat 0) 1 true with pieces := [{ (pieceOn 0 .running) with part := runPart 0 }] }

/-- The steps that a command has streamed. -/
def steps (c : Instr) (s : State) : List (List (Nat × Nat)) := (nxt (exec c s)).pieces.map PieceRec.pos

theorem test_products_stream : steps (.matmul 3 5 0 0 0 1) (productState 1 0) = [[(0, 1)]] ∧ steps (.matmulRows 3 5 0 0 0 1) (productState 1 1) = [[(0, 1)]] ∧
    steps (.gram 3 5 0 0 0 1) (productState 8 1) = [[(0, 1)]] := by decide +kernel
theorem test_blockdiag_streams : steps (.matmulBlockdiag 3 5 0 0 0 1) (productState 1 2) = [[(0, 1)]] := by decide +kernel
theorem test_convolutions_stream : steps (.convFwd 3 5 0 0 0 1) (productState 4 0) = [[(0, 1)]] ∧ steps (.convBwdData 3 5 0 0 0 1) (productState 4 1) = [[(0, 1)]] ∧
    steps (.convBwdWeight 3 5 0 0 0 1) (productState 4 2) = [[(0, 1)]] := by decide +kernel
theorem test_product_is_queued : (nxt (exec (.matmul 3 5 0 0 0 1) (productState 1 0))).tileQ.length = 1 := by decide +kernel

/-- The part of a stem op that is one group of one slice. -/
def stemPart : Part := ⟨36, 0, 0, 1, 0, 1, []⟩

/-- A stem op of one group of one slice on stem engine 3. -/
def stemState (op : Nat) : State :=
  { ((withOp { (opOf (desc 5 op oneElt) [(0, one fBF16 0), (1, one fBF16 32768), (3, cell 512)] .started) with split := [stemPart] }).putBit (Reg.stmStat 3) 1 true) with
    pieces := [{ (pieceOn 39 .running) with part := stemPart, vxe := 15 }] }

theorem test_stems_run : steps (.stemFwd 3 5 39 15 1) (stemState 0) = [[(0, 1)]] ∧ steps (.stemBwdData 3 5 39 15 1) (stemState 1) = [[(0, 1)]] ∧
    steps (.stemBwdWeight 3 5 39 15 1) (stemState 2) = [[(0, 1)]] := by decide +kernel

/-- An attention op whose one entry was found invalid, with its three pieces on MXE 15, ASQ 3 and VXE 15. -/
def pairs (op : Nat) : State :=
  let o := { (opOf (desc 3 op oneElt) [(0, one fBF16 0), (1, one fBF16 32768), (3, cell 512)] .started) with att := some [⟨0, 1, 0, 0, 0, none, true, false, none, []⟩] }
  { (((withOp o).putBit (Reg.mxeStat 15) 1 true).putBit (Reg.asqStat 3) 1 true).putBit (Reg.vxeStat 15) 1 true with
    pieces := [(15, 0, 0), (31, 16, 1), (35, 32, 2)].map (fun x => { (pieceOn x.1 .running) with part := partOn x.2.1, idx := x.2.2 }) }

theorem test_pairs_run : steps (.attnFwd 3 5 15 0 1) (pairs 0) = [[(0, 1)], [(0, 1)], [(0, 1)]] ∧
    steps (.attnBwd 3 5 15 0 1) (pairs 1) = [[(0, 1)], [(0, 1)], [(0, 1)]] := by decide +kernel
theorem test_pairs_are_done : (nxt (exec (.attnBwd 3 5 15 0 1) (pairs 1))).pieces.map PieceRec.did = [[0], [0], [0]] := by decide +kernel

/-- A ROOT op whose rule leaves this step out. -/
def rootOp : OpRec := { (opOf (desc 8 2 oneElt) [(0, one fFP32 0), (3, one fFP32 65536)] .started) with
    recs := [(3, [0, 0, 0, 0, 0, 0, 0, word [(48, 2), (32, 1)]]), (schedKey, [1])] }
def rootState : State := (atWork rootOp 15).putBit (Reg.mxeStat 15) 1 true

theorem test_root_is_done : (nxt (exec (.root 3 5 15 0 1) rootState)).pieces.map PieceRec.did = [[0]] := by decide +kernel

/-- A SEQSET of one record. -/
def seqState : State := atWork (opOf (desc 3 2 oneElt) [(0, cell 0)] .started) 35

theorem test_seqset_is_done : (nxt (exec (.seqset 3 5 35 0 1) seqState)).ops.map OpRec.done = [[0]] := by decide +kernel

/-- The tag of the cell that an op of serial 5 of queue 3 writes. -/
def cellTag (crc : Bool) : Tag :=
  { ctx := 0, obj := 9, trow := 0, tcol := 0, tdep := 0, fmt := fFP32, vrows := 0, vcols := 0, pclass := 2, last := true, poison := false, pq := 3, ps := 5,
    destq := 3, mb := 0, beat := 0, crcOk := crc }

/-- A finished tile of the op for the tile queue of VXE 0. -/
def tileEntry : TileEntry := ⟨0, 0, 3, 5, 0, cellTag true, 0, 0, [false], [0x3F800000]⟩

theorem test_tile_queue_has_room : (({ ready with tileQ := List.replicate 7 tileEntry } : State).tileQ.filter (fun t => t.vxe == 0)).length < tqEntries := by
  decide
theorem test_tile_queue_is_full : tqEntries ≤ (({ ready with tileQ := List.replicate 8 tileEntry } : State).tileQ.filter (fun t => t.vxe == 0)).length := by
  decide
theorem test_mirrored_ranks : ({ (opOf (desc 1 0 []) [] .started) with recs := [(5, [word [(35, 1)]])] } : OpRec).mirrored = true ∧
    ({ (opOf (desc 1 0 []) [] .started) with recs := [(5, [word [(35, 1)]])] } : OpRec).rank = 1 ∧ (opOf (desc 1 0 []) [] .started).mirrored = false := by
  decide +kernel
theorem test_stalled_tile : (nxt (exec (.tileQueueRoom 0) { ready with stalled := [tileEntry] })).tileQ = [tileEntry] := by decide +kernel

/-- A MATMUL whose tile waits in the queue of VXE 0. -/
def servedOp : OpRec := opOf (desc 1 0 oneElt) [(0, one fBF16 0), (1, one fBF16 32768), (3, cell 512)] .started
def served : State := { ((atWork servedOp 0).putBit (Reg.vxeStat 0) 1 true) with tileQ := [tileEntry] }

theorem test_epilogue_does : well (epilogueTile servedOp served tileEntry) = true := by decide +kernel
theorem test_epilogue_writes : (nxt (exec (.epilogue 0) served)).byte (inStore 515) = 0x3F := by decide +kernel

/-- A contribution of order 0 of a sequence of two orders, adding a cell to a cell. -/
def contribution : OpRec := opOf (desc 7 0 ((469, 1) :: oneElt)) [(0, cell 0), (3, cell 512)] .started

theorem test_contribution_joins : works 7 0 40 = true ∧ works 7 0 55 = true ∧ (queue3.seqJoin contribution).isSome = true := by decide +kernel
theorem test_contribution_is_added : (nxt (exec (.reduceAcc 3 5 40 0 1) (atWork contribution 40))).seqs.map SeqRec.added = [[(0, 0)]] := by decide +kernel

/-- The contribution of order 1, held until order 0 has been added, which it has. -/
def heldOne : State :=
  { (atWork (opOf (desc 7 0 ((469, 1) :: (405, 1) :: oneElt)) [(0, cell 0), (3, cell 512)] .started) 40) with
    seqs := [⟨0, 9, 0, 1, [(0, 3, 4), (1, 3, 5)], [0], [(0, 0)], [(1, 0)], []⟩] }

theorem test_contribution_is_released : (nxt (exec (.contributionRelease 3 5 0) heldOne)).seqs.map SeqRec.held = [[]] := by decide +kernel
theorem test_epilogue_serves : served.entryVoid tileEntry servedOp = false ∧ served.epilogueWaits tileEntry = false ∧
    served.entryVoid tileEntry { servedOp with phase := .ended } = true := by decide +kernel
theorem test_held_tile_has_its_turn : heldOne.ops.all (fun o => heldOne.seqs.any (fun x => x.has o && x.held.contains (o.d.ord, 0)) && heldOne.accTurn o 0) = true ∧
    heldOne.pieces.any (fun p => p.covers 3 5 40 0 1) = true := by decide +kernel

/-! ### Hypotheses met: the cascade -/

/-- A group of one module. -/
def alone (o : OpRec) : OpRec := { o with recs := [(5, [word [(47, 1)]])], members := [0] }

/-- A collective of one module over one element. -/
def collective (cls op : Nat) (n : Nat) : OpRec :=
  alone (opOf (desc cls op [(352, n), (320, n), (416, n), (464, 1)]) [(0, cell 0), (3, cell 512)] .started)

theorem test_collectives_end : [(7, 0x40), (7, 0x41), (6, 0x40)].all (fun x =>
    ((withOp (collective x.1 x.2 1)).castAt x.1 x.2 3 5).isSome && !(collective x.1 x.2 1).d.noData && (collective x.1 x.2 0).d.noData &&
      (collective x.1 x.2 1).others.isEmpty) = true := by decide +kernel
theorem test_collectives_are_ready : [(7, 0x40), (7, 0x41), (6, 0x40)].all (fun x =>
    ((withOp (collective x.1 x.2 1)).castAt x.1 x.2 3 5).all (fun o => !o.done.contains 0 && decide (0 < o.units) && ((withOp o).unreached o).isNone &&
      (withOp o).bucketOpen o 0)) = true := by decide +kernel
theorem test_sync_may : ((withOp (alone (opOf (desc 0 2 []) [] .started))).castAt 0 2 3 5).all (fun o => (withOp o).depsOk o && !o.d.noData &&
    (withOp o).bucketOpen o 0 && !o.done.contains 0 && decide (0 < o.units)) = true := by decide +kernel
theorem test_sync_ends : (nxt (exec (.sync 3 5 []) (withOp (alone (opOf (desc 0 2 []) [] .started))))).ops.map OpRec.phase = [.ended] := by decide +kernel
theorem test_allreduce_sums : well (reduceAll false 0 [] (collective 7 0x40 1) (withOp (collective 7 0x40 1))) = true := by decide +kernel
theorem test_reducescatter_sums : well (reduceAll true 0 [] (collective 7 0x41 1) (withOp (collective 7 0x41 1))) = true := by decide +kernel
theorem test_allgather_gathers : well (gatherAll 0 [] (collective 6 0x40 1) (withOp (collective 6 0x40 1))) = true := by decide +kernel

/-- A transfer of one element between ranks 0 and 1, at module 7 and this one. -/
def transfer (op rank : Nat) : OpRec :=
  { (opOf (desc 6 op ((480, 1000) :: (396, 1 - rank) :: oneElt)) [(0, cell 0), (3, cell 512)] .started) with
    depBeat := some 0, recs := [(5, [word [(47, 2), (35, rank)], 0])], members := if rank = 0 then [0, 7] else [7, 0] }

/-- A sender whose peer is ready, with a route by port 5. -/
def sending (elements : Nat) : State :=
  { ((withOp (transfer 0x41 0)).put (Reg.pstat 5) 39 36 2) with
    notices := [(7, BitVec.ofNat 256 ((transfer 0x41 0).castKey + elements * 2 ^ 110 + 1 * 2 ^ 142 + 1 * 2 ^ 174 + fFP32 * 2 ^ 206), 5)], routes := [(7, [(5, 1)])] }

theorem test_xsend_matches : (nxt (exec (.xsend 3 5) (sending 1))).ops.map OpRec.matched = [1] ∧ (nxt (exec (.xsend 3 5) (sending 1))).notices = [] := by
  decide +kernel
theorem test_xsend_mismatches : (nxt (exec (.xsend 3 5) (sending 2))).ops.map (fun o => o.failing.isSome || o.phase == .ended) = [true] := by decide +kernel

/-- The sender matched, with its piece on port 5 running. -/
def sendingOn : State :=
  { (sending 1) with ops := [{ (transfer 0x41 0) with aux := [(206, 1)], split := [⟨56, 1, 0, 1, 0, 4, []⟩] }],
                     pieces := [{ (pieceOn 61 .running) with part := ⟨56, 1, 0, 1, 0, 4, []⟩ }] }

theorem test_xsend_sends : (nxt (exec (.xsend 3 5) sendingOn)).outbox.length = 1 := by decide +kernel
theorem test_xrecv_may : ({ (sending 1) with ops := [transfer 0x42 0] } : State).ops.all (fun o => (sending 1).depsOk o && o.matched == 0 &&
    ((sending 1).unreached o).isNone && ((withOp o).unreached o).isSome) = true := by decide +kernel
theorem test_xrecv_asks : (nxt (exec (.xrecv 3 5) { (sending 1) with ops := [transfer 0x42 0] })).ops.map OpRec.matched = [1] := by decide +kernel
theorem test_unreached_partner : (nxt (exec (.xrecv 3 5) (withOp (transfer 0x42 0)))).ops.map (fun o => o.failing.isSome || o.phase == .ended) = [true] := by
  decide +kernel
theorem test_limit_passes : (nxt (exec (.limit 3 5 1) ((withOp (transfer 0x42 0)).wr Reg.beatNow 1000))).ops.map (fun o => o.failing.isSome || o.phase == .ended) = [true] ∧
    (nxt (exec (.limit 3 5 1) ((withOp (transfer 0x42 0)).wr Reg.beatNow 999))).ops.map (fun o => o.failing.isSome || o.phase == .ended) = [false] := by decide +kernel
theorem test_limit_may : (transfer 0x42 0).d.pairwise = true ∧ (transfer 0x42 0).d.peer = 1 ∧ (withOp (transfer 0x42 0)).announcedTo (transfer 0x42 0) = false := by
  decide +kernel

/-- READY with port 5 UP. -/
def port5 : State := stocked.put (Reg.pstat 5) 39 36 2

/-- A block from module 7 to this one. -/
def blockOf (tag : BitVec 256) (flits : List Byte) (extra : List Nat) : Block := ⟨tag, 1, 0, 0, 7, 0, 0, false, true, flits, extra⟩

theorem test_messages_are_received : [0, 1, 2, 3, 4].all (fun t => (port5.receive 5 t (blockOf 0 [] [])).1) = true ∧ port5.portUp 5 = true := by decide +kernel
theorem test_ready_arrives : (nxt (exec (.ready 5 (blockOf 1 [] [])) port5)).notices = [(7, 1, 5)] := by decide +kernel
theorem test_abandon_ends_an_op : (nxt (exec (.abandon 5 (blockOf (BitVec.ofNat 256 (transfer 0x42 0).castKey) [] []))
    { port5 with ops := [transfer 0x42 0] })).ops.map (fun o => o.failing.isSome || o.phase == .ended) = [true] := by decide +kernel
theorem test_abandon_alone : (nxt (exec (.abandon 5 (blockOf 1 [] [])) port5)).abandoned.length = 1 := by decide +kernel
theorem test_retry_sends_again : (nxt (exec (.retry 5 0) port5)).portState 5 = 2 := by decide +kernel

/-- The tag of the element that the transfer's peer sends, as carried. -/
def tileTag (crc : Bool) : BitVec 256 := (cellTag crc).wire

/-- The receiver of the transfer, with its key. -/
def receiving : State := { port5 with ops := [transfer 0x42 0] }
def key : Nat := (transfer 0x42 0).castKey

theorem test_data_finds_its_op : ((receiving.receive 5 0 (blockOf (tileTag true) [] [key])).2.xrecvFor 7 key).all (fun o =>
    o.lacks (tagOf (tileTag true)) && !o.d.noData && (o.obj 3).isSome) = true ∧ (receiving.xrecvFor 7 key).isSome = true := by decide +kernel
theorem test_data_is_kept : (nxt (exec (.data 5 (blockOf (tileTag true) (List.replicate 256 0) [key])) receiving)).inbox.length = 1 := by decide +kernel
theorem test_data_arrives : (nxt (exec (.data 5 (blockOf (tileTag true) (List.replicate 512 0) [key])) receiving)).ops.map (fun o => o.tiles.length) = [1] := by
  decide +kernel

/-- A mirrored MATMUL at rank 0. -/
def mirroredOp : OpRec := { (opOf (desc 1 0 oneElt) [(0, one fBF16 0), (1, one fBF16 32768), (3, cell 512)] .started) with recs := [(5, [word [(47, 2)]])], members := [0, 7] }
def mirroring : State := { port5 with ops := [mirroredOp] }

theorem test_node_tile_names_its_op : mirroring.op? (tagOf (tileTag true)).pq (tagOf (tileTag true)).ps = some mirroredOp ∧
    mirroredOp.mirrored = true ∧ mirroredOp.rank = 0 ∧ mirroredOp.matrixShape.isSome = true ∧ (tagOf (tileTag true)).crcOk = true ∧
    (tagOf (tileTag false)).crcOk = false := by decide +kernel
theorem test_node_tile_waits_for_its_op : port5.op? (tagOf (tileTag true)).pq (tagOf (tileTag true)).ps = none ∧
    before (tagOf (tileTag true)).ps (port5.fld (Reg.qhead (tagOf (tileTag true)).pq) 31 0) = false ∧
    (nxt (exec (.node 5 (blockOf (tileTag true) [0] [])) port5)).inbox.length = 1 := by decide +kernel
/-- A list of blocks of which only the first has bytes. -/
theorem only_first_block (bs : List Byte) (n : Nat) (f : Nat → List Byte) (h0 : f 0 = bs) (h : ∀ k, f (k + 1) = []) :
    ((List.range (n + 1)).map f).flatten = bs := by
  rw [List.range_succ_eq_map]
  simp [h0, h, Function.comp_def]

theorem test_node_tile_is_whole (bs : List Byte) (h : bs.length = 65536) :
    ((port5.addFlits 5 1 (blockOf (tileTag true) bs [])).takeMsg 1 7 (tileTag true) 65536).1 = some (tileTag true, bs) := by
  have e : bs.take 65536 = bs := by rw [← h, List.take_length]
  have c : (tagOf (tileTag true)).crcOk = true := by decide +kernel
  have f := only_first_block bs 255 (fun k => match if 0 = k then some (⟨0, 1, 7, tileTag true, 0, [], bs⟩ : InFlits) else none with
    | some x => x.data
    | none => []) rfl (fun k => rfl)
  simp [State.takeMsg, State.addFlits, InFlits.of, port5, stocked, ready, State.put, State.wr, State.reset, blockOf, ceilDiv, h, c]
  exact (congrArg (List.take 65536) f).trans e

/-- A module whose best candidate is the one of a serial, heard on port 9, closed or not. -/
def hears (serial port : Nat) (closed : Bool) : State := { port5 with best := some ⟨serial, 2, port, closed⟩, upAt := some 0 }

theorem test_advert_better : port5.portUp 5 = true ∧ (5 : Nat) ≠ port5.serial ∧ (⟨5, 16, 5, false⟩ : Advert).better ⟨6, 2, 9, false⟩ = true ∧
    (⟨6, 16, 5, true⟩ : Advert).better ⟨5, 2, 9, false⟩ = true := by decide
theorem test_join_at_candidate : (nxt (exec (.join 5 77) (hears 0 128 false))).joins = [77] := by decide
theorem test_addr_for_another : (77 : Word).toNat ≠ port5.serial := by decide
theorem test_addr_for_self : (nxt (exec (.addr 5 0 33) port5)).selfAddr = 33 := by decide
theorem test_route_nearest : (nxt (exec (.route 5 7 2) port5)).routesTo 7 = [(5, 2)] := by decide
theorem test_election_closes : (({ (hears 0 128 false) with ns := 40000000 } : State).putBit Reg.disc 60 true).candidate = true := by decide
theorem test_no_zenith : (nxt (exec .nozenith { port5 with upAt := some 0, ns := 100000000 })).fld Reg.disc 63 61 = 5 ∧
    (nxt (exec .nozenith { port5 with upAt := some 0, ns := 99999999 })).fld Reg.disc 63 61 = 0 := by decide
theorem test_zenith_lost : (nxt (exec (.zenithLost false) (hears 6 95 true))).fld Reg.disc 63 61 = 1 := by decide
theorem test_align_asks : (({ (hears 6 5 true) with alignDue := 1000 } : State).upstream) = some 5 ∧ (hears 6 5 true).flag Reg.casc 32 = false := by decide

/-- A module that awaits an alignment answer in a state. -/
def asked (st : Nat) : State := { (port5.put Reg.casc 34 33 st) with alignOut := true }

theorem test_align_leaves_unaligned : (asked 0).alignState = 0 ∧ (nxt (exec (.align 5 true 0 10 10 0 true) (asked 0))).alignSet = true ∧
    (nxt (exec (.align 5 true 0 10 10 0 false) (asked 0))).alignOut = false := by decide
theorem test_align_corrects : (nxt (exec (.align 5 true 0 320 320 0 true) (asked 1))).steer = 320 ∧ (nxt (exec (.align 5 true 0 320 320 0 true) (asked 1))).alignState = 1 := by
  decide
theorem test_align_holds_over : (nxt (exec (.align 5 true 0 321 321 0 true) (asked 1))).alignState = 2 := by decide
theorem test_port_trains : ready.ready? = true ∧ ready.portState 0 = 0 ∧ (nxt (exec (.portTraining 0) ready)).portState 0 = 1 := by decide
theorem test_port_trains_again : (nxt (exec (.portTraining 0) { ready with ns := 100000000, downAt := [(0, 1)] })).portState 0 = 1 ∧
    (nxt (exec (.portTraining 0) { ready with ns := 99999999, downAt := [(0, 1)] })).portState 0 = 0 := by decide
theorem test_port_no_lock : (ready.setPort 95 1).portState 95 = 1 ∧ (ready.setPort 95 1).recovering 3 127 = false := by decide
theorem test_port_retrains : (ready.setPort 5 3).portState 5 = 3 ∧ port5.portState 5 = 2 := by decide
theorem test_ident_of_self : (0 : Word).toNat = ready.serial ∧ (nxt (exec (.ident 5 0 1) (ready.setPort 5 1))).portState 5 = 4 := by decide
theorem test_ident_of_another : ((hears 6 9 false).setDisc 1).best.isSome = true ∧ ((hears 6 9 false).setDisc 1).fld Reg.disc 63 61 ≠ 0 ∧
    (nxt (exec (.ident 5 77 1) (((hears 6 9 false).setDisc 1).setPort 5 1))).portState 5 = 2 := by decide
theorem test_lane_in_service : (ready.putBit (Reg.stlLane 31 1) 35 true).laneIn 31 1 35 = true := by decide
theorem test_align_is_answered : (nxt (exec (.align 5 false 7 0 0 0 true) port5)).outbox.length = 1 := by decide +kernel
theorem test_align_locks_again : (nxt (exec (.align 5 true 0 32 32 0 true) { (asked 2) with inLock := 2 })).alignState = 1 ∧
    (nxt (exec (.align 5 true 0 33 33 0 true) { (asked 2) with inLock := 2 })).inLock = 0 := by decide
theorem test_retrain_fails : (nxt (exec (.retrainFail 5) (ready.setPort 5 3))).portState 5 = 0 := by decide +kernel
theorem test_lock_regained : (nxt (exec (.lockRegained 5) (ready.setPort 5 3))).portState 5 = 2 := by decide +kernel

/-! ### Hypotheses met: memory -/

theorem test_write_is_accepted : inMemRegions 64 8 = true ∧ well (stocked.writeMem (.plain 0) 64 [1]) = true := by decide
theorem test_engine_write_may : ((List.range 1).all (fun k => !stocked.mustWait ((0 + k) * 64) 1024)) = true := by decide
theorem test_write_at_the_top : inMemRegions (2 ^ 41 - 1) 1 = true ∧ inMemRegions (2 ^ 41 - 1) 2 = false := by decide +kernel
theorem test_atomic_reads : (match stocked.readMem 64 8 with
    | .ok bs => ofBytes bs
    | .error _ => 1) = 0 := by decide
theorem test_atomic_adds : (nxt (exec (.add 64 4 0xFFFFFFFF) (stocked.poke 64 [2]))).byte 64 = 1 := by decide +kernel
theorem test_fadd_adds : (nxt (exec (.fadd32 64 0x3F800000) stocked)).byte 67 = 0x3F ∧ well (stocked.writeMem (.plain 0) 64 (bytesOf 8 (faddBits64 0 0))) = true := by
  decide +kernel

/-- READY with the coherent domain RUNNING and core 63 out of reset. -/
def cores : State := { (stocked.put Reg.cdstat 1 0 0) with coreHeld := [] }

theorem test_core_may : cores.coreRuns 63 = true ∧ isMain 64 = true ∧ cores.mainOk 64 = true ∧ cores.mustWait 64 63 = false ∧ cores.hostWaits 64 = false ∧
    oneLine 120 8 = true ∧ oneLine 121 8 = false := by decide
theorem test_far_atomic_acts : well ((cores.recallLine 64).atomicAt 64 8 false (atomicFun 9 8 0 1)) = true ∧
    well ((cores.recallLine 64).atomicAt 64 4 true (faddBits32 0)) = true ∧ well ((cores.recallLine 64).atomicAt 64 8 true (faddBits64 0)) = true := by
  decide +kernel
theorem test_cores_are_sound : Memory.wf cores.mem = true ∧ Tab.wf resetWord cores.regs = true := by decide
theorem test_slice_reports : stocked.sliceOf 64 = 0 ∧ stocked.sliceOf (2 ^ 40) = 0 ∧ stocked.mscOut.get (fun _ => false) 16 = false ∧
    stocked.wayOff.get (fun _ => false) 0 = false := by decide
theorem test_readout : (stocked.takeInj (Reg.hbcInj 15) 4 0).1 = false ∧ ((stocked.arm (Reg.hbcInj 15) 4 0).takeInj (Reg.hbcInj 15) 4 0).1 = true := by decide
theorem test_hot_stack : (nxt (exec (.temperatureReadout 15 (some 95)) stocked)).fld (Reg.hbcStat 15) 23 22 = 2 := by decide
theorem test_channel_drains : (stocked.putBit (Reg.hbcStat 15) 47 true).flag (Reg.hbcStat 15) (32 + 15) = true ∧
    ((List.range 16).filter (fun c => !(stocked.putBit (Reg.hbcStat 15) 47 true).flag (Reg.hbcStat 15) (48 + c))).length = 16 ∧
    ((stocked.putBit (Reg.hbcStat 15) 47 true).slotsUsed 15).any (fun k => decide (2048 * 15 ≤ k)) = false := by decide

/-- A class A INT8 tile in tile store 0 whose unit is bad, read by a running op. -/
def badTile : State :=
  { (atWork (opOf (desc 2 0 []) [(0, { objAt fUINT8 1 0x080000000000 with d0 := 1, d1 := 1 })] .started) 16) with
    marks := [(0x080000000000 / 64, .badCrc)] }

theorem test_detection : region 0x080000000000 = .tile 0 0 ∧ ({ objAt fUINT8 1 0x080000000000 with d0 := 1, d1 := 1 } : Obj).tileAddr 0 0 0 = 0x080000000000 ∧
    badTile.tileBad 0 { objAt fUINT8 1 0x080000000000 with d0 := 1, d1 := 1 } 0 0 0 = true ∧
    (badTile.producer 0 { objAt fUINT8 1 0x080000000000 with d0 := 1, d1 := 1 } 0 0 0).isNone = true := by decide +kernel

/-- The tag of its producer. -/
def producerTag : Tag := { (tagOf (tileTag true)) with fmt := fUINT8, pclass := 1, pq := 2, ps := 1 }

/-- The same tile with the tag of its producer, still in the journal. -/
def replayable : State :=
  { badTile with tags := [(0x080000000000, some producerTag)],
                 journal := [{ (opOf (desc 2 0 []) [(3, { objAt fUINT8 1 0x080000000000 with d0 := 1, d1 := 1 })] .ended) with q := 2, s := 1 }] }

theorem test_replay_has_producer : (replayable.producer 0 { objAt fUINT8 1 0x080000000000 with d0 := 1, d1 := 1 } 0 0 0).isSome = true ∧
    replayable.journal.all (fun j => replayable.inputsSame j (j.partsFor (j.unitsOf { objAt fUINT8 1 0x080000000000 with d0 := 1, d1 := 1 } 0)) &&
      !replayable.pieces.any (fun z => z.q == j.q && z.s == j.s)) = true := by decide +kernel
theorem test_partial_write_reads : partialUnits 64 1 = [0, 64, 128, 192] ∧ partialUnits 256 256 = [] ∧ well (stocked.writeMem (.plain 0) 2097088 [1]) = true := by decide +kernel
theorem test_deep_stack_temperature : (nxt (exec (.temperatureReadout 31 (some 40)) stocked)).fld (Reg.dtcStat 15) 31 24 = 40 := by decide +kernel
theorem test_scrubs : (nxt (exec (.patrolScrub 15 []) stocked)).fld (Reg.hbcScrub 15) 63 32 = 1 ∧ (nxt (exec (.deepTierScrub []) stocked)).free = stocked.free := by
  decide +kernel

/-! ### Hypotheses met: the coherent domain -/

theorem test_store_owned : inMemRegions 64 1 = true ∧ bit (cores.tir (groupOf 64)) 63 = true ∧ ((cores.winShared 63 64).copyValue 63 64 8).2 = false ∧
    ((cores.winExcl 63 64 false).copyValue 63 64 8).2 = false := by decide +kernel

theorem test_core_reads_fraction : (nxt (exec (.coreRead 63 Reg.tmbFrac 8) (nxt (exec (.coreRead 63 Reg.tmbNow 8) { cores with ns := 5, frac := 7 })))).reply =
    some 7 := by decide +kernel
theorem test_core_writes_register : (nxt (exec (.coreWrite 63 (Reg.qcr 3) 8 0x1000 .store) cores)).fld (Reg.qcr 3) 63 12 = 1 := by decide +kernel

/-- A copy of a line of zeros at core 63. -/
def copyOf (st : CopyState) (hold : Bool) : Copy := ⟨63, st, List.replicate 64 0, false, hold, false⟩

/-- The coherent domain with one line cached by core 63. -/
def cached (st : CopyState) (hold : Bool) : State := { cores with dirLines := [(1, some ⟨.excl, [copyOf st hold]⟩)] }

theorem test_store_then_load : (nxt (exec (.coreRead 63 64 8) (nxt (exec (.coreWrite 63 64 8 7 .store) (cached .m false))))).reply = some 7 := by decide +kernel
theorem test_line_is_cached : (cached .m true).line 64 = some ⟨.excl, [copyOf .m true]⟩ ∧ ((⟨.excl, [copyOf .m true]⟩ : Line).copyOf 63) = some (copyOf .m true) ∧
    (copyOf .m true).hold = true ∧ (copyOf .m true).waits = false ∧ (cached .m false).populated 64 = true ∧ (cached .m false).mustWait 64 1024 = false := by
  decide
theorem test_line_is_sound : Line.sound ⟨.excl, [copyOf .m true]⟩ := by
  refine ⟨by decide, by decide, by decide, ?_⟩
  intro c h _
  rw [List.mem_singleton.mp h]
theorem test_probe_waits : (nxt (exec (.probe 63 64) (cached .m true))).fld Reg.cderr 15 0 = 1 := by decide
theorem test_hold_ends : ((nxt (exec (.holdEnd 63 64) (cached .m true))).line 64).map (fun l => l.copies.map Copy.hold) = some [false] := by decide
theorem test_eviction_empties : ((nxt (exec (.eviction 63 64 false) (cached .e false))).line 64).isNone = true := by decide
theorem test_clean_error_drops : ((nxt (exec (.coreEcc 63 64 true) (cached .s false))).line 64).isNone = true ∧ (copyOf .s false).st = .s := by decide
theorem test_dirty_error_poisons : (nxt (exec (.coreEcc 63 64 true) (cached .o false))).fld Reg.cderr 47 32 = 1 := by decide +kernel
theorem test_poisoned_line : ({ (cached .m false) with dirLines := [(1, some ⟨.excl, [{ copyOf .m false with poison := true }]⟩)] } : State).lineData 64 =
    (List.replicate 64 0, true) := by decide
theorem test_domain_fails : (nxt (exec (.deadAgent 63) cores)).fld Reg.cdstat 1 0 = 1 := by decide +kernel
theorem test_domain_returns : ((ready.put Reg.cdstat 1 0 1).fld Reg.cdstat 1 0, (ready.put Reg.cdstat 1 0 2).fld Reg.cdstat 1 0,
    (ready.put Reg.cdstat 1 0 3).fld Reg.cdstat 1 0) = (1, 2, 3) := by decide
theorem test_release_runs : (nxt (exec (.release (.hl 0)) (ready.put Reg.cdstat 1 0 3))).fld Reg.cdstat 1 0 = 0 := by decide

theorem test_reservations : (nxt (exec (.coreWrite 63 64 8 7 .lr) (cached .m false))).lr = [(63, 2)] ∧
    (nxt (exec (.coreWrite 63 64 8 7 .sc) { (cached .m false) with lr := [(63, 2)] })).reply = some 0 ∧
    (nxt (exec (.coreWrite 63 64 8 7 .sc) (cached .m false))).reply = some 1 ∧ ((cached .m false).winExcl 63 64 false).armed = [] := by decide +kernel
theorem test_error_is_of_its_kind : (cores.takeCd 3 0).1 = false ∧ ((cores.arm Reg.cdinj 3 0).takeCd 3 0).1 = true := by decide +kernel
theorem test_unpopulated_read : ((cached .m false).populated (2 ^ 40 - 1), (cached .m false).populated 64) = (false, true) := by decide +kernel

/-! ### Hypotheses met: tiers and translation -/

/-- A cell in HBM. -/
def hbmCell (a : Nat) : Obj := ⟨9, 0, 0, fFP32, 2, 1, 1, 1, 1, 1, 0, .linear a⟩

/-- An op that writes an object in group 1, which is UNASSIGNED. -/
def firstWriter : OpRec := opOf (desc 6 1 oneElt) [(3, hbmCell (2 ^ 21))] .started

theorem test_first_write : firstWriter.writes 3 = true ∧ ((hbmCell (2 ^ 21)).groups 0 (hbmCell (2 ^ 21)).size).contains 1 = true ∧
    bit ((withOp firstWriter).tir 1) 63 = false ∧ well ((withOp firstWriter).placeGroup 1 (firstWriter.wr (hbmCell (2 ^ 21)) true)) = true := by decide +kernel
theorem test_first_write_places : bit ((nxt (exec (.firstWrite 3 5 3 1) (withOp firstWriter))).tir 1) 63 = true := by decide +kernel
theorem test_migration_may : bit (stocked.tir 0) 63 = true ∧ bit (stocked.tir 0) 60 = false ∧ stocked.mayMigrate 0 0 = true ∧ stocked.mayMigrate 0 1 = true ∧
    (stocked.putBit (Reg.hbcStat 15) 0 true).stackIn 15 = true := by decide

theorem test_migration_has_room : stocked.roomFor 0 0 15 = true ∧ (bits (stocked.tir 0) 62 62, bits (stocked.tir 0) 49 46) = (0, 0) := by decide +kernel

/-- Stack 15 in service, for group 0 of stack 0. -/
def target : State := stocked.putBit (Reg.hbcStat 15) 0 true

theorem test_migration_starts : (nxt (exec (.migrationStart 0 0 15) target)).migs = [⟨0, 0, 15, List.range 32⟩] := by decide +kernel
theorem test_migration_switches : bits ((nxt (exec (.migrationSwitch 0) { target with migs := [⟨0, 0, 15, []⟩] })).tir 0) 49 46 = 15 := by decide +kernel
theorem test_migration_abandoned : (nxt (exec (.migrationAbandon 0) { target with migs := [⟨0, 0, 15, []⟩] })).migs = [] := by decide +kernel
theorem test_release_may : stocked.flag Reg.tirStat 0 = false ∧ bit (word [(1, 1), (0, 1)]) 0 = true := by decide
theorem test_release_frees : bit ((nxt (exec (.tirRelease .rig (word [(1, 1), (0, 1)])) stocked)).tir 0) 63 = false := by decide +kernel
theorem test_invalidation_busy : (ready.putBit Reg.trnStat 0 true).flag Reg.trnStat 0 = true := by decide
theorem test_invalidation_empty : ready.flag Reg.trnStat 0 = false ∧ bit (1 : Word) 47 = false ∧ ready.fld Reg.trnInvrng 63 32 = 0 := by decide
theorem test_invalidation_begins : (nxt (exec (.trnInv .rig (word [(47, 1), (0, 1)])) ready)).inv.isSome = true ∧
    ((nxt (exec (.trnInv .rig (word [(0, 1)])) (ready.put Reg.trnInvrng 63 32 1))).inv.map InvRec.len) = some 1 := by decide
theorem test_range_ack : (nxt (exec (.rangeAck 7) { ready with inv := some ⟨0, 0, 0, 1, [7], false, []⟩ })).inv.isNone = true ∨
    ((nxt (exec (.rangeAck 7) { ready with inv := some ⟨0, 0, 0, 1, [7], false, []⟩ })).inv.map InvRec.units) = some [] := by decide
theorem test_invalidation_ends : (nxt (exec .trnInvDone { ready with inv := some ⟨0, 0, 0, 1, [], false, []⟩ })).inv.isNone = true := by decide
theorem test_directory_clear : (nxt (exec (.asqDirclr .rig (word [(15, 1), (0, 4095)])) ready)).dirClear = some 4095 := by decide
theorem test_directory_cleared : (nxt (exec .asqDirclrDone { ready with dirClear := some 1 })).dirClear = none := by decide
theorem test_release_ends : (nxt (exec .tirReleaseDone (ready.putBit Reg.tirStat 0 true))).flag Reg.tirStat 0 = false := by decide

/-! ### Hypotheses met: intake and the host -/

/-- A BATCH at work, with its sample list at address 0. -/
def batchOp : OpRec := opOf (desc 9 0 [(352, 1)]) [(0, { cell 0 with fmt := 0x0A })] .started

/-- The intake engine in service, with that op. -/
def batching : State := (atWork batchOp 184).putBit Reg.itkStat 1 true

theorem test_batch_begins : (batching.intakeOp 3 5 0).isSome = true ∧ batching.liveSample = none ∧ well (readRow batchOp batching 0 (cell 0) 0 4) = true := by
  decide +kernel

/-- A running sample of that op. -/
def sample : Sample := ⟨3, 5, 0, 0, 0, 0, 0, 0, [], 0, 0, 0, 0, 0, []⟩

theorem test_item_starts : ({ batching with sample := some sample } : State).liveSample = some sample := by decide +kernel
theorem test_bias_busy : (ready.putBit Reg.biaStat 0 true).flag Reg.biaStat 0 = true := by decide
theorem test_bias_accepts : biasAccepts ready 1 65535 0 = true ∧ (nxt (exec (.map (.hl 0) 65535) ready)).bias.map BiaRec.result = some 0 ∧
    (nxt (exec (.todevice (.hl 0) 65535) ready)).bias.map BiaRec.result = some 2 := by decide
theorem test_bias_completes : (nxt (exec .biaCmdComplete (nxt (exec (.map .rig 65535) ready)))).flag Reg.biaStat 0 = false ∧
    (nxt (exec .biaCmdComplete (nxt (exec (.todevice .rig 0) ready)))).fld Reg.biaStat 15 8 = 2 := by decide +kernel
theorem test_snoop_misses : ready.sharedAt 0 0 = none := by decide

/-- A SHARED page of link 1 with a dirty line. -/
def snooped : State :=
  { (cached .m false).wr (Reg.biaEnt0 0) (word [(63, 1), (61, 1)]) with dirLines := [(hostBase / 64, some ⟨.excl, [copyOf .m false]⟩)] }

theorem test_snoop_hits : snooped.sharedAt 1 0 = some hostBase ∧ (snooped.line hostBase).map (fun l => l.dirty.isSome) = some true := by decide
theorem test_bar_refuses : barRefuses 0 2 = true ∧ barRefuses 4 8 = true ∧ barRefuses 0x8000000 8 = true := by decide
theorem test_link_trains : (ready.fld (Reg.hlkStat 1) 1 0, ready.power == .on, (ready.put Reg.rscStat 2 0 2).start) = (0, true, 2) ∧ ready.start = 5 := by decide
theorem test_link_comes_up : (nxt (exec (.dlActive 1 1 6 true) (ready.put (Reg.hlkStat 1) 1 0 1))).flag (Reg.hlkStat 1) 4 = true ∧
    (nxt (exec (.dlActive 1 16 1 true) (ready.put (Reg.hlkStat 1) 1 0 1))).flag (Reg.hlkStat 1) 3 = false := by decide

/-- READY with link 1 in a state. -/
def linkIn (st : Nat) : State := ready.put (Reg.hlkStat 1) 1 0 st

theorem test_link_states : (linkIn 2).fld (Reg.hlkStat 1) 1 0 = 2 ∧ (linkIn 3).fld (Reg.hlkStat 1) 1 0 = 3 ∧ (linkIn 0).fld (Reg.hlkStat 1) 1 0 = 0 := by decide
theorem test_timeout_names_an_op : (withOp eltOp).op? 3 5 = some eltOp ∧ eltOp.phase ≠ .ended := by decide +kernel
theorem test_ptm_runs : ((linkIn 2).putBit Reg.tmbPtmctl 1 true).flag Reg.tmbPtmctl 1 = true ∧ (linkIn 2).flag Reg.tmbCorrbase 0 = false ∧
    ((linkIn 2).wr Reg.tmbCorrbase 1).flag Reg.tmbCorrbase 0 = true := by decide
theorem test_pps_rises : (nxt (exec .ppsOut ((ready.putBit Reg.tmbOutctl 0 true)))).ppsHigh = true ∧ ready.ppsEdge ≠ some ready.ns ∧
    ready.flag Reg.tmbOutctl 0 = false := by decide
theorem test_time_frame : (nxt (exec .todTx { (ready.putBit Reg.tmbOutctl 1 true) with ppsEdge := some 0, outRun := 2, ns := 10000000 })).todSent.length = 1 ∧
    (nxt (exec .todTx { (ready.putBit Reg.tmbOutctl 1 true) with ppsEdge := some 0, outRun := 2, ns := 9999999 })).todSent.length = 0 := by decide +kernel

theorem test_item_may : ({ batching with sample := some sample } : State).ops.all (fun o =>
    !(({ batching with sample := some sample } : State).meetItem o sample).2 && (({ batching with sample := some sample } : State).intakeOp 3 5 o.done.length).isSome) =
    true := by decide +kernel

/-- Link 1 UP, with a DEVICE write and a SHARED write of an op on their way. -/
def writing : State := { (linkIn 2) with hostOut := [⟨3, 5, 1, 0, true, 0, []⟩, ⟨3, 6, 1, 64, false, 0, []⟩] }

theorem test_write_is_observed : (nxt (exec (.globalObservation 1 3 6) writing)).hostOut = [⟨3, 5, 1, 0, true, 0, []⟩] ∧
    (nxt (exec (.flushingRead 1) writing)).hostOut = [⟨3, 6, 1, 64, false, 0, []⟩] := by decide +kernel
theorem test_vector_is_masked : (nxt (exec (.registerWrite (.hl 1) (bar2 + 12) 4 0) ready)).msixOn.get (fun _ => false) 1024 = true ∧
    (nxt (exec (.registerWrite (.hl 1) (bar2 + 12) 4 1) ready)).msixOn.get (fun _ => false) 1024 = false := by decide +kernel

/-! ### Hypotheses met: reset, start and security -/

theorem test_reset_codes : (1 ≤ (1 : Nat) ∧ (8 : Nat) ≤ 8) ∧ ready.start ≠ 0 := by decide
theorem test_reset_cause : (ready.moduleReset 3).rd Reg.rscCause = ready.causeWord 3 ∧ (ready.moduleReset 3).start = 0 := by decide +kernel
theorem test_register_reset : (nxt (exec (.rscRst (.hl 1) (word [(8, 0xA5), (0, 1)])) ready)).start = 0 ∧
    (nxt (exec (.rscRst (.hl 1) (word [(8, 0xA4), (0, 1)])) ready)).start = 5 := by decide +kernel
theorem test_watchdog_fires : (nxt (exec .wdog { (ready.put Reg.rscWdog 31 16 1) with wdogOn := true, ns := 1000000 })).start = 0 ∧
    (nxt (exec .wdog { (ready.put Reg.rscWdog 31 16 1) with wdogOn := true, ns := 999999 })).start = 5 := by decide +kernel
theorem test_ladder_ends : (({ ready with windows := [⟨7, 0, 0, 0xF0, 10, 255, true, 0, 0, 0, false⟩] } : State).window 7 0).isSome = true := by decide
theorem test_supply_states : State.reset.power = .on ∧ State.reset.powerGood = true ∧ ({ ready with session := true } : State).session = true := by decide

/-- A bring-up with good dies, strands and memory. -/
def bring (ok : Bool) : Bringup :=
  { softFuses := 0, dieMap := [some 0, some 1, some 2, some 3], consistent := ok, margins := [], hbmBad := [], dtcBad := [] }

theorem test_release_may_start : State.reset.start = 0 ∧ State.reset.held = 0 := by decide
theorem test_options_agree : State.reset.takeOption 0 ≠ State.reset ∧ optCode 12 = some 0 ∧ optCode 243 = some 15 ∧ optCode 13 = none := by decide +kernel
theorem test_options_retried : (ready.put Reg.rscStat 7 6 3).fld Reg.rscStat 7 6 = 3 ∧ (2 : Nat) < 3 := by decide

/-- The boot window open or verification due, with link 1 UP. -/
def booting (st : Nat) : State := (linkIn 2).put Reg.rscStat 2 0 st

theorem test_window_write : (nxt (exec (.bootWindowWrite 1 (2 ^ 25 - 1) [7]) (booting 2))).bootWin = [(2 ^ 25 - 1, 7)] := by decide +kernel
theorem test_window_write_refused : (nxt (exec (.bootWindowWrite 1 0 [7]) (booting 3))).fld Reg.bootStat 47 32 = 1 ∧
    (nxt (exec (.bootWindowWrite 1 0 [7]) { booting 2 with owned := true })).fld Reg.bootStat 47 32 = 1 := by decide +kernel
theorem test_go : (nxt (exec (.go (.hl 0)) (booting 2))).start = 3 ∧ (nxt (exec (.go (.hl 0)) (booting 5))).flag Reg.bootStat 8 = true ∧
    (nxt (exec (.abort (.hl 0)) (booting 3))).start = 2 := by decide +kernel
theorem test_bad_image : (booting 3).verify = 2 := by decide +kernel

/-- The boot window with an image of 12,000 bytes: one section of 100 bytes for the rigging cores, signed with the key of slot 1. -/
def windowed : State :=
  { booting 3 with
    bootWin := [(2, 1), (4, 0x43), (5, 0x4C), (6, 0x41), (7, 0x57), (12, 0xE0), (13, 0x2E), (16, 1), (23, 0x40), (2663, 0x10), (2664, 0x80), (2665, 0x0A), (2672, 100)] }

/-- The same where the fuses name that key. -/
def signed : State := { windowed with fuses := [(Fuse.keyHash 1, ofBytes (Config.sha3 (windowed.win 64 2592)))] }

/-- It passes verification whenever the signature holds: ML-DSA-87 is a constant of the configuration. -/
theorem test_good_image (h : Config.mldsaVerify (signed.win 64 2592) (Config.sha3 (signed.win 0 (12000 - 4627))) (signed.win (12000 - 4627) 4627) = true) :
    signed.verify = 1 := by
  have h1 : signed.badHeader = false := by decide +kernel
  have h2 : bits (signed.winWord 8) 63 32 = 12000 := by decide +kernel
  have h3 : bits (signed.winWord 16) 63 62 = 1 := by decide +kernel
  have h4 : signed.fuse (Fuse.keyHash 1) = ofBytes (Config.sha3 (signed.win 64 2592)) := rfl
  have h5 : (signed.flag Reg.secLc 9, slotAdmitted signed.lc 1, decide (bits (signed.winWord 8) 31 0 < signed.fld Reg.secLc 63 56),
    lcAdmitted signed.lc 1 (bits (signed.winWord 16) 60 58)) = (false, true, false, true) := by decide +kernel
  simp only [Prod.mk.injEq, decide_eq_false_iff_not] at h5
  unfold State.verify
  simp only [h1, h2, h3, h4, h5, h]
  simp

/-- An accepted image with these requests. -/
def image (raise : Bool) (lcreq entry : Nat) : Image := ⟨1, 7, raise, lcreq, entry, [], [], []⟩

theorem test_self_ready_may : ({ booting 4 with image := some (image true 2 1), wiped := true, discovered := true } : State).start = 4 := by decide
theorem test_quote_may : ready.attest = false ∧ ready.lc ≠ 15 ∧ ready.start = 5 ∧ (ready.put Reg.secLc 3 0 15).lc = 15 := by decide

/-! ### Hypotheses met: faults -/

/-- READY with every engine in service. -/
def engines : State := [0, 15, 16, 31, 32, 35, 36, 39, 40, 55, 184].foldl (fun (s : State) n => s.putBit (unitStat n) 1 true) ready

theorem test_engines_in : [0, 15, 16, 31, 32, 35, 36, 39, 40, 55, 184].all engines.unitIn = true := by decide +kernel
theorem test_column_error : (nxt (exec (.columnError 15 3 129) engines)).fld (Reg.mxeDetcnt 15) 63 48 = 1 := by decide +kernel
theorem test_watchdog_of_a_unit : (∃ p ∈ (atWork eltOp 16).pieces, p.unit = 16 ∧ p.phase = .running) := ⟨pieceOn 16 .running, by simp [atWork], rfl, rfl⟩
theorem test_directory_error : (opOf (desc 3 0 []) [] .started).d.cls = 3 := by decide +kernel
theorem test_node_lost_may : (withOp eltOp).op? 3 5 = some eltOp ∧ eltOp.phase = .started := by decide +kernel
theorem test_rigging_core_in : ready.rigOut.get (fun _ => false) 7 = false := by decide
theorem test_bank_populated : region 0x08000DBFFFFF = .tile 0 27 ∧ ready.populated 0x08000DBFFFFF = true := by decide

/-- A fault of an instance without a window, to be tested. -/
def tested (dom inst : Nat) : State := { ready with tests := [⟨dom, inst, 0, 1, 1, 0, false, 0, 0, 0, false⟩] }

theorem test_faults_are_tested : [(1, 0), (1, 15), (1, 16), (1, 55), (1, 184), (2, 0), (2, 255), (2, 256), (2, 271), (2, 272), (2, 288), (2, 512), (2, 735), (3, 31)].all
    (fun x => ((tested x.1 x.2).testFault x.1 x.2).isSome) = true := by decide +kernel

/-- A recovery in progress. -/
def inRecovery (dom inst : Nat) : State := { ready with windows := [⟨dom, inst, 0, 1, 1, 0, true, 0, 0, 0, false⟩] }

theorem test_recoveries : (inRecovery 4 3).recovering 4 3 = true ∧ (inRecovery 6 0).recovering 6 0 = true ∧ (inRecovery 6 0).rigOut = [] := by decide
theorem test_queue_has_room : ready.queueFull = false ∧ (ready.put Reg.fltQtail 31 0 4096).queueFull = true ∧ (ready.put Reg.fltQhead 31 0 (2 ^ 32 - 4096)).queueFull = true := by
  decide
theorem test_record_enters : (ready.formOne { cls := 2, sev := 0, rtype := 3, det := 0x29 }).fld Reg.fltQtail 31 0 = 1 := by decide +kernel
theorem test_head_bounds : (nxt (exec (.fltQhead .core 4#32) (ready.put Reg.fltQtail 31 0 4))).fld Reg.fltQhead 31 0 = 4 ∧
    (nxt (exec (.fltQhead .core 5#32) (ready.put Reg.fltQtail 31 0 4))).flag Reg.fltStat 3 = true := by decide
theorem test_window_closes : (nxt (exec (.windowClose 1 0) { ready with windows := [⟨1, 0, 0, 1, 1, 0, false, 0, 5, 0, false⟩], ns := 5 })).windows = [] ∧
    (nxt (exec (.windowClose 1 0) { ready with windows := [⟨1, 0, 0, 1, 1, 0, false, 0, 5, 0, false⟩], ns := 4 })).windows.length = 1 := by decide
theorem test_colmap : colmapClash (word [(15, 1), (7, 1)]) = true ∧ colmapClash 0 = false ∧ (ready.putBit (Reg.mxeStat 15) 1 false).unitIn 15 = false ∧
    engines.unitIn 15 = true := by decide +kernel


/-- An op with a node tile of its own on MXE 0. -/
def lossy : State :=
  { (atWork eltOp 0) with nodes := [{ src := stocked.selfAddr, q := 3, s := 5, work := 0, tag := 0, lo := 0, hi := 1, piece := 0, home := 0, quad := 0, unit := 0, head := [], bads := [], data := [] }] }

theorem test_node_tile_lost : (lossy.nodesOn eltOp 0).length = 1 ∧ (nxt (exec (.nodeTileLost 3 5 0) lossy)).nodes = [] := by decide +kernel
theorem test_unit_watchdog : ((engines.takeInj Reg.fltInj 1 16).1, (engines.takeInj (Reg.vxeInj 0) 2 0).1, (engines.takeInj (Reg.mxeAccinj 15) 2 3).1) =
    (false, false, false) := by decide +kernel

/-! ### Hypotheses met: power, debug and control space -/

theorem test_wake : (nxt (exec (.wake 4350 true false false) { ready with power := .off })).power = .ramp ∧
    (nxt (exec (.wake 4349 true false false) { ready with power := .off })).power = .off := by decide
theorem test_power_off : (nxt (exec (.pwrOff .rig (word [(8, 0x5A), (0, 1)])) ready)).power = .off ∧ ready.pwrEn = true := by decide +kernel
theorem test_trip_threshold : (thresholds 15).2.2 = 115 ∧ (thresholds 31).2.2 = 105 ∧ (thresholds 32).2.2 = 110 := by decide
theorem test_latch_off_ends : (nxt (exec (.latchoffExit 499 false) { ready with power := .latchoff })).power = .off ∧
    (nxt (exec (.latchoffExit 500 false) { ready with power := .latchoff })).power = .latchoff := by decide
theorem test_caps_wait : Who.barRig.admits (.hl 0) = true ∧ Who.rigI3c.admits .i3c = true := by decide
theorem test_cap_fails : 10000 ≤ ({ ready with floorB := 10000 } : State).floorB := by decide
theorem test_mezzanine_lost : ready.mezzanines = 2 ∧ (nxt (exec (.mzloss 1) ready)).mz50 = [true, false] := by decide +kernel
theorem test_mezzanine_returns : ({ ready with mz50 := [true, false] } : State).mz50.getD 1 false = false := by decide
theorem test_sensor_injection : ((ready.arm Reg.pwrInj 8 0).takeInj Reg.pwrInj 8 0).1 = true ∧ (ready.takeInj Reg.pwrInj 8 0).1 = false := by decide
theorem test_trip_clears : (nxt (exec .tripClear { ready with tripN := true, cooled := true, held := 2 })).held = 0 := by decide
theorem test_cage_pin : (nxt (exec (.cagePresence 7 2 true) ready)).cageOn 7 = true := by decide
theorem test_dynamic_address : (nxt (exec (.setdasa 127) ready)).i3cAddr = 127 := by decide
theorem test_boundary_scan_may : ({ ready with pinHigh := false } : State).pinHigh = false := by decide
theorem test_session_may : ({ ready with session := true } : State).session = true ∧ ready.session = false := by decide
theorem test_plain_register : ready.writeSingle (Wrt.of .rig Reg.fltCtl 8 7) = none ∧ inRegBlock Reg.fltCtl = true ∧ Reg.fltCtl < bootBase ∧
    (rowAt Reg.fltCtl regMap).isSome = true := by decide +kernel
theorem test_unaligned_write : (regAligned 0x0F0001000004 8 && inRegBlock 0x0F0001000004) = false ∧ regAligned 0x0F0001000000 8 = true := by decide
theorem test_rounding_gap : (-2 : Int) < 0 ∧ roundMag .rne false 2 0 2 = 0 ∧ roundMag .rne false 6 0 2 = 2 := by decide

end Sys2Proof.Tests
end

section
/-! What befalls a cached line (Table 13.3): its copies, the data that engines see, and the events that keep it. -/

namespace Sys2Proof.Machine

/-! ### Lines and copies -/

/-- A key that reads other than as unlisted is listed. -/
theorem Tab.mem_of_get {α : Type} (d : Nat → Option α) (hd : ∀ k, d k = none) (t : Tab (Option α)) (k : Nat) (v : α) (h : Tab.get d t k = some v) :
    (k, some v) ∈ t := by
  induction t with
  | nil => simp [Tab.get, hd] at h
  | cons q t ih =>
    obtain ⟨j, w⟩ := q
    simp only [Tab.get] at h
    split at h
    · rename_i hk
      rw [hk, h]
      exact List.mem_cons_self ..
    · split at h
      · simp [hd] at h
      · exact List.mem_cons_of_mem _ (ih h)

/-- Every line that a sound state's directory names is sound. -/
theorem State.line_sound (s : State) (a : Nat) (l : Line) (hs : s.sound) (hl : s.line a = some l) : l.sound := by
  obtain ⟨-, -, hd, -⟩ := hs
  exact hd _ (Tab.mem_of_get _ (fun _ => rfl) s.dirLines (a / 64) l hl) l rfl

/-- Is a copy dirty: modified or owned? -/
def Copy.isDirty (c : Copy) : Bool := c.st == .m || c.st == .o

theorem Line.dirty_eq (l : Line) : l.dirty = l.copies.find? Copy.isDirty := rfl

theorem Line.copyOf_mem (l : Line) (core : Nat) (c : Copy) (h : l.copyOf core = some c) : c ∈ l.copies ∧ c.core = core :=
  ⟨List.mem_of_find?_eq_some h, by simpa using List.find?_some h⟩

/-- A core holds one copy of a line. -/
theorem Line.copy_unique (l : Line) (hl : l.sound) (x y : Copy) (hx : x ∈ l.copies) (hy : y ∈ l.copies) (h : x.core = y.core) : x = y := by
  obtain ⟨-, hn, -, -⟩ := hl
  exact List.inj_on_of_nodup_map hn hx hy h

/-- A line has one dirty copy at most. -/
theorem Line.dirty_unique (l : Line) (hl : l.sound) (x y : Copy) (hx : x ∈ l.copies) (hy : y ∈ l.copies) (dx : x.isDirty = true) (dy : y.isDirty = true) :
    x = y := by
  obtain ⟨-, -, hd, -⟩ := hl
  have hx' : x ∈ l.copies.filter Copy.isDirty := List.mem_filter.2 ⟨hx, dx⟩
  have hy' : y ∈ l.copies.filter Copy.isDirty := List.mem_filter.2 ⟨hy, dy⟩
  rcases hf : l.copies.filter Copy.isDirty with _ | ⟨z, _ | ⟨w, zs⟩⟩
  · rw [hf] at hx'; cases hx'
  · rw [hf, List.mem_singleton] at hx' hy'; rw [hx', hy']
  · exact absurd ((congrArg List.length hf).symm.trans_le hd) (by simp)

/-- A dirty copy of a line is the one that an engine read finds. -/
theorem Line.dirty_of_mem (l : Line) (hl : l.sound) (c : Copy) (hc : c ∈ l.copies) (hd : c.isDirty = true) : l.dirty = some c := by
  rw [Line.dirty_eq]
  cases h : l.copies.find? Copy.isDirty with
  | none => exact absurd hd (by simpa using List.find?_eq_none.1 h c hc)
  | some x => rw [Line.dirty_unique l hl x c (List.mem_of_find?_eq_some h) hc (List.find?_some h) hd]

/-- The copies of a line but those of one core. -/
def Line.without (l : Line) (core : Nat) : List Copy := l.copies.filter (fun x => x.core != core)

theorem Line.core_of_mem_without (l : Line) (core : Nat) (x : Copy) (h : x ∈ l.without core) : x.core ≠ core := by
  simpa using (List.mem_filter.1 h).2

/-- With its dirty copy a line loses all dirt. -/
theorem Line.without_dirty (l : Line) (hl : l.sound) (core : Nat) (c : Copy) (hc : l.copyOf core = some c) (hd : c.isDirty = true) :
    (l.without core).find? Copy.isDirty = none := by
  obtain ⟨hm, rfl⟩ := l.copyOf_mem core c hc
  refine List.find?_eq_none.2 (fun x hx dx => l.core_of_mem_without c.core x hx ?_)
  rw [Line.dirty_unique l hl x c (List.mem_filter.1 hx).1 hm dx hd]

/-- Without a clean copy a line keeps its dirty one. -/
theorem Line.without_clean (l : Line) (hl : l.sound) (core : Nat) (c : Copy) (hc : l.copyOf core = some c) (hd : c.isDirty = false) :
    (l.without core).find? Copy.isDirty = l.dirty := by
  obtain ⟨hm, rfl⟩ := l.copyOf_mem core c hc
  rw [Line.dirty_eq, Line.without, List.find?_filter]
  refine List.find?_congr (fun x hx => ?_)
  cases dx : x.isDirty with
  | false => simp
  | true =>
    have hne : x.core ≠ c.core := fun e => by rw [l.copy_unique hl x c hx hm e, hd] at dx; cases dx
    simpa using hne

/-! ### The data that engines see -/

/-- The bytes of the dirty copy that a directory entry names, if it names one. -/
def dirtyBytes (o : Option Line) : Option (List Byte) := (o.bind Line.dirty).map Copy.bytes

/-- Engines see the dirty copy's byte, else the memory's (R414). -/
theorem State.seen_eq (s : State) (a : Nat) : s.seen a = (dirtyBytes (s.line a)).elim (s.byte a) (fun bs => bs.getD (a % 64) 0) := by
  unfold State.seen dirtyBytes
  cases s.line a with
  | none => rfl
  | some l => simp only [Option.bind_some]; cases l.dirty <;> rfl

theorem State.syncHeld_frame (s : State) (a : Nat) : ∃ r, s.syncHeld a = { s with regs := r } := by
  unfold State.syncHeld
  cases region a with
  | hbm | deep => exact ⟨_, rfl⟩
  | _ => exact ⟨s.regs, rfl⟩

/-- A directory entry set changes the directory and the HELD bits alone. -/
theorem State.setLine_frame (s : State) (a : Nat) (l : Option Line) :
    ∃ r, s.setLine a l = { s with regs := r, dirLines := s.dirLines.set (fun _ => none) (a / 64) l } :=
  State.syncHeld_frame _ a

@[simp] theorem State.setLine_mem (s : State) (a : Nat) (l : Option Line) : (s.setLine a l).mem = s.mem := by
  obtain ⟨r, h⟩ := s.setLine_frame a l; rw [h]

@[simp] theorem State.setLine_armed (s : State) (a : Nat) (l : Option Line) : (s.setLine a l).armed = s.armed := by
  obtain ⟨r, h⟩ := s.setLine_frame a l; rw [h]

@[simp] theorem State.setLine_byte (s : State) (a : Nat) (l : Option Line) (b : Nat) : (s.setLine a l).byte b = s.byte b := by
  simp only [State.byte, State.setLine_mem]

/-- A directory entry set reads back, and every other line's is as before. -/
theorem State.line_setLine (s : State) (a : Nat) (l : Option Line) (b : Nat) : (s.setLine a l).line b = if b / 64 = a / 64 then l else s.line b := by
  obtain ⟨r, h⟩ := s.setLine_frame a l
  unfold State.line
  rw [h]
  exact Tab.get_set _ _ _ _ _

/-- Addresses of one line have one entry. -/
theorem State.line_congr (s : State) (a b : Nat) (h : b / 64 = a / 64) : s.line b = s.line a := by unfold State.line; rw [h]

/-- A line changed in what is not its dirty data changes nothing that engines see. -/
theorem State.seen_setLine (s : State) (a : Nat) (o : Option Line) (h : dirtyBytes o = dirtyBytes (s.line a)) (b : Nat) :
    (s.setLine a o).seen b = s.seen b := by
  rw [State.seen_eq, State.seen_eq, State.line_setLine, State.setLine_byte]
  split
  · rename_i hb
    rw [h, s.line_congr a b hb]
  · rfl

/-! ### Lines written back -/

/-- Is the home of a line a slice: HBM or the deep tier? -/
def lineAtSlice (a : Nat) : Prop := region (a / 64 * 64) = .hbm ∨ region (a / 64 * 64) = .deep

/-- A line of the HBM and deep-tier regions has its first byte there. -/
theorem lineAtSlice_of_inMemRegions (a : Nat) (h : inMemRegions a 1 = true) : lineAtSlice a := by
  have ha : a < 2 ^ 41 := by
    by_contra hc
    have h1 : ¬ a < 2 ^ 40 := by omega
    simp only [inMemRegions, Nat.add_sub_cancel, Bool.and_self, Bool.or_eq_true, beq_iff_eq, region, if_neg h1, if_neg hc] at h
    split_ifs at h <;> simp at h
  have hl : a / 64 * 64 < 2 ^ 41 := lt_of_le_of_lt (Nat.div_mul_le_self a 64) ha
  by_cases h1 : a / 64 * 64 < 2 ^ 40
  · left; simp only [region, if_pos h1]
  · right; simp only [region, if_neg h1, if_pos hl]

/-- The bytes of a copy as they are written back. -/
theorem Copy.lineBytes_getD (c : Copy) (i : Nat) (h : i < 64) : c.lineBytes.getD i 0 = c.bytes.getD i 0 := by
  simp [Copy.lineBytes, List.getD_eq_getElem?_getD, h]

/-- A write-back changes memory and the conditions of its units alone, and keeps memory's form. -/
theorem State.writeBack_frame (s : State) (a : Nat) (c : Copy) :
    ∃ m h k, s.writeBack a c = { s with mem := m, hostMem := h, marks := k } ∧ (Memory.wf s.mem = true → Memory.wf m = true) := by
  unfold State.writeBack
  dsimp only
  cases region (a / 64 * 64) with
  | host => dsimp only; cases s.hostAt (a / 64 * 64) <;> exact ⟨_, _, _, rfl, id⟩
  | _ => exact ⟨_, _, _, rfl, State.wf_poke s _ _⟩

@[simp] theorem State.line_writeBack (s : State) (a : Nat) (c : Copy) (b : Nat) : (s.writeBack a c).line b = s.line b := by
  obtain ⟨m, h, k, e, -⟩ := s.writeBack_frame a c; rw [e]; rfl

/-- A copy written back to a slice: its bytes stand in its line, and every other byte is as before. -/
theorem State.byte_writeBack (s : State) (a : Nat) (c : Copy) (hr : lineAtSlice a)
    (hw : Memory.wf s.mem = true) (b : Nat) : (s.writeBack a c).byte b = if b / 64 = a / 64 then c.bytes.getD (b % 64) 0 else s.byte b := by
  have hp : (s.writeBack a c).byte b = (s.poke (a / 64 * 64) c.lineBytes).byte b := by
    unfold State.writeBack
    dsimp only
    rcases hr with hr | hr <;> rw [hr] <;> rfl
  have hlen : c.lineBytes.length = 64 := by simp [Copy.lineBytes]
  rw [hp, State.byte_poke _ _ _ hw, hlen]
  by_cases hb : b / 64 = a / 64
  · have hi : b - a / 64 * 64 = b % 64 := by omega
    rw [if_pos hb, if_pos (by omega), hi, c.lineBytes_getD _ (Nat.mod_lt _ (by omega))]
  · rw [if_neg hb, if_neg (by omega)]

/-- What engines see where a line's data was a dirty copy's, and now stands in memory under no dirty copy. -/
theorem State.seen_writeBack_setLine (s : State) (a : Nat) (c : Copy) (o : Option Line) (hr : lineAtSlice a)
    (hw : Memory.wf s.mem = true) (ho : dirtyBytes o = none) (b : Nat) :
    ((s.writeBack a c).setLine a o).seen b = if b / 64 = a / 64 then c.bytes.getD (b % 64) 0 else s.seen b := by
  rw [State.seen_eq, State.line_setLine, State.setLine_byte, State.byte_writeBack s a c hr hw, State.line_writeBack]
  split
  · rw [ho]; rfl
  · exact (s.seen_eq b).symm

/-- What engines see in a line with a dirty copy. -/
theorem State.seen_of_dirty (s : State) (a : Nat) (l : Line) (c : Copy) (hl : s.line a = some l) (hd : l.dirty = some c) (b : Nat) (hb : b / 64 = a / 64) :
    s.seen b = c.bytes.getD (b % 64) 0 := by
  rw [State.seen_eq, s.line_congr a b hb, hl]
  simp [dirtyBytes, hd]

/-- A write-back of the dirty copy of a line changes nothing that engines see. -/
theorem State.seen_writeBack_dirty (s : State) (a : Nat) (l : Line) (c : Copy) (o : Option Line)
    (hr : lineAtSlice a) (hw : Memory.wf s.mem = true) (hl : s.line a = some l) (hd : l.dirty = some c)
    (ho : dirtyBytes o = none) (b : Nat) : ((s.writeBack a c).setLine a o).seen b = s.seen b := by
  rw [State.seen_writeBack_setLine s a c o hr hw ho]
  split
  · rename_i hb; exact (s.seen_of_dirty a l c hl hd b hb).symm
  · rfl

/-! ### Evictions (R410, R411) -/

/-- Copies of which one is dirty, and each dirty one has these bytes. -/
theorem dirtyBytes_some (st : LineState) (cs : List Copy) (bs : List Byte) (y : Copy) (hy : y ∈ cs) (dy : y.isDirty = true)
    (h : ∀ x ∈ cs, x.isDirty = true → x.bytes = bs) : dirtyBytes (some ⟨st, cs⟩) = some bs := by
  unfold dirtyBytes
  simp only [Option.bind_some, Line.dirty_eq]
  cases hf : cs.find? Copy.isDirty with
  | none => exact absurd dy (by simpa using List.find?_eq_none.1 hf y hy)
  | some x => exact congrArg some (h x (List.mem_of_find?_eq_some hf) (List.find?_some hf))

theorem dirtyBytes_of_dirty (l : Line) (c : Copy) (h : l.dirty = some c) : dirtyBytes (some l) = some c.bytes := by
  simp [dirtyBytes, h]

/-- Copies whose first dirty one is a line's. -/
theorem dirtyBytes_congr (st : LineState) (cs : List Copy) (l : Line) (h : cs.find? Copy.isDirty = l.dirty) :
    dirtyBytes (some ⟨st, cs⟩) = dirtyBytes (some l) := by
  unfold dirtyBytes
  simp only [Option.bind_some, Line.dirty_eq] at h ⊢
  rw [h]

/-- A line of which a copy leaves the domain. -/
def State.evictOut (s : State) (l : Line) (c : Copy) (core addr : Nat) : State :=
  (if c.isDirty then s.writeBack addr c else s).setLine addr
    (if (l.without core).isEmpty then none else some ⟨if c.isDirty && l.st == .owned then .shared else l.st, l.without core⟩)

/-- An eviction of a copy that the directory names: its reservation goes, and the copy to the L3 or out of the domain. -/
theorem execEviction_held (core addr : Nat) (toL3 : Bool) (s : State) (l : Line) (c : Copy) (hl : s.line addr = some l) (hc : l.copyOf core = some c) :
    ∃ r, execEviction core addr toL3 s =
      .next (if toL3 && decide (core < 64) then State.toVictim { s with lr := r } l c addr else State.evictOut { s with lr := r } l c core addr) := by
  unfold execEviction
  simp only [hl, hc]
  by_cases hr : s.lr.get (fun _ => 0) core = addr / 64 + 1
  · refine ⟨s.lr.set (fun _ => 0) core 0, ?_⟩
    rw [if_pos hr]
    split <;> rfl
  · refine ⟨s.lr, ?_⟩
    rw [if_neg hr]
    split <;> rfl

/-- The entry of a line after a copy has left the domain. -/
theorem State.line_evictOut (s : State) (l : Line) (c : Copy) (core addr : Nat) : (s.evictOut l c core addr).line addr =
    if (l.without core).isEmpty then none else some ⟨if c.isDirty && l.st == .owned then .shared else l.st, l.without core⟩ := by
  unfold State.evictOut
  rw [State.line_setLine, if_pos rfl]

/-- A copy that leaves the domain leaves the line's data: a dirty one's in memory, a clean one's where it was. -/
theorem State.seen_evictOut (s : State) (l : Line) (c : Copy) (core addr : Nat) (hs : s.sound) (hr : lineAtSlice addr)
    (hl : s.line addr = some l) (hc : l.copyOf core = some c) (b : Nat) : (s.evictOut l c core addr).seen b = s.seen b := by
  have hls := s.line_sound addr l hs hl
  unfold State.evictOut
  cases hd : c.isDirty with
  | true =>
    have hrest := l.without_dirty hls core c hc hd
    refine s.seen_writeBack_dirty addr l c _ hr hs.1 hl (l.dirty_of_mem hls c (l.copyOf_mem core c hc).1 hd) ?_ b
    split
    · rfl
    · simp [dirtyBytes, Line.dirty_eq, hrest]
  | false =>
    have hrest := l.without_clean hls core c hc hd
    refine s.seen_setLine addr _ ?_ b
    rw [hl]
    split
    · rename_i he
      rw [List.isEmpty_iff.1 he] at hrest
      simp [dirtyBytes, ← hrest]
    · exact dirtyBytes_congr _ _ l hrest

/-- The copies of a line after a victim of an L2 has gone to the L3. -/
def Line.toVictim (l : Line) (c : Copy) : List Copy :=
  if (l.without c.core).any (fun x => x.core == 64) then
    (l.without c.core).map (fun (x : Copy) => if x.core = 64 ∧ c.isDirty = true then { x with st := c.st, bytes := c.bytes, poison := c.poison } else x)
  else l.without c.core ++ [{ c with core := 64, hold := false, waits := false }]

theorem State.toVictim_eq (s : State) (l : Line) (c : Copy) (addr : Nat) : s.toVictim l c addr = s.setLine addr (some { l with copies := l.toVictim c }) := rfl

/-- A victim is gone from its L2. -/
theorem Line.toVictim_core (l : Line) (c : Copy) (h : c.core < 64) (x : Copy) (hx : x ∈ l.toVictim c) : x.core ≠ c.core := by
  unfold Line.toVictim at hx
  split at hx
  · obtain ⟨y, hy, rfl⟩ := List.mem_map.1 hx
    have := l.core_of_mem_without c.core y hy
    split <;> exact this
  · rcases List.mem_append.1 hx with hx | hx
    · exact l.core_of_mem_without c.core x hx
    · rw [List.mem_singleton.1 hx]; exact (Nat.ne_of_lt h).symm

theorem Line.toVictim_copyOf (l : Line) (c : Copy) (h : c.core < 64) : Line.copyOf { l with copies := l.toVictim c } c.core = none :=
  List.find?_eq_none.2 (fun x hx => by simpa using l.toVictim_core c h x hx)

/-- A dirty victim's data is the L3's. -/
theorem Line.toVictim_dirty (l : Line) (hl : l.sound) (c : Copy) (hc : l.copyOf c.core = some c) (hd : c.isDirty = true) :
    dirtyBytes (some { l with copies := l.toVictim c }) = some c.bytes := by
  have hrest := List.find?_eq_none.1 (l.without_dirty hl c.core c hc hd)
  unfold Line.toVictim
  split
  · rename_i h
    obtain ⟨y, hy, hy64⟩ := List.any_eq_true.1 h
    refine dirtyBytes_some _ _ _ _ (List.mem_map.2 ⟨y, hy, rfl⟩) (by rw [if_pos ⟨by simpa using hy64, hd⟩]; exact hd) (fun x hx dx => ?_)
    obtain ⟨z, hz, rfl⟩ := List.mem_map.1 hx
    split at dx
    · rename_i hz64; rw [if_pos hz64]
    · exact absurd dx (hrest z hz)
  · refine dirtyBytes_some _ _ _ _ (List.mem_append_right _ (List.mem_singleton_self _)) hd (fun x hx dx => ?_)
    rcases List.mem_append.1 hx with hx | hx
    · exact absurd dx (hrest x hx)
    · rw [List.mem_singleton.1 hx]

/-- A clean victim leaves the line's dirty copy. -/
theorem Line.toVictim_clean (l : Line) (hl : l.sound) (c : Copy) (hc : l.copyOf c.core = some c) (hd : c.isDirty = false) :
    (l.toVictim c).find? Copy.isDirty = l.dirty := by
  have hrest := l.without_clean hl c.core c hc hd
  unfold Line.toVictim
  split
  · simpa [hd] using hrest
  · have hnew : Copy.isDirty { c with core := 64, hold := false, waits := false } = false := hd
    rw [List.find?_append, hrest, List.find?_cons_of_neg (by simp [hnew]), List.find?_nil, Option.or_none]

theorem State.seen_toVictim (s : State) (l : Line) (c : Copy) (core addr : Nat) (hs : s.sound) (hl : s.line addr = some l)
    (hc : l.copyOf core = some c) (b : Nat) : (s.toVictim l c addr).seen b = s.seen b := by
  have hls := s.line_sound addr l hs hl
  obtain ⟨hm, rfl⟩ := l.copyOf_mem core c hc
  refine s.seen_setLine addr _ ?_ b
  rw [hl]
  cases hd : c.isDirty with
  | true => exact (l.toVictim_dirty hls c hc hd).trans (dirtyBytes_of_dirty l c (l.dirty_of_mem hls c hm hd)).symm
  | false => exact dirtyBytes_congr _ _ l (l.toVictim_clean hls c hc hd)

/-! ### Holds (R412) -/

/-- Copies changed in neither state nor bytes hold the same data. -/
theorem dirtyBytes_map (l : Line) (f : Copy → Copy) (hst : ∀ x, (f x).st = x.st) (hb : ∀ x, (f x).bytes = x.bytes) :
    dirtyBytes (some { l with copies := l.copies.map f }) = dirtyBytes (some l) := by
  have hd : Copy.isDirty ∘ f = Copy.isDirty := funext fun x => by simp only [Function.comp, Copy.isDirty, hst]
  unfold dirtyBytes
  simp only [Option.bind_some, Line.dirty_eq, List.find?_map, hd, Option.map_map]
  exact congrArg (Option.map · _) (funext hb)

theorem execHoldEnd_held (core addr : Nat) (s : State) (l : Line) (c : Copy) (hl : s.line addr = some l) (hc : l.copyOf core = some c) :
    execHoldEnd core addr s = .next (s.setLine addr (some { l with copies := l.copies.map (fun (x : Copy) =>
      if x.core = core then { x with hold := false, waits := false } else x) })) := by
  unfold execHoldEnd
  simp only [hl, hc, Option.isNone_some, Bool.false_eq_true, if_false]

/-- The end of a hold changes nothing that engines see. -/
theorem State.seen_holdEnd (s : State) (l : Line) (core addr : Nat) (hl : s.line addr = some l) (b : Nat) :
    (s.setLine addr (some { l with copies := l.copies.map (fun (x : Copy) => if x.core = core then { x with hold := false, waits := false } else x) })).seen b =
      s.seen b := by
  refine s.seen_setLine addr _ ?_ b
  rw [hl]
  refine dirtyBytes_map l _ (fun x => ?_) (fun x => ?_) <;> split <;> rfl

/-- A probe that reaches a copy in its hold, where no dead agent is injected, waits there and is counted. -/
theorem execProbe_hold (core addr : Nat) (s : State) (l : Line) (c : Copy) (hl : s.line addr = some l) (hc : l.copyOf core = some c)
    (hh : c.hold = true) (hw : c.waits = false) (ha : ∀ a ∈ s.armed, a.reg ≠ Reg.cdinj) :
    execProbe core addr s = .next ((s.setLine addr (some { l with copies := l.copies.map (fun (x : Copy) =>
      if x.core = core then { x with waits := true } else x) })).bump Reg.cderr 15 0 1) := by
  have hno : s.armed.any (fun a => a.reg == Reg.cdinj && a.kind == 5 && a.target == core / 8) = false :=
    List.any_eq_false.2 (fun a hm => by simp [ha a hm])
  unfold execProbe
  simp only [hl, hc, hno, hh, hw, Bool.false_and, Bool.not_false, Bool.and_self, Bool.false_eq_true, if_false, if_true]

/-! ### Engine reads (R414, R437) -/

/-- A line cleaned has no dirty copy. -/
theorem Line.clean_dirtyBytes (l : Line) : dirtyBytes (some l.clean) = none := by
  have h : l.clean.dirty = none := by
    rw [Line.dirty_eq, Line.clean, List.find?_map]
    refine Option.map_eq_none_iff.2 (List.find?_eq_none.2 (fun x _ => ?_))
    obtain ⟨_, st, _, _, _, _⟩ := x
    cases st <;> simp [Copy.isDirty]
  simp [dirtyBytes, h]

/-- Counting a request at its slice changes counters alone. -/
theorem State.mscCount_frame (s : State) (a n : Nat) : ∃ r f, s.mscCount a n = { s with regs := r, free := f } := by
  have hite : ∀ (p : Prop) [Decidable p] (t : State), (∃ r f, t = { s with regs := r, free := f }) →
      ∃ r f, (if p then t else s) = { s with regs := r, free := f } := by
    intro p _ t ht
    split
    · exact ht
    · exact ⟨s.regs, s.free, rfl⟩
  unfold State.mscCount
  cases region a with
  | hbm | deep => exact hite _ _ ⟨_, _, rfl⟩
  | _ => exact ⟨s.regs, s.free, rfl⟩

theorem State.seen_mscCount (s : State) (a n b : Nat) : (s.mscCount a n).seen b = s.seen b := by
  obtain ⟨r, f, h⟩ := s.mscCount_frame a n; rw [h]; rfl

theorem State.mscCount_armed (s : State) (a n : Nat) : (s.mscCount a n).armed = s.armed := by
  obtain ⟨r, f, h⟩ := s.mscCount_frame a n; rw [h]

/-- Where a line's data is that of its dirty copy, reading it leaves what engines see. -/
theorem State.seen_readLine (s : State) (a : Nat) (l : Line) (hw : Memory.wf s.mem = true) (hr : lineAtSlice a)
    (hs : ∀ c, l.dirty = some c → ∀ b, b / 64 = a / 64 → s.seen b = c.bytes.getD (b % 64) 0) (b : Nat) : (s.readLine a l).seen b = s.seen b := by
  unfold State.readLine
  cases hd : l.dirty with
  | none => rfl
  | some c =>
    dsimp only
    rw [State.seen_writeBack_setLine s a c _ hr hw l.clean_dirtyBytes]
    split
    · rename_i hb; exact (hs c hd b hb).symm
    · rfl

/-- A line read arms nothing and keeps memory's form. -/
theorem State.readLine_frame (s : State) (a : Nat) (l : Line) :
    (s.readLine a l).armed = s.armed ∧ (Memory.wf s.mem = true → Memory.wf (s.readLine a l).mem = true) := by
  unfold State.readLine
  cases l.dirty with
  | none => exact ⟨rfl, id⟩
  | some c =>
    obtain ⟨m, h, k, e, hm⟩ := s.writeBack_frame a c
    simp only [State.setLine_armed, State.setLine_mem, e, true_and]
    exact hm

theorem State.readLines_armed (es : List (Nat × Line)) (s : State) : (es.foldl (fun s e => s.readLine e.1 e.2) s).armed = s.armed := by
  induction es generalizing s with
  | nil => rfl
  | cons e es ih => rw [List.foldl_cons, ih, (s.readLine_frame e.1 e.2).1]

/-- Reading one line of the slices, however often the directory names it, leaves what engines see. -/
theorem State.seen_readLines (es : List (Nat × Line)) (s : State) (a : Nat) (l : Line) (hes : ∀ e ∈ es, e = (a, l)) (hw : Memory.wf s.mem = true)
    (hr : lineAtSlice a)
    (hs : ∀ c, l.dirty = some c → ∀ b, b / 64 = a / 64 → s.seen b = c.bytes.getD (b % 64) 0) (b : Nat) :
    (es.foldl (fun s e => s.readLine e.1 e.2) s).seen b = s.seen b := by
  induction es generalizing s with
  | nil => rfl
  | cons e es ih =>
    obtain rfl := hes e (List.mem_cons_self ..)
    have hone := s.seen_readLine a l hw hr hs
    calc (((a, l) :: es).foldl (fun s e => s.readLine e.1 e.2) s).seen b = (s.readLine a l).seen b :=
        ih (s.readLine a l) (fun e he => hes e (List.mem_cons_of_mem _ he)) ((s.readLine_frame a l).2 hw) (fun c hd b hb => (hone b).trans (hs c hd b hb))
      _ = s.seen b := hone b

/-- The lines that the directory holds of a read of one byte are the one of its address. -/
theorem State.heldLines_byte (s : State) (op addr : Nat) (l : Line) (hl : s.line addr = some l) (e : Nat × Line) (he : e ∈ s.heldLines [(op, addr, 1)]) :
    e = (addr / 64 * 64, l) := by
  obtain ⟨d, -, hd⟩ := List.mem_filterMap.1 he
  cases hx : s.line (64 * d.1) with
  | none => rw [hx] at hd; cases hd
  | some x =>
    simp only [hx, List.any_cons, List.any_nil, Bool.or_false, Bool.and_eq_true, decide_eq_true_eq] at hd
    split at hd
    · rename_i hin
      have hk : d.1 = addr / 64 := by omega
      rw [s.line_congr addr (64 * d.1) (by omega), hl] at hx
      cases hx; cases hd
      rw [hk, Nat.mul_comm]
    · cases hd

/-- An engine read of a byte, where no injection is armed, changes nothing that engines see. -/
theorem State.seen_meetReads_byte (s : State) (addr : Nat) (l : Line) (hs : s.sound) (hm : inMemRegions addr 1 = true) (hl : s.line addr = some l)
    (ha : s.armed = []) (b : Nat) : (s.meetReads none [(0, addr, 1)]).seen b = s.seen b := by
  have hr := lineAtSlice_of_inMemRegions addr hm
  have hread := State.seen_readLines (s.heldLines [(0, addr, 1)]) s (addr / 64 * 64) l (s.heldLines_byte 0 addr l hl) hs.1
    (by rwa [lineAtSlice, Nat.mul_div_cancel _ (by omega)]) (fun c hd b hb => s.seen_of_dirty addr l c hl hd b (by omega)) b
  have harm : (((s.heldLines [(0, addr, 1)]).foldl (fun s e => s.readLine e.1 e.2) s).mscCount addr 1).armed = [] := by
    rw [State.mscCount_armed, State.readLines_armed, ha]
  have hmeet : s.meetReads none [(0, addr, 1)] = ((s.heldLines [(0, addr, 1)]).foldl (fun s e => s.readLine e.1 e.2) s).mscCount addr 1 := by
    unfold State.meetReads
    simp only [List.foldl_cons, List.foldl_nil, Nat.one_ne_zero, if_false, harm, List.isEmpty_nil, if_true]
  rw [hmeet, State.seen_mscCount, hread]

/-- An engine read of a populated byte that meets no hold. -/
theorem execEngineRead_served (addr : Nat) (s : State) (hm : inMemRegions addr 1 = true) (hp : s.populated addr = true) (hw : s.mustWait addr 1024 = false) :
    execEngineRead addr s = .next (s.meetReads none [(0, addr, 1)]) := by
  have hr : region addr ≠ .nowhere := fun e => by simp [inMemRegions, e] at hm
  simp [execEngineRead, hr, hm, hp, hw]

/-- An engine read of an unpopulated byte has its record (R13, R437). -/
theorem execEngineRead_unpopulated (addr : Nat) (s : State) (hm : inMemRegions addr 1 = true) (hp : s.populated addr = false) :
    execEngineRead addr s = .next (s.addrRecord addr none) := by
  simp only [execEngineRead, if_pos (show region addr = .nowhere ∨ inMemRegions addr 1 = true ∧ s.populated addr = false from Or.inr ⟨hm, hp⟩)]

/-- Settles O43: each event sets the line's entry; what it does to the dirty copy (leaves it, hands its bytes on or writes them back) keeps the data seen. -/
theorem lineEventsKeepTheData : Obligations.LineEventsKeepTheData := by
  intro core addr s l c hs hm hl hc
  have hr := lineAtSlice_of_inMemRegions addr hm
  refine ⟨?_, fun hcore => ?_, fun hh hw ha => ⟨_, _, rfl, rfl, execProbe_hold core addr s l c hl hc hh hw ha⟩,
    ⟨_, execHoldEnd_held core addr s l c hl hc, rfl, s.seen_holdEnd l core addr hl⟩,
    fun hp hw => ⟨execEngineRead_served addr s hm hp hw, s.seen_meetReads_byte addr l hs hm hl⟩, execEngineRead_unpopulated addr s hm⟩
  · obtain ⟨r, he⟩ := execEviction_held core addr false s l c hl hc
    rw [Bool.false_and, if_neg Bool.false_ne_true] at he
    have hline := State.line_evictOut { s with lr := r } l c core addr
    refine ⟨_, he, fun m e => ?_, fun hempty => ?_, State.seen_evictOut { s with lr := r } l c core addr hs hr hl hc⟩
    · rw [hline] at e
      split at e <;> cases e
      rfl
    · exact hline.trans (if_pos (List.isEmpty_iff.2 hempty))
  · obtain ⟨r, he⟩ := execEviction_held core addr true s l c hl hc
    rw [decide_eq_true hcore, Bool.and_self, if_pos rfl] at he
    refine ⟨_, he, fun m e => ?_, State.seen_toVictim { s with lr := r } l c core addr hs hl hc⟩
    rw [State.toVictim_eq, State.line_setLine, if_pos rfl] at e
    obtain ⟨-, rfl⟩ := l.copyOf_mem core c hc
    cases e
    exact l.toVictim_copyOf c hcore

end Sys2Proof.Machine
end

section
/-! The scope's statements: what register fields and memory hold after a write, the state after reset, what a MOVE op reaches, plain register writes and
the debug port. -/

namespace Sys2Proof.Machine

/-! ### The state -/

/-- Settles O6, by the laws of a field's write and of a run of bytes. -/
theorem writesReadBack : Obligations.WritesReadBack := by
  refine ⟨fun s a hi lo v hh h64 => ⟨State.fld_put_same s a hi lo v hh h64, fun h l d hl _ => ?_, rfl, fun b hb => ?_⟩,
    fun s a bs hm => ⟨State.wf_poke s a bs hm, rfl, State.byte_poke s a bs hm⟩⟩
  · exact State.fld_put_apart s a hi lo v h l hh h64 hl d
  · exact State.rd_put_other s a b hi lo v (by simpa using hb)

/-- Settles O3: a reset state's tables and lists are empty. -/
theorem resetIsSound : Obligations.ResetIsSound := by
  refine ⟨⟨rfl, rfl, ?_, ?_, ?_⟩, rfl⟩
  · intro e he; cases he
  · exact Nat.zero_le _
  · intro r hr; cases hr

/-! ### MOVE ops (R7, R445) -/

@[simp] theorem isRig_move : isRig .move = false := rfl

@[simp] theorem Who.admits_move (w : Who) : w.admits .move = false := by cases w <;> rfl

theorem State.armRig_move (s : State) (ok : Bool) (reg kind target : Nat) : s.armRig .move ok reg kind target = s := by
  simp [State.armRig]

theorem State.mailCmd_move (s : State) (m : Nat) (seq : BitVec 16) (f : State → State × Nat × Nat) : s.mailCmd .move m seq f = s := by
  simp [State.mailCmd]

theorem State.biasStart_move (s : State) (entry code : Nat) (resv : Bool) : s.biasStart .move entry code resv = s := by
  simp [State.biasStart]

/-- Settles O7, by the guard with which each command that writes control space begins: none lets a MOVE op through. -/
theorem moveOpsReachNoControlSpace : Obligations.MoveOpsReachNoControlSpace := by
  intro c s h
  cases c with
  | registerWrite => cases h; rfl
  | getInfo | setPipeline | getPipeline | setSliplim | setMargin | readPlan | clearCounters | rebase =>
    cases h; exact congrArg Host.Outcome.next (State.mailCmd_move s _ _ _)
  | map | todevice | toshared | unmap => cases h; exact congrArg Host.Outcome.next (State.biasStart_move s _ _ _)
  | mxeInjColumnResidue | mxeInjWeightRegisterParity | mxeInjAStreamParity | mxeInjTurnLoaderParity | mxeAccinjOneBit | mxeAccinjTwoBits | vxeInjTqEccOneBit
  | vxeInjTqEccTwoBits | vxeInjLaneParity | vxeInjPermuteParity | asqInjDirEccOneBit | asqInjDirEccTwoBits | asqInjExponentParity | asqInjGatherParity
  | stmInjLaneResidue | stmInjTermParity | stmInjGatherParity | uuInjDatapathResidue | uuInjRecordParity | uuInjEncoderParity | itkInjHuffmanParity
  | itkInjTransformResidue | itkInjEccOneBit | itkInjEccTwoBits | fltInjUnitWatchdog | fltInjTileStoreOneBit | fltInjTileStoreTwoBits | fltInjTcrc
  | fltInjRfmAlarm | fltInjLaneLockLoss | fltInjHostUr | fltInjOffset | fltInjCoreWatchdog | fltInjQueueTwoBits | fltInjFuse =>
    cases h; exact congrArg Host.Outcome.next (State.armRig_move s _ _ _ _)
  | hbcInjWOneSymbol | hbcInjWFourSymbols | hbcInjACrc | hbcInjReadoutFailure | mscInjOneBit | mscInjTwoBits | rigCdinjL2OneBit | rigCdinjL2TwoBits
  | rigCdinjL3TwoBits | rigCdinjDirectory | rigCdinjDeadAgent | dtcInjOneSector | dtcInjThreeSectors | dtcInjClassASector | hlkInjFlitCrc
  | hlkInjCompletionTimeout | hlkInjForcedRecovery | stlInjLaneParity | stlInjFlitCrc | hwpPinjUncorrectableCodeword | hwpPinjCrcError | hwpPinjForcedRetrain
  | pwrInjInputAlert | pwrInjInputFault | pwrInjRailFault | pwrInjCapfail | pwrInjHot | pwrInjTrip | pwrInjHbmHot | pwrInjCoolant | pwrInjSensor
  | pwrInjMezzanine | mxeColmap | secRevoke | kick =>
    -- for the rigging cores alone: `isRig_move`
    cases h; rfl
  | rigWctl | trippedClear | asqDirclr | release | tirRelease | trnInv | tmbOutctl | rscRst | go | abort | secAttcmd | fltQhead | ovfClear | pwrOff
  | pwrCaphost | pwrCapbmc =>
    -- for the agents that a register's row admits: `Who.admits_move`
    cases h; rfl
  | _ =>
    -- no write to control space: it has no sender
    cases h

/-! ### Plain register writes (R7, R494) -/

/-- A register written once differs from what it was there alone. -/
theorem State.wr_regsOnly (s : State) (a : Nat) (v : Word) : regsOnly s (s.wr a v) [a] :=
  ⟨rfl, fun b hb => State.rd_wr_other s a b v (by simpa using hb)⟩

theorem State.bump_regsOnly (s : State) (a hi lo n : Nat) : regsOnly s (s.bump a hi lo n) [a] := State.wr_regsOnly s a _

theorem regsOnly_refl (s : State) (as : List Nat) : regsOnly s s as := ⟨rfl, fun _ _ => rfl⟩

/-- A word whose 64 bits are all written is the value written. -/
theorem putBits_word (w v : Word) : putBits w 63 0 v.toNat = v := by
  have hv := v.isLt
  refine BitVec.eq_of_toNat_eq ?_
  rw [putBits_toNat w 63 0 v.toNat (by omega) (by omega)]
  have hw := w.isLt
  omega

/-- An aligned write of 8 bytes covers its word. -/
theorem Wrt.of_word (ag : Agent) (addr : Nat) (v : Word) (h : addr % 8 = 0) : Wrt.of ag addr 8 v = ⟨ag, addr, v, 63, 0⟩ := by
  have hv : v.toNat % 2 ^ (8 * 8) = v.toNat := Nat.mod_eq_of_lt v.isLt
  simp only [Wrt.of, h, hv, Nat.mul_zero, Nat.zero_add, Nat.sub_zero]
  exact congrArg (Wrt.mk ag addr · 63 0) (putBits_word 0#64 v)

theorem regAligned_word (addr : Nat) (h : addr % 8 = 0) : regAligned addr 8 = true := by simp [regAligned, h]

/-- A write that no rule of its own takes is a plain write (R7). -/
theorem State.writeWord_plain (s : State) (w : Wrt) (h1 : s.writeSingle w = none) (h2 : s.writeGroup w = none) (h3 : s.writeInj w = none) :
    s.writeWord w = .next (s.plainWrite w) := by
  simp only [State.writeWord, h1, h2, h3]

theorem bootBase_le_bar2 : bootBase ≤ bar2 := by decide

/-- Where a write of a word to a populated register goes, from a rigging core and over a host link. -/
theorem execRegisterWrite_word (ag : Agent) (addr : Nat) (v : Word) (s : State) (hg : ag = .rig ∨ ∃ n, ag = .hl n) (ha : addr % 8 = 0)
    (hb : inRegBlock addr = true) (hw : addr < bootBase) :
    execRegisterWrite ag addr 8 v s = s.writeWord (Wrt.of ag addr 8 v) := by
  have hbar := bootBase_le_bar2
  rcases hg with rfl | ⟨n, rfl⟩
  · simp [execRegisterWrite, regAligned_word addr ha, hb, hw]
  · simp [execRegisterWrite, regAligned_word addr ha, hb, show ¬ bar2 ≤ addr by omega, show ¬ bootBase ≤ addr by omega]

/-- A plain write of a whole word, where the register map has a row for it. -/
theorem State.plainWrite_word (s : State) (ag : Agent) (addr : Nat) (v : Word) (r : RegRow) (hr : rowAt addr regMap = some r) :
    s.plainWrite ⟨ag, addr, v, 63, 0⟩ = if r.who.admits ag then s.wr addr (writeFields r.fields (s.rd addr) v 63 0) else s := by
  simp only [State.plainWrite, hr]

theorem execRegisterWrite_plain (s : State) (ag : Agent) (r : RegRow) (addr : Nat) (v : Word) (ha : addr % 8 = 0) (hb : inRegBlock addr = true)
    (hw : addr < bootBase) (hg : ag = .rig ∨ ∃ n, ag = .hl n) (h1 : s.writeSingle (Wrt.of ag addr 8 v) = none)
    (h2 : s.writeGroup (Wrt.of ag addr 8 v) = none) (h3 : s.writeInj (Wrt.of ag addr 8 v) = none) (hr : rowAt addr regMap = some r) :
    ∃ t, execRegisterWrite ag addr 8 v s = .next t ∧
      t.rd addr = (if r.who.admits ag then writeFields r.fields (s.rd addr) v 63 0 else s.rd addr) ∧ regsOnly s t [addr] := by
  refine ⟨_, (execRegisterWrite_word ag addr v s hg ha hb hw).trans (s.writeWord_plain _ h1 h2 h3), ?_⟩
  rw [Wrt.of_word ag addr v ha, s.plainWrite_word ag addr v r hr]
  split
  · exact ⟨State.rd_wr_same s addr _, State.wr_regsOnly s addr _⟩
  · exact ⟨rfl, regsOnly_refl s _⟩

theorem execRegisterWrite_bar2 (n off : Nat) (v : Word) (s : State) (h : off < 0x4000) (hm : off % 16 = 12) :
    execRegisterWrite (.hl n) (bar2 + off) 4 v s = .next (s.maskVector (1024 * n + off / 16) (bit v 0)) := by
  have hin : bar2 ≤ bar2 + off ∧ bar2 + off < bar2 + 0x10000 := by omega
  simp only [execRegisterWrite, if_pos hin, Nat.add_sub_cancel_left, State.bar2Write, h, hm, and_self, if_true]

theorem execRegisterWrite_refused (n addr width : Nat) (v : Word) (s : State) (h : (regAligned addr width && inRegBlock addr) = false)
    (hb : addr < bar2 ∨ bar2 + 0x10000 ≤ addr) :
    execRegisterWrite (.hl n) addr width v s = .next (s.bump (Reg.hlkBar n) 63 32 1) := by
  have hout : ¬ (bar2 ≤ addr ∧ addr < bar2 + 0x10000) := by omega
  simp only [execRegisterWrite, if_neg hout, h, Bool.not_false, if_true]

/-! ### The debug port (R615) -/

/-- The debugger's answer to a challenge is good: its key is the debug key of the fuses, not revoked, and has signed the challenge (R615). -/
def State.debugSigned (s : State) (ch : List Byte) (req : Word) (key sig : List Byte) : Bool :=
  ofBytes (Config.sha3 key) == s.fuse (Fuse.keyHash 3) && s.fuse Fuse.keyRevoke / 8 % 2 == 0 &&
    Config.mldsaVerify key (ch ++ bytesOf 8 (s.fuse Fuse.serial) ++ bytesOf 8 req.toNat) sig

theorem State.debugSigned_iff (s : State) (ch : List Byte) (req : Word) (key sig : List Byte) :
    s.debugSigned ch req key sig = true ↔ ofBytes (Config.sha3 key) = s.fuse (Fuse.keyHash 3) ∧ s.fuse Fuse.keyRevoke / 8 % 2 = 0 ∧
      Config.mldsaVerify key (ch ++ bytesOf 8 (s.fuse Fuse.serial) ++ bytesOf 8 req.toNat) sig = true := by
  simp only [State.debugSigned, Bool.and_eq_true, beq_iff_eq, and_assoc]

/-- The challenge that DBGAUTH gives (R615). -/
def State.debugChallenge (s : State) (random : BitVec 256) : List Byte :=
  Config.sha3 (bytesOf 8 (s.fuse Fuse.serial) ++ bytesOf 8 s.ns ++ bytesOf 32 random.toNat)

/-- Does DBGAUTH open a session (R615, Table 18.10)? -/
def State.debugOpens (s : State) (random : BitVec 256) (req : Word) (key sig : List Byte) : Bool :=
  s.debugAdmits.1 && (!s.debugAdmits.2 || s.debugSigned (s.debugChallenge random) req key sig)

/-- DBGAUTH sets the instruction and the challenge, and opens a session or leaves it as it was. -/
theorem execDbgauth_eq (random : BitVec 256) (req : Word) (key sig : List Byte) (s : State) :
    execDbgauth random req key sig s = .next { s with
      jtag := 0x10, challenge := s.debugChallenge random, session := s.session || s.debugOpens random req key sig } := by
  have h : execDbgauth random req key sig s = .next (if s.debugOpens random req key sig
      then { s with jtag := 0x10, challenge := s.debugChallenge random, session := true }
      else { s with jtag := 0x10, challenge := s.debugChallenge random }) := rfl
  rw [h]
  cases s.debugOpens random req key sig <;> simp

theorem execDbgauth_session (random : BitVec 256) (req : Word) (key sig : List Byte) (s : State) :
    ∃ t, execDbgauth random req key sig s = .next t ∧ t.jtag = 0x10 ∧
      t.challenge = Config.sha3 (bytesOf 8 (s.fuse Fuse.serial) ++ bytesOf 8 s.ns ++ bytesOf 32 random.toNat) ∧
      (t.session = true ↔ s.session = true ∨ (s.debugAdmits.1 = true ∧ (s.debugAdmits.2 = false ∨
        (ofBytes (Config.sha3 key) = s.fuse (Fuse.keyHash 3) ∧ s.fuse Fuse.keyRevoke / 8 % 2 = 0 ∧
          Config.mldsaVerify key (t.challenge ++ bytesOf 8 (s.fuse Fuse.serial) ++ bytesOf 8 req.toNat) sig = true)))) ∧
      { t with jtag := s.jtag, challenge := s.challenge, session := s.session } = s := by
  refine ⟨_, execDbgauth_eq random req key sig s, rfl, rfl, ?_, rfl⟩
  simp only [State.debugOpens, Bool.or_eq_true, Bool.and_eq_true, Bool.not_eq_true', State.debugSigned_iff]

theorem execDbgacc_closed (code arg : Nat) (v : Word) (s : State) (h : s.session = false) :
    execDbgacc code arg v s = .next { s with jtag := 0x11 } := by
  simp only [execDbgacc, h, Bool.not_false, if_true]

/-- The accesses of an open session whose codes stop and start the cores, read a register, reset the module and end the session. -/
theorem execDbgacc_open (arg : Nat) (v : Word) (s : State) (h : s.session = true) :
    execDbgacc 0 arg v s = .next { s with jtag := 0x11, halted := true } ∧ execDbgacc 1 arg v s = .next { s with jtag := 0x11, halted := false } ∧
      execDbgacc 2 arg v s = .next { (State.debugRead { s with jtag := 0x11 } arg).2 with reply := (State.debugRead { s with jtag := 0x11 } arg).1 } ∧
      execDbgacc 8 arg v s = .next (State.moduleReset { s with jtag := 0x11 } 8) ∧
      execDbgacc 9 arg v s = .next { s with jtag := 0x11, session := false } := by
  refine ⟨?_, ?_, ?_, ?_, ?_⟩ <;> simp [execDbgacc, execDebug, h]

/-- Settles O59, port by port. -/
theorem sidebandAndControlSpace : Obligations.SidebandAndControlSpace := by
  intro s
  refine ⟨fun addr h0 h128 => ⟨if_pos ⟨h0, h128⟩, if_pos ⟨h0, h128⟩⟩, fun hpin => ⟨?_, ?_⟩, rfl, rfl,
    fun random req key sig => execDbgauth_session random req key sig s, fun code arg v h => execDbgacc_closed code arg v s h,
    fun arg v h => execDbgacc_open arg v s h,
    fun ag r addr v ha hb hw hg h1 h2 h3 hr => execRegisterWrite_plain s ag r addr v ha hb hw hg h1 h2 h3 hr,
    fun n off v h hm => execRegisterWrite_bar2 n off v s h hm, fun n addr width v h hb => ?_⟩
  · exact if_neg (by simp [hpin])
  · exact if_neg (by simp [hpin])
  · exact ⟨_, execRegisterWrite_refused n addr width v s h hb, State.fld_bump_same s _ 63 32 1 (by omega) (by omega), State.bump_regsOnly s _ _ _ _⟩

end Sys2Proof.Machine
end

section
/-! The messages of Table 17.5 that arrive at this module: notices, acknowledgements, tiles and node tiles. -/

namespace Sys2Proof.Machine

/-! ### Notices and acknowledgements (R352, R355, R533, R534)

What each command does with a block that the port's part (`State.receive`) has found this module's to act on, with `t` the state after that part. -/

section
variable {s t : State} {port : Nat} {b : Block}

theorem execReady_mine (h : s.receive port 3 b = (true, t)) :
    execReady port b s = .next { t with notices := t.notices ++ [(b.src, b.tag, port)] } := by
  simp only [execReady, h, if_true]

theorem execE2eack_mine (h : s.receive port 2 b = (true, t)) {u : State}
    (hu : u = { t with sentOut := t.sentOut.eraseP (fun m => m.q == (tagOf b.tag).pq && m.s == (tagOf b.tag).ps && m.typ == tagBits b.tag 192 4 &&
      m.dst == b.src && m.name == msgName b.tag) }) :
    execE2eack port b s = .next ((u.settle.freshen.noteDeps).syncQ (tagOf b.tag).pq) := by
  simp only [execE2eack, h, hu, Bool.not_true, Bool.false_eq_true, if_false]

/-- An ABANDON of a key that was abandoned before is counted alone (R355). -/
theorem execAbandon_again (h : s.receive port 4 b = (true, t)) (hk : t.abandoned.any (fun x => x.1 == tagBits b.tag 0 100) = true) :
    execAbandon port b s = .next (t.bump Reg.xcnt 15 0 1) := by
  simp only [execAbandon, h, hk, State.bump_abandoned, Bool.not_true, Bool.false_eq_true, if_false, if_true]

/-- The first ABANDON of a key stands, and ends the op of that key, where there is one (R355). -/
theorem execAbandon_first (h : s.receive port 4 b = (true, t)) (hk : t.abandoned.any (fun x => x.1 == tagBits b.tag 0 100) = false) {u : State}
    (hu : u = { (t.bump Reg.xcnt 15 0 1) with abandoned := t.abandoned ++ [(tagBits b.tag 0 100, port)] }) :
    execAbandon port b s = .next
      ((u.ops.find? (fun o => o.d.cascade && o.rc 5 != [] && o.phase != .ended && o.castKey == tagBits b.tag 0 100)).elim u
        (fun o => u.failOp o.q o.s stLinkLost port)) := by
  subst hu
  simp only [execAbandon, h, hk, State.bump_abandoned, State.bump_ops, Bool.not_true, Bool.false_eq_true, if_false]
  cases t.ops.find? (fun o => o.d.cascade && o.rc 5 != [] && o.phase != .ended && o.castKey == tagBits b.tag 0 100) <;> rfl

theorem execRetry_up (h : s.portUp port = true) (ack : Nat) : execRetry port ack s = .next ((s.acked port ack).resend port) := if_pos h

/-! ### Tiles (R339, R352, R532) -/

/-- DATA without flits: the sender's op moves nothing, and the receiver's is done (R340). -/
theorem execData_noData (h : s.receive port 0 b = (true, t)) {o : OpRec} (ho : (t.xrecvFor b.src (b.extra.headD 0)).map (t.view (56 + port)) = some o)
    (hd : o.d.noData = true) : execData port b s = .next ((t.mapOp o.q o.s (fun x => { x with done := [0] })).settle) := by
  simp only [execData, h, ho, hd, Bool.not_true, Bool.false_eq_true, if_false, if_true]

/-- A block of a tile that the XRECV still lacks: its flits are kept, and the tile arrives with the block that completes it (R23, R532). -/
theorem execData_lacked (h : s.receive port 0 b = (true, t)) {o : OpRec} (ho : (t.xrecvFor b.src (b.extra.headD 0)).map (t.view (56 + port)) = some o)
    (hd : o.d.noData = false) {d : Obj} (h3 : o.obj 3 = some d) (hl : o.lacks (tagOf b.tag) = true)
    {m : Option (BitVec 256 × List Byte)} {v : State} (hm : (t.addFlits port 0 b).takeMsg 0 b.src b.tag d.msgBytes = (m, v)) :
    execData port b s = .next (m.elim v (fun x => v.arrive o d b.src port x.1 x.2)) := by
  simp only [execData, h, ho, hd, h3, hl, hm, Bool.not_true, Bool.false_eq_true, if_false]
  cases m <;> rfl

/-! ### Node tiles (R195 to R197, R364) -/

/-- A block of a node tile whose op is not taken in yet waits in the tile store (R364). -/
theorem execNode_early (h : s.receive port 1 b = (true, t)) (ho : t.op? (tagOf b.tag).pq (tagOf b.tag).ps = none)
    (hb : before (tagOf b.tag).ps (t.fld (Reg.qhead (tagOf b.tag).pq) 31 0) = false) : execNode port b s = .next (t.addFlits port 1 b) := by
  simp only [execNode, h, ho, hb, Bool.not_true, Bool.false_eq_true, if_false]

/-- A block that completes a node tile for an op of rank 0 brings the tile to the op. -/
theorem execNode_whole (h : s.receive port 1 b = (true, t)) {o : OpRec} (ho : t.op? (tagOf b.tag).pq (tagOf b.tag).ps = some o)
    (hmir : o.mirrored = true) (hrank : o.rank = 0) {tag : BitVec 256} {bs : List Byte} {v : State}
    (hm : (t.addFlits port 1 b).takeMsg 1 b.src b.tag (nodeTileBytes (accOf o.d.acc)) = (some (tag, bs), v)) :
    execNode port b s = .next (v.takeNode o port b.src tag b.extra bs) := by
  simp only [execNode, h, ho, State.nodeFor, hm, hmir, hrank, Bool.not_true, Bool.false_eq_true, if_false, BEq.rfl, Bool.and_self, if_true]

end

/-- A node tile with a failing TCRC is recorded, forgotten and computed again (R197). -/
theorem State.takeNode_badCrc (s : State) {o : OpRec} {x : Shape} {d : Obj} (hx : o.matrixShape = some (x, d)) (port src : Nat) {tag : BitVec 256}
    (hc : (tagOf tag).crcOk = false) (head : List Nat) (bs : List Byte) :
    s.takeNode o port src tag head bs = ((s.form
      { cls := 2, sev := 2, rtype := 0, det := 0x2A, dom := 3, inst := 32 + port, op := some (o.q, o.s, o.ctx) }).mapOp o.q o.s
        (fun x => { x with replayB := true, replays := x.replays + 1 })).forgetMsg 1 src tag := by
  simp only [State.takeNode, hx, hc, Bool.not_false, if_true]

/-- A node tile that agrees with its op enters the accumulator store with the slices of its sender's rank, is acknowledged and combined (R195, R196, R534). -/
theorem State.takeNode_agrees (s : State) {o : OpRec} {x : Shape} {d : Obj} (hx : o.matrixShape = some (x, d)) (port : Nat) {src : Nat} {tag : BitVec 256}
    (hc : (tagOf tag).crcOk = true) {head : List Nat} (hh : head = o.nodeHead) {bs : List Byte} {lh : Nat × Nat}
    (hlh : lh = (mirrorCut x.slices o.size).getD (o.members.idxOf src) (0, 0)) {n : NodeTile}
    (hn : n = { src := src, q := o.q, s := o.s, work := o.workOf d (tagOf tag).tdep (tagOf tag).trow (tagOf tag).tcol, tag := tag, lo := lh.1, hi := lh.2,
                piece := 0, home := 255, quad := 255, unit := 255, head := head, bads := [], data := bs }) :
    s.takeNode o port src tag head bs = ((({ s with nodes := s.nodes ++ [n] } : State).sendMsg 2 src (ackTag 1 tag) [] []).combine o x d n.work).settle := by
  subst hn hlh hh
  simp only [State.takeNode, hx, hc, bne_self_eq_false, Bool.not_true, Bool.false_eq_true, if_false]

/-- Settles O34, command by command: what each does with a block that is its own to act on. -/
theorem messagesArrive : Obligations.MessagesArrive := by
  refine ⟨fun port b s t => ⟨execReady_mine, fun h u => execE2eack_mine h, fun h => ⟨execAbandon_again h, fun hk u hu => ?_⟩, execRetry_up⟩,
    fun port b s t v o d h ho => ⟨execData_noData h ho, fun hd h3 hl => ⟨execData_lacked h ho hd h3 hl, fun tag bs => execData_lacked h ho hd h3 hl⟩⟩,
    fun port b s t h => ⟨execNode_early h, fun o tag bs v x d lh ho hmir hrank hx hm hlh => ?_⟩⟩
  · -- the first ABANDON of its key: with and without an op of that key
    have he := execAbandon_first h hk hu
    exact ⟨fun o ho => by rw [ho] at he; exact he, fun ho => by rw [ho] at he; exact he⟩
  · -- a whole node tile: its check holds or fails
    have he := execNode_whole h ho hmir hrank hm
    exact ⟨fun hc hh n hn => he.trans (congrArg _ (v.takeNode_agrees hx port hc hh hlh hn)),
      fun hc => he.trans (congrArg _ (v.takeNode_badCrc hx port b.src hc b.extra bs))⟩

end Sys2Proof.Machine
end

section
/-! Ops under the shared operations: what the list of ops holds after an op is changed, started, begun and ended; and a finished tile's place. -/

namespace Sys2Proof.Machine

/-! ### The op of a queue and serial -/

/-- An op found has the queue and serial asked for. -/
theorem State.op?_key {s : State} {q sn : Nat} {o : OpRec} (h : s.op? q sn = some o) : o.q = q ∧ o.s = sn := by
  simpa using List.find?_some h

/-- Ops are found in the list of ops alone. -/
theorem State.op?_congr {s t : State} (h : t.ops = s.ops) (q sn : Nat) : t.op? q sn = s.op? q sn := by rw [State.op?, h, State.op?]

/-- Ops changed one by one in all but their queue and serial are found where they were. -/
theorem State.op?_of_map {s t : State} (g : OpRec → OpRec) (ht : t.ops = s.ops.map g) (hq : ∀ o, (g o).q = o.q) (hs : ∀ o, (g o).s = o.s) (q sn : Nat) :
    t.op? q sn = (s.op? q sn).map g := by
  have hp : (fun o : OpRec => o.q == q && o.s == sn) ∘ g = fun o => o.q == q && o.s == sn := funext fun o => by simp [hq, hs]
  rw [State.op?, ht, List.find?_map, hp, State.op?]

/-- `mapOp` changes the op it names alone, where the change keeps that op's queue and serial. -/
theorem State.op?_mapOp (s : State) {q sn : Nat} {f : OpRec → OpRec} (hf : ∀ o, o.q = q → o.s = sn → (f o).q = q ∧ (f o).s = sn) (a b : Nat) :
    (s.mapOp q sn f).op? a b = (s.op? a b).map (fun o => if o.q = q ∧ o.s = sn then f o else o) := by
  refine State.op?_of_map _ rfl (fun o => ?_) (fun o => ?_) a b
  · split
    · rename_i h; exact (hf o h.1 h.2).1.trans h.1.symm
    · rfl
  · split
    · rename_i h; exact (hf o h.1 h.2).2.trans h.2.symm
    · rfl

theorem State.op?_mapOp_same {s : State} {q sn : Nat} {f : OpRec → OpRec} {o : OpRec} (h : s.op? q sn = some o)
    (hf : ∀ o, o.q = q → o.s = sn → (f o).q = q ∧ (f o).s = sn) : (s.mapOp q sn f).op? q sn = some (f o) := by
  rw [State.op?_mapOp s hf, h, Option.map_some, if_pos (State.op?_key h)]

theorem State.op?_mapOp_other (s : State) {q sn a b : Nat} {f : OpRec → OpRec} (hf : ∀ o, o.q = q → o.s = sn → (f o).q = q ∧ (f o).s = sn)
    (hn : (a, b) ≠ (q, sn)) : (s.mapOp q sn f).op? a b = s.op? a b := by
  rw [State.op?_mapOp s hf]
  cases h : s.op? a b with
  | none => rfl
  | some o =>
    obtain ⟨rfl, rfl⟩ := State.op?_key h
    rw [Option.map_some, if_neg (fun e => hn (Prod.ext e.1 e.2))]

/-- BUSY and CRFULL leave every op. -/
@[simp] theorem State.op?_syncQ (s : State) (r q sn : Nat) : (s.syncQ r).op? q sn = s.op? q sn := rfl

/-- An op that has ended has no beat noted for its dependencies any more. -/
theorem State.op?_noteDeps_ended {s : State} {q sn : Nat} {o : OpRec} (h : s.op? q sn = some o) (he : o.phase = .ended) :
    s.noteDeps.op? q sn = some o := by
  rw [State.op?_of_map (s := s) (t := s.noteDeps) _ rfl (fun o => by split <;> rfl) (fun o => by split <;> rfl), h, Option.map_some]
  simp [he]

/-- What a look at the records that have become ready leaves of an op: all but its record's own state. -/
theorem State.op?_freshen {s : State} {q sn : Nat} {o : OpRec} (h : s.op? q sn = some o) :
    ∃ r, s.freshen.op? q sn = some { o with record := r } ∧ (r = o.record ∨ r = .ready) := by
  rw [State.op?_of_map (s := s) (t := s.freshen) _ rfl (fun o => by split <;> rfl) (fun o => by split <;> rfl), h, Option.map_some]
  split
  · exact ⟨.ready, rfl, Or.inr rfl⟩
  · exact ⟨o.record, rfl, Or.inl rfl⟩

/-! ### The end of an op (R60, R62) -/

/-- An op as it stands ended in beat `b`, its record apart. -/
def OpRec.endedIn (o : OpRec) (b status detail : Nat) : OpRec :=
  { o with phase := .ended, status := status, detail := detail, endB := b, startB := if o.begun then o.startB else b,
           beats := if o.begun then min (b + 1 - o.startB) 0xFFFFFF else 0 }

/-- Retiring a micro-batch leaves the ops. -/
@[simp] theorem State.retireMb_ops (s : State) (ctx mb : Nat) : (s.retireMb ctx mb).ops = s.ops := by
  unfold State.retireMb
  dsimp only
  split <;> rfl

/-- The end of an op outside the cascade and the reductions with a good status: the op is ended in its place, and records and dependencies are looked at
again. -/
theorem State.endOp_good {s : State} {q sn status detail : Nat} {o : OpRec} (h : s.op? q sn = some o) (hp : o.phase ≠ .ended) (hst : status < 0x100)
    (hc : o.d.cascade = false) (h7 : o.d.cls ≠ 7) :
    ∃ t : State, s.endOp q sn status detail = (t.freshen.noteDeps).syncQ q ∧ t.ops = (s.mapOp q sn (fun _ => o.endedIn s.beat status detail)).ops := by
  have hlost : status ≠ stLinkLost := by unfold stLinkLost; omega
  have hloose : status / 256 ≠ 2 := by omega
  have hhalt : ¬ 0x100 ≤ status := by omega
  unfold State.endOp
  rw [h]
  dsimp -zeta only
  rw [if_neg (by simpa using hp)]
  extract_lets b begun e s1 s2 s2' s2'' s3 s4 s5 s6 s7 s8
  have h3 : s3 = s2' := (if_neg (fun c => hloose c.2.1)).trans (if_neg hlost)
  have h4 : s4.ops = s3.ops := by
    show (if s3.endRetires o then s3.retireMb o.ctx o.d.mb else s3).ops = s3.ops
    split
    · exact State.retireMb_ops _ _ _
    · rfl
  have h6 : s6 = s4 := (if_neg (fun c => absurd (hc.symm.trans c.1) Bool.false_ne_true)).trans (if_neg (fun c => h7 c.1))
  have h8 : s8 = s6 := (if_neg (fun c => hhalt c.1)).trans (if_neg (fun c => absurd (hc.symm.trans c.1) Bool.false_ne_true))
  exact ⟨s8, rfl, by rw [h8, h6, h4, h3]; rfl⟩

/-- The op of such an end, found in its place. -/
theorem State.op?_endOp_good {s : State} {q sn status detail : Nat} {o : OpRec} (h : s.op? q sn = some o) (hp : o.phase ≠ .ended) (hst : status < 0x100)
    (hc : o.d.cascade = false) (h7 : o.d.cls ≠ 7) :
    ∃ r, (s.endOp q sn status detail).op? q sn = some { o.endedIn s.beat status detail with record := r } ∧ (r = o.record ∨ r = .ready) := by
  obtain ⟨t, ht, hops⟩ := State.endOp_good (detail := detail) h hp hst hc h7
  have hkey := State.op?_key h
  have hin : t.op? q sn = some (o.endedIn s.beat status detail) := (State.op?_congr hops q sn).trans (State.op?_mapOp_same h (fun _ _ _ => hkey))
  obtain ⟨r, hr, hrec⟩ := State.op?_freshen hin
  refine ⟨r, ?_, hrec⟩
  rw [ht, State.op?_syncQ, State.op?_noteDeps_ended hr rfl]

/-- Settles O16: the op stands as `OpRec.endedIn` makes it, whatever the look at ready records does with its record. -/
theorem endedOpHoldsItsOutcome : Obligations.EndedOpHoldsItsOutcome := by
  intro s o status detail h hp hst hc h7
  obtain ⟨r, hr, hrec⟩ := State.op?_endOp_good (detail := detail) h (by rw [hp]; decide) hst hc h7
  exact ⟨_, hr, rfl, rfl, rfl, rfl, rfl, rfl, rfl, hrec⟩

/-! ### Registers written by a command -/

theorem State.put_regsOnly (s : State) (a hi lo v : Nat) : regsOnly s (s.put a hi lo v) [a] := State.wr_regsOnly s a _

theorem State.putBit_regsOnly (s : State) (a i : Nat) (b : Bool) : regsOnly s (s.putBit a i b) [a] := State.wr_regsOnly s a _

/-! ### A finished tile (R58, R148, R214, R364) -/

/-- The values of a tile, row by row. -/
theorem length_rows_flatten {α : Type} (m n : Nat) (f : Nat → Nat → α) :
    ((List.range m).map (fun i => (List.range n).map (fun j => f i j))).flatten.length = m * n := by
  simp [List.length_flatten, Function.comp_def]

/-- At another rank of a mirrored group than 0 a finished tile stands as a node tile, in place of an earlier one of its work unit. -/
theorem State.finishTile_node (s : State) {o : OpRec} (x : Shape) (d : Obj) (unit vxe piece quad work : Nat) (bads : List Bool) (f : Nat → Nat → Node)
    (hm : (o.mirrored && o.rank != 0) = true) :
    ∃ n : NodeTile, n.q = o.q ∧ n.s = o.s ∧ n.work = work ∧ n.src = s.selfAddr ∧ (n.lo, n.hi) = x.own ∧ n.unit = unit ∧
      s.finishTile o x d unit vxe piece quad work bads f =
        { s with nodes := s.nodes.filter (fun m => !(m.q == o.q && m.s == o.s && m.work == work)) ++ [n] } := by
  unfold State.finishTile
  obtain ⟨p, r, c⟩ := o.tileOf d work
  dsimp -zeta only
  rw [if_pos hm]
  exact ⟨_, rfl, rfl, rfl, rfl, rfl, rfl, rfl⟩

/-- Elsewhere it is fed to its tile queue, with its tag and its values, unless it is done already. -/
theorem State.finishTile_feed (s : State) {o : OpRec} (x : Shape) (d : Obj) (unit vxe piece quad work : Nat) (bads : List Bool) (f : Nat → Nat → Node)
    (hm : (o.mirrored && o.rank != 0) = false) (hd : o.done.contains work = false) :
    ∃ e : TileEntry, e.vxe = vxe ∧ e.unit = unit ∧ e.q = o.q ∧ e.s = o.s ∧ e.piece = piece ∧ e.quad = quad ∧ e.work = work ∧ e.nans = bads ∧
      e.tag = s.queueTag o d (o.tileOf d work).1 (o.tileOf d work).2.1 (o.tileOf d work).2.2 ∧
      e.vals.length = d.vrows (o.tileOf d work).2.1 * d.vcols (o.tileOf d work).2.2 ∧ s.finishTile o x d unit vxe piece quad work bads f = s.feed e := by
  unfold State.finishTile
  obtain ⟨p, r, c⟩ := o.tileOf d work
  dsimp -zeta only
  rw [hm, hd, Bool.false_and, if_neg Bool.false_ne_true, if_neg Bool.false_ne_true]
  exact ⟨_, rfl, rfl, rfl, rfl, rfl, rfl, rfl, rfl, rfl, length_rows_flatten _ _ _, rfl⟩

/-- A tile enters its queue, and the queue's level counts it (R148). -/
theorem State.feed_room {s : State} {e : TileEntry} (h : (s.tileQ.filter (fun t => t.vxe == e.vxe)).length < tqEntries) :
    s.feed e = State.syncTq { s with tileQ := s.tileQ ++ [e] } e.vxe := if_pos h

/-- Without an entry free it waits at its unit. -/
theorem State.feed_full {s : State} {e : TileEntry} (h : tqEntries ≤ (s.tileQ.filter (fun t => t.vxe == e.vxe)).length) :
    s.feed e = { s with stalled := s.stalled ++ [e] } := if_neg (Nat.not_lt.2 h)

/-- The level of a queue after the entries were counted. -/
theorem State.fld_syncTq (s : State) (vxe : Nat) : (s.syncTq vxe).fld (Reg.vxeStat vxe) 11 8 = (s.tileQ.filter (fun t => t.vxe == vxe)).length % 16 :=
  State.fld_put_same s _ 11 8 _ (by omega) (by omega)

/-- Settles O30, by where `finishTile` takes the tile and what `feed` does with it. -/
theorem finishedTileIsQueuedOrWaits : Obligations.FinishedTileIsQueuedOrWaits := by
  refine ⟨fun s o x d unit vxe piece quad work bads f =>
      ⟨s.finishTile_feed x d unit vxe piece quad work bads f, s.finishTile_node x d unit vxe piece quad work bads f⟩,
    fun s e => ⟨fun h => ?_, State.feed_full⟩⟩
  rw [State.feed_room h]
  refine ⟨rfl, ?_, rfl, fun a ha => State.rd_put_other _ _ a _ _ _ (by simpa using ha)⟩
  rw [State.fld_syncTq, List.filter_append, List.length_append]
  simp

end Sys2Proof.Machine
end

section
/-! Hardware queues: doorbell, EN, FLUSH, RESUME and take-in (Table 2.10, R44 to R53). -/

namespace Sys2Proof.Machine

/-! ### Doorbell (R45) -/

/-- A serial's distances that fit the ring, on a queue that takes doorbells (R45). -/
def State.doorbellFits (s : State) (q : Nat) (t : BitVec 32) : Prop :=
  s.enabled q = true ∧ s.flushing q = false ∧ ahead t.toNat (s.fld (Reg.qtail q) 31 0) ≤ s.ringEntries q ∧
    ahead t.toNat (s.fld (Reg.qhead q) 31 0) ≤ s.ringEntries q

/-- The doorbell's own test of it. -/
theorem State.doorbellFits_iff (s : State) (q : Nat) (t : BitVec 32) :
    (s.enabled q && !s.flushing q && decide (ahead t.toNat (s.fld (Reg.qtail q) 31 0) ≤ s.ringEntries q) &&
      decide (ahead t.toNat (s.fld (Reg.qhead q) 31 0) ≤ s.ringEntries q)) = true ↔ s.doorbellFits q t := by
  simp only [State.doorbellFits, Bool.and_eq_true, Bool.not_eq_true', decide_eq_true_eq, and_assoc]

theorem execDoorbell_fits {s : State} {q : Nat} {t : BitVec 32} (h : s.doorbellFits q t) : execDoorbell q t s = .next (s.put (Reg.qtail q) 31 0 t.toNat) :=
  if_pos ((s.doorbellFits_iff q t).2 h)

theorem execDoorbell_misfits {s : State} {q : Nat} {t : BitVec 32} (h : ¬ s.doorbellFits q t) : execDoorbell q t s = .next (s.putBit (Reg.qstat q) 2 true) :=
  if_neg (fun c => h ((s.doorbellFits_iff q t).1 c))

/-- Settles O10: the command writes RIG_QTAIL or DBERR, a field of one register each time. -/
theorem doorbellRule : Obligations.DoorbellRule := by
  intro q t s fits
  refine ⟨fun h => ⟨_, execDoorbell_fits h, ?_, ?_, State.put_regsOnly s _ _ _ _⟩,
    fun h => ⟨_, execDoorbell_misfits h, ?_, State.putBit_regsOnly s _ _ _⟩⟩
  · rw [State.fld_put_same s _ 31 0 _ (by omega) (by omega)]
    exact Nat.mod_eq_of_lt t.isLt
  · exact State.fld_put_apart s _ 31 0 _ 63 32 (by omega) (by omega) (by omega) (by omega)
  · exact State.flag_putBit_same s _ 2 true (by omega)

/-! ### EN (R49, R50) -/

theorem execEnSet_enabled {q : Nat} {s : State} (h : s.enabled q = true) : execEnSet q s = .next s := if_pos h

theorem execEnSet_taken {q : Nat} {s : State} (h : s.enabled q = false) (hok : s.flushing q = true ∨ s.queueOk q = true) :
    execEnSet q s = .next (s.putBit (Reg.qctl q) 0 true) := by
  rw [execEnSet, h, if_neg Bool.false_ne_true, if_pos (Bool.or_eq_true _ _ ▸ hok)]

theorem execEnSet_failed {q : Nat} {s : State} (h : s.enabled q = false) (hf : s.flushing q = false) (hok : s.queueOk q = false) :
    execEnSet q s = .next (s.putBit (Reg.qstat q) 4 true) := by
  rw [execEnSet, h, hf, hok, Bool.or_false, if_neg Bool.false_ne_true, if_neg Bool.false_ne_true]

/-- EN written is EN, and the rest of RIG_QCTL stays. -/
theorem State.putBit_en (s : State) (q : Nat) (b : Bool) :
    (s.putBit (Reg.qctl q) 0 b).enabled q = b ∧ (s.putBit (Reg.qctl q) 0 b).fld (Reg.qctl q) 63 1 = s.fld (Reg.qctl q) 63 1 ∧
      regsOnly s (s.putBit (Reg.qctl q) 0 b) [Reg.qctl q] :=
  ⟨State.flag_putBit_same s _ 0 b (by omega), State.fld_putBit_apart s _ 0 63 1 b (by omega) (by omega) (by omega), State.putBit_regsOnly s _ _ _⟩

/-- Settles O11, by the three ways of EN_SET and the one of EN_CLEAR. -/
theorem queueEnableRule : Obligations.QueueEnableRule := fun q s =>
  ⟨fun h hok => ⟨_, execEnSet_taken h hok, s.putBit_en q true⟩,
    fun h hf hok => ⟨_, execEnSet_failed h hf hok, State.flag_putBit_same s _ 4 true (by omega), State.putBit_regsOnly s _ _ _⟩,
    execEnSet_enabled, ⟨_, rfl, s.putBit_en q false⟩⟩

/-! ### FLUSH and RESUME (R50) -/

theorem execFlush_begins {q : Nat} {s : State} (h : s.flushing q = false) {u v : State}
    (hu : u = { (s.putBit (Reg.qstat q) 5 true) with waits := s.waits.filter (fun w => w.q != q), recFail := s.recFail.filter (· != q) })
    (hv : v = u.cancelOps q u.ops) :
    execFlush q s = .next ((v.cancelSlots q (v.fld (Reg.qhead q) 31 0) (ahead (v.fld (Reg.qtail q) 31 0) (v.fld (Reg.qhead q) 31 0))).syncQ q) := by
  subst hv hu
  exact if_neg (by rw [h]; exact Bool.false_ne_true)

theorem execFlushEnd_done {q : Nat} {s : State} (h : s.flushDone q = true) {u v w : State}
    (hu : u = (((s.releaseAll q (s.ops.length + 1)).putBit (Reg.qstat q) 5 false).putBit (Reg.qstat q) 1 false).putBit (Reg.qstat q) 6 false)
    (hv : v = (u.put (Reg.qhead q) 31 0 (u.fld (Reg.qtail q) 31 0)).put (Reg.qdone q) 31 0 (u.fld (Reg.qtail q) 31 0))
    (hw : w = { v with ops := v.ops.filter (fun o => !(o.q == q && o.record == RecPhase.written)) }) :
    execFlushEnd q s = .next
      ((if w.enabled q && !w.queueOk q then (w.putBit (Reg.qctl q) 0 false).putBit (Reg.qstat q) 4 true else w).noteDeps.syncQ q) := by
  subst hw hv hu
  exact if_neg (by rw [h]; exact Bool.false_ne_true)

theorem execFlushEnd_goesOn {q : Nat} {s : State} (h : s.flushDone q = false) (hf : s.flushing q = true) :
    execFlushEnd q s = .next ((s.cancelRest q).syncQ q) := by
  rw [execFlushEnd, h, hf, Bool.not_false, if_pos rfl, if_pos rfl]

theorem execResume_halted {q : Nat} {s : State} (he : s.enabled q = true) (hh : s.qHalted q = true) (hf : s.flushing q = false) {u : State}
    (hu : u = (s.putBit (Reg.qstat q) 1 false).putBit (Reg.qstat q) 6 false) :
    execResume q s = .next ((State.release { u with recFail := s.recFail.filter (· != q) } q).noteDeps.syncQ q) := by
  subst hu
  exact if_pos (by rw [he, hh, hf]; rfl)

/-- The queues that still wait at take-in: all but those whose producer's serial the producer's queue has passed (R53). -/
theorem State.mem_waitsLeft (s : State) (q : Nat) (w : WaitRec) :
    w ∈ s.waits.filter (fun w => !(w.q == q && before w.s (s.fld (Reg.qhead w.prod) 31 0))) ↔
      w ∈ s.waits ∧ ¬ (w.q = q ∧ before w.s (s.fld (Reg.qhead w.prod) 31 0) = true) := by
  simp only [List.mem_filter, Bool.not_eq_true', ← Bool.not_eq_true, Bool.and_eq_true, beq_iff_eq]

/-- Settles O12, command by command. -/
theorem queueControlRule : Obligations.QueueControlRule := fun q s =>
  ⟨fun h => ⟨_, _, rfl, rfl, execFlush_begins h rfl rfl⟩, fun h => ⟨_, _, _, rfl, rfl, rfl, execFlushEnd_done h rfl rfl rfl⟩, execFlushEnd_goesOn,
    fun he hh hf => ⟨_, rfl, execResume_halted he hh hf rfl⟩, ⟨_, rfl, rfl, s.mem_waitsLeft q⟩⟩

/-! ### Take-in (R44, R49, R51) -/

/-- The answer of a take-in from the read of its slot: the descriptor is taken in, the page is waited for, or the ring access has failed. -/
def State.takeInFrom (t : State) (q sn a : Nat) (ctx : Nat) (told : Bool) (r : Except Fail (List Word)) : State :=
  match r with
  | .ok ws => t.takeDesc q sn ctx (descOf ws) told
  | .error .wait => t
  | .error f => (t.ringRecord f a (some (q, sn, ctx)) told).ringFails q sn (failStatus f 0).1

theorem State.takeInFrom_fails (t : State) (q sn a ctx : Nat) (told : Bool) {f : Fail} (h : f ≠ .wait) :
    t.takeInFrom q sn a ctx told (.error f) = (t.ringRecord f a (some (q, sn, ctx)) told).ringFails q sn (failStatus f 0).1 := by
  cases f with
  | wait => exact absurd rfl h
  | _ => rfl

/-- A queue that may take in reads the slot at RIG_QHEAD, once its detectors and the armed injections have met the read (R404). -/
theorem execTakeIn_reads {q : Nat} {errs : List (Nat × Nat)} {s t : State} {sn a : Nat} {told : Bool} (h : s.mayTake q = true)
    (hsn : sn = s.fld (Reg.qhead q) 31 0) (ha : a = s.slotAddr q sn)
    (ht : t = (s.unitErrors (some (q, sn, s.qctx q)) errs).meetReads (some (q, sn, s.qctx q)) [(0, a, 64)])
    (htold : told = (t.told errs || !(s.mark a == .poison) && t.mark a == .poison)) :
    execTakeIn q errs s = .next (t.takeInFrom q sn a (s.qctx q) told (t.readWords a 8)) := by
  subst htold ht ha hsn
  unfold execTakeIn
  rw [h, Bool.not_true, if_neg Bool.false_ne_true]
  dsimp only
  generalize State.readWords _ _ 8 = r
  rcases r with f | ws
  · cases f <;> rfl
  · rfl

/-- Settles O13, by the three answers of the slot's read. -/
theorem takeInReadsTheSlotAtHead : Obligations.TakeInReadsTheSlotAtHead := by
  intro q errs s t sn a told h hsn ha ht htold
  have he := execTakeIn_reads h hsn ha ht htold
  refine ⟨fun ws hr => ?_, fun f hf hr => ?_, fun hr => ?_⟩
  · rw [hr] at he; exact he
  · rw [hr, t.takeInFrom_fails q sn a _ told hf] at he; exact he
  · rw [hr] at he; exact he

end Sys2Proof.Machine
end

section
/-! Ops that start, wait and end (R36, R42, R54, R60), and their completion records (R48). -/

namespace Sys2Proof.Machine

/-! ### Starting (R54, R55, R60) -/

/-- An op as its start leaves it, its work not begun. -/
def OpRec.startedIn (o : OpRec) (b : Nat) : OpRec := { o with phase := .started, aux := o.aux.set (fun _ => 0) 208 b }

/-- What a start makes of an op: the work of one that moves nothing over a port begins with it. -/
def OpRec.atStart (o : OpRec) (b : Nat) : OpRec := if o.stays then (o.startedIn b).begin b else o.startedIn b

theorem State.startOp_eq (s : State) (o : OpRec) : s.startOp o = s.mapOp o.q o.s (fun o => o.atStart s.beat) := rfl

@[simp] theorem OpRec.begin_q (o : OpRec) (b : Nat) : (o.begin b).q = o.q := by unfold OpRec.begin; split <;> rfl
@[simp] theorem OpRec.begin_s (o : OpRec) (b : Nat) : (o.begin b).s = o.s := by unfold OpRec.begin; split <;> rfl
@[simp] theorem OpRec.atStart_q (o : OpRec) (b : Nat) : (o.atStart b).q = o.q := by unfold OpRec.atStart; split <;> simp [OpRec.startedIn]
@[simp] theorem OpRec.atStart_s (o : OpRec) (b : Nat) : (o.atStart b).s = o.s := by unfold OpRec.atStart; split <;> simp [OpRec.startedIn]

/-- Work that has begun does not begin again. -/
theorem OpRec.begin_begin (o : OpRec) (b : Nat) : (o.begin b).begin b = o.begin b := by
  unfold OpRec.begin
  cases h : o.begun <;> simp [h]

/-- Begun at its start or right after it, the op is the same. -/
theorem OpRec.begin_atStart (o : OpRec) (b : Nat) : (o.atStart b).begin b = (o.startedIn b).begin b := by
  unfold OpRec.atStart
  split
  · exact OpRec.begin_begin _ b
  · rfl

/-- A change of one op that keeps its queue and serial changes that op alone. -/
theorem State.mapOp_startedAs {s : State} {q sn : Nat} {o : OpRec} (h : s.op? q sn = some o) {f : OpRec → OpRec}
    (hq : ∀ o, (f o).q = o.q) (hs : ∀ o, (f o).s = o.s) : startedAs s (s.mapOp q sn f) o (f o) := by
  have hf : ∀ o, o.q = q → o.s = sn → (f o).q = q ∧ (f o).s = sn := fun o h1 h2 => ⟨(hq o).trans h1, (hs o).trans h2⟩
  obtain ⟨rfl, rfl⟩ := State.op?_key h
  exact ⟨State.op?_mapOp_same h hf, fun a b hn => State.op?_mapOp_other s hf hn, rfl⟩

/-- What the start of an op leaves. -/
theorem State.startOp_startedAs {s : State} {q sn : Nat} {o : OpRec} (h : s.op? q sn = some o) : startedAs s (s.startOp o) o (o.atStart s.beat) := by
  obtain ⟨rfl, rfl⟩ := State.op?_key h
  rw [State.startOp_eq]
  exact State.mapOp_startedAs h (fun o => o.atStart_q _) (fun o => o.atStart_s _)

/-- A second change of an op after a first. -/
theorem startedAs.trans {s t u : State} {o e e' : OpRec} (h : startedAs s t o e) (g : startedAs t u e e') (hq : e.q = o.q) (hs : e.s = o.s) :
    startedAs s u o e' := by
  obtain ⟨-, hother, hrest⟩ := h
  obtain ⟨hop, hother', hrest'⟩ := g
  rw [hq, hs] at hop hother'
  refine ⟨hop, fun a b hn => (hother' a b hn).trans (hother a b hn), ?_⟩
  have e : ({ u with ops := s.ops, journal := s.journal } : State) =
      { ({ u with ops := t.ops, journal := t.journal } : State) with ops := s.ops, journal := s.journal } := rfl
  rw [e, hrest', hrest]

/-- What the start of an op whose work begins with it leaves. -/
theorem State.startOp_beginOp_startedAs {s : State} {q sn : Nat} {o : OpRec} (h : s.op? q sn = some o) :
    startedAs s ((s.startOp o).beginOp q sn) o ((o.startedIn s.beat).begin s.beat) := by
  have hstart := State.startOp_startedAs h
  obtain ⟨rfl, rfl⟩ := State.op?_key h
  rw [← OpRec.begin_atStart]
  exact hstart.trans (State.mapOp_startedAs hstart.1 (fun o => o.begin_q _) (fun o => o.begin_s _)) (o.atStart_q _) (o.atStart_s _)

section
variable {s : State} {q sn : Nat} {o : OpRec}

/-- OP_START of an op with work whose dependencies let it start. -/
theorem execOpStart_work (h : s.op? q sn = some o) (hp : o.phase = .taken) (hs : s.startable o = true) (hw : (o.d.cls, o.d.op) ≠ (0, 1))
    (hn : o.noWork = false) (h0 : s.depStarts o 0 = true) (h1 : s.depStarts o 1 = true) : execOpStart q sn s = .next (s.startOp o) := by
  unfold execOpStart
  rw [h]
  dsimp only
  rw [if_pos ⟨hp, hw, hs⟩, hn, if_neg Bool.false_ne_true, h0, h1]
  rfl

/-- OP_START of an op without work. -/
theorem execOpStart_idle (h : s.op? q sn = some o) (hp : o.phase = .taken) (hs : s.startable o = true) (hw : (o.d.cls, o.d.op) ≠ (0, 1))
    (hn : o.noWork = true) (hpast : s.depPast o = true) (hok : s.depsOk o = true) :
    execOpStart q sn s = .next (s.startIdle o (if o.d.cls = 0 ∧ o.d.op = 0 then stOk else stZero)) := by
  unfold execOpStart
  rw [h]
  dsimp only
  rw [if_pos ⟨hp, hw, hs⟩, hn, if_pos rfl, hpast, hok]
  rfl

theorem execCollectiveAdmit_starts (h : s.op? q sn = some o) (hp : o.phase = .taken) (hs : s.startable o = true) (hc : o.d.collective = true)
    (h0 : s.depStarts o 0 = true) (h1 : s.depStarts o 1 = true) : execCollectiveAdmit q sn s = .next (s.startOp o) := by
  unfold execCollectiveAdmit
  rw [h]
  dsimp only
  rw [hc, hp, hs, h0, h1]
  rfl

theorem execWait_starts (h : s.op? q sn = some o) (hp : o.phase = .taken) (hs : s.startable o = true) (hcls : o.d.cls = 0) (hop : o.d.op = 1)
    (hpast : s.depPast o = true) (hok : s.depsOk o = true) : execWait q sn s = .next ((s.startOp o).beginOp q sn) := by
  unfold execWait
  rw [h]
  exact if_pos ⟨hcls, hop, hp, hpast, hok, hs⟩

theorem execNop_ends (h : s.op? q sn = some o) (hp : o.phase = .taken) (hs : s.startable o = true) (hcls : o.d.cls = 0) (hop : o.d.op = 0)
    (hpast : s.depPast o = true) (hok : s.depsOk o = true) : execNop q sn s = .next (s.startIdle o stOk) := by
  unfold execNop
  rw [h]
  exact if_pos ⟨hcls, hop, hp, hpast, hok, hs⟩

end

/-- Settles O14: each of the three commands starts the op in its place. -/
theorem opsStart : Obligations.OpsStart := by
  intro q sn s o u h hp hs hu
  subst hu
  exact ⟨fun hw hn h0 h1 => ⟨_, execOpStart_work h hp hs hw hn h0 h1, State.startOp_startedAs h⟩,
    fun hc h0 h1 => ⟨_, execCollectiveAdmit_starts h hp hs hc h0 h1, State.startOp_startedAs h⟩,
    fun hcls hop hpast hok => ⟨_, execWait_starts h hp hs hcls hop hpast hok, State.startOp_beginOp_startedAs h⟩⟩

/-! ### Ops without work (R36, R623) -/

/-- Without a histogram an op without work ends where it starts. -/
theorem State.startIdle_noHist {o : OpRec} (h6 : o.obj 6 = none) (s : State) (status : Nat) :
    s.startIdle o status = ((s.startOp o).beginOp o.q o.s).endOp o.q o.s status 0 := by
  unfold State.startIdle
  rw [h6]

/-- An op without work stands ended in the beat of its start, of one beat's length. -/
theorem State.op?_startIdle {s : State} {q sn status : Nat} {o : OpRec} (h : s.op? q sn = some o) (h6 : o.obj 6 = none) (hb : o.begun = false)
    (hst : status < 0x100) (hc : o.d.cascade = false) (h7 : o.d.cls ≠ 7) :
    ∃ e, (s.startIdle o status).op? q sn = some e ∧ e.phase = .ended ∧ e.status = status ∧ e.detail = 0 ∧ e.startB = s.beat ∧ e.endB = s.beat ∧
      e.beats = 1 := by
  obtain ⟨rfl, rfl⟩ := State.op?_key h
  obtain ⟨hop, -, -⟩ := State.startOp_beginOp_startedAs h
  have hbegin : (o.startedIn s.beat).begin s.beat = { o.startedIn s.beat with begun := true, startB := s.beat } :=
    if_neg (by rw [OpRec.startedIn, hb]; exact Bool.false_ne_true)
  rw [hbegin] at hop
  obtain ⟨r, hr, -⟩ := State.op?_endOp_good (detail := 0) hop (by simp [OpRec.startedIn]) hst hc h7
  rw [State.startIdle_noHist h6]
  refine ⟨_, hr, rfl, rfl, rfl, rfl, rfl, ?_⟩
  show min (s.beat + 1 - s.beat) 0xFFFFFF = 1
  omega

/-- NOP is no op of the cascade. -/
theorem Desc.cascade_nop {d : Desc} (hcls : d.cls = 0) (hop : d.op = 0) : d.cascade = false := by
  simp [Desc.cascade, Desc.collective, Desc.pairwise, hcls, hop]

/-- Settles O15: NOP and OP_START end such an op where they start it. -/
theorem opsWithoutWorkEndAtOnce : Obligations.OpsWithoutWorkEndAtOnce := by
  intro q sn s o h hp hs hpast hok
  refine ⟨fun hcls hop => ?_, fun hn hw h00 => ?_⟩
  · have hnop := execNop_ends h hp hs hcls hop hpast hok
    refine ⟨hnop, fun hn => ?_, fun h6 hb => ?_⟩
    · have he := execOpStart_idle h hp hs (by rw [hcls, hop]; decide) hn hpast hok
      rw [if_pos ⟨hcls, hop⟩] at he
      exact he
    · obtain ⟨e, he⟩ := State.op?_startIdle h h6 hb (status := stOk) (by decide) (Desc.cascade_nop hcls hop) (by rw [hcls]; decide)
      exact ⟨_, e, hnop, he⟩
  · have hstart := execOpStart_idle h hp hs hw hn hpast hok
    rw [if_neg (fun c => h00 (Prod.ext c.1 c.2))] at hstart
    refine ⟨hstart, fun h6 hb hc h7 => ?_⟩
    obtain ⟨e, he⟩ := State.op?_startIdle h h6 hb (status := stZero) (by decide) hc h7
    exact ⟨_, e, hstart, he⟩

/-! ### WAIT (R42) -/

/-- A WAIT's read of a beat in which it has not read yet. -/
theorem execWaitRead_polls {q sn : Nat} {errs : List (Nat × Nat)} {s u : State} {o : OpRec} {x : Obj} (h : s.op? q sn = some o) (hx : o.obj 0 = some x)
    (hcls : o.d.cls = 0) (hop : o.d.op = 1) (hp : o.phase = .started) (hb : o.aux.get (fun _ => 0) 0 < s.beat + 1)
    (hu : u = s.unitErrors (some (q, sn, o.ctx)) errs) : execWaitRead q sn errs s = .next (u.waitPoll o x) := by
  subst hu
  unfold execWaitRead
  rw [h]
  dsimp only
  rw [hx]
  exact if_pos ⟨hcls, hop, hp, hb⟩

/-- What a word read does for a WAIT, `t` noting that the beat's read was made. -/
theorem State.waitPoll_ok {s t : State} {o : OpRec} {x : Obj} {bs : List Byte} (hc : s.tagCheck (s.reader o) x 0 0 0 = .ok ()) (hr : s.readObj x 0 8 = .ok bs)
    (ht : t = s.mapOp o.q o.s (fun p => { p with aux := p.aux.set (fun _ => 0) 0 (s.beat + 1) })) :
    s.waitPoll o x = if t.waitOver o then t.endOp o.q o.s stWaitTimeout 0
      else if o.d.par 1 * 2 ^ 32 + o.d.par 2 ≤ ofBytes bs then t.endOp o.q o.s o.goodStatus.1 o.goodStatus.2
      else if o.d.ext 0 ≠ 0xFFFFFFFF ∧ o.startB + o.d.ext 0 ≤ t.beat then t.endOp o.q o.s stWaitTimeout 0
      else t := by
  subst ht
  unfold State.waitPoll
  rw [hc, hr]
  rfl

/-- A read that is not made leaves the WAIT, unless its beats have passed. -/
theorem State.waitPoll_unread {s : State} {o : OpRec} {x : Obj} {f : Fail} (hf : f = .classA ∨ f = .wait)
    (he : s.tagCheck (s.reader o) x 0 0 0 = .error f ∨ s.tagCheck (s.reader o) x 0 0 0 = .ok () ∧ s.readObj x 0 8 = .error f) :
    s.waitPoll o x = if s.waitOver o then s.endOp o.q o.s stWaitTimeout 0 else s := by
  have hread : (do let _ ← s.tagCheck (s.reader o) x 0 0 0; s.readObj x 0 8 : Except Fail (List Byte)) = .error f := by
    rcases he with he | ⟨hc, hr⟩
    · rw [he]; rfl
    · rw [hc]; exact hr
  unfold State.waitPoll
  rw [hread]
  rcases hf with rfl | rfl <;> rfl

/-- Settles O17: the read's answer against the threshold and the beats. -/
theorem waitPollsItsWord : Obligations.WaitPollsItsWord := by
  intro q sn errs s u o x h hx hcls hop hp hb hu
  have hpoll := execWaitRead_polls h hx hcls hop hp hb hu
  refine ⟨fun bs t hc hr ht => ?_, fun f hf he => ?_⟩
  · rw [State.waitPoll_ok hc hr ht] at hpoll
    refine ⟨fun hreach hover => ?_, fun hend => ?_, fun hbelow hover hleft => ?_⟩
    · rw [hover, if_neg Bool.false_ne_true, if_pos hreach] at hpoll
      exact hpoll
    · rcases hend with hover | ⟨hbelow, hpast⟩
      · rw [if_pos hover] at hpoll
        exact hpoll
      · rw [if_neg (Nat.not_le.2 hbelow), if_pos hpast, ite_self] at hpoll
        exact hpoll
    · have hopen : ¬ (o.d.ext 0 ≠ 0xFFFFFFFF ∧ o.startB + o.d.ext 0 ≤ t.beat) := fun c => hleft.elim c.1 (Nat.not_lt.2 c.2)
      rw [hover, if_neg Bool.false_ne_true, if_neg (Nat.not_le.2 hbelow), if_neg hopen] at hpoll
      exact hpoll
  · rw [State.waitPoll_unread hf he] at hpoll
    exact hpoll

/-! ### Completion records (R48, Table 2.12) -/

/-- Settles O18: the record is next on its queue, the ring has room, and the slot takes the write. -/
theorem completionRecordEntersTheRing : Obligations.CompletionRecordEntersTheRing := by
  intro q sn s t o h hrec hnext hfail hroom hwrite
  show execCompletionRecord q sn s = .next (t.recorded o)
  unfold execCompletionRecord
  rw [h]
  dsimp only
  rw [if_pos ⟨hrec, hnext, hfail, hroom⟩, hwrite]

end Sys2Proof.Machine
end

section
/-! The cascade's ops: collectives, SYNC, XSEND, XRECV and LIMIT (R338 to R355). -/

namespace Sys2Proof.Machine

/-! ### Collectives (R338, R343) -/

/-- No part that an exchange needs is missing. -/
theorem exchangeReady.noneMissing {s : State} {o : OpRec} {data : List Block} {b : Nat} (h : exchangeReady s o data b) :
    o.others.any (fun r => (partOf o data r).isNone) = false := by
  obtain ⟨-, -, -, hparts⟩ := h
  refine List.any_eq_false.2 (fun r hr => ?_)
  obtain ⟨x, hx, -⟩ := hparts r hr
  simp [hx]

/-- A bucket that may be exchanged: without data the op's part is done; with data the results are written once the exchange's pieces run. -/
theorem State.collectiveOn_ready {s : State} {cls op q sn b : Nat} {data : List Block} {o : OpRec} (h : s.castAt cls op q sn = some o)
    (hready : exchangeReady s o data b) (f : OpRec → State → Except WorkFail (OpRec × State)) :
    s.collectiveOn cls op q sn b data f =
      if o.d.noData then (s.mapOp q sn (fun x => { x with done := [0] })).settle
      else if !s.bucketOpen o b then s
      else match f o s with
        | .error w => s.workFails o 255 w
        | .ok (o, s) => ((s.putOp { o with done := o.done ++ [b] }).pieceDid q sn b).settle := by
  have hthere := hready.noneMissing
  obtain ⟨hdone, hdue, hreach, hparts⟩ := hready
  unfold State.collectiveOn
  rw [h]
  dsimp only
  rw [hdone, decide_eq_false (Nat.not_le.2 hdue), Bool.or_false, if_neg Bool.false_ne_true, hreach]
  dsimp only
  split
  next r hr =>
    -- a part that disagrees
    obtain ⟨x, hx, hagree⟩ := hparts r (List.mem_of_find?_eq_some hr)
    have hdiff := List.find?_some hr
    simp [hx, hagree] at hdiff
  next => exact if_neg (fun c => Bool.false_ne_true (hthere.symm.trans c))

/-- The three collectives that exchange buckets are `collectiveOn`, each with its own results. -/
theorem exchanges_of_collectiveOn {c : Instr} {cls op q sn b : Nat} {data : List Block} {f : OpRec → State → Except WorkFail (OpRec × State)}
    (hc : ∀ s, exec c s = .next (s.collectiveOn cls op q sn b data f)) : exchanges c cls op q sn b data f := by
  intro s o h hready
  rw [hc s, State.collectiveOn_ready h hready]
  refine ⟨fun hn => by rw [if_pos hn], fun p t hn hopen hf => ?_⟩
  rw [hn, hopen, hf]
  rfl

/-- SYNC whose dependencies are satisfied, a fenced one under R66 too, is a collective of one empty bucket (R342). -/
theorem execSync_admitted {q sn : Nat} {data : List Block} {s : State} {x : OpRec} (h : s.op? q sn = some x) (hok : s.depsOk x = true)
    (hf : x.d.fence = true → s.fenceOk x = true) : execSync q sn data s = .next (s.collectiveOn 0 2 q sn 0 data (fun o s => .ok (o, s))) := by
  have hfence : (!x.d.fence || s.fenceOk x) = true := by
    cases hx : x.d.fence with
    | false => rfl
    | true => exact hf hx
  unfold execSync
  rw [h]
  dsimp only
  rw [hok, hfence]
  rfl

/-! ### XSEND (R339, R340, R352, R355) -/

section
variable {q sn : Nat} {s : State} {o : OpRec}

/-- Does a ready notice agree with an XSEND of operand format `fmt`, extent by extent (R339)? -/
def OpRec.noticeAgrees (o : OpRec) (fmt : Nat) (tag : BitVec 256) : Bool :=
  tagBits tag 110 32 == o.d.ext 0 && tagBits tag 142 32 == o.d.ext 1 && tagBits tag 174 32 == o.d.ext 2 && tagBits tag 206 6 == fmt

theorem execXsend_unreached (h : s.castAt 6 0x41 q sn = some o) {a : Nat} (ha : s.unreached o = some a) :
    execXsend q sn s = .next (s.failOp q sn stLinkLost (s.portToward a)) := by
  unfold execXsend
  rw [h]
  dsimp only
  rw [ha]

/-- The ready notice of an XSEND's peer is taken. -/
theorem execXsend_notice (h : s.castAt 6 0x41 q sn = some o) (hr : s.unreached o = none) {a : Obj} (ha : o.obj 0 = some a) (hm : o.matched = 0)
    {n : Nat × BitVec 256 × Nat} (hn : s.notices.find? (fun n => n.1 == o.member o.d.peer && tagBits n.2.1 0 100 == o.castKey) = some n) :
    execXsend q sn s = .next (State.matchSend { s with notices := s.notices.filter (fun m => m != n) } o n.2.1) := by
  unfold execXsend
  rw [h]
  dsimp only
  rw [hr, ha]
  dsimp only
  rw [hm]
  dsimp only
  rw [hn]

/-- Once matched, its running pieces send what they have not sent. -/
theorem execXsend_sends (h : s.castAt 6 0x41 q sn = some o) (hr : s.unreached o = none) {a : Obj} (ha : o.obj 0 = some a) {m : Nat} (hm : o.matched = m + 1) :
    execXsend q sn s = .next
      ((s.sendTiles q sn a m (s.pieces.filter (fun p => p.q == q && p.s == sn && p.phase == .running && p.did == []))).settle) := by
  unfold execXsend
  rw [h]
  dsimp only
  rw [hr, ha]
  dsimp only
  rw [hm]

theorem State.matchSend_agrees {a : Obj} (ha : o.obj 0 = some a) {tag : BitVec 256} (hg : o.noticeAgrees a.fmt tag = true) {v : State}
    (hv : v = s.mapOp o.q o.s (fun x => { x with aux := x.aux.set (fun _ => 0) 206 (tagBits tag 100 10 + 1), done := if x.d.noData then [0] else x.done })) :
    s.matchSend o tag = (if o.d.noData then v.sendMsg 0 (o.member o.d.peer) (wide [(0, o.castKey)]) [o.castKey] [] else v).settle := by
  subst hv
  unfold State.matchSend
  rw [ha]
  exact if_neg (by rw [Bool.not_eq_true', Bool.not_eq_false]; exact hg)

theorem State.matchSend_disagrees {a : Obj} (ha : o.obj 0 = some a) {tag : BitVec 256} (hg : o.noticeAgrees a.fmt tag = false) :
    s.matchSend o tag = s.castMismatch o (o.member o.d.peer) := by
  unfold State.matchSend
  rw [ha]
  exact if_pos (by rw [Bool.not_eq_true']; exact hg)

/-! ### XRECV and LIMIT (R352, R355) -/

theorem execXrecv_unreached (h : s.castAt 6 0x42 q sn = some o) (hok : s.depsOk o = true) (hm : o.matched = 0) {a : Nat} (ha : s.unreached o = some a) :
    execXrecv q sn s = .next (s.failOp q sn stLinkLost (s.portToward a)) := by
  unfold execXrecv
  rw [h]
  dsimp only
  rw [hok, hm, ha]
  rfl

/-- XRECV sends its ready notice, once. -/
theorem execXrecv_notice (h : s.castAt 6 0x42 q sn = some o) (hok : s.depsOk o = true) (hm : o.matched = 0) (hr : s.unreached o = none) :
    execXrecv q sn s = .next
      (((s.mapOp q sn (fun x => { x with aux := x.aux.set (fun _ => 0) 206 1 })).sendMsg 3 (o.member o.d.peer) o.readyTag [] []).settle) := by
  unfold execXrecv
  rw [h]
  dsimp only
  rw [hok, hm, hr]
  rfl

/-- A partner of an op: the peer of a transfer, every other rank of a collective's group. -/
theorem OpRec.isPartner {rank : Nat} (h : if o.d.pairwise then rank = o.d.peer else rank ≠ o.rank ∧ rank < o.size) :
    (if o.d.pairwise then rank == o.d.peer else rank != o.rank && decide (rank < o.size)) = true := by
  cases hp : o.d.pairwise <;> simpa [hp] using h

theorem execLimit_silent (h : s.op? q sn = some o) (hc : o.d.cascade = true) (hp : o.phase = .started) (hf : o.failing = none) (hok : s.depsOk o = true)
    (hx : o.d.xlimit ≠ 0) (hb : max (o.depBeat.getD s.beat) (o.aux.get (fun _ => 0) 208) + o.d.xlimit ≤ s.beat) {rank : Nat}
    (hr : if o.d.pairwise then rank = o.d.peer else rank ≠ o.rank ∧ rank < o.size) (ha : s.announcedTo o = false) :
    execLimit q sn rank s = .next (s.failOp q sn stLinkLost (s.portToward (o.member rank))) := by
  unfold execLimit
  rw [h]
  dsimp only
  rw [OpRec.isPartner hr, if_pos]
  simp [hc, hp, hf, hok, hx, hb, ha]

end

/-- Settles O33, command by command: the collectives by `collectiveOn`, the transfers and LIMIT by their own rules. -/
theorem collectivesAndTransfers : Obligations.CollectivesAndTransfers := by
  refine ⟨fun q sn b data => ⟨fun s o x h hx hok hf hready hn hopen => ?_,
      exchanges_of_collectiveOn (fun _ => rfl), exchanges_of_collectiveOn (fun _ => rfl), exchanges_of_collectiveOn (fun _ => rfl)⟩,
    fun q sn s o => ⟨fun a n h hr ha hm hfind u v hu => ?_, fun a m h hr ha hm => execXsend_sends h hr ha hm,
      fun h hok hm hr => execXrecv_notice h hok hm hr, fun a ha => ⟨fun h => execXsend_unreached h ha, fun h hok hm => execXrecv_unreached h hok hm ha⟩,
      fun rank h hc hp hf hok hx hb hr ha => execLimit_silent h hc hp hf hok hx hb hr ha⟩⟩
  · refine (execSync_admitted hx hok hf).trans ?_
    rw [State.collectiveOn_ready h hready, hn, hopen]
    rfl
  · subst hu
    have hnotice := execXsend_notice h hr ha hm hfind
    exact ⟨fun hg hv => hnotice.trans (congrArg _ (State.matchSend_agrees ha hg hv)),
      fun hg => hnotice.trans (congrArg _ (State.matchSend_disagrees ha hg))⟩

end Sys2Proof.Machine
end

section
/-! Beats and the re-base (R71 to R73, R96). -/

namespace Sys2Proof.Machine

/-! ### The next beat (R71, R73) -/

/-- A module that stays as it is aligned counts one beat on, and its time reaches the next boundary. -/
theorem State.nextBeat_counts {s : State} (h : s.alignSet = false) :
    s.nextBeat = { (s.wr Reg.beatNow (s.rd Reg.beatNow + 1)) with ns := (s.ns / 1000 + 1) * 1000, frac := 0 } :=
  if_neg (by rw [h]; exact Bool.false_ne_true)

/-- Settles O21: the beat is one write of BEAT_NOW beside the module's time. -/
theorem beatAdvancesByOne : Obligations.BeatAdvancesByOne := by
  intro s h
  rw [State.nextBeat_counts h]
  exact ⟨State.rd_wr_same s Reg.beatNow _, rfl, rfl, rfl, fun a ha => State.rd_wr_other s Reg.beatNow a _ ha⟩

/-! ### The table of offsets (R77, R96) -/

/-- A key that no entry lists reads as unlisted. -/
theorem Tab.get_unlisted {α : Type} (d : Nat → α) (t : Tab α) (k : Nat) (h : k ∉ t.map Prod.fst) : Tab.get d t k = d k := by
  induction t with
  | nil => rfl
  | cons e t ih =>
    obtain ⟨hne, ht⟩ := not_or.1 (mt List.mem_cons.2 h)
    simp only [Tab.get]
    rw [if_neg hne, ih ht, ite_self]

/-- A table in canonical form lists no key twice. -/
theorem Tab.nodup_keys {α : Type} [DecidableEq α] {d : Nat → α} {t : Tab α} (h : Tab.wf d t = true) : (t.map Prod.fst).Nodup := by
  obtain ⟨hrise, -⟩ := (Tab.wf_iff d t).1 h
  exact List.pairwise_map.2 (hrise.imp Nat.ne_of_lt)

theorem State.offset_setOffset (s : State) (j v k : Nat) : (s.setOffset j v).offset k = if k = j then v else s.offset k :=
  Tab.get_set (fun _ => 0) s.offsets j k v

/-- The offsets of the listed keys fall by `d` (R96). -/
def State.lowerOffsets (s : State) (d : Nat) (ks : List Nat) : State := ks.foldl (fun (s : State) k => s.setOffset k (s.offset k - d)) s

/-- Each listed offset falls once, and no other changes. -/
theorem State.offset_lowerOffsets (s : State) (d : Nat) {ks : List Nat} (h : ks.Nodup) (k : Nat) :
    (s.lowerOffsets d ks).offset k = if k ∈ ks then s.offset k - d else s.offset k := by
  induction ks generalizing s with
  | nil => rfl
  | cons j ks ih =>
    obtain ⟨hj, hks⟩ := List.nodup_cons.1 h
    refine (ih (s.setOffset j (s.offset j - d)) hks).trans ?_
    rw [State.offset_setOffset]
    by_cases hk : k = j
    · subst hk
      rw [if_neg hj, if_pos rfl, if_pos List.mem_cons_self]
    · rw [if_neg hk]
      simp only [List.mem_cons, hk, false_or]

/-- Lowering offsets changes the table and the registers that show it. -/
theorem State.lowerOffsets_frame (s : State) (d : Nat) (ks : List Nat) :
    ({ s.lowerOffsets d ks with offsets := s.offsets, regs := s.regs } : State) = s ∧ ∀ a, a < Reg.sliptab0 0 → (s.lowerOffsets d ks).rd a = s.rd a := by
  induction ks generalizing s with
  | nil => exact ⟨rfl, fun _ _ => rfl⟩
  | cons j ks ih =>
    obtain ⟨hrest, hrd⟩ := ih (s.setOffset j (s.offset j - d))
    refine ⟨?_, fun a ha => (hrd a ha).trans (State.rd_put_other _ _ a _ _ _ ?_)⟩
    · have e : ({ s.lowerOffsets d (j :: ks) with offsets := s.offsets, regs := s.regs } : State) =
        { ({ (s.setOffset j (s.offset j - d)).lowerOffsets d ks with
            offsets := (s.setOffset j (s.offset j - d)).offsets, regs := (s.setOffset j (s.offset j - d)).regs } : State) with
          offsets := s.offsets, regs := s.regs } := rfl
      rw [e, hrest]
      rfl
    · simp only [Reg.sliptab0, Reg.sliptab1] at ha ⊢
      omega

/-- Running totals change nothing beside themselves. -/
theorem State.setTotals_frame (g : State → Nat → Nat) (ks : List Nat) (s : State) :
    ∃ ts, ks.foldl (fun (s : State) k => s.setTotal (k / 2) (k % 2) (g s k)) s = { s with totals := ts } := by
  induction ks generalizing s with
  | nil => exact ⟨s.totals, rfl⟩
  | cons k ks ih => exact ih _

/-! ### Control space under a fault record (R573 to R579) -/

/-- Every register below those that a fault record and its interrupt write reads in `t` as in `s`. -/
structure KeepsLow (s t : State) : Prop where
  rd : ∀ a, a < Reg.hlkBar 0 → t.rd a = s.rd a

theorem KeepsLow.refl (s : State) : KeepsLow s s := ⟨fun _ _ => rfl⟩

/-- A change outside control space. -/
theorem KeepsLow.of_regs {s t : State} (h : t.regs = s.regs) : KeepsLow s t := ⟨fun a _ => by rw [State.rd, h, State.rd]⟩

theorem KeepsLow.trans {s t u : State} (h : KeepsLow s t) (g : KeepsLow t u) : KeepsLow s u := ⟨fun a ha => (g.rd a ha).trans (h.rd a ha)⟩

theorem KeepsLow.ite {s t u : State} {c : Prop} [Decidable c] (h : KeepsLow s t) (g : KeepsLow s u) : KeepsLow s (if c then t else u) := by
  split <;> assumption

section
variable (s : State) {a : Nat} (h : Reg.hlkBar 0 ≤ a)
include h

theorem State.wr_keepsLow (v : Word) : KeepsLow s (s.wr a v) := ⟨fun b hb => State.rd_wr_other s a b v (Nat.ne_of_lt (Nat.lt_of_lt_of_le hb h))⟩
theorem State.put_keepsLow (hi lo v : Nat) : KeepsLow s (s.put a hi lo v) := s.wr_keepsLow h _
theorem State.putBit_keepsLow (i : Nat) (b : Bool) : KeepsLow s (s.putBit a i b) := s.wr_keepsLow h _
theorem State.bump_keepsLow (hi lo n : Nat) : KeepsLow s (s.bump a hi lo n) := s.wr_keepsLow h _

theorem State.wrRun_keepsLow (ws : List Word) : KeepsLow s (s.wrRun a ws) := by
  obtain ⟨-, hrd⟩ := State.wrRun_frame ws s a
  exact ⟨fun b hb => hrd b (fun i _ => by omega)⟩

end

theorem Reg.hlkBar_le (n : Nat) : Reg.hlkBar 0 ≤ Reg.hlkBar n := by simp only [Reg.hlkBar]; omega
theorem Reg.hlkBar_le_fltLost (c : Nat) : Reg.hlkBar 0 ≤ Reg.fltLost c := by simp only [Reg.hlkBar, Reg.fltLost]; omega
theorem Reg.hlkBar_le_fltQ (i : Nat) : Reg.hlkBar 0 ≤ Reg.fltQ i 0 := by simp only [Reg.hlkBar, Reg.fltQ]; omega
theorem Reg.hlkBar_le_fltEsc (i : Nat) : Reg.hlkBar 0 ≤ Reg.fltEsc i 0 := by simp only [Reg.hlkBar, Reg.fltEsc]; omega

theorem State.signal_keepsLow (s : State) (v : Nat) : KeepsLow s (s.signal v) := by
  unfold State.signal
  dsimp only
  exact KeepsLow.ite (KeepsLow.of_regs rfl)
    (KeepsLow.ite (KeepsLow.ite (KeepsLow.refl s) (KeepsLow.of_regs rfl)) (s.bump_keepsLow (Reg.hlkBar_le _) _ _ _))

theorem State.formOne_keepsLow (s : State) (f : FaultIn) : KeepsLow s (s.formOne f) := by
  have hlost := Reg.hlkBar_le_fltLost f.cls
  have hstat : Reg.hlkBar 0 ≤ Reg.fltStat := by decide
  have htail : Reg.hlkBar 0 ≤ Reg.fltQtail := by decide
  have hcnt : Reg.hlkBar 0 ≤ Reg.fltEsccnt := by decide
  have hseq : Reg.hlkBar 0 ≤ Reg.fltSeq := by decide
  unfold State.formOne
  extract_lets seq ws head tail occ full s1 s2 s3 ovf s4 s5 s6 s7 escWas esc n s8 s9 thr fires
  have hkeep : KeepsLow s2 s3 := KeepsLow.of_regs rfl
  have h3 : KeepsLow s s3 := ((s.put_keepsLow hseq _ _ _).trans (s1.bump_keepsLow hlost _ _ _)).trans hkeep
  have h7 : KeepsLow s s7 := by
    refine h3.trans (KeepsLow.ite ((s3.bump_keepsLow hlost _ _ _).trans (KeepsLow.ite (KeepsLow.refl s4) ?_)) ?_)
    · exact ((s4.putBit_keepsLow hstat _ _).trans (State.put_keepsLow _ hstat _ _ _)).trans (State.put_keepsLow _ hstat _ _ _)
    · exact ((s3.wrRun_keepsLow (Reg.hlkBar_le_fltQ _) ws).trans (s5.put_keepsLow htail _ _ _)).trans (s6.putBit_keepsLow hstat _ _)
  have h9 : KeepsLow s s9 := h7.trans (KeepsLow.ite
    (((s7.wrRun_keepsLow (Reg.hlkBar_le_fltEsc _) ws).trans (s8.put_keepsLow hcnt _ _ _)).trans (State.putBit_keepsLow _ hstat _ _)) (KeepsLow.refl s7))
  exact h9.trans (KeepsLow.ite (State.signal_keepsLow s9 _) (KeepsLow.refl s9))

theorem State.form_keepsLow (s : State) (f : FaultIn) : KeepsLow s (s.form f) := by
  have hone := s.formOne_keepsLow f
  unfold State.form
  exact KeepsLow.ite (((hone.trans (KeepsLow.of_regs (State.disarm_regs _ _ _ _))).trans
    (State.bump_keepsLow _ (Reg.hlkBar_le_fltLost 10) _ _ _)).trans (State.formOne_keepsLow _ _)) hone

/-! ### The re-base (R96) -/

/-- The piece after a re-base by `d`. -/
def PieceRec.rebased (d : Nat) (p : PieceRec) : PieceRec := if p.phase = .ended then p else { p with planned := p.planned + d }

/-- The plan after a re-base by `d`: the pieces, and what running totals and last beats have become. -/
def State.rebasedPlan (s : State) (d : Nat) (totals lastBeat : Tab Nat) : State :=
  { s with pieces := s.pieces.map (PieceRec.rebased d), totals := totals, lastBeat := lastBeat }

@[simp] theorem State.rd_rebasedPlan (s : State) (d : Nat) (ts ls : Tab Nat) (a : Nat) : (s.rebasedPlan d ts ls).rd a = s.rd a := rfl

@[simp] theorem State.fld_rebasedPlan (s : State) (d : Nat) (ts ls : Tab Nat) (a hi lo : Nat) : (s.rebasedPlan d ts ls).fld a hi lo = s.fld a hi lo := by
  rw [State.fld, State.rd_rebasedPlan, State.fld]

/-- The offsets after a re-base by `d`, and its count; none is due any more. -/
def State.rebaseCounted (s : State) (d : Nat) : State :=
  { (s.lowerOffsets d (s.offsets.map Prod.fst)).bump Reg.beatStat 63 32 1 with rebaseDue := false, rebaseNow := false }

/-- A re-base moves the plan, lowers the offsets, is counted, and is recorded. -/
theorem State.rebaseBy_eq (s : State) (d : Nat) : ∃ ts ls, s.rebaseBy d =
    ((s.rebasedPlan d ts ls).rebaseCounted d).form { cls := 5, sev := 0, rtype := 3, det := 0x60, info := d } := by
  unfold State.rebaseBy
  extract_lets held s1 s2 s3 s4 s5
  obtain ⟨ts, h2⟩ := State.setTotals_frame (fun s k => s.total (k / 2) (k % 2) + d * s.capacity (k / 2)) held s1
  change s2 = _ at h2
  have h3 : s3 = s.rebasedPlan d ts s3.lastBeat := by
    show ({ s2 with lastBeat := s3.lastBeat } : State) = _
    rw [h2]
    rfl
  refine ⟨ts, s3.lastBeat, ?_⟩
  rw [← h3]
  rfl

/-- Every offset of a table in canonical form falls by `d`, to no less than 0. -/
theorem State.offset_rebaseCounted (s : State) (d : Nat) (h : Tab.wf (fun _ => 0) s.offsets = true) (k : Nat) :
    (s.rebaseCounted d).offset k = s.offset k - d := by
  refine (State.offset_lowerOffsets s d (Tab.nodup_keys h) k).trans ?_
  split
  · rfl
  · rename_i hk
    rw [State.offset, Tab.get_unlisted _ _ _ hk, Nat.zero_sub]

theorem State.rebaseCounted_beatNow (s : State) (d : Nat) : (s.rebaseCounted d).rd Reg.beatNow = s.rd Reg.beatNow := by
  obtain ⟨-, hrd⟩ := s.lowerOffsets_frame d (s.offsets.map Prod.fst)
  exact (State.rd_bump_other _ Reg.beatStat Reg.beatNow 63 32 1 (by decide)).trans (hrd Reg.beatNow (by decide))

/-- REBASES counts it. -/
theorem State.rebaseCounted_rebases (s : State) (d : Nat) :
    (s.rebaseCounted d).fld Reg.beatStat 63 32 = satAdd 32 (s.fld Reg.beatStat 63 32) 1 := by
  obtain ⟨-, hrd⟩ := s.lowerOffsets_frame d (s.offsets.map Prod.fst)
  have hfld := State.fld_bump_same (s.lowerOffsets d (s.offsets.map Prod.fst)) Reg.beatStat 63 32 1 (by omega) (by omega)
  rw [State.fld, State.fld, hrd Reg.beatStat (by decide)] at hfld
  exact hfld

/-- The fault handler leaves the plan. -/
theorem InFaults.plan {s t : State} (h : InFaults s t) :
    t.pieces = s.pieces ∧ t.offsets = s.offsets ∧ t.rebaseDue = s.rebaseDue ∧ t.rebaseNow = s.rebaseNow :=
  ⟨(congrArg State.pieces h.rest :), (congrArg State.offsets h.rest :), (congrArg State.rebaseDue h.rest :), (congrArg State.rebaseNow h.rest :)⟩

theorem State.rebaseCounted_pieces (s : State) (d : Nat) : (s.rebaseCounted d).pieces = s.pieces := by
  obtain ⟨hrest, -⟩ := s.lowerOffsets_frame d (s.offsets.map Prod.fst)
  show (s.lowerOffsets d (s.offsets.map Prod.fst)).pieces = s.pieces
  generalize s.lowerOffsets d (s.offsets.map Prod.fst) = u at hrest
  exact (congrArg State.pieces hrest :)

/-- What a re-base by `d` beats leaves. -/
theorem State.rebaseBy_moves (s : State) (d : Nat) (h : Tab.wf (fun _ => 0) s.offsets = true) :
    (s.rebaseBy d).pieces = s.pieces.map (PieceRec.rebased d) ∧ (∀ k, (s.rebaseBy d).offset k = s.offset k - d) ∧
      (s.rebaseBy d).rebaseDue = false ∧ (s.rebaseBy d).rebaseNow = false ∧ (s.rebaseBy d).rd Reg.beatNow = s.rd Reg.beatNow ∧
      (s.rebaseBy d).fld Reg.beatStat 63 32 = satAdd 32 (s.fld Reg.beatStat 63 32) 1 := by
  obtain ⟨ts, ls, heq⟩ := s.rebaseBy_eq d
  obtain ⟨hpieces, hoff, hdue, hnow⟩ := (((s.rebasedPlan d ts ls).rebaseCounted d).form_inFaults
    { cls := 5, sev := 0, rtype := 3, det := 0x60, info := d }).plan
  obtain ⟨hlow⟩ := ((s.rebasedPlan d ts ls).rebaseCounted d).form_keepsLow { cls := 5, sev := 0, rtype := 3, det := 0x60, info := d }
  rw [← heq] at hpieces hoff hdue hnow hlow
  refine ⟨hpieces.trans (State.rebaseCounted_pieces _ d), fun k => ?_, hdue.trans rfl, hnow.trans rfl,
    (hlow Reg.beatNow (by decide)).trans (State.rebaseCounted_beatNow _ d), ?_⟩
  · rw [State.offset, hoff]
    exact State.offset_rebaseCounted (s.rebasedPlan d ts ls) d h k
  · rw [State.fld, hlow Reg.beatStat (by decide)]
    exact (State.rebaseCounted_rebases _ d).trans (by rw [State.fld_rebasedPlan])

/-! ### The boundary (R71, R96) -/

theorem execReBase_due {s : State} (h : s.rebaseNow = true) : execReBase s = .next (s.rebaseBy s.largestOffset) := if_pos h

/-- Settles O22: the boundary's acts in their order, and what a re-base moves. -/
theorem beatBoundaryRule : Obligations.BeatBoundaryRule := by
  refine ⟨fun p1 p10 p1000 inv s => ⟨fun h => ?_, execReBase_due⟩, fun s d hwf _ => ⟨_, rfl, s.rebaseBy_moves d hwf⟩⟩
  change ∃ r u v w, _ ∧ _ ∧ _ ∧ _ ∧ execBeatBoundary p1 p10 p1000 inv s = _
  unfold execBeatBoundary
  rw [if_neg (not_not_intro h)]
  extract_lets s1 r u s2 v w s3
  refine ⟨r, u, v, w, rfl, ?_, rfl, rfl, rfl⟩
  clear_value r
  rfl

end Sys2Proof.Machine
end

section
/-! The Rigger mailboxes (R106 to R109). -/

namespace Sys2Proof.Machine

/-! ### Registers of a mailbox -/

theorem Reg.mbxArg_ne_mbxStat (m : Nat) {i : Nat} (h : i < 5) : Reg.mbxArg m i ≠ Reg.mbxStat m := by
  simp only [Reg.mbxArg, Reg.mbxStat]
  omega

/-- Commands change no argument of their mailbox by being taken. -/
theorem State.mbArg_putBit (s : State) (m i hi lo j : Nat) (b : Bool) (h : i < 5) : (s.putBit (Reg.mbxStat m) j b).mbArg m i hi lo = s.mbArg m i hi lo :=
  State.fld_putBit_other s _ _ j hi lo b (Reg.mbxArg_ne_mbxStat m h)

/-- Registers are read from control space alone. -/
theorem State.fld_congr {s t : State} (h : t.regs = s.regs) (a hi lo : Nat) : t.fld a hi lo = s.fld a hi lo := by
  rw [State.fld, State.rd, h, State.fld, State.rd]

theorem State.flag_congr {s t : State} (h : t.regs = s.regs) (a i : Nat) : t.flag a i = s.flag a i := by
  rw [State.flag, State.fld_congr h, State.flag]

/-- Registers that only listed writes have changed. -/
theorem regsOnly.wr {s t : State} {as : List Nat} (h : regsOnly s t as) {a : Nat} (ha : a ∈ as) (v : Word) : regsOnly s (t.wr a v) as := by
  obtain ⟨hrest, hrd⟩ := h
  exact ⟨hrest, fun b hb => (State.rd_wr_other t a b v (fun e => hb (e ▸ ha))).trans (hrd b hb)⟩

theorem regsOnly.putBusy (s : State) (m : Nat) (b : Bool) {as : List Nat} (h : Reg.mbxStat m ∈ as) : regsOnly s (s.putBit (Reg.mbxStat m) 0 b) as :=
  (regsOnly_refl s as).wr h _

/-! ### Commands (R107) -/

/-- The answer that a command has made ready. -/
def State.answered (s : State) (m : Nat) (seq : BitVec 16) (result value : Nat) : State := { s with mailbox := s.mailbox ++ [⟨m, seq.toNat, result, value⟩] }

section
variable {s : State} {ag : Agent} {m : Nat}

/-- The guard of a command lets this one in. -/
theorem mailOpen (hag : ag ≠ .move) (hm : m < 2) (hrun : m = 1 → s.fld Reg.cdstat 1 0 = 0) :
    ¬ (ag = .move ∨ 2 ≤ m ∨ (m = 1 ∧ s.fld Reg.cdstat 1 0 ≠ 0)) := by
  rintro (e | e | ⟨e, hne⟩)
  · exact hag e
  · omega
  · exact hne (hrun e)

/-- A mailbox that takes the command sets BUSY, lets it take effect and makes its answer ready. -/
theorem State.mailCmd_taken (h : mailTakes s ag m) (seq : BitVec 16) {f : State → State × Nat × Nat} {u : State} {r v : Nat}
    (hf : f (s.putBit (Reg.mbxStat m) 0 true) = (u, r, v)) : s.mailCmd ag m seq f = u.answered m seq r v := by
  obtain ⟨hag, hm, hrun, hbusy⟩ := h
  unfold State.mailCmd
  rw [if_neg (mailOpen hag hm hrun), hbusy, if_neg Bool.false_ne_true, hf]
  rfl

/-- While BUSY a command sets COLL alone. -/
theorem State.mailCmd_busy (hag : ag ≠ .move) (hm : m < 2) (hrun : m = 1 → s.fld Reg.cdstat 1 0 = 0) (hbusy : s.flag (Reg.mbxStat m) 0 = true)
    (seq : BitVec 16) (f : State → State × Nat × Nat) : s.mailCmd ag m seq f = s.putBit (Reg.mbxStat m) 1 true := by
  unfold State.mailCmd
  rw [if_neg (mailOpen hag hm hrun), if_pos hbusy]

/-- An answer made ready in a state that has kept the answers before it, BUSY standing. -/
theorem State.answered_mailed {u : State} (hbox : u.mailbox = s.mailbox) (hbusy : u.flag (Reg.mbxStat m) 0 = true) (seq : BitVec 16) (r v : Nat) :
    mailed s (u.answered m seq r v) m seq r v := ⟨by rw [State.answered, hbox], hbusy⟩

@[simp] theorem State.rd_answered (u : State) (m : Nat) (seq : BitVec 16) (r v a : Nat) : (u.answered m seq r v).rd a = u.rd a := rfl

@[simp] theorem State.fld_answered (u : State) (m : Nat) (seq : BitVec 16) (r v a hi lo : Nat) : (u.answered m seq r v).fld a hi lo = u.fld a hi lo := by
  rw [State.fld, State.rd_answered, State.fld]

/-- An answer made ready is no write to control space. -/
theorem State.answered_regsOnly {u : State} {as : List Nat} (h : regsOnly s u as) (seq : BitVec 16) (r v : Nat) :
    regsOnly s { u.answered m seq r v with mailbox := s.mailbox } as := by
  obtain ⟨hrest, hrd⟩ := h
  exact ⟨(congrArg (fun x : State => { x with mailbox := s.mailbox }) hrest :), hrd⟩

/-- A command that does nothing beside its answer. -/
theorem State.mailCmd_only (h : mailTakes s ag m) (seq : BitVec 16) {f : State → State × Nat × Nat} {r v : Nat}
    (hf : f (s.putBit (Reg.mbxStat m) 0 true) = (s.putBit (Reg.mbxStat m) 0 true, r, v)) :
    ∃ t, (Host.Outcome.next (s.mailCmd ag m seq f) : Outcome) = .next t ∧ mailedOnly s t m seq r v :=
  ⟨_, congrArg Host.Outcome.next (State.mailCmd_taken h seq hf),
    State.answered_mailed rfl (State.flag_putBit_same s _ 0 true (by omega)) seq r v, State.putBit_regsOnly s _ _ _⟩

/-! ### SET_SLIPLIM and SET_MARGIN (R108) -/

theorem execSetSliplim_sets (h : mailTakes s ag m) (seq : BitVec 16) {v : Nat} (hv : v = s.mbArg m 0 63 0) (h1 : 1 ≤ v) (h2 : v ≤ 65535) :
    execSetSliplim ag m seq s = .next (State.answered { ((s.putBit (Reg.mbxStat m) 0 true).put Reg.beatSliplim 15 0 v) with
      rebaseDue := s.rebaseDue || decide (v < s.largestOffset) } m seq mbDone 0) := by
  refine congrArg Host.Outcome.next (State.mailCmd_taken h seq ?_)
  dsimp only
  rw [State.mbArg_putBit _ _ _ _ _ _ _ (by omega), ← hv, if_pos ⟨h1, h2⟩]
  rfl

theorem execSetSliplim_refuses (h : mailTakes s ag m) (seq : BitVec 16) {v : Nat} (hv : v = s.mbArg m 0 63 0) (hbad : v = 0 ∨ 65535 < v) :
    ∃ t, execSetSliplim ag m seq s = .next t ∧ mailedOnly s t m seq mbBadArg 0 := by
  refine State.mailCmd_only h seq ?_
  dsimp only
  rw [State.mbArg_putBit _ _ _ _ _ _ _ (by omega), ← hv, if_neg (by omega)]

theorem execSetMargin_sets (h : mailTakes s ag m) (seq : BitVec 16) {v : Nat} (hv : v = s.mbArg m 0 63 0) (hok : v ≤ 500) :
    execSetMargin ag m seq s = .next (State.answered { (s.putBit (Reg.mbxStat m) 0 true) with marginNext := some v } m seq mbDone 0) := by
  refine congrArg Host.Outcome.next (State.mailCmd_taken h seq ?_)
  dsimp only
  rw [State.mbArg_putBit _ _ _ _ _ _ _ (by omega), ← hv, if_pos hok]

theorem execSetMargin_refuses (h : mailTakes s ag m) (seq : BitVec 16) {v : Nat} (hv : v = s.mbArg m 0 63 0) (hbad : 500 < v) :
    ∃ t, execSetMargin ag m seq s = .next t ∧ mailedOnly s t m seq mbBadArg 0 := by
  refine State.mailCmd_only h seq ?_
  dsimp only
  rw [State.mbArg_putBit _ _ _ _ _ _ _ (by omega), ← hv, if_neg (by omega)]

/-! ### SET_PIPELINE and GET_PIPELINE (R88, R108) -/

/-- The setting that SET_PIPELINE names. -/
def State.mailPipe (s : State) (m : Nat) : Pipe := ⟨s.mbArg m 1 63 48, s.mbArg m 1 47 32, s.mbArg m 1 31 0, s.mbArg m 2 15 0⟩

/-- A setting that a context may have (R88). -/
def Pipe.valid (p : Pipe) : Prop := 0 < p.stages ∧ p.stages ≤ 4096 ∧ p.stage < p.stages ∧ 0 < p.micro ∧ p.micro ≤ 2048 ∧ p.mode ≤ 1

/-- The command's own test of it. -/
theorem Pipe.valid_iff (p : Pipe) :
    p.valid ↔ ¬ (p.stages = 0 ∨ 4096 < p.stages ∨ p.stages ≤ p.stage ∨ p.micro = 0 ∨ 2048 < p.micro ∨ 1 < p.mode) := by
  unfold Pipe.valid
  omega

theorem State.mailPipe_putBit (s : State) (m j : Nat) (b : Bool) : (s.putBit (Reg.mbxStat m) j b).mailPipe m = s.mailPipe m := by
  simp only [State.mailPipe, State.mbArg_putBit _ _ _ _ _ _ _ (show 1 < 5 by omega), State.mbArg_putBit _ _ _ _ _ _ _ (show 2 < 5 by omega)]

/-- BUSY of a mailbox is no part of a queue's context. -/
theorem State.qctx_putBit_busy (s : State) (a q : Nat) (b : Bool) : (s.putBit a 0 b).qctx q = s.qctx q := by
  unfold State.qctx
  by_cases h : Reg.qctl q = a
  · subst h
    exact State.fld_putBit_apart s _ 0 63 52 b (by omega) (by omega) (by omega)
  · exact State.fld_putBit_other s a _ 0 63 52 b h

theorem State.ctxBusy_putBit_busy (s : State) (a ctx : Nat) (b : Bool) : (s.putBit a 0 b).ctxBusy ctx = s.ctxBusy ctx := by
  unfold State.ctxBusy
  simp only [State.putBit_ops, State.qctx_putBit_busy]

/-- The answer of SET_PIPELINE, in the order of its errors (log entry 152). -/
def State.setPipe (s : State) (m : Nat) : State × Nat × Nat :=
  let p := s.mailPipe m
  if p.stages = 0 ∨ 4096 < p.stages ∨ p.stages ≤ p.stage ∨ p.micro = 0 ∨ 2048 < p.micro ∨ 1 < p.mode then (s, mbBadArg, 0)
  else if 4095 < s.mbArg m 0 63 0 then (s, mbNoContext, 0)
  else if s.ctxBusy (s.mbArg m 0 63 0) then (s, mbRefused, 0)
  else ({ s with pipes := s.pipes.set (fun _ => defaultPipe) (s.mbArg m 0 63 0) p }, mbDone, 0)

theorem execSetPipeline_eq (ag : Agent) (m : Nat) (seq : BitVec 16) (s : State) :
    execSetPipeline ag m seq s = .next (s.mailCmd ag m seq (fun s => s.setPipe m)) := rfl

theorem State.setPipe_valid {u : State} (h : (u.mailPipe m).valid) : u.setPipe m = if 4095 < u.mbArg m 0 63 0 then (u, mbNoContext, 0)
    else if u.ctxBusy (u.mbArg m 0 63 0) then (u, mbRefused, 0)
    else ({ u with pipes := u.pipes.set (fun _ => defaultPipe) (u.mbArg m 0 63 0) (u.mailPipe m) }, mbDone, 0) := if_neg ((Pipe.valid_iff _).1 h)

theorem State.setPipe_invalid {u : State} (h : ¬ (u.mailPipe m).valid) : u.setPipe m = (u, mbBadArg, 0) :=
  if_pos (not_not.1 (mt (Pipe.valid_iff _).2 h))

/-- SET_PIPELINE of a valid setting for a context whose queues are idle. -/
theorem execSetPipeline_sets (h : mailTakes s ag m) (seq : BitVec 16) (hp : (s.mailPipe m).valid) (hv : s.mbArg m 0 63 0 ≤ 4095)
    (hidle : s.ctxBusy (s.mbArg m 0 63 0) = false) :
    execSetPipeline ag m seq s = .next (State.answered { (s.putBit (Reg.mbxStat m) 0 true) with
      pipes := s.pipes.set (fun _ => defaultPipe) (s.mbArg m 0 63 0) (s.mailPipe m) } m seq mbDone 0) := by
  rw [execSetPipeline_eq]
  refine congrArg Host.Outcome.next (State.mailCmd_taken h seq ?_)
  rw [State.setPipe_valid (by rw [State.mailPipe_putBit]; exact hp), State.mbArg_putBit _ _ _ _ _ _ _ (by omega), State.mailPipe_putBit,
    State.ctxBusy_putBit_busy, hidle, if_neg (by omega), if_neg Bool.false_ne_true]
  rfl

/-- SET_PIPELINE turned away: a wrong setting, else no context, else a context whose queues are at work. -/
theorem execSetPipeline_refuses (h : mailTakes s ag m) (seq : BitVec 16) {r : Nat}
    (hr : ¬ (s.mailPipe m).valid ∧ r = mbBadArg ∨ (s.mailPipe m).valid ∧ 4095 < s.mbArg m 0 63 0 ∧ r = mbNoContext ∨
      (s.mailPipe m).valid ∧ s.mbArg m 0 63 0 ≤ 4095 ∧ s.ctxBusy (s.mbArg m 0 63 0) = true ∧ r = mbRefused) :
    ∃ t, execSetPipeline ag m seq s = .next t ∧ mailedOnly s t m seq r 0 := by
  rw [execSetPipeline_eq]
  refine State.mailCmd_only h seq ?_
  rw [← State.mailPipe_putBit s m 0 true, ← State.mbArg_putBit s m 0 63 0 0 true (by omega), ← State.ctxBusy_putBit_busy s (Reg.mbxStat m) _ true] at hr
  rcases hr with ⟨hp, rfl⟩ | ⟨hp, hv, rfl⟩ | ⟨hp, hv, hbusy, rfl⟩
  · exact State.setPipe_invalid hp
  · rw [State.setPipe_valid hp, if_pos hv]
  · rw [State.setPipe_valid hp, if_neg (Nat.not_lt.2 hv), if_pos hbusy]

/-- The lowest unretired micro-batch is a matter of those retired alone (R90). -/
theorem State.lowestMb_congr {s t : State} (h : t.retired = s.retired) (ctx f n : Nat) : t.lowestMb ctx f n = s.lowestMb ctx f n := by
  induction f generalizing n with
  | zero => rfl
  | succ f ih => rw [State.lowestMb, State.lowestMb, ih, State.mbRetired, h, State.mbRetired]

/-- The setting in ARG1 and ARG2, BUSY set. -/
def State.pipeShown (s : State) (m : Nat) (p : Pipe) : State :=
  ((s.putBit (Reg.mbxStat m) 0 true).wr (Reg.mbxArg m 1) (word [(48, p.stages), (32, p.stage), (0, p.micro)])).wr (Reg.mbxArg m 2) (word [(0, p.mode)])

theorem execGetPipeline_shows (h : mailTakes s ag m) (seq : BitVec 16) {v : Nat} (hv : v = s.mbArg m 0 63 0) (hok : v ≤ 4095) :
    execGetPipeline ag m seq s = .next ((s.pipeShown m (s.pipe v)).answered m seq mbDone (s.lowestMb v (s.pipe v).micro 0)) := by
  refine congrArg Host.Outcome.next (State.mailCmd_taken h seq ?_)
  dsimp only
  rw [State.mbArg_putBit _ _ _ _ _ _ _ (by omega), ← hv, if_neg (by omega), State.lowestMb_congr (State.putBit_retired _ _ _ _)]
  rfl

theorem execGetPipeline_refuses (h : mailTakes s ag m) (seq : BitVec 16) {v : Nat} (hv : v = s.mbArg m 0 63 0) (hbad : 4095 < v) :
    ∃ t, execGetPipeline ag m seq s = .next t ∧ mailedOnly s t m seq mbNoContext 0 := by
  refine State.mailCmd_only h seq ?_
  dsimp only
  rw [State.mbArg_putBit _ _ _ _ _ _ _ (by omega), ← hv, if_pos hbad]

/-- What ARG1, ARG2 and BUSY read then. -/
theorem State.pipeShown_reads (s : State) (m : Nat) (p : Pipe) :
    (s.pipeShown m p).flag (Reg.mbxStat m) 0 = true ∧
      (s.pipeShown m p).rd (Reg.mbxArg m 1) = word [(48, p.stages), (32, p.stage), (0, p.micro)] ∧
      (s.pipeShown m p).rd (Reg.mbxArg m 2) = word [(0, p.mode)] ∧
      regsOnly s (s.pipeShown m p) [Reg.mbxStat m, Reg.mbxArg m 1, Reg.mbxArg m 2] := by
  have h12 : Reg.mbxArg m 1 ≠ Reg.mbxArg m 2 := by simp only [Reg.mbxArg]; omega
  refine ⟨?_, ?_, State.rd_wr_same _ _ _, ((regsOnly.putBusy s m true ?_).wr ?_ _).wr ?_ _⟩
  · rw [State.flag, State.pipeShown, State.fld_wr_other _ _ _ _ _ _ (Reg.mbxArg_ne_mbxStat m (by omega)).symm,
      State.fld_wr_other _ _ _ _ _ _ (Reg.mbxArg_ne_mbxStat m (by omega)).symm]
    exact State.flag_putBit_same s _ 0 true (by omega)
  · rw [State.pipeShown, State.rd_wr_other _ _ _ _ h12, State.rd_wr_same]
  all_goals simp

/-! ### CLEAR_COUNTERS (R98, R104) -/

/-- The slip counters of a unit at zero, its offset as it was. -/
def State.clearSlip (s : State) (u : Nat) : State := (s.wr (Reg.sliptab0 u) 0).put (Reg.sliptab1 u) 63 16 0

/-- The slip counters of the units below `n` at zero: no other register has changed. -/
theorem State.clearSlips_reads (s : State) (n : Nat) :
    ({ s.each n State.clearSlip with regs := s.regs } : State) = s ∧
      (∀ k, k < n → (s.each n State.clearSlip).rd (Reg.sliptab0 k) = 0 ∧ (s.each n State.clearSlip).fld (Reg.sliptab1 k) 63 16 = 0) ∧
      ∀ a, (∀ k, k < n → a ≠ Reg.sliptab0 k ∧ a ≠ Reg.sliptab1 k) → (s.each n State.clearSlip).rd a = s.rd a := by
  induction n with
  | zero => exact ⟨rfl, fun k hk => absurd hk (Nat.not_lt_zero k), fun _ _ => rfl⟩
  | succ n ih =>
    obtain ⟨hrest, hzero, hkeep⟩ := ih
    have hstep : s.each (n + 1) State.clearSlip = (s.each n State.clearSlip).clearSlip n := by
      rw [State.each, List.range_succ, List.foldl_append, State.each]
      rfl
    rw [hstep]
    generalize s.each n State.clearSlip = t at hrest hzero hkeep
    have hother : ∀ a, a ≠ Reg.sliptab0 n → a ≠ Reg.sliptab1 n → (t.clearSlip n).rd a = t.rd a := fun a h0 h1 =>
      (State.rd_put_other _ _ a _ _ _ h1).trans (State.rd_wr_other t _ a _ h0)
    refine ⟨by rw [← hrest]; rfl, fun k hk => ?_, fun a ha => ?_⟩
    · by_cases hkn : k = n
      · subst hkn
        refine ⟨?_, State.fld_put_same _ _ 63 16 0 (by omega) (by omega)⟩
        exact (State.rd_put_other _ _ _ _ _ _ (by simp only [Reg.sliptab0, Reg.sliptab1]; omega)).trans (State.rd_wr_same t _ 0)
      · obtain ⟨h0, h1⟩ := hzero k (by omega)
        rw [State.fld, hother _ (by simp only [Reg.sliptab0]; omega) (by simp only [Reg.sliptab0, Reg.sliptab1]; omega),
          hother _ (by simp only [Reg.sliptab0, Reg.sliptab1]; omega) (by simp only [Reg.sliptab1]; omega)]
        exact ⟨h0, h1⟩
    · obtain ⟨h0, h1⟩ := ha n (Nat.lt_succ_self n)
      exact (hother a h0 h1).trans (hkeep a (fun k hk => ha k (Nat.lt_succ_of_lt hk)))

/-- The counters that CLEAR_COUNTERS clears, at zero. -/
def State.countersCleared (s : State) : State := (s.each 185 State.clearSlip).wr Reg.hintMiss 0

theorem execClearCounters_clears (h : mailTakes s ag m) (seq : BitVec 16) :
    execClearCounters ag m seq s = .next ((s.putBit (Reg.mbxStat m) 0 true).countersCleared.answered m seq mbDone 0) :=
  congrArg Host.Outcome.next (State.mailCmd_taken h seq rfl)

theorem State.countersCleared_reads (u : State) :
    u.countersCleared.mailbox = u.mailbox ∧ u.countersCleared.rd Reg.hintMiss = 0 ∧
      (∀ k, k < 185 → u.countersCleared.rd (Reg.sliptab0 k) = 0 ∧ u.countersCleared.fld (Reg.sliptab1 k) 63 16 = 0) ∧
      ∀ a, a ≠ Reg.hintMiss → a < Reg.sliptab0 0 → u.countersCleared.rd a = u.rd a := by
  obtain ⟨hrest, hzero, hkeep⟩ := u.clearSlips_reads 185
  unfold State.countersCleared
  generalize u.each 185 State.clearSlip = t at hrest hzero hkeep
  refine ⟨(congrArg State.mailbox hrest :), State.rd_wr_same t _ 0, fun k hk => ?_, fun a hne hlt => ?_⟩
  · obtain ⟨h0, h1⟩ := hzero k hk
    rw [State.rd_wr_other t _ _ _ (by simp only [Reg.sliptab0, Reg.hintMiss]; omega),
      State.fld_wr_other t _ _ _ _ _ (by simp only [Reg.sliptab1, Reg.hintMiss]; omega)]
    exact ⟨h0, h1⟩
  · rw [State.rd_wr_other t _ a _ hne]
    refine hkeep a (fun k _ => ?_)
    simp only [Reg.sliptab0, Reg.sliptab1] at hlt ⊢
    omega

end

/-- Settles O24, command by command. -/
theorem mailboxCommandsActAndAnswer : Obligations.MailboxCommandsActAndAnswer := by
  intro ag m seq s v p h hv hp
  change p = s.mailPipe m at hp
  subst hp
  have hm : m < 2 := h.2.1
  have hbusy : (s.putBit (Reg.mbxStat m) 0 true).flag (Reg.mbxStat m) 0 = true := State.flag_putBit_same s _ 0 true (by omega)
  refine ⟨State.mailCmd_only h seq rfl, fun h1 h2 => ?_, execSetSliplim_refuses h seq hv, fun hok => ?_, execSetMargin_refuses h seq hv,
    fun hvalid => ⟨fun hc hidle => ?_, fun hc => ?_, fun hc hcb => ?_⟩, fun hbad => execSetPipeline_refuses h seq (Or.inl ⟨hbad, rfl⟩), fun hc => ?_,
    execGetPipeline_refuses h seq hv, ?_⟩
  · have hne : Reg.mbxStat m ≠ Reg.beatSliplim := by simp only [Reg.mbxStat, Reg.beatSliplim]; omega
    refine ⟨_, execSetSliplim_sets h seq hv h1 h2, State.answered_mailed rfl ?_ seq _ _, ?_, rfl, ?_⟩
    · exact (State.flag_congr rfl _ _).trans ((State.flag_put_other _ _ _ 15 0 v 0 hne).trans hbusy)
    · exact (State.fld_congr rfl _ _ _).trans ((State.fld_put_same _ Reg.beatSliplim 15 0 v (by omega) (by omega)).trans (Nat.mod_eq_of_lt (by omega)))
    · exact (regsOnly.putBusy s m true (by simp)).wr (by simp) _
  · exact ⟨_, execSetMargin_sets h seq hv hok, State.answered_mailed rfl hbusy seq _ _, rfl, State.putBit_regsOnly s _ _ _⟩
  · subst hv
    refine ⟨_, execSetPipeline_sets h seq hvalid hc hidle, State.answered_mailed rfl hbusy seq _ _, Tab.get_set_same _ _ _ _,
      fun c hne => Tab.get_set_other _ _ _ c _ hne, State.putBit_regsOnly s _ _ _⟩
  · exact execSetPipeline_refuses h seq (Or.inr (Or.inl ⟨hvalid, hv ▸ hc, rfl⟩))
  · subst hv
    exact execSetPipeline_refuses h seq (Or.inr (Or.inr ⟨hvalid, hc, hcb, rfl⟩))
  · obtain ⟨hf, ha1, ha2, hregs⟩ := s.pipeShown_reads m (s.pipe v)
    exact ⟨_, execGetPipeline_shows h seq hv hc, State.answered_mailed rfl hf seq _ _, (State.rd_answered _ _ _ _ _ _).trans ha1,
      (State.rd_answered _ _ _ _ _ _).trans ha2, State.answered_regsOnly hregs seq _ _⟩
  · obtain ⟨hbox, hmiss, hslip, hkeep⟩ := (s.putBit (Reg.mbxStat m) 0 true).countersCleared_reads
    have hrd := hkeep (Reg.mbxStat m) (by simp only [Reg.mbxStat, Reg.hintMiss]; omega) (by simp only [Reg.mbxStat, Reg.sliptab0]; omega)
    refine ⟨_, execClearCounters_clears h seq, State.answered_mailed hbox ?_ seq _ _, ?_, fun k hk => ?_⟩
    · rw [State.flag, State.fld, hrd]
      exact hbusy
    · rw [State.rd_answered, hmiss]
    · rw [State.rd_answered, State.fld_answered]
      exact hslip k hk

/-! ### BUSY and the answer (R107) -/

/-- A command of any code written while BUSY. -/
theorem mailBusy_sets_coll {ag : Agent} {m : Nat} {s : State} (hag : ag ≠ .move) (hm : m < 2) (hrun : m = 1 → s.fld Reg.cdstat 1 0 = 0)
    (hbusy : s.flag (Reg.mbxStat m) 0 = true) (seq : BitVec 16) (f : State → State × Nat × Nat) :
    ∃ t, (Host.Outcome.next (s.mailCmd ag m seq f) : Outcome) = .next t ∧ t.flag (Reg.mbxStat m) 1 = true ∧ regsOnly s t [Reg.mbxStat m] :=
  ⟨_, congrArg Host.Outcome.next (State.mailCmd_busy hag hm hrun hbusy seq f), State.flag_putBit_same s _ 1 true (by omega), State.putBit_regsOnly s _ _ _⟩

/-- The answer's word in RIG_MBXRSP, BUSY cleared and the answer gone from those made ready. -/
def State.respond (s : State) (m : Nat) (x : MbxRec) : State :=
  (({ s with mailbox := s.mailbox.eraseP (fun y => y.m == m) } : State).wr (Reg.mbxRsp m)
    (word [(48, x.result), (32, x.seq), (0, x.value % 2 ^ 32)])).putBit (Reg.mbxStat m) 0 false

theorem Reg.mbxRsp_ne_mbxStat (m : Nat) : Reg.mbxRsp m ≠ Reg.mbxStat m := by
  simp only [Reg.mbxRsp, Reg.mbxStat]
  omega

/-- What a response leaves in control space. -/
theorem State.respond_reads (s : State) (m : Nat) (x : MbxRec) :
    (s.respond m x).rd (Reg.mbxRsp m) = word [(48, x.result), (32, x.seq), (0, x.value % 2 ^ 32)] ∧
      (s.respond m x).flag (Reg.mbxStat m) 0 = false ∧ (s.respond m x).flag (Reg.mbxStat m) 2 = s.flag (Reg.mbxStat m) 2 ∧
      ∀ a, a ∉ [Reg.mbxRsp m, Reg.mbxStat m] → (s.respond m x).rd a = s.rd a := by
  unfold State.respond
  have hregs : ({ s with mailbox := s.mailbox.eraseP (fun y => y.m == m) } : State).regs = s.regs := rfl
  generalize ({ s with mailbox := s.mailbox.eraseP (fun y => y.m == m) } : State) = u at hregs
  refine ⟨?_, State.flag_putBit_same _ _ 0 false (by omega), ?_, fun a ha => ?_⟩
  · rw [State.rd_putBit_other _ _ _ _ _ (Reg.mbxRsp_ne_mbxStat m), State.rd_wr_same]
  · rw [State.flag_putBit_apart _ _ 0 2 false (by omega) (by omega), State.flag, State.fld_wr_other _ _ _ _ _ _ (Reg.mbxRsp_ne_mbxStat m).symm,
      State.fld_congr hregs, State.flag]
  · obtain ⟨hrsp, hstat⟩ : a ≠ Reg.mbxRsp m ∧ a ≠ Reg.mbxStat m := by simpa using ha
    rw [State.rd_putBit_other _ _ _ _ _ hstat, State.rd_wr_other _ _ _ _ hrsp, State.rd, hregs, State.rd]

/-- MAILBOX_RESPONSE of an answer made ready, outside a module recovery. -/
theorem execMailboxResponse_answers {m : Nat} {s v : State} {x : MbxRec} (hx : s.mailbox.find? (fun y => y.m == m) = some x)
    (hr : s.recovering 6 0 = false) (hv : v = s.respond m x) :
    execMailboxResponse m s = if !v.flag (Reg.mbxStat m) 2 then .next v
      else if m = 0 then .next (v.signal (v.fld (Reg.mbxStat 0) 26 16))
      else if v.fld Reg.cdstat 1 0 = 0 then .next { v with coreIrq := v.coreIrq ++ [(v.fld Reg.cdctl 55 50, v.fld Reg.cdctl 49 39)] }
      else .next v := by
  subst hv
  unfold execMailboxResponse
  rw [hx]
  dsimp only
  rw [hr, if_neg Bool.false_ne_true]
  rfl

/-! ### REBASE and READ_PLAN (R98, R108) -/

/-- Does READ_PLAN write a record of the piece: a committed or running one of the context (log entry 153)? -/
def State.inPlan (s : State) (ctx : Nat) (p : PieceRec) : Bool :=
  (p.phase == PiecePhase.committed || p.phase == PiecePhase.running) && match s.opAny p.q p.s with
    | some o => o.ctx == ctx
    | none => false

/-- The pieces whose records a buffer of `n` bytes takes, in their order. -/
def State.planPieces (s : State) (ctx n : Nat) : List PieceRec := ((s.pieces.filter (s.inPlan ctx)).foldl (fun l p => insertPiece p l) []).take (n / 16)

section
variable {s u : State} {ag : Agent} {m c a n : Nat} (h : mailTakes s ag m) (seq : BitVec 16) (hc : c = s.mbArg m 0 63 0)
include h hc

theorem execReadPlan_noContext (hbad : 4095 < c) : ∃ t, execReadPlan ag m seq s = .next t ∧ mailedOnly s t m seq mbNoContext 0 := by
  refine State.mailCmd_only h seq ?_
  dsimp only
  rw [State.mbArg_putBit _ _ _ _ _ _ _ (by omega), ← hc, if_pos hbad]

variable (ha : a = s.mbArg m 1 63 0) (hn : n = s.mbArg m 2 63 0) (hok : c ≤ 4095)
include ha hn hok

theorem execReadPlan_badBuffer (hbad : a % 16 ≠ 0 ∨ 2 ^ 24 < n ∨ inMemRegions a (max 1 n) = false) :
    ∃ t, execReadPlan ag m seq s = .next t ∧ mailedOnly s t m seq mbBadArg 0 := by
  refine State.mailCmd_only h seq ?_
  dsimp only
  rw [State.mbArg_putBit _ _ 0 _ _ _ _ (by omega), State.mbArg_putBit _ _ 1 _ _ _ _ (by omega), State.mbArg_putBit _ _ 2 _ _ _ _ (by omega),
    ← hc, ← ha, ← hn, if_neg (Nat.not_lt.2 hok), if_pos hbad]

theorem execReadPlan_writes {v : State} (hu : u = s.putBit (Reg.mbxStat m) 0 true)
    (hbuf : ¬ (a % 16 ≠ 0 ∨ 2 ^ 24 < n ∨ inMemRegions a (max 1 n) = false))
    (hw : u.writeMem (.plain 0) a (wordBytes ((u.planPieces c n).map planRecord).flatten) = .ok v) :
    execReadPlan ag m seq s = .next (v.answered m seq mbDone (u.planPieces c n).length) := by
  subst hu
  refine congrArg Host.Outcome.next (State.mailCmd_taken h seq ?_)
  dsimp only
  rw [State.mbArg_putBit _ _ 0 _ _ _ _ (by omega), State.mbArg_putBit _ _ 1 _ _ _ _ (by omega), State.mbArg_putBit _ _ 2 _ _ _ _ (by omega),
    ← hc, ← ha, ← hn, if_neg (Nat.not_lt.2 hok), if_neg hbuf]
  generalize s.putBit (Reg.mbxStat m) 0 true = u at hw
  change (match u.writeMem (.plain 0) a (wordBytes ((u.planPieces c n).map planRecord).flatten) with
    | .ok s => (s, mbDone, (u.planPieces c n).length)
    | .error f => (u.failRecord f a none, mbBadArg, 0)) = _
  rw [hw]

end

/-- Settles O25: the busy mailbox, the response with its interrupt, and the two commands on the plan. -/
theorem mailboxBusyResponseAndPlan : Obligations.MailboxBusyResponseAndPlan := by
  refine ⟨fun ag m seq s hag hm hrun hbusy c hmem => ?_, fun m s v x hx hr hv => ?_, fun ag m seq s u c a n h hu hc ha hn => ?_⟩
  · simp only [List.mem_cons, List.not_mem_nil, or_false] at hmem
    rcases hmem with rfl | rfl | rfl | rfl | rfl | rfl | rfl | rfl <;> exact mailBusy_sets_coll hag hm hrun hbusy seq _
  · have he := execMailboxResponse_answers hx hr hv
    obtain ⟨hrsp, hclear, hirq, hkeep⟩ := s.respond_reads m x
    refine ⟨fun h2 => ?_, fun h2 h0 => ?_, fun h2 h0 hcd => ?_⟩
    · have hquiet : v.flag (Reg.mbxStat m) 2 = false := hv ▸ hirq.trans h2
      rw [hquiet] at he
      exact ⟨_, he, hv ▸ hrsp, hv ▸ hclear, hv ▸ rfl, hv ▸ ⟨rfl, hkeep⟩⟩
    · rw [h2] at he
      exact he.trans (if_pos h0)
    · rw [h2] at he
      exact he.trans ((if_neg h0).trans (if_pos hcd))
  · subst hu
    refine ⟨congrArg Host.Outcome.next (State.mailCmd_taken h seq rfl), fun v ps hok ha16 hn24 hin hps hw => ?_, execReadPlan_noContext h seq hc,
      execReadPlan_badBuffer h seq hc ha hn⟩
    subst hps
    refine execReadPlan_writes h seq hc ha hn hok rfl ?_ hw
    rintro (h16 | h24 | hout)
    · exact h16 ha16
    · exact Nat.not_lt.2 hn24 h24
    · exact Bool.false_ne_true (hout.symm.trans hin)

end Sys2Proof.Machine
end

section
/-! Pieces: planned, committed, staged, started and ended (R76 to R103, R149). -/

namespace Sys2Proof.Machine

/-! ### The piece of an op and number -/

/-- A piece found has the queue, serial and number asked for. -/
theorem State.piece?_key {s : State} {q sn idx : Nat} {p : PieceRec} (h : s.piece? q sn idx = some p) : p.q = q ∧ p.s = sn ∧ p.idx = idx := by
  simpa [and_assoc] using List.find?_some h

/-- `mapPiece` changes the piece it names alone, where the change keeps that piece's op and number. -/
theorem State.piece?_mapPiece (s : State) {q sn idx : Nat} {f : PieceRec → PieceRec}
    (hf : ∀ p, p.q = q → p.s = sn → p.idx = idx → (f p).q = q ∧ (f p).s = sn ∧ (f p).idx = idx) (a b c : Nat) :
    (s.mapPiece q sn idx f).piece? a b c = (s.piece? a b c).map (fun p => if p.q = q ∧ p.s = sn ∧ p.idx = idx then f p else p) := by
  have hkey : ((fun p : PieceRec => p.q == a && p.s == b && p.idx == c) ∘ fun p => if p.q = q ∧ p.s = sn ∧ p.idx = idx then f p else p) =
      fun p => p.q == a && p.s == b && p.idx == c := by
    funext p
    dsimp only [Function.comp]
    split
    · rename_i hp
      obtain ⟨rfl, rfl, rfl⟩ := hp
      obtain ⟨hq, hs, hi⟩ := hf p rfl rfl rfl
      rw [hq, hs, hi]
    · rfl
  rw [State.piece?, State.mapPiece, List.find?_map, hkey, State.piece?]

theorem State.piece?_mapPiece_same {s : State} {q sn idx : Nat} {f : PieceRec → PieceRec} {p : PieceRec} (h : s.piece? q sn idx = some p)
    (hf : ∀ p, p.q = q → p.s = sn → p.idx = idx → (f p).q = q ∧ (f p).s = sn ∧ (f p).idx = idx) : (s.mapPiece q sn idx f).piece? q sn idx = some (f p) := by
  rw [State.piece?_mapPiece s hf, h, Option.map_some, if_pos (State.piece?_key h)]

theorem State.piece?_mapPiece_other (s : State) {q sn idx a b c : Nat} {f : PieceRec → PieceRec}
    (hf : ∀ p, p.q = q → p.s = sn → p.idx = idx → (f p).q = q ∧ (f p).s = sn ∧ (f p).idx = idx) (hn : (a, b, c) ≠ (q, sn, idx)) :
    (s.mapPiece q sn idx f).piece? a b c = s.piece? a b c := by
  rw [State.piece?_mapPiece s hf]
  cases h : s.piece? a b c with
  | none => rfl
  | some p =>
    obtain ⟨rfl, rfl, rfl⟩ := State.piece?_key h
    rw [Option.map_some, if_neg (fun e => hn (by rw [e.1, e.2.1, e.2.2]))]

/-! ### Planning (R78, R83) -/

@[simp] theorem State.syncSpills_pieces (s : State) (o : OpRec) : (s.syncSpills o).pieces = s.pieces := by
  unfold State.syncSpills
  split <;> rfl

/-- The piece that a plan makes of a part stands in the plan. -/
theorem State.newPiece_mem_planOn (s : State) (o : OpRec) (x : Part) (idx v e : Nat) : s.newPiece o x idx v e ∈ (s.planOn o x idx v e).pieces := by
  unfold State.planOn
  extract_lets p t s1 s2 s3
  rw [State.syncSpills_pieces]
  have h3 : s3.pieces = s2.pieces ++ [p] := by
    show (State.cond _ (v != 255) _).pieces = _
    cases v != 255 <;> rfl
  rw [h3]
  exact List.mem_append_right _ (List.mem_singleton_self _)

/-- PIECE_PLAN of a part that may be planned on the unit. -/
theorem execPiecePlan_plans {q sn idx unit e : Nat} {split : List Part} {s t u : State} {o p : OpRec} {x : Part} (h : s.op? q sn = some o)
    (hp : p = o.cutAs split) (hx : p.split[idx]? = some x) (hnow : s.rebaseNow = false) (hplan : s.plannable p = true) (hcut : s.cutPiece p idx = none)
    (hok : o.split = [] → s.cutOk p = true) (hdead : s.kindDead p x.kind = false) (ht : t = s.mapOp q sn (fun y => { y with split := p.split }))
    (he : t.inputBeat p (some x) = some e) (hover : t.overPlanned ⟨p, idx, x.kind, e⟩ = false) (hfit : s.unitFits p x unit = true)
    (hu : u = (s.bindPlanes p x unit).trimPlanes p) (hhold : u.residentHold p x unit = false) (hhint : s.hintLets p x unit e = true)
    (hbub : s.planClass p e < 3 ∨ s.bubbleOpen unit x.dir = true)
    (hcap : unit = 255 ∨ (s.planFigures p x unit e).1 ≤ s.capacity unit ∨ (s.planFigures p x unit e).1 = s.partCost p x (p.split.map Part.runs).flatten) :
    execPiecePlan q sn split idx unit s = .next (u.planOn p x idx unit e) := by
  have hbubble : (decide (3 ≤ s.planClass p e) && !s.bubbleOpen unit x.dir) = false := by
    rcases hbub with hc | ho
    · rw [decide_eq_false (by omega), Bool.false_and]
    · rw [ho, Bool.not_true, Bool.and_false]
  have hcapacity : (unit != 255 && decide (s.capacity unit < (s.planFigures p x unit e).1) &&
      (s.planFigures p x unit e).1 != s.partCost p x (p.split.map Part.runs).flatten) = false := by
    rcases hcap with hc | hc | hc
    · simp [hc]
    · simp [Nat.not_lt.2 hc]
    · simp [hc]
  have hfresh : (o.split.isEmpty && !s.cutOk p) = false := by
    cases hs : o.split with
    | nil => rw [hok hs]; rfl
    | cons y ys => rfl
  subst ht hu
  unfold execPiecePlan
  rw [h]
  dsimp -zeta only
  extract_lets fresh o'
  have ho' : o' = p := hp.symm
  clear_value o'
  subst ho'
  rw [hx]
  dsimp only
  rw [hnow, hplan, hcut, hfresh, if_neg (by decide), hdead, if_neg Bool.false_ne_true, he]
  dsimp only
  rw [hover, hfit, hhold, hhint, hbubble, hcapacity, if_neg (by decide)]

/-! ### Committing (R76, R80) -/

/-- The unit's last beat committed to, once a piece is committed there. -/
def State.lastWith (s : State) (p : PieceRec) : Tab Nat :=
  if p.unit = 255 then s.lastBeat else s.lastBeat.set (fun _ => 0) (2 * p.unit + p.dir) (p.planned + 1)

/-- The piece as its commit leaves it. -/
def PieceRec.committedAt (cyc : Nat) (p : PieceRec) : PieceRec := { p with phase := .committed, atCommit := p.planned, cyc := cyc }

section
variable {q sn idx : Nat} {s : State} {p : PieceRec} {o : OpRec} (hp : s.piece? q sn idx = some p)
include hp

theorem execPieceCommit_commits (ho : s.op? q sn = some o) (hph : p.phase = .planned) (hh : s.withinHorizon p.planned = true)
    (hr : s.recovering 6 0 = false) (hnow : s.rebaseNow = false) (hin : (s.unitIn p.unit || o.anyService p.part.kind) = true)
    (hopen : s.unitOpen p = true) :
    execPieceCommit q sn idx s = .next (({ s with lastBeat := s.lastWith p } : State).mapPiece q sn idx (PieceRec.committedAt (s.fld Reg.beatCyc 15 0))) := by
  unfold execPieceCommit
  rw [hp, ho]
  dsimp only
  rw [if_pos ⟨hph, hh, hr, hnow, hin, hopen⟩]
  unfold State.lastWith
  split <;> rfl

/-! ### Staging, start and end (R81, R92 to R94, R149) -/

theorem execStaging_notes {role die : Nat} {path : List Nat} {a : Obj} (ho : s.opAny q sn = some o) (hdie : unitDie p.unit = some die)
    (ha : o.obj role = some a) (hph : p.phase = .planned ∨ p.phase = .committed) (hrole : (o.stageRoles p.part).contains role = true)
    (hwork : o.atWork p = true) (hready : s.operandReady o p.part role a = true) (hpath : ∀ v ∈ path, 152 ≤ v ∧ v < 184)
    (hjoin : ∀ b ∈ (s.operandPlaces o p.part role).filterMap id,
      b = die ∨ ∃ v ∈ path, s.unitIn v = true ∧ (bundleJoins v 0 b die = true ∨ bundleJoins v 1 b die = true)) :
    execStaging q sn idx role path s = .next ((path.foldl (fun s v => s.meetStrand (v - 152)) s).mapPiece q sn idx
      (fun y => { y with staged := y.staged.filter (· != role) ++ [role], lower := y.lower || ((s.operandPlaces o p.part role).filterMap id).contains 4 })) := by
  unfold execStaging
  rw [hp, ho]
  dsimp only
  rw [hdie, ha]
  refine if_pos ⟨hph, hrole, hwork, hready, ?_, ?_⟩
  · simpa only [List.all_eq_true, Bool.and_eq_true, decide_eq_true_eq] using hpath
  · simpa only [List.all_eq_true, List.any_eq_true, Bool.or_eq_true, Bool.and_eq_true, beq_iff_eq] using hjoin

theorem execPieceStart_runs {vxe : Nat} {errs : List (Nat × Nat)} {u v w : State} (ho : s.opAny q sn = some o) (hnow : s.rebaseNow = false)
    (hcould : s.couldStart o p = true) (hfree : s.unitFree o p = true) (hline : s.firstInLine p = true) (hvxe : s.vxeOk o p vxe = true)
    (hjoin : (if o.d.cls = 7 ∧ o.d.op = 0 then s.seqJoin o else some s) = some u) (hv : v = (u.unitErrors (some (q, sn, o.ctx)) errs).pieceReads o p)
    (hthere : (v.piece? q sn idx).isSome = true) (hread : v.readFirst o p = (w, true)) :
    execPieceStart q sn idx errs vxe s = .next (w.runPiece o p vxe) := by
  subst hv
  unfold execPieceStart
  rw [hp, ho]
  dsimp only
  rw [hnow, hcould, hfree, hline, hvxe, if_neg (by decide), hjoin]
  dsimp only
  rw [if_neg (by rw [Option.isNone_iff_eq_none]; exact Option.isSome_iff_ne_none.1 hthere), hread]

end

/-- Settles O19: each of the four commands does its own step of a piece's life. -/
theorem piecesArePlannedAndStarted : Obligations.PiecesArePlannedAndStarted := by
  refine ⟨fun q sn idx unit e split s t u o p x h hp hx hnow hplan hcut hok hdead ht he hover hfit hu hhold hhint hbub hcap => ⟨?_, ?_⟩,
    fun q sn idx s p o hp ho hph hh hr hnow hin hopen => ?_, fun q sn idx role die path s u p o a from_ hp ho hdie ha hph hrole hwork hready hpath hfrom hjoin hu => ?_,
    fun q sn idx vxe errs s u v w p o hp ho hnow hcould hfree hline hvxe hjoin hv hthere hread =>
      execPieceStart_runs hp ho hnow hcould hfree hline hvxe hjoin hv hthere hread⟩
  · exact execPiecePlan_plans h hp hx hnow hplan hcut hok hdead ht he hover hfit hu hhold hhint hbub hcap
  · exact ⟨_, u.newPiece_mem_planOn p x idx unit e, rfl, rfl, rfl, rfl, rfl, rfl, rfl⟩
  · have hkeep : ∀ y : PieceRec, y.q = q → y.s = sn → y.idx = idx → (y.committedAt (s.fld Reg.beatCyc 15 0)).q = q ∧
        (y.committedAt (s.fld Reg.beatCyc 15 0)).s = sn ∧ (y.committedAt (s.fld Reg.beatCyc 15 0)).idx = idx := fun y hq hs hi => ⟨hq, hs, hi⟩
    obtain ⟨rfl, rfl, rfl⟩ := State.piece?_key hp
    exact ⟨_, execPieceCommit_commits hp ho hph hh hr hnow hin hopen,
      ⟨State.piece?_mapPiece_same hp hkeep, rfl, fun a b c hn => State.piece?_mapPiece_other _ hkeep hn⟩, rfl⟩
  · subst hu hfrom
    exact execStaging_notes hp ho hdie ha hph hrole hwork hready hpath hjoin

/-- Settles O20, by the order in which PIECE_END does its work. -/
theorem piecesEnd : Obligations.PiecesEnd := by
  intro q sn idx cyc waitTier waitData s p o hp ho hph hnow hprog hdone late cause rose
  change ∃ u v w x, _ ∧ _ ∧ _ ∧ _ ∧ execPieceEnd q sn idx cyc waitTier waitData s = _
  have hends : ¬ (p.phase ≠ .running ∨ s.rebaseNow = true ∨ s.noProgress p = true ∨ s.pieceDone o p = false) := by
    rw [hph, hnow, hprog, hdone]
    decide
  unfold execPieceEnd
  rw [hp, ho]
  dsimp -zeta only
  rw [if_neg hends]
  extract_lets s1 u v w add s2 x idle t
  refine ⟨u, v, w, x, rfl, rfl, ?_, ?_, rfl⟩
  · clear_value v
    rfl
  · show s2.addHist q sn add = _
    have hadd : add = ((w.piece? q sn idx).map PieceRec.hist).getD [] := by
      show (match w.piece? q sn idx with | some p => p.hist | none => []) = _
      cases w.piece? q sn idx <;> rfl
    rw [hadd]

end Sys2Proof.Machine
end

section
/-! A unit of work performed, recorded at its op and its pieces (R81, R82, R217). -/

namespace Sys2Proof.Machine

/-- The op with work unit `u` among its units done, its own counts `hist` as they were. -/
def OpRec.withUnit (o : OpRec) (hist : Tab Nat) (u : Nat) : OpRec := { o.didUnit u with hist := hist }

theorem OpRec.mem_done_withUnit (o : OpRec) (hist : Tab Nat) (u k : Nat) : k ∈ (o.withUnit hist u).done ↔ k = u ∨ k ∈ o.done := by
  unfold OpRec.withUnit OpRec.didUnit
  dsimp only
  by_cases h : o.done.contains u = true
  · rw [if_pos h, or_iff_right_of_imp]
    rintro rfl
    simpa using h
  · rw [if_neg h, List.mem_append, List.mem_singleton, or_comm]

/-- A piece with work unit `u` among those it has performed, where it runs for the op and covers it. -/
def PieceRec.withUnit (q sn u : Nat) (p : PieceRec) : PieceRec :=
  if p.q = q ∧ p.s = sn ∧ p.phase = .running ∧ p.part.first ≤ u ∧ u < p.part.first + p.part.n ∧ p.did.contains u = false then
    { p with did := p.did ++ [u] }
  else p

/-- A piece with the unit's counts, where it performs it on this unit. -/
def PieceRec.withCounts (q sn unit u : Nat) (add : Tab Nat) (p : PieceRec) : PieceRec :=
  if p.covers q sn unit u 1 then { p with hist := histJoin p.hist add } else p

/-- Recording changes what a piece has performed and counted alone. -/
theorem PieceRec.withUnit_rest (q sn u : Nat) (p : PieceRec) : { p.withUnit q sn u with did := p.did } = p := by
  unfold PieceRec.withUnit
  split <;> rfl

theorem PieceRec.withCounts_rest (q sn unit u : Nat) (add : Tab Nat) (p : PieceRec) : { p.withCounts q sn unit u add with hist := p.hist } = p := by
  unfold PieceRec.withCounts
  split <;> rfl

/-- What recording leaves of a piece whatever it notes. -/
theorem PieceRec.recorded_keeps (q sn unit u : Nat) (add : Tab Nat) (p : PieceRec) :
    ({ (p.withUnit q sn u).withCounts q sn unit u add with did := [], hist := [] } : PieceRec) = { p with did := [], hist := [] } ∧
      ((p.withUnit q sn u).withCounts q sn unit u add).did = (p.withUnit q sn u).did := by
  have hcounts := (p.withUnit q sn u).withCounts_rest q sn unit u add
  have hunit := p.withUnit_rest q sn u
  refine ⟨Eq.trans ?_ (congrArg (fun x : PieceRec => { x with did := [], hist := [] }) hunit), (congrArg PieceRec.did hcounts :)⟩
  exact (congrArg (fun x : PieceRec => { x with did := [], hist := [] }) hcounts :)

/-- A running piece of the op that covers the unit has performed it. -/
theorem PieceRec.mem_did_withUnit {q sn u : Nat} {p : PieceRec} (hq : p.q = q) (hs : p.s = sn) (hp : p.phase = .running) (h1 : p.part.first ≤ u)
    (h2 : u < p.part.first + p.part.n) : u ∈ (p.withUnit q sn u).did := by
  unfold PieceRec.withUnit
  by_cases hd : p.did.contains u = true
  · rw [if_neg (fun c => absurd (hd.symm.trans c.2.2.2.2.2) (by decide))]
    simpa using hd
  · rw [if_pos ⟨hq, hs, hp, h1, h2, by simpa using hd⟩]
    exact List.mem_append_right _ (List.mem_singleton_self u)

/-- One unit performed well: the op is put back with it, and the pieces note it and its counts. -/
theorem State.perform_one {s t : State} {q sn unit u : Nat} {f : OpRec → State → Nat → Except WorkFail (OpRec × State)} {o o2 : OpRec}
    (h : s.op? q sn = some o) (hf : f { s.view unit o with hist := [] } s u = .ok (o2, t)) :
    s.perform q sn unit f u 1 = { t.putOp (o2.withUnit o.hist u) with
      pieces := (t.pieces.map (PieceRec.withUnit q sn u)).map (PieceRec.withCounts q sn unit u o2.hist) } := by
  have hany : s.opAny q sn = some o := by rw [State.opAny, h]
  rw [State.perform, hany]
  dsimp only
  rw [hf]
  rfl

/-- The op put back keeps the translations captured for it. -/
theorem State.op?_putOp {t : State} {o p : OpRec} (h : t.op? o.q o.s = some p) :
    (t.putOp o).op? o.q o.s = some { o with objs := p.objs, objs2 := p.objs2 } :=
  State.op?_mapOp_same h (fun _ _ _ => ⟨rfl, rfl⟩)

/-- Settles O26, by what one unit performed leaves. -/
theorem workUnitIsRecorded : Obligations.WorkUnitIsRecorded := by
  intro s t q sn unit u f o o2 p h hf hq hs hp
  subst hq hs
  refine ⟨_, _, State.perform_one h hf, State.op?_putOp (o := o2.withUnit o.hist u) hp, (o2.mem_done_withUnit o.hist u u).2 (Or.inl rfl),
    o2.mem_done_withUnit o.hist u, rfl, rfl, rfl, rfl, fun y hy hyq hys hrun h1 h2 => ?_, ?_⟩
  · obtain ⟨x, hx, rfl⟩ := List.mem_map.1 hy
    obtain ⟨z, -, rfl⟩ := List.mem_map.1 hx
    obtain ⟨hrest, hdid⟩ := z.recorded_keeps o2.q o2.s unit u o2.hist
    rw [hdid]
    rw [(congrArg PieceRec.q hrest :)] at hyq
    rw [(congrArg PieceRec.s hrest :)] at hys
    rw [(congrArg PieceRec.phase hrest :)] at hrun
    rw [(congrArg PieceRec.part hrest :)] at h1 h2
    exact PieceRec.mem_did_withUnit hyq hys hrun h1 h2
  · dsimp only
    rw [List.map_map, List.map_map]
    exact List.map_congr_left (fun y _ => (y.recorded_keeps o2.q o2.s unit u o2.hist).1)

end Sys2Proof.Machine
end

section
/-! Writes to the watch slots: who may make them, and where they wait for the boundary (R134, R136, R138). -/

namespace Sys2Proof.Machine

/-- A write of RIG_WCTL by an agent that may make it waits in the slot's place of the writes to come (R136). -/
theorem execRigWctl_waits {ag : Agent} {slot : Nat} (v : Word) (s : State) (hslot : slot < 8) (h : Who.barRig.admits ag = true) :
    execRigWctl ag slot v s = .next { s with wctlNext := s.wctlNext.set (fun _ => none) slot (some v) } :=
  if_pos (by rw [h, decide_eq_true hslot, Bool.and_self])

theorem execRigWctl_ignored {ag : Agent} (slot : Nat) (v : Word) (s : State) (h : Who.barRig.admits ag = false) :
    execRigWctl ag slot v s = .next s :=
  if_neg (by rw [h, Bool.false_and]; exact Bool.false_ne_true)

/-- A clear of TRIPPED by an agent that may make it waits behind those already waiting (R138). -/
theorem execTrippedClear_waits {ag : Agent} {slot : Nat} (s : State) (hslot : slot < 8) (h : Who.barRig.admits ag = true) :
    execTrippedClear ag slot s = .next { s with tripClear := s.tripClear ++ [slot] } :=
  if_pos (by rw [h, decide_eq_true hslot, Bool.and_self])

theorem execTrippedClear_ignored {ag : Agent} (slot : Nat) (s : State) (h : Who.barRig.admits ag = false) :
    execTrippedClear ag slot s = .next s :=
  if_neg (by rw [h, Bool.false_and]; exact Bool.false_ne_true)

/-- Settles O23, by whether the agent is one of those of R134: its write is only noted for the boundary, another agent's is dropped. -/
theorem watchWritesWaitForTheBoundary : Obligations.WatchWritesWaitForTheBoundary := by
  intro ag slot v s hslot
  constructor
  · intro h
    constructor
    · exact ⟨_, execRigWctl_waits v s hslot h, Tab.get_set_same _ s.wctlNext slot _,
        fun k hk => Tab.get_set_other _ s.wctlNext slot k _ hk, rfl⟩
    · exact ⟨_, execTrippedClear_waits s hslot h, rfl, rfl⟩
  · intro h
    exact ⟨execRigWctl_ignored slot v s h, execTrippedClear_ignored slot s h⟩

end Sys2Proof.Machine
end

section
/-! Injections armed and expired (R178, R595), recovery windows (R580) and the column map (R176). -/

namespace Sys2Proof.Machine

/-! ### Injections (R178, R594, R595) -/

theorem isRig_eq_false {ag : Agent} (h : ag ≠ .rig) : isRig ag = false := beq_eq_false_iff_ne.2 h

theorem State.armRig_ignored {ag : Agent} (s : State) (ok : Bool) (reg kind target : Nat) (h : ag ≠ .rig) : s.armRig ag ok reg kind target = s :=
  if_neg (by rw [isRig_eq_false h, Bool.false_and]; exact Bool.false_ne_true)

theorem State.armRig_rig (s : State) (reg kind target : Nat) : s.armRig .rig true reg kind target = s.arm reg kind target := rfl

/-- A command that names nothing to judge arms where its sender is a rigging core. -/
theorem State.armRig_next (s : State) (ag : Agent) (reg kind target : Nat) :
    (if isRig ag then .next (s.arm reg kind target) else .next s : Outcome) = .next (s.armRig ag true reg kind target) := by
  rw [State.armRig, Bool.and_true]
  exact (apply_ite Host.Outcome.next _ _ _).symm

/-- Every injection command is the same shared operation on what it asks for. -/
theorem exec_of_injectionOf {c : Instr} {i : Injection} (s : State) (h : injectionOf c = some i) :
    exec c s = .next (s.armRig i.ag i.ok i.reg i.kind i.target) := by
  cases c with
  | mxeInjColumnResidue | mxeInjWeightRegisterParity | mxeInjAStreamParity | mxeInjTurnLoaderParity | mxeAccinjOneBit | mxeAccinjTwoBits | vxeInjTqEccOneBit
  | vxeInjTqEccTwoBits | vxeInjLaneParity | vxeInjPermuteParity | asqInjDirEccOneBit | asqInjDirEccTwoBits | asqInjExponentParity | asqInjGatherParity
  | stmInjLaneResidue | stmInjTermParity | stmInjGatherParity | uuInjDatapathResidue | uuInjRecordParity | uuInjEncoderParity | itkInjHuffmanParity
  | itkInjTransformResidue | itkInjEccOneBit | itkInjEccTwoBits | fltInjUnitWatchdog | fltInjTileStoreOneBit | fltInjTileStoreTwoBits | fltInjTcrc
  | fltInjRfmAlarm | fltInjLaneLockLoss | fltInjHostUr | fltInjOffset | fltInjCoreWatchdog | fltInjQueueTwoBits | fltInjFuse =>
    cases h; rfl
  | hbcInjWOneSymbol | hbcInjWFourSymbols | hbcInjACrc | hbcInjReadoutFailure | mscInjOneBit | mscInjTwoBits | rigCdinjL2OneBit | rigCdinjL2TwoBits
  | rigCdinjL3TwoBits | rigCdinjDirectory | rigCdinjDeadAgent | dtcInjOneSector | dtcInjThreeSectors | dtcInjClassASector | hlkInjFlitCrc
  | hlkInjCompletionTimeout | hlkInjForcedRecovery | stlInjLaneParity | stlInjFlitCrc | hwpPinjUncorrectableCodeword | hwpPinjCrcError | hwpPinjForcedRetrain
  | pwrInjInputAlert | pwrInjInputFault | pwrInjRailFault | pwrInjCapfail | pwrInjHot | pwrInjTrip | pwrInjHbmHot | pwrInjCoolant | pwrInjSensor
  | pwrInjMezzanine =>
    cases h; exact State.armRig_next s _ _ _ _
  | _ =>
    -- it arms nothing: no injection is asked for
    cases h

/-- Settles O8: the shared operation lets the rigging cores alone arm. -/
theorem onlyRiggingCoresInject : Obligations.OnlyRiggingCoresInject := by
  intro c i s h hag
  rw [exec_of_injectionOf s h, State.armRig_ignored s _ _ _ _ hag]

/-- What is still armed once the expired injections are dropped. -/
theorem State.mem_unexpired (s : State) (a : Armed) :
    a ∈ s.armed.filter (fun (a : Armed) => decide (s.beat < a.beat + 65536) || (a.reg == Reg.fltInj && a.kind == 11)) ↔
      a ∈ s.armed ∧ (s.beat < a.beat + 65536 ∨ (a.reg = Reg.fltInj ∧ a.kind = 11)) := by
  simp only [List.mem_filter, Bool.or_eq_true, Bool.and_eq_true, decide_eq_true_eq, beq_iff_eq]

/-- Settles O9: a rigging core's injection is added to those armed, and the expiry keeps those that have not expired. -/
theorem injectionArmsItsDetector : Obligations.InjectionArmsItsDetector := by
  constructor
  · intro c i s h hag hok
    refine ⟨s.arm i.reg i.kind i.target, ?_, rfl, rfl⟩
    rw [exec_of_injectionOf s h, hag, hok, State.armRig_rig]
  · intro s
    exact ⟨_, rfl, rfl, s.mem_unexpired⟩

/-! ### Recovery windows (R580) -/

theorem execWindowClose_closes {dom inst : Nat} {s : State} {w : Window} (h : s.window dom inst = some w) (hbusy : w.busy = false) (hinto : w.into = 0)
    (hends : w.ends ≤ s.ns) :
    execWindowClose dom inst s = .next (s.setWindows (s.windows.filter (fun v => !(v.dom == dom && v.inst == inst)))) := by
  rw [execWindowClose, h]
  exact if_pos ⟨hbusy, hinto, hends⟩

/-! ### The column map (R176) -/

theorem execMxeColmap_ignored {ag : Agent} (n : Nat) (v : Word) (s : State) (h : ag ≠ .rig) : execMxeColmap ag n v s = .next s :=
  if_neg (by rw [isRig_eq_false h, Bool.false_and]; exact Bool.false_ne_true)

/-- A rigging core's write to an MXE that exists is judged by the unit's service and the map's columns. -/
theorem execMxeColmap_rig {n : Nat} (v : Word) (s : State) (hn : n < 16) :
    execMxeColmap .rig n v s = if s.unitIn n || colmapClash v then .next (s.putBit (Reg.mxeStat n) 3 true) else .next (s.wr (Reg.mxeColmap n) v) :=
  if_pos (Bool.and_eq_true_iff.2 ⟨rfl, decide_eq_true hn⟩)

theorem execMxeColmap_refused {n : Nat} {v : Word} {s : State} (hn : n < 16) (h : s.unitIn n = true ∨ colmapClash v = true) :
    execMxeColmap .rig n v s = .next (s.putBit (Reg.mxeStat n) 3 true) :=
  (execMxeColmap_rig v s hn).trans (if_pos (Bool.or_eq_true_iff.2 h))

theorem execMxeColmap_written {n : Nat} {v : Word} {s : State} (hn : n < 16) (hin : s.unitIn n = false) (hc : colmapClash v = false) :
    execMxeColmap .rig n v s = .next (s.wr (Reg.mxeColmap n) v) :=
  (execMxeColmap_rig v s hn).trans (if_neg (by rw [hin, hc]; exact Bool.false_ne_true))

/-- Settles O57: the window leaves the list, and a write of MXE_COLMAP is ignored under MAPERR, taken, or without effect by its sender and the unit. -/
theorem windowsCloseAndColumnsAreMapped : Obligations.WindowsCloseAndColumnsAreMapped := by
  constructor
  · intro dom inst s w h hbusy hinto hends
    exact execWindowClose_closes h hbusy hinto hends
  · intro n v s hn
    refine ⟨fun h => ⟨_, execMxeColmap_refused hn h, ?_, State.putBit_regsOnly s _ _ _⟩,
      fun hin hc => ⟨_, execMxeColmap_written hn hin hc, State.rd_wr_same s _ v, State.wr_regsOnly s _ v⟩,
      fun _ h => execMxeColmap_ignored n v s h⟩
    exact State.flag_putBit_same s _ 3 true (by omega)

end Sys2Proof.Machine
end

section
/-! Products, convolutions, GRAM and stem ops streamed step by step (R143, R163, R295), and the tile queues that take their tiles (R148, R215 to R217). -/

namespace Sys2Proof.Machine

/-! ### Steps of a quad (R143, R163) -/

/-- A running piece has streamed one more step on a quad: where piece `idx` of the op stands is moved on. -/
def State.movedOn (s : State) (q sn idx quad : Nat) : State :=
  { s with pieces := s.pieces.map (fun (y : PieceRec) =>
      if y.q = q ∧ y.s = sn ∧ y.idx = idx then { y with pos := y.pos.set (fun _ => 0) quad (y.pos.get (fun _ => 0) quad + 1) } else y) }

/-- The one step asked for of a quad: the step itself, its piece moved on. -/
theorem State.stream_one {s v w : State} {cls op q sn unit quad : Nat} {shape : OpRec → Option (Shape × Obj)} {src : OpRec → State → Source} {o : OpRec}
    {p : PieceRec} {k : Run} {x : Shape} {d : Obj} (ho : s.opAny q sn = some o) (hp : s.streamer q sn unit quad = some (p, k)) (hcls : o.d.cls = cls)
    (hop : o.d.op = op) (hshape : shape o = some (x, d)) (hin : s.unitIn unit = true)
    (hstall : s.stalled.any (fun t => t.unit == unit && t.quad == quad) = false)
    (hmeet : s.meetQuad unit quad ((k.start + p.pos.get (fun _ => 0) quad) % bandGroups d k.r0 k.h == 0) = (v, false))
    (hstep : v.streamStep o x d p k (src (v.view unit o) v) = .ok w) :
    s.stream cls op q sn unit quad shape src 1 = w.movedOn q sn p.idx quad := by
  have hgo : ¬ ((o.d.cls, o.d.op) ≠ (cls, op) ∨ s.unitIn unit = false ∨ s.stalled.any (fun t => t.unit == unit && t.quad == quad) = true) := by
    rw [hcls, hop, hin, hstall]
    simp
  rw [State.stream, ho, hp]
  dsimp only
  rw [hshape]
  dsimp only
  rw [if_neg hgo, hmeet]
  dsimp only
  rw [hstep]
  rfl

theorem streamOn_quad (cls op : Nat) {q sn unit quad n : Nat} (shape : OpRec → Option (Shape × Obj)) (src : OpRec → State → Source) (s : State)
    (hu : unit < 16) (hq : quad < 4) : streamOn cls op q sn unit unit quad n shape src s = .next ((s.stream cls op q sn unit quad shape src n).settle) :=
  if_pos ⟨hu, rfl, hq⟩

/-- A command that streams on a quad of an MXE, with the VXE paired with it, streams step by step. -/
theorem streamsSteps_of_streamOn {c : Instr} {cls op q sn unit quad n : Nat} {shape : OpRec → Option (Shape × Obj)} {src : OpRec → State → Source}
    (hu : unit < 16) (hq : quad < 4) (hc : ∀ s, exec c s = streamOn cls op q sn unit unit quad n shape src s) :
    streamsSteps c cls op q sn unit quad n shape src := by
  intro s
  have hrun : exec c s = .next ((s.stream cls op q sn unit quad shape src n).settle) := (hc s).trans (streamOn_quad cls op shape src s hu hq)
  refine ⟨hrun, fun o p k x d v w hn ho hp hcls hop hshape hin hstall hmeet hstep => ?_⟩
  subst hn
  rw [hrun, State.stream_one ho hp hcls hop hshape hin hstall hmeet hstep]
  rfl

/-! ### Steps of a stem engine (R293, R295) -/

/-- The one slice asked for of a stem engine: the step itself, its piece moved on. -/
theorem State.stemStream_one {s v w : State} {op q sn unit : Nat} {o : OpRec} {p : PieceRec} {x : Shape} {d : Obj} {g k : Nat}
    (ho : s.opAny q sn = some o)
    (hp : s.pieces.find? (fun p => p.q == q && p.s == sn && p.unit == unit && p.phase == PiecePhase.running && !p.failed && !s.noProgress p) = some p)
    (hcls : o.d.cls = 5) (hop : o.d.op = op) (hshape : o.convShape = some (x, d)) (hnext : p.stemNext x.per = some (g, k)) (hin : s.unitIn unit = true)
    (hstall : s.stalled.any (fun t => t.unit == unit) = false) (hmeet : s.meetStem (unit - 36) = (v, false))
    (hstep : v.stemStep o x d p g k (convSource (v.view unit o) v) = .ok w) :
    s.stemStream op q sn unit 1 = w.movedOn q sn p.idx 0 := by
  have hgo : ¬ ((o.d.cls, o.d.op) ≠ (5, op) ∨ s.unitIn unit = false ∨ s.stalled.any (fun t => t.unit == unit) = true) := by
    rw [hcls, hop, hin, hstall]
    simp
  rw [State.stemStream, ho, hp]
  dsimp only
  rw [hshape]
  dsimp only
  rw [hnext]
  dsimp only
  rw [if_neg hgo, hmeet]
  dsimp only
  rw [hstep]
  rfl

theorem stemOn_engine (op : Nat) {q sn unit vxe n : Nat} {s : State} (h36 : 36 ≤ unit) (h40 : unit < 40) (hdie : vxe / 4 = unit - 36)
    (hrun : s.pieces.any (fun p => p.q == q && p.s == sn && p.unit == unit && p.phase == PiecePhase.running && p.vxe == vxe) = true) :
    stemOn op q sn unit vxe n s = .next ((s.stemStream op q sn unit n).settle) :=
  if_pos ⟨h36, h40, hdie, hrun⟩

/-- The three stem commands are one shared operation on the op's code. -/
theorem exec_stem {c : Instr} {q sn unit vxe n op : Nat} (s : State)
    (h : (c, op) ∈ [(Instr.stemFwd q sn unit vxe n, 0), (.stemBwdData q sn unit vxe n, 1), (.stemBwdWeight q sn unit vxe n, 2)]) :
    exec c s = stemOn op q sn unit vxe n s := by
  simp only [List.mem_cons, List.not_mem_nil, or_false, Prod.mk.injEq] at h
  obtain ⟨rfl, rfl⟩ | ⟨rfl, rfl⟩ | ⟨rfl, rfl⟩ := h <;> rfl

/-- Settles O28: each command is the shared operation of its engine, of which one step is known. -/
theorem productsStream : Obligations.ProductsStream := by
  constructor
  · intro q sn unit quad n hu hq
    exact ⟨streamsSteps_of_streamOn hu hq fun _ => rfl, streamsSteps_of_streamOn hu hq fun _ => rfl, streamsSteps_of_streamOn hu hq fun _ => rfl,
      streamsSteps_of_streamOn hu hq fun _ => rfl, streamsSteps_of_streamOn hu hq fun _ => rfl, streamsSteps_of_streamOn hu hq fun _ => rfl,
      streamsSteps_of_streamOn hu hq fun _ => rfl⟩
  · intro q sn unit vxe n op c s hc h36 h40 hdie hrun
    have hexec := (exec_stem s hc).trans (stemOn_engine op h36 h40 hdie hrun)
    refine ⟨hexec, fun o p x d g k v w hn ho hp hcls hop hshape hnext hin hstall hmeet hstep => ?_⟩
    subst hn
    rw [hexec, State.stemStream_one ho hp hcls hop hshape hnext hin hstall hmeet hstep]
    rfl

/-! ### Tile queues (R148, R215 to R217) -/

theorem execTileQueueRoom_enters {unit : Nat} {s : State} {e : TileEntry} (h : s.stalled.find? (fun t => t.unit == unit) = some e)
    (hroom : (s.tileQ.filter (fun t => t.vxe == e.vxe)).length < tqEntries) :
    execTileQueueRoom unit s = .next
      ((({ s with tileQ := s.tileQ ++ [e], stalled := s.stalled.eraseP (fun t => t.unit == unit), free := s.free + 1 } : State).syncTq e.vxe).bump
        (Reg.vxeTqstall e.vxe) 63 0 (Config.stallCycles s.free)) := by
  rw [execTileQueueRoom, h]
  exact if_pos hroom

section
variable {vxe : Nat} {s : State} {e : TileEntry} {o : OpRec}

/-- The head of a queue whose op is over frees its place. -/
theorem execEpilogue_void (he : s.tileQ.find? (fun t => t.vxe == vxe) = some e) (ho : s.opAny e.q e.s = some o) (hv : s.entryVoid e o = true) :
    execEpilogue vxe s = .next (s.freeEntry vxe) := by
  rw [execEpilogue, he]
  dsimp only
  rw [ho]
  exact if_pos hv

/-- The head of a queue whose tile the epilogue can make: its place is free, its counts go to its piece, and its op has performed it. -/
theorem execEpilogue_served {v t : State} {p : OpRec} (he : s.tileQ.find? (fun t => t.vxe == vxe) = some e) (ho : s.opAny e.q e.s = some o)
    (hv : s.entryVoid e o = false) (hw : s.epilogueWaits e = false) (hmeet : s.meetVxe vxe [1, 2, 3] = (v, false))
    (htile : epilogueTile { v.view (16 + vxe) o with hist := [] } v e = .ok (p, t)) :
    execEpilogue vxe s = .next (((((t.freeEntry vxe).putOp (({ p with hist := o.hist } : OpRec).didUnit e.work)).entryCount e p.hist).keepPlane
      (({ p with hist := o.hist } : OpRec).didUnit e.work) (vxe / 4) e.work).pieceDid e.q e.s e.work).settle := by
  rw [execEpilogue, he]
  dsimp only
  rw [ho]
  dsimp only
  rw [hv, hw, if_neg Bool.false_ne_true, if_neg Bool.false_ne_true, hmeet]
  dsimp only
  rw [htile]

end

/-- Settles O31: a tile that waited enters where there is room, and the oldest entry is dropped or served. -/
theorem tileQueueIsServedInOrder : Obligations.TileQueueIsServedInOrder := by
  constructor
  · intro unit s e h hroom
    exact execTileQueueRoom_enters h hroom
  · intro vxe s e o he ho
    refine ⟨execEpilogue_void he ho, fun v t p x hv hw hmeet htile hx => ?_⟩
    subst hx
    exact execEpilogue_served he ho hv hw hmeet htile

end Sys2Proof.Machine
end

section
/-! Attention pairs, SEQSET records and ROOT products performed step by step (R257, R265, R269, R273, R325 to R327). -/

namespace Sys2Proof.Machine

/-! ### Pairs of an attention op (R265, R267, R269, R273) -/

/-- The three pieces of a pair's trio have made one more step, which is the last of work unit `u` where it has ended. -/
def State.trioMovedOn (s : State) (trio : List PieceRec) (q sn u : Nat) (ended : Bool) : State :=
  { s with pieces := s.pieces.map (fun (y : PieceRec) =>
      if (trio.any (fun z => z.idx == y.idx) && y.q == q && y.s == sn) = true then
        { y with pos := y.pos.set (fun _ => 0) 0 (y.pos.get (fun _ => 0) 0 + 1), did := if ended then y.did ++ [u] else y.did }
      else y) }

/-- The one step asked for of an attention op on an MXE: the step itself, put into the op, its trio moved on and counted. -/
theorem State.attRun_one {s v w t : State} {op q sn unit quad u : Nat} {o o2 : OpRec} {p : PieceRec} {ended : Bool} (ho : s.opAny q sn = some o)
    (hp : s.attPiece q sn unit = some p) (hnext : p.attNext o = some u) (hcls : o.d.cls = 3) (hop : o.d.op = op) (hin : s.unitIn unit = true)
    (hasq : s.unitIn (32 + unit / 4) = true) (hquad : s.meetQuad unit quad true = (v, false)) (hmeet : v.meetAsq (unit / 4) = (w, false))
    (hstep : attStep op unit u p.part.lo { w.view unit o with hist := [] } w = .ok (ended, o2, t)) :
    s.attRun op q sn unit quad 1 =
      ((t.putOp (if ended then (({ o2 with hist := o.hist } : OpRec).didUnit u).attClose else { o2 with hist := o.hist })).trioMovedOn (t.trio p) q sn u
        ended).pieceCount q sn unit u o2.hist := by
  have hgo : ¬ ((o.d.cls, o.d.op) ≠ (3, op) ∨ s.unitIn unit = false ∨ s.unitIn (32 + unit / 4) = false) := by
    rw [hcls, hop, hin, hasq]
    simp
  rw [State.attRun, ho, hp]
  dsimp only
  rw [hnext]
  dsimp only
  rw [if_neg hgo, hquad]
  dsimp only
  rw [hmeet]
  dsimp only
  rw [hstep]
  rfl

/-- The two attention commands are one shared operation on the op's code. -/
theorem exec_attn {c : Instr} {q sn unit quad n op : Nat} (s : State)
    (h : (c, op) ∈ [(Instr.attnFwd q sn unit quad n, 0), (.attnBwd q sn unit quad n, 1)]) (hu : unit < 16) (hq : quad < 4) :
    exec c s = .next ((s.attRun op q sn unit quad n).settle) := by
  simp only [List.mem_cons, List.not_mem_nil, or_false, Prod.mk.injEq] at h
  obtain ⟨rfl, rfl⟩ | ⟨rfl, rfl⟩ := h
  · exact if_pos ⟨hu, hq⟩
  · exact if_pos ⟨hu, hq⟩

/-! ### Records of SEQSET (R257, R276) -/

theorem execSeqset_asq {q sn unit first n : Nat} (s : State) (h32 : 32 ≤ unit) (h36 : unit < 36) :
    execSeqset q sn unit first n s = .next ((List.range n).foldl (fun s k => seqsetOne q sn unit (first + k) s) s) :=
  if_pos ⟨h32, h36⟩

/-- A work command whose op is at work there, and whose unit its detectors let by, performs its units. -/
theorem State.workOn_met {s v : State} {meet : State → State × Bool} {cls op q sn unit first n : Nat}
    {f : OpRec → State → Nat → Except WorkFail (OpRec × State)} {o : OpRec} (hw : s.worker cls op q sn unit first n = some o)
    (hmeet : meet s = (v, false)) : s.workOn meet cls op q sn unit first n f = v.perform q sn unit f first n := by
  rw [State.workOn, hw]
  dsimp only
  rw [hmeet]

/-- A record whose entry the directory's ECC lets by is performed. -/
theorem seqsetOne_met {s v : State} {q sn unit u scx : Nat} {o : OpRec} (hw : s.worker 3 2 q sn unit u 1 = some o) (ho : s.opAny q sn = some o)
    (he : s.seqsetEntry o u = some scx) (hmeet : s.meetDir o scx = (v, false)) : seqsetOne q sn unit u s = v.perform q sn unit seqsetUnit u 1 := by
  refine State.workOn_met hw ?_
  rw [ho]
  dsimp only
  rw [he]
  exact hmeet

/-- An op found in the list of ops is the op of its queue and serial. -/
theorem State.opAny_of_op? {s : State} {q sn : Nat} {o : OpRec} (h : s.op? q sn = some o) : s.opAny q sn = some o := by rw [State.opAny, h]

/-- A unit performed well is among those its op has done. -/
theorem State.perform_one_done {s t : State} {q sn unit u : Nat} {f : OpRec → State → Nat → Except WorkFail (OpRec × State)} {o x : OpRec}
    (h : s.op? q sn = some o) (hf : f { s.view unit o with hist := [] } s u = .ok (x, t)) (hq : x.q = q) (hs : x.s = sn)
    (ht : (t.op? q sn).isSome = true) : ∃ e, (s.perform q sn unit f u 1).op? q sn = some e ∧ u ∈ e.done := by
  obtain ⟨p, hp⟩ := Option.isSome_iff_exists.1 ht
  obtain ⟨v, e, hv, he, hdone, -⟩ := workUnitIsRecorded s t q sn unit u f o x p h hf hq hs hp
  exact ⟨e, hv ▸ he, hdone⟩

/-! ### Products of ROOT (R325 to R327) -/

theorem execRoot_mxe {q sn unit first n : Nat} (s : State) (hu : unit < 16) :
    execRoot q sn unit first n s = .next (((List.range n).foldl (fun s k => s.rootRun q sn unit (first + k)) s).settle) :=
  if_pos hu

/-- Piece `idx` of the op has done its part for plane `u`. -/
def State.planeDid (s : State) (q sn idx u : Nat) : State :=
  { s with pieces := s.pieces.map (fun (y : PieceRec) => if y.q = q ∧ y.s = sn ∧ y.idx = idx then { y with did := y.did ++ [u] } else y) }

/-- The product of a running piece for a plane: put into the op, whose plane may end with it, and noted at the piece. -/
theorem State.rootRun_product {s v t : State} {q sn unit u : Nat} {o o2 : OpRec} {p : PieceRec} {ended : Bool} (ho : s.opAny q sn = some o)
    (hp : s.pieces.find? (fun p => p.covers q sn unit u 1 && p.part.kind == 0 && !p.did.contains u && !s.noProgress p) = some p) (hcls : o.d.cls = 8)
    (hop : o.d.op = 2) (hin : s.unitIn unit = true) (hsched : o.rc schedKey ≠ []) (hmeet : s.meetQuad unit (u - p.part.first) true = (v, false))
    (hprod : rootProduct unit (u - p.part.first) p.part.lo { v.view unit o with hist := [] } v u = .ok (ended, o2, t)) :
    s.rootRun q sn unit u =
      (t.putOp (if ended then ({ o2 with hist := o.hist } : OpRec).didUnit u else { o2 with hist := o.hist })).planeDid q sn p.idx u := by
  have hgo : ¬ ((o.d.cls, o.d.op) ≠ (8, 2) ∨ s.unitIn unit = false ∨ o.rc schedKey = []) := by
    rw [hcls, hop, hin]
    simpa using hsched
  rw [State.rootRun, ho, hp]
  dsimp only
  rw [if_neg hgo, hmeet]
  dsimp only
  rw [hprod]
  rfl

/-- Settles O29: each command is the shared operation of its engine, of which one step, record or product is known. -/
theorem attentionAndRootRun : Obligations.AttentionAndRootRun := by
  refine ⟨?attention, ?seqset, ?root⟩
  case attention =>
    intro q sn unit quad n op c s hc hu hq
    have hexec := exec_attn s hc hu hq
    refine ⟨hexec, fun o o2 p u v w t x ended hn ho hp hnext hcls hop hin hasq hquad hmeet hstep hx => ?_⟩
    subst hn hx
    rw [hexec, State.attRun_one ho hp hnext hcls hop hin hasq hquad hmeet hstep]
    rfl
  case seqset =>
    intro q sn unit first n s h32 h36
    refine ⟨execSeqset_asq s h32 h36, fun o x v t scx hn hw ho he hmeet hvo hunit hxq hxs ht => ?_⟩
    subst hn
    obtain ⟨e, hfind, hdone⟩ := State.perform_one_done hvo hunit hxq hxs ht
    refine ⟨v.perform q sn unit seqsetUnit first 1, e, (execSeqset_asq s h32 h36).trans ?_, hfind, hdone⟩
    exact congrArg Host.Outcome.next (seqsetOne_met hw (State.opAny_of_op? ho) he hmeet)
  case root =>
    intro q sn unit first n s hu
    refine ⟨execRoot_mxe s hu, fun o o2 p v t x ended hn ho hp hcls hop hin hsched hmeet hprod hx => ?_⟩
    subst hn hx
    refine (execRoot_mxe s hu).trans ?_
    exact congrArg (fun y : State => Host.Outcome.next y.settle) (State.rootRun_product ho hp hcls hop hin hsched hmeet hprod)

end Sys2Proof.Machine
end

section
/-! Rounding to nearest, ties to even (R184, Tables 4.3 and 4.4): of all multiples, which lie how near. -/

namespace Sys2Proof.Machine

/-- How far the multiple `j · d` lies from `m`. -/
def distTo (m d j : Nat) : Nat := Int.natAbs ((m : Int) - j * d)

/-- The multiple just below lies the remainder away. -/
theorem distTo_floor (m d : Nat) : distTo m d (m / d) = m % d := by
  have hm : ((m / d : Nat) : Int) * d + (m % d : Nat) = m := by exact_mod_cast Nat.div_add_mod' m d
  rw [distTo]
  generalize ((m / d : Nat) : Int) * d = below at hm
  omega

/-- The multiple just above lies what the remainder lacks away. -/
theorem distTo_ceil {m d : Nat} (hd : 0 < d) : distTo m d (m / d + 1) = d - m % d := by
  have hm : ((m / d : Nat) : Int) * d + (m % d : Nat) = m := by exact_mod_cast Nat.div_add_mod' m d
  have hr := Nat.mod_lt m hd
  rw [distTo, Nat.cast_add_one, add_one_mul]
  generalize ((m / d : Nat) : Int) * d = below at hm ⊢
  omega

/-- Every other multiple lies a whole step or more away. -/
theorem le_distTo {m d j : Nat} (hd : 0 < d) (hlo : j ≠ m / d) (hhi : j ≠ m / d + 1) : d ≤ distTo m d j := by
  have hm := Nat.div_add_mod' m d
  have hr := Nat.mod_lt m hd
  rcases Nat.lt_or_gt_of_ne hlo with h | h
  · have hj : (j + 1) * d ≤ m / d * d := Nat.mul_le_mul_right d h
    rw [add_one_mul] at hj
    rw [distTo, ← Nat.cast_mul]
    omega
  · have hj : (m / d + 1 + 1) * d ≤ j * d := Nat.mul_le_mul_right d (show m / d + 1 < j by omega)
    rw [add_one_mul, add_one_mul] at hj
    rw [distTo, ← Nat.cast_mul]
    omega

/-- The multiples by how near they lie: the one below, the one above, and all others. -/
theorem distTo_cases {m d : Nat} (hd : 0 < d) (j : Nat) :
    j = m / d ∧ distTo m d j = m % d ∨ j = m / d + 1 ∧ distTo m d j = d - m % d ∨ j ≠ m / d ∧ j ≠ m / d + 1 ∧ d ≤ distTo m d j := by
  by_cases hlo : j = m / d
  · exact .inl ⟨hlo, hlo ▸ distTo_floor m d⟩
  by_cases hhi : j = m / d + 1
  · exact .inr (.inl ⟨hhi, hhi ▸ distTo_ceil hd⟩)
  exact .inr (.inr ⟨hlo, hhi, le_distTo hd hlo hhi⟩)

/-- Rounding to nearest takes the multiple below, the one above, or in the middle the even one of the two. -/
theorem roundMag_rne_cases (neg : Bool) (m : Nat) {e q : Int} (h : e < q) {d : Nat} (hd : d = 2 ^ (q - e).toNat) :
    2 * (m % d) < d ∧ roundMag .rne neg m e q = m / d ∨
      d < 2 * (m % d) ∧ roundMag .rne neg m e q = m / d + 1 ∨
      2 * (m % d) = d ∧ roundMag .rne neg m e q % 2 = 0 ∧
        (roundMag .rne neg m e q = m / d ∨ roundMag .rne neg m e q = m / d + 1) := by
  have hround : roundMag .rne neg m e q =
      if (decide (d < 2 * (m % d)) || (decide (2 * (m % d) = d) && decide (m / d % 2 = 1))) then m / d + 1 else m / d := by
    rw [hd]
    exact if_neg (not_le.2 h)
  simp only [Bool.or_eq_true, Bool.and_eq_true, decide_eq_true_eq] at hround
  rw [hround]
  split <;> omega

/-- Settles O60: the two multiples around the magnitude are nearer than all others, and the remainder tells which of the two is nearer. -/
theorem roundsToNearestEven : Obligations.RoundsToNearestEven := by
  intro neg m d k e q h hd hk
  have hpos : 0 < d := hd ▸ Nat.two_pow_pos _
  have hrem := Nat.mod_lt m hpos
  have hround := roundMag_rne_cases neg m h hd
  have hdist := distTo_cases (m := m) hpos
  rw [← hk] at hround
  have hdistk := hdist k
  refine ⟨fun j => ?nearest, fun j hne htie => ?even⟩
  case nearest =>
    change distTo m d k ≤ distTo m d j
    have hdistj := hdist j
    omega
  case even =>
    change distTo m d j = distTo m d k at htie
    have hdistj := hdist j
    omega

end Sys2Proof.Machine
end

section
/-! Faults met outside the engines (R197, R586, R590, R592), and the self-test and recoveries that answer a fault (R583, R584, R587). -/

namespace Sys2Proof.Machine

/-! ### Node tiles, rigging cores and partners (R197, R586, R592) -/

/-- What NODE_TILE_LOST leaves to compute again: the loss is recorded (the record's fields by log entry 132), the op's replay noted, and the node tiles
that the unit or link held are gone. -/
def State.nodesGone (s : State) (q sn unit : Nat) (o : OpRec) : State :=
  let c := if 56 ≤ unit ∧ unit < 184 then 3 else 1
  let v := (s.event c 0 { cls := c, sev := 0, rtype := 3, det := 0, unit := unit, op := some (q, sn, o.ctx) }).mapOp q sn
    (fun x => { x with replayB := true })
  { v with nodes := v.nodes.filter (fun n => !(s.nodesOn o unit).contains n) }

theorem execNodeTileLost_started {s : State} {q sn unit : Nat} {o : OpRec} (ho : s.op? q sn = some o) (hp : o.phase = .started)
    (hns : s.nodesOn o unit ≠ []) :
    execNodeTileLost q sn unit s = .next ((s.nodesGone q sn unit o).rehomeOp 1024
      ((s.nodesOn o unit).filterMap (NodeTile.lost (s.nodesGone q sn unit o).selfAddr)) o) := by
  rw [execNodeTileLost, ho]
  exact if_pos ⟨hp, hns⟩

theorem execCoreWatchdog_in {s u : State} {core : Nat} {inj : Bool} (hc : core < 8) (hin : s.rigOut.get (fun _ => false) core = false)
    (hu : s.takeInj Reg.fltInj 9 core = (inj, u)) : execCoreWatchdog core s = .next (u.coreExpires core inj) := by
  rw [execCoreWatchdog, if_pos ⟨hc, hin⟩, hu]

theorem execPartnerLost_port {addr port : Nat} (s : State) (ha : addr < 4096) (hp : port < 96) :
    execPartnerLost addr port s = .next
      ((s.detect { cls := 3, sev := 2, rtype := 0, det := 0x37, dom := 3, inst := 32 + port, info := addr }).partnerOps addr port
        (s.detect { cls := 3, sev := 2, rtype := 0, det := 0x37, dom := 3, inst := 32 + port, info := addr }).ops) :=
  if_pos ⟨ha, hp⟩

/-! ### The tile stores (R590) -/

theorem execTileStoreEcc_populated {s u : State} {addr d b : Nat} {two inj : Bool} (case q sn slot : Nat) (hr : region addr = .tile d b)
    (hp : s.populated addr = true) (hu : s.takeInj Reg.fltInj (if two then 3 else 2) (56 * d + b) = (inj, u)) :
    execTileStoreEcc addr two case q sn slot s =
      .next (u.bankError addr two inj case ((u.op? q sn).map (fun o => (o.q, o.s, o.ctx))) slot) := by
  rw [execTileStoreEcc, hr]
  dsimp only
  rw [if_pos hp, hu]

/-- DET 0x29 of bank `b` of die `d` (Table 19.7), as two wrong bits are reported, or the 16th detection of one within a second. -/
def bankFault (d b addr : Nat) (inj : Bool) (op : Option (Nat × Nat × Nat)) : FaultIn :=
  { cls := 2, sev := 1, rtype := 0, det := 0x29, inj := inj, dom := 2, inst := 512 + (56 * d + b), addr := addr, op := op }

section
variable {addr d b : Nat} (s : State) (inj : Bool) (slot : Nat) (hr : region addr = .tile d b)
include hr

/-- One wrong bit is corrected and counted, whoever reads. -/
theorem State.bankError_oneBit (case : Nat) (op : Option (Nat × Nat × Nat)) : s.bankError addr false inj case op slot =
    (s.bump Reg.fltTscnt 63 32 1).countDet (0x29 * 65536 + (56 * d + b)) (bankFault d b addr inj op) := by
  rw [State.bankError, hr]
  rfl

/-- Two wrong bits of staged data are only a fault: the data are staged again. -/
theorem State.bankError_staged (op : Option (Nat × Nat × Nat)) : s.bankError addr true inj 1 op slot =
    (s.bump Reg.fltTscnt 31 0 1).detect (bankFault d b addr inj op) := by
  rw [State.bankError, hr]
  exact (if_pos rfl).trans (if_pos rfl)

/-- A class A tile gets the mark of a failed check: a class A detection. -/
theorem State.bankError_classA (op : Option (Nat × Nat × Nat)) : s.bankError addr true inj 2 op slot =
    (s.bump Reg.fltTscnt 31 0 1).setMark addr .badCrc := by
  rw [State.bankError, hr]
  exact (if_pos rfl).trans ((if_neg (by decide)).trans (if_pos rfl))

/-- Other data are lost, and with them the op that reads them. -/
theorem State.bankError_ofOp {case : Nat} (h1 : case ≠ 1) (h2 : case ≠ 2) (q sn ctx : Nat) : s.bankError addr true inj case (some (q, sn, ctx)) slot =
    ((s.bump Reg.fltTscnt 31 0 1).detect { bankFault d b addr inj (some (q, sn, ctx)) with sev := 2 }).failOp q sn stDataErr slot := by
  rw [State.bankError, hr]
  exact (if_pos rfl).trans ((if_neg h1).trans (if_neg h2))

theorem State.bankError_noOp {case : Nat} (h1 : case ≠ 1) (h2 : case ≠ 2) : s.bankError addr true inj case none slot =
    (s.bump Reg.fltTscnt 31 0 1).detect { bankFault d b addr inj none with sev := 2 } := by
  rw [State.bankError, hr]
  exact (if_pos rfl).trans ((if_neg h1).trans (if_neg h2))

end

/-! ### The targeted self-test (R587) -/

section
variable {s : State} {dom inst : Nat} {w : Window} (out : SelfTest) (hw : s.testFault dom inst = some w)
include hw

/-- Engines: the MXEs have a test of their own. -/
theorem execTargetedSelfTest_engine (hdom : dom = 1) :
    execTargetedSelfTest dom inst out s =
      if inst < 16 then .next (s.mxeTest inst w out) else if inst < 56 ∨ inst = 184 then .next (s.unitTest inst w out) else .next s := by
  rw [execTargetedSelfTest, hw, hdom]
  rfl

/-- Memories, by what is numbered: HBM channel, deep-tier channel, MSC slice or bank of a tile store. -/
theorem execTargetedSelfTest_memory (hdom : dom = 2) :
    execTargetedSelfTest dom inst out s =
      if inst < 256 then .next (s.hbmTest inst w out)
      else if inst < 272 then .next (s.deepTest (inst - 256) w out)
      else if inst < 289 then .next (s.mscTest (inst - 272) w out)
      else if 512 ≤ inst ∧ inst < 736 then .next (s.bankTest (inst - 512) w out)
      else .next s := by
  rw [execTargetedSelfTest, hw, hdom]
  rfl

theorem execTargetedSelfTest_bundle (hdom : dom = 3) (hi : inst < 32) : execTargetedSelfTest dom inst out s = .next (s.bundleTest inst w out) := by
  rw [execTargetedSelfTest, hw, hdom]
  exact if_pos hi

end

/-! ### The recovery of a die (R583) -/

/-- The state in which a die's recovery is judged: its units, out of service and tested in `v`, with the tile queues of the VXEs that stay out lost and the
die's bundles set anew. -/
def State.dieRestored (v : State) (die : Nat) : State :=
  ((List.range 32).filter (fun b => (bundleEnds b).1 == die || (bundleEnds b).2 == die)).foldl (fun t b => State.setBundle t b)
    ((List.range 4).foldl (fun t k => if State.unitIn t (16 + 4 * die + k) then t else State.queueLost t (4 * die + k)) v)

theorem execDieRecovery_recovering {s v : State} {die : Nat} {us bad : List Nat} (isolated : Bool) (hd : die < 4) (hs : s.recovering 4 die = true)
    (hus : us = dieUnits die) (hv : v = us.foldl (fun t n => State.retest t bad n) (us.foldl (fun t n => State.unitOut t n)
      (us.foldl (fun t n => State.putBit t (unitStat n) 1 false) s))) :
    execDieRecovery die bad isolated s = .next (if isolated || (v.dieRestored die).dieAlone die then (v.dieRestored die).recoveryFails 4 die
      else (v.dieRestored die).resolve 4 die 7 0) := by
  subst hus hv
  exact if_pos ⟨hd, hs⟩

/-! ### The recovery of the module (R584) -/

/-- The fault handler leaves the rigging cores as they are. -/
theorem InFaults.rigOut {s t : State} (h : InFaults s t) : t.rigOut = s.rigOut := (congrArg State.rigOut h.rest :)

theorem State.rebaseCounted_rigOut (s : State) (d : Nat) : (s.rebaseCounted d).rigOut = s.rigOut := by
  obtain ⟨hrest, -⟩ := s.lowerOffsets_frame d (s.offsets.map Prod.fst)
  show (s.lowerOffsets d (s.offsets.map Prod.fst)).rigOut = s.rigOut
  generalize s.lowerOffsets d (s.offsets.map Prod.fst) = u at hrest
  exact (congrArg State.rigOut hrest :)

/-- So does a re-base. -/
theorem State.rebaseBy_rigOut (s : State) (d : Nat) : (s.rebaseBy d).rigOut = s.rigOut := by
  obtain ⟨ts, ls, heq⟩ := s.rebaseBy_eq d
  rw [heq, (State.form_inFaults _ _).rigOut, State.rebaseCounted_rigOut, State.rebasedPlan]

theorem State.rigCores_none_out {s : State} (h : s.rigOut = []) : s.rigCores = 8 := by
  rw [State.rigCores, h]
  rfl

/-- With every rigging core in service none is tested, and enough are left: the recovery fails only where a die stays isolated. -/
theorem execModuleRecovery_allCores {s v : State} (beats : Nat) {bad : List Nat} (isolated : Bool) (hs : s.recovering 6 0 = true)
    (hv : v = ((s.windows.filter (fun w => w.dom == 1 && w.into != 0 && !w.tested)).map Window.inst).eraseDups.foldl
      (fun t n => State.retest t bad n) s) (hout : v.rigOut = []) :
    execModuleRecovery beats bad isolated s =
      .next (if isolated then (v.rebaseBy beats).recoveryFails 6 0 else (v.rebaseBy beats).resolve 6 0 7 0) := by
  have hcores : (v.rebaseBy beats).rigCores = 8 := State.rigCores_none_out ((v.rebaseBy_rigOut beats).trans hout)
  have hnone : (List.range 8).filter (fun c => Tab.get (fun _ => false) ([] : Tab Bool) c) = [] := rfl
  rw [execModuleRecovery, if_pos hs]
  dsimp only
  rw [← hv, hout, hnone, List.foldl_nil, hcores]
  cases isolated <;> rfl

/-! ### The statement -/

/-- Settles O55, command by command: each in the state in which it has something to do. -/
theorem otherFaultsRule : Obligations.OtherFaultsRule := by
  intro s u inj
  refine ⟨?nodeTiles, ?watchdog, ?tileStore, ?partner, ?selfTest, ?die, ?module⟩
  case nodeTiles =>
    intro q sn unit o ns v w ho hp hns hne hv hw
    subst hns hv hw
    exact execNodeTileLost_started ho hp hne
  case watchdog => exact fun core hc hin hu => execCoreWatchdog_in hc hin hu
  case tileStore =>
    intro addr case q sn slot d b two f hr hp hu hf
    have hexec : exec (.tileStoreEcc addr two case q sn slot) s = _ := execTileStoreEcc_populated case q sn slot hr hp hu
    change f = bankFault d b addr inj _ at hf
    subst hf
    refine ⟨?oneBit, ?staged, ?classA, ?opData, ?noOp⟩
    case oneBit =>
      rintro rfl
      rw [hexec, State.bankError_oneBit u inj slot hr]
    case staged =>
      rintro rfl rfl
      rw [hexec, State.bankError_staged u inj slot hr]
    case classA =>
      rintro rfl rfl
      rw [hexec, State.bankError_classA u inj slot hr]
    case opData =>
      rintro rfl h1 h2 hop
      obtain ⟨o, ho⟩ := Option.isSome_iff_exists.1 hop
      obtain ⟨hq, hs⟩ := State.op?_key ho
      rw [hexec, ho, Option.map_some, State.bankError_ofOp u inj slot hr h1 h2, hq, hs]
    case noOp =>
      rintro rfl h1 h2 hop
      rw [hexec, hop, Option.map_none, State.bankError_noOp u inj slot hr h1 h2]
  case partner => exact fun addr port ha hp => execPartnerLost_port s ha hp
  case selfTest =>
    intro dom inst out w hw
    have engine (hdom : dom = 1) : exec (.targetedSelfTest dom inst out) s = _ := execTargetedSelfTest_engine out hw hdom
    have memory (hdom : dom = 2) : exec (.targetedSelfTest dom inst out) s = _ := execTargetedSelfTest_memory out hw hdom
    refine ⟨fun hdom h => ?mxe, fun hdom h => ?unit, fun hdom h => ?hbm, fun hdom hlo hhi => ?deep, fun hdom hlo hhi => ?msc, fun hdom hlo hhi => ?bank,
      fun hdom h => execTargetedSelfTest_bundle out hw hdom h⟩
    case mxe => rw [engine hdom, if_pos h]
    case unit => rw [engine hdom, if_neg (by omega), if_pos (by omega)]
    case hbm => rw [memory hdom, if_pos h]
    case deep => rw [memory hdom, if_neg (by omega), if_pos hhi]
    case msc => rw [memory hdom, if_neg (by omega), if_neg (by omega), if_pos hhi]
    case bank => rw [memory hdom, if_neg (by omega), if_neg (by omega), if_neg (by omega), if_pos ⟨hlo, hhi⟩]
  case die =>
    intro die bad us v hd hs hus hv
    refine ⟨v.dieRestored die, rfl, ?_, ?_⟩
    · exact execDieRecovery_recovering true hd hs hus hv
    · exact execDieRecovery_recovering false hd hs hus hv
  case module =>
    intro beats bad isolated hs
    exact ⟨_, rfl, fun hout => execModuleRecovery_allCores beats isolated hs rfl hout⟩

end Sys2Proof.Machine
end

section
/-! Units of work on their engines: the vector ops and FILL on a VXE, APPLY on a UU, COPY on a bundle, a VXE or no unit, PLACE on no unit (R228 to R235,
R309, R459, R461, R629). -/

namespace Sys2Proof.Machine

/-! ### Vector ops and FILL (R228 to R235, R239, R459) -/

/-- A command that is a work command on its unit performs its units, of which one performed well is among those its op has done. -/
theorem performsUnits_of_workOn {c : Instr} {meet : State → State × Bool} {cls op q sn unit first n : Nat}
    {f : OpRec → State → Nat → Except WorkFail (OpRec × State)} {after : State → State}
    (hc : ∀ s, exec c s = .next (after (s.workOn meet cls op q sn unit first n f))) :
    performsUnits c meet cls op q sn unit first n f after := by
  intro s v o hw hmeet
  have hexec : exec c s = .next (after (v.perform q sn unit f first n)) := by rw [hc, State.workOn_met hw hmeet]
  refine ⟨hexec, fun p x t hn hp hf hxq hxs ht => ?_⟩
  subst hn
  obtain ⟨e, he, hdone⟩ := State.perform_one_done hp hf hxq hxs ht
  exact ⟨_, e, hexec, he, hdone⟩

/-- A VECTOR command performs its units on a VXE, whose detectors `ds` the op's code tells (R239). -/
theorem performsUnits_of_vectorOn {c : Instr} {op q sn unit first n : Nat} {f : OpRec → State → Nat → Except WorkFail (OpRec × State)} {ds : List Nat}
    (h16 : 16 ≤ unit) (h32 : unit < 32) (hds : (if [3, 4, 7, 8].contains op then [3, 4] else [3]) = ds)
    (hc : ∀ s, exec c s = vectorOn op q sn unit first n s f) :
    performsUnits c (fun s => s.meetVxe (unit - 16) ds) 2 op q sn unit first n f id := by
  subst hds
  exact performsUnits_of_workOn (fun s => (hc s).trans (if_pos ⟨h16, h32⟩))

theorem execFill_vxe {q sn unit first n : Nat} (s : State) (h16 : 16 ≤ unit) (h32 : unit < 32) :
    execFill q sn unit first n s =
      .next ((s.workOn (fun s => s.meetVxe (unit - 16) [3]) 6 1 q sn unit first n (fillUnit unit)).settle) :=
  if_pos ⟨h16, h32⟩

/-! ### APPLY (R309, R321) -/

/-- APPLY on a UU in service: once its op's blocks have come to the UU's stack, its units are performed there. -/
theorem execApply_brought {s t v : State} {q sn unit first n : Nat} {o p : OpRec} (h40 : 40 ≤ unit) (h56 : unit < 56)
    (hin : s.flag (Reg.uuStat (unit - 40)) 1 = true) (hw : s.worker 8 0 q sn unit first n = some o) (ht : s.bringBlocks o (unit - 40) first n = t)
    (hp : t.worker 8 0 q sn unit first n = some p) (hmeet : t.meetApply q sn unit first n = (v, false)) :
    execApply q sn unit first n s = .next (v.perform q sn unit (applyUnit unit) first n) := by
  rw [execApply, if_pos ⟨h40, h56, hin⟩, hw]
  dsimp only
  rw [ht, State.workOn_met hp hmeet]

/-! ### COPY (R459, R629) -/

/-- A COPY without conversion runs on a bundle or on no unit, where it meets no detector. -/
theorem execCopy_raw {s : State} {q sn unit first n : Nat} {o x : OpRec} (hx : s.opAny q sn = some x) (hraw : x.rawCopy = true)
    (hw : s.worker 6 0 q sn unit first n = some o) (hu : (152 ≤ unit ∧ unit < 184) ∨ unit = 255) :
    execCopy q sn unit first n s = .next ((s.perform q sn unit (copyUnit unit) first n).settle) := by
  rw [execCopy, hx]
  dsimp only
  rw [hraw]
  exact (if_pos hu).trans (congrArg (fun t : State => Host.Outcome.next t.settle) (State.workOn_met hw rfl))

/-- A COPY that converts runs on a VXE, whose lanes it meets. -/
theorem execCopy_converts {s v : State} {q sn unit first n : Nat} {o x : OpRec} (hx : s.opAny q sn = some x) (hraw : x.rawCopy = false)
    (hw : s.worker 6 0 q sn unit first n = some o) (hu : 16 ≤ unit ∧ unit < 32) (hmeet : s.meetVxe (unit - 16) [3] = (v, false)) :
    execCopy q sn unit first n s = .next ((v.perform q sn unit (copyUnit unit) first n).settle) := by
  rw [execCopy, hx]
  dsimp only
  rw [hraw]
  exact (if_pos hu).trans (congrArg (fun t : State => Host.Outcome.next t.settle) (State.workOn_met hw hmeet))

/-! ### PLACE (R461) -/

/-- PLACE whose groups all found room (its mark 207 is not set) leaves the state as its unit did. -/
theorem execPlace_roomFound {s : State} {q sn first n : Nat} {o : OpRec} (hw : s.worker 6 2 q sn 255 first n = some o)
    (hroom : ∀ p, (s.perform q sn 255 placeUnit first n).op? q sn = some p → p.aux.get (fun _ => 0) 207 ≠ 1) :
    execPlace q sn 255 first n s = .next (s.perform q sn 255 placeUnit first n) := by
  rw [execPlace, if_pos rfl, State.workOn_met hw rfl]
  dsimp only
  generalize s.perform q sn 255 placeUnit first n = t at hroom
  cases hp : t.op? q sn with
  | none => rfl
  | some p => exact if_neg (fun ⟨_, _, hfull, _⟩ => hroom p hp hfull)

/-! ### The statement -/

/-- Settles O27: each command is the shared work command on the units of its kind. -/
theorem unitsArePerformed : Obligations.UnitsArePerformed := by
  refine ⟨?vxe, fun q sn unit first n => ⟨?apply, ?rawCopy, ?copy, ?place⟩⟩
  case vxe =>
    intro q sn unit first n h16 h32
    refine ⟨?eltwise, ?rowreduce, ?rownorm, ?permute, ?shuffle, ?pack, ?unpack, ?compress, ?expand, ?fill⟩
    case eltwise | rowreduce | rownorm | pack | unpack =>
      -- the lanes alone
      exact performsUnits_of_vectorOn (ds := [3]) h16 h32 rfl (fun _ => rfl)
    case permute | shuffle | compress | expand =>
      -- the permute network too
      exact performsUnits_of_vectorOn (ds := [3, 4]) h16 h32 rfl (fun _ => rfl)
    case fill => exact performsUnits_of_workOn (fun s => execFill_vxe s h16 h32)
  case apply => exact fun h40 h56 s t o p hin hw ht hp v hmeet => execApply_brought h40 h56 hin hw ht hp hmeet
  case rawCopy => exact fun s o x hx hraw hw hu => execCopy_raw hx hraw hw hu
  case copy => exact fun s v o x hx hraw hw hu hmeet => execCopy_converts hx hraw hw hu hmeet
  case place => exact fun s o hw hroom => execPlace_roomFound hw hroom

end Sys2Proof.Machine
end

section
/-! Mappings withdrawn: an invalidation of a range from its write to its end, and the clear of a context's directory entries. -/

namespace Sys2Proof.Machine

/-! ### TRN_INV (R463) -/

/-- The invalidation that a write of TRN_INV asks for: the range of the write and TRN_INVRNG, awaiting every unit, or under DRAIN the context's ops alone. -/
def State.invAsked (s : State) (v : Word) : InvRec where
  ctx := bits v 63 52
  seg := bits v 51 48
  off := if bit v 47 then 0 else s.fld Reg.trnInvrng 31 0
  len := if bit v 47 then 2 ^ 33 else s.fld Reg.trnInvrng 63 32
  units := if s.flag Reg.trnCfg 0 then [] else ackUnits
  drain := s.flag Reg.trnCfg 0
  ops := if s.flag Reg.trnCfg 0 then (s.ops.filter (fun o => o.ctx == bits v 63 52 && o.phase != .ended)).map (fun o => (o.q, o.s)) else []

section
variable {ag : Agent} {v : Word} {s : State} (hag : Who.barRig.admits ag = true)
include hag

theorem execTrnInv_busy (hbusy : s.flag Reg.trnStat 0 = true) : execTrnInv ag v s = .next (s.putBit Reg.trnStat 1 true) := by
  simp only [execTrnInv, hag, hbusy, Bool.not_true, Bool.false_eq_true, if_false, if_true]

theorem execTrnInv_noPages (hidle : s.flag Reg.trnStat 0 = false) (hgo : bit v 0 = true) (hpart : bit v 47 = false)
    (hlen : s.fld Reg.trnInvrng 63 32 = 0) : execTrnInv ag v s = .next (s.bump Reg.trnStat 63 32 1) := by
  simp only [execTrnInv, hag, hidle, hgo, hpart, hlen, Bool.not_true, Bool.not_false, Bool.false_eq_true, if_false, BEq.rfl, Bool.and_self, if_true]

theorem execTrnInv_begins (hidle : s.flag Reg.trnStat 0 = false) (hgo : bit v 0 = true)
    (hpages : bit v 47 = true ∨ s.fld Reg.trnInvrng 63 32 ≠ 0) :
    execTrnInv ag v s = .next ((s.setInv (some (s.invAsked v))).putBit Reg.trnStat 0 true) := by
  have hsome : ¬ (!bit v 47 && s.fld Reg.trnInvrng 63 32 == 0) = true := by
    rcases hpages with h | h <;> simp [h]
  simp only [execTrnInv, hag, hidle, hgo, hsome, Bool.not_true, Bool.false_eq_true, if_false, State.invAsked]

end

theorem State.invAsked_range (s : State) (v : Word) :
    if bit v 47 = true then (s.invAsked v).off = 0 ∧ (s.invAsked v).len = 2 ^ 33
    else (s.invAsked v).off = s.fld Reg.trnInvrng 31 0 ∧ (s.invAsked v).len = s.fld Reg.trnInvrng 63 32 := by
  cases h : bit v 47 <;> simp [State.invAsked, h]

/-- What an invalidation waits for: under DRAIN the unended ops of its context, and otherwise every unit. -/
theorem State.invAsked_awaits (s : State) (v : Word) :
    if s.flag Reg.trnCfg 0 = true then (s.invAsked v).drain = true ∧ (s.invAsked v).units = [] ∧
      ∀ q sn, (q, sn) ∈ (s.invAsked v).ops ↔ ∃ o ∈ s.ops, o.ctx = (s.invAsked v).ctx ∧ o.phase ≠ .ended ∧ o.q = q ∧ o.s = sn
    else (s.invAsked v).drain = false ∧ (s.invAsked v).units = ackUnits ∧ (s.invAsked v).ops = [] := by
  cases h : s.flag Reg.trnCfg 0 <;> simp [State.invAsked, h, and_assoc]

/-- PENDING has room for every unit. -/
theorem State.invAsked_units_lt (s : State) (v : Word) : (s.invAsked v).units.length < 2 ^ 16 := by
  cases h : s.flag Reg.trnCfg 0 <;> simp [State.invAsked, h, ackUnits]

/-! ### The invalidation in progress -/

@[simp] theorem State.setInv_ops (s : State) (i : Option InvRec) : (s.setInv i).ops = s.ops := rfl

/-- PENDING counts the units of the invalidation, whatever BUSY is set to beside it. -/
theorem State.pending_setInv_putBit (s : State) {i : InvRec} (hi : i.units.length < 2 ^ 16) (b : Bool) :
    ((s.setInv (some i)).putBit Reg.trnStat 0 b).fld Reg.trnStat 31 16 = i.units.length := by
  rw [State.fld_putBit_apart _ _ _ _ _ _ (by omega) (by omega) (by omega), State.setInv, State.fld_put_same _ _ _ _ _ (by omega) (by omega)]
  exact Nat.mod_eq_of_lt hi

theorem State.setInv_putBit_regsOnly (s : State) (i : Option InvRec) (b : Bool) :
    regsOnly s { (s.setInv i).putBit Reg.trnStat 0 b with inv := s.inv } [Reg.trnStat] :=
  ((regsOnly_refl s _).wr (by simp) _).wr (by simp) _

theorem execRangeAck_awaited {unit : Nat} {s : State} {i : InvRec} (hi : s.inv = some i) (hd : i.drain = false) (hu : i.units.contains unit = true) :
    execRangeAck unit s = .next ((s.setInv (some { i with units := i.units.filter (· != unit) })).switchOps i unit s.ops) := by
  simp only [execRangeAck, hi, hd, hu, State.setInv_ops, Bool.not_true, Bool.or_self, Bool.false_eq_true, if_false]

theorem execTrnInvDone_awaitsNone {s : State} {i : InvRec} (hi : s.inv = some i) (hu : i.units = [])
    (hops : ∀ k ∈ i.ops, ∀ o, s.op? k.1 k.2 = some o → o.phase = .ended) : execTrnInvDone s = .next (s.invEnd i.ctx) := by
  simp only [execTrnInvDone, hi, hu, List.isEmpty_nil, Bool.true_and]
  refine if_pos (List.all_eq_true.2 (fun k hk => ?_))
  cases ho : s.op? k.1 k.2 with
  | none => rfl
  | some o => simp [hops k hk o ho]

/-! ### ASQ_DIRCLR (R263) -/

theorem execAsqDirclr_begins {ag : Agent} {v : Word} {s : State} (hag : Who.barRig.admits ag = true) (hgo : bit v 15 = true)
    (hidle : s.flag Reg.asqDirclr 14 = false) :
    execAsqDirclr ag v s = .next { (s.putBit Reg.asqDirclr 14 true) with dirClear := some (bits v 11 0) } := by
  simp only [execAsqDirclr, hag, hgo, hidle, Bool.not_false, Bool.and_self, if_true]

theorem execAsqDirclrDone_clears {s : State} {c : Nat} (hc : s.dirClear = some c) :
    execAsqDirclrDone s = .next (State.putBit { (s.clearDirs (s.dirOf c)) with dirClear := none } Reg.asqDirclr 14 false) := by
  simp only [execAsqDirclrDone, hc]

/-! ### The statement -/

/-- Settles O47, command by command: what each comes to in the case that the statement names. -/
theorem mappingsAreWithdrawn : Obligations.MappingsAreWithdrawn := by
  refine ⟨fun ag v s hag => ⟨?collides, execTrnInv_noPages hag, ?begins⟩, ?acknowledged, ?ended, ?dirBegins, fun s c => execAsqDirclrDone_clears⟩
  case collides =>
    intro hbusy
    exact ⟨_, execTrnInv_busy hag hbusy, State.flag_putBit_same s _ 1 true (by omega), State.putBit_regsOnly s _ _ _⟩
  case begins =>
    intro hidle hgo hpages
    exact ⟨_, s.invAsked v, execTrnInv_begins hag hidle hgo hpages, rfl, rfl, rfl, s.invAsked_range v, s.invAsked_awaits v,
      State.flag_putBit_same _ _ 0 true (by omega), s.pending_setInv_putBit (s.invAsked_units_lt v) true, s.setInv_putBit_regsOnly _ true⟩
  case acknowledged => exact fun unit s i hi hd hu => ⟨_, rfl, execRangeAck_awaited hi hd hu⟩
  case ended =>
    intro s i hi hu hops
    refine execTrnInvDone_awaitsNone hi hu (fun k hk o ho => ?_)
    have hk' := List.all_eq_true.1 hops k hk
    simpa [ho] using hk'
  case dirBegins =>
    intro ag v s hag hgo hidle
    exact ⟨_, execAsqDirclr_begins hag hgo hidle, rfl, State.flag_putBit_same s _ 14 true (by omega), State.putBit_regsOnly s _ _ _⟩

end Sys2Proof.Machine
end

section
/-! Alignment over the cascade: the exchange begun every 1,000 beats, a request answered, and what the answer's offset does in each state of Table 11.4
(R358, R359, R541). -/

namespace Sys2Proof.Machine

/-! ### The exchange and the request (R358, R541) -/

/-- The request of an exchange: an ALIGN block with its send time. -/
def State.alignRequest (s : State) : Block := ⟨wide [(0, s.stamp % 2 ^ 64)], 0, 0, 0, s.selfAddr, 0, 0, false, true, [], []⟩

theorem execAlignExchange_asks {s : State} {p : Nat} {b : Advert} (hp : s.upstream = some p) (hb : s.best = some b) (hclosed : b.closed = true)
    (hzenith : s.flag Reg.casc 32 = false) (hdue : 1000 ≤ s.alignDue) :
    execAlignExchange s = .next { (s.sendBlock p 5 s.alignRequest) with alignOut := true, alignDue := 0 } := by
  rw [execAlignExchange, hp, hb]
  exact if_pos (by simp only [hclosed, hzenith, hdue, Bool.not_false, Bool.and_self, decide_true])

theorem execAlign_request {s : State} {port : Nat} (t1 t2 t3 t4 : Int) (up : Bool) (hport : s.portUp port = true) :
    execAlign port false t1 t2 t3 t4 up s = .next (s.answerAlign port t1) :=
  congrArg Host.Outcome.next (if_pos hport)

/-! ### The answer (R358, R359, Table 11.4) -/

/-- The offset of an answer, in 1/16 ns: half the difference, rounded toward zero (log entry 76), and 40 ns more under FLT_INJ kind 8. -/
abbrev alignOffset (t1 t2 t3 t4 : Int) (inj : Bool) : Int := Int.tdiv ((t2 - t1) - (t4 - t3)) 2 + (if inj then 640 else 0)

/-- The answer that was awaited has come. -/
def State.alignHeard (s : State) : State := { s with alignOut := false }

/-- A module that steers its timebase by an offset, which TOFF shows. -/
def State.steeredBy (s : State) (off : Int) : State := { (s.put Reg.toff 31 0 (trunc 32 off)) with steer := off }

/-- The offset stands beside the alignment state, in a register of its own. -/
theorem State.steeredBy_alignState (s : State) (off : Int) : (s.steeredBy off).alignState = s.alignState :=
  State.fld_put_other s Reg.toff Reg.casc 31 0 _ 34 33 (by decide)

/-- How many offsets in a row have been within 2 ns, this one counted. -/
def State.locksInRow (s : State) (off : Int) : Nat := if off ≤ 32 ∧ -32 ≤ off then s.inLock + 1 else 0

theorem State.locksInRow_within {off : Int} (s : State) (hlo : -32 ≤ off) (hhi : off ≤ 32) : s.locksInRow off = s.inLock + 1 := if_pos ⟨hhi, hlo⟩

theorem State.locksInRow_beyond {off : Int} (s : State) (hfar : 32 < off ∨ off < -32) : s.locksInRow off = 0 := if_neg (by omega)

section
variable {s v : State} {inj : Bool} {t1 t2 t3 t4 off : Int} (port : Nat) {up : Bool} (hout : s.alignOut = true)
  (hinj : s.takeInj Reg.fltInj 8 0 = (inj, v)) (hoff : off = alignOffset t1 t2 t3 t4 inj)
include hout hinj hoff

/-- An UNALIGNED module whose upstream is ALIGNED steps its time by its first offset. -/
theorem execAlign_unaligned_steps (hstate : s.alignState = 0) (hup : up = true) :
    execAlign port true t1 t2 t3 t4 up s = .next
      { (((v.alignHeard.stepTime off).put Reg.toff 31 0 (trunc 32 off)).setAlign 1) with alignSet := true, steer := off, inLock := 0 } := by
  obtain ⟨rfl, rfl⟩ := Prod.mk.inj hinj
  subst hoff hup
  rw [execAlign, hout]
  exact if_pos hstate

/-- An UNALIGNED module takes no offset from an upstream that is not ALIGNED (R541). -/
theorem execAlign_unaligned_waits (hstate : s.alignState = 0) (hup : up = false) :
    execAlign port true t1 t2 t3 t4 up s = .next v.alignHeard := by
  obtain ⟨rfl, rfl⟩ := Prod.mk.inj hinj
  subst hoff hup
  rw [execAlign, hout]
  exact if_pos hstate

/-- An ALIGNED module that is off by at most 20 ns steers by the offset and stays ALIGNED. -/
theorem execAlign_aligned_within (hstate : s.alignState = 1) (hnear : ¬ (320 < off ∨ off < -320)) :
    execAlign port true t1 t2 t3 t4 up s = .next (v.alignHeard.steeredBy off) := by
  have haligned : s.alignState ≠ 0 := by omega
  obtain ⟨rfl, rfl⟩ := Prod.mk.inj hinj
  subst hoff
  rw [execAlign, hout]
  refine (if_neg haligned).trans ((if_pos ?_).trans (if_neg hnear))
  exact (State.steeredBy_alignState _ _).trans hstate

/-- One that is off by more goes into HOLDOVER. -/
theorem execAlign_aligned_beyond (hstate : s.alignState = 1) (hfar : 320 < off ∨ off < -320) :
    execAlign port true t1 t2 t3 t4 up s = .next ((v.alignHeard.steeredBy off).holdover inj off) := by
  have haligned : s.alignState ≠ 0 := by omega
  obtain ⟨rfl, rfl⟩ := Prod.mk.inj hinj
  subst hoff
  rw [execAlign, hout]
  refine (if_neg haligned).trans ((if_pos ?_).trans (if_pos hfar))
  exact (State.steeredBy_alignState _ _).trans hstate

/-- The third offset in a row within 2 ns takes a module out of HOLDOVER. -/
theorem execAlign_holdover_locks (hstate : s.alignState = 2) (hthird : s.locksInRow off = 3) :
    execAlign port true t1 t2 t3 t4 up s = .next { ((v.alignHeard.steeredBy off).setAlign 1) with inLock := 0 } := by
  have haligned : s.alignState ≠ 0 := by omega
  obtain ⟨rfl, rfl⟩ := Prod.mk.inj hinj
  subst hoff
  rw [execAlign, hout]
  refine (if_neg haligned).trans ((if_neg ?_).trans (if_pos hthird))
  exact fun h1 => absurd (hstate.symm.trans ((State.steeredBy_alignState _ _).symm.trans h1)) (by decide)

/-- Until then it stays in HOLDOVER with its count. -/
theorem execAlign_holdover_counts {k : Nat} (hstate : s.alignState = 2) (hrow : s.locksInRow off = k) (hnot : k ≠ 3) :
    execAlign port true t1 t2 t3 t4 up s = .next { v.alignHeard.steeredBy off with inLock := k } := by
  have haligned : s.alignState ≠ 0 := by omega
  obtain ⟨rfl, rfl⟩ := Prod.mk.inj hinj
  subst hoff hrow
  rw [execAlign, hout]
  refine (if_neg haligned).trans ((if_neg ?_).trans (if_neg hnot))
  exact fun h1 => absurd (hstate.symm.trans ((State.steeredBy_alignState _ _).symm.trans h1)) (by decide)

end

/-! ### The statement -/

/-- Settles O36: the request is sent or answered, and the answer's offset acts by the module's state in Table 11.4. -/
theorem alignmentRule : Obligations.AlignmentRule := by
  refine ⟨fun s p b => execAlignExchange_asks, fun port t1 t2 t3 t4 up s => execAlign_request t1 t2 t3 t4 up, ?answered⟩
  intro port t1 t2 t3 t4 off up inj s v w u hout hinj hw hoff hu
  subst hw hu
  refine ⟨?steps, ?waits, ?corrects, ?leaves, ?locks, ?counts, ?restarts⟩
  case steps => exact fun hs hup => ⟨_, rfl, execAlign_unaligned_steps port hout hinj hoff hs hup⟩
  case waits => exact execAlign_unaligned_waits port hout hinj hoff
  case corrects => exact fun hs hlo hhi => execAlign_aligned_within port hout hinj hoff hs (by omega)
  case leaves => exact execAlign_aligned_beyond port hout hinj hoff
  case locks =>
    intro hs hlo hhi hk
    have hthird : s.locksInRow off = 3 := by rw [s.locksInRow_within hlo hhi, hk]
    exact execAlign_holdover_locks port hout hinj hoff hs hthird
  case counts => exact fun hs hlo hhi hk => execAlign_holdover_counts port hout hinj hoff hs (s.locksInRow_within hlo hhi) (by omega)
  case restarts => exact fun hs hfar => execAlign_holdover_counts port hout hinj hoff hs (s.locksInRow_beyond hfar) (by decide)

end Sys2Proof.Machine
end

section
/-! Writes accepted at a slice: what engines see after one (R374, R415). -/

namespace Sys2Proof.Machine

/-! ### Operations that leave the data that engines see -/

/-- `t` holds the memory of `s`, and the directory the same dirty data. -/
structure KeepsData (s t : State) : Prop where
  mem   : t.mem = s.mem
  dirty : ∀ b, dirtyBytes (t.line b) = dirtyBytes (s.line b)

theorem KeepsData.refl (s : State) : KeepsData s s := ⟨rfl, fun _ => rfl⟩

theorem KeepsData.trans {s t u : State} (h : KeepsData s t) (g : KeepsData t u) : KeepsData s u :=
  ⟨g.mem.trans h.mem, fun b => (g.dirty b).trans (h.dirty b)⟩

theorem KeepsData.ite {s a b : State} {c : Prop} [Decidable c] (ha : KeepsData s a) (hb : KeepsData s b) : KeepsData s (if c then a else b) := by
  split <;> assumption

theorem KeepsData.foldl {α : Type} {f : State → α → State} (hf : ∀ x a, KeepsData x (f x a)) (l : List α) (s : State) : KeepsData s (l.foldl f s) := by
  induction l generalizing s with
  | nil => exact KeepsData.refl s
  | cons a l ih => exact (hf s a).trans (ih (f s a))

/-- With memory and the directory's dirty data, all that engines see is kept. -/
theorem KeepsData.seen {s t : State} (h : KeepsData s t) (b : Nat) : t.seen b = s.seen b := by
  rw [State.seen_eq, State.seen_eq, h.dirty b, State.byte, h.mem, State.byte]

/-- Memory and the directory as they were hold the same data. -/
theorem KeepsData.of_eq {s t : State} (hm : t.mem = s.mem) (hd : t.dirLines = s.dirLines) : KeepsData s t :=
  ⟨hm, fun b => by rw [State.line, hd, State.line]⟩

theorem State.wr_keepsData (s : State) (a : Nat) (v : Word) : KeepsData s (s.wr a v) := KeepsData.of_eq rfl rfl
theorem State.put_keepsData (s : State) (a hi lo v : Nat) : KeepsData s (s.put a hi lo v) := s.wr_keepsData a _
theorem State.bump_keepsData (s : State) (a hi lo n : Nat) : KeepsData s (s.bump a hi lo n) := s.wr_keepsData a _
theorem State.clearMarks_keepsData (s : State) (a n : Nat) : KeepsData s (s.clearMarks a n) := KeepsData.of_eq rfl rfl
theorem State.reply_keepsData (s : State) (r : Option Word) : KeepsData s { s with reply := r } := KeepsData.of_eq rfl rfl

theorem State.mscCount_keepsData (s : State) (a n : Nat) : KeepsData s (s.mscCount a n) := by
  obtain ⟨r, f, h⟩ := s.mscCount_frame a n
  exact KeepsData.of_eq (by rw [h]) (by rw [h])

theorem State.untag_keepsData (s : State) (a n : Nat) : KeepsData s (s.untag a n) := KeepsData.ite (KeepsData.refl s) (KeepsData.of_eq rfl rfl)

/-- A directory entry set to one with the same dirty data. -/
theorem State.setLine_keepsData (s : State) (a : Nat) (o : Option Line) (h : dirtyBytes o = dirtyBytes (s.line a)) : KeepsData s (s.setLine a o) := by
  refine ⟨s.setLine_mem a o, fun b => ?_⟩
  rw [State.line_setLine]
  split
  · rename_i hb; rw [h, s.line_congr a b hb]
  · rfl

/-! ### Groups opened for a write (R447, R448) -/

theorem State.placeHbm_keepsData (s : State) (g n : Nat) (w : Wr) (pin : Nat) : KeepsData s (s.placeHbm g n w pin) :=
  (s.wr_keepsData _ _).trans (State.put_keepsData _ _ _ _ _)

theorem State.placeDeep_keepsData (s : State) (g : Nat) (w : Wr) (pin : Nat) : KeepsData s (s.placeDeep g w pin) := s.wr_keepsData _ _

/-- A group placed for its first write changes control space alone. -/
theorem State.placeGroup_keepsData {s t : State} {g : Nat} {w : Wr} (h : s.placeGroup g w = .ok t) : KeepsData s t := by
  unfold State.placeGroup at h
  extract_lets s1 wantDeep pin miss at h
  have h1 : KeepsData s s1 := KeepsData.ite (s.bump_keepsData _ _ _ _) (KeepsData.refl s)
  have hm : ∀ t, KeepsData t (miss t) := fun t => KeepsData.ite (KeepsData.refl t) (t.bump_keepsData _ _ _ _)
  have hh : ∀ n, KeepsData s (s1.placeHbm g n w pin) := fun n => h1.trans (s1.placeHbm_keepsData g n w pin)
  have hd : KeepsData s (s1.placeDeep g w pin) := h1.trans (s1.placeDeep_keepsData g w pin)
  clear_value s1 miss
  cases hsteer : s1.steered g with
  | some n =>
    rw [hsteer] at h
    cases h
    exact KeepsData.ite ((hh n).trans (hm _)) (hh n)
  | none =>
    simp only [hsteer] at h
    split at h
    · split at h
      · cases h; exact hd
      · split at h <;> cases h
        exact (hh _).trans (hm _)
    · split at h
      · cases h; exact hh _
      · split at h <;> cases h
        exact hd.trans (hm _)

theorem State.openGroup_keepsData {s t : State} {g : Nat} {w : Wr} (h : s.openGroup g w = .ok t) : KeepsData s t := by
  unfold State.openGroup at h
  dsimp only at h
  split at h
  · exact State.placeGroup_keepsData h
  · split at h <;> cases h
    exact KeepsData.refl s

theorem State.openRange_keepsData {w : Wr} (k : Nat) {s t : State} {g : Nat} (h : s.openRange w g k = .ok t) : KeepsData s t := by
  induction k generalizing s g with
  | zero => cases h; exact KeepsData.refl _
  | succ k ih =>
    unfold State.openRange at h
    split at h
    · cases h
    · rename_i u hu
      exact (State.openGroup_keepsData hu).trans (ih h)

/-! ### After the bytes are written -/

/-- The chunks of moving groups that are to be copied again. -/
theorem State.markGroup_keepsData (s : State) (a n g : Nat) : KeepsData s (s.markGroup a n g) :=
  KeepsData.ite (KeepsData.of_eq rfl rfl) (KeepsData.refl s)

theorem State.markMoving_keepsData (s : State) (a n : Nat) : KeepsData s (s.markMoving a n) :=
  KeepsData.foldl (fun x _ => x.markGroup_keepsData a n _) _ s

theorem State.recode_keepsData (s : State) (g : Nat) (ks : List Nat) : KeepsData s (s.recode g ks) :=
  KeepsData.ite ((((s.put_keepsData _ _ _ _).trans (State.wr_keepsData _ _ _)).trans (State.bump_keepsData _ _ _ _ _)).trans
    (State.bump_keepsData _ _ _ _ _)) (KeepsData.refl s)

theorem State.recodeRange_keepsData (s : State) (a n : Nat) (told : Bool) : KeepsData s (s.recodeRange a n told) :=
  KeepsData.foldl (fun x _ => x.recode_keepsData _ _) _ s

/-- A write hint installs a clean copy of a line that held no dirty data (R420). -/
theorem State.install_keepsData (s : State) (w : List (Nat × Nat × Nat)) (l : Nat) (h : dirtyBytes (s.line (64 * l)) = none) :
    KeepsData s (s.install w l) := by
  unfold State.install
  cases hintTarget w (64 * l) with
  | none => exact KeepsData.refl s
  | some t =>
    refine KeepsData.ite (KeepsData.refl s) (KeepsData.ite (s.bump_keepsData _ _ _ _) ?_)
    refine (s.setLine_keepsData _ _ ?_).trans (State.bump_keepsData _ _ _ _ _)
    rw [h]
    rfl

/-- So do the hints of every line that a write covers whole. -/
theorem State.installRange_keepsData (s : State) (w : List (Nat × Nat × Nat)) (a n : Nat)
    (h : ∀ b, a ≤ b → b < a + n → dirtyBytes (s.line b) = none) : KeepsData s (s.installRange w a n) := by
  have hfold : ∀ (ks : List Nat) (t : State), (∀ k ∈ ks, dirtyBytes (t.line (64 * ((a + 63) / 64 + k))) = none) →
      KeepsData t (ks.foldl (fun s k => s.install w ((a + 63) / 64 + k)) t) := by
    intro ks
    induction ks with
    | nil => exact fun t _ => KeepsData.refl t
    | cons k ks ih =>
      intro t ht
      have h1 := t.install_keepsData w _ (ht k (List.mem_cons_self ..))
      exact h1.trans (ih _ (fun j hj => (h1.dirty _).trans (ht j (List.mem_cons_of_mem _ hj))))
  refine KeepsData.ite (KeepsData.refl s) (hfold _ s (fun k hk => ?_))
  have := List.mem_range.1 hk
  exact h _ (by omega) (by omega)

/-! ### Lines dropped before a write (R415) -/

/-- The data of a line goes home before the line is dropped: a dirty copy is written back unless a write covers the line whole. -/
def State.lineHome (s : State) (a : Nat) (l : Line) (whole : Bool) : State :=
  match l.dirty with
  | some c => if whole then s else s.writeBack a c
  | none => s

theorem State.dropLine_absent (s : State) {a : Nat} (whole : Bool) (h : s.line a = none) : s.dropLine a whole = s := by
  unfold State.dropLine; rw [h]

theorem State.dropLine_held (s : State) {a : Nat} {l : Line} (whole : Bool) (h : s.line a = some l) :
    ∃ r, s.dropLine a whole = { ((s.lineHome a l whole).setLine a none) with lr := r } := by
  unfold State.dropLine; rw [h]; exact ⟨_, rfl⟩

@[simp] theorem State.line_lineHome (s : State) (a : Nat) (l : Line) (whole : Bool) (b : Nat) : (s.lineHome a l whole).line b = s.line b := by
  unfold State.lineHome
  cases l.dirty with
  | none => rfl
  | some c =>
    cases whole with
    | true => rfl
    | false => exact s.line_writeBack a c b

/-- Of a line dropped the directory names nothing, and every other line is as before. -/
theorem State.line_dropLine (s : State) (a : Nat) (whole : Bool) (b : Nat) :
    (s.dropLine a whole).line b = if b / 64 = a / 64 then none else s.line b := by
  cases hl : s.line a with
  | none =>
    rw [s.dropLine_absent whole hl]
    exact (ite_eq_right_iff.2 (fun hb => ((s.line_congr a b hb).trans hl).symm)).symm
  | some l =>
    obtain ⟨r, hdrop⟩ := s.dropLine_held whole hl
    rw [hdrop, ← s.line_lineHome a l whole b]
    exact State.line_setLine _ a none b

/-- A line dropped for a write that covers it in part has its data in memory; one that the write covers whole may lose it. -/
theorem State.seen_dropLine (s : State) (a : Nat) (whole : Bool) (hs : s.sound) (hr : lineAtSlice a) (b : Nat)
    (hb : whole = true → b / 64 ≠ a / 64) : (s.dropLine a whole).seen b = s.seen b := by
  cases hl : s.line a with
  | none => rw [s.dropLine_absent whole hl]
  | some l =>
    obtain ⟨r, hdrop⟩ := s.dropLine_held whole hl
    rw [hdrop]
    change ((s.lineHome a l whole).setLine a none).seen b = s.seen b
    unfold State.lineHome
    cases hd : l.dirty with
    | none => exact s.seen_setLine a none (by rw [hl]; simp [dirtyBytes, hd]) b
    | some c =>
      cases whole with
      | false => exact s.seen_writeBack_dirty a l c none hr hs.1 hl hd rfl b
      | true =>
        have hother : (s.setLine a none).line b = s.line b := (s.line_setLine a none b).trans (if_neg (hb rfl))
        change (s.setLine a none).seen b = s.seen b
        rw [State.seen_eq, hother, State.setLine_byte, ← State.seen_eq]

/-- After the lines of a write are dropped the directory names none of them. -/
theorem State.line_dropLines (s : State) (a n k b : Nat) :
    (s.dropLines a n k).line b = if a / 64 ≤ b / 64 ∧ b / 64 < a / 64 + k then none else s.line b := by
  induction k with
  | zero => rw [if_neg (by omega)]; rfl
  | succ k ih =>
    rw [State.dropLines, State.line_dropLine, ih]
    by_cases hk : b / 64 = (a / 64 + k) * 64 / 64
    · rw [if_pos hk, if_pos (by omega)]
    · rw [if_neg hk]
      exact if_congr (by omega) rfl rfl

/-- What engines see beside the bytes of a write is kept as its lines are dropped. -/
theorem State.seen_dropLines (s : State) (a n k : Nat) (hs : s.sound) (hr : ∀ j, j < k → lineAtSlice ((a / 64 + j) * 64)) (b : Nat)
    (hb : ¬ (a ≤ b ∧ b < a + n)) : (s.dropLines a n k).seen b = s.seen b := by
  induction k with
  | zero => rfl
  | succ k ih =>
    rw [State.dropLines]
    refine (State.seen_dropLine _ _ _ ((s.dropLines_keeps a n k).sound hs) (hr k (Nat.lt_succ_self k)) b (fun hw => ?_)).trans
      (ih (fun j hj => hr j (Nat.lt_succ_of_lt hj)))
    simp only [Bool.and_eq_true, decide_eq_true_eq] at hw
    omega

/-! ### The write (R374, R415) -/

/-- Bytes written where the directory names no dirty data are what engines see. -/
theorem State.seen_poke (s : State) (a : Nat) (bs : List Byte) (hw : Memory.wf s.mem = true)
    (hd : ∀ b, a ≤ b → b < a + bs.length → dirtyBytes (s.line b) = none) (b : Nat) :
    (s.poke a bs).seen b = if a ≤ b ∧ b < a + bs.length then bs.getD (b - a) 0 else s.seen b := by
  have hl : (s.poke a bs).line b = s.line b := rfl
  rw [State.seen_eq, hl, s.byte_poke a bs hw]
  split
  · rename_i hb; rw [hd b hb.1 hb.2]; rfl
  · exact (s.seen_eq b).symm

/-- Below the host windows lie HBM and the deep tier. -/
theorem region_atSlice {a : Nat} (h : a < 2 ^ 41) : region a = .hbm ∨ region a = .deep := by
  unfold region
  split_ifs <;> simp

/-- A range of the slices lies below the host windows, both ends in HBM or the deep tier. -/
theorem inMemRegions_iff (a n : Nat) : inMemRegions a n = true ↔ a < 2 ^ 41 ∧ a + n - 1 < 2 ^ 41 := by
  have h1 : ∀ x, (region x == .hbm || region x == .deep) = true ↔ x < 2 ^ 41 := by
    intro x
    unfold region
    split_ifs <;> simp <;> omega
  rw [inMemRegions, Bool.and_eq_true, h1, h1]

theorem lineAtSlice_iff (a : Nat) : lineAtSlice a ↔ a / 64 * 64 < 2 ^ 41 := by
  unfold lineAtSlice region
  split_ifs <;> simp <;> omega

/-- What a write accepted at a slice does: it opens its groups and drops its lines, writes its bytes, and tells the rest of the memory system. -/
theorem State.writeMem_atSlice {s t : State} {w : Wr} {a : Nat} {bs : List Byte} (ha : a < 2 ^ 41) (hlen : bs.length ≠ 0)
    (h : s.writeMem w a bs = .ok t) :
    ∃ u, s.openRange w (groupOf a) (groupOf (a + bs.length - 1) + 1 - groupOf a) = .ok u ∧
      t = ((((((u.dropLines a bs.length ((a + bs.length - 1) / 64 + 1 - a / 64)).poke a bs).clearMarks a bs.length).markMoving a bs.length).recodeRange a
        bs.length true).mscCount a bs.length).installRange w.wins a bs.length := by
  unfold State.writeMem at h
  rw [if_neg hlen] at h
  dsimp only at h
  split at h
  · cases h
  · rcases region_atSlice ha with hreg | hreg <;> rw [hreg] at h <;> dsimp only at h <;> split at h <;> cases h <;> exact ⟨_, ‹_›, rfl⟩

/-- A write accepted at a slice is what engines see in its bytes, and they see every other byte as before (R374, R415). -/
theorem State.seen_writeMem {s t : State} {w : Wr} {a : Nat} {bs : List Byte} (hs : s.sound) (hm : inMemRegions a bs.length = true) (hne : bs ≠ [])
    (h : s.writeMem w a bs = .ok t) (b : Nat) : t.seen b = if a ≤ b ∧ b < a + bs.length then bs.getD (b - a) 0 else s.seen b := by
  have hlen : bs.length ≠ 0 := fun e => hne (List.length_eq_zero_iff.1 e)
  obtain ⟨ha, hz⟩ := (inMemRegions_iff a bs.length).1 hm
  obtain ⟨u, hopen, rfl⟩ := State.writeMem_atSlice ha hlen h
  generalize hn : bs.length = n at *
  have hku := State.openRange_keepsData _ hopen
  have hus : u.sound := (State.openRange_keeps _ _ _ _ u hopen).sound hs
  generalize hk : (a + n - 1) / 64 + 1 - a / 64 = k
  have hnone : ∀ b, a ≤ b → b < a + n → dirtyBytes ((u.dropLines a n k).line b) = none := fun b h1 h2 => by
    rw [State.line_dropLines, if_pos (by omega)]; rfl
  have hkeep : KeepsData ((u.dropLines a n k).poke a bs) _ :=
    ((((State.clearMarks_keepsData _ a n).trans (State.markMoving_keepsData _ a n)).trans (State.recodeRange_keepsData _ a n true)).trans
      (State.mscCount_keepsData _ a n))
  have hinst := State.installRange_keepsData _ w.wins a n (fun b h1 h2 => (hkeep.dirty b).trans (hnone b h1 h2))
  calc _ = ((u.dropLines a n k).poke a bs).seen b := (hkeep.trans hinst).seen b
    _ = if a ≤ b ∧ b < a + n then bs.getD (b - a) 0 else (u.dropLines a n k).seen b := by
        rw [State.seen_poke _ a bs ((u.dropLines_keeps a n k).sound hus).1 (hn ▸ hnone), hn]
    _ = if a ≤ b ∧ b < a + n then bs.getD (b - a) 0 else s.seen b := by
        refine ite_congr rfl (fun _ => rfl) (fun hb => ?_)
        exact (u.seen_dropLines a n k hus (fun j hj => (lineAtSlice_iff _).2 (by omega)) b hb).trans (hku.seen b)

/-! ### Commands that write at the slices -/

/-- MSC_WRITE of a write that the tier map accepts. -/
theorem execMscWrite_accepted {cls addr : Nat} {data : List Byte} {errs : List (Nat × Nat)} {s t : State} (ha : addr < 2 ^ 41)
    (h : (s.unitErrors none (errs.filter (fun e => (partialUnits addr data.length).contains (e.1 / 64 * 64)))).writeMem (.plain cls) addr data = .ok t) :
    execMscWrite cls addr data errs s = .next (t.untag addr data.length) := by
  unfold execMscWrite
  rcases region_atSlice ha with hr | hr <;> rw [hr] <;> simp only [h]

/-- ENGINE_WRITE of a write that meets no hold and that the tier map accepts. -/
theorem execEngineWrite_accepted {ctx addr : Nat} {data : List Byte} {s t : State} (hne : data ≠ []) (hm : inMemRegions addr data.length = true)
    (hw : ((List.range ((addr + data.length + 63) / 64 - addr / 64)).all (fun k => !s.mustWait ((addr / 64 + k) * 64) 1024)) = true)
    (h : s.writeMem { Wr.plain (b2n (s.isClassA addr)) with wins := (s.hintWindows ctx).1 } addr data = .ok t) :
    execEngineWrite ctx addr data s = .next t := by
  have hnone : ((List.range ((addr + data.length + 63) / 64 - addr / 64)).map (fun k => (addr / 64 + k) * 64)).find? (fun l => s.mustWait l 1024) = none := by
    simpa using hw
  unfold execEngineWrite
  simp [hne, hm, hnone, h]

/-! ### The statement -/

/-- Settles O38: the command runs the write, and a write at a slice is what engines then see. -/
theorem acceptedWritesAreSeen : Obligations.AcceptedWritesAreSeen := by
  intro addr data s hs hne hm
  obtain ⟨ha, -⟩ := (inMemRegions_iff addr data.length).1 hm
  refine ⟨?mscWrite, ?engineWrite⟩
  case mscWrite =>
    rintro cls errs r t rfl h
    refine ⟨_, execMscWrite_accepted ha h, fun b => ?_⟩
    rw [(t.untag_keepsData addr data.length).seen b]
    exact State.seen_writeMem ((State.unitErrors_keeps s none _).sound hs) hm hne h b
  case engineWrite => exact fun ctx t hw h => ⟨t, execEngineWrite_accepted hne hm hw h, State.seen_writeMem hs hm hne h⟩

end Sys2Proof.Machine
end

section
/-! Atomics at the slices: of engines and of server cores (R377, R378, R422, R423). -/

namespace Sys2Proof.Machine

theorem bytesOf_length (n v : Nat) : (bytesOf n v).length = n := by
  induction n generalizing v with
  | zero => rfl
  | succ n ih => exact congrArg (· + 1) (ih (v / 256))

/-- The counters of an atomic at its slice: one more, and one more of FADD32 and FADD64 where it is one. -/
def State.atomCounted (t : State) (a : Nat) (flt : Bool) : State :=
  (t.bump (Reg.mscAtom (t.sliceOf a)) 63 32 1).bump (Reg.mscAtom (t.sliceOf a)) 31 0 (b2n flt)

theorem State.atomCounted_keepsData (t : State) (a : Nat) (flt : Bool) : KeepsData t (t.atomCounted a flt) :=
  (t.bump_keepsData _ _ _ _).trans (State.bump_keepsData _ _ _ _ _)

section

variable {s t : State} {addr width : Nat} {bs : List Byte} {flt : Bool} {f : Nat → Nat}

/-- An atomic on a word that its slice reads and writes gives the old value. -/
theorem State.atomicAt_ok (hr : s.readMem addr width = .ok bs)
    (hw : s.writeMem (.plain (b2n (s.isClassA addr))) addr (bytesOf width (f (ofBytes bs))) = .ok t) :
    s.atomicAt addr width flt f = .ok (ofBytes bs, t.atomCounted addr flt) := by
  have hwrite : s.writeMem { Wr.plain (b2n (s.isClassA addr)) with owner := none } addr (bytesOf width (f (ofBytes bs))) = .ok t := hw
  unfold State.atomicAt
  simp only [hr, hwrite]
  rfl

/-- An aligned atomic answers it. -/
theorem State.atomicCmd_ok (hwidth : width = 4 ∨ width = 8) (hal : addr % width = 0) (hm : inMemRegions addr 1 = true) (hr : s.readMem addr width = .ok bs)
    (hw : s.writeMem (.plain (b2n (s.isClassA addr))) addr (bytesOf width (f (ofBytes bs))) = .ok t) :
    s.atomicCmd addr width flt f = { (t.atomCounted addr flt) with reply := some (BitVec.ofNat 64 (ofBytes bs)) } := by
  rw [State.atomicCmd, if_pos ⟨hwidth, hal, hm⟩, State.atomicAt_ok hr hw]

end

/-- An aligned word of the slices lies in them whole. -/
theorem inMemRegions_word {addr width : Nat} (hwidth : width = 4 ∨ width = 8) (hal : addr % width = 0) (hm : inMemRegions addr 1 = true) :
    inMemRegions addr width = true := by
  have h := (inMemRegions_iff addr 1).1 hm
  refine (inMemRegions_iff addr width).2 ?_
  rcases hwidth with rfl | rfl <;> omega

theorem signedPick_low (w v old : Nat) : signedPick w false v old = if sext (8 * w) old < sext (8 * w) v then old else v % 2 ^ (8 * w) := by
  unfold signedPick
  by_cases h : sext (8 * w) old < sext (8 * w) v <;> simp [h]

theorem signedPick_high (w v old : Nat) : signedPick w true v old = if sext (8 * w) old < sext (8 * w) v then v % 2 ^ (8 * w) else old := by
  unfold signedPick
  by_cases h : sext (8 * w) old < sext (8 * w) v <;> simp [h]

/-- Every command of Table 12.5 is an atomic of its function. -/
theorem exec_atomicOf (addr width : Nat) (cmp v : Word) (s : State) :
    ∀ p ∈ atomicOf addr width cmp v, exec p.1 s = .next (s.atomicCmd addr width false p.2) := by
  have hmin := congrArg (fun f => (.next (s.atomicCmd addr width false f) : Outcome)) (funext (signedPick_low width v.toNat))
  have hmax := congrArg (fun f => (.next (s.atomicCmd addr width false f) : Outcome)) (funext (signedPick_high width v.toNat))
  simp only [atomicOf, List.forall_mem_cons]
  exact ⟨rfl, rfl, rfl, rfl, rfl, rfl, hmin, hmax, rfl, rfl, List.forall_mem_nil _⟩

/-! ### Atomics of server cores (R378, R422, R423) -/

/-- A far atomic that its core may make at a slice: the line is recalled, and the slice's old value is the answer. -/
theorem State.farAtomic_ok {s t : State} {core addr width old : Nat} {flt : Bool} {f : Nat → Nat} (hal : addr % width = 0) (hok : s.mainOk addr = true)
    (hwait : s.mustWait addr core = false) (h : (s.recallLine addr).atomicAt addr width flt f = .ok (old, t)) :
    s.farAtomic core addr width flt f = { (t.untag addr width) with reply := some (rdValue width old) } := by
  simp only [State.farAtomic, hal, hok, hwait, h, ne_eq, not_true_eq_false, Bool.not_true, Bool.false_eq_true, if_false]

/-- No access to a slice waits for a host page. -/
theorem State.hostWaits_atSlice (s : State) {addr : Nat} (hm : inMemRegions addr 1 = true) : s.hostWaits addr = false := by
  rcases region_atSlice ((inMemRegions_iff addr 1).1 hm).1 with hr | hr <;> simp [State.hostWaits, hr]

theorem execFarAtomic_atSlice {s : State} {core op addr width : Nat} {cmp v : Word} (hrun : s.coreRuns core = true) (hm : inMemRegions addr 1 = true)
    (hwidth : width = 4 ∨ width = 8) (hop : op < 10) :
    execFarAtomic core op addr width cmp v s = .next (s.farAtomic core addr width false (atomicFun op width cmp.toNat v.toNat)) := by
  have hgo : ¬ ((!s.coreRuns core) = true ∨ (width ≠ 4 ∧ width ≠ 8) ∨ 10 ≤ op ∨ s.hostWaits addr = true) := by
    simp only [hrun, s.hostWaits_atSlice hm, Bool.not_true, Bool.false_eq_true, false_or, or_false]
    omega
  exact (if_neg hgo).trans (if_pos hm)

theorem execFamoaddW_atSlice {s : State} {core addr : Nat} {v : Word} (hrun : s.coreRuns core = true) (hm : inMemRegions addr 1 = true) :
    execFamoaddW core addr v s = .next (s.farAtomic core addr 4 true (faddBits32 v.toNat)) := by
  simp [execFamoaddW, hrun, hm]

theorem execFamoaddD_atSlice {s : State} {core addr : Nat} {v : Word} (hrun : s.coreRuns core = true) (hm : inMemRegions addr 1 = true) :
    execFamoaddD core addr v s = .next (s.farAtomic core addr 8 true (faddBits64 v.toNat)) := by
  simp [execFamoaddD, hrun, hm]

/-! ### The statement -/

/-- Settles O39: an atomic is a write of its word at the slice, so that engines see the new value there and all else as before. -/
theorem atomicsReturnTheOldWord : Obligations.AtomicsReturnTheOldWord := by
  refine ⟨?table, ?floats, ?cores⟩
  case table =>
    rintro addr width cmp v s bs c f hs hwidth hal hm hr hmem ⟨t, hw⟩
    have hlen := bytesOf_length width (f (ofBytes bs))
    have hne : bytesOf width (f (ofBytes bs)) ≠ [] := List.ne_nil_of_length_pos (by omega)
    have hseen := State.seen_writeMem hs (hlen.symm ▸ inMemRegions_word hwidth hal hm) hne hw
    rw [hlen] at hseen
    rw [exec_atomicOf addr width cmp v s _ hmem, State.atomicCmd_ok hwidth hal hm hr hw]
    exact ⟨_, rfl, rfl, fun b => (((t.atomCounted_keepsData addr false).trans (State.reply_keepsData _ _)).seen b).trans (hseen b)⟩
  case floats =>
    intro addr v s t bs hm
    exact ⟨fun hal hr hw => congrArg Host.Outcome.next (State.atomicCmd_ok (.inl rfl) hal hm hr hw),
      fun hal hr hw => congrArg Host.Outcome.next (State.atomicCmd_ok (.inr rfl) hal hm hr hw)⟩
  case cores =>
    intro core addr old v s t hrun hm hok hwait
    refine ⟨fun op width cmp hwidth hop hal h => ?far, fun hal h => ?word, fun hal h => ?double⟩
    case far => exact (execFarAtomic_atSlice hrun hm hwidth hop).trans (congrArg Host.Outcome.next (State.farAtomic_ok hal hok hwait h))
    case word => exact (execFamoaddW_atSlice hrun hm).trans (congrArg Host.Outcome.next (State.farAtomic_ok hal hok hwait h))
    case double => exact (execFamoaddD_atSlice hrun hm).trans (congrArg Host.Outcome.next (State.farAtomic_ok hal hok hwait h))

end Sys2Proof.Machine
end

section
/-! REDUCE_ACC: contributions that join their sequence, and held ones released (R382 to R384). -/

namespace Sys2Proof.Machine

/-- REDUCE_ACC of a worker that joins its sequence. -/
theorem execReduceAcc_joins {q sn unit first n : Nat} {s t : State} {o : OpRec} (h1 : 40 ≤ unit) (h2 : unit < 56)
    (hw : s.worker 7 0 q sn unit first n = some o) (hj : s.seqJoin o = some t) :
    execReduceAcc q sn unit first n s = .next ((t.accTilesFrom q sn unit first n).settle) := by
  simp only [execReduceAcc, h1, h2, hw, hj, and_self, if_true]

/-- A held contribution whose turn has come, or whose tile is broken, at the unit of the piece that covers it. -/
theorem execContributionRelease_due {q sn tile u : Nat} {s : State} {o p : OpRec} {a d : Obj} {y : PieceRec} (hp : s.opAny q sn = some p)
    (ho : o = s.view 255 p) (ha : o.obj 0 = some a) (hd : o.obj 3 = some d)
    (hu : u = (o.accTiles.map (fun e => d.tileNo e.1 e.2.1 e.2.2)).idxOf tile)
    (hy : s.pieces.find? (fun p => p.covers q sn p.unit u 1) = some y)
    (hc : o.d.cls = 7 ∧ o.d.op = 0 ∧ u < o.accTiles.length ∧ s.seqs.any (fun x => x.has o && x.held.contains (o.d.ord, tile)) = true ∧
      (s.accTurn o tile || s.accBroken o tile) = true) :
    execContributionRelease q sn tile s = .next ((s.accTile o y.unit a d u).settle) := by
  subst ho hu
  simp only [execContributionRelease, hp, ha, hd, hy]
  exact if_pos hc

/-- Settles O32: the two commands in the states in which they bring or release a contribution. -/
theorem contributionsJoinInOrder : Obligations.ContributionsJoinInOrder :=
  ⟨fun _ _ _ _ _ _ _ _ => execReduceAcc_joins,
    fun _ _ _ _ _ _ _ _ _ _ hp ho ha hd hu hy hcls hop hlt hheld hturn => execContributionRelease_due hp ho ha hd hu hy ⟨hcls, hop, hlt, hheld, hturn⟩⟩

end Sys2Proof.Machine
end

section
/-! The health of stacked memory: errors of the slices, refresh and scrub (R376, R397, R398, R454, R457), and channels mapped out (R400). -/

namespace Sys2Proof.Machine

/-! ### Errors of a slice (R376) -/

/-- The fault of a line that a slice holds there (Table 19.7). -/
def lineFault (slice set way addr : Nat) (inj lost : Bool) : FaultIn :=
  { cls := 2, sev := if lost then 2 else 1, rtype := 0, det := 0x25, inj := inj, dom := 2, inst := 272 + slice, addr := addr,
    info := way % 16 * 2 ^ 12 + set % 2 ^ 12 }

/-- MSC_ECC of a way in use: the injection armed for it is taken. -/
theorem execMscEcc_held {slice set way addr : Nat} {two dirty inj : Bool} {s u : State} (h1 : slice < 17) (hs : s.sliceOf addr = slice)
    (hm : inMemRegions addr 1 = true) (hin : s.mscOut.get (fun _ => false) slice = false)
    (hway : s.wayOff.get (fun _ => false) (slice * 2 ^ 20 + set * 16 + way) = false)
    (hinj : s.takeInj (Reg.mscInj slice) (if two then 2 else 1) 0 = (inj, u)) :
    execMscEcc slice set way addr two dirty s = .next (u.lineError slice set way addr two dirty inj) := by
  unfold execMscEcc
  rw [if_pos ⟨h1, hs, hm, hin, hway⟩, hinj]

/-- One wrong bit is corrected, counted and met by the ladder of counts. -/
theorem State.lineError_one (u : State) (slice set way addr : Nat) (dirty inj : Bool) : u.lineError slice set way addr false dirty inj =
    (u.bump (Reg.mscDetcnt slice) 63 48 1).countDet (2 * 1024 + 272 + slice) (lineFault slice set way addr inj false) := by
  simp only [State.lineError, lineFault, Bool.false_and, Bool.false_eq_true, if_false]

/-- Two wrong bits spoil the line's units: class A by their CRC, class W where only the slice held the data. -/
theorem State.lineError_two (u v : State) (slice set way addr : Nat) (dirty inj : Bool) (hv : v = u.bump (Reg.mscDetcnt slice) 47 32 1) :
    u.lineError slice set way addr true dirty inj =
      (if v.isClassA addr then v.markLine addr .badCrc else if dirty then v.markLine addr .poison else v).detect
        (lineFault slice set way addr inj (!u.isClassA addr && dirty)) := by
  subst hv
  simp only [State.lineError, lineFault, Bool.true_and, if_true]

/-! ### Readouts of temperature (R397, R454) -/

theorem trunc_lt (n : Nat) (i : Int) : trunc n i < 2 ^ n := by
  have hpos : (0 : Int) < 2 ^ n := by positivity
  have hlt : (trunc n i : Int) < 2 ^ n := by
    rw [trunc, Int.toNat_of_nonneg (Int.emod_nonneg i hpos.ne')]
    exact Int.emod_lt_of_pos i hpos
  exact_mod_cast hlt

/-- The registers of a stack after a readout of 95 °C or more: TEMP and the fastest refresh. -/
def State.hotRead (u : State) (stack : Nat) (t : Int) : State := (u.put (Reg.hbcStat stack) 31 24 (trunc 8 t)).put (Reg.hbcStat stack) 23 22 2

theorem execTemperatureReadout_hot {stack : Nat} {t : Int} {s u : State} (hs : stack < 16) (hinj : s.takeInj (Reg.hbcInj stack) 4 0 = (false, u))
    (ht : 95 ≤ t) : ∃ c, execTemperatureReadout stack (some t) s = .next (State.hotRead { u with cool := c } stack t) := by
  have h1 : ¬ 32 ≤ stack := by omega
  have h2 : ¬ 16 ≤ stack := by omega
  refine ⟨((u.coolCount stack 0 85 t).2.coolCount stack 1 95 t).2.cool, ?_⟩
  simp only [execTemperatureReadout, h1, h2, hinj, ht, State.hotRead, State.coolCount, if_true, if_false, Bool.false_eq_true]

theorem State.hotRead_reads (u : State) (stack : Nat) (t : Int) :
    (u.hotRead stack t).fld (Reg.hbcStat stack) 23 22 = 2 ∧ (u.hotRead stack t).fld (Reg.hbcStat stack) 31 24 = trunc 8 t := by
  refine ⟨State.fld_put_same _ _ _ _ _ (by omega) (by omega), ?_⟩
  rw [State.hotRead, State.fld_put_apart _ _ _ _ _ _ _ (by omega) (by omega) (by omega) (by omega),
    State.fld_put_same _ _ _ _ _ (by omega) (by omega)]
  exact Nat.mod_eq_of_lt (trunc_lt 8 t)

theorem State.put_withCool (u : State) (c : Tab Nat) (a hi lo v : Nat) :
    State.put { u with cool := c } a hi lo v = { u.put a hi lo v with cool := c } := rfl

/-- The readout touches that register alone, and the count of cool readings. -/
theorem State.hotRead_regsOnly (u : State) (c : Tab Nat) (stack : Nat) (t : Int) :
    regsOnly u { (State.hotRead { u with cool := c } stack t) with cool := u.cool } [Reg.hbcStat stack] := by
  rw [State.hotRead, State.put_withCool, State.put_withCool]
  exact ((regsOnly_refl u _).wr (List.mem_singleton_self _) _).wr (List.mem_singleton_self _) _

/-- A readout that fails (Table 12.7). -/
theorem execTemperatureReadout_fails {stack : Nat} {temp : Option Int} {inj : Bool} {s u : State} (hs : stack < 16)
    (hinj : s.takeInj (Reg.hbcInj stack) 4 0 = (inj, u)) (hf : inj = true ∨ temp = none) : execTemperatureReadout stack temp s =
      .next ((u.put (Reg.hbcStat stack) 23 22 3).detect { cls := 2, sev := 1, rtype := 0, det := 0x23, inj := inj, dom := 2, inst := 16 * stack }) := by
  have h1 : ¬ 32 ≤ stack := by omega
  have h2 : ¬ 16 ≤ stack := by omega
  have hnone : (if inj then none else temp) = none := by
    rcases hf with rfl | rfl
    · rfl
    · exact ite_self _
  simp only [execTemperatureReadout, h1, h2, hinj, hnone, if_false]

theorem execTemperatureReadout_deep {stack : Nat} {t : Int} (s : State) (h1 : 16 ≤ stack) (h2 : stack < 32) :
    execTemperatureReadout stack (some t) s = .next (s.put (Reg.dtcStat (stack - 16)) 31 24 (trunc 8 t)) := by
  simp only [execTemperatureReadout, h1, Nat.not_le.2 h2, if_true, if_false]

/-! ### Channels mapped out (R400) -/

/-- A drained channel that leaves at least 8 of its stack: it is out for good. -/
theorem execChannelDrained_out {stack chan : Nat} {s u v : State} {all : List Nat} (h1 : stack < 16) (h2 : chan < 16)
    (hdrain : s.flag (Reg.hbcStat stack) (32 + chan) = true) (hall : all = (List.range 16).filter (fun c => !s.flag (Reg.hbcStat stack) (48 + c)))
    (h8 : 8 ≤ all.length - 1) (hslots : (s.slotsUsed stack).any (fun k => decide (2048 * (all.length - 1) ≤ k)) = false)
    (hu : u = (s.relocate (512 * (s.fld Reg.hbcCap 10 0 - 4))).channelsOut stack [chan])
    (hv : v = u.putBit (Reg.hbcStat stack) 1 (decide (u.fld (Reg.hbcStat stack) 47 32 = 0))) :
    execChannelDrained stack chan s = .next (v.syncHfree.mapOutRecord stack chan) := by
  subst hv hu hall
  have hgo : ¬ (16 ≤ stack ∨ 16 ≤ chan ∨ s.flag (Reg.hbcStat stack) (32 + chan) = false) := by simp [h1, h2, hdrain]
  have hkeep := decide_eq_false (Nat.not_lt.2 h8)
  unfold execChannelDrained
  rw [if_neg hgo]
  dsimp only
  rw [hkeep]
  simp only [Bool.false_eq_true, if_false, List.length_singleton, hslots, Nat.mul_one, List.foldl_cons, List.foldl_nil]

/-! ### The statement -/

/-- Settles O40, event by event. -/
theorem memoryHealthRule : Obligations.MemoryHealthRule := by
  refine ⟨fun s => ⟨?ecc, ?hot, ?fails, fun _ _ => execTemperatureReadout_deep s, ?scrub, fun _ _ _ => rfl, fun _ => rfl⟩,
    fun _ _ _ _ _ _ => execChannelDrained_out⟩
  case ecc =>
    intro slice set way addr two dirty inj u hslice hs hm hin hway hinj
    have hexec : exec (.mscEcc slice set way addr two dirty) s = _ := execMscEcc_held hslice hs hm hin hway hinj
    have hclass : u.isClassA addr = s.isClassA addr := by rw [← (Prod.mk.inj hinj).2]; rfl
    refine ⟨lineFault slice set way addr inj (two && !s.isClassA addr && dirty), rfl, ?one, ?two⟩
    case one =>
      rintro rfl
      exact hexec.trans (congrArg Host.Outcome.next (u.lineError_one slice set way addr dirty inj))
    case two =>
      rintro rfl v hv
      rw [hexec, u.lineError_two v slice set way addr dirty inj hv, hclass, Bool.true_and]
  case hot =>
    intro stack t u hs hinj ht
    obtain ⟨c, hexec⟩ := execTemperatureReadout_hot hs hinj ht
    obtain ⟨hrate, htemp⟩ := State.hotRead_reads { u with cool := c } stack t
    exact ⟨_, hexec, hrate, htemp, u.hotRead_regsOnly c stack t⟩
  case fails => exact fun stack inj u temp hs hinj hf => execTemperatureReadout_fails hs hinj hf
  case scrub =>
    rintro stack errs u hs rfl
    exact if_neg (Nat.not_le.2 hs)

end Sys2Proof.Machine
end

section
/-! Class A detections: the producer replayed, or the reading op failed (R394, R395). -/

namespace Sys2Proof.Machine

/-- The fault of a bad class A tile in a tile store: corrected where its producer runs again. -/
def State.tileFault (s : State) (a sev : Nat) (op : Nat × Nat × Nat) : FaultIn :=
  { cls := 2, sev := sev, rtype := 0, det := 0x29, dom := 2, inst := s.memInst a, addr := a, op := some op, info := s.memInfo a }

/-- A detection noted at its piece (R395). -/
def State.noteDet (s : State) (q sn idx a : Nat) : State :=
  { s with pieces := s.pieces.map (fun (z : PieceRec) => if z.q = q ∧ z.s = sn ∧ z.idx = idx then { z with dets := z.dets ++ [a] } else z) }

/-- The read whose detection began the chain that a piece belongs to: op and operand slot (R395). -/
def PieceRec.chainBase (y : PieceRec) (q sn role : Nat) : Nat × Nat × Nat := y.reader.getD (q, sn, min role 3)

section
/-! In a tile store no memory channel counts the detection, so both proofs run the command with its HBM and deep-tier branches off. -/

variable {q sn idx role tile p r c die bank : Nat} {s : State} {o : OpRec} {x : Obj} {y : PieceRec}
variable (ho : s.opAny q sn = some o) (hx : o.obj role = some x) (ht : x.tileAt tile = (p, r, c)) (hreg : region (x.tileAddr p r c) = .tile die bank)
  (hbad : s.tileBad o.ctx x p r c = true)
  (hy : s.pieces.find? (fun y => y.q == q && y.s == sn && y.idx == idx && y.phase == PiecePhase.running) = some y)
include ho hx ht hreg hbad hy

/-- The producer can run again: its parts are committed again, for the read whose detection began the chain. -/
theorem execClassADetection_replays {j : OpRec} (hj : s.producer o.ctx x p r c = some j)
    (hnew : s.pieces.any (fun z => z.q == j.q && z.s == j.s && z.reader.isSome && z.phase != PiecePhase.ended &&
      j.handles z.part (j.unitsOf x tile).1) = false)
    (hdepth : y.depth + 1 ≤ 8) (hmet : (y.dets.filter (· == x.tileAddr p r c)).length < 2)
    (hsame : s.inputsSame j (j.partsFor (j.unitsOf x tile)) = true) :
    execClassADetection q sn idx role tile s = .next
      ((((s.detect (s.tileFault (x.tileAddr p r c) 1 (q, sn, o.ctx))).noteDet q sn idx (x.tileAddr p r c)).mapOp (y.chainBase q sn role).1
        (y.chainBase q sn role).2.1 (fun (z : OpRec) => { z with replayA := true, replays := z.replays + 1 })).replay j (y.depth + 1)
          (y.chainBase q sn role) (j.partsFor (j.unitsOf x tile))) := by
  simp [execClassADetection, ho, hx, ht, hreg, hbad, hy, hj, hnew, hdepth, hmet, hsame, State.cond, State.tileFault, State.noteDet, PieceRec.chainBase]

/-- No op can run again: the reading op fails. -/
theorem execClassADetection_fails (hj : s.producer o.ctx x p r c = none) :
    execClassADetection q sn idx role tile s = .next
      (((s.detect (s.tileFault (x.tileAddr p r c) 2 (q, sn, o.ctx))).noteDet q sn idx (x.tileAddr p r c)).failOp (y.chainBase q sn role).1
        (y.chainBase q sn role).2.1 stDataErr (y.chainBase q sn role).2.2) := by
  simp [execClassADetection, ho, hx, ht, hreg, hbad, hy, hj, State.cond, State.tileFault, State.noteDet, PieceRec.chainBase]

end

/-- Settles O41: the detection of a running piece, by whether its producer is known. -/
theorem classADetectionReplays : Obligations.ClassADetectionReplays := by
  rintro q sn idx role tile p r c a die bank s u v o x y ho hx ht rfl hreg hbad hy
  refine ⟨?replays, ?fails⟩
  case replays =>
    rintro j f hj hnew hdepth hmet hsame rfl rfl rfl
    exact ⟨y.chainBase q sn role, rfl, execClassADetection_replays ho hx ht hreg hbad hy hj hnew hdepth hmet hsame⟩
  case fails =>
    rintro f hj rfl rfl rfl
    exact ⟨y.chainBase q sn role, rfl, execClassADetection_fails ho hx ht hreg hbad hy hj⟩

end Sys2Proof.Machine
end

section
/-! Lines that stay sound (R410, R411): one copy alone, copies dropped, copies changed in place, a copy added, a victim in the L3. -/

namespace Sys2Proof.Machine

/-- A line with one whole copy. -/
theorem Line.sound_single (st : LineState) (c : Copy) (h : c.bytes.length = 64) : Line.sound ⟨st, [c]⟩ :=
  ⟨fun x hx => by rw [List.mem_singleton.1 hx]; exact h, List.nodup_singleton _, (List.length_filter_le _ _), fun x hx _ => by rw [List.mem_singleton.1 hx]⟩

/-- Copies dropped from a line. -/
theorem Line.sound_filter (l : Line) (hl : l.sound) (st : LineState) (p : Copy → Bool) : Line.sound ⟨st, l.copies.filter p⟩ := by
  obtain ⟨hb, hn, hd, ha⟩ := hl
  refine ⟨fun c hc => hb c (List.mem_filter.1 hc).1, hn.sublist (List.Sublist.map _ List.filter_sublist),
    ((List.filter_sublist.filter _).length_le).trans hd, fun c hc hca => ?_⟩
  obtain ⟨hm, hp⟩ := List.mem_filter.1 hc
  dsimp only
  rw [ha c hm hca, List.filter_singleton, hp]
  rfl

/-- A change of copies that leaves whose they are and that they are whole, and makes none dirty or alone. -/
structure Copy.Tame (f : Copy → Copy) : Prop where
  core  : ∀ c, (f c).core = c.core
  whole : ∀ c, c.bytes.length = 64 → (f c).bytes.length = 64
  dirty : ∀ c, (f c).isDirty = true → c.isDirty = true
  alone : ∀ c, (f c).alone = true → c.alone = true

/-- Copies changed in place. -/
theorem Line.sound_map (l : Line) (hl : l.sound) (st : LineState) (f : Copy → Copy) (hf : Copy.Tame f) : Line.sound ⟨st, l.copies.map f⟩ := by
  obtain ⟨hb, hn, hd, ha⟩ := hl
  refine ⟨fun c hc => ?_, ?_, ?_, fun c hc hca => ?_⟩
  · obtain ⟨x, hx, rfl⟩ := List.mem_map.1 hc
    exact hf.whole x (hb x hx)
  · rw [List.map_map, show Copy.core ∘ f = Copy.core from funext hf.core]
    exact hn
  · rw [List.filter_map, List.length_map]
    exact ((List.monotone_filter_right l.copies (fun c h => hf.dirty c h)).length_le).trans hd
  · obtain ⟨x, hx, rfl⟩ := List.mem_map.1 hc
    dsimp only
    rw [ha x hx (hf.alone x hca)]
    rfl

theorem Line.clean_sound (l : Line) (hl : l.sound) : l.clean.sound := by
  refine l.sound_map hl _ _ ⟨fun _ => rfl, fun _ h => h, fun c h => ?_, fun c h => ?_⟩ <;>
  · obtain ⟨_, st, _, _, _, _⟩ := c
    cases st <;> simp_all [Copy.isDirty, Copy.alone]

/-- The line of a core that wins a shared copy beside others. -/
theorem Line.sound_share (l : Line) (hl : l.sound) (core : Nat) (hn : l.copyOf core = none) (st : LineState) (bs : List Byte) (pz : Bool)
    (hb : bs.length = 64) : Line.sound ⟨st, l.copies.map (fun (c : Copy) => { c with st := match c.st with
      | .m => .o
      | .e => .s
      | x => x }) ++ [⟨core, .s, bs, pz, false, false⟩]⟩ := by
  have hnone : ∀ c ∈ l.copies, c.core ≠ core := fun c hc e => by simpa [e] using List.find?_eq_none.1 hn c hc
  obtain ⟨hw, hnd, hd, -⟩ := hl
  refine ⟨fun c hc => ?_, ?_, ?_, fun c hc hca => ?_⟩
  · rcases List.mem_append.1 hc with h | h
    · obtain ⟨x, hx, rfl⟩ := List.mem_map.1 h
      exact hw x hx
    · rw [List.mem_singleton.1 h]; exact hb
  · rw [List.map_append, List.map_map]
    refine List.Nodup.append hnd (List.nodup_singleton _) (fun k h1 h2 => ?_)
    obtain ⟨x, hx, rfl⟩ := List.mem_map.1 h1
    exact hnone x hx (by simpa using h2)
  · rw [List.filter_append, List.filter_map, List.length_append, List.length_map]
    refine le_trans (Nat.add_le_add_right ?_ _) hd
    refine (List.monotone_filter_right l.copies (fun c h => ?_)).length_le
    obtain ⟨_, st, _, _, _, _⟩ := c
    cases st <;> simp_all
  · exfalso
    rcases List.mem_append.1 hc with h | h
    · obtain ⟨x, -, rfl⟩ := List.mem_map.1 h
      obtain ⟨_, st, _, _, _, _⟩ := x
      cases st <;> simp [Copy.alone] at hca
    · rw [List.mem_singleton.1 h] at hca; cases hca

/-- At most one copy is a given core's. -/
theorem Copy.countP_core_le_one (cs : List Copy) (h : (cs.map Copy.core).Nodup) (k : Nat) : cs.countP (fun x => x.core == k) ≤ 1 := by
  have := List.nodup_iff_count_le_one.1 h k
  rwa [List.count, List.countP_map] at this

/-- A victim of a cache taken over by the L3's copy of its line: only a dirty victim takes its place, and where no other copy was alone. -/
theorem Line.sound_replaceL3 (st : LineState) (cs : List Copy) (hcs : Line.sound ⟨st, cs⟩) (c : Copy) (hw : c.bytes.length = 64)
    (ha : c.alone = false) (hd : c.isDirty = true → cs.find? Copy.isDirty = none) :
    Line.sound ⟨st, cs.map (fun (x : Copy) =>
      if x.core = 64 ∧ c.isDirty = true then { x with st := c.st, bytes := c.bytes, poison := c.poison } else x)⟩ := by
  cases hcd : c.isDirty with
  | false => simpa [hcd] using hcs
  | true =>
    have hnone := List.find?_eq_none.1 (hd hcd)
    obtain ⟨hb, hn, -, hal⟩ := hcs
    refine ⟨fun x hx => ?_, ?_, ?_, fun x hx hxa => ?_⟩
    · obtain ⟨y, hy, rfl⟩ := List.mem_map.1 hx
      split
      · exact hw
      · exact hb y hy
    · rw [List.map_map]
      convert hn using 2
      funext y
      dsimp only [Function.comp]
      split <;> rfl
    · rw [← List.countP_eq_length_filter, List.countP_map]
      refine le_trans (List.countP_mono_left (fun y hy hyd => ?_)) (Copy.countP_core_le_one cs hn 64)
      by_contra h64
      refine hnone y hy ?_
      rwa [Function.comp_apply, if_neg (fun h => h64 (by simpa using h.1))] at hyd
    · obtain ⟨y, hy, rfl⟩ := List.mem_map.1 hx
      split at hxa
      · have hca : c.alone = true := hxa
        rw [ha] at hca
        cases hca
      · rename_i h
        have hone := hal y hy hxa
        dsimp only at hone ⊢
        rw [hone, List.map_singleton]

/-- A victim of a cache that the L3 takes in beside the other copies. -/
theorem Line.sound_addL3 (st : LineState) (cs : List Copy) (hcs : Line.sound ⟨st, cs⟩) (c : Copy) (hw : c.bytes.length = 64)
    (h64 : ∀ x ∈ cs, x.core ≠ 64) (hother : ∀ x ∈ cs, x.alone = false) (ha : c.alone = true → cs = [])
    (hd : c.isDirty = true → cs.find? Copy.isDirty = none) :
    Line.sound ⟨st, cs ++ [{ c with core := 64, hold := false, waits := false }]⟩ := by
  obtain ⟨hb, hn, hone, -⟩ := hcs
  refine ⟨fun x hx => ?_, ?_, ?_, fun x hx hxa => ?_⟩
  · rcases List.mem_append.1 hx with h | h
    · exact hb x h
    · rw [List.mem_singleton.1 h]; exact hw
  · rw [List.map_append]
    refine List.Nodup.append hn (List.nodup_singleton _) (fun k h1 h2 => ?_)
    obtain ⟨y, hy, rfl⟩ := List.mem_map.1 h1
    exact h64 y hy (by simpa using h2)
  · rw [List.filter_append, List.length_append]
    cases hcd : c.isDirty with
    | false =>
      rw [List.filter_singleton, show ((c.st == CopyState.m) || (c.st == CopyState.o)) = false from hcd]
      exact hone
    | true =>
      have hclean : cs.filter (fun x => x.st == .m || x.st == .o) = [] := List.filter_eq_nil_iff.2 (List.find?_eq_none.1 (hd hcd))
      rw [hclean]
      exact (Nat.zero_add _).trans_le (List.length_filter_le _ _)
  · rcases List.mem_append.1 hx with h | h
    · rw [hother x h] at hxa; cases hxa
    · rw [List.mem_singleton.1 h] at hxa ⊢
      dsimp only
      rw [ha hxa]
      rfl

/-- A victim of a cache in the L3. -/
theorem Line.toVictim_sound (l : Line) (hl : l.sound) (c : Copy) (hc : l.copyOf c.core = some c) : Line.sound { l with copies := l.toVictim c } := by
  obtain ⟨hm, -⟩ := l.copyOf_mem c.core c hc
  have hw : c.bytes.length = 64 := hl.1 c hm
  have hrest : Line.sound ⟨l.st, l.without c.core⟩ := l.sound_filter hl l.st _
  have hdirty := l.without_dirty hl c.core c hc
  have halone : c.alone = true → l.without c.core = [] := fun h => by
    rw [Line.without, hl.2.2.2 c hm h]
    simp
  unfold Line.toVictim
  split
  · rename_i hany
    refine Line.sound_replaceL3 _ _ hrest c hw ?_ hdirty
    by_contra h
    rw [halone (by simpa using h)] at hany
    cases hany
  · rename_i hany
    refine Line.sound_addL3 _ _ hrest c hw (fun x hx h => hany (List.any_eq_true.2 ⟨x, hx, by simpa using h⟩)) (fun x hx => ?_) halone hdirty
    by_contra h
    rw [hl.2.2.2 x (List.mem_filter.1 hx).1 (by simpa using h), List.mem_singleton] at hm
    exact l.core_of_mem_without c.core x hx (by rw [hm])

end Sys2Proof.Machine
end

section
/-! What every command keeps, in the shapes that the model's operations answer in: an outcome, an optional state, a state in a pair or behind an error. -/

namespace Sys2Proof.Machine

/-- What an update of other fields keeps. -/
theorem Keeps.of_fields {s t : State} (hp : t.pending = s.pending) (hm : t.mem = s.mem) (hr : t.regs = s.regs) (hd : t.dirLines = s.dirLines)
    (hk : t.keep = s.keep) : Keeps s t := by
  refine ⟨hp, fun h => ?_⟩
  unfold State.sound at h ⊢
  rw [hm, hr, hd, hk]
  exact h

/-- An operation that keeps the queue in every state, and more in a sound one. -/
theorem Keeps.of_sound {s t : State} (hp : t.pending = s.pending) (h : s.sound → Keeps s t) : Keeps s t := ⟨hp, fun x => (h x).sound x⟩

theorem Keeps.foldl_mem {α : Type} (f : State → α → State) (l : List α) (s : State) (hf : ∀ a ∈ l, ∀ x, Keeps x (f x a)) : Keeps s (l.foldl f s) := by
  induction l generalizing s with
  | nil => exact Keeps.refl s
  | cons a l ih => exact (hf a (List.mem_cons_self ..) s).trans (ih (f s a) (fun b hb => hf b (List.mem_cons_of_mem _ hb)))

/-- A directory entry set to a line that is sound where the state is. -/
theorem State.setLine_some_keeps (s : State) (a : Nat) (l : Line) (hl : s.sound → l.sound) : Keeps s (s.setLine a (some l)) :=
  State.setLine_keeps s a (some l) (fun h x e => by cases e; exact hl h)

/-- Copies of a line of the directory changed in place. -/
theorem State.setLine_map_keeps (s : State) (a : Nat) (l : Line) (hl : s.line a = some l) (st : LineState) (f : Copy → Copy) (hf : Copy.Tame f) :
    Keeps s (s.setLine a (some ⟨st, l.copies.map f⟩)) :=
  State.setLine_some_keeps s a _ (fun hs => l.sound_map (s.line_sound a l hs hl) st f hf)

/-! Updates of one field, stated of any state: where the state is itself a long computation, its other fields need not be evaluated. -/

theorem State.reply_keeps (s : State) (r : Option Word) : Keeps s { s with reply := r } := ⟨rfl, id⟩
theorem State.inLock_keeps (s : State) (n : Nat) : Keeps s { s with inLock := n } := ⟨rfl, id⟩
theorem State.cwErr_keeps (s : State) (l : List (Nat × Nat)) : Keeps s { s with cwErr := l } := ⟨rfl, id⟩
theorem State.alignSet_keeps (s : State) (b : Bool) : Keeps s { s with alignSet := b } := ⟨rfl, id⟩
theorem State.bias_keeps (s : State) (b : Option BiaRec) : Keeps s { s with bias := b } := ⟨rfl, id⟩
theorem State.flagWait_keeps (s : State) (l : List (Nat × Word)) : Keeps s { s with flagWait := l } := ⟨rfl, id⟩
theorem State.nodes_keeps (s : State) (l : List NodeTile) : Keeps s { s with nodes := l } := ⟨rfl, id⟩
theorem State.coreIrq_keeps (s : State) (l : List (Nat × Nat)) : Keeps s { s with coreIrq := l } := ⟨rfl, id⟩
theorem State.mailbox_keeps (s : State) (l : List MbxRec) : Keeps s { s with mailbox := l } := ⟨rfl, id⟩
theorem State.sample_keeps (s : State) (x : Option Sample) : Keeps s { s with sample := x } := ⟨rfl, id⟩
theorem State.joinAt_keeps (s : State) (l : List Nat) (n : Nat) : Keeps s { s with joins := l, joinAt := n } := ⟨rfl, id⟩

/-- A command takes effect, and the state after it keeps the queue and soundness. -/
def KeepsNext (s : State) (o : Outcome) : Prop := ∃ t, o = .next t ∧ Keeps s t

theorem KeepsNext.next {s t : State} (h : Keeps s t) : KeepsNext s (.next t) := ⟨t, rfl, h⟩

theorem KeepsNext.ite {s : State} {a b : Outcome} {c : Prop} [Decidable c] (ha : KeepsNext s a) (hb : KeepsNext s b) :
    KeepsNext s (if c then a else b) := by split <;> assumption

theorem KeepsNext.dite {s : State} {a b : Outcome} {c : Prop} [Decidable c] (ha : c → KeepsNext s a) (hb : ¬c → KeepsNext s b) :
    KeepsNext s (if c then a else b) := by
  split
  · exact ha ‹_›
  · exact hb ‹_›

theorem KeepsNext.after {s t : State} {o : Outcome} (h : Keeps s t) (g : KeepsNext t o) : KeepsNext s o := by
  obtain ⟨u, e, hu⟩ := g
  exact ⟨u, e, h.trans hu⟩

/-- An answer that carries a state beside another value keeps it. -/
def KeepsSnd {α : Type} (s : State) (p : α × State) : Prop := Keeps s p.2

theorem KeepsSnd.mk {α : Type} {s t : State} {a : α} (h : Keeps s t) : KeepsSnd s (a, t) := h

theorem KeepsSnd.ite {α : Type} {s : State} {a b : α × State} {c : Prop} [Decidable c] (ha : KeepsSnd s a) (hb : KeepsSnd s b) :
    KeepsSnd s (if c then a else b) := by split <;> assumption

theorem KeepsSnd.after {α : Type} {s t : State} {p : α × State} (h : Keeps s t) (g : KeepsSnd t p) : KeepsSnd s p := Keeps.trans h g

theorem KeepsSnd.of_eq {α : Type} {s t : State} {a : α} {p : α × State} (h : KeepsSnd s p) (e : p = (a, t)) : Keeps s t := by subst e; exact h

/-- An answer that carries a state before another value keeps it. -/
def KeepsFst {α : Type} (s : State) (p : State × α) : Prop := Keeps s p.1

theorem KeepsFst.mk {α : Type} {s t : State} {a : α} (h : Keeps s t) : KeepsFst s (t, a) := h

theorem KeepsFst.ite {α : Type} {s : State} {a b : State × α} {c : Prop} [Decidable c] (ha : KeepsFst s a) (hb : KeepsFst s b) :
    KeepsFst s (if c then a else b) := by split <;> assumption

theorem KeepsFst.after {α : Type} {s t : State} {p : State × α} (h : Keeps s t) (g : KeepsFst t p) : KeepsFst s p := Keeps.trans h g

theorem KeepsFst.of_eq {α : Type} {s t : State} {a : α} {p : State × α} (h : KeepsFst s p) (e : p = (t, a)) : Keeps s t := by subst e; exact h

/-- A state that an optional answer carries is kept. -/
def KeepsSome (s : State) (x : Option State) : Prop := ∀ t, x = some t → Keeps s t

theorem KeepsSome.some {s t : State} (h : Keeps s t) : KeepsSome s (some t) := fun u e => by cases e; exact h
theorem KeepsSome.none (s : State) : KeepsSome s none := fun u e => by cases e
theorem KeepsSome.ite {s : State} {a b : Option State} {c : Prop} [Decidable c] (ha : KeepsSome s a) (hb : KeepsSome s b) :
    KeepsSome s (if c then a else b) := by split <;> assumption
theorem KeepsSome.after {s t : State} {x : Option State} (h : Keeps s t) (g : KeepsSome t x) : KeepsSome s x := fun u e => h.trans (g u e)

/-- An outcome that an optional answer carries is one that a command may have. -/
def KeepsAnswer (s : State) (x : Option Outcome) : Prop := ∀ o, x = some o → KeepsNext s o

theorem KeepsAnswer.some {s : State} {o : Outcome} (h : KeepsNext s o) : KeepsAnswer s (some o) := fun u e => by cases e; exact h
theorem KeepsAnswer.none (s : State) : KeepsAnswer s none := fun u e => by cases e
theorem KeepsAnswer.ite {s : State} {a b : Option Outcome} {c : Prop} [Decidable c] (ha : KeepsAnswer s a) (hb : KeepsAnswer s b) :
    KeepsAnswer s (if c then a else b) := by split <;> assumption
theorem KeepsAnswer.after {s t : State} {x : Option Outcome} (h : Keeps s t) (g : KeepsAnswer t x) : KeepsAnswer s x := fun u e => (g u e).after h

/-- A state that an answer carries, at the place `π`, unless it is an error, is kept. -/
def KeepsIn {ε α : Type} (π : α → State) (s : State) (x : Except ε α) : Prop := ∀ a, x = .ok a → Keeps s (π a)

theorem KeepsIn.ok {ε α : Type} {π : α → State} {s : State} {a : α} (h : Keeps s (π a)) : KeepsIn (ε := ε) π s (.ok a) := fun u e => by cases e; exact h
theorem KeepsIn.error {ε α : Type} (π : α → State) (s : State) (e : ε) : KeepsIn π s (.error e) := fun u h => by cases h
theorem KeepsIn.ite {ε α : Type} {π : α → State} {s : State} {a b : Except ε α} {c : Prop} [Decidable c] (ha : KeepsIn π s a) (hb : KeepsIn π s b) :
    KeepsIn π s (if c then a else b) := by split <;> assumption
theorem KeepsIn.after {ε α : Type} {π : α → State} {s t : State} {x : Except ε α} (h : Keeps s t) (g : KeepsIn π t x) : KeepsIn π s x :=
  fun u e => h.trans (g u e)
/-- A value without a state is computed first. -/
theorem KeepsIn.bind {ε α β : Type} {π : β → State} {s : State} {x : Except ε α} {f : α → Except ε β} (h : ∀ a, KeepsIn π s (f a)) :
    KeepsIn π s (x >>= f) := by
  intro u e
  cases x with
  | error _ => cases e
  | ok a => exact h a u e
/-- One step with a state after another. -/
theorem KeepsIn.seq {ε α β : Type} {π : α → State} {ρ : β → State} {s : State} {x : Except ε α} {f : α → Except ε β} (h : KeepsIn π s x)
    (g : ∀ a, KeepsIn ρ (π a) (f a)) : KeepsIn ρ s (x >>= f) := by
  intro u e
  cases x with
  | error _ => cases e
  | ok a => exact (h a rfl).trans (g a u e)
theorem KeepsOk.seq {ε α : Type} {π : α → State} {s : State} {x : Except ε α} {f : α → Except ε State} (h : KeepsIn π s x)
    (g : ∀ a, KeepsOk (π a) (f a)) : KeepsOk s (x >>= f) := by
  intro u e
  cases x with
  | error _ => cases e
  | ok a => exact (h a rfl).trans (g a u e)
theorem KeepsOk.keepsIn {ε : Type} {s : State} {x : Except ε State} (h : KeepsOk s x) : KeepsIn (fun t => t) s x := h

theorem KeepsNext.of_eq {s t : State} {o : Outcome} (h : KeepsNext s o) (e : o = .next t) : Keeps s t := by
  obtain ⟨u, hu, k⟩ := h
  rw [hu] at e
  cases e
  exact k

/-- An access that names its slot where it fails. -/
theorem slotted_keepsIn {α : Type} {π : α → State} {s : State} (k a : Nat) {x : Except Fail α} (h : KeepsIn π s x) : KeepsIn π s (slotted k a x) := by
  intro u e
  cases x with
  | ok v => exact h u (by cases e; rfl)
  | error f => cases e

theorem slotted_keepsOk {s : State} (k a : Nat) {x : Except Fail State} (h : KeepsOk s x) : KeepsOk s (slotted k a x) := slotted_keepsIn k a h

theorem State.atomicAt_keepsIn (s : State) (a n : Nat) (flt : Bool) (f : Nat → Nat) (w : Option (Nat × Nat × Nat)) :
    KeepsIn Prod.snd s (s.atomicAt a n flt f w) := fun p e => State.atomicAt_keeps s a n flt f w p.1 p.2 e

theorem State.seqJoin_keepsSome (s : State) (o : OpRec) : KeepsSome s (s.seqJoin o) := fun t e => State.seqJoin_keeps s o t e

/-- A work command whose detectors and units of work keep the queue and soundness. -/
theorem State.workOn_keepsIn (s : State) (meet : State → State × Bool) (cls op q sn unit first n : Nat)
    (f : OpRec → State → Nat → Except WorkFail (OpRec × State)) (hm : ∀ t, KeepsFst t (meet t)) (hf : ∀ o t u, KeepsIn Prod.snd t (f o t u)) :
    Keeps s (s.workOn meet cls op q sn unit first n f) :=
  State.workOn_keeps s meet cls op q sn unit first n f (hm s) (fun o t u o2 t2 e => hf o t u (o2, t2) e)

theorem State.perform_keepsIn (q sn unit : Nat) (f : OpRec → State → Nat → Except WorkFail (OpRec × State)) (n u : Nat) (s : State)
    (hf : ∀ o t u, KeepsIn Prod.snd t (f o t u)) : Keeps s (s.perform q sn unit f u n) :=
  State.perform_keeps q sn unit f (fun o t u o2 t2 e => hf o t u (o2, t2) e) n u s

/-- One outcome after another. -/
theorem andThen_keeps {s : State} {o : Outcome} {f : State → Outcome} (h : KeepsNext s o) (g : ∀ t, KeepsNext t (f t)) : KeepsNext s (andThen o f) := by
  obtain ⟨t, e, ht⟩ := h
  rw [e]
  exact (g t).after ht

/-- A change made for every number below a bound. -/
theorem State.each_keeps (s : State) (n : Nat) (f : State → Nat → State) (h : ∀ x k, Keeps x (f x k)) : Keeps s (s.each n f) := Keeps.foldl _ h _ s

/-- A change made under a condition. -/
theorem State.cond_keeps (s : State) (b : Bool) (f : State → State) (h : ∀ t, Keeps t (f t)) : Keeps s (s.cond b f) := by
  unfold State.cond
  exact Keeps.ite (h s) (Keeps.refl s)

end Sys2Proof.Machine
end

section
/-! What every command keeps: ops and pieces. -/

namespace Sys2Proof.Machine

theorem State.msixExpire_keeps (s : State) : Keeps s s.msixExpire := by
  unfold State.msixExpire
  extract_lets old
  refine Keeps.trans ?_ (Keeps.foldl _ (fun x a => ?_) _ _)
  · exact ⟨rfl, id⟩
  · exact State.bump_keeps _ _ _ _ _

theorem State.maskVector_keeps (s : State) (v : Nat) (masked : Bool) : Keeps s (s.maskVector v masked) := by
  unfold State.maskVector
  extract_lets s1
  have hs1 : Keeps s s1 := ⟨rfl, id⟩
  clear_value s1
  refine Keeps.ite ?_ hs1
  refine Keeps.trans ?_ ((State.signal_inFaults _ _).keeps)
  exact hs1.trans ⟨rfl, id⟩

theorem State.arm_keeps (s : State) (reg kind target : Nat) : Keeps s (s.arm reg kind target) := by
  unfold State.arm
  exact ⟨rfl, id⟩

theorem State.syncWin_keeps (s : State) : Keeps s s.syncWin := by
  unfold State.syncWin
  exact State.wr_keeps _ _ _

end Sys2Proof.Machine
end

section
/-! What every command keeps: ports. -/

namespace Sys2Proof.Machine

theorem State.sendOn_keeps (s : State) (port typ : Nat) (xs : List Block) : Keeps s (s.sendOn port typ xs) := by
  induction xs generalizing s with
  | nil =>
    rw [State.sendOn]
    exact Keeps.refl _
  | cons x xs ih =>
    rw [State.sendOn]
    exact (State.sendBlock_keeps _ _ _ _).trans (ih _)

end Sys2Proof.Machine
end

section
/-! What every command keeps: the program of an op. -/

namespace Sys2Proof.Machine

theorem State.releasePlanes_keeps (s : State) (o : OpRec) : Keeps s (s.releasePlanes o) := by
  unfold State.releasePlanes
  exact ⟨rfl, id⟩

theorem State.pieceFails_keeps (s : State) (q sn unit : Nat) : Keeps s (s.pieceFails q sn unit) := by
  unfold State.pieceFails
  exact State.pieces_keeps _ _

theorem unmet_keeps (s : State) : KeepsFst s (unmet s) := by
  unfold unmet
  exact KeepsFst.mk (Keeps.refl _)

theorem State.setTotal_keeps (s : State) (u dir v : Nat) : Keeps s (s.setTotal u dir v) := by
  unfold State.setTotal
  exact ⟨rfl, id⟩

theorem State.retotal_keeps (s : State) (u dir : Nat) : Keeps s (s.retotal u dir) := by
  unfold State.retotal
  extract_lets cap
  dsimp -zeta only
  exact (State.pieces_keeps _ _).trans (State.setTotal_keeps _ _ _ _)

theorem State.recap_keeps (s : State) (f : State → State) (h : ∀ t, Keeps t (f t)) : Keeps s (s.recap f) := by
  unfold State.recap
  extract_lets old t
  have ht : Keeps s t := h s
  clear_value t
  exact Keeps.ite ht (ht.trans (State.each_keeps _ _ _ (fun x k => State.retotal_keeps _ _ _)))

end Sys2Proof.Machine
end

section
/-! What every command keeps: queues and rings. -/

namespace Sys2Proof.Machine

theorem execDoorbell_keeps (q : Nat) (t : BitVec 32) (s : State) : KeepsNext s (execDoorbell q t s) := by
  unfold execDoorbell
  exact KeepsNext.ite (KeepsNext.next (State.put_keeps _ _ _ _ _)) (KeepsNext.next (State.putBit_keeps _ _ _ _))

theorem execEnSet_keeps (q : Nat) (s : State) : KeepsNext s (execEnSet q s) := by
  unfold execEnSet
  exact KeepsNext.ite (KeepsNext.next (Keeps.refl _)) (KeepsNext.ite (KeepsNext.next (State.putBit_keeps _ _ _ _)) (KeepsNext.next
    (State.putBit_keeps _ _ _ _)))

theorem execEnClear_keeps (q : Nat) (s : State) : KeepsNext s (execEnClear q s) := by
  unfold execEnClear
  exact KeepsNext.next (State.putBit_keeps _ _ _ _)

theorem State.ringRecord_keeps (s : State) (f : Fail) (a : Nat) (op : Option (Nat × Nat × Nat)) (told : Bool) : Keeps s (s.ringRecord f a op told)
  := by
  unfold State.ringRecord
  split
  · exact (State.event_inFaults _ _ _ _).keeps
  · exact State.readRecord_keeps _ _ _ _ _

theorem State.cancelSlot_keeps (s : State) (q sn : Nat) (r : Except Fail (List Word)) : Keeps s (s.cancelSlot q sn r) := by
  unfold State.cancelSlot
  cases r with
  | ok ws => exact (State.ops_keeps _ _).trans (State.endOp_keeps _ _ _ _ _)
  | error f => exact ((State.ringRecord_keeps s _ _ _ _).trans (State.ops_keeps _ _)).trans (State.endOp_keeps _ _ _ _ _)

theorem State.cancelSlots_keeps (s : State) (q sn n : Nat) : Keeps s (s.cancelSlots q sn n) := by
  induction n generalizing s q sn with
  | zero =>
    rw [State.cancelSlots]
    exact Keeps.refl _
  | succ n ih =>
    rw [State.cancelSlots]
    split
    · exact ⟨rfl, id⟩
    · exact (State.cancelSlot_keeps _ _ _ _).trans (ih _ _ _)

theorem State.cancelRest_keeps (s : State) (q : Nat) : Keeps s (s.cancelRest q) := by
  unfold State.cancelRest
  split
  · exact Keeps.refl _
  · refine Keeps.trans ?_ (State.cancelSlots_keeps _ _ _ _)
    exact ⟨rfl, id⟩

theorem State.cancelOps_keeps (s : State) (q : Nat) (xs : List OpRec) : Keeps s (s.cancelOps q xs) := by
  induction xs generalizing s with
  | nil =>
    rw [State.cancelOps]
    exact Keeps.refl _
  | cons x xs ih =>
    rw [State.cancelOps]
    exact (Keeps.ite (State.endOp_keeps _ _ _ _ _) (Keeps.refl _)).trans (ih _)

theorem execFlush_keeps (q : Nat) (s : State) : KeepsNext s (execFlush q s) := by
  unfold execFlush
  refine KeepsNext.ite (KeepsNext.next (Keeps.refl _)) ?_
  extract_lets s1 s2 s3 head
  have hs1 : Keeps s s1 := State.putBit_keeps _ _ _ _
  clear_value s1
  have hs2 : Keeps s s2 := hs1.trans ⟨rfl, id⟩
  clear_value s2
  have hs3 : Keeps s s3 := hs2.trans (State.cancelOps_keeps _ _ _)
  clear_value s3
  exact KeepsNext.next ((hs3.trans (State.cancelSlots_keeps _ _ _ _)).trans (State.syncQ_keeps _ _))

theorem execFlushEnd_keeps (q : Nat) (s : State) : KeepsNext s (execFlushEnd q s) := by
  unfold execFlushEnd
  refine KeepsNext.ite (KeepsNext.next ((Keeps.ite (State.cancelRest_keeps _ _) (Keeps.refl _)).trans (State.syncQ_keeps _ _))) ?_
  extract_lets s1 s2 t s3 s4 s5
  have hs1 : Keeps s s1 := State.releaseAll_keeps _ _ _
  clear_value s1
  have hs2 : Keeps s s2 := ((hs1.trans (State.putBit_keeps _ _ _ _)).trans (State.putBit_keeps _ _ _ _)).trans (State.putBit_keeps _ _ _ _)
  clear_value s2
  have hs3 : Keeps s s3 := (hs2.trans (State.put_keeps _ _ _ _ _)).trans (State.put_keeps _ _ _ _ _)
  clear_value s3
  have hs4 : Keeps s s4 := hs3.trans (State.ops_keeps _ _)
  clear_value s4
  have hs5 : Keeps s s5 := Keeps.ite ((hs4.trans (State.putBit_keeps _ _ _ _)).trans (State.putBit_keeps _ _ _ _)) hs4
  clear_value s5
  exact KeepsNext.next ((hs5.trans (State.noteDeps_keeps _)).trans (State.syncQ_keeps _ _))

theorem execResume_keeps (q : Nat) (s : State) : KeepsNext s (execResume q s) := by
  unfold execResume
  refine KeepsNext.ite ?_ (KeepsNext.next (Keeps.refl _))
  extract_lets s1 s2
  have hs1 : Keeps s s1 := (State.putBit_keeps _ _ _ _).trans (State.putBit_keeps _ _ _ _)
  clear_value s1
  have hs2 : Keeps s s2 := hs1.trans ⟨rfl, id⟩
  clear_value s2
  exact KeepsNext.next (((hs2.trans (State.release_keeps _ _)).trans (State.noteDeps_keeps _)).trans (State.syncQ_keeps _ _))

theorem execProducerTakenIn_keeps (q : Nat) (s : State) : KeepsNext s (execProducerTakenIn q s) := by
  unfold execProducerTakenIn
  exact KeepsNext.next ⟨rfl, id⟩

theorem execNop_keeps (q sn : Nat) (s : State) : KeepsNext s (execNop q sn s) := by
  unfold execNop
  split
  · exact KeepsNext.next (Keeps.refl _)
  · exact KeepsNext.ite (KeepsNext.next (State.startIdle_keeps _ _ _)) (KeepsNext.next (Keeps.refl _))

theorem execOpStart_keeps (q sn : Nat) (s : State) : KeepsNext s (execOpStart q sn s) := by
  unfold execOpStart
  split
  · exact KeepsNext.next (Keeps.refl _)
  · exact KeepsNext.ite (KeepsNext.ite (KeepsNext.ite (KeepsNext.next (State.startIdle_keeps _ _ _)) (KeepsNext.next (Keeps.refl _))) (KeepsNext.ite
      (KeepsNext.next (State.startOp_keeps _ _)) (KeepsNext.next (Keeps.refl _)))) (KeepsNext.next (Keeps.refl _))

theorem execWait_keeps (q sn : Nat) (s : State) : KeepsNext s (execWait q sn s) := by
  unfold execWait
  split
  · exact KeepsNext.next (Keeps.refl _)
  · exact KeepsNext.ite (KeepsNext.next ((State.startOp_keeps _ _).trans (State.beginOp_keeps _ _ _))) (KeepsNext.next (Keeps.refl _))

theorem State.waitPoll_keeps (s : State) (o : OpRec) (x : Obj) : Keeps s (s.waitPoll o x) := by
  unfold State.waitPoll
  split
  · exact Keeps.ite (State.endOp_keeps _ _ _ _ _) (Keeps.refl _)
  · exact Keeps.ite (State.endOp_keeps _ _ _ _ _) (Keeps.refl _)
  · exact (State.failRecord_keeps _ _ _ _).trans (State.failOp_keeps _ _ _ _ _)
  · exact Keeps.ite ((State.mapOp_keeps _ _ _ _).trans (State.endOp_keeps _ _ _ _ _)) (Keeps.ite ((State.mapOp_keeps _ _ _ _).trans
      (State.endOp_keeps _ _ _ _ _)) (Keeps.ite ((State.mapOp_keeps _ _ _ _).trans (State.endOp_keeps _ _ _ _ _)) (State.mapOp_keeps _ _ _ _)))

theorem execWaitRead_keeps (q sn : Nat) (errs : List (Nat × Nat)) (s : State) : KeepsNext s (execWaitRead q sn errs s) := by
  unfold execWaitRead
  split
  · exact KeepsNext.next (Keeps.refl _)
  · split
    · exact KeepsNext.next (Keeps.refl _)
    · exact KeepsNext.ite (KeepsNext.next ((State.unitErrors_keeps _ _ _).trans (State.waitPoll_keeps _ _ _))) (KeepsNext.next (Keeps.refl _))

theorem State.writeRing_keeps (s : State) (wins : List (Nat × Nat × Nat)) (a : Nat) (bs : List Byte) : KeepsOk s (s.writeRing wins a bs) := by
  unfold State.writeRing
  split
  · exact KeepsOk.ite (State.writeMem_keeps _ _ _ _) (KeepsOk.error _ _)
  · exact KeepsOk.ite (State.writeMem_keeps _ _ _ _) (KeepsOk.error _ _)
  · exact State.writeMem_keeps _ _ _ _

theorem State.writeFlag_keeps (s : State) (o : OpRec) : Keeps s (s.writeFlag o) := by
  unfold State.writeFlag
  extract_lets a v
  refine Keeps.ite (Keeps.refl _) ?_
  split
  · rename_i t e
    have ht : Keeps s t := (State.writeRing_keeps _ _ _ _) _ e
    exact ht
  · exact State.flagWait_keeps _ _
  · exact State.flagWait_keeps _ _
  · exact (State.readRecord_keeps _ _ _ _ _).trans (State.putBit_keeps _ _ _ _)

theorem State.recorded_keeps (s : State) (o : OpRec) : Keeps s (s.recorded o) := by
  unfold State.recorded
  extract_lets q s1 s2 s3 s4 s5 s6 s7
  have hs1 : Keeps s s1 := State.put_keeps _ _ _ _ _
  clear_value s1
  have hs2 : Keeps s s2 := hs1.trans (State.mapOp_keeps _ _ _ _)
  clear_value s2
  have hs3 : Keeps s s3 := hs2.trans ⟨rfl, id⟩
  clear_value s3
  have hs4 : Keeps s s4 := hs3.trans (State.writeFlag_keeps _ _)
  clear_value s4
  have hs5 : Keeps s s5 := Keeps.ite (hs4.trans ((State.signal_inFaults _ _).keeps)) hs4
  clear_value s5
  have hs6 : Keeps s s6 := hs5.trans (State.retireOps_keeps _ _ _)
  clear_value s6
  have hs7 : Keeps s s7 := Keeps.ite (hs6.trans (State.ops_keeps _ _)) hs6
  clear_value s7
  exact ((hs7.trans (State.noteDeps_keeps _)).trans (State.settle_keeps _)).trans (State.syncQ_keeps _ _)

theorem execCompletionRecord_keeps (q sn : Nat) (s : State) : KeepsNext s (execCompletionRecord q sn s) := by
  unfold execCompletionRecord
  split
  · exact KeepsNext.next (Keeps.refl _)
  · refine KeepsNext.ite ?_ (KeepsNext.next (Keeps.refl _))
    extract_lets tail a
    split
    · rename_i t e
      have ht : Keeps s t := (State.writeRing_keeps _ _ _ _) _ e
      exact KeepsNext.next (ht.trans (State.recorded_keeps _ _))
    · exact KeepsNext.next (Keeps.refl _)
    · exact KeepsNext.next (Keeps.refl _)
    · exact KeepsNext.next (((State.readRecord_keeps _ _ _ _ _).trans (State.ringFails_keeps _ _ _ _)).trans (Keeps.of_fields rfl rfl rfl rfl rfl))

end Sys2Proof.Machine
end

section
/-! What every command keeps: moves. -/

namespace Sys2Proof.Machine

theorem State.cleanGroup_keeps (s : State) (g : Nat) : Keeps s (s.cleanGroup g) := by
  unfold State.cleanGroup
  refine Keeps.of_sound ?_ (fun hs => Keeps.foldl_mem _ _ _ (fun e he x => ?_))
  · generalize s.dirLines.filter (fun e => e.1 / 2 ^ 15 == g) = es
    induction es generalizing s with
    | nil => rfl
    | cons e es ih =>
      rw [List.foldl_cons, ih]
      split
      · rename_i l _
        split
        · rename_i c _
          obtain ⟨r, h⟩ := (s.writeBack (64 * e.1) c).setLine_frame (64 * e.1) (some l.clean)
          rw [h]
          exact (State.writeBack_keeps s _ c).pending
        · rfl
      · rfl
  · split
    · rename_i l hl
      have hsound : l.sound := hs.2.2.1 e (List.mem_filter.1 he).1 l hl
      split
      · exact (State.writeBack_keeps _ _ _).trans (State.setLine_some_keeps _ _ _ (fun _ => l.clean_sound hsound))
      · exact Keeps.refl _
    · exact Keeps.refl _

theorem State.moveTo_keeps (s : State) (g tier stack : Nat) : Keeps s (s.moveTo g tier stack) := by
  unfold State.moveTo
  extract_lets s1 e s2 keep s3 slot s4 s5 s6 pin
  have hs1 : Keeps s s1 := State.cleanGroup_keeps _ _
  clear_value s1
  have hs2 : Keeps s s2 := Keeps.ite (hs1.trans (State.put_keeps _ _ _ _ _)) (hs1.trans (State.put_keeps _ _ _ _ _))
  clear_value s2
  have hs3 : Keeps s s3 := hs2.trans (State.setTir_keeps _ _ _)
  clear_value s3
  have hs4 : Keeps s s4 := Keeps.ite ((hs3.trans (State.setTir_keeps _ _ _)).trans (State.recode_keeps _ _ _)) ((hs3.trans (State.setTir_keeps _ _
    _)).trans (State.put_keeps _ _ _ _ _))
  clear_value s4
  have hs5 : Keeps s s5 := hs4.trans ⟨rfl, id⟩
  clear_value s5
  have hs6 : Keeps s s6 := hs5.trans (State.bump_keeps _ _ _ _ _)
  clear_value s6
  exact hs6.trans (State.cond_keeps _ _ _ (fun t => State.bump_keeps _ _ _ _ _))

theorem State.bringTo_keeps (s : State) (n : Nat) (xs : List Nat) : Keeps s (s.bringTo n xs) := by
  induction xs generalizing s with
  | nil =>
    rw [State.bringTo]
    exact Keeps.refl _
  | cons x xs ih =>
    rw [State.bringTo]
    exact (Keeps.ite (State.moveTo_keeps _ _ _ _) (Keeps.refl _)).trans (ih _)

end Sys2Proof.Machine
end

section
/-! What every command keeps: detectors. -/

namespace Sys2Proof.Machine

theorem State.engineFault_keeps (s : State) (u det : Nat) (inj : Bool) (info : Nat) : Keeps s (s.engineFault u det inj info) := by
  unfold State.engineFault
  exact (State.detect_inFaults _ _).keeps

theorem State.engineStop_keeps (s : State) (u : Nat) : Keeps s (s.engineStop u) := by
  unfold State.engineStop
  exact (State.unitOut_keeps _ _).trans (State.putBit_keeps _ _ _ _)

theorem State.syncTq_keeps (s : State) (vxe : Nat) : Keeps s (s.syncTq vxe) := by
  unfold State.syncTq
  exact State.put_keeps _ _ _ _ _

theorem State.queueLost_keeps (s : State) (n : Nat) : Keeps s (s.queueLost n) := by
  unfold State.queueLost
  exact (State.unitOutWith_keeps _ _ _).trans (State.syncTq_keeps _ _)

theorem State.pairStop_keeps (s : State) (n : Nat) : Keeps s (s.pairStop n) := by
  unfold State.pairStop
  exact (((((State.putBit_keeps _ _ _ _).trans (State.putBit_keeps _ _ _ _)).trans (State.queueLost_keeps _ _)).trans (State.unitOut_keeps _
    _)).trans (State.syncTq_keeps _ _)).trans (State.putBit_keeps _ _ _ _)

theorem State.columnError_keeps (s : State) (mxe quad col : Nat) (inj : Bool) : Keeps s (s.columnError mxe quad col inj) := by
  unfold State.columnError
  exact ((State.bump_keeps _ _ _ _ _).trans (State.engineFault_keeps _ _ _ _ _)).trans (State.engineStop_keeps _ _)

theorem State.passError_keeps (s : State) (mxe quad det : Nat) (inj : Bool) : Keeps s (s.passError mxe quad det inj) := by
  unfold State.passError
  exact ((State.bump_keeps _ _ _ _ _).trans (State.engineFault_keeps _ _ _ _ _)).trans (State.engineStop_keeps _ _)

theorem State.slotError_keeps (s : State) (mxe quad : Nat) (two inj : Bool) : Keeps s (s.slotError mxe quad two inj) := by
  unfold State.slotError
  exact Keeps.ite (((State.bump_keeps _ _ _ _ _).trans (State.engineFault_keeps _ _ _ _ _)).trans (State.engineStop_keeps _ _)) ((State.bump_keeps _
    _ _ _ _).trans ((State.countDet_inFaults _ _ _).keeps))

theorem State.pairError_keeps (s : State) (vxe det : Nat) (inj : Bool) : Keeps s (s.pairError vxe det inj) := by
  unfold State.pairError
  exact Keeps.ite ((State.bump_keeps _ _ _ _ _).trans ((State.countDet_inFaults _ _ _).keeps)) (((Keeps.ite (State.bump_keeps _ _ _ _ _) (Keeps.ite
    (State.bump_keeps _ _ _ _ _) (State.bump_keeps _ _ _ _ _))).trans (State.engineFault_keeps _ _ _ _ _)).trans (State.pairStop_keeps _ _))

theorem State.asqError_keeps (s : State) (die det : Nat) (inj : Bool) : Keeps s (s.asqError die det inj) := by
  unfold State.asqError
  exact ((Keeps.ite (State.bump_keeps _ _ _ _ _) (State.bump_keeps _ _ _ _ _)).trans (State.engineFault_keeps _ _ _ _ _)).trans
    (State.engineStop_keeps _ _)

theorem State.stemError_keeps (s : State) (die det : Nat) (inj : Bool) : Keeps s (s.stemError die det inj) := by
  unfold State.stemError
  exact ((State.bump_keeps _ _ _ _ _).trans (State.engineFault_keeps _ _ _ _ _)).trans (State.engineStop_keeps _ _)

theorem State.uuError_keeps (s : State) (n det : Nat) (inj : Bool) : Keeps s (s.uuError n det inj) := by
  unfold State.uuError
  exact ((State.bump_keeps _ _ _ _ _).trans (State.engineFault_keeps _ _ _ _ _)).trans (State.engineStop_keeps _ _)

/-- What work meets of an armed injection: the one found is disarmed, and its own effect follows. -/
theorem State.meet_keeps (s : State) (f : Armed → Option (State → State × Bool)) (h : ∀ a g, f a = some g → ∀ t, KeepsFst t (g t)) :
    KeepsFst s (s.meet f) := by
  unfold State.meet
  split
  · exact KeepsFst.mk (Keeps.refl _)
  · split
    · exact KeepsFst.mk (Keeps.refl _)
    · rename_i a _ _ g e
      exact KeepsFst.after (State.disarm_inFaults _ _ _ _).keeps (h a g e _)

theorem State.meetQuad_keeps (s : State) (mxe quad : Nat) (starts : Bool) : KeepsFst s (s.meetQuad mxe quad starts) := by
  unfold State.meetQuad
  refine State.meet_keeps _ _ (fun a g e t => ?_)
  split_ifs at e <;> cases e
  · exact State.columnError_keeps _ _ _ _ _
  · exact State.passError_keeps _ _ _ _ _
  · exact State.slotError_keeps _ _ _ _ _

theorem State.meetVxe_keeps (s : State) (vxe : Nat) (kinds : List Nat) : KeepsFst s (s.meetVxe vxe kinds) := by
  unfold State.meetVxe
  refine State.meet_keeps _ _ (fun a g e t => ?_)
  split_ifs at e
  cases e
  exact State.pairError_keeps _ _ _ _

theorem State.meetAsq_keeps (s : State) (die : Nat) : KeepsFst s (s.meetAsq die) := by
  unfold State.meetAsq
  refine State.meet_keeps _ _ (fun a g e t => ?_)
  split_ifs at e
  cases e
  exact State.asqError_keeps _ _ _ _

theorem State.meetStem_keeps (s : State) (die : Nat) : KeepsFst s (s.meetStem die) := by
  unfold State.meetStem
  refine State.meet_keeps _ _ (fun a g e t => ?_)
  split_ifs at e
  cases e
  exact State.stemError_keeps _ _ _ _

theorem State.meetUu_keeps (s : State) (n : Nat) : KeepsFst s (s.meetUu n) := by
  unfold State.meetUu
  refine State.meet_keeps _ _ (fun a g e t => ?_)
  split_ifs at e
  cases e
  exact State.uuError_keeps _ _ _ _

end Sys2Proof.Machine
end

section
/-! What every command keeps: matrix products. -/

namespace Sys2Proof.Machine

theorem State.feed_keeps (s : State) (e : TileEntry) : Keeps s (s.feed e) := by
  unfold State.feed
  refine Keeps.ite ?_ (⟨rfl, id⟩)
  refine Keeps.trans ?_ (State.syncTq_keeps _ _)
  exact ⟨rfl, id⟩

theorem execTileQueueRoom_keeps (unit : Nat) (s : State) : KeepsNext s (execTileQueueRoom unit s) := by
  unfold execTileQueueRoom
  split
  · exact KeepsNext.next (Keeps.refl _)
  · refine KeepsNext.ite ?_ (KeepsNext.next (Keeps.refl _))
    refine KeepsNext.next ?_
    refine Keeps.trans ?_ (State.bump_keeps _ _ _ _ _)
    refine Keeps.trans ?_ (State.syncTq_keeps _ _)
    exact ⟨rfl, id⟩

theorem State.countOvf_keeps (s : State) (unit k : Nat) : Keeps s (s.countOvf unit k) := by
  unfold State.countOvf
  exact Keeps.ite (State.bump_keeps _ _ _ _ _) (Keeps.refl _)

theorem State.finishTile_keeps (s : State) (o : OpRec) (x : Shape) (d : Obj) (unit vxe piece quad work : Nat) (bads : List Bool) (f : Nat → Nat →
  Node) : Keeps s (s.finishTile o x d unit vxe piece quad work bads f) := by
  unfold State.finishTile
  dsimp -zeta only
  exact Keeps.ite (State.nodes_keeps _ _) (Keeps.ite (Keeps.refl _) (State.feed_keeps _ _))

theorem State.combine_keeps (s : State) (o : OpRec) (x : Shape) (d : Obj) (work : Nat) : Keeps s (s.combine o x d work) := by
  unfold State.combine
  split
  · exact Keeps.refl _
  · dsimp -zeta only
    exact Keeps.ite (Keeps.refl _) ((((State.nodes_keeps _ _).trans (State.countOvf_keeps _ _ _)).trans (State.cond_keeps _ _ _ (fun t =>
      State.bump_keeps _ _ _ _ _))).trans (State.finishTile_keeps _ _ _ _ _ _ _ _ _ _ _))

theorem State.closeTile_keeps (s : State) (o : OpRec) (x : Shape) (d : Obj) (unit vxe piece quad work lo hi : Nat) : Keeps s (s.closeTile o x d unit
  vxe piece quad work lo hi) := by
  unfold State.closeTile
  dsimp -zeta only
  extract_lets bs s1 bads n
  have hs1 : Keeps s s1 := ⟨rfl, id⟩
  clear_value s1
  exact Keeps.ite (Keeps.refl _) (Keeps.ite (hs1.trans (State.finishTile_keeps _ _ _ _ _ _ _ _ _ _ _)) ((hs1.trans (State.nodes_keeps _ _)).trans
    (State.combine_keeps _ _ _ _ _)))

theorem State.streamStep_keeps (s : State) (o : OpRec) (x : Shape) (d : Obj) (p : PieceRec) (k : Run) (src : Source) : KeepsOk s (s.streamStep o x d
  p k src) := by
  unfold State.streamStep
  extract_lets n gs
  dsimp -zeta only
  extract_lets r work mine jp jp1
  have hjp : ∀ y, KeepsOk y (jp y) := by
    intro y
    subst jp
    beta_reduce
    split
    · exact KeepsOk.error _ _
    · refine KeepsOk.bind (fun a _ => ?_)
      extract_lets s1 s2
      have hs1 : Keeps y s1 := ⟨rfl, id⟩
      clear_value s1
      have hs2 : Keeps y s2 := hs1.trans (State.countOvf_keeps _ _ _)
      clear_value s2
      exact KeepsOk.ok (Keeps.ite (hs2.trans (State.closeTile_keeps _ _ _ _ _ _ _ _ _ _ _)) hs2)
  clear_value jp
  have hjp1 : ∀ x, KeepsOk s (jp1 x) := by
    intro x
    subst jp1
    beta_reduce
    refine KeepsOk.bind (fun a _ => ?_)
    refine KeepsOk.seq (KeepsOk.keepsIn (KeepsOk.ok ⟨rfl, id⟩)) ?_
    intro t
    exact hjp _
  clear_value jp1
  refine KeepsOk.ite ?_ ?_
  · refine KeepsOk.ite ?_ (hjp1 _)
    refine KeepsOk.bind (fun a _ => ?_)
    exact hjp1 _
  · refine KeepsOk.seq (KeepsOk.keepsIn (KeepsOk.ok (Keeps.refl _))) ?_
    intro t
    exact hjp _

theorem State.stream_keeps (s : State) (cls op q sn unit quad : Nat) (shape : OpRec → Option (Shape × Obj)) (src : OpRec → State → Source) (n : Nat)
  : Keeps s (s.stream cls op q sn unit quad shape src n) := by
  induction n generalizing s with
  | zero =>
    rw [State.stream]
    exact Keeps.refl _
  | succ n ih =>
    rw [State.stream]
    split
    · split
      · exact Keeps.refl _
      · refine Keeps.ite (Keeps.refl _) ?_
        extract_lets starts
        split
        · rename_i t u e
          have hu : Keeps s u := KeepsFst.of_eq (State.meetQuad_keeps _ _ _ _) e
          exact hu
        · rename_i t u e
          have hu : Keeps s u := KeepsFst.of_eq (State.meetQuad_keeps _ _ _ _) e
          split
          · exact hu.trans (State.workFails_keeps _ _ _ _)
          · rename_i v e2
            have hv : Keeps s v := (KeepsOk.after hu (State.streamStep_keeps _ _ _ _ _ _ _)) _ e2
            exact (hv.trans (State.pieces_keeps _ _)).trans (ih _)
    · exact Keeps.refl _

theorem streamOn_keeps (cls op q sn unit vxe quad n : Nat) (shape : OpRec → Option (Shape × Obj)) (src : OpRec → State → Source) (s : State) :
  KeepsNext s (streamOn cls op q sn unit vxe quad n shape src s) := by
  unfold streamOn
  exact KeepsNext.ite (KeepsNext.next ((State.stream_keeps _ _ _ _ _ _ _ _ _ _).trans (State.settle_keeps _))) (KeepsNext.next (Keeps.refl _))

theorem execMatmul_keeps (q sn unit vxe quad n : Nat) (s : State) : KeepsNext s (execMatmul q sn unit vxe quad n s) := by
  unfold execMatmul
  exact streamOn_keeps _ _ _ _ _ _ _ _ _ _ _

theorem rowMiss_keeps (unit : Nat) (o : OpRec) (s : State) (row : Nat) : KeepsSnd s (rowMiss unit o s row) := by
  unfold rowMiss
  exact KeepsSnd.ite (KeepsSnd.mk (State.bump_keeps _ _ _ _ _)) (KeepsSnd.ite (KeepsSnd.mk ((State.put_keeps _ _ _ _ _).trans (State.bump_keeps _ _
    _ _ _))) (KeepsSnd.mk (Keeps.refl _)))

theorem rowsRead_keeps (unit : Nat) (a x : Obj) (rows : List Nat) (o : OpRec) (s : State) : KeepsIn Prod.snd s (rowsRead unit a x rows (o, s)) := by
  induction rows generalizing o s with
  | nil => exact KeepsIn.ok (Keeps.refl _)
  | cons row rows ih =>
    rw [rowsRead]
    refine KeepsIn.bind (fun v => ?_)
    extract_lets o1
    split
    · exact KeepsIn.after (rowMiss_keeps _ _ _ _) (ih _ _)
    · exact ih _ _

theorem readRows_keeps (p : PieceRec) (o : OpRec) (s : State) : KeepsIn Prod.snd s (readRows p o s) := by
  unfold readRows
  split
  · exact rowsRead_keeps _ _ _ _ _ _
  · exact KeepsIn.ok (Keeps.refl _)

theorem execMatmulRows_keeps (q sn unit vxe quad n : Nat) (s : State) : KeepsNext s (execMatmulRows q sn unit vxe quad n s) := by
  unfold execMatmulRows
  exact streamOn_keeps _ _ _ _ _ _ _ _ _ _ _

theorem execMatmulBlockdiag_keeps (q sn unit vxe quad n : Nat) (s : State) : KeepsNext s (execMatmulBlockdiag q sn unit vxe quad n s) := by
  unfold execMatmulBlockdiag
  exact streamOn_keeps _ _ _ _ _ _ _ _ _ _ _

end Sys2Proof.Machine
end

section
/-! What every command keeps: vector ops. -/

namespace Sys2Proof.Machine

theorem State.storeTile_keeps (s : State) (o : OpRec) (x : Obj) (result : Bool) (last p r c : Nat) (cov : Nat → Nat → Bool) (t : TileOut) : KeepsOk
  s (s.storeTile o x result last p r c cov t) := by
  unfold State.storeTile
  exact KeepsOk.ite (State.writeTile_keeps _ _ _ _ _ _ _ _) (State.writePart_keeps _ _ _ _ _ _ _ _ _)

theorem State.storeStats_keeps (s : State) (o : OpRec) (st d : Obj) (p r c : Nat) (cov : Nat → Nat → Bool) (v : Nat → Nat → Num) : KeepsOk s
  (s.storeStats o st d p r c cov v) := by
  unfold State.storeStats
  exact State.storeTile_keeps _ _ _ _ _ _ _ _ _ _

theorem storeEncoded_keeps (o : OpRec) (s : State) (unit : Nat) (d : Obj) (last p r c : Nat) (cov : Nat → Nat → Bool) (rd : Rounding) (watch fresh :
  Bool) (x : Nat → Nat → Elt) (t : TileOut) : KeepsIn Prod.snd s (storeEncoded o s unit d last p r c cov rd watch fresh x t) := by
  unfold storeEncoded
  extract_lets vr vc o1 s1
  have hs1 : Keeps s s1 := Keeps.ite (State.watchTile_keeps _ _ _ _ _ _ _ _ _ _ _) (Keeps.refl _)
  clear_value s1
  refine KeepsIn.seq (KeepsOk.keepsIn (slotted_keepsOk _ _ (KeepsOk.after hs1 (State.storeTile_keeps _ _ _ _ _ _ _ _ _ _)))) ?_
  intro u
  dsimp -zeta only
  extract_lets jp jp1 rnd2
  have hjp : ∀ y, KeepsIn Prod.snd y (jp y) := by
    intro y
    subst jp
    beta_reduce
    exact KeepsIn.ok (Keeps.refl _)
  clear_value jp
  have hjp1 : ∀ y, KeepsIn Prod.snd y (jp1 y) := by
    intro y
    subst jp1
    beta_reduce
    split
    · refine KeepsIn.seq (KeepsOk.keepsIn (KeepsOk.ok (Keeps.refl _))) ?_
      intro v
      exact hjp _
    · refine KeepsIn.seq (KeepsOk.keepsIn (slotted_keepsOk _ _ (State.storeStats_keeps _ _ _ _ _ _ _ _ _))) ?_
      intro v
      exact hjp _
  clear_value jp1
  split
  · refine KeepsIn.seq (KeepsOk.keepsIn (KeepsOk.ok (State.wroteTile_keeps _ _ _ _ _ _))) ?_
    intro v
    exact hjp1 _
  · extract_lets t2 s2
    have hs2 : Keeps u s2 := (State.wroteTile_keeps _ _ _ _ _ _).trans (State.watchTile_keeps _ _ _ _ _ _ _ _ _ _ _)
    clear_value s2
    refine KeepsIn.seq (KeepsOk.keepsIn (slotted_keepsOk _ _ (KeepsOk.after hs2 (State.storeTile_keeps _ _ _ _ _ _ _ _ _ _)))) ?_
    intro v
    exact hjp1 _

theorem storeResult_keeps (o : OpRec) (s : State) (unit : Nat) (d : Obj) (last p r c : Nat) (cov : Nat → Nat → Bool) (rd : Rounding) (fresh : Bool)
  (x : Nat → Nat → Elt) : KeepsIn Prod.snd s (storeResult o s unit d last p r c cov rd fresh x) := by
  unfold storeResult
  exact storeEncoded_keeps _ _ _ _ _ _ _ _ _ _ _ _ _ _

theorem epilogueTile_keeps (o : OpRec) (s : State) (e : TileEntry) : KeepsIn Prod.snd s (epilogueTile o s e) := by
  unfold epilogueTile
  split
  · exact KeepsIn.ok (Keeps.refl _)
  · dsimp -zeta only
    extract_lets vc vs
    refine KeepsIn.ite ?_ ?_
    · refine KeepsIn.ite (KeepsIn.ok (Keeps.refl _)) ?_
      refine KeepsIn.bind (fun a => ?_)
      exact storeResult_keeps _ _ _ _ _ _ _ _ _ _ _ _
    · refine KeepsIn.bind (fun a => ?_)
      exact storeResult_keeps _ _ _ _ _ _ _ _ _ _ _ _

theorem State.keepPlane_keeps (s : State) (o : OpRec) (die work : Nat) : Keeps s (s.keepPlane o die work) := by
  unfold State.keepPlane
  refine Keeps.ite ?_ (Keeps.refl _)
  split
  · exact ⟨rfl, id⟩
  · exact Keeps.refl _

theorem State.freeEntry_keeps (s : State) (vxe : Nat) : Keeps s (s.freeEntry vxe) := by
  unfold State.freeEntry
  refine Keeps.trans ?_ (State.syncTq_keeps _ _)
  exact ⟨rfl, id⟩

theorem State.entryCount_keeps (s : State) (e : TileEntry) (add : Tab Nat) : Keeps s (s.entryCount e add) := by
  unfold State.entryCount
  exact Keeps.ite (State.pieces_keeps _ _) (State.mapOp_keeps _ _ _ _)

theorem execEpilogue_keeps (vxe : Nat) (s : State) : KeepsNext s (execEpilogue vxe s) := by
  unfold execEpilogue
  split
  · exact KeepsNext.next (Keeps.refl _)
  · split
    · exact KeepsNext.next (State.freeEntry_keeps _ _)
    · refine KeepsNext.ite (KeepsNext.next (State.freeEntry_keeps _ _)) ?_
      refine KeepsNext.ite (KeepsNext.next (Keeps.refl _)) ?_
      split
      · rename_i t u e
        have hu : Keeps s u := KeepsFst.of_eq (State.meetVxe_keeps _ _ _) e
        exact KeepsNext.next hu
      · rename_i t u e
        have hu : Keeps s u := KeepsFst.of_eq (State.meetVxe_keeps _ _ _) e
        split
        · exact KeepsNext.next (Keeps.ite hu ((hu.trans (State.workFails_keeps _ _ _ _)).trans (State.freeEntry_keeps _ _)))
        · rename_i v e2
          have hv : Keeps s v := (KeepsIn.after hu (epilogueTile_keeps _ _ _)) _ e2
          exact KeepsNext.next ((((((hv.trans (State.freeEntry_keeps _ _)).trans (State.putOp_keeps _ _)).trans (State.entryCount_keeps _ _
            _)).trans (State.keepPlane_keeps _ _ _ _)).trans (State.pieceDid_keeps _ _ _ _)).trans (State.settle_keeps _))

theorem storeRows_keeps (o : OpRec) (s : State) (unit u width : Nat) (rows : List (List Elt)) (codes : List (List (Option Nat))) (d : Obj) (enc :
  Option (Nat → Nat → List Rnd → List (Option Num) → Nat → Blk)) (n : Nat) : KeepsIn Prod.snd s (storeRows o s unit u width rows codes d enc n) :=
  by
  induction n generalizing s with
  | zero =>
    rw [storeRows]
    exact KeepsIn.ok (Keeps.refl _)
  | succ n ih =>
    rw [storeRows]
    refine KeepsIn.seq (ih _) ?_
    rintro ⟨o2, t⟩
    dsimp -zeta only
    exact storeEncoded_keeps _ _ _ _ _ _ _ _ _ _ _ _ _ _

theorem rowUnit_keeps (unit width : Nat) (f : OpRec → State → Obj → Nat → Except WorkFail (List Elt)) (o : OpRec) (s : State) (u : Nat) : KeepsIn
  Prod.snd s (rowUnit unit width f o s u) := by
  unfold rowUnit
  split
  · exact KeepsIn.ok (Keeps.refl _)
  · refine KeepsIn.bind (fun a => ?_)
    exact storeRows_keeps _ _ _ _ _ _ _ _ _ _

theorem moveUnit_keeps (unit : Nat) (f : OpRec → State → Obj → Nat → Except WorkFail (List (Elt × Option Nat))) (o : OpRec) (s : State) (u : Nat) :
  KeepsIn Prod.snd s (moveUnit unit f o s u) := by
  unfold moveUnit
  split
  · exact KeepsIn.ok (Keeps.refl _)
  · refine KeepsIn.bind (fun a => ?_)
    exact storeRows_keeps _ _ _ _ _ _ _ _ _ _

theorem vectorOn_keeps (op q sn unit first n : Nat) (s : State) (f : OpRec → State → Nat → Except WorkFail (OpRec × State))
    (hf : ∀ o t u, KeepsIn Prod.snd t (f o t u)) : KeepsNext s (vectorOn op q sn unit first n s f) := by
  unfold vectorOn
  exact KeepsNext.ite (KeepsNext.next (State.workOn_keepsIn _ _ _ _ _ _ _ _ _ _ (fun t => State.meetVxe_keeps _ _ _) hf)) (KeepsNext.next (Keeps.refl _))

theorem execEltwise_keeps (q sn unit first n : Nat) (s : State) : KeepsNext s (execEltwise q sn unit first n s) := by
  unfold execEltwise
  exact vectorOn_keeps _ _ _ _ _ _ _ _ (fun o t u => rowUnit_keeps _ _ _ _ _ _)

theorem execRowreduce_keeps (q sn unit first n : Nat) (s : State) : KeepsNext s (execRowreduce q sn unit first n s) := by
  unfold execRowreduce
  exact vectorOn_keeps _ _ _ _ _ _ _ _ (fun o t u => rowUnit_keeps _ _ _ _ _ _)

theorem execRownorm_keeps (q sn unit first n : Nat) (s : State) : KeepsNext s (execRownorm q sn unit first n s) := by
  unfold execRownorm
  exact vectorOn_keeps _ _ _ _ _ _ _ _ (fun o t u => rowUnit_keeps _ _ _ _ _ _)

theorem permuteUnit_keeps (unit : Nat) (o : OpRec) (s : State) (u : Nat) : KeepsIn Prod.snd s (permuteUnit unit o s u) := by
  unfold permuteUnit
  split
  · exact KeepsIn.ok (Keeps.refl _)
  · refine KeepsIn.bind (fun a => ?_)
    refine KeepsIn.seq (moveUnit_keeps _ _ _ _ _) ?_
    rintro ⟨o2, t⟩
    dsimp -zeta only
    exact KeepsIn.ok (State.bump_keeps _ _ _ _ _)

theorem execPermute_keeps (q sn unit first n : Nat) (s : State) : KeepsNext s (execPermute q sn unit first n s) := by
  unfold execPermute
  exact vectorOn_keeps _ _ _ _ _ _ _ _ (fun o t u => permuteUnit_keeps _ _ _ _)

theorem execShuffle_keeps (q sn unit first n : Nat) (s : State) : KeepsNext s (execShuffle q sn unit first n s) := by
  unfold execShuffle
  exact vectorOn_keeps _ _ _ _ _ _ _ _ (fun o t u => moveUnit_keeps _ _ _ _ _)

theorem packUnit_keeps (unit : Nat) (o : OpRec) (s : State) (u : Nat) : KeepsIn Prod.snd s (packUnit unit o s u) := by
  unfold packUnit
  split
  · exact KeepsIn.ok (Keeps.refl _)
  · refine KeepsIn.bind (fun a => ?_)
    refine KeepsIn.bind (fun b => ?_)
    exact storeRows_keeps _ _ _ _ _ _ _ _ _ _

theorem execPack_keeps (q sn unit first n : Nat) (s : State) : KeepsNext s (execPack q sn unit first n s) := by
  unfold execPack
  exact vectorOn_keeps _ _ _ _ _ _ _ _ (fun o t u => packUnit_keeps _ _ _ _)

theorem putView_keeps (o : OpRec) (s : State) (unit slot : Nat) (x : Obj) (row col : Nat) (v : Elt) : KeepsOk s (putView o s unit slot x row col v)
  := by
  unfold putView
  dsimp -zeta only
  exact slotted_keepsOk _ _ (KeepsOk.after (State.watchTile_keeps _ _ _ _ _ _ _ _ _ _ _) (State.storeTile_keeps _ _ _ _ _ _ _ _ _ _))

theorem putSideList_keeps (o : OpRec) (s : State) (unit : Nat) (xs : List (Nat × Nat × Num × Int)) : KeepsOk s (putSideList o s unit xs) := by
  induction xs generalizing s with
  | nil =>
    rw [putSideList]
    exact KeepsOk.ok (Keeps.refl _)
  | cons x xs ih =>
    rw [putSideList]
    split
    · refine KeepsOk.seq (KeepsOk.keepsIn (KeepsOk.ok (Keeps.refl _))) ?_
      intro t
      beta_reduce
      extract_lets jp
      have hjp : ∀ y, KeepsOk y (jp y) := by
        intro y
        subst jp
        beta_reduce
        exact ih _
      clear_value jp
      split
      · refine KeepsOk.seq (KeepsOk.keepsIn (KeepsOk.ok (Keeps.refl _))) ?_
        intro u
        exact hjp _
      · refine KeepsOk.seq (KeepsOk.keepsIn (putView_keeps _ _ _ _ _ _ _ _)) ?_
        intro u
        exact hjp _
    · refine KeepsOk.seq (KeepsOk.keepsIn (putView_keeps _ _ _ _ _ _ _ _)) ?_
      intro t
      beta_reduce
      extract_lets jp
      have hjp : ∀ y, KeepsOk y (jp y) := by
        intro y
        subst jp
        beta_reduce
        exact ih _
      clear_value jp
      split
      · refine KeepsOk.seq (KeepsOk.keepsIn (KeepsOk.ok (Keeps.refl _))) ?_
        intro u
        exact hjp _
      · refine KeepsOk.seq (KeepsOk.keepsIn (putView_keeps _ _ _ _ _ _ _ _)) ?_
        intro u
        exact hjp _

theorem unpackUnit_keeps (unit : Nat) (o : OpRec) (s : State) (u : Nat) : KeepsIn Prod.snd s (unpackUnit unit o s u) := by
  unfold unpackUnit
  split
  · exact KeepsIn.ok (Keeps.refl _)
  · refine KeepsIn.bind (fun a => ?_)
    refine KeepsIn.seq (rowUnit_keeps _ _ _ _ _ _) ?_
    rintro ⟨o2, t⟩
    dsimp -zeta only
    refine KeepsIn.seq (KeepsOk.keepsIn (putSideList_keeps _ _ _ _)) ?_
    intro v
    refine KeepsIn.ok ?_
    dsimp -zeta only
    exact Keeps.refl _

theorem execUnpack_keeps (q sn unit first n : Nat) (s : State) : KeepsNext s (execUnpack q sn unit first n s) := by
  unfold execUnpack
  exact vectorOn_keeps _ _ _ _ _ _ _ _ (fun o t u => unpackUnit_keeps _ _ _ _)

theorem putCounts_keeps (o : OpRec) (s : State) (unit : Nat) (xs : List (Nat × Nat)) : KeepsOk s (putCounts o s unit xs) := by
  induction xs generalizing s with
  | nil =>
    rw [putCounts]
    exact KeepsOk.ok (Keeps.refl _)
  | cons x xs ih =>
    rw [putCounts]
    split
    · refine KeepsOk.seq (KeepsOk.keepsIn (KeepsOk.ok (Keeps.refl _))) ?_
      intro t
      beta_reduce
      exact ih _
    · refine KeepsOk.seq (KeepsOk.keepsIn (putView_keeps _ _ _ _ _ _ _ _)) ?_
      intro t
      beta_reduce
      exact ih _

theorem maskUnit_keeps (unit : Nat) (f : OpRec → State → Obj → Nat → Except WorkFail (List Elt)) (o : OpRec) (s : State) (u : Nat) : KeepsIn
  Prod.snd s (maskUnit unit f o s u) := by
  unfold maskUnit
  split
  · exact KeepsIn.ok (Keeps.refl _)
  · refine KeepsIn.bind (fun a => ?_)
    refine KeepsIn.seq (rowUnit_keeps _ _ _ _ _ _) ?_
    rintro ⟨o2, t⟩
    dsimp -zeta only
    refine KeepsIn.seq (KeepsOk.keepsIn (putCounts_keeps _ _ _ _)) ?_
    intro v
    refine KeepsIn.ok ?_
    dsimp -zeta only
    exact Keeps.refl _

theorem execCompress_keeps (q sn unit first n : Nat) (s : State) : KeepsNext s (execCompress q sn unit first n s) := by
  unfold execCompress
  exact vectorOn_keeps _ _ _ _ _ _ _ _ (fun o t u => maskUnit_keeps _ _ _ _ _)

theorem execExpand_keeps (q sn unit first n : Nat) (s : State) : KeepsNext s (execExpand q sn unit first n s) := by
  unfold execExpand
  exact vectorOn_keeps _ _ _ _ _ _ _ _ (fun o t u => maskUnit_keeps _ _ _ _ _)

end Sys2Proof.Machine
end

section
/-! What every command keeps: attention. -/

namespace Sys2Proof.Machine

theorem State.setDir_keeps (s : State) (scx : Nat) (w0 w1 : Word) : Keeps s (s.setDir scx w0 w1) := by
  unfold State.setDir
  exact ((State.wr_keeps _ _ _).trans (State.wr_keeps _ _ _)).trans (State.put_keeps _ _ _ _ _)

theorem State.clearDir_keeps (s : State) (scx : Nat) : Keeps s (s.clearDir scx) := by
  unfold State.clearDir
  exact State.setDir_keeps _ _ _ _

theorem State.scxMiss_keeps (s : State) (scx : Nat) : Keeps s (s.scxMiss scx) := by
  unfold State.scxMiss
  exact State.bump_keeps _ _ _ _ _

theorem seqsetSet_keeps (o : OpRec) (s : State) (scx : Nat) (w0 w1 : Word) : KeepsOk s (seqsetSet o s scx w0 w1) := by
  unfold seqsetSet
  extract_lets e np
  refine KeepsOk.ite (KeepsOk.ok (State.scxMiss_keeps _ _)) ?_
  refine KeepsOk.bind (fun a _ => ?_)
  refine KeepsOk.bind (fun b _ => ?_)
  split
  · refine KeepsOk.ite (KeepsOk.ok (State.scxMiss_keeps _ _)) ?_
    refine KeepsOk.bind (fun a _ => ?_)
    refine KeepsOk.bind (fun b _ => ?_)
    refine KeepsOk.bind (fun c _ => ?_)
    exact KeepsOk.ite (KeepsOk.ok (State.scxMiss_keeps _ _)) (KeepsOk.ok (State.setDir_keeps _ _ _ _))
  · exact KeepsOk.ok (State.scxMiss_keeps _ _)

theorem State.dirError_keeps (s : State) (die index : Nat) (two inj : Bool) (o : OpRec) : Keeps s (s.dirError die index two inj o) := by
  unfold State.dirError
  exact Keeps.ite ((((State.bump_keeps _ _ _ _ _).trans ((State.detect_inFaults _ _).keeps)).trans (State.clearDir_keeps _ _)).trans
    (State.failOp_keeps _ _ _ _ _)) ((State.bump_keeps _ _ _ _ _).trans ((State.countDet_inFaults _ _ _).keeps))

theorem State.meetDir_keeps (s : State) (o : OpRec) (scx : Nat) : KeepsFst s (s.meetDir o scx) := by
  unfold State.meetDir
  refine State.meet_keeps _ _ (fun a g e t => ?_)
  split_ifs at e
  cases e
  exact State.dirError_keeps _ _ _ _ _ _

theorem seqsetUnit_keeps (o : OpRec) (s : State) (u : Nat) : KeepsIn Prod.snd s (seqsetUnit o s u) := by
  unfold seqsetUnit
  split
  · exact KeepsIn.ok (Keeps.refl _)
  · refine KeepsIn.bind (fun a => ?_)
    dsimp -zeta only
    extract_lets scx o1 e
    refine KeepsIn.ite (KeepsIn.error _ _ _) ?_
    refine KeepsIn.ite (KeepsIn.ite (KeepsIn.ok (Keeps.refl _)) (KeepsIn.ite (KeepsIn.ok (State.clearDir_keeps _ _)) (KeepsIn.ok
      (State.scxMiss_keeps _ _)))) ?_
    refine KeepsIn.seq (KeepsOk.keepsIn (seqsetSet_keeps _ _ _ _ _)) ?_
    intro t
    refine KeepsIn.ok ?_
    dsimp -zeta only
    exact Keeps.refl _

theorem seqsetOne_keeps (q sn unit u : Nat) (s : State) : Keeps s (seqsetOne q sn unit u s) := by
  unfold seqsetOne
  refine State.workOn_keepsIn _ _ _ _ _ _ _ _ _ _ (fun t => ?_) (fun o t u => seqsetUnit_keeps _ _ _)
  split
  · exact unmet_keeps _
  · split
    · exact State.meetDir_keeps _ _ _
    · exact unmet_keeps _

theorem execSeqset_keeps (q sn unit first n : Nat) (s : State) : KeepsNext s (execSeqset q sn unit first n s) := by
  unfold execSeqset
  exact KeepsNext.ite (KeepsNext.next (Keeps.foldl _ (fun x a => seqsetOne_keeps _ _ _ _ _) _ _)) (KeepsNext.next (Keeps.refl _))

theorem State.ltMiss_keeps (s : State) : Keeps s s.ltMiss := by
  unfold State.ltMiss
  split
  · exact State.bump_keeps _ _ _ _ _
  · exact Keeps.refl _

theorem readTable_keeps (o : OpRec) (s : State) : KeepsIn Prod.snd s (readTable o s) := by
  unfold readTable
  split
  · refine KeepsIn.bind (fun a => ?_)
    refine KeepsIn.bind (fun b => ?_)
    dsimp -zeta only
    exact KeepsIn.ok (Keeps.foldl _ (fun x a => State.ltMiss_keeps _) _ _)
  · exact KeepsIn.ok (Keeps.refl _)

theorem readContext_keeps (o : OpRec) (s : State) (x : AttEntry) : KeepsIn Prod.snd s (readContext o s x) := by
  unfold readContext
  split
  · refine KeepsIn.bind (fun a => ?_)
    exact KeepsIn.ok (Keeps.ite ((Keeps.ite (State.scxMiss_keeps _ _) (Keeps.refl _)).trans (State.ltMiss_keeps _)) (Keeps.ite (State.scxMiss_keeps
      _ _) (Keeps.refl _)))
  · exact KeepsIn.ok (Keeps.refl _)

theorem State.readEntries_keeps (s : State) (q sn unit first n : Nat) (xs : List AttEntry) : KeepsFst s (s.readEntries q sn unit first n xs) := by
  induction xs generalizing s with
  | nil =>
    rw [State.readEntries]
    exact KeepsFst.mk (Keeps.refl _)
  | cons x xs ih =>
    rw [State.readEntries]
    split
    · exact KeepsFst.mk (Keeps.refl _)
    · refine KeepsFst.ite (ih _) ?_
      split
      · rename_i t u e
        have hu : Keeps s u := by
          refine KeepsFst.of_eq ?_ e
          split
          · exact State.meetDir_keeps _ _ _
          · exact unmet_keeps _
        exact KeepsFst.mk hu
      · rename_i t u e
        have hu : Keeps s u := by
          refine KeepsFst.of_eq ?_ e
          split
          · exact State.meetDir_keeps _ _ _
          · exact unmet_keeps _
        split
        · exact KeepsFst.mk (hu.trans (State.workFails_keeps _ _ _ _))
        · rename_i v e2
          have hv : Keeps s v := (KeepsIn.after hu (readContext_keeps _ _ _)) _ e2
          exact KeepsFst.after (hv.trans (State.mapOp_keeps _ _ _ _)) (ih _)

theorem State.attBegin_keeps (s : State) (q sn unit first n : Nat) : KeepsFst s (s.attBegin q sn unit first n) := by
  unfold State.attBegin
  split
  · exact KeepsFst.mk (Keeps.refl _)
  · split
    · exact KeepsFst.mk (State.workFails_keeps _ _ _ _)
    · rename_i t e
      have ht : Keeps s t := (readTable_keeps _ _) _ e
      exact KeepsFst.after (ht.trans (State.mapOp_keeps _ _ _ _)) (State.readEntries_keeps _ _ _ _ _ _ _)

theorem State.holdTag_keeps (s : State) (old : Option Tag) (x : Obj) (r c : Nat) (whole : Bool) : Keeps s (s.holdTag old x r c whole) := by
  unfold State.holdTag
  exact Keeps.ite (Keeps.refl _) (State.setTag_keeps _ _ _)

theorem storeMain_keeps (unit u : Nat) (d : Obj) (last : Nat) (fresh : Bool) (cov : Nat → Nat → Bool) (v : Nat → Nat → Elt) (x : OpRec) (s : State)
  (xs : List (Nat × Nat)) : KeepsIn Prod.snd s (storeMain unit u d last fresh cov v x s xs) := by
  induction xs generalizing unit u d last fresh cov v x s with
  | nil =>
    rw [storeMain]
    exact KeepsIn.ok (Keeps.refl _)
  | cons x0 xs ih =>
    rw [storeMain]
    refine KeepsIn.seq (storeResult_keeps _ _ _ _ _ _ _ _ _ _ _ _) ?_
    rintro ⟨o, t⟩
    dsimp -zeta only
    exact KeepsIn.after (State.holdTag_keeps _ _ _ _ _ _) (ih _ _ _ _ _ _ _ _ _)

theorem storeSide_keeps (o : OpRec) (unit : Nat) (x : Obj) (last : Nat) (rd : Rounding) (whole cov watched : Nat → Nat → Bool) (v : Nat → Nat → Elt)
  (s : State) (xs : List (Nat × Nat)) : KeepsOk s (storeSide o unit x last rd whole cov watched v s xs) := by
  induction xs generalizing s with
  | nil =>
    rw [storeSide]
    exact KeepsOk.ok (Keeps.refl _)
  | cons x0 xs ih =>
    rw [storeSide]
    refine KeepsOk.seq (KeepsOk.keepsIn (slotted_keepsOk _ _ (KeepsOk.after (State.watchTile_keeps _ _ _ _ _ _ _ _ _ _ _) (State.storeTile_keeps _ _
      _ _ _ _ _ _ _ _)))) ?_
    intro t
    exact KeepsOk.after ((State.holdTag_keeps _ _ _ _ _ _).trans (State.journalAdd_keeps _ _ _)) (ih _)

theorem storeScores_keeps (o : OpRec) (unit : Nat) (a : Obj) (x : AttEntry) (h t j : Nat) (s : State) : KeepsOk s (storeScores o unit a x h t j s)
  := by
  unfold storeScores
  split
  · exact KeepsOk.ok (Keeps.refl _)
  · extract_lets ps n
    refine KeepsOk.ite (KeepsOk.ok (State.bump_keeps _ _ _ _ _)) ?_
    refine KeepsOk.bind (fun b _ => ?_)
    exact storeSide_keeps _ _ _ _ _ _ _ _ _ _ _

theorem fwdStore_keeps (unit u : Nat) (a : Obj) (x : AttEntry) (h t : Nat) (rows : List AttRow) (o : OpRec) (s : State) : KeepsIn Prod.snd s
  (fwdStore unit u a x h t rows o s) := by
  unfold fwdStore
  split
  · exact KeepsIn.ok (Keeps.refl _)
  · extract_lets w pad
    refine KeepsIn.bind (fun b => ?_)
    extract_lets b1 cov ts k
    refine KeepsIn.seq (storeMain_keeps _ _ _ _ _ _ _ _ _ _) ?_
    rintro ⟨o2, v⟩
    dsimp -zeta only
    extract_lets jp cs
    have hjp : ∀ y, KeepsIn Prod.snd y (jp y) := by
      intro y
      subst jp
      beta_reduce
      exact KeepsIn.ok (Keeps.refl _)
    clear_value jp
    split
    · refine KeepsIn.seq (KeepsOk.keepsIn (KeepsOk.ok (Keeps.refl _))) ?_
      intro t1
      exact hjp _
    · refine KeepsIn.seq (KeepsOk.keepsIn (storeSide_keeps _ _ _ _ _ _ _ _ _ _ _)) ?_
      intro t1
      exact hjp _

theorem fwdStep_keeps (unit u : Nat) (a : Obj) (x : AttEntry) (h t : Nat) (w : AttOpen) (o : OpRec) (s : State) (x1 : Option Nat) : KeepsIn (fun p
  => p.2.2) s (fwdStep unit u a x h t w o s x1) := by
  unfold fwdStep
  split
  · refine KeepsIn.bind (fun b => ?_)
    refine KeepsIn.seq (KeepsOk.keepsIn (storeScores_keeps _ _ _ _ _ _ _ _)) ?_
    intro v
    refine KeepsIn.ok ?_
    dsimp -zeta only
    exact Keeps.refl _
  · refine KeepsIn.seq (fwdStore_keeps _ _ _ _ _ _ _ _ _) ?_
    rintro ⟨o2, v⟩
    dsimp -zeta only
    exact KeepsIn.ok (Keeps.refl _)

theorem ctxStore_keeps (unit u : Nat) (o : OpRec) (s : State) : KeepsIn Prod.snd s (ctxStore unit u o s) := by
  unfold ctxStore
  split
  · extract_lets xs ctx own mine keep val ts
    refine KeepsIn.ite (storeMain_keeps _ _ _ _ _ _ _ _ _ _) ?_
    refine KeepsIn.seq (KeepsOk.keepsIn (storeSide_keeps _ _ _ _ _ _ _ _ _ _ _)) ?_
    intro t
    refine KeepsIn.ok ?_
    dsimp -zeta only
    exact Keeps.refl _
  · exact KeepsIn.ok (Keeps.refl _)

theorem backStore_keeps (unit u : Nat) (x : AttEntry) (h t : Nat) (rows : List AttRow) (o : OpRec) (s : State) : KeepsIn Prod.snd s (backStore unit
  u x h t rows o s) := by
  unfold backStore
  split
  · exact KeepsIn.ok (Keeps.refl _)
  · extract_lets w dq all bs keep
    refine KeepsIn.seq (storeMain_keeps _ _ _ _ _ _ _ _ _ _) ?_
    rintro ⟨o2, v⟩
    dsimp -zeta only
    exact KeepsIn.ite (ctxStore_keeps _ _ _ _) (KeepsIn.ok (Keeps.refl _))

theorem backStep_keeps (unit u : Nat) (a oo dd c : Obj) (x : AttEntry) (h t : Nat) (w : AttOpen) (o : OpRec) (s : State) (x1 : Option Nat) : KeepsIn
  (fun p => p.2.2) s (backStep unit u a oo dd c x h t w o s x1) := by
  unfold backStep
  split
  · refine KeepsIn.bind (fun b => ?_)
    exact KeepsIn.ok (Keeps.refl _)
  · refine KeepsIn.seq (backStore_keeps _ _ _ _ _ _ _ _) ?_
    rintro ⟨o2, v⟩
    dsimp -zeta only
    exact KeepsIn.ok (Keeps.refl _)

theorem attStep_keeps (op m u lo : Nat) (o : OpRec) (s : State) : KeepsIn (fun p => p.2.2) s (attStep op m u lo o s) := by
  unfold attStep
  generalize o.attAt u = p
  obtain ⟨e, h, t⟩ := p
  dsimp -zeta only
  split
  · refine KeepsIn.ite (KeepsIn.error _ _ _) (KeepsIn.ite (KeepsIn.ok (Keeps.refl _)) ?_)
    extract_lets unit w j done step
    have hdone : ∀ p, KeepsIn (fun p => p.2.2) p.2.2 (done p) := fun p => KeepsIn.ok (Keeps.ite (State.bump_keeps _ _ _ _ _) (Keeps.refl _))
    clear_value done
    refine KeepsIn.ite (fun _ e => by cases e) (KeepsIn.ite (KeepsIn.seq (fwdStep_keeps _ _ _ _ _ _ _ _ _ _) hdone) ?_)
    split
    · exact KeepsIn.seq (backStep_keeps _ _ _ _ _ _ _ _ _ _ _ _ _) hdone
    · exact hdone _
  · exact KeepsIn.ok (Keeps.refl _)

theorem State.attRun_keeps (s : State) (op q sn m quad n : Nat) : Keeps s (s.attRun op q sn m quad n) := by
  induction n generalizing s with
  | zero =>
    rw [State.attRun]
    exact Keeps.refl _
  | succ n ih =>
    rw [State.attRun]
    split
    · split
      · exact Keeps.refl _
      · refine Keeps.ite (Keeps.refl _) ?_
        split
        · rename_i t u e
          have hu : Keeps s u := KeepsFst.of_eq (State.meetQuad_keeps _ _ _ _) e
          exact hu
        · rename_i t u e
          have hu : Keeps s u := KeepsFst.of_eq (State.meetQuad_keeps _ _ _ _) e
          split
          · rename_i v w e2
            have hw : Keeps s w := KeepsFst.of_eq (KeepsFst.after hu (State.meetAsq_keeps _ _)) e2
            exact hw
          · rename_i v w e2
            have hw : Keeps s w := KeepsFst.of_eq (KeepsFst.after hu (State.meetAsq_keeps _ _)) e2
            split
            · exact hw.trans (State.workFails_keeps _ _ _ _)
            · rename_i z30 e3
              have hz30 : Keeps s z30 := (KeepsIn.after hw (attStep_keeps _ _ _ _ _ _)) _ e3
              exact (((hz30.trans (State.putOp_keeps _ _)).trans (State.pieces_keeps _ _)).trans (State.pieceCount_keeps _ _ _ _ _ _)).trans (ih _)
    · exact Keeps.refl _

theorem execAttnFwd_keeps (q sn unit quad n : Nat) (s : State) : KeepsNext s (execAttnFwd q sn unit quad n s) := by
  unfold execAttnFwd
  exact KeepsNext.ite (KeepsNext.next ((State.attRun_keeps _ _ _ _ _ _ _).trans (State.settle_keeps _))) (KeepsNext.next (Keeps.refl _))

theorem execAttnBwd_keeps (q sn unit quad n : Nat) (s : State) : KeepsNext s (execAttnBwd q sn unit quad n s) := by
  unfold execAttnBwd
  exact KeepsNext.ite (KeepsNext.next ((State.attRun_keeps _ _ _ _ _ _ _).trans (State.settle_keeps _))) (KeepsNext.next (Keeps.refl _))

theorem execAsqDirclr_keeps (ag : Agent) (v : Word) (s : State) : KeepsNext s (execAsqDirclr ag v s) := by
  unfold execAsqDirclr
  exact KeepsNext.ite (KeepsNext.next ((State.putBit_keeps _ _ _ _).trans (Keeps.of_fields rfl rfl rfl rfl rfl))) (KeepsNext.next (Keeps.refl _))

theorem State.clearDirs_keeps (s : State) (xs : List Nat) : Keeps s (s.clearDirs xs) := by
  induction xs generalizing s with
  | nil =>
    rw [State.clearDirs]
    exact Keeps.refl _
  | cons x xs ih =>
    rw [State.clearDirs]
    exact (State.clearDir_keeps _ _).trans (ih _)

theorem execAsqDirclrDone_keeps (s : State) : KeepsNext s (execAsqDirclrDone s) := by
  unfold execAsqDirclrDone
  split
  · exact KeepsNext.next (Keeps.refl _)
  · refine KeepsNext.next ?_
    refine Keeps.trans ?_ (State.putBit_keeps _ _ _ _)
    exact (State.clearDirs_keeps _ _).trans (Keeps.of_fields rfl rfl rfl rfl rfl)

theorem execDirectoryEcc_keeps (die index : Nat) (two : Bool) (q sn : Nat) (s : State) : KeepsNext s (execDirectoryEcc die index two q sn s) := by
  unfold execDirectoryEcc
  split
  · exact KeepsNext.next (Keeps.refl _)
  · refine KeepsNext.ite ?_ (KeepsNext.next (Keeps.refl _))
    dsimp -zeta only
    exact KeepsNext.next ((State.takeInj_inFaults _ _ _ _).keeps.trans (State.dirError_keeps _ _ _ _ _ _))

end Sys2Proof.Machine
end

section
/-! What every command keeps: the cascade. -/

namespace Sys2Proof.Machine

theorem State.askRetry_keeps (s : State) (port : Nat) : Keeps s (s.askRetry port) := by
  unfold State.askRetry
  exact State.setPseq_keeps _ _ _

theorem State.acked_keeps (s : State) (port ack : Nat) : Keeps s (s.acked port ack) := by
  unfold State.acked
  exact ⟨rfl, id⟩

theorem State.resend_keeps (s : State) (port : Nat) : Keeps s (s.resend port) := by
  unfold State.resend
  extract_lets xs
  refine Keeps.trans ?_ (State.bump_keeps _ _ _ _ _)
  exact ⟨rfl, id⟩

theorem State.receive_keeps (s : State) (port typ : Nat) (b : Block) : KeepsSnd s (s.receive port typ b) := by
  unfold State.receive
  refine KeepsSnd.ite (KeepsSnd.mk (Keeps.refl _)) ?_
  dsimp -zeta only
  refine KeepsSnd.ite (KeepsSnd.mk ((((KeepsSnd.after ((State.takeInj_inFaults _ _ _ _).keeps) ((State.takeInj_inFaults _ _ _ _).keeps)).trans
    (State.cwErr_keeps _ _)).trans (State.bump_keeps _ _ _ _ _)).trans (State.askRetry_keeps _ _))) ?_
  refine KeepsSnd.ite (KeepsSnd.mk ((((KeepsSnd.after ((State.takeInj_inFaults _ _ _ _).keeps) ((State.takeInj_inFaults _ _ _ _).keeps)).trans
    (State.bump_keeps _ _ _ _ _)).trans (State.askRetry_keeps _ _)).trans ((State.countDet_inFaults _ _ _).keeps))) ?_
  extract_lets s1 s2 s3 k
  have hs1 : Keeps s s1 := (KeepsSnd.after ((State.takeInj_inFaults _ _ _ _).keeps) ((State.takeInj_inFaults _ _ _ _).keeps)).trans
    (State.acked_keeps _ _ _)
  clear_value s1
  have hs2 : Keeps s s2 := Keeps.ite (hs1.trans (State.resend_keeps _ _)) hs1
  clear_value s2
  have hs3 : Keeps s s3 := (hs2.trans (State.setPseq_keeps _ _ _)).trans (State.setPseq_keeps _ _ _)
  clear_value s3
  refine KeepsSnd.ite (KeepsSnd.mk hs2) ?_
  refine KeepsSnd.ite (KeepsSnd.mk hs3) ?_
  refine KeepsSnd.ite ?_ (KeepsSnd.ite (KeepsSnd.mk hs3) (KeepsSnd.mk (hs3.trans ⟨rfl, id⟩)))
  split
  · exact KeepsSnd.mk hs3
  · exact KeepsSnd.mk ((hs3.trans (State.sendTurn_keeps _ _ _ _ _)).trans (State.bump_keeps _ _ _ _ _))

theorem execRetry_keeps (port ack : Nat) (s : State) : KeepsNext s (execRetry port ack s) := by
  unfold execRetry
  exact KeepsNext.ite (KeepsNext.next ((State.acked_keeps _ _ _).trans (State.resend_keeps _ _))) (KeepsNext.next (Keeps.refl _))

theorem State.addFlits_keeps (s : State) (port typ : Nat) (b : Block) : Keeps s (s.addFlits port typ b) := by
  unfold State.addFlits
  exact ⟨rfl, id⟩

theorem State.takeMsg_keeps (s : State) (typ src : Nat) (tag : BitVec 256) (n : Nat) : KeepsSnd s (s.takeMsg typ src tag n) := by
  unfold State.takeMsg
  exact KeepsSnd.ite (KeepsSnd.mk (Keeps.refl _)) (KeepsSnd.mk ⟨rfl, id⟩)

theorem State.forgetMsg_keeps (s : State) (typ src : Nat) (tag : BitVec 256) : Keeps s (s.forgetMsg typ src tag) := by
  unfold State.forgetMsg
  exact ⟨rfl, id⟩

theorem State.tagRecord_keeps (s : State) (o : OpRec) (inj : Bool) (a : Nat) : Keeps s (s.tagRecord o inj a) := by
  unfold State.tagRecord
  exact (State.form_inFaults _ _).keeps

theorem State.acknowledge_keeps (s : State) (o : OpRec) (typ src : Nat) (tag : BitVec 256) : Keeps s (s.acknowledge o typ src tag) := by
  unfold State.acknowledge
  exact Keeps.ite ⟨rfl, id⟩ (State.sendMsg_keeps _ _ _ _ _ _)

theorem State.badTile_keeps (s : State) (o : OpRec) (d : Obj) (t : Tag) (src : Nat) (tag : BitVec 256) : Keeps s (s.badTile o d t src tag) := by
  unfold State.badTile
  exact Keeps.ite ((State.tagRecord_keeps _ _ _ _).trans (State.failOp_keeps _ _ _ _ _)) (((State.tagRecord_keeps _ _ _ _).trans (State.mapOp_keeps
    _ _ _ _)).trans (State.forgetMsg_keeps _ _ _ _))

theorem State.arrive_keeps (s : State) (o : OpRec) (d : Obj) (src port : Nat) (tag : BitVec 256) (bs : List Byte) : Keeps s (s.arrive o d src port
  tag bs) := by
  unfold State.arrive
  extract_lets t a r c x w last g
  refine Keeps.ite (State.badTile_keeps _ _ _ _ _ _) ?_
  refine Keeps.ite ((State.tagRecord_keeps _ _ _ _).trans (State.failOp_keeps _ _ _ _ _)) ?_
  split
  · exact State.workFails_keeps _ _ _ _
  · rename_i u e
    have hu : Keeps s u := (State.writePart_keeps _ _ _ _ _ _ _ _ _) _ e
    extract_lets s1
    have hs1 : Keeps s s1 := hu.trans (State.setTag_keeps _ _ _)
    clear_value s1
    dsimp -zeta only
    exact ((((KeepsSnd.after hs1 (State.wroteTile_keeps _ _ _ _ _ _)).trans (State.putOp_keeps _ _)).trans (State.pieceDid_keeps _ _ _ _)).trans
      (State.acknowledge_keeps _ _ _ _ _)).trans (State.settle_keeps _)

theorem execData_keeps (port : Nat) (b : Block) (s : State) : KeepsNext s (execData port b s) := by
  unfold execData
  dsimp -zeta only
  refine KeepsNext.ite (KeepsNext.next (State.receive_keeps _ _ _ _)) ?_
  split
  · exact KeepsNext.next (State.receive_keeps _ _ _ _)
  · refine KeepsNext.ite (KeepsNext.next (((State.receive_keeps _ _ _ _).trans (State.mapOp_keeps _ _ _ _)).trans (State.settle_keeps _))) ?_
    split
    · exact KeepsNext.next (State.receive_keeps _ _ _ _)
    · refine KeepsNext.ite (KeepsNext.next (State.receive_keeps _ _ _ _)) ?_
      split
      · rename_i t u e
        have hu : Keeps s u := KeepsSnd.of_eq (KeepsSnd.after ((State.receive_keeps _ _ _ _).trans (State.addFlits_keeps _ _ _ _))
          (State.takeMsg_keeps _ _ _ _ _)) e
        exact KeepsNext.next hu
      · rename_i t _ _ u e
        have hu : Keeps s u := KeepsSnd.of_eq (KeepsSnd.after ((State.receive_keeps _ _ _ _).trans (State.addFlits_keeps _ _ _ _))
          (State.takeMsg_keeps _ _ _ _ _)) e
        exact KeepsNext.next (hu.trans (State.arrive_keeps _ _ _ _ _ _ _))

theorem State.takeNode_keeps (s : State) (o : OpRec) (port src : Nat) (tag : BitVec 256) (head : List Nat) (bs : List Byte) : Keeps s (s.takeNode o
  port src tag head bs) := by
  unfold State.takeNode
  extract_lets t s1
  have hs1 : Keeps s s1 := (State.form_inFaults _ _).keeps
  clear_value s1
  split
  · exact Keeps.refl _
  · exact Keeps.ite ((hs1.trans (State.mapOp_keeps _ _ _ _)).trans (State.forgetMsg_keeps _ _ _ _)) (Keeps.ite ((State.bump_keeps _ _ _ _ _).trans
      (State.failOp_keeps _ _ _ _ _)) ((((State.nodes_keeps _ _).trans (State.sendMsg_keeps _ _ _ _ _ _)).trans (State.combine_keeps _ _ _ _
      _)).trans (State.settle_keeps _)))

theorem State.nodeFor_keeps (s : State) (o : OpRec) (port : Nat) (f : InFlits) : Keeps s (s.nodeFor o port f) := by
  unfold State.nodeFor
  split
  · rename_i t u e
    have hu : Keeps s u := KeepsSnd.of_eq (State.takeMsg_keeps _ _ _ _ _) e
    exact hu
  · rename_i t _ _ u e
    have hu : Keeps s u := KeepsSnd.of_eq (State.takeMsg_keeps _ _ _ _ _) e
    exact Keeps.ite (hu.trans (State.takeNode_keeps _ _ _ _ _ _ _)) hu

theorem State.takeHeld_keeps (s : State) (o : OpRec) : Keeps s (s.takeHeld o) := by
  unfold State.takeHeld
  exact Keeps.foldl _ (fun x a => State.nodeFor_keeps _ _ _ _) _ _

theorem execNode_keeps (port : Nat) (b : Block) (s : State) : KeepsNext s (execNode port b s) := by
  unfold execNode
  dsimp -zeta only
  extract_lets t
  refine KeepsNext.ite (KeepsNext.next (State.receive_keeps _ _ _ _)) ?_
  split
  · exact KeepsNext.next (Keeps.ite (State.receive_keeps _ _ _ _) ((State.receive_keeps _ _ _ _).trans (State.addFlits_keeps _ _ _ _)))
  · exact KeepsNext.next (((State.receive_keeps _ _ _ _).trans (State.addFlits_keeps _ _ _ _)).trans (State.nodeFor_keeps _ _ _ _))

theorem execE2eack_keeps (port : Nat) (b : Block) (s : State) : KeepsNext s (execE2eack port b s) := by
  unfold execE2eack
  dsimp -zeta only
  refine KeepsNext.ite (KeepsNext.next (State.receive_keeps _ _ _ _)) ?_
  extract_lets t s1
  have hs1 : Keeps s s1 := (State.receive_keeps _ _ _ _).trans (Keeps.of_fields rfl rfl rfl rfl rfl)
  clear_value s1
  exact KeepsNext.next ((((hs1.trans (State.settle_keeps _)).trans (State.freshen_keeps _)).trans (State.noteDeps_keeps _)).trans (State.syncQ_keeps
    _ _))

theorem execReady_keeps (port : Nat) (b : Block) (s : State) : KeepsNext s (execReady port b s) := by
  unfold execReady
  dsimp -zeta only
  exact KeepsNext.ite (KeepsNext.next ((State.receive_keeps _ _ _ _).trans (Keeps.of_fields rfl rfl rfl rfl rfl))) (KeepsNext.next
    (State.receive_keeps _ _ _ _))

theorem execAbandon_keeps (port : Nat) (b : Block) (s : State) : KeepsNext s (execAbandon port b s) := by
  unfold execAbandon
  dsimp -zeta only
  refine KeepsNext.ite (KeepsNext.next (State.receive_keeps _ _ _ _)) ?_
  extract_lets k s1 s2
  have hs1 : Keeps s s1 := (State.receive_keeps _ _ _ _).trans (State.bump_keeps _ _ _ _ _)
  clear_value s1
  have hs2 : Keeps s s2 := hs1.trans ⟨rfl, id⟩
  clear_value s2
  refine KeepsNext.ite (KeepsNext.next hs1) ?_
  split
  · exact KeepsNext.next hs2
  · exact KeepsNext.next (hs2.trans (State.failOp_keeps _ _ _ _ _))

theorem State.castMismatch_keeps (s : State) (o : OpRec) (peer : Nat) : Keeps s (s.castMismatch o peer) := by
  unfold State.castMismatch
  exact (State.bump_keeps _ _ _ _ _).trans (State.failOp_keeps _ _ _ _ _)

theorem State.meetTcrc_keeps (s : State) (port : Nat) (t : BitVec 256) : KeepsSnd s (s.meetTcrc port t) := by
  unfold State.meetTcrc
  dsimp -zeta only
  exact KeepsSnd.mk ((State.takeInj_inFaults _ _ _ _).keeps)

theorem State.sendTile_keeps (s : State) (o : OpRec) (a : Obj) (destq : Nat) (p : PieceRec) : Keeps s (s.sendTile o a destq p) := by
  unfold State.sendTile
  extract_lets k peer
  split
  · exact State.workFails_keeps _ _ _ _
  · extract_lets blocks
    dsimp -zeta only
    extract_lets s1 s2 whole x
    have hs1 : Keeps s s1 := (State.meetTcrc_keeps _ _ _).trans (State.sendOn_keeps _ _ _ _)
    clear_value s1
    have hs2 : Keeps s s2 := hs1.trans (State.pieces_keeps _ _)
    clear_value s2
    have hx : Keeps s x := hs2.trans (State.mapOp_keeps _ _ _ _)
    clear_value x
    exact Keeps.ite hs2 (hx.trans ⟨rfl, id⟩)

theorem State.sendTiles_keeps (s : State) (q sn : Nat) (a : Obj) (destq : Nat) (xs : List PieceRec) : Keeps s (s.sendTiles q sn a destq xs) := by
  induction xs generalizing s with
  | nil =>
    rw [State.sendTiles]
    exact Keeps.refl _
  | cons x xs ih =>
    rw [State.sendTiles]
    refine Keeps.trans ?_ (ih _)
    split
    · exact State.sendTile_keeps _ _ _ _ _
    · exact Keeps.refl _

theorem State.matchSend_keeps (s : State) (o : OpRec) (tag : BitVec 256) : Keeps s (s.matchSend o tag) := by
  unfold State.matchSend
  exact Keeps.ite (State.castMismatch_keeps _ _ _) ((Keeps.ite ((State.mapOp_keeps _ _ _ _).trans (State.sendMsg_keeps _ _ _ _ _ _))
    (State.mapOp_keeps _ _ _ _)).trans (State.settle_keeps _))

theorem execXsend_keeps (q sn : Nat) (s : State) : KeepsNext s (execXsend q sn s) := by
  unfold execXsend
  split
  · exact KeepsNext.next (Keeps.refl _)
  · split
    · exact KeepsNext.next (State.failOp_keeps _ _ _ _ _)
    · exact KeepsNext.next (Keeps.refl _)
    · split
      · split
        · exact KeepsNext.next (Keeps.refl _)
        · refine KeepsNext.next ?_
          refine Keeps.trans ?_ (State.matchSend_keeps _ _ _)
          exact ⟨rfl, id⟩
      · exact KeepsNext.next ((State.sendTiles_keeps _ _ _ _ _ _).trans (State.settle_keeps _))

theorem execXrecv_keeps (q sn : Nat) (s : State) : KeepsNext s (execXrecv q sn s) := by
  unfold execXrecv
  split
  · exact KeepsNext.next (Keeps.refl _)
  · refine KeepsNext.ite (KeepsNext.next (Keeps.refl _)) ?_
    split
    · exact KeepsNext.next (State.failOp_keeps _ _ _ _ _)
    · exact KeepsNext.next (((State.mapOp_keeps _ _ _ _).trans (State.sendMsg_keeps _ _ _ _ _ _)).trans (State.settle_keeps _))

theorem State.collectiveOn_keeps (s : State) (cls op q sn b : Nat) (data : List Block) (f : OpRec → State → Except WorkFail (OpRec × State))
    (hf : ∀ o t, KeepsIn Prod.snd t (f o t)) : Keeps s (s.collectiveOn cls op q sn b data f) := by
  unfold State.collectiveOn
  split
  · exact Keeps.refl _
  · rename_i o _
    refine Keeps.ite (Keeps.refl _) ?_
    split
    · exact State.failOp_keeps _ _ _ _ _
    · split
      · exact State.castMismatch_keeps _ _ _
      · refine Keeps.ite (Keeps.refl _) (Keeps.ite ((State.mapOp_keeps _ _ _ _).trans (State.settle_keeps _)) (Keeps.ite (Keeps.refl _) ?_))
        split
        · exact State.workFails_keeps _ _ _ _
        · rename_i o2 t e
          have ht : Keeps s t := hf o s _ e
          exact ((ht.trans (State.putOp_keeps _ _)).trans (State.pieceDid_keeps _ _ _ _)).trans (State.settle_keeps _)

theorem execSync_keeps (q sn : Nat) (data : List Block) (s : State) : KeepsNext s (execSync q sn data s) := by
  unfold execSync
  split
  · exact KeepsNext.next (Keeps.refl _)
  · exact KeepsNext.ite (KeepsNext.next (State.collectiveOn_keeps _ _ _ _ _ _ _ _ (fun o t => KeepsIn.ok (Keeps.refl _)))) (KeepsNext.next
      (Keeps.refl _))

theorem execCollectiveAdmit_keeps (q sn : Nat) (s : State) : KeepsNext s (execCollectiveAdmit q sn s) := by
  unfold execCollectiveAdmit
  split
  · exact KeepsNext.next (Keeps.refl _)
  · exact KeepsNext.ite (KeepsNext.next (State.startOp_keeps _ _)) (KeepsNext.next (Keeps.refl _))

theorem castTiles_keeps (o : OpRec) (s : State) (d : Obj) (watched own : Bool) (f : Nat → Nat → Nat → Except WorkFail (Nat × Elt)) (side : Nat → Nat
  → Nat → Except WorkFail Nat) (xs : List (Nat × Nat × Nat)) : KeepsIn Prod.snd s (castTiles o s d watched own f side xs) := by
  induction xs generalizing o s d watched own f side with
  | nil =>
    rw [castTiles]
    exact KeepsIn.ok (Keeps.refl _)
  | cons x xs ih =>
    rw [castTiles]
    refine KeepsIn.bind (fun a => ?_)
    extract_lets b last jp
    have hjp : ∀ x, KeepsIn Prod.snd s (jp x) := by
      intro x
      subst jp
      beta_reduce
      extract_lets t
      refine KeepsIn.seq (KeepsOk.keepsIn (slotted_keepsOk _ _ (State.writePart_keeps _ _ _ _ _ _ _ _ _))) ?_
      intro u
      exact KeepsIn.after (Keeps.ite ((State.wroteTile_keeps _ _ _ _ _ _).trans (State.watchTile_keeps _ _ _ _ _ _ _ _ _ _ _))
        (State.wroteTile_keeps _ _ _ _ _ _)) (ih _ _ _ _ _ _ _)
    clear_value jp
    refine KeepsIn.ite ?_ ?_
    · refine KeepsIn.bind (fun c => ?_)
      exact hjp _
    · refine KeepsIn.bind (fun c => ?_)
      exact hjp _

theorem reduceAll_keeps (own : Bool) (b : Nat) (data : List Block) (o : OpRec) (s : State) : KeepsIn Prod.snd s (reduceAll own b data o s) := by
  unfold reduceAll
  split
  · exact castTiles_keeps _ _ _ _ _ _ _ _
  · exact KeepsIn.ok (Keeps.refl _)

theorem execXallreduce_keeps (q sn bucket : Nat) (data : List Block) (s : State) : KeepsNext s (execXallreduce q sn bucket data s) := by
  unfold execXallreduce
  exact KeepsNext.next (State.collectiveOn_keeps _ _ _ _ _ _ _ _ (fun o t => reduceAll_keeps _ _ _ _ _))

theorem execXreducescatter_keeps (q sn bucket : Nat) (data : List Block) (s : State) : KeepsNext s (execXreducescatter q sn bucket data s) := by
  unfold execXreducescatter
  exact KeepsNext.next (State.collectiveOn_keeps _ _ _ _ _ _ _ _ (fun o t => reduceAll_keeps _ _ _ _ _))

theorem gatherAll_keeps (b : Nat) (data : List Block) (o : OpRec) (s : State) : KeepsIn Prod.snd s (gatherAll b data o s) := by
  unfold gatherAll
  split
  · exact castTiles_keeps _ _ _ _ _ _ _ _
  · exact KeepsIn.ok (Keeps.refl _)

theorem execXallgather_keeps (q sn bucket : Nat) (data : List Block) (s : State) : KeepsNext s (execXallgather q sn bucket data s) := by
  unfold execXallgather
  exact KeepsNext.next (State.collectiveOn_keeps _ _ _ _ _ _ _ _ (fun o t => gatherAll_keeps _ _ _ _))

theorem execLimit_keeps (q sn rank : Nat) (s : State) : KeepsNext s (execLimit q sn rank s) := by
  unfold execLimit
  split
  · exact KeepsNext.next (Keeps.refl _)
  · exact KeepsNext.ite (KeepsNext.next (State.failOp_keeps _ _ _ _ _)) (KeepsNext.next (Keeps.refl _))

end Sys2Proof.Machine
end

section
/-! What every command keeps: links and time alignment. -/

namespace Sys2Proof.Machine

theorem State.noteTime_keeps (s : State) (reg hi lo : Nat) : Keeps s (s.noteTime reg hi lo) := by
  unfold State.noteTime
  exact Keeps.ite (State.put_keeps _ _ _ _ _) (Keeps.refl _)

theorem State.setAlign_keeps (s : State) (st : Nat) : Keeps s (s.setAlign st) := by
  unfold State.setAlign
  exact (State.put_keeps _ _ _ _ _).trans (State.putBit_keeps _ _ _ _)

theorem State.holdover_keeps (s : State) (inj : Bool) (off : Int) : Keeps s (s.holdover inj off) := by
  unfold State.holdover
  exact (((State.setAlign_keeps _ _).trans (State.bump_keeps _ _ _ _ _)).trans (State.inLock_keeps _ _)).trans ((State.form_inFaults _ _).keeps)

theorem State.stepTime_keeps (s : State) (off : Int) : Keeps s (s.stepTime off) := by
  unfold State.stepTime
  extract_lets t t1 s1
  have hs1 : Keeps s s1 := ⟨rfl, id⟩
  clear_value s1
  refine Keeps.trans ?_ (State.bump_keeps _ _ _ _ _)
  exact hs1.trans ⟨rfl, id⟩

theorem execAlignExchange_keeps (s : State) : KeepsNext s (execAlignExchange s) := by
  unfold execAlignExchange
  split
  · refine KeepsNext.ite ?_ (KeepsNext.next (Keeps.refl _))
    extract_lets blk x
    have hx : Keeps s x := State.sendBlock_keeps _ _ _ _
    clear_value x
    exact KeepsNext.next (hx.trans ⟨rfl, id⟩)
  · exact KeepsNext.next (Keeps.refl _)

theorem State.answerAlign_keeps (s : State) (port : Nat) (t1 : Int) : Keeps s (s.answerAlign port t1) := by
  unfold State.answerAlign
  exact State.sendBlock_keeps _ _ _ _

/-- The module's alignment as an answer leaves it. -/
theorem State.alignOut_keeps (s : State) (b : Bool) : Keeps s { s with alignOut := b } := ⟨rfl, id⟩
theorem State.steer_keeps (s : State) (off : Int) : Keeps s { s with steer := off } := ⟨rfl, id⟩
theorem State.aligned_keeps (s : State) (b : Bool) (off : Int) (n : Nat) : Keeps s { s with alignSet := b, steer := off, inLock := n } := ⟨rfl, id⟩

theorem execAlign_keeps (port : Nat) (answer : Bool) (t1 t2 t3 t4 : Int) (upAligned : Bool) (s : State) :
    KeepsNext s (execAlign port answer t1 t2 t3 t4 upAligned s) := by
  unfold execAlign
  refine KeepsNext.ite (KeepsNext.next (Keeps.ite (State.answerAlign_keeps _ _ _) (Keeps.refl _))) (KeepsNext.ite (KeepsNext.next (Keeps.refl _)) ?_)
  have ht := (State.takeInj_inFaults s Reg.fltInj 8 0).keeps
  generalize s.takeInj Reg.fltInj 8 0 = p at ht
  obtain ⟨inj, t⟩ := p
  refine KeepsNext.after (Keeps.trans ht (State.alignOut_keeps t false)) ?_
  dsimp -zeta only
  generalize ({ t with alignOut := false } : State) = s1
  extract_lets off s0 s2 src s3 k s4
  have hs2 : Keeps s1 s2 := ((State.stepTime_keeps _ _).trans (State.put_keeps _ _ _ _ _)).trans (State.setAlign_keeps _ _)
  clear_value s2
  have hsrc : Keeps s1 src := State.put_keeps _ _ _ _ _
  clear_value src
  have hs3 : Keeps s1 s3 := hsrc.trans (State.steer_keeps _ _)
  clear_value s3
  have hs4 : Keeps s1 s4 := hs3.trans (State.setAlign_keeps _ _)
  clear_value s4
  refine KeepsNext.ite (KeepsNext.ite (KeepsNext.next (Keeps.refl _)) (KeepsNext.next (hs2.trans (State.aligned_keeps _ _ _ _)))) (KeepsNext.ite ?_ ?_)
  · exact KeepsNext.ite (KeepsNext.next (hs3.trans (State.holdover_keeps _ _ _))) (KeepsNext.next hs3)
  · exact KeepsNext.ite (KeepsNext.next (hs4.trans (State.inLock_keeps _ _))) (KeepsNext.next (hs3.trans (State.inLock_keeps _ _)))

theorem State.flood_keeps (s : State) (typ : Nat) (tag : BitVec 256) (xs : List Nat) : Keeps s (s.flood typ tag xs) := by
  induction xs generalizing s with
  | nil =>
    rw [State.flood]
    exact Keeps.refl _
  | cons x xs ih =>
    rw [State.flood]
    exact (State.sendBlock_keeps _ _ _ _).trans (ih _)

theorem State.advertise_keeps (s : State) (ps : List Nat) : Keeps s (s.advertise ps) := by
  unfold State.advertise
  split
  · exact Keeps.refl _
  · exact State.flood_keeps _ _ _ _

theorem State.setDisc_keeps (s : State) (st : Nat) : Keeps s (s.setDisc st) := by
  unfold State.setDisc
  exact State.put_keeps _ _ _ _ _

theorem State.closeKnown_keeps (s : State) (fresh : Bool) : Keeps s (s.closeKnown fresh) := by
  unfold State.closeKnown
  exact Keeps.ite (((State.bump_keeps _ _ _ _ _).trans (State.noteTime_keeps _ _ _ _)).trans (Keeps.of_fields rfl rfl rfl rfl rfl)) (Keeps.refl _)

theorem execAdvert_keeps (port : Nat) (serial : Word) (hops : Nat) (closed : Bool) (s : State) : KeepsNext s (execAdvert port serial hops closed s)
  := by
  unfold execAdvert
  refine KeepsNext.ite (KeepsNext.next (Keeps.refl _)) ?_
  refine KeepsNext.ite (KeepsNext.next (Keeps.ite (State.setDisc_keeps _ _) (Keeps.refl _))) ?_
  extract_lets a take change fresh s1 s2 s3 s4
  have hs1 : Keeps s s1 := by
    subst s1
    refine Keeps.trans ?_ (State.put_keeps _ _ _ _ _)
    refine Keeps.trans ?_ (State.wr_keeps _ _ _)
    exact ⟨rfl, id⟩
  clear_value s1
  have hs2 : Keeps s s2 := (hs1.trans (State.setDisc_keeps _ _)).trans (State.closeKnown_keeps _ _)
  clear_value s2
  have hs3 : Keeps s s3 := Keeps.ite (hs2.trans (State.put_keeps _ _ _ _ _)) hs2
  clear_value s3
  have hs4 : Keeps s s4 := Keeps.ite (hs3.trans (State.flood_keeps _ _ _ _)) hs3
  clear_value s4
  exact KeepsNext.ite (KeepsNext.next (Keeps.refl _)) (KeepsNext.next (hs4.trans (State.advertise_keeps _ _)))

theorem State.sendAddr_keeps (s : State) (serial addr : Nat) : Keeps s (s.sendAddr serial addr) := by
  unfold State.sendAddr
  extract_lets s1
  have hs1 : Keeps s s1 := ⟨rfl, id⟩
  clear_value s1
  split
  · exact hs1
  · exact hs1.trans (State.flood_keeps _ _ _ _)

theorem execJoin_keeps (port : Nat) (serial : Word) (s : State) : KeepsNext s (execJoin port serial s) := by
  unfold execJoin
  refine KeepsNext.ite (KeepsNext.next (Keeps.refl _)) ?_
  extract_lets n s1 new s2 s3
  have hs1 : Keeps s s1 := ⟨rfl, id⟩
  clear_value s1
  have hs2 : Keeps s s2 := hs1.trans ⟨rfl, id⟩
  clear_value s2
  have hs3 : Keeps s s3 := hs2.trans (State.put_keeps _ _ _ _ _)
  clear_value s3
  split
  · exact KeepsNext.next hs1
  · refine KeepsNext.ite (KeepsNext.next (hs1.trans (State.flood_keeps _ _ _ _))) ?_
    refine KeepsNext.ite (KeepsNext.next hs3) ?_
    split
    · refine KeepsNext.next ?_
      refine Keeps.trans ?_ (State.sendAddr_keeps _ _ _)
      exact hs3.trans ⟨rfl, id⟩
    · exact KeepsNext.next (hs3.trans (State.sendAddr_keeps _ _ _))

theorem State.assign_keeps (s : State) (xs : List Nat) : Keeps s (s.assign xs) := by
  induction xs generalizing s with
  | nil =>
    rw [State.assign]
    exact Keeps.refl _
  | cons x xs ih =>
    rw [State.assign]
    refine Keeps.trans ?_ (ih _)
    split
    · refine Keeps.trans ?_ (State.sendAddr_keeps _ _ _)
      exact ⟨rfl, id⟩
    · exact State.sendAddr_keeps _ _ _

theorem State.takeAddr_keeps (s : State) (a : Nat) : Keeps s (s.takeAddr a) := by
  unfold State.takeAddr
  exact (State.put_keeps _ _ _ _ _).trans (State.flood_keeps _ _ _ _)

/-- The zenith takes its own address, and its candidacy stands. -/
theorem State.crowned_keeps (s : State) (as : Tab Nat) (n : Nat) (b : Option Advert) : Keeps s { s with addrs := as, nextAddr := n, best := b } := ⟨rfl, id⟩

theorem State.becomeZenith_keeps (s : State) : Keeps s s.becomeZenith := by
  unfold State.becomeZenith
  refine Keeps.trans (Keeps.trans (Keeps.trans ?_ (State.takeAddr_keeps _ _)) (State.assign_keeps _ _)) (State.advertise_keeps _ _)
  refine Keeps.ite (Keeps.trans (Keeps.trans ?_ (State.setAlign_keeps _ _)) (State.alignSet_keeps _ _)) (Keeps.trans ?_ (State.setAlign_keeps _ _)) <;>
  · refine Keeps.trans (Keeps.trans (Keeps.trans ?_ (State.setDisc_keeps _ _)) (State.wr_keeps _ _ _)) (State.closeKnown_keeps _ _)
    refine Keeps.trans (Keeps.trans (Keeps.trans ?_ (State.putBit_keeps _ _ _ _)) (State.put_keeps _ _ _ _ _)) (State.put_keeps _ _ _ _ _)
    exact State.crowned_keeps _ _ _ _

theorem execElectionClose_keeps (s : State) : KeepsNext s (execElectionClose s) := by
  unfold execElectionClose
  split
  · exact KeepsNext.ite (KeepsNext.next (State.becomeZenith_keeps _)) (KeepsNext.next (Keeps.refl _))
  · exact KeepsNext.next (Keeps.refl _)

theorem execAddr_keeps (port : Nat) (serial : Word) (addr : Nat) (s : State) : KeepsNext s (execAddr port serial addr s) := by
  unfold execAddr
  refine KeepsNext.ite (KeepsNext.next (Keeps.refl _)) ?_
  refine KeepsNext.ite ?_ (KeepsNext.next (State.sendAddr_keeps _ _ _))
  extract_lets s1
  have hs1 : Keeps s s1 := ⟨rfl, id⟩
  clear_value s1
  exact KeepsNext.next ((hs1.trans (State.setDisc_keeps _ _)).trans (State.takeAddr_keeps _ _))

theorem execRoute_keeps (port addr hops : Nat) (s : State) : KeepsNext s (execRoute port addr hops s) := by
  unfold execRoute
  refine KeepsNext.ite (KeepsNext.next (Keeps.refl _)) ?_
  extract_lets s1 rs least mine s2
  have hs1 : Keeps s s1 := Keeps.ite (State.put_keeps _ _ _ _ _) (Keeps.refl _)
  clear_value s1
  have hs2 : Keeps s s2 := hs1.trans ⟨rfl, id⟩
  clear_value s2
  exact KeepsNext.ite (KeepsNext.next (hs2.trans (State.flood_keeps _ _ _ _))) (KeepsNext.next hs2)

theorem execNozenith_keeps (s : State) : KeepsNext s (execNozenith s) := by
  unfold execNozenith
  split
  · exact KeepsNext.ite (KeepsNext.next (State.setDisc_keeps _ _)) (KeepsNext.next (Keeps.refl _))
  · exact KeepsNext.next (Keeps.refl _)

theorem execZenithLost_keeps (elected : Bool) (s : State) : KeepsNext s (execZenithLost elected s) := by
  unfold execZenithLost
  split
  · exact KeepsNext.next (Keeps.refl _)
  · refine KeepsNext.ite (KeepsNext.next (Keeps.refl _)) ?_
    extract_lets s1 s2 s3
    have hs1 : Keeps s s1 := Keeps.ite (State.holdover_keeps _ _ _) (Keeps.refl _)
    clear_value s1
    have hs2 : Keeps s s2 := hs1.trans ⟨rfl, id⟩
    clear_value s2
    have hs3 : Keeps s s3 := hs2.trans (State.setDisc_keeps _ _)
    clear_value s3
    exact KeepsNext.ite (KeepsNext.next (hs3.trans (State.becomeZenith_keeps _))) (KeepsNext.next (hs3.trans (State.advertise_keeps _ _)))

theorem State.setPort_keeps (s : State) (p st : Nat) : Keeps s (s.setPort p st) := by
  unfold State.setPort
  exact State.put_keeps _ _ _ _ _

theorem execPortTraining_keeps (port : Nat) (s : State) : KeepsNext s (execPortTraining port s) := by
  unfold execPortTraining
  exact KeepsNext.ite (KeepsNext.next (State.setPort_keeps _ _ _)) (KeepsNext.next (Keeps.refl _))

theorem State.portDown_keeps (s : State) (port : Nat) : Keeps s (s.portDown port) := by
  unfold State.portDown
  exact (State.setPort_keeps _ _ _).trans (Keeps.of_fields rfl rfl rfl rfl rfl)

theorem execIdent_keeps (port : Nat) (farSerial : Word) (farPort : Nat) (s : State) : KeepsNext s (execIdent port farSerial farPort s) := by
  unfold execIdent
  refine KeepsNext.ite (KeepsNext.next (Keeps.refl _)) ?_
  refine KeepsNext.ite (KeepsNext.next ((((State.setPort_keeps _ _ _).trans (State.putBit_keeps _ _ _ _)).trans ((State.detect_inFaults _
    _).keeps)).trans ((State.resolve_inFaults _ _ _ _ _).keeps))) ?_
  extract_lets s1 s2 s3 x s4 s5 s6
  have hs1 : Keeps s s1 := (((State.setPort_keeps _ _ _).trans (State.put_keeps _ _ _ _ _)).trans (State.wr_keeps _ _ _)).trans
    (State.noteTime_keeps _ _ _ _)
  clear_value s1
  have hs2 : Keeps s s2 := ((hs1.trans (State.setPseq_keeps _ _ _)).trans (State.setPseq_keeps _ _ _)).trans (State.setPseq_keeps _ _ _)
  clear_value s2
  have hs3 : Keeps s s3 := hs2.trans ⟨rfl, id⟩
  clear_value s3
  have hx : Keeps s x := hs3.trans (State.wr_keeps _ _ _)
  clear_value x
  have hs4 : Keeps s s4 := Keeps.ite (hx.trans ⟨rfl, id⟩) hs3
  clear_value s4
  have hs5 : Keeps s s5 := hs4.trans (State.cond_keeps _ _ _ (fun t => State.setDisc_keeps _ _))
  clear_value s5
  have hs6 : Keeps s s6 := (hs5.trans ((State.resolve_inFaults _ _ _ _ _).keeps)).trans (State.advertise_keeps _ _)
  clear_value s6
  exact KeepsNext.next (Keeps.ite hs6 (hs6.trans (State.flood_keeps _ _ _ _)))

theorem execNoLock_keeps (port : Nat) (s : State) : KeepsNext s (execNoLock port s) := by
  unfold execNoLock
  exact KeepsNext.ite (KeepsNext.next (Keeps.refl _)) (KeepsNext.ite (KeepsNext.next ((State.portDown_keeps _ _).trans ((State.form_inFaults _
    _).keeps))) (KeepsNext.next ((State.portDown_keeps _ _).trans ((State.detect_inFaults _ _).keeps))))

theorem State.retrain_keeps (s : State) (port : Nat) (inj : Bool) : Keeps s (s.retrain port inj) := by
  unfold State.retrain
  exact ((((State.setPort_keeps _ _ _).trans (State.bump_keeps _ _ _ _ _)).trans (State.cwErr_keeps _ _)).trans (State.rehomeAll_keeps _ _ _
    _)).trans ((State.form_inFaults _ _).keeps)

theorem execUncorrectableCodewords_keeps (port : Nat) (s : State) : KeepsNext s (execUncorrectableCodewords port s) := by
  unfold execUncorrectableCodewords
  refine KeepsNext.ite (KeepsNext.next (Keeps.refl _)) ?_
  dsimp -zeta only
  exact KeepsNext.next ((Keeps.ite ((State.takeInj_inFaults _ _ _ _).keeps) ((State.takeInj_inFaults _ _ _ _).keeps.trans (State.bump_keeps _ _ _ _
    _))).trans (State.retrain_keeps _ _ _))

theorem execLockRegained_keeps (port : Nat) (s : State) : KeepsNext s (execLockRegained port s) := by
  unfold execLockRegained
  exact KeepsNext.ite (KeepsNext.next (Keeps.refl _)) (KeepsNext.next ((State.setPort_keeps _ _ _).trans (State.resend_keeps _ _)))

theorem State.reroute_keeps (s : State) (xs : List Sent) : Keeps s (s.reroute xs) := by
  induction xs generalizing s with
  | nil =>
    rw [State.reroute]
    exact Keeps.refl _
  | cons x xs ih =>
    rw [State.reroute]
    refine Keeps.trans ?_ (ih _)
    refine Keeps.ite (Keeps.refl _) ?_
    split
    · exact Keeps.refl _
    · exact State.sendTurn_keeps _ _ _ _ _

theorem execRetrainFail_keeps (port : Nat) (s : State) : KeepsNext s (execRetrainFail port s) := by
  unfold execRetrainFail
  refine KeepsNext.ite (KeepsNext.next (Keeps.refl _)) ?_
  extract_lets xs x s1 s2
  have hx : Keeps s x := (State.portDown_keeps _ _).trans (State.bump_keeps _ _ _ _ _)
  clear_value x
  have hs1 : Keeps s s1 := hx.trans ⟨rfl, id⟩
  clear_value s1
  have hs2 : Keeps s s2 := (hs1.trans (State.reroute_keeps _ _)).trans (State.bump_keeps _ _ _ _ _)
  clear_value s2
  exact KeepsNext.next (hs2.trans ((State.detect_inFaults _ _).keeps))

theorem State.setLanes_keeps (s : State) (b dir : Nat) : Keeps s (s.setLanes b dir) := by
  unfold State.setLanes
  exact State.wr_keeps _ _ _

theorem State.setBundle_keeps (s : State) (b : Nat) : Keeps s (s.setBundle b) := by
  unfold State.setBundle
  exact Keeps.ite (((State.setLanes_keeps _ _ _).trans (State.setLanes_keeps _ _ _)).trans (State.put_keeps _ _ _ _ _)) (((((State.setLanes_keeps _
    _ _).trans (State.setLanes_keeps _ _ _)).trans (State.put_keeps _ _ _ _ _)).trans (State.retotal_keeps _ _ _)).trans (State.retotal_keeps _ _
    _))

theorem State.flitReplay_keeps (s : State) (bundle : Nat) (inj : Bool) : Keeps s (s.flitReplay bundle inj) := by
  unfold State.flitReplay
  exact ((State.bump_keeps _ _ _ _ _).trans (State.bump_keeps _ _ _ _ _)).trans ((State.countDet_inFaults _ _ _).keeps)

theorem execStrandFlitCrc_keeps (bundle dir lane : Nat) (s : State) : KeepsNext s (execStrandFlitCrc bundle dir lane s) := by
  unfold execStrandFlitCrc
  dsimp -zeta only
  exact KeepsNext.next ((KeepsSnd.after ((State.takeInj_inFaults _ _ _ _).keeps) ((State.takeInj_inFaults _ _ _ _).keeps)).trans
    (State.flitReplay_keeps _ _ _))

theorem State.meetStrand_keeps (s : State) (bundle : Nat) : Keeps s (s.meetStrand bundle) := by
  unfold State.meetStrand
  split
  · exact (State.disarm_inFaults _ _ _ _).keeps.trans (State.flitReplay_keeps _ _ _)
  · exact Keeps.refl _

theorem State.loseLane_keeps (s : State) (b dir lane : Nat) : Keeps s (s.loseLane b dir lane) := by
  unfold State.loseLane
  extract_lets s1
  have hs1 : Keeps s s1 := ⟨rfl, id⟩
  clear_value s1
  exact hs1.trans (State.setBundle_keeps _ _)

theorem State.bundleGone_keeps (s : State) (inj : Bool) (b was : Nat) : Keeps s (s.bundleGone inj b was) := by
  unfold State.bundleGone
  exact Keeps.ite (Keeps.ite ((State.rehomeAll_keeps _ _ _ _).trans ((State.detect_inFaults _ _).keeps)) (State.rehomeAll_keeps _ _ _ _))
    (Keeps.refl _)

theorem State.laneOutcome_keeps (s : State) (inj : Bool) (b dir lane : Nat) (out : SelfTest) : Keeps s (s.laneOutcome inj b dir lane out) := by
  unfold State.laneOutcome
  extract_lets f seq w was entry s1 now s2
  have hs1 : Keeps s s1 := State.loseLane_keeps _ _ _ _
  clear_value s1
  have hs2 : Keeps s s2 := hs1.trans ((State.detect_inFaults _ _).keeps)
  clear_value s2
  split
  · exact (State.detect_inFaults _ _).keeps.trans ((State.resolveRec_inFaults _ _ _ _).keeps)
  · exact Keeps.ite ((((State.loseLane_keeps _ _ _ _).trans (State.bump_keeps _ _ _ _ _)).trans ((State.detect_inFaults _ _).keeps)).trans
      ((State.resolveRec_inFaults _ _ _ _).keeps)) ((hs2.trans ((State.resolve_inFaults _ _ _ _ _).keeps)).trans (State.bundleGone_keeps _ _ _ _))

theorem State.laneAlarm_keeps (s : State) (bundle dir lane : Nat) (out : SelfTest) (inj : Bool) : Keeps s (s.laneAlarm bundle dir lane out inj) := by
  unfold State.laneAlarm
  dsimp -zeta only
  exact (State.selfTest_inFaults _ _ _ _ _).keeps.trans (State.laneOutcome_keeps _ _ _ _ _ _)

theorem execLaneParityAlarm_keeps (bundle dir lane : Nat) (out : SelfTest) (s : State) : KeepsNext s (execLaneParityAlarm bundle dir lane out s) := by
  unfold execLaneParityAlarm
  refine KeepsNext.ite (KeepsNext.next (Keeps.refl _)) ?_
  dsimp -zeta only
  exact KeepsNext.next ((State.takeInj_inFaults _ _ _ _).keeps.trans (State.laneAlarm_keeps _ _ _ _ _ _))

theorem execStlInjLaneParity_keeps (ag : Agent) (bundle dir lane : Nat) (s : State) : KeepsNext s (execStlInjLaneParity ag bundle dir lane s) := by
  unfold execStlInjLaneParity
  exact KeepsNext.ite (KeepsNext.next (State.arm_keeps _ _ _ _)) (KeepsNext.next (Keeps.refl _))

theorem execStlInjFlitCrc_keeps (ag : Agent) (bundle dir lane : Nat) (s : State) : KeepsNext s (execStlInjFlitCrc ag bundle dir lane s) := by
  unfold execStlInjFlitCrc
  exact KeepsNext.ite (KeepsNext.next (State.arm_keeps _ _ _ _)) (KeepsNext.next (Keeps.refl _))

theorem execHwpPinjUncorrectableCodeword_keeps (ag : Agent) (n : Nat) (s : State) : KeepsNext s (execHwpPinjUncorrectableCodeword ag n s) := by
  unfold execHwpPinjUncorrectableCodeword
  exact KeepsNext.ite (KeepsNext.next (State.arm_keeps _ _ _ _)) (KeepsNext.next (Keeps.refl _))

theorem execHwpPinjCrcError_keeps (ag : Agent) (n : Nat) (s : State) : KeepsNext s (execHwpPinjCrcError ag n s) := by
  unfold execHwpPinjCrcError
  exact KeepsNext.ite (KeepsNext.next (State.arm_keeps _ _ _ _)) (KeepsNext.next (Keeps.refl _))

theorem execHwpPinjForcedRetrain_keeps (ag : Agent) (n : Nat) (s : State) : KeepsNext s (execHwpPinjForcedRetrain ag n s) := by
  unfold execHwpPinjForcedRetrain
  exact KeepsNext.ite (KeepsNext.next (State.arm_keeps _ _ _ _)) (KeepsNext.next (Keeps.refl _))

end Sys2Proof.Machine
end

section
/-! What every command keeps: convolutions. -/

namespace Sys2Proof.Machine

theorem execConvFwd_keeps (q sn unit vxe quad n : Nat) (s : State) : KeepsNext s (execConvFwd q sn unit vxe quad n s) := by
  unfold execConvFwd
  exact streamOn_keeps _ _ _ _ _ _ _ _ _ _ _

theorem execConvBwdData_keeps (q sn unit vxe quad n : Nat) (s : State) : KeepsNext s (execConvBwdData q sn unit vxe quad n s) := by
  unfold execConvBwdData
  exact streamOn_keeps _ _ _ _ _ _ _ _ _ _ _

theorem execConvBwdWeight_keeps (q sn unit vxe quad n : Nat) (s : State) : KeepsNext s (execConvBwdWeight q sn unit vxe quad n s) := by
  unfold execConvBwdWeight
  exact streamOn_keeps _ _ _ _ _ _ _ _ _ _ _

theorem State.stemStep_keeps (s : State) (o : OpRec) (x : Shape) (d : Obj) (p : PieceRec) (g t : Nat) (src : Source) : KeepsOk s (s.stemStep o x d p
  g t src) := by
  unfold State.stemStep
  dsimp -zeta only
  extract_lets mine jp jp1
  have hjp : ∀ y, KeepsOk y (jp y) := by
    intro y
    subst jp
    beta_reduce
    split
    · exact KeepsOk.error _ _
    · refine KeepsOk.bind (fun a _ => ?_)
      extract_lets s1 s2
      have hs1 : Keeps y s1 := ⟨rfl, id⟩
      clear_value s1
      have hs2 : Keeps y s2 := hs1.trans (State.countOvf_keeps _ _ _)
      clear_value s2
      exact KeepsOk.ok (Keeps.ite (hs2.trans (State.closeTile_keeps _ _ _ _ _ _ _ _ _ _ _)) hs2)
  clear_value jp
  have hjp1 : ∀ x, KeepsOk s (jp1 x) := by
    intro x
    subst jp1
    beta_reduce
    refine KeepsOk.bind (fun a _ => ?_)
    refine KeepsOk.seq (KeepsOk.keepsIn (KeepsOk.ok ⟨rfl, id⟩)) ?_
    intro u
    exact hjp _
  clear_value jp1
  refine KeepsOk.ite ?_ ?_
  · refine KeepsOk.ite ?_ (hjp1 _)
    refine KeepsOk.bind (fun a _ => ?_)
    exact hjp1 _
  · refine KeepsOk.seq (KeepsOk.keepsIn (KeepsOk.ok (Keeps.refl _))) ?_
    intro u
    exact hjp _

theorem State.stemStream_keeps (s : State) (op q sn unit n : Nat) : Keeps s (s.stemStream op q sn unit n) := by
  induction n generalizing s with
  | zero =>
    rw [State.stemStream]
    exact Keeps.refl _
  | succ n ih =>
    rw [State.stemStream]
    split
    · split
      · exact Keeps.refl _
      · split
        · exact Keeps.refl _
        · refine Keeps.ite (Keeps.refl _) ?_
          split
          · rename_i t u e
            have hu : Keeps s u := KeepsFst.of_eq (State.meetStem_keeps _ _) e
            exact hu
          · rename_i t u e
            have hu : Keeps s u := KeepsFst.of_eq (State.meetStem_keeps _ _) e
            split
            · exact hu.trans (State.workFails_keeps _ _ _ _)
            · rename_i v e2
              have hv : Keeps s v := (KeepsOk.after hu (State.stemStep_keeps _ _ _ _ _ _ _ _)) _ e2
              exact (hv.trans (State.pieces_keeps _ _)).trans (ih _)
    · exact Keeps.refl _

theorem stemOn_keeps (op q sn unit vxe n : Nat) (s : State) : KeepsNext s (stemOn op q sn unit vxe n s) := by
  unfold stemOn
  exact KeepsNext.ite (KeepsNext.next ((State.stemStream_keeps _ _ _ _ _ _).trans (State.settle_keeps _))) (KeepsNext.next (Keeps.refl _))

theorem execStemFwd_keeps (q sn unit vxe n : Nat) (s : State) : KeepsNext s (execStemFwd q sn unit vxe n s) := by
  unfold execStemFwd
  exact stemOn_keeps _ _ _ _ _ _ _

theorem execStemBwdData_keeps (q sn unit vxe n : Nat) (s : State) : KeepsNext s (execStemBwdData q sn unit vxe n s) := by
  unfold execStemBwdData
  exact stemOn_keeps _ _ _ _ _ _ _

theorem execStemBwdWeight_keeps (q sn unit vxe n : Nat) (s : State) : KeepsNext s (execStemBwdWeight q sn unit vxe n s) := by
  unfold execStemBwdWeight
  exact stemOn_keeps _ _ _ _ _ _ _

end Sys2Proof.Machine
end

section
/-! What every command keeps: updates. -/

namespace Sys2Proof.Machine

theorem putRow_keeps (o : OpRec) (s : State) (slot : Nat) (w : Wr) (x : Obj) (last p r c i cols : Nat) (t : TileOut) : KeepsOk s (putRow o s slot w
  x last p r c i cols t) := by
  unfold putRow
  exact slotted_keepsOk _ _ (KeepsOk.ite (State.writeTile_keeps _ _ _ _ _ _ _ _) (State.writePart_keeps _ _ _ _ _ _ _ _ _))

theorem putState_keeps (o : OpRec) (w : Wr) (x : Obj) (b n : Nat) (bs : List Byte) (s : State) (n1 : Nat) : KeepsOk s (putState o w x b n bs s n1)
  := by
  induction n1 generalizing s with
  | zero =>
    rw [putState]
    exact KeepsOk.ok (Keeps.refl _)
  | succ n1 ih =>
    rw [putState]
    refine KeepsOk.seq (KeepsOk.keepsIn (ih _)) ?_
    intro t
    exact putRow_keeps _ _ _ _ _ _ _ _ _ _ _ _

theorem watchSlot_keeps (o : OpRec) (unit : Nat) (st : Obj) (p r c i k : Nat) (vs : List Elt) (t : SlotOut) (s : State) : Keeps s (watchSlot o unit
  st p r c i k vs t s) := by
  unfold watchSlot
  exact ⟨rfl, id⟩

theorem clearReceipt_keeps (o : OpRec) (b : Nat) (s : State) : KeepsOk s (clearReceipt o b s) := by
  unfold clearReceipt
  split
  · exact KeepsOk.ok (Keeps.refl _)
  · refine KeepsOk.ite (KeepsOk.ok (Keeps.refl _)) ?_
    extract_lets byte a bitNo
    split
    · exact KeepsOk.error _ _
    · rename_i t e
      have ht : Keeps s t := (slotted_keepsIn _ _ (State.atomicAt_keepsIn _ _ _ _ _ _)) _ e
      exact KeepsOk.ok ht

theorem State.bringBlocks_keeps (s : State) (o : OpRec) (n first k : Nat) : Keeps s (s.bringBlocks o n first k) := by
  unfold State.bringBlocks
  exact State.bringTo_keeps _ _ _

theorem applyWrite_keeps (unit : Nat) (o : OpRec) (s : State) (ws : List Word) (w : Obj) (stack b : Nat) (outs : List StepOut) (bad : List Bool) :
  KeepsIn Prod.snd s (applyWrite unit o s ws w stack b outs bad) := by
  unfold applyWrite
  dsimp -zeta only
  extract_lets nv lastT neww row tw s1 t jp jp1 idx
  have hs1 : Keeps s s1 := State.watchTile_keeps _ _ _ _ _ _ _ _ _ _ _
  clear_value s1
  have hjp : ∀ y, KeepsIn Prod.snd y (jp y) := by
    intro y
    subst jp
    beta_reduce
    exact KeepsIn.ok (Keeps.refl _)
  clear_value jp
  have hjp1 : ∀ y, KeepsIn Prod.snd y (jp1 y) := by
    intro y
    subst jp1
    beta_reduce
    split
    · refine KeepsIn.seq (KeepsOk.keepsIn (KeepsOk.ok (Keeps.refl _))) ?_
      intro u
      exact hjp _
    · extract_lets t1 s2
      have hs2 : Keeps y s2 := State.watchTile_keeps _ _ _ _ _ _ _ _ _ _ _
      clear_value s2
      refine KeepsIn.seq (KeepsOk.keepsIn (KeepsOk.after hs2 (putRow_keeps _ _ _ _ _ _ _ _ _ _ _ _))) ?_
      intro u
      exact hjp _
  clear_value jp1
  refine KeepsIn.seq (KeepsOk.keepsIn (KeepsOk.after hs1 (putRow_keeps _ _ _ _ _ _ _ _ _ _ _ _))) ?_
  intro u
  split
  · refine KeepsIn.seq (KeepsOk.keepsIn (KeepsOk.ok (Keeps.refl _))) ?_
    intro v
    exact hjp1 _
  · extract_lets so body body1 s2 n
    have hs2 : Keeps u s2 := Keeps.foldl _ (fun x a => watchSlot_keeps _ _ _ _ _ _ _ _ _ _ _) _ _
    clear_value s2
    refine KeepsIn.seq (KeepsOk.keepsIn (KeepsOk.after hs2 (putState_keeps _ _ _ _ _ _ _ _))) ?_
    intro v
    exact hjp1 _

theorem applyBlock_keeps (unit : Nat) (o : OpRec) (s : State) (ws : List Word) (w g : Obj) (b : Nat) : KeepsIn Prod.snd s (applyBlock unit o s ws w
  g b) := by
  unfold applyBlock
  extract_lets uu gscale hasU stamps
  dsimp -zeta only
  extract_lets nv jp
  have hjp : ∀ x, KeepsIn Prod.snd s (jp x) := by
    intro x
    subst jp
    beta_reduce
    extract_lets jp
    have hjp : ∀ x, KeepsIn Prod.snd s (jp x) := by
      intro x
      subst jp
      beta_reduce
      refine KeepsIn.bind (fun a => ?_)
      extract_lets jp
      have hjp : ∀ x, KeepsIn Prod.snd s (jp x) := by
        intro x
        subst jp
        beta_reduce
        extract_lets stamp touched dt late miss s1 n slots el outs bad
        have hs1 : Keeps s s1 := Keeps.ite (State.bump_keeps _ _ _ _ _) (Keeps.refl _)
        clear_value s1
        refine KeepsIn.ite ?_ ?_
        · refine KeepsIn.seq (KeepsOk.keepsIn (KeepsOk.after (State.bump_keeps _ _ _ _ _) (clearReceipt_keeps _ _ _))) ?_
          intro t
          refine KeepsIn.ok ?_
          dsimp -zeta only
          exact Keeps.refl _
        · refine KeepsIn.ite ?_ ?_
          · refine KeepsIn.seq (KeepsOk.keepsIn (KeepsOk.after (State.bump_keeps _ _ _ _ _) (clearReceipt_keeps _ _ _))) ?_
            intro t
            refine KeepsIn.ok ?_
            dsimp -zeta only
            exact Keeps.refl _
          · refine KeepsIn.seq (KeepsIn.after hs1 (applyWrite_keeps _ _ _ _ _ _ _ _ _)) ?_
            rintro ⟨o2, t⟩
            dsimp -zeta only
            refine KeepsIn.seq (KeepsOk.keepsIn (clearReceipt_keeps _ _ _)) ?_
            intro u
            exact KeepsIn.ok ((State.bump_keeps _ _ _ _ _).trans (State.bump_keeps _ _ _ _ _))
      clear_value jp
      split
      · refine KeepsIn.bind (fun c => ?_)
        exact hjp _
      · refine KeepsIn.bind (fun c => ?_)
        exact hjp _
    clear_value jp
    split
    · refine KeepsIn.bind (fun a => ?_)
      exact hjp _
    · refine KeepsIn.bind (fun a => ?_)
      exact hjp _
  clear_value jp
  refine KeepsIn.ite ?_ ?_
  · refine KeepsIn.bind (fun a => ?_)
    exact hjp _
  · refine KeepsIn.bind (fun a => ?_)
    exact hjp _

theorem applyUnit_keeps (unit : Nat) (o : OpRec) (s : State) (u : Nat) : KeepsIn Prod.snd s (applyUnit unit o s u) := by
  unfold applyUnit
  split
  · extract_lets ws b bits done
    have hdone : ∀ p, KeepsIn Prod.snd p.2 (done p) := fun p => KeepsIn.ok (Keeps.refl _)
    clear_value done
    generalize blockAt _ b = p
    obtain ⟨p0, r, p1, i⟩ := p
    refine KeepsIn.ite (KeepsIn.ok (Keeps.refl _)) (KeepsIn.ite (KeepsIn.error _ _ _) (KeepsIn.ite (hdone _) (KeepsIn.ite ?_ ?_)))
    · exact KeepsIn.after (State.bump_keeps _ _ _ _ _) (hdone _)
    · exact KeepsIn.ite (KeepsIn.error _ _ _) (KeepsIn.seq (applyBlock_keeps _ _ _ _ _ _ _) hdone)
  · exact KeepsIn.ok (Keeps.refl _)

theorem State.meetApply_keeps (s : State) (q sn unit first n : Nat) : KeepsFst s (s.meetApply q sn unit first n) := by
  unfold State.meetApply
  split
  · exact KeepsFst.ite (State.meetUu_keeps _ _) (KeepsFst.mk (Keeps.refl _))
  · exact KeepsFst.mk (Keeps.refl _)

theorem execApply_keeps (q sn unit first n : Nat) (s : State) : KeepsNext s (execApply q sn unit first n s) := by
  unfold execApply
  refine KeepsNext.ite ?_ (KeepsNext.next (Keeps.refl _))
  extract_lets s1
  have hs1 : Keeps s s1 := by
    subst s1
    split
    · exact State.bringBlocks_keeps _ _ _ _ _
    · exact Keeps.refl _
  clear_value s1
  exact KeepsNext.next (hs1.trans (State.workOn_keepsIn _ _ _ _ _ _ _ _ _ _ (fun t => State.meetApply_keeps _ _ _ _ _ _) (fun o t u =>
    applyUnit_keeps _ _ _ _)))

theorem execGram_keeps (q sn unit vxe quad n : Nat) (s : State) : KeepsNext s (execGram q sn unit vxe quad n s) := by
  unfold execGram
  exact streamOn_keeps _ _ _ _ _ _ _ _ _ _ _

theorem rootStore_keeps (unit : Nat) (o : OpRec) (s : State) (u : Nat) (x : Option Mat) (r : Num) (bad : Bool) :
    KeepsIn Prod.snd s (rootStore unit o s u x r bad) := by
  unfold rootStore
  split
  · exact KeepsIn.ok (Keeps.refl _)
  · extract_lets j v cov resid last
    have hresid : ∀ p, KeepsIn Prod.snd p.2 (resid p) := by
      rintro ⟨o1, s1⟩
      subst resid
      dsimp -zeta only
      split
      · exact KeepsIn.ok (Keeps.refl _)
      · extract_lets t s2
        refine KeepsIn.after (State.watchTile_keeps _ _ _ _ _ _ _ _ _ _ _ : Keeps s1 s2) ?_
        exact KeepsIn.seq (KeepsOk.keepsIn (slotted_keepsOk _ _ (State.storeTile_keeps _ _ _ _ _ _ _ _ _ _))) (fun t => KeepsIn.ok (Keeps.refl t))
    clear_value resid
    split
    · exact KeepsIn.after (State.bump_keeps _ _ _ _ _) (hresid _)
    · exact KeepsIn.seq (storeResult_keeps _ _ _ _ _ _ _ _ _ _ _ _) hresid

theorem State.dropRoot_keeps (s : State) (o : OpRec) (u : Nat) : Keeps s (s.dropRoot o u) := by
  unfold State.dropRoot
  exact ⟨rfl, id⟩

theorem rootNext_keeps (unit : Nat) (o : OpRec) (s : State) (x : RootRec) : KeepsIn (fun p => p.2.2) s (rootNext unit o s x) := by
  unfold rootNext
  extract_lets s1 r good
  have hs1 : Keeps s s1 := State.dropRoot_keeps _ _ _
  clear_value s1
  refine KeepsIn.ite (KeepsIn.ok (hs1.trans ⟨rfl, id⟩)) ?_
  refine KeepsIn.ite ?_ (KeepsIn.ok (hs1.trans ⟨rfl, id⟩))
  refine KeepsIn.seq (KeepsIn.after hs1 (rootStore_keeps _ _ _ _ _ _ _)) ?_
  rintro ⟨o2, t⟩
  dsimp -zeta only
  exact KeepsIn.ok (Keeps.refl _)

theorem rootProduct_keeps (unit quad k : Nat) (o : OpRec) (s : State) (u : Nat) : KeepsIn (fun p => p.2.2) s (rootProduct unit quad k o s u) := by
  unfold rootProduct
  split
  · exact KeepsIn.ok (Keeps.refl _)
  · extract_lets ws j p
    refine KeepsIn.ite (KeepsIn.ok (Keeps.refl _)) ?_
    refine KeepsIn.ite (KeepsIn.ok (Keeps.refl _)) ?_
    refine KeepsIn.ite ?_ ?_
    · refine KeepsIn.bind (fun a => ?_)
      extract_lets bad
      split
      · refine KeepsIn.seq (rootStore_keeps _ _ _ _ _ _ _) ?_
        rintro ⟨o2, t⟩
        dsimp -zeta only
        exact KeepsIn.ok (Keeps.refl _)
      · exact rootNext_keeps _ _ _ _
    · split
      · exact KeepsIn.error _ _ _
      · exact KeepsIn.ite (rootNext_keeps _ _ _ _) (KeepsIn.error _ _ _)

theorem State.rootRun_keeps (s : State) (q sn unit u : Nat) : Keeps s (s.rootRun q sn unit u) := by
  unfold State.rootRun
  split
  · extract_lets quad
    refine Keeps.ite (Keeps.refl _) ?_
    split
    · rename_i t v e
      have hv : Keeps s v := KeepsFst.of_eq (State.meetQuad_keeps _ _ _ _) e
      exact hv
    · rename_i t v e
      have hv : Keeps s v := KeepsFst.of_eq (State.meetQuad_keeps _ _ _ _) e
      split
      · exact hv.trans (State.workFails_keeps _ _ _ _)
      · rename_i w e2
        have hw : Keeps s w := (KeepsIn.after hv (rootProduct_keeps _ _ _ _ _ _)) _ e2
        exact (hw.trans (State.putOp_keeps _ _)).trans (State.pieces_keeps _ _)
  · exact Keeps.refl _

theorem execRoot_keeps (q sn unit first n : Nat) (s : State) : KeepsNext s (execRoot q sn unit first n s) := by
  unfold execRoot
  exact KeepsNext.ite (KeepsNext.next ((Keeps.foldl _ (fun x a => State.rootRun_keeps _ _ _ _ _) _ _).trans (State.settle_keeps _))) (KeepsNext.next
    (Keeps.refl _))

end Sys2Proof.Machine
end

section
/-! What every command keeps: the memory system. -/

namespace Sys2Proof.Machine

theorem State.mapSeq_keeps (s : State) (o : OpRec) (f : SeqRec → SeqRec) : Keeps s (s.mapSeq o f) := by
  unfold State.mapSeq
  exact State.seqs_keeps _ _

theorem State.accHold_keeps (s : State) (o : OpRec) (a t : Nat) : Keeps s (s.accHold o a t) := by
  unfold State.accHold
  exact Keeps.ite (Keeps.refl _) ((State.mapSeq_keeps _ _ _).trans (State.bump_keeps _ _ _ _ _))

theorem setReceipts_keeps (o : OpRec) (d : Obj) (t : Nat) (xs : List Nat) (s : State) : KeepsOk s (setReceipts o d t xs s) := by
  induction xs generalizing s with
  | nil =>
    rw [setReceipts]
    exact KeepsOk.ok (Keeps.refl _)
  | cons x xs ih =>
    rw [setReceipts]
    split
    · exact KeepsOk.ok (Keeps.refl _)
    · extract_lets b byte a k
      split
      · exact KeepsOk.error _ _
      · rename_i u e
        have hu : Keeps s u := (slotted_keepsIn _ _ (State.atomicAt_keepsIn _ _ _ _ _ _)) _ e
        exact KeepsOk.after hu (ih _)

theorem accAdd_keeps (o : OpRec) (a d : Obj) (p r c : Nat) (s : State) : KeepsIn Prod.snd s (accAdd o a d p r c s) := by
  unfold accAdd
  extract_lets first lo cov key was last t
  refine KeepsIn.bind (fun b => ?_)
  extract_lets skip here
  refine KeepsIn.bind (fun a1 => ?_)
  extract_lets x out
  refine KeepsIn.seq (KeepsOk.keepsIn (slotted_keepsOk _ _ (KeepsOk.ite (State.writeTile_keeps _ _ _ _ _ _ _ _) (State.writePart_keeps _ _ _ _ _ _ _
    _ _)))) ?_
  intro u
  refine KeepsIn.seq (KeepsOk.keepsIn (setReceipts_keeps _ _ _ _ _)) ?_
  intro v
  dsimp -zeta only
  exact KeepsIn.ok ((((State.wroteTile_keeps _ _ _ _ _ _).trans (State.mapSeq_keeps _ _ _)).trans (State.bump_keeps _ _ _ _ _)).trans
    (State.watchTile_keeps _ _ _ _ _ _ _ _ _ _ _))

theorem State.accTile_keeps (s : State) (o : OpRec) (unit : Nat) (a d : Obj) (u : Nat) : Keeps s (s.accTile o unit a d u) := by
  unfold State.accTile
  dsimp -zeta only
  extract_lets t key
  refine Keeps.ite ((State.pieceDid_keeps _ _ _ _).trans (State.failOp_keeps _ _ _ _ _)) ?_
  refine Keeps.ite (State.accHold_keeps _ _ _ _) ?_
  split
  · exact State.workFails_keeps _ _ _ _
  · rename_i v e
    have hv : Keeps s v := (accAdd_keeps _ _ _ _ _ _ _) _ e
    exact (hv.trans (State.putOp_keeps _ _)).trans (State.pieceDid_keeps _ _ _ _)

theorem State.accTilesFrom_keeps (s : State) (q sn unit u n : Nat) : Keeps s (s.accTilesFrom q sn unit u n) := by
  induction n generalizing s q sn unit u with
  | zero =>
    rw [State.accTilesFrom]
    exact Keeps.refl _
  | succ n ih =>
    rw [State.accTilesFrom]
    split
    · exact Keeps.refl _
    · extract_lets o
      split
      · exact (State.accTile_keeps _ _ _ _ _ _).trans (ih _ _ _ _ _)
      · exact Keeps.refl _

theorem execReduceAcc_keeps (q sn unit first n : Nat) (s : State) : KeepsNext s (execReduceAcc q sn unit first n s) := by
  unfold execReduceAcc
  refine KeepsNext.ite ?_ (KeepsNext.next (Keeps.refl _))
  split
  · exact KeepsNext.next (Keeps.refl _)
  · split
    · exact KeepsNext.next (Keeps.refl _)
    · rename_i t e
      have ht : Keeps s t := (State.seqJoin_keepsSome _ _) _ e
      exact KeepsNext.next ((ht.trans (State.accTilesFrom_keeps _ _ _ _ _ _)).trans (State.settle_keeps _))

theorem execContributionRelease_keeps (q sn tile : Nat) (s : State) : KeepsNext s (execContributionRelease q sn tile s) := by
  unfold execContributionRelease
  split
  · exact KeepsNext.next (Keeps.refl _)
  · extract_lets o
    split
    · extract_lets u
      split
      · exact KeepsNext.ite (KeepsNext.next ((State.accTile_keeps _ _ _ _ _ _).trans (State.settle_keeps _))) (KeepsNext.next (Keeps.refl _))
      · exact KeepsNext.next (Keeps.refl _)
    · exact KeepsNext.next (Keeps.refl _)

theorem State.replay_keeps (s : State) (j : OpRec) (depth : Nat) (rd : Nat × Nat × Nat) (xs : List Part) : Keeps s (s.replay j depth rd xs) := by
  induction xs generalizing s with
  | nil =>
    rw [State.replay]
    exact Keeps.refl _
  | cons x xs ih =>
    rw [State.replay]
    exact (State.pieces_keeps _ _).trans (ih _)

theorem execClassADetection_keeps (q sn idx role tile : Nat) (s : State) : KeepsNext s (execClassADetection q sn idx role tile s) := by
  unfold execClassADetection
  split
  · exact KeepsNext.next (Keeps.refl _)
  · rename_i o _
    split
    · exact KeepsNext.next (Keeps.refl _)
    · rename_i x _
      generalize x.tileAt tile = p
      obtain ⟨p, r, c⟩ := p
      dsimp -zeta only
      extract_lets +onlyGivenNames a pc slot base depth met able prod pending hbm st deep chan
      refine KeepsNext.ite (KeepsNext.next (Keeps.refl _)) ?_
      have hi : KeepsSnd s (if hbm = true then s.takeInj (Reg.hbcInj st) 3 (s.pcOf a) else if deep = true then s.takeInj (Reg.dtcInj chan) 3 0
          else (false, s)) :=
        KeepsSnd.ite (State.takeInj_inFaults _ _ _ _).keeps (KeepsSnd.ite (State.takeInj_inFaults _ _ _ _).keeps (KeepsSnd.mk (Keeps.refl _)))
      generalize (if hbm = true then s.takeInj (Reg.hbcInj st) 3 (s.pcOf a) else if deep = true then s.takeInj (Reg.dtcInj chan) 3 0
          else (false, s)) = p at hi
      obtain ⟨inj, s1⟩ := p
      extract_lets s2 ok s3 det s4 s5 s6 s7
      have hs2 : Keeps s s2 := Keeps.trans hi (State.cond_keeps _ _ _ (fun t => State.bump_keeps _ _ _ _ _))
      clear_value s2
      have hs3 : Keeps s s3 := hs2.trans (State.cond_keeps _ _ _ (fun t => State.bump_keeps _ _ _ _ _))
      clear_value s3
      have hs4 : Keeps s s4 := hs3.trans (State.detect_inFaults _ _).keeps
      clear_value s4
      have hs5 : Keeps s s5 := hs4.trans (State.pieces_keeps _ _)
      clear_value s5
      have hfail : KeepsNext s (.next ((s5.cond hbm (fun s => s.bump (Reg.hbcRepcnt st) 15 0 1)).failOp base.1 base.2.1 stDataErr base.2.2)) :=
        KeepsNext.next ((hs5.trans (State.cond_keeps _ _ _ (fun t => State.bump_keeps _ _ _ _ _))).trans (State.failOp_keeps _ _ _ _ _))
      have hs6 : Keeps s s6 := hs5.trans (State.cond_keeps _ _ _ (fun t => State.bump_keeps _ _ _ _ _))
      clear_value s6
      have hs7 : Keeps s s7 := hs6.trans (State.mapOp_keeps _ _ _ _)
      clear_value s7
      clear_value ok prod
      cases prod with
      | some j => exact KeepsNext.ite (KeepsNext.next (hs7.trans (State.replay_keeps _ _ _ _ _))) hfail
      | none => exact hfail

theorem State.untag_keeps (s : State) (a n : Nat) : Keeps s (s.untag a n) := by
  unfold State.untag
  exact Keeps.ite (Keeps.refl _) ⟨rfl, id⟩

theorem execMscWrite_keeps (cls addr : Nat) (data : List Byte) (errs : List (Nat × Nat)) (s : State) : KeepsNext s (execMscWrite cls addr data errs
  s) := by
  unfold execMscWrite
  split
  · extract_lets s1
    have hs1 : Keeps s s1 := State.unitErrors_keeps _ _ _
    clear_value s1
    split
    · rename_i t e
      have ht : Keeps s t := (KeepsOk.after hs1 (State.writeMem_keeps _ _ _ _)) _ e
      exact KeepsNext.next (ht.trans (State.untag_keeps _ _ _))
    · exact KeepsNext.next (hs1.trans (State.failRecord_keeps _ _ _ _))
  · extract_lets s1
    have hs1 : Keeps s s1 := State.unitErrors_keeps _ _ _
    clear_value s1
    split
    · rename_i t e
      have ht : Keeps s t := (KeepsOk.after hs1 (State.writeMem_keeps _ _ _ _)) _ e
      exact KeepsNext.next (ht.trans (State.untag_keeps _ _ _))
    · exact KeepsNext.next (hs1.trans (State.failRecord_keeps _ _ _ _))
  · exact KeepsNext.next (Keeps.refl _)

theorem State.markLine_keeps (s : State) (a : Nat) (m : Mark) : Keeps s (s.markLine a m) := by
  unfold State.markLine
  exact Keeps.foldl _ (fun x a => State.setMark_keeps _ _ _) _ _

theorem State.lineError_keeps (s : State) (slice set way addr : Nat) (two dirty inj : Bool) : Keeps s (s.lineError slice set way addr two dirty inj)
  := by
  unfold State.lineError
  exact Keeps.ite ((Keeps.ite ((State.bump_keeps _ _ _ _ _).trans (State.markLine_keeps _ _ _)) (Keeps.ite ((State.bump_keeps _ _ _ _ _).trans
    (State.markLine_keeps _ _ _)) (State.bump_keeps _ _ _ _ _))).trans ((State.detect_inFaults _ _).keeps)) ((State.bump_keeps _ _ _ _ _).trans
    ((State.countDet_inFaults _ _ _).keeps))

theorem execMscEcc_keeps (slice set way addr : Nat) (two dirty : Bool) (s : State) : KeepsNext s (execMscEcc slice set way addr two dirty s) := by
  unfold execMscEcc
  refine KeepsNext.ite ?_ (KeepsNext.next (Keeps.refl _))
  dsimp -zeta only
  exact KeepsNext.next ((State.takeInj_inFaults _ _ _ _).keeps.trans (State.lineError_keeps _ _ _ _ _ _ _ _))

theorem State.atomicCmd_keeps (s : State) (addr width : Nat) (flt : Bool) (f : Nat → Nat) : Keeps s (s.atomicCmd addr width flt f) := by
  unfold State.atomicCmd
  refine Keeps.ite ?_ (Keeps.refl _)
  split
  · rename_i t e
    have ht : Keeps s t := (State.atomicAt_keepsIn _ _ _ _ _ _) _ e
    exact ht.trans (State.reply_keeps _ _)
  · exact (State.failRecord_keeps _ _ _ _).trans (State.reply_keeps _ _)

theorem execAdd_keeps (addr width : Nat) (v : Word) (s : State) : KeepsNext s (execAdd addr width v s) := by
  unfold execAdd
  exact KeepsNext.next (State.atomicCmd_keeps _ _ _ _ _)

theorem execAnd_keeps (addr width : Nat) (v : Word) (s : State) : KeepsNext s (execAnd addr width v s) := by
  unfold execAnd
  exact KeepsNext.next (State.atomicCmd_keeps _ _ _ _ _)

theorem execOr_keeps (addr width : Nat) (v : Word) (s : State) : KeepsNext s (execOr addr width v s) := by
  unfold execOr
  exact KeepsNext.next (State.atomicCmd_keeps _ _ _ _ _)

theorem execXor_keeps (addr width : Nat) (v : Word) (s : State) : KeepsNext s (execXor addr width v s) := by
  unfold execXor
  exact KeepsNext.next (State.atomicCmd_keeps _ _ _ _ _)

theorem execSwap_keeps (addr width : Nat) (v : Word) (s : State) : KeepsNext s (execSwap addr width v s) := by
  unfold execSwap
  exact KeepsNext.next (State.atomicCmd_keeps _ _ _ _ _)

theorem execCas_keeps (addr width : Nat) (cmp v : Word) (s : State) : KeepsNext s (execCas addr width cmp v s) := by
  unfold execCas
  exact KeepsNext.next (State.atomicCmd_keeps _ _ _ _ _)

theorem execSmin_keeps (addr width : Nat) (v : Word) (s : State) : KeepsNext s (execSmin addr width v s) := by
  unfold execSmin
  exact KeepsNext.next (State.atomicCmd_keeps _ _ _ _ _)

theorem execSmax_keeps (addr width : Nat) (v : Word) (s : State) : KeepsNext s (execSmax addr width v s) := by
  unfold execSmax
  exact KeepsNext.next (State.atomicCmd_keeps _ _ _ _ _)

theorem execUmin_keeps (addr width : Nat) (v : Word) (s : State) : KeepsNext s (execUmin addr width v s) := by
  unfold execUmin
  exact KeepsNext.next (State.atomicCmd_keeps _ _ _ _ _)

theorem execUmax_keeps (addr width : Nat) (v : Word) (s : State) : KeepsNext s (execUmax addr width v s) := by
  unfold execUmax
  exact KeepsNext.next (State.atomicCmd_keeps _ _ _ _ _)

theorem execFadd32_keeps (addr : Nat) (v : Word) (s : State) : KeepsNext s (execFadd32 addr v s) := by
  unfold execFadd32
  exact KeepsNext.next (State.atomicCmd_keeps _ _ _ _ _)

theorem execFadd64_keeps (addr : Nat) (v : Word) (s : State) : KeepsNext s (execFadd64 addr v s) := by
  unfold execFadd64
  exact KeepsNext.next (State.atomicCmd_keeps _ _ _ _ _)

theorem State.coolCount_keeps (s : State) (stack k : Nat) (limit t : Int) : KeepsSnd s (s.coolCount stack k limit t) := by
  unfold State.coolCount
  exact KeepsSnd.mk ⟨rfl, id⟩

theorem execTemperatureReadout_keeps (stack : Nat) (temp : Option Int) (s : State) : KeepsNext s (execTemperatureReadout stack temp s) := by
  unfold execTemperatureReadout
  refine KeepsNext.ite (KeepsNext.next (Keeps.refl _)) ?_
  refine KeepsNext.ite ?_ ?_
  · refine KeepsNext.next ?_
    split
    · exact State.put_keeps _ _ _ _ _
    · exact Keeps.refl _
  · dsimp -zeta only
    split
    · exact KeepsNext.next (((State.takeInj_inFaults _ _ _ _).keeps.trans (State.put_keeps _ _ _ _ _)).trans ((State.detect_inFaults _ _).keeps))
    · exact KeepsNext.next (((KeepsSnd.after (KeepsSnd.after ((State.takeInj_inFaults _ _ _ _).keeps) (State.coolCount_keeps _ _ _ _ _))
        (State.coolCount_keeps _ _ _ _ _)).trans (State.put_keeps _ _ _ _ _)).trans (State.put_keeps _ _ _ _ _))

theorem execPatrolScrub_keeps (stack : Nat) (errs : List (Nat × Nat)) (s : State) : KeepsNext s (execPatrolScrub stack errs s) := by
  unfold execPatrolScrub
  exact KeepsNext.ite (KeepsNext.next (Keeps.refl _)) (KeepsNext.next ((State.unitErrors_keeps _ _ _).trans (State.put_keeps _ _ _ _ _)))

theorem State.syncHfree_keeps (s : State) : Keeps s s.syncHfree := by
  unfold State.syncHfree
  exact State.put_keeps _ _ _ _ _

theorem State.mapOut_keeps (s : State) (stack c : Nat) : Keeps s (s.mapOut stack c) := by
  unfold State.mapOut
  exact Keeps.ite (Keeps.refl _) ((State.putBit_keeps _ _ _ _).trans (State.putBit_keeps _ _ _ _))

theorem State.recallGroup_keeps (s : State) (g : Nat) : Keeps s (s.recallGroup g) := by
  unfold State.recallGroup
  exact Keeps.foldl _ (fun x a => State.dropLine_keeps _ _ _) _ _

/-- A group under another name, with the state beside its memory. -/
theorem State.renameGroup_keeps (s : State) (per g h : Nat) (hp : 0 < per) (tags : Tab (Option Tag)) (marks : Tab Mark) (migs : List MigRec) :
    Keeps s { s with mem := moveKeys per g h s.mem, tags := tags, marks := marks, migs := migs } :=
  ⟨rfl, fun x => ⟨wf_moveKeys per g h _ hp x.1, x.2⟩⟩

/-- A group's memory gone, with its tags and marks. -/
theorem State.clearGroup_keeps (s : State) (lo hi : Nat) (tags : Tab (Option Tag)) (marks : Tab Mark) :
    Keeps s { s with mem := s.mem.clear lo hi, tags := tags, marks := marks } := ⟨rfl, fun h => ⟨wf_clearMem _ _ _ h.1, h.2⟩⟩

theorem State.opsJournal_keeps (s : State) (os js : List OpRec) : Keeps s { s with ops := os, journal := js } := ⟨rfl, id⟩

theorem State.relocateOne_keeps (s : State) (top g : Nat) : Keeps s (s.relocateOne top g) := by
  unfold State.relocateOne
  extract_lets s1 name es e s0 s7
  have hs1 : Keeps s s1 := State.recallGroup_keeps _ _
  clear_value s1 name
  cases name with
  | some h =>
    dsimp -zeta only
    extract_lets s2 s3 es2 s4 ren s5 s6
    have hs2 : Keeps s s2 := (hs1.trans (State.setTir_keeps _ _ _)).trans (State.setTir_keeps _ _ _)
    clear_value s2
    have hs3 : Keeps s s3 := hs2.trans (State.renameGroup_keeps _ _ _ _ (by decide) _ _ _)
    clear_value s3
    have hs4 : Keeps s s4 := hs3.trans (Keeps.foldl _ (fun x a => State.poke_keeps _ _ _) _ _)
    clear_value s4
    have hs5 : Keeps s s5 := hs4.trans (State.opsJournal_keeps _ _ _)
    clear_value s5
    have hs6 : Keeps s s6 := (hs5.trans (State.bump_keeps _ _ _ _ _)).trans (State.bump_keeps _ _ _ _ _)
    clear_value s6
    exact hs6.trans (State.form_inFaults _ _).keeps
  | none => exact ((hs1.trans (State.setTir_keeps _ _ _)).trans (State.clearGroup_keeps _ _ _ _ _)).trans (State.form_inFaults _ _).keeps

theorem State.relocate_keeps (s : State) (top : Nat) : Keeps s (s.relocate top) := by
  unfold State.relocate
  exact Keeps.foldl _ (fun x a => State.relocateOne_keeps _ _ _) _ _

theorem State.channelsOut_keeps (s : State) (stack : Nat) (cs : List Nat) : Keeps s (s.channelsOut stack cs) := by
  unfold State.channelsOut
  exact ((Keeps.foldl _ (fun x a => (State.putBit_keeps _ _ _ _).trans (State.putBit_keeps _ _ _ _)) _ _).trans (State.put_keeps _ _ _ _ _)).trans
    (State.put_keeps _ _ _ _ _)

theorem State.retireStack_keeps (s : State) (stack : Nat) : Keeps s (s.retireStack stack) := by
  unfold State.retireStack
  exact (((State.putBit_keeps _ _ _ _).trans (State.putBit_keeps _ _ _ _)).trans (State.unitOut_keeps _ _)).trans (Keeps.of_fields rfl rfl rfl rfl
    rfl)

theorem State.mapOutRecord_keeps (s : State) (stack c : Nat) : Keeps s (s.mapOutRecord stack c) := by
  unfold State.mapOutRecord
  extract_lets r
  split
  · exact Keeps.ite ((State.settleFault_inFaults _ _ _ _).keeps) ((State.outRecord_inFaults _ _ _).keeps)
  · exact (State.outRecord_inFaults _ _ _).keeps

theorem execChannelDrained_keeps (stack chan : Nat) (s : State) : KeepsNext s (execChannelDrained stack chan s) := by
  unfold execChannelDrained
  exact KeepsNext.ite (KeepsNext.next (Keeps.refl _)) (KeepsNext.ite (KeepsNext.next (Keeps.refl _)) (KeepsNext.next (((Keeps.ite
    (((State.relocate_keeps _ _).trans (State.channelsOut_keeps _ _ _)).trans (State.retireStack_keeps _ _)) (((State.relocate_keeps _ _).trans
    (State.channelsOut_keeps _ _ _)).trans (State.putBit_keeps _ _ _ _))).trans (State.syncHfree_keeps _)).trans (Keeps.foldl _ (fun x a =>
    State.mapOutRecord_keeps _ _ _) _ _))))

theorem execHbcInjWOneSymbol_keeps (ag : Agent) (n pc : Nat) (s : State) : KeepsNext s (execHbcInjWOneSymbol ag n pc s) := by
  unfold execHbcInjWOneSymbol
  exact KeepsNext.ite (KeepsNext.next (State.arm_keeps _ _ _ _)) (KeepsNext.next (Keeps.refl _))

theorem execHbcInjWFourSymbols_keeps (ag : Agent) (n pc : Nat) (s : State) : KeepsNext s (execHbcInjWFourSymbols ag n pc s) := by
  unfold execHbcInjWFourSymbols
  exact KeepsNext.ite (KeepsNext.next (State.arm_keeps _ _ _ _)) (KeepsNext.next (Keeps.refl _))

theorem execHbcInjACrc_keeps (ag : Agent) (n pc : Nat) (s : State) : KeepsNext s (execHbcInjACrc ag n pc s) := by
  unfold execHbcInjACrc
  exact KeepsNext.ite (KeepsNext.next (State.arm_keeps _ _ _ _)) (KeepsNext.next (Keeps.refl _))

theorem execHbcInjReadoutFailure_keeps (ag : Agent) (n : Nat) (s : State) : KeepsNext s (execHbcInjReadoutFailure ag n s) := by
  unfold execHbcInjReadoutFailure
  exact KeepsNext.ite (KeepsNext.next (State.arm_keeps _ _ _ _)) (KeepsNext.next (Keeps.refl _))

theorem execMscInjOneBit_keeps (ag : Agent) (n : Nat) (s : State) : KeepsNext s (execMscInjOneBit ag n s) := by
  unfold execMscInjOneBit
  exact KeepsNext.ite (KeepsNext.next (State.arm_keeps _ _ _ _)) (KeepsNext.next (Keeps.refl _))

theorem execMscInjTwoBits_keeps (ag : Agent) (n : Nat) (s : State) : KeepsNext s (execMscInjTwoBits ag n s) := by
  unfold execMscInjTwoBits
  exact KeepsNext.ite (KeepsNext.next (State.arm_keeps _ _ _ _)) (KeepsNext.next (Keeps.refl _))

end Sys2Proof.Machine
end

section
/-! What every command keeps: tiers and translation. -/

namespace Sys2Proof.Machine

theorem copyTable_keeps (o : OpRec) (a d : Obj) (p r c : Nat) (s : State) : KeepsOk s (copyTable o a d p r c s) := by
  unfold copyTable
  refine KeepsOk.ite ?_ (KeepsOk.ok (Keeps.refl _))
  refine KeepsOk.bind (fun b _ => ?_)
  exact slotted_keepsOk _ _ (State.writeObj_keeps _ _ _ _ _)

theorem copyUnit_keeps (unit : Nat) (o : OpRec) (s : State) (u : Nat) : KeepsIn Prod.snd s (copyUnit unit o s u) := by
  unfold copyUnit
  split
  · extract_lets cov fresh
    refine KeepsIn.ite ?_ ?_
    · refine KeepsIn.bind (fun a => ?_)
      refine KeepsIn.seq (KeepsOk.keepsIn (slotted_keepsOk _ _ (State.storeTile_keeps _ _ _ _ _ _ _ _ _ _))) ?_
      intro t
      refine KeepsIn.seq (KeepsOk.keepsIn (copyTable_keeps _ _ _ _ _ _ _)) ?_
      intro v
      exact KeepsIn.ok (State.wroteTile_keeps _ _ _ _ _ _)
    · refine KeepsIn.bind (fun a => ?_)
      extract_lets x
      refine KeepsIn.ite ?_ (storeResult_keeps _ _ _ _ _ _ _ _ _ _ _ _)
      refine KeepsIn.bind (fun b => ?_)
      refine KeepsIn.seq (storeEncoded_keeps _ _ _ _ _ _ _ _ _ _ _ _ _ _) ?_
      rintro ⟨o2, t⟩
      dsimp -zeta only
      refine KeepsIn.seq (KeepsOk.keepsIn (copyTable_keeps _ _ _ _ _ _ _)) ?_
      intro v
      refine KeepsIn.ok ?_
      dsimp -zeta only
      exact Keeps.refl _
  · exact KeepsIn.ok (Keeps.refl _)

theorem execCopy_keeps (q sn unit first n : Nat) (s : State) : KeepsNext s (execCopy q sn unit first n s) := by
  unfold execCopy
  split
  · exact KeepsNext.next (Keeps.refl _)
  · rename_i o _
    refine KeepsNext.ite (KeepsNext.next ((State.workOn_keepsIn _ _ _ _ _ _ _ _ _ _ (fun t => ?_) (fun o t u => copyUnit_keeps _ _ _ _)).trans
      (State.settle_keeps _))) (KeepsNext.next (Keeps.refl _))
    split
    · exact unmet_keeps _
    · exact State.meetVxe_keeps _ _ _

theorem fillUnit_keeps (unit : Nat) (o : OpRec) (s : State) (u : Nat) : KeepsIn Prod.snd s (fillUnit unit o s u) := by
  unfold fillUnit
  split
  · exact storeResult_keeps _ _ _ _ _ _ _ _ _ _ _ _
  · exact KeepsIn.ok (Keeps.refl _)

theorem execFill_keeps (q sn unit first n : Nat) (s : State) : KeepsNext s (execFill q sn unit first n s) := by
  unfold execFill
  exact KeepsNext.ite (KeepsNext.next ((State.workOn_keepsIn _ _ _ _ _ _ _ _ _ _ (fun t => State.meetVxe_keeps _ _ _) (fun o t u => fillUnit_keeps _
    _ _ _)).trans (State.settle_keeps _))) (KeepsNext.next (Keeps.refl _))

theorem execFirstWrite_keeps (q sn role group : Nat) (s : State) : KeepsNext s (execFirstWrite q sn role group s) := by
  unfold execFirstWrite
  split
  · exact KeepsNext.next (Keeps.refl _)
  · split
    · exact KeepsNext.next (Keeps.refl _)
    · refine KeepsNext.ite ?_ (KeepsNext.next (Keeps.refl _))
      split
      · rename_i t e
        have ht : Keeps s t := (State.placeGroup_keeps _ _ _) _ e
        exact KeepsNext.next ht
      · exact KeepsNext.next (State.workFails_keeps _ _ _ _)

theorem execMigrationStart_keeps (group tier stack : Nat) (s : State) : KeepsNext s (execMigrationStart group tier stack s) := by
  unfold execMigrationStart
  exact KeepsNext.ite (KeepsNext.next ((State.setTir_keeps _ _ _).trans (Keeps.of_fields rfl rfl rfl rfl rfl))) (KeepsNext.next (Keeps.refl _))

theorem execMigrationSwitch_keeps (group : Nat) (s : State) : KeepsNext s (execMigrationSwitch group s) := by
  unfold execMigrationSwitch
  split
  · exact KeepsNext.next (Keeps.refl _)
  · exact KeepsNext.ite (KeepsNext.next (State.moveTo_keeps _ _ _ _)) (KeepsNext.next (Keeps.refl _))

theorem execMigrationAbandon_keeps (group : Nat) (s : State) : KeepsNext s (execMigrationAbandon group s) := by
  unfold execMigrationAbandon
  exact KeepsNext.ite (KeepsNext.next ((State.setTir_keeps _ _ _).trans (Keeps.of_fields rfl rfl rfl rfl rfl))) (KeepsNext.next (Keeps.refl _))

theorem State.placeAll_keeps (s : State) (tier : Nat) (xs : List Nat) : KeepsSnd s (s.placeAll tier xs) := by
  induction xs generalizing s with
  | nil =>
    rw [State.placeAll]
    exact KeepsSnd.mk (Keeps.refl _)
  | cons x xs ih =>
    rw [State.placeAll]
    refine KeepsSnd.ite (ih _) ?_
    split
    · exact KeepsSnd.after (State.moveTo_keeps _ _ _ _) (ih _)
    · exact KeepsSnd.mk (Keeps.refl _)

theorem State.pinAll_keeps (s : State) (tier : Nat) (gs : List Nat) : Keeps s (s.pinAll tier gs) := by
  unfold State.pinAll
  exact Keeps.foldl _ (fun x a => Keeps.ite (State.setTir_keeps _ _ _) (Keeps.refl _)) _ _

theorem placeUnit_keeps (o : OpRec) (s : State) (u : Nat) : KeepsIn Prod.snd s (placeUnit o s u) := by
  unfold placeUnit
  split
  · exact KeepsIn.ok (Keeps.refl _)
  · extract_lets tier gs idle o1
    dsimp -zeta only
    exact KeepsIn.ok ((State.placeAll_keeps _ _ _).trans (State.pinAll_keeps _ _ _))

theorem execPlace_keeps (q sn unit first n : Nat) (s : State) : KeepsNext s (execPlace q sn unit first n s) := by
  unfold execPlace
  refine KeepsNext.ite ?_ (KeepsNext.next (Keeps.refl _))
  extract_lets s1
  have hs1 : Keeps s s1 := State.workOn_keepsIn _ _ _ _ _ _ _ _ _ _ (fun t => unmet_keeps _) (fun o t u => placeUnit_keeps _ _ _)
  clear_value s1
  split
  · exact KeepsNext.ite (KeepsNext.next ((hs1.trans (State.addrRecord_keeps _ _ _)).trans (State.failOp_keeps _ _ _ _ _))) (KeepsNext.next hs1)
  · exact KeepsNext.next hs1

/-- A group's memory and lines gone, with the state beside them. -/
theorem State.dropGroup_keeps (s : State) (lo hi k n : Nat) (tags : Tab (Option Tag)) (marks : Tab Mark) (lr : Tab Nat) (migs : List MigRec) :
    Keeps s { s with mem := s.mem.clear lo hi, tags := tags, marks := marks, dirLines := s.dirLines.clear k n, lr := lr, migs := migs } :=
  ⟨rfl, fun h => ⟨wf_clearMem _ _ _ h.1, h.2.1, fun e he => h.2.2.1 e (List.mem_filter.1 he).1, h.2.2.2⟩⟩

theorem State.releaseGroup_keeps (s : State) (g : Nat) : Keeps s (s.releaseGroup g) := by
  unfold State.releaseGroup
  extract_lets e s1
  have hs1 : Keeps s s1 := Keeps.ite (State.put_keeps _ _ _ _ _) (Keeps.ite (Keeps.refl _) (State.put_keeps _ _ _ _ _))
  clear_value s1
  exact Keeps.ite (Keeps.refl _) ((hs1.trans (State.setTir_keeps _ _ _)).trans (State.dropGroup_keeps _ _ _ _ _ _ _ _ _))

theorem execTirRelease_keeps (ag : Agent) (v : Word) (s : State) : KeepsNext s (execTirRelease ag v s) := by
  unfold execTirRelease
  exact KeepsNext.ite (KeepsNext.next ((Keeps.foldl _ (fun x a => State.releaseGroup_keeps _ _) _ _).trans (State.putBit_keeps _ _ _ _)))
    (KeepsNext.next (Keeps.refl _))

theorem execTirReleaseDone_keeps (s : State) : KeepsNext s (execTirReleaseDone s) := by
  unfold execTirReleaseDone
  exact KeepsNext.next (State.putBit_keeps _ _ _ _)

theorem State.setInv_keeps (s : State) (i : Option InvRec) : Keeps s (s.setInv i) := by
  unfold State.setInv
  extract_lets n
  refine Keeps.trans ?_ (State.put_keeps _ _ _ _ _)
  exact ⟨rfl, id⟩

theorem State.invEnd_keeps (s : State) (ctx : Nat) : Keeps s (s.invEnd ctx) := by
  unfold State.invEnd
  extract_lets f s1
  have hs1 : Keeps s s1 := ⟨rfl, id⟩
  clear_value s1
  exact ((hs1.trans (State.setInv_keeps _ _)).trans (State.putBit_keeps _ _ _ _)).trans (State.bump_keeps _ _ _ _ _)

theorem execTrnInv_keeps (ag : Agent) (v : Word) (s : State) : KeepsNext s (execTrnInv ag v s) := by
  unfold execTrnInv
  exact KeepsNext.ite (KeepsNext.next (Keeps.refl _)) (KeepsNext.ite (KeepsNext.next (State.putBit_keeps _ _ _ _)) (KeepsNext.ite (KeepsNext.next
    (Keeps.refl _)) (KeepsNext.ite (KeepsNext.next (State.bump_keeps _ _ _ _ _)) (KeepsNext.next ((State.setInv_keeps _ _).trans (State.putBit_keeps
    _ _ _ _))))))

theorem State.switchOps_keeps (s : State) (i : InvRec) (unit : Nat) (xs : List OpRec) : Keeps s (s.switchOps i unit xs) := by
  induction xs generalizing s with
  | nil =>
    rw [State.switchOps]
    exact Keeps.refl _
  | cons x xs ih =>
    rw [State.switchOps]
    refine Keeps.trans ?_ (ih _)
    refine Keeps.ite (Keeps.refl _) ?_
    split
    · exact Keeps.ite ((State.addrRecord_keeps _ _ _).trans (State.failOp_keeps _ _ _ _ _)) (Keeps.refl _)
    · exact Keeps.ite (Keeps.refl _) (State.mapOp_keeps _ _ _ _)

theorem execRangeAck_keeps (unit : Nat) (s : State) : KeepsNext s (execRangeAck unit s) := by
  unfold execRangeAck
  split
  · exact KeepsNext.next (Keeps.refl _)
  · exact KeepsNext.ite (KeepsNext.next (Keeps.refl _)) (KeepsNext.next ((State.setInv_keeps _ _).trans (State.switchOps_keeps _ _ _ _)))

theorem execTrnInvDone_keeps (s : State) : KeepsNext s (execTrnInvDone s) := by
  unfold execTrnInvDone
  split
  · exact KeepsNext.next (Keeps.refl _)
  · exact KeepsNext.ite (KeepsNext.next (State.invEnd_keeps _ _)) (KeepsNext.next (Keeps.refl _))

theorem State.sectorsFail_keeps (s : State) (g k failed : Nat) : Keeps s (s.sectorsFail g k failed) := by
  unfold State.sectorsFail
  extract_lets e n all
  have hall : ∀ y m, Keeps y (all y m) := by
    intro y m
    subst all
    beta_reduce
    exact Keeps.foldl _ (fun x a => State.setMark_keeps _ _ _) _ _
  clear_value all
  refine Keeps.ite (Keeps.refl _) ?_
  refine Keeps.ite (hall _ _) ?_
  dsimp -zeta only
  extract_lets f
  exact Keeps.ite (((KeepsSnd.ite ((State.takeInj_inFaults _ _ _ _).keeps) (KeepsSnd.ite ((State.takeInj_inFaults _ _ _ _).keeps) (KeepsSnd.mk
    (Keeps.refl _)))).trans (State.bump_keeps _ _ _ _ _)).trans ((State.detect_inFaults _ _).keeps)) ((((KeepsSnd.ite ((State.takeInj_inFaults _ _ _
    _).keeps) (KeepsSnd.ite ((State.takeInj_inFaults _ _ _ _).keeps) (KeepsSnd.mk (Keeps.refl _)))).trans (hall _ _)).trans (State.bump_keeps _ _ _
    _ _)).trans ((State.detect_inFaults _ _).keeps))

theorem execSectorRebuild_keeps (group chunk failed : Nat) (s : State) : KeepsNext s (execSectorRebuild group chunk failed s) := by
  unfold execSectorRebuild
  exact KeepsNext.next (State.sectorsFail_keeps _ _ _ _)

theorem execDeepTierScrub_keeps (errs : List (Nat × Nat × Nat)) (s : State) : KeepsNext s (execDeepTierScrub errs s) := by
  unfold execDeepTierScrub
  exact KeepsNext.next (Keeps.foldl _ (fun x a => Keeps.ite (Keeps.refl _) (State.sectorsFail_keeps _ _ _ _)) _ _)

theorem State.freeDeep_keeps (s : State) (share : Nat) (xs : List Nat) : Keeps s (s.freeDeep share xs) := by
  induction xs generalizing s with
  | nil =>
    rw [State.freeDeep]
    exact Keeps.refl _
  | cons x xs ih =>
    rw [State.freeDeep]
    refine Keeps.ite (Keeps.refl _) ?_
    split
    · exact (State.moveTo_keeps _ _ _ _).trans (ih _)
    · exact ih _

theorem State.dtcOut_keeps (s : State) (n : Nat) : Keeps s (s.dtcOut n) := by
  unfold State.dtcOut
  exact Keeps.ite (Keeps.refl _) ((((State.freeDeep_keeps _ _ _).trans (State.putBit_keeps _ _ _ _)).trans (State.putBit_keeps _ _ _ _)).trans
    (State.put_keeps _ _ _ _ _))

theorem execDtcInjOneSector_keeps (ag : Agent) (n : Nat) (s : State) : KeepsNext s (execDtcInjOneSector ag n s) := by
  unfold execDtcInjOneSector
  exact KeepsNext.ite (KeepsNext.next (State.arm_keeps _ _ _ _)) (KeepsNext.next (Keeps.refl _))

theorem execDtcInjThreeSectors_keeps (ag : Agent) (n : Nat) (s : State) : KeepsNext s (execDtcInjThreeSectors ag n s) := by
  unfold execDtcInjThreeSectors
  exact KeepsNext.ite (KeepsNext.next (State.arm_keeps _ _ _ _)) (KeepsNext.next (Keeps.refl _))

theorem execDtcInjClassASector_keeps (ag : Agent) (n : Nat) (s : State) : KeepsNext s (execDtcInjClassASector ag n s) := by
  unfold execDtcInjClassASector
  exact KeepsNext.ite (KeepsNext.next (State.arm_keeps _ _ _ _)) (KeepsNext.next (Keeps.refl _))

end Sys2Proof.Machine
end

section
/-! What every command keeps: engine reads. -/

namespace Sys2Proof.Machine

theorem State.bankError_keeps (s : State) (addr : Nat) (two inj : Bool) (case : Nat) (op : Option (Nat × Nat × Nat)) (slot : Nat) : Keeps s
  (s.bankError addr two inj case op slot) := by
  unfold State.bankError
  split
  · extract_lets i f s1
    have hs1 : Keeps s s1 := State.bump_keeps _ _ _ _ _
    clear_value s1
    refine Keeps.ite ?_ ((State.bump_keeps _ _ _ _ _).trans ((State.countDet_inFaults _ _ _).keeps))
    refine Keeps.ite (hs1.trans ((State.detect_inFaults _ _).keeps)) ?_
    refine Keeps.ite (hs1.trans (State.setMark_keeps _ _ _)) ?_
    split
    · exact (hs1.trans ((State.detect_inFaults _ _).keeps)).trans (State.failOp_keeps _ _ _ _ _)
    · exact hs1.trans ((State.detect_inFaults _ _).keeps)
  · exact Keeps.refl _

theorem State.readTimeout_keeps (s : State) (link : Nat) (op : Nat × Nat × Nat) (inj : Bool) : Keeps s (s.readTimeout link op inj) := by
  unfold State.readTimeout
  exact ((State.bump_keeps _ _ _ _ _).trans ((State.detect_inFaults _ _).keeps)).trans (State.failOp_keeps _ _ _ _ _)

theorem State.readRefused_keeps (s : State) (link : Nat) (op : Nat × Nat × Nat) (slot : Nat) (inj : Bool) : Keeps s (s.readRefused link op slot inj)
  := by
  unfold State.readRefused
  exact ((State.bump_keeps _ _ _ _ _).trans ((State.detect_inFaults _ _).keeps)).trans (State.failOp_keeps _ _ _ _ _)

theorem State.meetUnit_keeps (op : Option (Nat × Nat × Nat)) (us : List (Nat × Nat)) (s : State) (a : Armed) : Keeps s (s.meetUnit op us a) := by
  unfold State.meetUnit
  extract_lets first
  have hfirst : ∀ p f, (∀ e, Keeps s (f e)) → Keeps s (first p f) := fun p f h => by
    subst first
    dsimp only
    split
    · exact h _
    · exact Keeps.refl s
  clear_value first
  split
  · refine Keeps.ite (hfirst _ _ (fun e => ?_)) (Keeps.ite (hfirst _ _ (fun e => ?_)) (hfirst _ _ (fun e => ?_)))
    · exact Keeps.ite (State.setMark_keeps _ _ _) (State.unitError_keeps _ _ _ _)
    · exact State.sectorsFail_keeps _ _ _ _
    · exact ((State.free_keeps _ _).trans (State.disarm_inFaults _ _ _ _).keeps).trans (State.lineError_keeps _ _ _ _ _ _ _ _)
  · refine Keeps.ite (hfirst _ _ (fun e => ?_)) ?_
    · exact (State.disarm_inFaults _ _ _ _).keeps.trans (State.bankError_keeps _ _ _ _ _ _ _)
    · split
      · have hs1 := (State.disarm_inFaults s a.reg a.kind a.target).keeps
        exact Keeps.ite (hs1.trans (State.readRefused_keeps _ _ _ _ _)) (hs1.trans (State.readTimeout_keeps _ _ _ _))
      · exact Keeps.refl _

theorem State.readLine_keeps (s : State) (a : Nat) (l : Line) (hl : s.sound → l.sound) : Keeps s (s.readLine a l) := by
  unfold State.readLine
  split
  · have hw := State.writeBack_keeps s a
    rename_i c _
    refine Keeps.of_sound ?_ (fun hs => (hw c).trans (State.setLine_some_keeps _ _ _ (fun _ => l.clean_sound (hl hs))))
    obtain ⟨r, e⟩ := (s.writeBack a c).setLine_frame a (some l.clean)
    rw [e]
    exact (hw c).pending
  · exact Keeps.refl s

/-- The lines that reads meet are the directory's own. -/
theorem State.heldLines_sound (s : State) (xs : List (Nat × Nat × Nat)) (hs : s.sound) (e : Nat × Line) (he : e ∈ s.heldLines xs) : e.2.sound := by
  obtain ⟨d, -, hd⟩ := List.mem_filterMap.1 he
  cases hx : s.line (64 * d.1) with
  | none => rw [hx] at hd; cases hd
  | some l =>
    rw [hx] at hd
    dsimp only at hd
    split at hd
    · cases hd; exact s.line_sound _ l hs hx
    · cases hd

theorem State.readLine_pending (s : State) (a : Nat) (l : Line) : (s.readLine a l).pending = s.pending := by
  unfold State.readLine
  split
  · rename_i c _
    obtain ⟨r, e⟩ := (s.writeBack a c).setLine_frame a (some l.clean)
    rw [e]
    exact (State.writeBack_keeps s a c).pending
  · rfl

/-- The lines that the directory holds of some reads, each read. -/
theorem State.readLines_keeps (s : State) (es : List (Nat × Line)) (hes : s.sound → ∀ e ∈ es, e.2.sound) :
    Keeps s (es.foldl (fun s e => s.readLine e.1 e.2) s) := by
  refine Keeps.of_sound ?_ (fun hs => Keeps.foldl_mem _ _ _ (fun e he x => State.readLine_keeps x _ _ (fun _ => hes hs e he)))
  clear hes
  induction es generalizing s with
  | nil => rfl
  | cons e es ih => rw [List.foldl_cons, ih, State.readLine_pending]

theorem State.meetReads_keeps (s : State) (op : Option (Nat × Nat × Nat)) (xs : List (Nat × Nat × Nat)) : Keeps s (s.meetReads op xs) := by
  unfold State.meetReads
  extract_lets s1 s2
  have hs1 : Keeps s s1 := State.readLines_keeps s _ (s.heldLines_sound xs)
  clear_value s1
  have hs2 : Keeps s s2 := hs1.trans (Keeps.foldl _ (fun x a => Keeps.ite (Keeps.refl _) (State.mscCount_keeps _ _ _)) _ _)
  clear_value s2
  exact Keeps.ite hs2 (hs2.trans (Keeps.foldl _ (fun x a => State.meetUnit_keeps _ _ _ _) _ _))

end Sys2Proof.Machine
end

section
/-! What every command keeps: the coherent domain. -/

namespace Sys2Proof.Machine

theorem State.probeWaits_keeps (s : State) (a but : Nat) : Keeps s (s.probeWaits a but) := by
  unfold State.probeWaits
  split
  · exact Keeps.refl _
  · rename_i l hl
    refine (State.setLine_map_keeps s a l hl _ _ ⟨fun c => ?_, fun c h => ?_, fun c h => ?_, fun c h => ?_⟩).trans (State.bump_keeps _ _ _ _ _)
    · split <;> rfl
    · split <;> exact h
    · split at h <;> exact h
    · split at h <;> exact h

theorem State.dropLr_keeps (s : State) (core : Nat) : Keeps s (s.dropLr core) := by
  unfold State.dropLr
  exact State.lr_keeps _ _

theorem State.loseLr_keeps (s : State) (a core : Nat) : Keeps s (s.loseLr a core) := by
  unfold State.loseLr
  exact State.lr_keeps _ _

theorem State.poisonFault_keeps (s : State) (core a : Nat) : Keeps s (s.poisonFault core a) := by
  unfold State.poisonFault
  exact (State.bump_keeps _ _ _ _ _).trans ((State.event_inFaults _ _ _ _).keeps)

theorem State.coreFault_keeps (s : State) (a : Nat) (record : Bool) : Keeps s (s.coreFault a record) := by
  unfold State.coreFault
  exact (Keeps.ite (State.addrRecord_keeps _ _ _) (Keeps.refl _)).trans (State.reply_keeps _ _)

/-- The data of a line for a new holder is a whole line. -/
theorem State.lineData_length (s : State) (a : Nat) (hs : s.sound) : (s.lineData a).1.length = 64 := by
  have hhome : (s.homeBytes a).length = 64 := by
    unfold State.homeBytes
    dsimp only
    split
    · split <;> simp
    · simp
  unfold State.lineData
  split
  · rename_i l hl
    have hb := (s.line_sound a l hs hl).1
    split
    · rename_i c hc
      exact hb c (List.mem_of_find?_eq_some (l.dirty_eq ▸ hc))
    · split
      · rename_i c cs hc
        exact hb c (hc ▸ List.mem_cons_self ..)
      · exact hhome
  · exact hhome

theorem State.winShared_keeps (s : State) (core a : Nat) : Keeps s (s.winShared core a) := by
  unfold State.winShared
  have hlen := s.lineData_length a
  generalize s.lineData a = d at hlen
  obtain ⟨bs, pz⟩ := d
  dsimp -zeta only
  split
  · exact (State.setLine_some_keeps _ _ _ (fun hs => Line.sound_single _ _ (hlen hs))).trans (State.mscCount_keeps _ _ _)
  · rename_i l hl
    split
    · exact Keeps.refl _
    · rename_i hn
      refine State.setLine_some_keeps _ _ _ (fun hs => ?_)
      exact l.sound_share (s.line_sound a l hs hl) core (by simpa using hn) _ bs pz (hlen hs)

theorem State.winExcl_keeps (s : State) (core a : Nat) (write : Bool) : Keeps s (s.winExcl core a write) := by
  unfold State.winExcl
  have hlen := s.lineData_length a
  generalize s.lineData a = d at hlen
  obtain ⟨bs, pz⟩ := d
  dsimp -zeta only
  extract_lets dirty held
  refine Keeps.trans ?_ (State.cond_keeps _ _ _ (fun t => State.mscCount_keeps _ _ _))
  exact (State.setLine_some_keeps _ _ _ (fun hs => Line.sound_single _ _ (hlen hs))).trans (State.loseLr_keeps _ _ _)

/-- A line that a core has won for a write is that core's alone. -/
theorem State.line_winExcl (s : State) (core a : Nat) (write : Bool) :
    ∃ held, (s.winExcl core a write).line a = some ⟨.excl, [⟨core, if write || (match s.line a with
      | some l => l.dirty.isSome
      | none => false) then .m else .e, (s.lineData a).1, (s.lineData a).2, held, false⟩]⟩ := by
  unfold State.winExcl
  generalize s.lineData a = d
  obtain ⟨bs, pz⟩ := d
  dsimp -zeta only
  extract_lets dirty held
  refine ⟨held, ?_⟩
  have hl : ((s.setLine a (some ⟨.excl, [⟨core, if write || dirty then .m else .e, bs, pz, held, false⟩]⟩)).loseLr a core).line a =
      some ⟨.excl, [⟨core, if write || dirty then .m else .e, bs, pz, held, false⟩]⟩ :=
    (s.line_setLine a _ a).trans (if_pos rfl)
  unfold State.cond
  generalize (s.setLine a (some ⟨.excl, [⟨core, if write || dirty then .m else .e, bs, pz, held, false⟩]⟩)).loseLr a core = t at hl ⊢
  split
  · obtain ⟨r, f, e⟩ := State.mscCount_frame t a 64
    beta_reduce
    rw [e]
    exact hl
  · exact hl

/-- A store into the only copy of a line. -/
theorem State.copyStore_keeps (s : State) (core a : Nat) (bs : List Byte) (st : LineState) (c : Copy) (hl : s.line a = some ⟨st, [c]⟩)
    (hf : a % 64 + bs.length ≤ 64) : Keeps s (s.copyStore core a bs) := by
  unfold State.copyStore
  rw [hl]
  extract_lets put
  refine State.setLine_some_keeps _ _ _ (fun hs => ?_)
  have hc : c.bytes.length = 64 := (s.line_sound a _ hs hl).1 c (List.mem_singleton_self c)
  refine Line.sound_single _ _ ?_
  dsimp only
  split
  · subst put
    simp only [List.length_append, List.length_take, List.length_drop, hc]
    omega
  · exact hc

theorem State.copyEcc_keeps (s : State) (l : Line) (c : Copy) (core addr : Nat) (two inj : Bool) (hl : s.line addr = some l) :
    Keeps s (s.copyEcc l c core addr two inj) := by
  unfold State.copyEcc
  extract_lets dirty f rest s1
  refine Keeps.ite ?_ (Keeps.ite ?_ ?_)
  · exact (State.bump_keeps _ _ _ _ _).trans (State.countDet_inFaults _ _ _).keeps
  · split
    · exact State.dropEntry_keeps _ _
    · exact State.setLine_some_keeps _ _ _ (fun hs => l.sound_filter (s.line_sound addr l hs hl) _ _)
  · have hs1 : Keeps s s1 := by
      refine State.setLine_map_keeps s addr l hl _ _ ⟨fun c => ?_, fun c h => ?_, fun c h => ?_, fun c h => ?_⟩
      · split <;> rfl
      · split <;> exact h
      · split at h <;> exact h
      · split at h <;> exact h
    clear_value s1
    exact ((hs1.trans (State.bump_keeps _ _ _ _ _)).trans (State.detect_inFaults _ _).keeps).trans (State.resolve_inFaults _ _ _ _ _).keeps

theorem State.takeCd_keeps (s : State) (kind core : Nat) : KeepsSnd s (s.takeCd kind core) := by
  unfold State.takeCd
  split
  · exact KeepsSnd.mk (State.disarm_inFaults _ _ _ _).keeps
  · exact KeepsSnd.mk (Keeps.refl _)

/-- An injection taken leaves the directory. -/
theorem State.line_takeCd (s : State) (kind core a : Nat) : (s.takeCd kind core).2.line a = s.line a := by
  unfold State.takeCd
  split <;> rfl

theorem execCoreEcc_keeps (core addr : Nat) (two : Bool) (s : State) : KeepsNext s (execCoreEcc core addr two s) := by
  unfold execCoreEcc
  split
  · exact KeepsNext.next (Keeps.refl _)
  · rename_i l hl
    split
    · exact KeepsNext.next (Keeps.refl _)
    · exact KeepsNext.next (Keeps.trans (State.takeCd_keeps _ _ _) (State.copyEcc_keeps _ _ _ _ _ _ _ ((s.line_takeCd _ _ addr).trans hl)))

theorem State.domainFails_keeps (s : State) (dead : Bool) (core : Nat) : Keeps s (s.domainFails dead core) := by
  unfold State.domainFails
  dsimp -zeta only
  extract_lets n s1 s2
  have hs1 : Keeps s s1 := (State.takeCd_keeps _ _ _).trans (State.wr_keeps _ _ _)
  clear_value s1
  have hs2 : Keeps s s2 := Keeps.ite (hs1.trans ⟨rfl, id⟩) (State.takeCd_keeps _ _ _)
  clear_value s2
  exact hs2.trans ((State.detect_inFaults _ _).keeps)

theorem State.meetCore_keeps (s : State) (core addr : Nat) : Keeps s (s.meetCore core addr) := by
  unfold State.meetCore
  extract_lets armed met s1
  have hmet : ∀ y k who two, Keeps y (met y k who two) := by
    intro y k who two
    subst met
    dsimp only
    split
    · exact Keeps.refl _
    · rename_i l hl
      split
      · exact Keeps.refl _
      · exact Keeps.ite (Keeps.trans (State.takeCd_keeps _ _ _) (State.copyEcc_keeps _ _ _ _ _ _ _ ((y.line_takeCd _ _ addr).trans hl))) (Keeps.refl _)
  clear_value met
  have hs1 : Keeps s s1 := State.cond_keeps _ _ _ (fun t => State.domainFails_keeps _ _ _)
  clear_value s1
  exact ((hs1.trans (hmet _ _ _ _)).trans (hmet _ _ _ _)).trans (hmet _ _ _ _)

theorem State.readReg_keeps (s : State) (path a : Nat) : KeepsSnd s (s.readReg path a) := by
  unfold State.readReg
  exact KeepsSnd.ite (KeepsSnd.mk ⟨rfl, id⟩) (KeepsSnd.ite (KeepsSnd.mk (Keeps.refl _)) (KeepsSnd.mk (Keeps.refl _)))

theorem State.ioRead_keeps (s : State) (a n : Nat) : Keeps s (s.ioRead a n) := by
  unfold State.ioRead
  refine Keeps.ite (State.coreFault_keeps _ _ _) ?_
  refine Keeps.ite (State.coreFault_keeps _ _ _) ?_
  split
  · dsimp -zeta only
    exact (State.readReg_keeps _ _ _).trans (State.reply_keeps _ _)
  · exact Keeps.ite (State.reply_keeps _ _) (State.coreFault_keeps _ _ _)

theorem execCoreRead_keeps (core addr width : Nat) (s : State) : KeepsNext s (execCoreRead core addr width s) := by
  unfold execCoreRead
  refine KeepsNext.ite (KeepsNext.next (Keeps.refl _)) ?_
  refine KeepsNext.ite (KeepsNext.next (Keeps.ite (State.coreFault_keeps _ _ _) (State.ioRead_keeps _ _ _))) ?_
  refine KeepsNext.ite (KeepsNext.next (Keeps.refl _)) ?_
  refine KeepsNext.ite (KeepsNext.next (State.coreFault_keeps _ _ _)) ?_
  refine KeepsNext.ite (KeepsNext.next ((State.probeWaits_keeps _ _ _).trans (State.reply_keeps _ _))) ?_
  extract_lets s1 s2 x
  have hs1 : Keeps s s1 := State.meetCore_keeps _ _ _
  clear_value s1
  have hs2 : Keeps s s2 := hs1.trans (State.winShared_keeps _ _ _)
  clear_value s2
  have hx : Keeps s x := hs2.trans (State.poisonFault_keeps _ _ _)
  clear_value x
  refine KeepsNext.ite (KeepsNext.next (hs1.trans (State.reply_keeps _ _))) ?_
  dsimp -zeta only
  exact KeepsNext.ite (KeepsNext.next (hx.trans (State.reply_keeps _ _))) (KeepsNext.next (hs2.trans (State.reply_keeps _ _)))

theorem State.coreOpens_keeps (s : State) (a : Nat) : KeepsSome s (s.coreOpens a) := by
  unfold State.coreOpens
  split
  · refine KeepsSome.ite (KeepsSome.some (Keeps.refl _)) ?_
    split
    · rename_i t e
      have ht : Keeps s t := (State.placeGroup_keeps _ _ _) _ e
      exact KeepsSome.some ht
    · exact KeepsSome.none _
  · refine KeepsSome.ite (KeepsSome.some (Keeps.refl _)) ?_
    split
    · rename_i t e
      have ht : Keeps s t := (State.placeGroup_keeps _ _ _) _ e
      exact KeepsSome.some ht
    · exact KeepsSome.none _
  · exact KeepsSome.some (Keeps.refl _)

theorem State.toVictim_keeps (s : State) (l : Line) (c : Copy) (addr : Nat) (hl : s.line addr = some l) (hc : l.copyOf c.core = some c) :
    Keeps s (s.toVictim l c addr) := by
  rw [State.toVictim_eq]
  exact State.setLine_some_keeps _ _ _ (fun hs => l.toVictim_sound (s.line_sound addr l hs hl) c hc)

theorem State.evictOut_keeps (s : State) (l : Line) (c : Copy) (core addr : Nat) (hl : s.line addr = some l) : Keeps s (s.evictOut l c core addr) := by
  unfold State.evictOut
  have hw : Keeps s (if c.isDirty then s.writeBack addr c else s) := Keeps.ite (State.writeBack_keeps _ _ _) (Keeps.refl _)
  have hline : (if c.isDirty then s.writeBack addr c else s).line addr = some l := by
    split
    · rw [State.line_writeBack, hl]
    · exact hl
  generalize (if c.isDirty then s.writeBack addr c else s) = t at hw hline
  split
  · exact hw.trans (State.dropEntry_keeps _ _)
  · exact hw.trans (State.setLine_some_keeps _ _ _ (fun hs => l.sound_filter (t.line_sound addr l hs hline) _ _))

theorem execEviction_keeps (core addr : Nat) (toL3 : Bool) (s : State) : KeepsNext s (execEviction core addr toL3 s) := by
  cases hl : s.line addr with
  | none =>
    unfold execEviction
    rw [hl]
    exact KeepsNext.next (Keeps.refl _)
  | some l =>
    cases hc : l.copyOf core with
    | none =>
      unfold execEviction
      simp only [hl, hc]
      exact KeepsNext.next (Keeps.refl _)
    | some c =>
      obtain ⟨r, e⟩ := execEviction_held core addr toL3 s l c hl hc
      rw [e]
      have hr : Keeps s { s with lr := r } := State.lr_keeps _ _
      obtain ⟨-, hcore⟩ := l.copyOf_mem core c hc
      refine KeepsNext.next (Keeps.ite ?_ ?_)
      · exact hr.trans (State.toVictim_keeps _ l c addr hl (hcore ▸ hc))
      · exact hr.trans (State.evictOut_keeps _ l c core addr hl)

theorem execProbe_keeps (core addr : Nat) (s : State) : KeepsNext s (execProbe core addr s) := by
  unfold execProbe
  split
  · exact KeepsNext.next (Keeps.refl _)
  · rename_i l hl
    split
    · exact KeepsNext.next (Keeps.refl _)
    · refine KeepsNext.ite (KeepsNext.next (State.domainFails_keeps _ _ _)) (KeepsNext.ite (KeepsNext.next ?_) (KeepsNext.next (Keeps.refl _)))
      refine (State.setLine_map_keeps s addr l hl _ _ ⟨fun c => ?_, fun c h => ?_, fun c h => ?_, fun c h => ?_⟩).trans (State.bump_keeps _ _ _ _ _)
      · split <;> rfl
      · split <;> exact h
      · split at h <;> exact h
      · split at h <;> exact h

/-- The end of a core's hold changes no copy's data or state. -/
theorem Copy.tame_holdEnd (core : Nat) : Copy.Tame (fun (x : Copy) => if x.core = core then { x with hold := false, waits := false } else x) := by
  refine ⟨fun c => ?_, fun c h => ?_, fun c h => ?_, fun c h => ?_⟩
  · split <;> rfl
  · split <;> exact h
  · split at h <;> exact h
  · split at h <;> exact h

theorem execHoldEnd_keeps (core addr : Nat) (s : State) : KeepsNext s (execHoldEnd core addr s) := by
  unfold execHoldEnd
  split
  · exact KeepsNext.next (Keeps.refl _)
  · rename_i l hl
    exact KeepsNext.ite (KeepsNext.next (Keeps.refl _)) (KeepsNext.next (State.setLine_map_keeps s addr l hl _ _ (Copy.tame_holdEnd core)))

theorem execEngineRead_keeps (addr : Nat) (s : State) : KeepsNext s (execEngineRead addr s) := by
  unfold execEngineRead
  exact KeepsNext.ite (KeepsNext.next (State.addrRecord_keeps _ _ _)) (KeepsNext.ite (KeepsNext.next (Keeps.refl _)) (KeepsNext.ite (KeepsNext.next
    (State.probeWaits_keeps _ _ _)) (KeepsNext.next (State.meetReads_keeps _ _ _))))

theorem execEngineWrite_keeps (ctx addr : Nat) (data : List Byte) (s : State) : KeepsNext s (execEngineWrite ctx addr data s) := by
  unfold execEngineWrite
  extract_lets n ls x
  refine KeepsNext.ite (KeepsNext.next (Keeps.refl _)) ?_
  split
  · exact KeepsNext.next (State.probeWaits_keeps _ _ _)
  · split
    · rename_i t e
      have ht : Keeps s t := (State.writeMem_keeps _ _ _ _) _ e
      exact KeepsNext.next ht
    · exact KeepsNext.next (State.failRecord_keeps _ _ _ _)

theorem State.recallLine_keeps (s : State) (a : Nat) : Keeps s (s.recallLine a) := by
  unfold State.recallLine
  exact State.dropLine_keeps _ _ _

theorem State.farAtomic_keeps (s : State) (core a w : Nat) (flt : Bool) (f : Nat → Nat) : Keeps s (s.farAtomic core a w flt f) := by
  unfold State.farAtomic
  refine Keeps.ite (State.coreFault_keeps _ _ _) ?_
  refine Keeps.ite (State.coreFault_keeps _ _ _) ?_
  refine Keeps.ite ((State.probeWaits_keeps _ _ _).trans (State.reply_keeps _ _)) ?_
  extract_lets s1 x
  have hs1 : Keeps s s1 := State.recallLine_keeps _ _
  clear_value s1
  have hx : Keeps s x := hs1.trans (State.poisonFault_keeps _ _ _)
  clear_value x
  split
  · rename_i t e
    have ht : Keeps s t := (KeepsIn.after hs1 (State.atomicAt_keepsIn _ _ _ _ _ _)) _ e
    exact (ht.trans (State.untag_keeps _ _ _)).trans (State.reply_keeps _ _)
  · exact hx.trans (State.reply_keeps _ _)
  · exact (hs1.trans (State.noRoom_keeps _)).trans (State.coreFault_keeps _ _ _)
  · exact hs1.trans (State.coreFault_keeps _ _ _)

/-- An access within its own width lies in one line. -/
theorem aligned_fits (a w : Nat) (h : w = 4 ∨ w = 8) (ha : a % w = 0) : a % 64 + w ≤ 64 := by
  rcases h with rfl | rfl <;> omega

/-- A core's operation is one that it has, on a word of 4 or 8 bytes. -/
theorem execFarAtomic_keeps (core op addr width : Nat) (cmp v : Word) (s : State) : KeepsNext s (execFarAtomic core op addr width cmp v s) := by
  unfold execFarAtomic
  refine KeepsNext.dite (fun _ => KeepsNext.next (Keeps.refl _)) (fun hcond => ?_)
  have hwidth : width = 4 ∨ width = 8 := by
    refine Decidable.byContradiction (fun h => hcond (Or.inr (Or.inl (not_or.1 h))))
  refine KeepsNext.ite (KeepsNext.next (State.farAtomic_keeps _ _ _ _ _ _)) (KeepsNext.ite ?_ (KeepsNext.next (State.coreFault_keeps _ _ _)))
  refine KeepsNext.dite (fun _ => KeepsNext.next (State.coreFault_keeps _ _ _)) (fun hal => ?_)
  refine KeepsNext.ite (KeepsNext.next (State.coreFault_keeps _ _ _)) ?_
  refine KeepsNext.ite (KeepsNext.next ((State.probeWaits_keeps _ _ _).trans (State.reply_keeps _ _))) ?_
  obtain ⟨held, hl⟩ := s.line_winExcl core addr true
  have hw := State.winExcl_keeps s core addr true
  generalize s.winExcl core addr true = t at hl hw
  dsimp -zeta only
  generalize t.copyValue core addr width = p
  obtain ⟨old, bad⟩ := p
  refine KeepsNext.ite (KeepsNext.next ((hw.trans (State.poisonFault_keeps _ _ _)).trans (State.reply_keeps _ _))) (KeepsNext.next ?_)
  refine (hw.trans (State.copyStore_keeps _ core addr _ _ _ hl ?_)).trans (State.reply_keeps _ _)
  rw [bytesOf_length]
  exact aligned_fits addr width hwidth (Decidable.not_not.1 hal)

theorem execFamoaddW_keeps (core addr : Nat) (v : Word) (s : State) : KeepsNext s (execFamoaddW core addr v s) := by
  unfold execFamoaddW
  exact KeepsNext.ite (KeepsNext.next (Keeps.refl _)) (KeepsNext.ite (KeepsNext.next (State.farAtomic_keeps _ _ _ _ _ _)) (KeepsNext.next
    (State.coreFault_keeps _ _ _)))

theorem execFamoaddD_keeps (core addr : Nat) (v : Word) (s : State) : KeepsNext s (execFamoaddD core addr v s) := by
  unfold execFamoaddD
  exact KeepsNext.ite (KeepsNext.next (Keeps.refl _)) (KeepsNext.ite (KeepsNext.next (State.farAtomic_keeps _ _ _ _ _ _)) (KeepsNext.next
    (State.coreFault_keeps _ _ _)))

theorem execPoisonedLineAccess_keeps (core addr : Nat) (s : State) : KeepsNext s (execPoisonedLineAccess core addr s) := by
  unfold execPoisonedLineAccess
  exact KeepsNext.ite (KeepsNext.next ((State.poisonFault_keeps _ _ _).trans (State.reply_keeps _ _))) (KeepsNext.next (Keeps.refl _))

theorem execDeadAgent_keeps (core : Nat) (s : State) : KeepsNext s (execDeadAgent core s) := by
  unfold execDeadAgent
  exact KeepsNext.ite (KeepsNext.next (State.domainFails_keeps _ _ _)) (KeepsNext.next (Keeps.refl _))

theorem execUncorrectableCoherenceError_keeps (core : Nat) (s : State) : KeepsNext s (execUncorrectableCoherenceError core s) := by
  unfold execUncorrectableCoherenceError
  exact KeepsNext.next (State.domainFails_keeps _ _ _)

theorem State.lostUnit_keeps (s : State) (u : Nat) : Keeps s (s.lostUnit u) := by
  unfold State.lostUnit
  exact State.setMark_keeps _ _ _

theorem State.revert_keeps (s : State) (i : Nat) : Keeps s (s.revert i) := by
  unfold State.revert
  exact State.wr_keeps _ _ _

theorem State.hostPages_keeps (s : State) : Keeps s { s with dirLines := s.dirLines.filter (fun (e : Nat × Option Line) => region (64 * e.1) != Region.host) } :=
  ⟨rfl, fun h => ⟨h.1, h.2.1, fun e he => h.2.2.1 e (List.mem_filter.1 he).1, h.2.2.2⟩⟩

theorem State.parked_keeps (s : State) (rs : List Nat) : Keeps s { s with parked := true, reverted := rs, lr := [] } := ⟨rfl, id⟩

theorem execEnginesParked_keeps (unreadable : Bool) (s : State) : KeepsNext s (execEnginesParked unreadable s) := by
  unfold execEnginesParked
  refine KeepsNext.ite (KeepsNext.next (Keeps.refl _)) ?_
  extract_lets ls gone held units dirty pages s1 s2 s3 s4 s5
  have hs1 : Keeps s s1 := Keeps.foldl _ (fun x u => State.lostUnit_keeps _ _) _ _
  clear_value s1
  have hs2 : Keeps s s2 := hs1.trans (Keeps.foldl _ (fun x e => State.dropEntry_keeps _ _) _ _)
  clear_value s2
  have hs3 : Keeps s s3 := hs2.trans (State.hostPages_keeps _)
  clear_value s3
  have hs4 : Keeps s s4 := hs3.trans (Keeps.foldl _ (fun x e => State.revert_keeps _ _) _ _)
  clear_value s4
  have hs5 : Keeps s s5 := (hs4.trans (State.put_keeps _ _ _ _ _)).trans (State.wr_keeps _ _ _)
  clear_value s5
  exact KeepsNext.next (hs5.trans (State.parked_keeps _ _))

theorem State.domainDown_keeps (s : State) (xs : List OpRec) : Keeps s (s.domainDown xs) := by
  induction xs generalizing s with
  | nil =>
    rw [State.domainDown]
    exact Keeps.refl _
  | cons x xs ih =>
    rw [State.domainDown]
    exact (Keeps.ite (State.failOp_keeps _ _ _ _ _) (Keeps.refl _)).trans (ih _)

theorem execRecoveryComplete_keeps (s : State) : KeepsNext s (execRecoveryComplete s) := by
  unfold execRecoveryComplete
  refine KeepsNext.ite (KeepsNext.next (Keeps.refl _)) ?_
  extract_lets s1 x s2
  have hs1 : Keeps s s1 := State.domainDown_keeps _ _
  clear_value s1
  have hx : Keeps s x := hs1.trans (State.put_keeps _ _ _ _ _)
  clear_value x
  have hs2 : Keeps s s2 := hx.trans ⟨rfl, id⟩
  clear_value s2
  exact KeepsNext.next (hs2.trans ((State.resolve_inFaults _ _ _ _ _).keeps))

theorem State.clearLines_keeps (s : State) : Keeps s { s with dirLines := [], lr := [] } := ⟨rfl, fun h => ⟨h.1, h.2.1, fun e he => (by cases he), h.2.2.2⟩⟩

theorem execRelease_keeps (ag : Agent) (s : State) : KeepsNext s (execRelease ag s) := by
  unfold execRelease
  extract_lets gs s1 s2
  have hs1 : Keeps s s1 := State.clearLines_keeps _
  clear_value s1
  have hs2 : Keeps s s2 := hs1.trans (Keeps.foldl _ (fun x a => State.setTir_keeps _ _ _) _ _)
  clear_value s2
  exact KeepsNext.ite (KeepsNext.next (hs2.trans (State.put_keeps _ _ _ _ _))) (KeepsNext.next (Keeps.refl _))

theorem execRigCdinjL2OneBit_keeps (ag : Agent) (group : Nat) (s : State) : KeepsNext s (execRigCdinjL2OneBit ag group s) := by
  unfold execRigCdinjL2OneBit
  exact KeepsNext.ite (KeepsNext.next (State.arm_keeps _ _ _ _)) (KeepsNext.next (Keeps.refl _))

theorem execRigCdinjL2TwoBits_keeps (ag : Agent) (group : Nat) (s : State) : KeepsNext s (execRigCdinjL2TwoBits ag group s) := by
  unfold execRigCdinjL2TwoBits
  exact KeepsNext.ite (KeepsNext.next (State.arm_keeps _ _ _ _)) (KeepsNext.next (Keeps.refl _))

theorem execRigCdinjL3TwoBits_keeps (ag : Agent) (group : Nat) (s : State) : KeepsNext s (execRigCdinjL3TwoBits ag group s) := by
  unfold execRigCdinjL3TwoBits
  exact KeepsNext.ite (KeepsNext.next (State.arm_keeps _ _ _ _)) (KeepsNext.next (Keeps.refl _))

theorem execRigCdinjDirectory_keeps (ag : Agent) (group : Nat) (s : State) : KeepsNext s (execRigCdinjDirectory ag group s) := by
  unfold execRigCdinjDirectory
  exact KeepsNext.ite (KeepsNext.next (State.arm_keeps _ _ _ _)) (KeepsNext.next (Keeps.refl _))

theorem execRigCdinjDeadAgent_keeps (ag : Agent) (group : Nat) (s : State) : KeepsNext s (execRigCdinjDeadAgent ag group s) := by
  unfold execRigCdinjDeadAgent
  exact KeepsNext.ite (KeepsNext.next (State.arm_keeps _ _ _ _)) (KeepsNext.next (Keeps.refl _))

end Sys2Proof.Machine
end

section
/-! What every command keeps: host links and module time. -/

namespace Sys2Proof.Machine

theorem execBar0AccessRefused_keeps (link offset size : Nat) (write : Bool) (s : State) : KeepsNext s (execBar0AccessRefused link offset size write
  s) := by
  unfold execBar0AccessRefused
  exact KeepsNext.ite (KeepsNext.next ((State.reply_keeps _ _).trans (State.bump_keeps _ _ _ _ _))) (KeepsNext.next (Keeps.refl _))

theorem State.biasStart_keeps (s : State) (ag : Agent) (entry code : Nat) (resv : Bool) : Keeps s (s.biasStart ag entry code resv) := by
  unfold State.biasStart
  exact Keeps.ite (Keeps.refl _) (Keeps.ite (State.putBit_keeps _ _ _ _) ((Keeps.ite ((State.putBit_keeps _ _ _ _).trans (State.putBit_keeps _ _ _
    _)) (State.putBit_keeps _ _ _ _)).trans (State.bias_keeps _ _)))

theorem execMap_keeps (ag : Agent) (entry : Nat) (s : State) : KeepsNext s (execMap ag entry s) := by
  unfold execMap
  exact KeepsNext.next (State.biasStart_keeps _ _ _ _ _)

theorem execTodevice_keeps (ag : Agent) (entry : Nat) (s : State) : KeepsNext s (execTodevice ag entry s) := by
  unfold execTodevice
  exact KeepsNext.next (State.biasStart_keeps _ _ _ _ _)

theorem execToshared_keeps (ag : Agent) (entry : Nat) (s : State) : KeepsNext s (execToshared ag entry s) := by
  unfold execToshared
  exact KeepsNext.next (State.biasStart_keeps _ _ _ _ _)

theorem execUnmap_keeps (ag : Agent) (entry : Nat) (s : State) : KeepsNext s (execUnmap ag entry s) := by
  unfold execUnmap
  exact KeepsNext.next (State.biasStart_keeps _ _ _ _ _)

theorem State.dropCopies_keeps (s : State) (back : Bool) (ls : List (Nat × Line)) : Keeps s (s.dropCopies back ls) := by
  induction ls generalizing s with
  | nil => exact Keeps.refl _
  | cons e ls ih =>
    refine (Keeps.trans (Keeps.trans ?_ (State.dropEntry_keeps _ _)) (State.lr_keeps _ _)).trans (ih _)
    split
    · exact Keeps.ite (State.writeBack_keeps _ _ _) (Keeps.refl _)
    · exact Keeps.refl _

theorem State.cleanPage_keeps (s : State) (entry : Nat) : Keeps s (s.cleanPage entry) := by
  unfold State.cleanPage
  exact (((State.putBit_keeps _ _ _ _).trans (State.dropCopies_keeps _ _ _)).trans (State.bump_keeps _ _ _ _ _)).trans (State.putBit_keeps _ _ _ _)

theorem State.flagsOn_keeps (s : State) (xs : List (Nat × Word)) : Keeps s (s.flagsOn xs) := by
  induction xs generalizing s with
  | nil =>
    rw [State.flagsOn]
    exact Keeps.refl _
  | cons x xs ih =>
    rw [State.flagsOn]
    refine Keeps.trans ?_ (ih _)
    split
    · rename_i t e
      have ht : Keeps s t := (State.writeMem_keeps _ _ _ _) _ e
      exact ht
    · exact State.flagWait_keeps _ _

theorem State.biasEffect_keeps (s : State) (b : BiaRec) : Keeps s (s.biasEffect b) := by
  unfold State.biasEffect
  extract_lets e0 s1 s2
  have hs1 : Keeps s s1 := State.wr_keeps _ _ _
  clear_value s1
  have hs2 : Keeps s s2 := Keeps.ite (State.cleanPage_keeps _ _) (Keeps.refl _)
  clear_value s2
  split
  · exact hs1.trans (State.wr_keeps _ _ _)
  · exact State.putBit_keeps _ _ _ _
  · exact (State.cleanPage_keeps _ _).trans (State.putBit_keeps _ _ _ _)
  · exact (hs2.trans (State.wr_keeps _ _ _)).trans (State.wr_keeps _ _ _)

theorem State.biasEnd_keeps (s : State) (entry result : Nat) : Keeps s (s.biasEnd entry result) := by
  unfold State.biasEnd
  exact ((((Keeps.ite (State.putBit_keeps _ _ _ _) (Keeps.refl _)).trans (State.putBit_keeps _ _ _ _)).trans (State.put_keeps _ _ _ _ _)).trans
    (State.bump_keeps _ _ _ _ _)).trans (State.bias_keeps _ _)

theorem execBiaCmdComplete_keeps (s : State) : KeepsNext s (execBiaCmdComplete s) := by
  unfold execBiaCmdComplete
  split
  · exact KeepsNext.next (Keeps.refl _)
  · exact KeepsNext.next ((((Keeps.ite (State.biasEffect_keeps _ _) (Keeps.refl _)).trans (State.biasEnd_keeps _ _ _)).trans (State.flagWait_keeps _
      _)).trans (State.flagsOn_keeps _ _))

theorem execHostSnoop_keeps (link addr kind : Nat) (s : State) : KeepsNext s (execHostSnoop link addr kind s) := by
  unfold execHostSnoop
  split
  · exact KeepsNext.next (State.reply_keeps _ _)
  · rename_i a _
    split
    · exact KeepsNext.next (State.reply_keeps _ _)
    · rename_i l hl
      extract_lets data s1 s2
      have hs1 : Keeps s s1 := State.reply_keeps _ _
      have hl1 : s1.line a = some l := hl
      clear_value s1
      have h2 : Keeps s s2 ∧ s2.line a = some l := by
        subst s2
        split
        · exact ⟨hs1.trans (State.writeBack_keeps _ _ _), (s1.line_writeBack _ _ _).trans hl1⟩
        · exact ⟨hs1, hl1⟩
      clear_value s2
      obtain ⟨hs2, hl2⟩ := h2
      refine KeepsNext.ite (KeepsNext.next hs1) (KeepsNext.ite (KeepsNext.next ?_) (KeepsNext.next (hs2.trans ?_)))
      · exact (hs2.trans (State.dropEntry_keeps _ _)).trans (State.lr_keeps _ _)
      · exact State.setLine_map_keeps s2 a l hl2 _ _ ⟨fun _ => rfl, fun _ h => h, fun _ h => (by cases h), fun _ h => (by cases h)⟩

theorem State.ackAll_keeps (s : State) (xs : List AckDue) : Keeps s (s.ackAll xs) := by
  induction xs generalizing s with
  | nil =>
    rw [State.ackAll]
    exact Keeps.refl _
  | cons x xs ih =>
    rw [State.ackAll]
    refine Keeps.trans ?_ (ih _)
    exact Keeps.ite ⟨rfl, id⟩ (State.sendMsg_keeps _ _ _ _ _ _)

theorem State.syncReady_keeps (s : State) : Keeps s s.syncReady := by
  unfold State.syncReady
  exact Keeps.foldl _ (fun x a => State.syncQ_keeps _ _) _ _

theorem State.fences_keeps (s : State) : Keeps s s.fences := by
  unfold State.fences
  refine Keeps.trans ?_ (State.syncReady_keeps _)
  refine Keeps.trans ?_ (State.settle_keeps _)
  refine Keeps.trans ?_ (State.freshen_keeps _)
  refine Keeps.trans ?_ (State.noteDeps_keeps _)
  refine Keeps.trans ?_ (State.ackAll_keeps _ _)
  exact ⟨rfl, id⟩

theorem execFlushingRead_keeps (link : Nat) (s : State) : KeepsNext s (execFlushingRead link s) := by
  unfold execFlushingRead
  refine KeepsNext.ite ?_ (KeepsNext.next (Keeps.refl _))
  refine KeepsNext.next ?_
  refine Keeps.trans ?_ (State.fences_keeps _)
  exact ⟨rfl, id⟩

theorem execGlobalObservation_keeps (link q sn : Nat) (s : State) : KeepsNext s (execGlobalObservation link q sn s) := by
  unfold execGlobalObservation
  split
  · exact KeepsNext.next (Keeps.refl _)
  · refine KeepsNext.next ?_
    refine Keeps.trans ?_ (State.fences_keeps _)
    exact ⟨rfl, id⟩

theorem execCompletionTimeout_keeps (link q sn slot : Nat) (s : State) : KeepsNext s (execCompletionTimeout link q sn slot s) := by
  unfold execCompletionTimeout
  split
  · exact KeepsNext.next (Keeps.refl _)
  · refine KeepsNext.ite (KeepsNext.next (Keeps.refl _)) ?_
    dsimp -zeta only
    exact KeepsNext.next ((State.takeInj_inFaults _ _ _ _).keeps.trans (State.readTimeout_keeps _ _ _ _))

theorem execUnsupportedRequest_keeps (link q sn slot : Nat) (s : State) : KeepsNext s (execUnsupportedRequest link q sn slot s) := by
  unfold execUnsupportedRequest
  split
  · exact KeepsNext.next (Keeps.refl _)
  · refine KeepsNext.ite (KeepsNext.next (Keeps.refl _)) ?_
    dsimp -zeta only
    exact KeepsNext.next ((State.takeInj_inFaults _ _ _ _).keeps.trans (State.readRefused_keeps _ _ _ _ _))

theorem State.hostEvent_keeps (s : State) (link det : Nat) (inj : Bool) : Keeps s (s.hostEvent link det inj) := by
  unfold State.hostEvent
  exact (State.form_inFaults _ _).keeps

theorem execPerstHigh_keeps (link : Nat) (s : State) : KeepsNext s (execPerstHigh link s) := by
  unfold execPerstHigh
  extract_lets s1 st
  have hs1 : Keeps s s1 := by
    subst s1
    refine Keeps.trans ?_ (State.putBit_keeps _ _ _ _)
    exact ⟨rfl, id⟩
  clear_value s1
  exact KeepsNext.ite (KeepsNext.next (hs1.trans (State.put_keeps _ _ _ _ _))) (KeepsNext.next hs1)

theorem execDlActive_keeps (link width speed : Nat) (cxl : Bool) (s : State) : KeepsNext s (execDlActive link width speed cxl s) := by
  unfold execDlActive
  exact KeepsNext.ite (KeepsNext.next (State.wr_keeps _ _ _)) (KeepsNext.next (Keeps.refl _))

theorem execRecoveryEntered_keeps (link : Nat) (s : State) : KeepsNext s (execRecoveryEntered link s) := by
  unfold execRecoveryEntered
  refine KeepsNext.ite ?_ (KeepsNext.next (Keeps.refl _))
  dsimp -zeta only
  exact KeepsNext.next (((State.takeInj_inFaults _ _ _ _).keeps.trans (State.put_keeps _ _ _ _ _)).trans (State.hostEvent_keeps _ _ _ _))

theorem execL0Regained_keeps (link : Nat) (s : State) : KeepsNext s (execL0Regained link s) := by
  unfold execL0Regained
  exact KeepsNext.ite (KeepsNext.next ((State.put_keeps _ _ _ _ _).trans (State.bump_keeps _ _ _ _ _))) (KeepsNext.next (Keeps.refl _))

theorem State.dropWrites_keeps (s : State) (link : Nat) : Keeps s (s.dropWrites link) := by
  unfold State.dropWrites
  exact ⟨rfl, id⟩

theorem State.hostLost_keeps (s : State) (link : Nat) (xs : List (Nat × Nat)) : Keeps s (s.hostLost link xs) := by
  induction xs generalizing s with
  | nil =>
    rw [State.hostLost]
    exact Keeps.refl _
  | cons x xs ih =>
    rw [State.hostLost]
    refine Keeps.trans ?_ (ih _)
    split
    · exact Keeps.refl _
    · exact Keeps.ite (Keeps.ite ((State.mapOp_keeps _ _ _ _).trans (State.haltOn_keeps _ _ _ _)) (Keeps.refl _)) (State.failOp_keeps _ _ _ _ _)

theorem State.revertAll_keeps (s : State) (xs : List (Nat × Word × Nat)) : Keeps s (s.revertAll xs) := by
  induction xs generalizing s with
  | nil =>
    rw [State.revertAll]
    exact Keeps.refl _
  | cons x xs ih =>
    rw [State.revertAll]
    exact (((State.putBit_keeps _ _ _ _).trans (State.dropCopies_keeps _ _ _)).trans (State.revert_keeps _ _)).trans (ih _)

theorem State.quiesce_keeps (s : State) (n : Nat) : Keeps s (s.quiesce n) := by
  induction n generalizing s with
  | zero =>
    rw [State.quiesce]
    exact Keeps.refl _
  | succ n ih =>
    rw [State.quiesce]
    exact Keeps.ite ((ih _).trans (State.putBit_keeps _ _ _ _)) (ih _)

theorem State.reopenBoot_keeps (s : State) : Keeps s s.reopenBoot := by
  unfold State.reopenBoot
  exact (((State.put_keeps _ _ _ _ _).trans (State.put_keeps _ _ _ _ _)).trans (State.putBit_keeps _ _ _ _)).trans (Keeps.of_fields rfl rfl rfl rfl
    rfl)

theorem State.bootLinkReset_keeps (s : State) (link : Nat) : Keeps s (s.bootLinkReset link) := by
  unfold State.bootLinkReset
  exact Keeps.ite (State.reopenBoot_keeps _) (Keeps.refl _)

theorem State.msix_keeps (s : State) (on : Tab Bool) (pend : List (Nat × Nat)) : Keeps s { s with msixOn := on, msixPend := pend } := ⟨rfl, id⟩

theorem State.perst_keeps (s : State) (p : List Bool) : Keeps s { s with perst := p } := ⟨rfl, id⟩

theorem execHostReset_keeps (link : Nat) (perst : Bool) (s : State) : KeepsNext s (execHostReset link perst s) := by
  unfold execHostReset
  refine KeepsNext.after (State.perst_keeps s (if perst then s.perst.set link false else s.perst)) ?_
  generalize ({ s with perst := if perst then s.perst.set link false else s.perst } : State) = s1
  extract_lets s0 mine drops s2 s3 s4 s5 s6 s7 pend s8
  have hs2 : Keeps s1 s2 := (State.dropWrites_keeps _ _).trans (State.hostLost_keeps _ _ _)
  clear_value s2
  have hs3 : Keeps s1 s3 := hs2.trans (State.wr_keeps _ _ _)
  clear_value s3
  have hs4 : Keeps s1 s4 := (hs3.trans (State.bump_keeps _ _ _ _ _)).trans (State.bump_keeps _ _ _ _ _)
  clear_value s4
  have hs5 : Keeps s1 s5 := by
    subst s5
    split
    · exact hs4.trans (State.biasEnd_keeps _ _ _)
    · exact hs4
  clear_value s5
  have hs6 : Keeps s1 s6 := (hs5.trans (State.revertAll_keeps _ _)).trans (State.bump_keeps _ _ _ _ _)
  clear_value s6
  have hs7 : Keeps s1 s7 := hs6.trans (State.quiesce_keeps _ _)
  clear_value s7
  have hs8 : Keeps s1 s8 := (hs7.trans (State.msix_keeps _ _ _)).trans (State.bump_keeps _ _ _ _ _)
  clear_value s8
  exact KeepsNext.ite (KeepsNext.next (State.putBit_keeps _ _ _ _))
    (KeepsNext.next (((hs8.trans (State.bootLinkReset_keeps _ _)).trans (State.hostEvent_keeps _ _ _ _)).trans (State.fences_keeps _)))

theorem execTmbNow_keeps (path : Nat) (s : State) : KeepsNext s (execTmbNow path s) := by
  unfold execTmbNow
  exact KeepsNext.next ⟨rfl, id⟩

theorem execPtmDialog_keeps (link host t1 t4 turn : Nat) (frac : BitVec 16) (ok : Bool) (s : State) : KeepsNext s (execPtmDialog link host t1 t4
  turn frac ok s) := by
  unfold execPtmDialog
  refine KeepsNext.ite (KeepsNext.next (Keeps.refl _)) ?_
  extract_lets seq s1 ws s2 a
  have hs1 : Keeps s s1 := ⟨rfl, id⟩
  clear_value s1
  have hs2 : Keeps s s2 := (hs1.trans ((State.wrRun_inFaults _ _ _).keeps)).trans (State.put_keeps _ _ _ _ _)
  clear_value s2
  refine KeepsNext.ite (KeepsNext.next (hs1.trans (State.bump_keeps _ _ _ _ _))) ?_
  refine KeepsNext.ite ?_ (KeepsNext.next hs2)
  split
  · rename_i t e
    have ht : Keeps s t := (KeepsOk.after hs2 (State.writeMem_keeps _ _ _ _)) _ e
    exact KeepsNext.next ht
  · exact KeepsNext.next (hs2.trans (State.failRecord_keeps _ _ _ _))

theorem execPpsOut_keeps (s : State) : KeepsNext s (execPpsOut s) := by
  unfold execPpsOut
  refine KeepsNext.ite (KeepsNext.next (Keeps.refl _)) ?_
  extract_lets run s1
  have hs1 : Keeps s s1 := ⟨rfl, id⟩
  clear_value s1
  exact KeepsNext.ite (KeepsNext.next (hs1.trans ⟨rfl, id⟩)) (KeepsNext.next hs1)

theorem execTodTx_keeps (s : State) : KeepsNext s (execTodTx s) := by
  unfold execTodTx
  split
  · exact KeepsNext.next (Keeps.refl _)
  · exact KeepsNext.ite (KeepsNext.next ⟨rfl, id⟩) (KeepsNext.next (Keeps.refl _))

theorem execTmbOutctl_keeps (ag : Agent) (v : Word) (s : State) : KeepsNext s (execTmbOutctl ag v s) := by
  unfold execTmbOutctl
  exact KeepsNext.ite (KeepsNext.next ((State.wr_keeps _ _ _).trans (Keeps.of_fields rfl rfl rfl rfl rfl))) (KeepsNext.next (Keeps.refl _))

theorem execHlkInjFlitCrc_keeps (ag : Agent) (n : Nat) (s : State) : KeepsNext s (execHlkInjFlitCrc ag n s) := by
  unfold execHlkInjFlitCrc
  exact KeepsNext.ite (KeepsNext.next (State.arm_keeps _ _ _ _)) (KeepsNext.next (Keeps.refl _))

theorem execHlkInjCompletionTimeout_keeps (ag : Agent) (n : Nat) (s : State) : KeepsNext s (execHlkInjCompletionTimeout ag n s) := by
  unfold execHlkInjCompletionTimeout
  exact KeepsNext.ite (KeepsNext.next (State.arm_keeps _ _ _ _)) (KeepsNext.next (Keeps.refl _))

theorem execHlkInjForcedRecovery_keeps (ag : Agent) (n : Nat) (s : State) : KeepsNext s (execHlkInjForcedRecovery ag n s) := by
  unfold execHlkInjForcedRecovery
  exact KeepsNext.ite (KeepsNext.next (State.arm_keeps _ _ _ _)) (KeepsNext.next (Keeps.refl _))

end Sys2Proof.Machine
end

section
/-! What every command keeps: reset and start. -/

namespace Sys2Proof.Machine

theorem State.burn_keeps (s : State) (k v : Nat) : Keeps s (s.burn k v) := by
  unfold State.burn
  exact ⟨rfl, id⟩

theorem State.setStart_keeps (s : State) (v : Nat) : Keeps s (s.setStart v) := by
  unfold State.setStart
  exact State.put_keeps _ _ _ _ _

theorem State.resetRecord_keeps (s : State) (code : Nat) : Keeps s (s.resetRecord code) := by
  unfold State.resetRecord
  exact Keeps.ite (State.ring_inFaults _ _ (recordWords_length _ _ _ _)).keeps (Keeps.refl _)

/-- After a reset nothing of memory, control space, directory or records is left that could be unsound. -/
theorem Keeps.of_empty {s t : State} (hp : t.pending = s.pending) (hm : t.mem = []) (hr : t.regs = []) (hd : t.dirLines = []) (hk : t.keep = []) : Keeps s t := by
  refine ⟨hp, fun _ => ?_⟩
  unfold State.sound
  rw [hm, hr, hd, hk]
  exact ⟨rfl, rfl, fun e he => (by cases he), Nat.zero_le _, fun r hr => by cases hr⟩

theorem State.moduleReset_keeps (s : State) (code : Nat) : Keeps s (s.moduleReset code) := by
  unfold State.moduleReset
  extract_lets cause clears fresh s1 kept ring r t
  have hs1 : Keeps s s1 := State.resetRecord_keeps _ _
  have ht : Keeps s t := Keeps.of_empty ((show t.pending = s1.pending from rfl).trans hs1.pending) rfl rfl rfl rfl
  clear_value t
  exact (ht.trans (State.wr_keeps _ _ _)).trans (State.wrRun_inFaults _ _ _).keeps

theorem execPor_keeps (s : State) : KeepsNext s (execPor s) := by
  unfold execPor
  refine KeepsNext.ite ?_ (KeepsNext.next (Keeps.refl _))
  refine KeepsNext.next ?_
  refine Keeps.trans ?_ (State.moduleReset_keeps _ _)
  exact ⟨rfl, id⟩

theorem execPin_keeps (low : Bool) (s : State) : KeepsNext s (execPin low s) := by
  unfold execPin
  refine KeepsNext.ite ?_ (KeepsNext.next ⟨rfl, id⟩)
  refine KeepsNext.next ?_
  refine Keeps.trans ?_ (State.moduleReset_keeps _ _)
  exact ⟨rfl, id⟩

theorem execRscRst_keeps (ag : Agent) (v : Word) (s : State) : KeepsNext s (execRscRst ag v s) := by
  unfold execRscRst
  exact KeepsNext.ite (KeepsNext.next (State.moduleReset_keeps _ _)) (KeepsNext.next (Keeps.refl _))

theorem execWdog_keeps (s : State) : KeepsNext s (execWdog s) := by
  unfold execWdog
  exact KeepsNext.ite (KeepsNext.next (State.moduleReset_keeps _ _)) (KeepsNext.next (Keeps.refl _))

theorem execEscal_keeps (s : State) : KeepsNext s (execEscal s) := by
  unfold execEscal
  exact KeepsNext.ite (KeepsNext.next (State.moduleReset_keeps _ _)) (KeepsNext.next (Keeps.refl _))

theorem State.thermReset_keeps (s : State) : Keeps s s.thermReset := by
  unfold State.thermReset
  refine Keeps.trans ?_ (State.moduleReset_keeps _ _)
  exact ⟨rfl, id⟩

theorem execTherm_keeps (clear : Bool) (s : State) : KeepsNext s (execTherm clear s) := by
  unfold execTherm
  exact KeepsNext.ite (KeepsNext.next ⟨rfl, id⟩) (KeepsNext.next (State.thermReset_keeps _))

theorem State.supplyReset_keeps (s : State) : Keeps s s.supplyReset := by
  unfold State.supplyReset
  refine Keeps.trans ?_ (State.moduleReset_keeps _ _)
  exact ⟨rfl, id⟩

theorem State.powerUp_keeps (s : State) : Keeps s s.powerUp := by
  unfold State.powerUp
  refine Keeps.trans ?_ (State.moduleReset_keeps _ _)
  exact ⟨rfl, id⟩

theorem execSupply_keeps (clear : Bool) (s : State) : KeepsNext s (execSupply clear s) := by
  unfold execSupply
  exact KeepsNext.ite (KeepsNext.next (State.supplyReset_keeps _)) (KeepsNext.ite (KeepsNext.next (State.powerUp_keeps _)) (KeepsNext.next ⟨rfl, id⟩))

theorem execDebug_keeps (s : State) : KeepsNext s (execDebug s) := by
  unfold execDebug
  exact KeepsNext.ite (KeepsNext.next (State.moduleReset_keeps _ _)) (KeepsNext.next (Keeps.refl _))

theorem State.fuseLanes_keeps (s : State) (b dir mask : Nat) : Keeps s (s.fuseLanes b dir mask) := by
  unfold State.fuseLanes
  exact State.each_keeps _ _ _ (fun x k => Keeps.ite ⟨rfl, id⟩ (Keeps.refl _))

theorem State.stackOut_keeps (s : State) (n : Nat) (cs : List Nat) : Keeps s (s.stackOut n cs) := by
  unfold State.stackOut
  exact Keeps.ite (((State.channelsOut_keeps _ _ _).trans (State.channelsOut_keeps _ _ _)).trans (State.retireStack_keeps _ _))
    (State.channelsOut_keeps _ _ _)

theorem State.fuseSense_keeps (s : State) (soft : Nat) : Keeps s (s.fuseSense soft) := by
  unfold State.fuseSense
  extract_lets s1 s2 inj s3 s4 s5 s6 s7 s8 s9
  have hs1 : Keeps s s1 := State.burn_keeps _ _ _
  clear_value s1
  have hs2 : Keeps s s2 := hs1.trans ⟨rfl, id⟩
  clear_value s2
  have hs3 : Keeps s s3 := hs2.trans ⟨rfl, id⟩
  clear_value s3
  have hs4 : Keeps s s4 := hs3.trans (State.bump_keeps _ _ _ _ _)
  clear_value s4
  have hs5 : Keeps s s5 := hs4.trans (State.wr_keeps _ _ _)
  clear_value s5
  have hs6 : Keeps s s6 := hs5.trans (State.wr_keeps _ _ _)
  clear_value s6
  have hs7 : Keeps s s7 := hs6.trans (State.each_keeps _ _ _ (fun x k => (State.wr_keeps _ _ _).trans (State.put_keeps _ _ _ _ _)))
  clear_value s7
  have hs8 : Keeps s s8 := hs7.trans (State.each_keeps _ _ _ (fun x k => State.fuseLanes_keeps _ _ _ _))
  clear_value s8
  have hs9 : Keeps s s9 := hs8.trans (State.each_keeps _ _ _ (fun x k => State.stackOut_keeps _ _ _))
  clear_value s9
  exact hs9.trans (Keeps.foldl _ (fun x a => (State.putBit_keeps _ _ _ _).trans (State.putBit_keeps _ _ _ _)) _ _)

theorem State.trainStrands_keeps (s : State) (margins : List (List Nat)) : Keeps s (s.trainStrands margins) := by
  unfold State.trainStrands
  extract_lets s1
  have hs1 : Keeps s s1 := State.each_keeps _ _ _ (fun x k => State.each_keeps _ _ _ (fun x k => ⟨rfl, id⟩))
  clear_value s1
  refine hs1.trans (State.each_keeps _ _ _ (fun x k => ?_))
  dsimp -zeta only
  exact (State.setBundle_keeps _ _).trans (State.wr_keeps _ _ _)

theorem State.startFail_keeps (s : State) (cause : Nat) : Keeps s (s.startFail cause) := by
  unfold State.startFail
  exact ((State.setStart_keeps _ _).trans (State.wr_keeps _ _ _)).trans ((State.form_inFaults _ _).keeps)

theorem State.trainMemory_keeps (s : State) (hbmBad : List (Nat × Nat)) (dtcBad : List Nat) : Keeps s (s.trainMemory hbmBad dtcBad) := by
  unfold State.trainMemory
  exact ((((State.each_keeps _ _ _ (fun x k => State.stackOut_keeps _ _ _)).trans (Keeps.foldl _ (fun x a => (State.outRecord_inFaults _ _ _).keeps)
    _ _)).trans (Keeps.foldl _ (fun x a => Keeps.ite (Keeps.refl _) (((State.putBit_keeps _ _ _ _).trans (State.putBit_keeps _ _ _ _)).trans
    ((State.outRecord_inFaults _ _ _).keeps))) _ _)).trans (State.put_keeps _ _ _ _ _)).trans (State.syncHfree_keeps _)

theorem execResetRelease_keeps (b : Bringup) (s : State) : KeepsNext s (execResetRelease b s) := by
  unfold execResetRelease
  refine KeepsNext.ite (KeepsNext.next (Keeps.refl _)) ?_
  extract_lets s1 s2 s3 c s4 s5 s6 s7
  have hs1 : Keeps s s1 := ((State.fuseSense_keeps _ _).trans (State.setStart_keeps _ _)).trans (State.wr_keeps _ _ _)
  clear_value s1
  have hs2 : Keeps s s2 := hs1.trans (State.each_keeps _ _ _ (fun x k => State.putBit_keeps _ _ _ _))
  clear_value s2
  have hs3 : Keeps s s3 := hs2.trans (State.trainStrands_keeps _ _)
  clear_value s3
  have hs4 : Keeps s s4 := hs3.trans (State.put_keeps _ _ _ _ _)
  clear_value s4
  have hs5 : Keeps s s5 := hs4.trans ⟨rfl, id⟩
  clear_value s5
  have hs6 : Keeps s s6 := hs5.trans (State.trainMemory_keeps _ _ _)
  clear_value s6
  have hs7 : Keeps s s7 := hs6.trans (State.put_keeps _ _ _ _ _)
  clear_value s7
  exact KeepsNext.ite (KeepsNext.next (hs3.trans (State.startFail_keeps _ _))) (KeepsNext.ite (KeepsNext.next (hs6.trans (State.startFail_keeps _
    _))) (KeepsNext.next (hs7.trans ⟨rfl, id⟩)))

theorem State.takeOption_keeps (s : State) (code : Nat) : Keeps s (s.takeOption code) := by
  unfold State.takeOption
  exact (((State.put_keeps _ _ _ _ _).trans (State.putBit_keeps _ _ _ _)).trans (State.reopenBoot_keeps _)).trans (State.each_keeps _ _ _ (fun x k
    => Keeps.ite (State.put_keeps _ _ _ _ _) (Keeps.refl _)))

theorem execOptload_keeps (c1 c2 : Nat) (s : State) : KeepsNext s (execOptload c1 c2 s) := by
  unfold execOptload
  refine KeepsNext.ite (KeepsNext.next (Keeps.refl _)) ?_
  split
  · exact KeepsNext.ite (KeepsNext.next (State.takeOption_keeps _ _)) (KeepsNext.ite (KeepsNext.next (State.bump_keeps _ _ _ _ _)) (KeepsNext.next
      ((State.putBit_keeps _ _ _ _).trans (State.takeOption_keeps _ _))))
  · exact KeepsNext.ite (KeepsNext.next (State.bump_keeps _ _ _ _ _)) (KeepsNext.next ((State.putBit_keeps _ _ _ _).trans (State.takeOption_keeps _
      _)))

theorem execBootWindowWrite_keeps (link offset : Nat) (data : List Byte) (s : State) : KeepsNext s (execBootWindowWrite link offset data s) := by
  unfold execBootWindowWrite
  exact KeepsNext.ite (KeepsNext.next (Keeps.refl _)) (KeepsNext.ite (KeepsNext.next ((State.put_keeps _ _ _ _ _).trans (Keeps.of_fields rfl rfl rfl
    rfl rfl))) (KeepsNext.next (State.bump_keeps _ _ _ _ _)))

theorem execGo_keeps (ag : Agent) (s : State) : KeepsNext s (execGo ag s) := by
  unfold execGo
  exact KeepsNext.ite (KeepsNext.next (Keeps.refl _)) (KeepsNext.ite (KeepsNext.next (State.setStart_keeps _ _)) (KeepsNext.next (State.putBit_keeps
    _ _ _ _)))

theorem execAbort_keeps (ag : Agent) (s : State) : KeepsNext s (execAbort ag s) := by
  unfold execAbort
  exact KeepsNext.ite (KeepsNext.next (State.reopenBoot_keeps _)) (KeepsNext.next (Keeps.refl _))

theorem State.mapColumn_keeps (s : State) (mxe quad slot col : Nat) : Keeps s (s.mapColumn mxe quad slot col) := by
  unfold State.mapColumn
  exact (State.put_keeps _ _ _ _ _).trans (State.bump_keeps _ _ _ _ _)

theorem State.repair_keeps (s : State) (w : Word) : KeepsSome s (s.repair w) := by
  unfold State.repair
  extract_lets u
  split
  · refine KeepsSome.ite (KeepsSome.none _) ?_
    cases s.spareSlot u (bits w 8 7) (bits w 6 0) with
    | none => exact KeepsSome.none _
    | some k => exact KeepsSome.some (State.mapColumn_keeps _ _ _ _ _)
  · exact KeepsSome.ite (KeepsSome.none _) (KeepsSome.some (State.loseLane_keeps _ _ _ _))
  · exact KeepsSome.ite (KeepsSome.none _) (KeepsSome.some (State.bump_keeps _ _ _ _ _))
  · exact KeepsSome.ite (KeepsSome.none _) (KeepsSome.some (State.bump_keeps _ _ _ _ _))
  · exact KeepsSome.ite (KeepsSome.none _) (KeepsSome.some (State.stackOut_keeps _ _ _))
  · exact KeepsSome.ite (KeepsSome.none _) (KeepsSome.some (State.dtcOut_keeps _ _))
  · exact KeepsSome.none _

theorem State.repairs_keeps (s : State) (bs : List Byte) (n : Nat) : Keeps s (s.repairs bs n) := by
  induction n generalizing s bs with
  | zero =>
    rw [State.repairs]
    exact Keeps.refl _
  | succ n ih =>
    rw [State.repairs]
    refine Keeps.trans ?_ (ih _ _)
    split
    · rename_i t e
      have ht : Keeps s t := (State.repair_keeps _ _) _ e
      exact ht
    · exact State.bump_keeps _ _ _ _ _

theorem State.loadCores_keeps (s : State) (xs : List (Nat × List Byte)) : Keeps s (s.loadCores xs) := by
  induction xs generalizing s with
  | nil =>
    rw [State.loadCores]
    exact Keeps.refl _
  | cons x xs ih =>
    rw [State.loadCores]
    refine Keeps.trans ?_ (ih _)
    split
    · rename_i t e
      have ht : Keeps s t := (State.writeMem_keeps _ _ _ _) _ e
      exact ht
    · exact Keeps.refl _

theorem execVerifyResult_keeps (s : State) : KeepsNext s (execVerifyResult s) := by
  unfold execVerifyResult
  refine KeepsNext.ite (KeepsNext.next (Keeps.refl _)) ?_
  extract_lets r im x s1 s2 s3 c
  have hx : Keeps s x := (State.setStart_keeps _ _).trans (State.put_keeps _ _ _ _ _)
  clear_value x
  have hs1 : Keeps s s1 := hx.trans ⟨rfl, id⟩
  clear_value s1
  have hs2 : Keeps s s2 := hs1.trans (State.put_keeps _ _ _ _ _)
  clear_value s2
  have hs3 : Keeps s s3 := (hs2.trans (State.repairs_keeps _ _ _)).trans (State.syncHfree_keeps _)
  clear_value s3
  exact KeepsNext.ite (KeepsNext.next (((State.reopenBoot_keeps _).trans (State.put_keeps _ _ _ _ _)).trans (State.bump_keeps _ _ _ _ _)))
    (KeepsNext.ite (KeepsNext.next (hs3.trans (State.startFail_keeps _ _))) (KeepsNext.next (hs3.trans (State.loadCores_keeps _ _))))

/-- READY: the start's times, the certificate and the cores that run. -/
theorem State.started_keeps (s : State) (pg free ns frac wdog : Nat) (cert : List Byte) (cores : Tab Bool) :
    Keeps s { s with sincePg := pg, free := free, ns := ns, frac := frac, wdogAt := wdog, aliasCert := cert, coreHeld := cores } := ⟨rfl, id⟩

theorem execSelfReady_keeps (s : State) : KeepsNext s (execSelfReady s) := by
  unfold execSelfReady
  split
  · exact KeepsNext.next (Keeps.refl _)
  · rename_i im _
    refine KeepsNext.ite (KeepsNext.next (Keeps.refl _)) ?_
    extract_lets s1 s2 s3 s4
    have hs1 : Keeps s s1 := Keeps.ite (State.burn_keeps _ _ _) (Keeps.refl _)
    clear_value s1
    have hs2 : Keeps s s2 := by
      subst s2
      split
      · exact hs1.trans (State.burn_keeps _ _ _)
      · exact hs1.trans (State.burn_keeps _ _ _)
      · exact hs1.trans (State.burn_keeps _ _ _)
      · exact hs1
    clear_value s2
    have hs3 : Keeps s s3 := (hs2.trans (State.put_keeps _ _ _ _ _)).trans (State.put_keeps _ _ _ _ _)
    clear_value s3
    have hs4 : Keeps s s4 := hs3.trans (State.started_keeps _ _ _ _ _ _ _ _)
    clear_value s4
    exact KeepsNext.next (((hs4.trans (State.setStart_keeps _ _)).trans (State.wr_keeps _ _ _)).trans (State.noteTime_keeps _ _ _ _))

theorem execSecAttcmd_keeps (ag : Agent) (s : State) : KeepsNext s (execSecAttcmd ag s) := by
  unfold execSecAttcmd
  refine KeepsNext.ite (KeepsNext.next (Keeps.refl _)) ?_
  refine KeepsNext.ite (KeepsNext.next (State.put_keeps _ _ _ _ _)) ?_
  refine KeepsNext.ite (KeepsNext.next (State.put_keeps _ _ _ _ _)) ?_
  refine KeepsNext.next ?_
  refine Keeps.trans ?_ (State.putBit_keeps _ _ _ _)
  exact ⟨rfl, id⟩

theorem execAttestationQuote_keeps (s : State) : KeepsNext s (execAttestationQuote s) := by
  unfold execAttestationQuote
  split
  · exact KeepsNext.next (Keeps.refl _)
  · refine KeepsNext.ite (KeepsNext.next (Keeps.refl _)) ?_
    extract_lets q bs
    refine KeepsNext.next ?_
    refine Keeps.trans ?_ (State.wr_keeps _ _ _)
    refine Keeps.trans ?_ ((State.wrRun_inFaults _ _ _).keeps)
    exact ⟨rfl, id⟩

theorem execSecRevoke_keeps (ag : Agent) (v : Word) (s : State) : KeepsNext s (execSecRevoke ag v s) := by
  unfold execSecRevoke
  exact KeepsNext.ite (KeepsNext.next (Keeps.refl _)) (KeepsNext.next ⟨rfl, id⟩)

theorem execKick_keeps (ag : Agent) (v : Word) (s : State) : KeepsNext s (execKick ag v s) := by
  unfold execKick
  exact KeepsNext.ite (KeepsNext.next (Keeps.refl _)) (KeepsNext.next (Keeps.ite ((Keeps.ite (Keeps.refl _) (State.put_keeps _ _ _ _ _)).trans
    (Keeps.of_fields rfl rfl rfl rfl rfl)) (Keeps.ite (Keeps.refl _) (State.put_keeps _ _ _ _ _))))

end Sys2Proof.Machine
end

section
/-! What every command keeps: power. -/

namespace Sys2Proof.Machine

/-- Power off: the registers are gone, and nothing injected is left. -/
theorem State.dropRegs_keeps (s : State) (p : Power) (held : Nat) :
    Keeps s { s with regs := [], armed := [], power := p, powerGood := false, held := held } := ⟨rfl, fun h => ⟨h.1, rfl, h.2.2⟩⟩

theorem State.powerDown_keeps (s : State) (p : Power) : Keeps s (s.powerDown p) := by
  unfold State.powerDown
  exact (State.moduleReset_keeps _ _).trans (State.dropRegs_keeps _ _ _)

theorem execWake_keeps (input : Nat) (pwrEn perst0 perst1 : Bool) (s : State) : KeepsNext s (execWake input pwrEn perst0 perst1 s) := by
  unfold execWake
  refine KeepsNext.ite (KeepsNext.next (Keeps.refl _)) ?_
  extract_lets s1
  have hs1 : Keeps s s1 := ⟨rfl, id⟩
  clear_value s1
  exact KeepsNext.next (Keeps.ite (hs1.trans ⟨rfl, id⟩) hs1)

theorem execRailsInRegulation_keeps (s : State) : KeepsNext s (execRailsInRegulation s) := by
  unfold execRailsInRegulation
  refine KeepsNext.ite ?_ (KeepsNext.next (Keeps.refl _))
  refine KeepsNext.next ?_
  refine Keeps.trans ?_ (State.powerUp_keeps _)
  exact ⟨rfl, id⟩

theorem execRampTimeout_keeps (s : State) : KeepsNext s (execRampTimeout s) := by
  unfold execRampTimeout
  exact KeepsNext.ite (KeepsNext.next (State.powerDown_keeps _ _)) (KeepsNext.next (Keeps.refl _))

theorem State.railFaults_keeps (s : State) (rail : Nat) (inj : Bool) : Keeps s (s.railFaults rail inj) := by
  unfold State.railFaults
  exact (State.detect_inFaults _ _).keeps.trans (State.supplyReset_keeps _)

theorem execRailFault_keeps (rail : Nat) (s : State) : KeepsNext s (execRailFault rail s) := by
  unfold execRailFault
  refine KeepsNext.ite (KeepsNext.next (Keeps.refl _)) ?_
  dsimp -zeta only
  exact KeepsNext.next ((State.takeInj_inFaults _ _ _ _).keeps.trans (State.railFaults_keeps _ _ _))

theorem execPwrEnFall_keeps (s : State) : KeepsNext s (execPwrEnFall s) := by
  unfold execPwrEnFall
  refine KeepsNext.ite ?_ (KeepsNext.next ⟨rfl, id⟩)
  refine KeepsNext.next ?_
  refine Keeps.trans ?_ (State.powerDown_keeps _ _)
  exact ⟨rfl, id⟩

theorem execPwrOff_keeps (ag : Agent) (v : Word) (s : State) : KeepsNext s (execPwrOff ag v s) := by
  unfold execPwrOff
  exact KeepsNext.ite (KeepsNext.next (State.powerDown_keeps _ _)) (KeepsNext.next (Keeps.refl _))

theorem execInputBelow40v_keeps (s : State) : KeepsNext s (execInputBelow40v s) := by
  unfold execInputBelow40v
  exact KeepsNext.ite (KeepsNext.next (State.powerDown_keeps _ _)) (KeepsNext.next (Keeps.refl _))

theorem execConversionOff_keeps (s : State) : KeepsNext s (execConversionOff s) := by
  unfold execConversionOff
  exact KeepsNext.ite (KeepsNext.next (State.powerDown_keeps _ _)) (KeepsNext.next (Keeps.refl _))

theorem execLatchoffExit_keeps (input : Nat) (cycled : Bool) (s : State) : KeepsNext s (execLatchoffExit input cycled s) := by
  unfold execLatchoffExit
  refine KeepsNext.ite (KeepsNext.next (Keeps.refl _)) ?_
  refine KeepsNext.ite ?_ (KeepsNext.ite (KeepsNext.next ⟨rfl, id⟩) (KeepsNext.next (Keeps.refl _)))
  extract_lets s1
  have hs1 : Keeps s s1 := ⟨rfl, id⟩
  clear_value s1
  exact KeepsNext.next (Keeps.ite (hs1.trans ⟨rfl, id⟩) hs1)

theorem State.alarm_keeps (s : State) (b : Nat) : Keeps s (s.alarm b) := by
  unfold State.alarm
  exact Keeps.ite ((State.putBit_keeps _ _ _ _).trans (Keeps.of_fields rfl rfl rfl rfl rfl)) (State.putBit_keeps _ _ _ _)

theorem State.condition_keeps (s : State) (det part b info : Nat) (inj : Bool) : Keeps s (s.condition det part b info inj) := by
  unfold State.condition
  extract_lets key seen fresh x s1
  have hx : Keeps s x := State.alarm_keeps _ _
  clear_value x
  have hs1 : Keeps s s1 := hx.trans ⟨rfl, id⟩
  clear_value s1
  exact Keeps.ite (hs1.trans ((State.form_inFaults _ _).keeps)) hs1

theorem execPwrCaphost_keeps (ag : Agent) (v : Word) (s : State) : KeepsNext s (execPwrCaphost ag v s) := by
  unfold execPwrCaphost
  exact KeepsNext.ite (KeepsNext.next ⟨rfl, id⟩) (KeepsNext.next (Keeps.refl _))

theorem execPwrCapbmc_keeps (ag : Agent) (v : Word) (s : State) : KeepsNext s (execPwrCapbmc ag v s) := by
  unfold execPwrCapbmc
  exact KeepsNext.ite (KeepsNext.next ⟨rfl, id⟩) (KeepsNext.next (Keeps.refl _))

theorem State.applyCaps_keeps (s : State) (inv : Nat) : Keeps s (s.applyCaps inv) := by
  unfold State.applyCaps
  exact ((Keeps.foldl _ (fun x a => State.put_keeps _ _ _ _ _) _ _).trans (State.wr_keeps _ _ _)).trans (Keeps.of_fields rfl rfl rfl rfl rfl)

theorem State.noteStep_keeps (s : State) : Keeps s s.noteStep := by
  unfold State.noteStep
  exact State.pieces_keeps _ _

theorem State.clockTo_keeps (s : State) (clk : Nat) : Keeps s (s.clockTo clk) := by
  unfold State.clockTo
  extract_lets was s1 s2 x s3 s4
  have hs1 : Keeps s s1 := State.recap_keeps _ _ (fun t => State.put_keeps _ _ _ _ _)
  clear_value s1
  have hs2 : Keeps s s2 := Keeps.ite (hs1.trans (State.noteStep_keeps _)) hs1
  clear_value s2
  have hx : Keeps s x := Keeps.ite (hs2.trans (State.bump_keeps _ _ _ _ _)) (hs2.trans (State.bump_keeps _ _ _ _ _))
  clear_value x
  have hs3 : Keeps s s3 := hx.trans ⟨rfl, id⟩
  clear_value s3
  have hs4 : Keeps s s4 := Keeps.ite (hs3.trans (State.alarm_keeps _ _)) hs3
  clear_value s4
  exact Keeps.ite (Keeps.refl _) (Keeps.ite (hs4.trans ((State.form_inFaults _ _).keeps)) hs4)

theorem State.shedLoad_keeps (s : State) (p1 p10 inv : Nat) : KeepsSome s (s.shedLoad p1 p10 inv) := by
  unfold State.shedLoad
  extract_lets lost heavy share x
  have hshare : ∀ y n, Keeps y (share y n) := by
    intro y n
    subst share
    beta_reduce
    extract_lets x1
    have hx1 : Keeps y x1 := by
      subst x1
      refine Keeps.trans ?_ (State.noteStep_keeps _)
      exact State.recap_keeps _ _ (fun t => ⟨rfl, id⟩)
    clear_value x1
    exact hx1.trans ⟨rfl, id⟩
  clear_value share
  have hx : Keeps s x := State.clockTo_keeps _ _
  clear_value x
  refine KeepsSome.ite ?_ (KeepsSome.ite (KeepsSome.some (hshare _ _)) (KeepsSome.ite (KeepsSome.some (Keeps.ite (hshare _ _) (Keeps.refl _)))
    (KeepsSome.none _)))
  refine KeepsSome.some ?_
  refine Keeps.trans ?_ (hshare _ _)
  exact hx.trans ⟨rfl, id⟩

theorem State.clockDecide_keeps (s : State) (p1 p10 p1000 inv : Nat) : Keeps s (s.clockDecide p1 p10 p1000 inv) := by
  unfold State.clockDecide
  split
  · rename_i t e
    have ht : Keeps s t := (State.shedLoad_keeps _ _ _ _) _ e
    exact ht
  · exact Keeps.ite (State.clockTo_keeps _ _) (Keeps.ite (State.clockTo_keeps _ _) (Keeps.ite (State.clockTo_keeps _ _) (Keeps.ite
      (State.clockTo_keeps _ _) (Keeps.refl _))))

theorem State.powerBoundary_keeps (s : State) (p1 p10 p1000 inv : Nat) : Keeps s (s.powerBoundary p1 p10 p1000 inv) := by
  unfold State.powerBoundary
  extract_lets s1 s2 above s3 s4 s5
  have hs1 : Keeps s s1 := Keeps.ite (State.bump_keeps _ _ _ _ _) (Keeps.ite (Keeps.ite (State.bump_keeps _ _ _ _ _) (State.bump_keeps _ _ _ _ _))
    (Keeps.refl _))
  clear_value s1
  have hs2 : Keeps s s2 := hs1.trans (State.applyCaps_keeps _ _)
  clear_value s2
  have hs3 : Keeps s s3 := hs2.trans ⟨rfl, id⟩
  clear_value s3
  have hs4 : Keeps s s4 := hs3.trans (State.clockDecide_keeps _ _ _ _ _)
  clear_value s4
  have hs5 : Keeps s s5 := Keeps.ite (hs4.trans (State.condition_keeps _ _ _ _ _ _)) hs4
  clear_value s5
  exact hs5.trans (State.wr_keeps _ _ _)

theorem execCapfail_keeps (p10 : Nat) (s : State) : KeepsNext s (execCapfail p10 s) := by
  unfold execCapfail
  dsimp -zeta only
  exact KeepsNext.ite (KeepsNext.next ((State.takeInj_inFaults _ _ _ _).keeps.trans (State.condition_keeps _ _ _ _ _ _))) (KeepsNext.next
    (Keeps.refl _))

theorem State.mzAlert_keeps (s : State) (n : Nat) (inj : Bool) : Keeps s (s.mzAlert n inj) := by
  unfold State.mzAlert
  exact State.condition_keeps _ _ _ _ _ _

theorem State.mzLost_keeps (s : State) (n : Nat) (inj : Bool) : Keeps s (s.mzLost n inj) := by
  unfold State.mzLost
  refine Keeps.trans ?_ (State.mzAlert_keeps _ _ _)
  refine Keeps.trans ?_ (State.putBit_keeps _ _ _ _)
  exact ⟨rfl, id⟩

theorem State.mzBack_keeps (s : State) (n : Nat) (inj : Bool) : Keeps s (s.mzBack n inj) := by
  unfold State.mzBack
  refine Keeps.trans ?_ ((State.form_inFaults _ _).keeps)
  refine Keeps.trans ?_ (State.putBit_keeps _ _ _ _)
  exact ⟨rfl, id⟩

theorem execMzloss_keeps (n : Nat) (s : State) : KeepsNext s (execMzloss n s) := by
  unfold execMzloss
  exact KeepsNext.ite (KeepsNext.next (State.mzLost_keeps _ _ _)) (KeepsNext.next (Keeps.refl _))

theorem execMezzanineSupplyReturn_keeps (n : Nat) (s : State) : KeepsNext s (execMezzanineSupplyReturn n s) := by
  unfold execMezzanineSupplyReturn
  exact KeepsNext.ite (KeepsNext.next (State.mzBack_keeps _ _ _)) (KeepsNext.next (Keeps.refl _))

theorem State.partAlert_keeps (s : State) (x : Nat × Option Int) : Keeps s (s.partAlert x) := by
  unfold State.partAlert
  extract_lets p
  have h1 := (State.takeInj_inFaults s Reg.pwrInj 9 p).keeps
  generalize s.takeInj Reg.pwrInj 9 p = q at h1
  obtain ⟨fail, s1⟩ := q
  dsimp -zeta only at h1 ⊢
  have h2 : KeepsSnd s1 (if 32 ≤ p then s1.takeInj Reg.pwrInj 7 (p - 32) else s1.takeInj Reg.pwrInj 5 p) :=
    KeepsSnd.ite (State.takeInj_inFaults _ _ _ _).keeps (State.takeInj_inFaults _ _ _ _).keeps
  generalize (if 32 ≤ p then s1.takeInj Reg.pwrInj 7 (p - 32) else s1.takeInj Reg.pwrInj 5 p) = q at h2
  obtain ⟨hot, s2⟩ := q
  extract_lets s3 t
  have hs3 : Keeps s s3 := Keeps.trans (Keeps.trans h1 h2) (Keeps.ite (State.condition_keeps _ _ _ _ _ _) (Keeps.refl _))
  clear_value s3 t
  cases t with
  | none => exact hs3
  | some t => exact Keeps.ite hs3 (Keeps.ite (hs3.trans (State.condition_keeps _ _ _ _ _ _)) (hs3.trans (State.condition_keeps _ _ _ _ _ _)))

theorem State.readTemps_keeps (s : State) (t : Temps) : Keeps s (s.readTemps t) := by
  unfold State.readTemps
  extract_lets s1 lp hb s2 s3 di
  have hs1 : Keeps s s1 := by
    subst s1
    refine Keeps.foldl _ (fun x a => ?_) _ _
    split
    · exact State.put_keeps _ _ _ _ _
    · exact Keeps.refl _
  clear_value s1
  have hs2 : Keeps s s2 := hs1.trans (State.wr_keeps _ _ _)
  clear_value s2
  have hs3 : Keeps s s3 := hs2.trans (State.wr_keeps _ _ _)
  clear_value s3
  exact hs3.trans (State.wr_keeps _ _ _)

theorem State.tripPart_keeps (s : State) (part : Nat) (inj : Bool) : Keeps s (s.tripPart part inj) := by
  unfold State.tripPart
  exact (State.detect_inFaults _ _).keeps.trans (State.thermReset_keeps _)

theorem State.again_keeps (s : State) (det part b : Nat) (still : Bool) : Keeps s (s.again det part b still) := by
  unfold State.again
  exact Keeps.ite ((State.alarm_keeps _ _).trans (Keeps.of_fields rfl rfl rfl rfl rfl)) (Keeps.refl _)

theorem State.persisting_keeps (s : State) : Keeps s s.persisting := by
  unfold State.persisting
  exact ((((Keeps.ite (State.alarm_keeps _ _) (Keeps.refl _)).trans (State.again_keeps _ _ _ _ _)).trans (State.again_keeps _ _ _ _ _)).trans
    (State.again_keeps _ _ _ _ _)).trans (State.each_keeps _ _ _ (fun x k => State.again_keeps _ _ _ _ _))

theorem State.mzInj_keeps (s : State) (b : Bool) : Keeps s { s with mzInj := b } := ⟨rfl, id⟩

theorem State.mezzanineReading_keeps (s : State) : Keeps s s.mezzanineReading := by
  unfold State.mezzanineReading
  extract_lets s1
  have hs1 : Keeps s s1 := Keeps.ite ((State.mzInj_keeps _ _).trans (State.mzBack_keeps _ _ _)) (Keeps.refl _)
  clear_value s1
  have ht := hs1.trans (State.takeInj_inFaults s1 Reg.pwrInj 10 0).keeps
  generalize s1.takeInj Reg.pwrInj 10 0 = p at ht
  obtain ⟨mz, t⟩ := p
  dsimp -zeta only at ht ⊢
  exact Keeps.ite ht (Keeps.ite ((ht.trans (State.mzInj_keeps _ _)).trans (State.mzLost_keeps _ _ _)) (ht.trans (State.mzAlert_keeps _ _ _)))

theorem State.injectedReading_keeps (s : State) (ps : List (Nat × Option Int)) : Keeps s (s.injectedReading ps) := by
  unfold State.injectedReading
  extract_lets s1
  have hs1 : Keeps s s1 := State.persisting_keeps _
  clear_value s1
  dsimp -zeta only
  extract_lets s2 s3 s4
  have hs2 : Keeps s s2 := Keeps.ite ((KeepsSnd.after hs1 ((State.takeInj_inFaults _ _ _ _).keeps)).trans (State.condition_keeps _ _ _ _ _ _))
    (KeepsSnd.after hs1 ((State.takeInj_inFaults _ _ _ _).keeps))
  clear_value s2
  have hs3 : Keeps s s3 := Keeps.ite ((KeepsSnd.after hs2 ((State.takeInj_inFaults _ _ _ _).keeps)).trans (State.condition_keeps _ _ _ _ _ _))
    (KeepsSnd.after hs2 ((State.takeInj_inFaults _ _ _ _).keeps))
  clear_value s3
  have hs4 : Keeps s s4 := hs3.trans (State.mezzanineReading_keeps _)
  clear_value s4
  split
  · exact ((KeepsSnd.after (KeepsSnd.after hs4 ((State.takeInj_inFaults _ _ _ _).keeps)) ((State.takeInj_inFaults _ _ _ _).keeps)).trans
      ((State.disarm_inFaults _ _ _ _).keeps)).trans (State.tripPart_keeps _ _ _)
  · exact Keeps.ite ((KeepsSnd.after (KeepsSnd.after hs4 ((State.takeInj_inFaults _ _ _ _).keeps)) ((State.takeInj_inFaults _ _ _ _).keeps)).trans
      (State.railFaults_keeps _ _ _)) (Keeps.ite ((KeepsSnd.after (KeepsSnd.after hs4 ((State.takeInj_inFaults _ _ _ _).keeps))
      ((State.takeInj_inFaults _ _ _ _).keeps)).trans (State.railFaults_keeps _ _ _)) (KeepsSnd.after (KeepsSnd.after hs4 ((State.takeInj_inFaults _
      _ _ _).keeps)) ((State.takeInj_inFaults _ _ _ _).keeps)))

theorem execSensorReading_keeps (t : Temps) (s : State) : KeepsNext s (execSensorReading t s) := by
  unfold execSensorReading
  extract_lets ps s1 s2 s3 s4 s5
  have hs1 : Keeps s s1 := ⟨rfl, id⟩
  have hs2 : Keeps s s2 := hs1.trans (State.readTemps_keeps _ _)
  clear_value s2
  have hs3 : Keeps s s3 := hs2.trans ⟨rfl, id⟩
  clear_value s3
  have hs4 : Keeps s s4 := hs3.trans (State.putBit_keeps _ _ _ _)
  clear_value s4
  have hs5 : Keeps s s5 := hs4.trans (Keeps.foldl _ (fun x a => State.partAlert_keeps _ _) _ _)
  clear_value s5
  refine KeepsNext.ite (KeepsNext.next hs1) ?_
  dsimp -zeta only
  exact KeepsNext.next ((Keeps.ite ((KeepsSnd.after hs5 ((State.takeInj_inFaults _ _ _ _).keeps)).trans (State.condition_keeps _ _ _ _ _ _))
    (KeepsSnd.after hs5 ((State.takeInj_inFaults _ _ _ _).keeps))).trans (State.injectedReading_keeps _ _))

theorem execThermalTrip_keeps (part : Nat) (temp : Int) (s : State) : KeepsNext s (execThermalTrip part temp s) := by
  unfold execThermalTrip
  refine KeepsNext.ite ?_ (KeepsNext.next (Keeps.refl _))
  dsimp -zeta only
  exact KeepsNext.next ((State.takeInj_inFaults _ _ _ _).keeps.trans (State.tripPart_keeps _ _ _))

theorem execTripClear_keeps (s : State) : KeepsNext s (execTripClear s) := by
  unfold execTripClear
  exact KeepsNext.ite (KeepsNext.next ⟨rfl, id⟩) (KeepsNext.next (Keeps.refl _))

theorem execCagePresence_keeps (cage pos : Nat) (low : Bool) (s : State) : KeepsNext s (execCagePresence cage pos low s) := by
  unfold execCagePresence
  refine KeepsNext.ite (KeepsNext.next (Keeps.refl _)) ?_
  extract_lets k rest
  refine KeepsNext.next ?_
  refine Keeps.trans ?_ (State.putBit_keeps _ _ _ _)
  exact ⟨rfl, id⟩

theorem execCageOvercurrent_keeps (cage : Nat) (s : State) : KeepsNext s (execCageOvercurrent cage s) := by
  unfold execCageOvercurrent
  exact KeepsNext.ite (KeepsNext.next ((State.putBit_keeps _ _ _ _).trans (State.condition_keeps _ _ _ _ _ _))) (KeepsNext.next (Keeps.refl _))

theorem execSetdasa_keeps (addr : Nat) (s : State) : KeepsNext s (execSetdasa addr s) := by
  unfold execSetdasa
  exact KeepsNext.ite (KeepsNext.next ⟨rfl, id⟩) (KeepsNext.next (Keeps.refl _))

theorem execEntdaa_keeps (addr : Nat) (s : State) : KeepsNext s (execEntdaa addr s) := by
  unfold execEntdaa
  exact KeepsNext.ite (KeepsNext.next ⟨rfl, id⟩) (KeepsNext.next (Keeps.refl _))

theorem execExtest_keeps (s : State) : KeepsNext s (execExtest s) := by
  unfold execExtest
  exact KeepsNext.ite (KeepsNext.next (Keeps.refl _)) (KeepsNext.next ⟨rfl, id⟩)

theorem execIdcode_keeps (s : State) : KeepsNext s (execIdcode s) := by
  unfold execIdcode
  exact KeepsNext.next ⟨rfl, id⟩

theorem execSamplePreload_keeps (s : State) : KeepsNext s (execSamplePreload s) := by
  unfold execSamplePreload
  exact KeepsNext.ite (KeepsNext.next (Keeps.refl _)) (KeepsNext.next ⟨rfl, id⟩)

theorem execBypass_keeps (s : State) : KeepsNext s (execBypass s) := by
  unfold execBypass
  exact KeepsNext.next ⟨rfl, id⟩

theorem execDbgauth_keeps (random : BitVec 256) (req : Word) (key sig : List Byte) (s : State) : KeepsNext s (execDbgauth random req key sig s) := by
  unfold execDbgauth
  extract_lets serial ch s1 good
  have hs1 : Keeps s s1 := ⟨rfl, id⟩
  clear_value s1
  dsimp -zeta only
  exact KeepsNext.next (Keeps.ite (hs1.trans ⟨rfl, id⟩) hs1)

theorem State.armPower_keeps (s : State) (ag : Agent) (kind target : Nat) : KeepsNext s (s.armPower ag kind target) := by
  unfold State.armPower
  exact KeepsNext.ite (KeepsNext.next (State.arm_keeps _ _ _ _)) (KeepsNext.next (Keeps.refl _))

theorem execPwrInjInputAlert_keeps (ag : Agent) (target : Nat) (s : State) : KeepsNext s (execPwrInjInputAlert ag target s) := by
  unfold execPwrInjInputAlert
  exact State.armPower_keeps _ _ _ _

theorem execPwrInjInputFault_keeps (ag : Agent) (target : Nat) (s : State) : KeepsNext s (execPwrInjInputFault ag target s) := by
  unfold execPwrInjInputFault
  exact State.armPower_keeps _ _ _ _

theorem execPwrInjRailFault_keeps (ag : Agent) (target : Nat) (s : State) : KeepsNext s (execPwrInjRailFault ag target s) := by
  unfold execPwrInjRailFault
  exact State.armPower_keeps _ _ _ _

theorem execPwrInjCapfail_keeps (ag : Agent) (target : Nat) (s : State) : KeepsNext s (execPwrInjCapfail ag target s) := by
  unfold execPwrInjCapfail
  exact State.armPower_keeps _ _ _ _

theorem execPwrInjHot_keeps (ag : Agent) (target : Nat) (s : State) : KeepsNext s (execPwrInjHot ag target s) := by
  unfold execPwrInjHot
  exact State.armPower_keeps _ _ _ _

theorem execPwrInjTrip_keeps (ag : Agent) (target : Nat) (s : State) : KeepsNext s (execPwrInjTrip ag target s) := by
  unfold execPwrInjTrip
  exact State.armPower_keeps _ _ _ _

theorem execPwrInjHbmHot_keeps (ag : Agent) (target : Nat) (s : State) : KeepsNext s (execPwrInjHbmHot ag target s) := by
  unfold execPwrInjHbmHot
  exact State.armPower_keeps _ _ _ _

theorem execPwrInjCoolant_keeps (ag : Agent) (target : Nat) (s : State) : KeepsNext s (execPwrInjCoolant ag target s) := by
  unfold execPwrInjCoolant
  exact State.armPower_keeps _ _ _ _

theorem execPwrInjSensor_keeps (ag : Agent) (target : Nat) (s : State) : KeepsNext s (execPwrInjSensor ag target s) := by
  unfold execPwrInjSensor
  exact State.armPower_keeps _ _ _ _

theorem execPwrInjMezzanine_keeps (ag : Agent) (target : Nat) (s : State) : KeepsNext s (execPwrInjMezzanine ag target s) := by
  unfold execPwrInjMezzanine
  exact State.armPower_keeps _ _ _ _

end Sys2Proof.Machine
end

section
/-! What every command keeps: beats. -/

namespace Sys2Proof.Machine

theorem State.syncOffset_keeps (s : State) (u : Nat) : Keeps s (s.syncOffset u) := by
  unfold State.syncOffset
  exact State.put_keeps _ _ _ _ _

theorem State.setOffset_keeps (s : State) (k v : Nat) : Keeps s (s.setOffset k v) := by
  unfold State.setOffset
  refine Keeps.trans ?_ (State.syncOffset_keeps _ _)
  exact ⟨rfl, id⟩

theorem State.rebaseBy_keeps (s : State) (d : Nat) : Keeps s (s.rebaseBy d) := by
  unfold State.rebaseBy
  extract_lets held s1 s2 s3 s4 x s5
  have hs1 : Keeps s s1 := State.pieces_keeps _ _
  clear_value s1
  have hs2 : Keeps s s2 := hs1.trans (Keeps.foldl _ (fun x a => State.setTotal_keeps _ _ _ _) _ _)
  clear_value s2
  have hs3 : Keeps s s3 := hs2.trans ⟨rfl, id⟩
  clear_value s3
  have hs4 : Keeps s s4 := hs3.trans (Keeps.foldl _ (fun x a => State.setOffset_keeps _ _ _) _ _)
  clear_value s4
  have hx : Keeps s x := hs4.trans (State.bump_keeps _ _ _ _ _)
  clear_value x
  have hs5 : Keeps s s5 := hx.trans ⟨rfl, id⟩
  clear_value s5
  exact hs5.trans ((State.event_inFaults _ _ _ _).keeps)

theorem execReBase_keeps (s : State) : KeepsNext s (execReBase s) := by
  unfold execReBase
  exact KeepsNext.ite (KeepsNext.next (State.rebaseBy_keeps _ _)) (KeepsNext.next (Keeps.refl _))

theorem State.resolveSlot_keeps (s : State) (sl : Nat) : Keeps s (s.resolveSlot sl) := by
  unfold State.resolveSlot
  extract_lets ds s1
  have hs1 : Keeps s s1 := State.bump_keeps _ _ _ _ _
  clear_value s1
  refine Keeps.ite hs1 ?_
  split
  · exact hs1
  · split
    · exact hs1
    · exact ((hs1.trans ((State.wrRun_inFaults _ _ _).keeps)).trans (State.putBit_keeps _ _ _ _)).trans ((State.form_inFaults _ _).keeps)

theorem State.trapOp_keeps (s : State) (was : List Bool) (ds : List Detection) (sl : Nat) : Keeps s (s.trapOp was ds sl) := by
  unfold State.trapOp
  refine Keeps.ite ?_ (Keeps.refl _)
  split
  · exact State.markFail_keeps _ _ _ _ _
  · exact Keeps.refl _

theorem State.armSlot_keeps (s : State) (sl : Nat) : Keeps s (s.armSlot sl) := by
  unfold State.armSlot
  split
  · exact Keeps.refl _
  · exact (Keeps.ite ((State.wr_keeps _ _ _).trans (State.put_keeps _ _ _ _ _)) (State.wr_keeps _ _ _)).trans (State.putBit_keeps _ _ _ _)

theorem State.watchBoundary_keeps (s : State) : Keeps s s.watchBoundary := by
  unfold State.watchBoundary
  extract_lets was ds s1 s2 s3 s4 s5
  have hs1 : Keeps s s1 := State.each_keeps _ _ _ (fun x k => State.resolveSlot_keeps _ _)
  clear_value s1
  have hs2 : Keeps s s2 := hs1.trans ⟨rfl, id⟩
  clear_value s2
  have hs3 : Keeps s s3 := hs2.trans (State.each_keeps _ _ _ (fun x k => State.trapOp_keeps _ _ _ _))
  clear_value s3
  have hs4 : Keeps s s4 := hs3.trans (Keeps.foldl _ (fun x a => State.putBit_keeps _ _ _ _) _ _)
  clear_value s4
  have hs5 : Keeps s s5 := hs4.trans (State.each_keeps _ _ _ (fun x k => State.armSlot_keeps _ _))
  clear_value s5
  exact hs5.trans ⟨rfl, id⟩

theorem execRigWctl_keeps (ag : Agent) (slot : Nat) (v : Word) (s : State) : KeepsNext s (execRigWctl ag slot v s) := by
  unfold execRigWctl
  exact KeepsNext.ite (KeepsNext.next ⟨rfl, id⟩) (KeepsNext.next (Keeps.refl _))

theorem execTrippedClear_keeps (ag : Agent) (slot : Nat) (s : State) : KeepsNext s (execTrippedClear ag slot s) := by
  unfold execTrippedClear
  exact KeepsNext.ite (KeepsNext.next ⟨rfl, id⟩) (KeepsNext.next (Keeps.refl _))

theorem State.nextBeat_keeps (s : State) : Keeps s s.nextBeat := by
  unfold State.nextBeat
  refine Keeps.ite ?_ ((State.wr_keeps _ _ _).trans (Keeps.of_fields rfl rfl rfl rfl rfl))
  extract_lets t s1
  have hs1 : Keeps s s1 := ⟨rfl, id⟩
  clear_value s1
  exact (hs1.trans (State.wr_keeps _ _ _)).trans (State.noteTime_keeps _ _ _ _)

theorem State.rfmAlarms_keeps (s : State) : Keeps s s.rfmAlarms := by
  unfold State.rfmAlarms
  exact Keeps.foldl _ (fun x a => (State.disarm_inFaults _ _ _ _).keeps.trans ((State.detect_inFaults _ _).keeps)) _ _

theorem State.flitErrors_keeps (s : State) : Keeps s s.flitErrors := by
  unfold State.flitErrors
  exact State.each_keeps _ _ _ (fun x k => Keeps.ite ((((State.disarm_inFaults _ _ _ _).keeps.trans (State.bump_keeps _ _ _ _ _)).trans
    (State.bump_keeps _ _ _ _ _)).trans ((State.countDet_inFaults _ _ _).keeps)) (Keeps.refl _))

theorem State.forcedRetrains_keeps (s : State) : Keeps s s.forcedRetrains := by
  unfold State.forcedRetrains
  exact State.each_keeps _ _ _ (fun x k => Keeps.ite ((State.disarm_inFaults _ _ _ _).keeps.trans (State.retrain_keeps _ _ _)) (Keeps.refl _))

theorem State.forcedRecoveries_keeps (s : State) : Keeps s s.forcedRecoveries := by
  unfold State.forcedRecoveries
  exact State.each_keeps _ _ _ (fun x k => Keeps.ite (((State.disarm_inFaults _ _ _ _).keeps.trans (State.put_keeps _ _ _ _ _)).trans
    ((State.form_inFaults _ _).keeps)) (Keeps.refl _))

theorem State.lockLosses_keeps (s : State) : Keeps s s.lockLosses := by
  unfold State.lockLosses
  exact Keeps.foldl _ (fun x a => Keeps.ite ((State.disarm_inFaults _ _ _ _).keeps.trans (State.laneAlarm_keeps _ _ _ _ _ _)) (Keeps.refl _)) _ _

theorem State.coreExpires_keeps (s : State) (core : Nat) (inj : Bool) : Keeps s (s.coreExpires core inj) := by
  unfold State.coreExpires
  refine Keeps.trans ?_ ((State.detect_inFaults _ _).keeps)
  exact ⟨rfl, id⟩

theorem State.forcedExpiries_keeps (s : State) : Keeps s s.forcedExpiries := by
  unfold State.forcedExpiries
  exact State.each_keeps _ _ _ (fun x k => Keeps.ite ((State.disarm_inFaults _ _ _ _).keeps.trans (State.coreExpires_keeps _ _ _)) (Keeps.refl _))

theorem execBeatBoundary_keeps (p1 p10 p1000 inv : Nat) (s : State) : KeepsNext s (execBeatBoundary p1 p10 p1000 inv s) := by
  unfold execBeatBoundary
  refine KeepsNext.ite (KeepsNext.next (Keeps.refl _)) ?_
  extract_lets s1 s2 s3 s4 s5 s6 s7
  have hs1 : Keeps s s1 := State.cond_keeps _ _ _ (fun t => State.rebaseBy_keeps _ _)
  clear_value s1
  have hs2 : Keeps s s2 := hs1.trans (State.watchBoundary_keeps _)
  clear_value s2
  have hs3 : Keeps s s3 := by
    subst s3
    split
    · exact hs2
    · exact (hs2.trans (State.recap_keeps _ _ (fun t => State.put_keeps _ _ _ _ _))).trans (Keeps.of_fields rfl rfl rfl rfl rfl)
  clear_value s3
  have hs4 : Keeps s s4 := hs3.trans (State.powerBoundary_keeps _ _ _ _ _)
  clear_value s4
  have hs5 : Keeps s s5 := hs4.trans (State.nextBeat_keeps _)
  clear_value s5
  have hs6 : Keeps s s6 := hs5.trans ⟨rfl, id⟩
  clear_value s6
  have hs7 : Keeps s s7 := (Keeps.ite hs6 ((((((hs6.trans (State.flitErrors_keeps _)).trans (State.forcedRecoveries_keeps _)).trans
    (State.forcedRetrains_keeps _)).trans (State.rfmAlarms_keeps _)).trans (State.lockLosses_keeps _)).trans (State.forcedExpiries_keeps _))).trans
    (State.msixExpire_keeps _)
  clear_value s7
  exact KeepsNext.next ((hs7.trans (State.noteDeps_keeps _)).trans (State.settle_keeps _))

end Sys2Proof.Machine
end

section
/-! What every command keeps: sample intake. -/

namespace Sys2Proof.Machine

theorem writeRow_keeps (o : OpRec) (s : State) (slot : Nat) (x : Obj) (r last : Nat) (bs : List Byte) : KeepsOk s (writeRow o s slot x r last bs) :=
  by
  unfold writeRow
  split
  · exact KeepsOk.error _ _
  · rename_i t e
    have ht : Keeps s t := (slotted_keepsOk _ _ (State.writeObj_keeps _ _ _ _ _)) _ e
    exact KeepsOk.ok (ht.trans (State.setTag_keeps _ _ _))

theorem writeManifest_keeps (o : OpRec) (s : State) (r : Nat) (ws : List Word) : KeepsIn Prod.snd s (writeManifest o s r ws) := by
  unfold writeManifest
  split
  · exact KeepsIn.ok (Keeps.refl _)
  · split
    · exact KeepsIn.error _ _ _
    · rename_i t e
      have ht : Keeps s t := (writeRow_keeps _ _ _ _ _ _ _) _ e
      exact KeepsIn.ok (KeepsSnd.after ht (State.wroteTile_keeps _ _ _ _ _ _))

theorem storeOut_keeps (o : OpRec) (s : State) (x : Obj) (last : Nat) (cov : Nat → Nat → Nat → Bool) (v : Nat → Nat → Elt) (p : Nat) (xs : List (Nat
  × Nat)) : KeepsIn Prod.snd s (storeOut o s x last cov v p xs) := by
  induction xs generalizing o s x last cov v p with
  | nil =>
    rw [storeOut]
    exact KeepsIn.ok (Keeps.refl _)
  | cons x0 xs ih =>
    rw [storeOut]
    split
    · exact KeepsIn.error _ _ _
    · rename_i t e
      have ht : Keeps s t := (storeResult_keeps _ _ _ _ _ _ _ _ _ _ _ _) _ e
      exact KeepsIn.after ht (ih _ _ _ _ _ _ _)

theorem State.keepFrame_keeps (s : State) (o : OpRec) (x : Obj) (plane : Nat) : Keeps s (s.keepFrame o x plane) := by
  unfold State.keepFrame
  exact ⟨rfl, id⟩

theorem writeSlot_keeps (o : OpRec) (s : State) (w : List Word) (x : Obj) (pos k : Nat) (v : Nat → Nat → Elt) : KeepsIn Prod.snd s (writeSlot o s w
  x pos k v) := by
  unfold writeSlot
  extract_lets n total lo hi
  refine KeepsIn.ite (storeOut_keeps _ _ _ _ _ _ _ _) ?_
  refine KeepsIn.seq (storeOut_keeps _ _ _ _ _ _ _ _) ?_
  rintro ⟨o2, t⟩
  dsimp -zeta only
  exact KeepsIn.ok (State.keepFrame_keeps _ _ _ _)

theorem zeroSlot_keeps (o : OpRec) (s : State) (pos claim : Nat) : KeepsIn Prod.snd s (zeroSlot o s pos claim) := by
  unfold zeroSlot
  split
  · exact KeepsIn.ok (Keeps.refl _)
  · exact writeSlot_keeps _ _ _ _ _ _ _

theorem zeroSlots_keeps (o : OpRec) (s : State) (pos : Nat) (xs : List Nat) : KeepsIn Prod.snd s (zeroSlots o s pos xs) := by
  induction xs generalizing o s pos with
  | nil =>
    rw [zeroSlots]
    exact KeepsIn.ok (Keeps.refl _)
  | cons x xs ih =>
    rw [zeroSlots]
    split
    · exact KeepsIn.error _ _ _
    · rename_i t e
      have ht : Keeps s t := (zeroSlot_keeps _ _ _ _) _ e
      exact KeepsIn.after ht (ih _ _ _)

theorem zeroVacant_keeps (o : OpRec) (s : State) (pos n : Nat) : KeepsIn Prod.snd s (zeroVacant o s pos n) := by
  induction n generalizing o s pos with
  | zero =>
    rw [zeroVacant]
    exact KeepsIn.ok (Keeps.refl _)
  | succ n ih =>
    rw [zeroVacant]
    split
    · exact KeepsIn.error _ _ _
    · rename_i t e
      have ht : Keeps s t := (zeroSlots_keeps _ _ _ _) _ e
      exact KeepsIn.after ht (ih _ _ _)

theorem batchEnd_keeps (o : OpRec) (s : State) : KeepsIn Prod.snd s (batchEnd o s) := by
  unfold batchEnd
  extract_lets vacant
  refine KeepsIn.seq (zeroVacant_keeps _ _ _ _) ?_
  rintro ⟨o2, t⟩
  dsimp -zeta only
  extract_lets jp
  have hjp : ∀ x, KeepsIn Prod.snd t (jp x) := by
    intro x
    subst jp
    beta_reduce
    refine KeepsIn.seq (writeManifest_keeps _ _ _ _) ?_
    rintro ⟨o3, u⟩
    dsimp -zeta only
    exact KeepsIn.ok (State.bump_keeps _ _ _ _ _)
  clear_value jp
  split
  · refine KeepsIn.bind (fun a => ?_)
    exact hjp _
  · refine KeepsIn.bind (fun a => ?_)
    exact hjp _

theorem rowEnd_keeps (o : OpRec) (s : State) (sm : Sample) (dropped : Bool) : KeepsIn Prod.snd s (rowEnd o s sm dropped) := by
  unfold rowEnd
  extract_lets k last fin row
  have hlast : ∀ p, KeepsIn Prod.snd p.2 (last p) := fun p => KeepsIn.ok (Keeps.refl _)
  clear_value last
  have hfin : ∀ p, KeepsIn Prod.snd p.2 (fin p) := by
    rintro ⟨o2, s2⟩
    refine KeepsIn.after ((State.sample_keeps s2 none).trans (State.putBit_keeps _ Reg.itkStat 0 false)) ?_
    exact KeepsIn.ite (KeepsIn.seq (batchEnd_keeps _ _) hlast) (hlast _)
  clear_value fin
  have hrow : ∀ n, KeepsIn Prod.snd s (row n) := by
    intro orig
    refine KeepsIn.seq (writeManifest_keeps _ _ _ _) ?_
    rintro ⟨o1, s1⟩
    refine KeepsIn.ite (hfin _) (KeepsIn.seq (zeroSlots_keeps _ _ _ _) ?_)
    rintro ⟨o2, s2⟩
    exact KeepsIn.after (State.bump_keeps _ _ _ _ _) (hfin _)
  clear_value row
  split
  · exact hrow _
  · exact KeepsIn.bind hrow

theorem sampleOn_keeps (o : OpRec) (s : State) (sm : Sample) : KeepsIn Prod.snd s (sampleOn o s sm) := by
  unfold sampleOn
  exact KeepsIn.ite (rowEnd_keeps _ _ _ _) (KeepsIn.ok ((State.sample_keeps _ _).trans (State.putBit_keeps _ _ _ _)))

theorem State.countReject_keeps (s : State) (stream cause orig : Nat) : Keeps s (s.countReject stream cause orig) := by
  unfold State.countReject
  exact ((Keeps.ite (State.bump_keeps _ _ _ _ _) (State.bump_keeps _ _ _ _ _)).trans (State.wr_keeps _ _ _)).trans (State.wr_keeps _ _ _)

theorem rejectSample_keeps (o : OpRec) (s : State) (sm : Sample) (cause stream item : Nat) : KeepsIn Prod.snd s (rejectSample o s sm cause stream
  item) := by
  unfold rejectSample
  extract_lets sm1 sm2 drop o1 jp
  have hdrop : ∀ y, KeepsIn Prod.snd y (drop y) := by
    intro y
    subst drop
    beta_reduce
    exact KeepsIn.after (State.bump_keeps _ _ _ _ _) (rowEnd_keeps _ _ _ _)
  clear_value drop
  have hjp : ∀ x, KeepsIn Prod.snd s (jp x) := by
    intro x
    subst jp
    beta_reduce
    extract_lets s1
    have hs1 : Keeps s s1 := State.countReject_keeps _ _ _ _
    clear_value s1
    split
    · exact KeepsIn.after hs1 (hdrop _)
    · refine KeepsIn.bind (fun a => ?_)
      dsimp -zeta only
      refine KeepsIn.ite (KeepsIn.after hs1 (hdrop _)) ?_
      refine KeepsIn.bind (fun b => ?_)
      refine KeepsIn.seq (KeepsOk.keepsIn (KeepsOk.after hs1 (writeRow_keeps _ _ _ _ _ _ _))) ?_
      intro t
      exact KeepsIn.after (State.bump_keeps _ _ _ _ _) (sampleOn_keeps _ _ _)
  clear_value jp
  split
  · refine KeepsIn.bind (fun a => ?_)
    exact hjp _
  · refine KeepsIn.bind (fun a => ?_)
    exact hjp _

theorem State.intakePut_keeps (s : State) (o : OpRec) (x : Except WorkFail (OpRec × State)) (h : KeepsIn Prod.snd s x) : Keeps s (s.intakePut o x) := by
  unfold State.intakePut
  cases x with
  | error w =>
    dsimp -zeta only
    extract_lets s1
    have hs1 : Keeps s s1 := State.workFails_keeps _ _ _ _
    clear_value s1
    exact Keeps.ite hs1 ((hs1.trans (State.sample_keeps _ _)).trans (State.putBit_keeps _ _ _ _))
  | ok p => exact Keeps.trans (h p rfl) (State.putOp_keeps _ _)

theorem execBatch_keeps (q sn : Nat) (s : State) : KeepsNext s (execBatch q sn s) := by
  unfold execBatch
  split
  · exact KeepsNext.next (Keeps.refl _)
  · extract_lets k
    split
    · refine KeepsNext.ite (KeepsNext.next (Keeps.refl _)) ?_
      split
      · exact KeepsNext.next (Keeps.refl _)
      · extract_lets row
        refine KeepsNext.next ?_
        refine State.intakePut_keeps _ _ _ ?_
        refine KeepsIn.bind (fun a => ?_)
        exact sampleOn_keeps _ _ _
    · exact KeepsNext.next (Keeps.refl _)

theorem itemStep_keeps (o : OpRec) (s : State) (sm : Sample) : KeepsIn Prod.snd s (itemStep o s sm) := by
  unfold itemStep
  split
  · exact KeepsIn.ok (Keeps.refl _)
  · extract_lets row
    refine KeepsIn.ite (rejectSample_keeps _ _ _ _ _ _) ?_
    refine KeepsIn.bind (fun a => ?_)
    refine KeepsIn.bind (fun b => ?_)
    split
    · exact rejectSample_keeps _ _ _ _ _ _
    · split
      · exact rejectSample_keeps _ _ _ _ _ _
      · refine KeepsIn.seq (writeSlot_keeps _ _ _ _ _ _ _) ?_
        rintro ⟨o2, t⟩
        dsimp -zeta only
        exact sampleOn_keeps _ _ _

theorem itkCount_keeps (s : State) (det : Nat) : Keeps s (itkCount s det) := by
  unfold itkCount
  split
  · exact State.bump_keeps _ _ _ _ _
  · exact State.bump_keeps _ _ _ _ _
  · exact State.bump_keeps _ _ _ _ _
  · exact State.bump_keeps _ _ _ _ _

theorem State.cursorBack_keeps (s : State) (o : OpRec) (sm : Sample) : Keeps s (s.cursorBack o sm) := by
  unfold State.cursorBack
  split
  · exact Keeps.refl _
  · refine Keeps.ite (Keeps.refl _) ?_
    split
    · rename_i t e
      have ht : Keeps s t := (writeRow_keeps _ _ _ _ _ _ _) _ e
      exact ht
    · exact State.workFails_keeps _ _ _ _

theorem State.sampleStop_keeps (s : State) : Keeps s s.sampleStop := by
  unfold State.sampleStop
  split
  · exact State.sample_keeps _ _
  · split
    · exact State.sample_keeps _ _
    · exact (((State.cursorBack_keeps _ _ _).trans (State.mapOp_keeps _ _ _ _)).trans (State.sample_keeps _ _)).trans (State.putBit_keeps _ _ _ _)

theorem State.intakeStop_keeps (s : State) : Keeps s s.intakeStop := by
  unfold State.intakeStop
  exact ((((State.sampleStop_keeps _).trans (State.putBit_keeps _ _ _ _)).trans (State.putBit_keeps _ _ _ _)).trans (State.putBit_keeps _ _ _
    _)).trans (State.pieces_keeps _ _)

theorem State.intakeFault_keeps (s : State) (det : Nat) (inj : Bool) : Keeps s (s.intakeFault det inj) := by
  unfold State.intakeFault
  exact Keeps.ite ((itkCount_keeps _ _).trans ((State.countDet_inFaults _ _ _).keeps)) (((itkCount_keeps _ _).trans (State.engineFault_keeps _ _ _ _
    _)).trans (State.intakeStop_keeps _))

theorem State.meetItem_keeps (s : State) (o : OpRec) (sm : Sample) : KeepsFst s (s.meetItem o sm) := by
  unfold State.meetItem
  extract_lets jpeg
  refine State.meet_keeps _ _ (fun a g e t => ?_)
  split_ifs at e
  cases e
  exact State.intakeFault_keeps _ _ _

theorem State.meetPayload_keeps (s : State) (o : OpRec) (sm : Sample) : Keeps s (s.meetPayload o sm) := by
  unfold State.meetPayload
  split
  · exact Keeps.refl _
  · split
    · exact Keeps.refl _
    · exact Keeps.ite (Keeps.refl _) (State.meetReads_keeps _ _ _)

theorem execItem_keeps (q sn : Nat) (s : State) : KeepsNext s (execItem q sn s) := by
  unfold execItem
  split
  · exact KeepsNext.next (Keeps.refl _)
  · refine KeepsNext.ite ?_ (KeepsNext.next (Keeps.refl _))
    split
    · exact KeepsNext.next (Keeps.refl _)
    · split
      · exact KeepsNext.next (Keeps.refl _)
      · split
        · rename_i t u e
          have hu : Keeps s u := KeepsFst.of_eq (State.meetItem_keeps _ _ _) e
          exact KeepsNext.next hu
        · rename_i t u e
          have hu : Keeps s u := KeepsFst.of_eq (State.meetItem_keeps _ _ _) e
          extract_lets s1
          have hs1 : Keeps s s1 := hu.trans (State.meetPayload_keeps _ _ _)
          clear_value s1
          split
          · exact KeepsNext.next hs1
          · exact KeepsNext.next (hs1.trans (State.intakePut_keeps _ _ _ (itemStep_keeps _ _ _)))

end Sys2Proof.Machine
end

section
/-! What every command keeps: planning. -/

namespace Sys2Proof.Machine

theorem State.missOnce_keeps (s : State) (o : OpRec) (k : Nat) : Keeps s (s.missOnce o k) := by
  unfold State.missOnce
  exact Keeps.ite (Keeps.refl _) ((State.bump_keeps _ _ _ _ _).trans (State.mapOp_keeps _ _ _ _))

theorem State.trimPlanes_keeps (s : State) (o : OpRec) : Keeps s (s.trimPlanes o) := by
  unfold State.trimPlanes
  exact ⟨rfl, id⟩

theorem State.bindPlanes_keeps (s : State) (o : OpRec) (x : Part) (v : Nat) : Keeps s (s.bindPlanes o x v) := by
  unfold State.bindPlanes
  split
  · exact Keeps.refl _
  · exact ⟨rfl, id⟩

theorem State.syncSpills_keeps (s : State) (o : OpRec) : Keeps s (s.syncSpills o) := by
  unfold State.syncSpills
  split
  · exact Keeps.refl _
  · exact ⟨rfl, id⟩

theorem State.planOn_keeps (s : State) (o : OpRec) (x : Part) (idx v e : Nat) : Keeps s (s.planOn o x idx v e) := by
  unfold State.planOn
  exact (((((State.mapOp_keeps _ _ _ _).trans (State.cond_keeps _ _ _ (fun t => State.missOnce_keeps _ _ _))).trans (State.cond_keeps _ _ _ (fun t
    => State.missOnce_keeps _ _ _))).trans (State.pieces_keeps _ _)).trans (State.cond_keeps _ _ _ (fun t => State.setTotal_keeps _ _ _ _))).trans
    (State.syncSpills_keeps _ _)

theorem execPiecePlan_keeps (q sn : Nat) (split : List Part) (idx unit : Nat) (s : State) : KeepsNext s (execPiecePlan q sn split idx unit s) := by
  unfold execPiecePlan
  split
  · exact KeepsNext.next (Keeps.refl _)
  · extract_lets fresh o t
    have ht : Keeps s t := State.mapOp_keeps _ _ _ _
    clear_value t
    split
    · exact KeepsNext.next (Keeps.refl _)
    · refine KeepsNext.ite (KeepsNext.next (Keeps.refl _)) ?_
      refine KeepsNext.ite (KeepsNext.next (State.failOp_keeps _ _ _ _ _)) ?_
      split
      · exact KeepsNext.next (Keeps.refl _)
      · exact KeepsNext.ite (KeepsNext.next (Keeps.refl _)) (KeepsNext.next (((State.bindPlanes_keeps _ _ _ _).trans (State.trimPlanes_keeps _
          _)).trans (State.planOn_keeps _ _ _ _ _ _)))

theorem State.mapPiece_keeps (s : State) (q sn idx : Nat) (f : PieceRec → PieceRec) : Keeps s (s.mapPiece q sn idx f) := by
  unfold State.mapPiece
  exact State.pieces_keeps _ _

theorem execPieceCommit_keeps (q sn idx : Nat) (s : State) : KeepsNext s (execPieceCommit q sn idx s) := by
  unfold execPieceCommit
  split
  · refine KeepsNext.ite ?_ (KeepsNext.next (Keeps.refl _))
    extract_lets s1
    have hs1 : Keeps s s1 := Keeps.ite (Keeps.refl _) ⟨rfl, id⟩
    clear_value s1
    exact KeepsNext.next (hs1.trans (State.mapPiece_keeps _ _ _ _ _))
  · exact KeepsNext.next (Keeps.refl _)

theorem execStaging_keeps (q sn idx role : Nat) (path : List Nat) (s : State) : KeepsNext s (execStaging q sn idx role path s) := by
  unfold execStaging
  split
  · split
    · exact KeepsNext.ite (KeepsNext.next ((Keeps.foldl _ (fun x a => State.meetStrand_keeps _ _) _ _).trans (State.mapPiece_keeps _ _ _ _ _)))
        (KeepsNext.next (Keeps.refl _))
    · exact KeepsNext.next (Keeps.refl _)
  · exact KeepsNext.next (Keeps.refl _)

theorem State.readFirst_keeps (s : State) (o : OpRec) (p : PieceRec) : KeepsFst s (s.readFirst o p) := by
  unfold State.readFirst
  split
  · refine KeepsFst.ite (KeepsFst.mk (Keeps.refl _)) ?_
    split
    · rename_i t e
      have ht : Keeps s t := (readRows_keeps _ _ _) _ e
      exact KeepsFst.mk (ht.trans (State.putOp_keeps _ _))
    · exact KeepsFst.mk (State.workFails_keeps _ _ _ _)
  · exact KeepsFst.mk (Keeps.refl _)
  · exact KeepsFst.ite (KeepsFst.mk (Keeps.refl _)) (State.attBegin_keeps _ _ _ _ _ _)
  · split
    · exact KeepsFst.mk (State.putOp_keeps _ _)
    · exact KeepsFst.mk (State.workFails_keeps _ _ _ _)
  · exact KeepsFst.mk (Keeps.refl _)

theorem State.pieceReads_keeps (s : State) (o : OpRec) (p : PieceRec) : Keeps s (s.pieceReads o p) := by
  unfold State.pieceReads
  exact State.meetReads_keeps _ _ _

theorem State.runPiece_keeps (s : State) (o : OpRec) (p : PieceRec) (vxe : Nat) : Keeps s (s.runPiece o p vxe) := by
  unfold State.runPiece
  exact (((((State.mapOp_keeps _ _ _ _).trans (State.mapPiece_keeps _ _ _ _ _)).trans (State.beginOp_keeps _ _ _)).trans (State.cond_keeps _ _ _
    (fun t => State.meetStrand_keeps _ _))).trans (State.cond_keeps _ _ _ (fun t => State.putBit_keeps _ _ _ _))).trans (State.cond_keeps _ _ _ (fun
    t => State.putBit_keeps _ _ _ _))

theorem execPieceStart_keeps (q sn idx : Nat) (errs : List (Nat × Nat)) (vxe : Nat) (s : State) : KeepsNext s (execPieceStart q sn idx errs vxe s)
  := by
  unfold execPieceStart
  split
  · refine KeepsNext.ite (KeepsNext.next (Keeps.refl _)) ?_
    split
    · exact KeepsNext.next (Keeps.refl _)
    · rename_i t e
      have ht : Keeps s t := (KeepsSome.ite (State.seqJoin_keepsSome _ _) (KeepsSome.some (Keeps.refl _))) _ e
      extract_lets s1
      have hs1 : Keeps s s1 := (ht.trans (State.unitErrors_keeps _ _ _)).trans (State.pieceReads_keeps _ _ _)
      clear_value s1
      refine KeepsNext.ite (KeepsNext.next hs1) ?_
      split
      · rename_i u v e2
        have hv : Keeps s v := KeepsFst.of_eq (KeepsFst.after hs1 (State.readFirst_keeps _ _ _)) e2
        exact KeepsNext.next hv
      · rename_i u v e2
        have hv : Keeps s v := KeepsFst.of_eq (KeepsFst.after hs1 (State.readFirst_keeps _ _ _)) e2
        exact KeepsNext.next (hv.trans (State.runPiece_keeps _ _ _ _))
  · exact KeepsNext.next (Keeps.refl _)

theorem State.countSlip_keeps (s : State) (u cause n : Nat) : Keeps s (s.countSlip u cause n) := by
  unfold State.countSlip
  split
  · exact State.bump_keeps _ _ _ _ _
  · exact State.bump_keeps _ _ _ _ _
  · exact State.bump_keeps _ _ _ _ _
  · exact State.bump_keeps _ _ _ _ _

theorem State.slip_keeps (s : State) (p : PieceRec) (cause late : Nat) : Keeps s (s.slip p cause late) := by
  unfold State.slip
  exact Keeps.ite (((State.cond_keeps _ _ _ (fun t => State.countSlip_keeps _ _ _ _)).trans (State.setOffset_keeps _ _ _)).trans (Keeps.of_fields
    rfl rfl rfl rfl rfl)) ((State.cond_keeps _ _ _ (fun t => State.countSlip_keeps _ _ _ _)).trans (State.setOffset_keeps _ _ _))

theorem State.endWay_keeps (s : State) (o : OpRec) (x : Part) : Keeps s (s.endWay o x) := by
  unfold State.endWay
  split
  · exact Keeps.refl _
  · split
    · exact ((State.nodes_keeps _ _).trans (State.cond_keeps _ _ _ (fun t => State.bump_keeps _ _ _ _ _))).trans (State.combine_keeps _ _ _ _ _)
    · exact Keeps.refl _

theorem State.endNodeSend_keeps (s : State) (o : OpRec) (p : PieceRec) : Keeps s (s.endNodeSend o p) := by
  unfold State.endNodeSend
  split
  · exact Keeps.refl _
  · split
    · exact Keeps.refl _
    · extract_lets blocks s1 s2
      have hs1 : Keeps s s1 := State.sendOn_keeps _ _ _ _
      clear_value s1
      have hs2 : Keeps s s2 := hs1.trans (State.mapOp_keeps _ _ _ _)
      clear_value s2
      exact Keeps.ite hs1 (hs2.trans ⟨rfl, id⟩)

theorem State.endPart_keeps (s : State) (o : OpRec) (p : PieceRec) : Keeps s (s.endPart o p) := by
  unfold State.endPart
  exact Keeps.ite (Keeps.refl _) (Keeps.ite (State.endWay_keeps _ _ _) (Keeps.ite (State.endNodeSend_keeps _ _ _) (Keeps.refl _)))

theorem execPieceEnd_keeps (q sn idx cyc : Nat) (waitTier waitData : Bool) (s : State) : KeepsNext s (execPieceEnd q sn idx cyc waitTier waitData s)
  := by
  unfold execPieceEnd
  split
  · refine KeepsNext.ite (KeepsNext.next (Keeps.refl _)) ?_
    extract_lets late cause rose s1 s2 s3 s4 add s5 s6 idle s7
    have hs1 : Keeps s s1 := State.endPart_keeps _ _ _
    clear_value s1
    have hs2 : Keeps s s2 := Keeps.ite hs1 (hs1.trans (State.slip_keeps _ _ _ _))
    clear_value s2
    have hs3 : Keeps s s3 := hs2.trans (State.mapOp_keeps _ _ _ _)
    clear_value s3
    have hs4 : Keeps s s4 := by
      subst s4
      split
      · exact hs3.trans (State.bump_keeps _ _ _ _ _)
      · exact hs3
    clear_value s4
    have hs5 : Keeps s s5 := hs4.trans (State.mapPiece_keeps _ _ _ _ _)
    clear_value s5
    have hs6 : Keeps s s6 := hs5.trans (State.addHist_keeps _ _ _ _)
    clear_value s6
    have hs7 : Keeps s s7 := hs6.trans (State.cond_keeps _ _ _ (fun t => State.putBit_keeps _ _ _ _))
    clear_value s7
    exact KeepsNext.next (hs7.trans (State.settle_keeps _))
  · exact KeepsNext.next (Keeps.refl _)

end Sys2Proof.Machine
end

section
/-! What every command keeps: faults. -/

namespace Sys2Proof.Machine

theorem State.ownRule_keeps (s : State) (u : Nat) : Keeps s (s.ownRule u) := by
  unfold State.ownRule
  exact Keeps.ite (State.engineStop_keeps _ _) (Keeps.ite (State.pairStop_keeps _ _) (Keeps.ite (State.engineStop_keeps _ _) (State.intakeStop_keeps
    _)))

theorem execColumnError_keeps (mxe quad col : Nat) (s : State) : KeepsNext s (execColumnError mxe quad col s) := by
  unfold execColumnError
  refine KeepsNext.ite ?_ (KeepsNext.next (Keeps.refl _))
  dsimp -zeta only
  exact KeepsNext.next ((State.takeInj_inFaults _ _ _ _).keeps.trans (State.columnError_keeps _ _ _ _ _))

theorem execPassError_keeps (mxe quad det : Nat) (s : State) : KeepsNext s (execPassError mxe quad det s) := by
  unfold execPassError
  refine KeepsNext.ite ?_ (KeepsNext.next (Keeps.refl _))
  dsimp -zeta only
  exact KeepsNext.next ((State.takeInj_inFaults _ _ _ _).keeps.trans (State.passError_keeps _ _ _ _ _))

theorem execAccumulatorEcc_keeps (mxe quad : Nat) (two : Bool) (s : State) : KeepsNext s (execAccumulatorEcc mxe quad two s) := by
  unfold execAccumulatorEcc
  refine KeepsNext.ite ?_ (KeepsNext.next (Keeps.refl _))
  dsimp -zeta only
  exact KeepsNext.next ((State.takeInj_inFaults _ _ _ _).keeps.trans (State.slotError_keeps _ _ _ _ _))

theorem execNodeTileLost_keeps (q sn unit : Nat) (s : State) : KeepsNext s (execNodeTileLost q sn unit s) := by
  unfold execNodeTileLost
  split
  · exact KeepsNext.next (Keeps.refl _)
  · exact KeepsNext.ite (KeepsNext.next ((((State.event_inFaults _ _ _ _).keeps.trans (State.mapOp_keeps _ _ _ _)).trans (State.nodes_keeps _
      _)).trans (State.rehomeOp_keeps _ _ _ _))) (KeepsNext.next (Keeps.refl _))

theorem execPairError_keeps (vxe det : Nat) (s : State) : KeepsNext s (execPairError vxe det s) := by
  unfold execPairError
  refine KeepsNext.ite ?_ (KeepsNext.next (Keeps.refl _))
  dsimp -zeta only
  exact KeepsNext.next ((State.takeInj_inFaults _ _ _ _).keeps.trans (State.pairError_keeps _ _ _ _))

theorem execAsqError_keeps (die det : Nat) (s : State) : KeepsNext s (execAsqError die det s) := by
  unfold execAsqError
  refine KeepsNext.ite ?_ (KeepsNext.next (Keeps.refl _))
  dsimp -zeta only
  exact KeepsNext.next ((State.takeInj_inFaults _ _ _ _).keeps.trans (State.asqError_keeps _ _ _ _))

theorem execStemError_keeps (die det : Nat) (s : State) : KeepsNext s (execStemError die det s) := by
  unfold execStemError
  refine KeepsNext.ite ?_ (KeepsNext.next (Keeps.refl _))
  dsimp -zeta only
  exact KeepsNext.next ((State.takeInj_inFaults _ _ _ _).keeps.trans (State.stemError_keeps _ _ _ _))

theorem execUuError_keeps (n det : Nat) (s : State) : KeepsNext s (execUuError n det s) := by
  unfold execUuError
  refine KeepsNext.ite ?_ (KeepsNext.next (Keeps.refl _))
  dsimp -zeta only
  exact KeepsNext.next ((State.takeInj_inFaults _ _ _ _).keeps.trans (State.uuError_keeps _ _ _ _))

theorem execIntakeError_keeps (det : Nat) (s : State) : KeepsNext s (execIntakeError det s) := by
  unfold execIntakeError
  refine KeepsNext.ite ?_ (KeepsNext.next (Keeps.refl _))
  dsimp -zeta only
  exact KeepsNext.next ((State.takeInj_inFaults _ _ _ _).keeps.trans (State.intakeFault_keeps _ _ _))

theorem execUnitWatchdog_keeps (unit : Nat) (s : State) : KeepsNext s (execUnitWatchdog unit s) := by
  unfold execUnitWatchdog
  refine KeepsNext.ite ?_ (KeepsNext.next (Keeps.refl _))
  dsimp -zeta only
  exact KeepsNext.next (((State.takeInj_inFaults _ _ _ _).keeps.trans (State.engineFault_keeps _ _ _ _ _)).trans (State.ownRule_keeps _ _))

theorem execCoreWatchdog_keeps (core : Nat) (s : State) : KeepsNext s (execCoreWatchdog core s) := by
  unfold execCoreWatchdog
  refine KeepsNext.ite ?_ (KeepsNext.next (Keeps.refl _))
  dsimp -zeta only
  exact KeepsNext.next ((State.takeInj_inFaults _ _ _ _).keeps.trans (State.coreExpires_keeps _ _ _))

theorem execTileStoreEcc_keeps (addr : Nat) (two : Bool) (case q sn slot : Nat) (s : State) : KeepsNext s (execTileStoreEcc addr two case q sn slot
  s) := by
  unfold execTileStoreEcc
  split
  · refine KeepsNext.ite ?_ (KeepsNext.next (Keeps.refl _))
    dsimp -zeta only
    exact KeepsNext.next ((State.takeInj_inFaults _ _ _ _).keeps.trans (State.bankError_keeps _ _ _ _ _ _ _))
  · exact KeepsNext.next (Keeps.refl _)

theorem State.partnerOps_keeps (s : State) (addr port : Nat) (xs : List OpRec) : Keeps s (s.partnerOps addr port xs) := by
  induction xs generalizing s with
  | nil =>
    rw [State.partnerOps]
    exact Keeps.refl _
  | cons x xs ih =>
    rw [State.partnerOps]
    exact (Keeps.ite (State.failOp_keeps _ _ _ _ _) (Keeps.refl _)).trans (ih _)

theorem execPartnerLost_keeps (addr port : Nat) (s : State) : KeepsNext s (execPartnerLost addr port s) := by
  unfold execPartnerLost
  exact KeepsNext.ite (KeepsNext.next ((State.detect_inFaults _ _).keeps.trans (State.partnerOps_keeps _ _ _ _))) (KeepsNext.next (Keeps.refl _))

theorem execFltQhead_keeps (ag : Agent) (h : BitVec 32) (s : State) : KeepsNext s (execFltQhead ag h s) := by
  unfold execFltQhead
  exact KeepsNext.ite (KeepsNext.ite (KeepsNext.next ((State.put_keeps _ _ _ _ _).trans (State.putBit_keeps _ _ _ _))) (KeepsNext.next
    (State.putBit_keeps _ _ _ _))) (KeepsNext.next (Keeps.refl _))

theorem execOvfClear_keeps (ag : Agent) (s : State) : KeepsNext s (execOvfClear ag s) := by
  unfold execOvfClear
  exact KeepsNext.ite (KeepsNext.next (((State.putBit_keeps _ _ _ _).trans (State.put_keeps _ _ _ _ _)).trans (State.put_keeps _ _ _ _ _)))
    (KeepsNext.next (Keeps.refl _))

theorem execWindowClose_keeps (dom inst : Nat) (s : State) : KeepsNext s (execWindowClose dom inst s) := by
  unfold execWindowClose
  split
  · exact KeepsNext.ite (KeepsNext.next ((State.setWindows_inFaults _ _).keeps)) (KeepsNext.next (Keeps.refl _))
  · exact KeepsNext.next (Keeps.refl _)

theorem execMxeColmap_keeps (ag : Agent) (n : Nat) (v : Word) (s : State) : KeepsNext s (execMxeColmap ag n v s) := by
  unfold execMxeColmap
  exact KeepsNext.ite (KeepsNext.ite (KeepsNext.next (State.putBit_keeps _ _ _ _)) (KeepsNext.next (State.wr_keeps _ _ _))) (KeepsNext.next
    (Keeps.refl _))

theorem State.armRig_keeps (s : State) (ag : Agent) (ok : Bool) (reg kind target : Nat) : Keeps s (s.armRig ag ok reg kind target) := by
  unfold State.armRig
  exact Keeps.ite (State.arm_keeps _ _ _ _) (Keeps.refl _)

theorem execMxeInjColumnResidue_keeps (ag : Agent) (n quad col : Nat) (s : State) : KeepsNext s (execMxeInjColumnResidue ag n quad col s) := by
  unfold execMxeInjColumnResidue
  exact KeepsNext.next (State.armRig_keeps _ _ _ _ _ _)

theorem execMxeInjWeightRegisterParity_keeps (ag : Agent) (n quad : Nat) (s : State) : KeepsNext s (execMxeInjWeightRegisterParity ag n quad s) := by
  unfold execMxeInjWeightRegisterParity
  exact KeepsNext.next (State.armRig_keeps _ _ _ _ _ _)

theorem execMxeInjAStreamParity_keeps (ag : Agent) (n quad : Nat) (s : State) : KeepsNext s (execMxeInjAStreamParity ag n quad s) := by
  unfold execMxeInjAStreamParity
  exact KeepsNext.next (State.armRig_keeps _ _ _ _ _ _)

theorem execMxeInjTurnLoaderParity_keeps (ag : Agent) (n quad : Nat) (s : State) : KeepsNext s (execMxeInjTurnLoaderParity ag n quad s) := by
  unfold execMxeInjTurnLoaderParity
  exact KeepsNext.next (State.armRig_keeps _ _ _ _ _ _)

theorem execMxeAccinjOneBit_keeps (ag : Agent) (n quad : Nat) (s : State) : KeepsNext s (execMxeAccinjOneBit ag n quad s) := by
  unfold execMxeAccinjOneBit
  exact KeepsNext.next (State.armRig_keeps _ _ _ _ _ _)

theorem execMxeAccinjTwoBits_keeps (ag : Agent) (n quad : Nat) (s : State) : KeepsNext s (execMxeAccinjTwoBits ag n quad s) := by
  unfold execMxeAccinjTwoBits
  exact KeepsNext.next (State.armRig_keeps _ _ _ _ _ _)

theorem execVxeInjTqEccOneBit_keeps (ag : Agent) (n : Nat) (s : State) : KeepsNext s (execVxeInjTqEccOneBit ag n s) := by
  unfold execVxeInjTqEccOneBit
  exact KeepsNext.next (State.armRig_keeps _ _ _ _ _ _)

theorem execVxeInjTqEccTwoBits_keeps (ag : Agent) (n : Nat) (s : State) : KeepsNext s (execVxeInjTqEccTwoBits ag n s) := by
  unfold execVxeInjTqEccTwoBits
  exact KeepsNext.next (State.armRig_keeps _ _ _ _ _ _)

theorem execVxeInjLaneParity_keeps (ag : Agent) (n : Nat) (s : State) : KeepsNext s (execVxeInjLaneParity ag n s) := by
  unfold execVxeInjLaneParity
  exact KeepsNext.next (State.armRig_keeps _ _ _ _ _ _)

theorem execVxeInjPermuteParity_keeps (ag : Agent) (n : Nat) (s : State) : KeepsNext s (execVxeInjPermuteParity ag n s) := by
  unfold execVxeInjPermuteParity
  exact KeepsNext.next (State.armRig_keeps _ _ _ _ _ _)

theorem execAsqInjDirEccOneBit_keeps (ag : Agent) (n : Nat) (s : State) : KeepsNext s (execAsqInjDirEccOneBit ag n s) := by
  unfold execAsqInjDirEccOneBit
  exact KeepsNext.next (State.armRig_keeps _ _ _ _ _ _)

theorem execAsqInjDirEccTwoBits_keeps (ag : Agent) (n : Nat) (s : State) : KeepsNext s (execAsqInjDirEccTwoBits ag n s) := by
  unfold execAsqInjDirEccTwoBits
  exact KeepsNext.next (State.armRig_keeps _ _ _ _ _ _)

theorem execAsqInjExponentParity_keeps (ag : Agent) (n : Nat) (s : State) : KeepsNext s (execAsqInjExponentParity ag n s) := by
  unfold execAsqInjExponentParity
  exact KeepsNext.next (State.armRig_keeps _ _ _ _ _ _)

theorem execAsqInjGatherParity_keeps (ag : Agent) (n : Nat) (s : State) : KeepsNext s (execAsqInjGatherParity ag n s) := by
  unfold execAsqInjGatherParity
  exact KeepsNext.next (State.armRig_keeps _ _ _ _ _ _)

theorem execStmInjLaneResidue_keeps (ag : Agent) (n : Nat) (s : State) : KeepsNext s (execStmInjLaneResidue ag n s) := by
  unfold execStmInjLaneResidue
  exact KeepsNext.next (State.armRig_keeps _ _ _ _ _ _)

theorem execStmInjTermParity_keeps (ag : Agent) (n : Nat) (s : State) : KeepsNext s (execStmInjTermParity ag n s) := by
  unfold execStmInjTermParity
  exact KeepsNext.next (State.armRig_keeps _ _ _ _ _ _)

theorem execStmInjGatherParity_keeps (ag : Agent) (n : Nat) (s : State) : KeepsNext s (execStmInjGatherParity ag n s) := by
  unfold execStmInjGatherParity
  exact KeepsNext.next (State.armRig_keeps _ _ _ _ _ _)

theorem execUuInjDatapathResidue_keeps (ag : Agent) (n : Nat) (s : State) : KeepsNext s (execUuInjDatapathResidue ag n s) := by
  unfold execUuInjDatapathResidue
  exact KeepsNext.next (State.armRig_keeps _ _ _ _ _ _)

theorem execUuInjRecordParity_keeps (ag : Agent) (n : Nat) (s : State) : KeepsNext s (execUuInjRecordParity ag n s) := by
  unfold execUuInjRecordParity
  exact KeepsNext.next (State.armRig_keeps _ _ _ _ _ _)

theorem execUuInjEncoderParity_keeps (ag : Agent) (n : Nat) (s : State) : KeepsNext s (execUuInjEncoderParity ag n s) := by
  unfold execUuInjEncoderParity
  exact KeepsNext.next (State.armRig_keeps _ _ _ _ _ _)

theorem execItkInjHuffmanParity_keeps (ag : Agent) (s : State) : KeepsNext s (execItkInjHuffmanParity ag s) := by
  unfold execItkInjHuffmanParity
  exact KeepsNext.next (State.armRig_keeps _ _ _ _ _ _)

theorem execItkInjTransformResidue_keeps (ag : Agent) (s : State) : KeepsNext s (execItkInjTransformResidue ag s) := by
  unfold execItkInjTransformResidue
  exact KeepsNext.next (State.armRig_keeps _ _ _ _ _ _)

theorem execItkInjEccOneBit_keeps (ag : Agent) (s : State) : KeepsNext s (execItkInjEccOneBit ag s) := by
  unfold execItkInjEccOneBit
  exact KeepsNext.next (State.armRig_keeps _ _ _ _ _ _)

theorem execItkInjEccTwoBits_keeps (ag : Agent) (s : State) : KeepsNext s (execItkInjEccTwoBits ag s) := by
  unfold execItkInjEccTwoBits
  exact KeepsNext.next (State.armRig_keeps _ _ _ _ _ _)

theorem execFltInjUnitWatchdog_keeps (ag : Agent) (target : Nat) (s : State) : KeepsNext s (execFltInjUnitWatchdog ag target s) := by
  unfold execFltInjUnitWatchdog
  exact KeepsNext.next (State.armRig_keeps _ _ _ _ _ _)

theorem execFltInjTileStoreOneBit_keeps (ag : Agent) (target : Nat) (s : State) : KeepsNext s (execFltInjTileStoreOneBit ag target s) := by
  unfold execFltInjTileStoreOneBit
  exact KeepsNext.next (State.armRig_keeps _ _ _ _ _ _)

theorem execFltInjTileStoreTwoBits_keeps (ag : Agent) (target : Nat) (s : State) : KeepsNext s (execFltInjTileStoreTwoBits ag target s) := by
  unfold execFltInjTileStoreTwoBits
  exact KeepsNext.next (State.armRig_keeps _ _ _ _ _ _)

theorem execFltInjTcrc_keeps (ag : Agent) (target : Nat) (s : State) : KeepsNext s (execFltInjTcrc ag target s) := by
  unfold execFltInjTcrc
  exact KeepsNext.next (State.armRig_keeps _ _ _ _ _ _)

theorem execFltInjRfmAlarm_keeps (ag : Agent) (target : Nat) (s : State) : KeepsNext s (execFltInjRfmAlarm ag target s) := by
  unfold execFltInjRfmAlarm
  exact KeepsNext.next (State.armRig_keeps _ _ _ _ _ _)

theorem execFltInjLaneLockLoss_keeps (ag : Agent) (target : Nat) (s : State) : KeepsNext s (execFltInjLaneLockLoss ag target s) := by
  unfold execFltInjLaneLockLoss
  exact KeepsNext.next (State.armRig_keeps _ _ _ _ _ _)

theorem execFltInjHostUr_keeps (ag : Agent) (target : Nat) (s : State) : KeepsNext s (execFltInjHostUr ag target s) := by
  unfold execFltInjHostUr
  exact KeepsNext.next (State.armRig_keeps _ _ _ _ _ _)

theorem execFltInjOffset_keeps (ag : Agent) (target : Nat) (s : State) : KeepsNext s (execFltInjOffset ag target s) := by
  unfold execFltInjOffset
  exact KeepsNext.next (State.armRig_keeps _ _ _ _ _ _)

theorem execFltInjCoreWatchdog_keeps (ag : Agent) (target : Nat) (s : State) : KeepsNext s (execFltInjCoreWatchdog ag target s) := by
  unfold execFltInjCoreWatchdog
  exact KeepsNext.next (State.armRig_keeps _ _ _ _ _ _)

theorem execFltInjQueueTwoBits_keeps (ag : Agent) (target : Nat) (s : State) : KeepsNext s (execFltInjQueueTwoBits ag target s) := by
  unfold execFltInjQueueTwoBits
  exact KeepsNext.next (State.armRig_keeps _ _ _ _ _ _)

theorem execFltInjFuse_keeps (ag : Agent) (target : Nat) (s : State) : KeepsNext s (execFltInjFuse ag target s) := by
  unfold execFltInjFuse
  exact KeepsNext.next (State.armRig_keeps _ _ _ _ _ _)

theorem execInjectionExpiry_keeps (s : State) : KeepsNext s (execInjectionExpiry s) := by
  unfold execInjectionExpiry
  exact KeepsNext.next ⟨rfl, id⟩

end Sys2Proof.Machine
end

section
/-! What every command keeps: the mailbox. -/

namespace Sys2Proof.Machine

theorem State.mailCmd_keeps (s : State) (ag : Agent) (m : Nat) (seq : BitVec 16) (f : State → State × Nat × Nat) (h : ∀ t, KeepsFst t (f t)) :
    Keeps s (s.mailCmd ag m seq f) := by
  unfold State.mailCmd
  refine Keeps.ite (Keeps.refl _) (Keeps.ite (State.putBit_keeps _ _ _ _) ?_)
  have hf := (State.putBit_keeps s (Reg.mbxStat m) 0 true).trans (h _)
  generalize f (s.putBit (Reg.mbxStat m) 0 true) = p at hf
  obtain ⟨t, r, v⟩ := p
  exact Keeps.trans hf (State.mailbox_keeps _ _)

theorem execGetInfo_keeps (ag : Agent) (m : Nat) (seq : BitVec 16) (s : State) : KeepsNext s (execGetInfo ag m seq s) := by
  unfold execGetInfo
  exact KeepsNext.next (State.mailCmd_keeps _ _ _ _ _ (fun t => KeepsFst.mk (Keeps.refl _)))

theorem execSetPipeline_keeps (ag : Agent) (m : Nat) (seq : BitVec 16) (s : State) : KeepsNext s (execSetPipeline ag m seq s) := by
  unfold execSetPipeline
  exact KeepsNext.next (State.mailCmd_keeps _ _ _ _ _ (fun t => KeepsFst.ite (KeepsFst.mk (Keeps.refl _)) (KeepsFst.ite (KeepsFst.mk (Keeps.refl _))
    (KeepsFst.ite (KeepsFst.mk (Keeps.refl _)) (KeepsFst.mk ⟨rfl, id⟩)))))

theorem execGetPipeline_keeps (ag : Agent) (m : Nat) (seq : BitVec 16) (s : State) : KeepsNext s (execGetPipeline ag m seq s) := by
  unfold execGetPipeline
  exact KeepsNext.next (State.mailCmd_keeps _ _ _ _ _ (fun t => KeepsFst.ite (KeepsFst.mk (Keeps.refl _)) (KeepsFst.mk ((State.wr_keeps _ _ _).trans
    (State.wr_keeps _ _ _)))))

theorem execSetSliplim_keeps (ag : Agent) (m : Nat) (seq : BitVec 16) (s : State) : KeepsNext s (execSetSliplim ag m seq s) := by
  unfold execSetSliplim
  exact KeepsNext.next (State.mailCmd_keeps _ _ _ _ _ (fun t => KeepsFst.ite (KeepsFst.mk ((State.put_keeps _ _ _ _ _).trans (Keeps.of_fields rfl
    rfl rfl rfl rfl))) (KeepsFst.mk (Keeps.refl _))))

theorem execSetMargin_keeps (ag : Agent) (m : Nat) (seq : BitVec 16) (s : State) : KeepsNext s (execSetMargin ag m seq s) := by
  unfold execSetMargin
  exact KeepsNext.next (State.mailCmd_keeps _ _ _ _ _ (fun t => KeepsFst.ite (KeepsFst.mk ⟨rfl, id⟩) (KeepsFst.mk (Keeps.refl _))))

theorem execReadPlan_keeps (ag : Agent) (m : Nat) (seq : BitVec 16) (s : State) : KeepsNext s (execReadPlan ag m seq s) := by
  unfold execReadPlan
  refine KeepsNext.next ?_
  refine State.mailCmd_keeps _ _ _ _ _ (fun t => ?_)
  extract_lets ctx a n mine ps
  refine KeepsFst.ite (KeepsFst.mk (Keeps.refl _)) ?_
  refine KeepsFst.ite (KeepsFst.mk (Keeps.refl _)) ?_
  split
  · rename_i u e
    have hu : Keeps t u := (State.writeMem_keeps _ _ _ _) _ e
    exact KeepsFst.mk hu
  · exact KeepsFst.mk (State.failRecord_keeps _ _ _ _)

theorem execClearCounters_keeps (ag : Agent) (m : Nat) (seq : BitVec 16) (s : State) : KeepsNext s (execClearCounters ag m seq s) := by
  unfold execClearCounters
  exact KeepsNext.next (State.mailCmd_keeps _ _ _ _ _ (fun t => KeepsFst.mk ((State.each_keeps _ _ _ (fun x k => (State.wr_keeps _ _ _).trans
    (State.put_keeps _ _ _ _ _))).trans (State.wr_keeps _ _ _))))

theorem execRebase_keeps (ag : Agent) (m : Nat) (seq : BitVec 16) (s : State) : KeepsNext s (execRebase ag m seq s) := by
  unfold execRebase
  exact KeepsNext.next (State.mailCmd_keeps _ _ _ _ _ (fun t => KeepsFst.mk (State.rebaseBy_keeps _ _)))

theorem State.badMail_keeps (s : State) (ag : Agent) (m : Nat) (seq : BitVec 16) : Keeps s (s.badMail ag m seq) := by
  unfold State.badMail
  exact State.mailCmd_keeps _ _ _ _ _ (fun t => KeepsFst.mk (Keeps.refl _))

theorem execMailboxResponse_keeps (m : Nat) (s : State) : KeepsNext s (execMailboxResponse m s) := by
  unfold execMailboxResponse
  split
  · exact KeepsNext.next (Keeps.refl _)
  · refine KeepsNext.ite (KeepsNext.next (Keeps.refl _)) ?_
    extract_lets s1 s2
    have hs1 : Keeps s s1 := State.mailbox_keeps _ _
    clear_value s1
    have hs2 : Keeps s s2 := (hs1.trans (State.wr_keeps _ _ _)).trans (State.putBit_keeps _ _ _ _)
    clear_value s2
    exact KeepsNext.ite (KeepsNext.next hs2) (KeepsNext.ite (KeepsNext.next (hs2.trans ((State.signal_inFaults _ _).keeps))) (KeepsNext.ite
      (KeepsNext.next (hs2.trans (State.coreIrq_keeps _ _))) (KeepsNext.next hs2)))

end Sys2Proof.Machine
end

section
/-! What every command keeps: repair. -/

namespace Sys2Proof.Machine

theorem State.countPass_keeps (s : State) : Keeps s s.countPass := by
  unfold State.countPass
  exact (State.bump_keeps _ _ _ _ _).trans (State.bump_keeps _ _ _ _ _)

theorem State.mxeBack_keeps (s : State) (n : Nat) : Keeps s (s.mxeBack n) := by
  unfold State.mxeBack
  exact Keeps.ite ((State.putBit_keeps _ _ _ _).trans (State.putBit_keeps _ _ _ _)) (State.putBit_keeps _ _ _ _)

theorem State.passed_keeps (s : State) (u : Nat) : Keeps s (s.passed u) := by
  unfold State.passed
  exact Keeps.ite (State.mxeBack_keeps _ _) (Keeps.ite ((State.unitBack_keeps _ _).trans (State.putBit_keeps _ _ _ _)) (State.unitBack_keeps _ _))

theorem State.intakeDead_keeps (s : State) (xs : List OpRec) : Keeps s (s.intakeDead xs) := by
  induction xs generalizing s with
  | nil =>
    rw [State.intakeDead]
    exact Keeps.refl _
  | cons x xs ih =>
    rw [State.intakeDead]
    exact (Keeps.ite (State.failOp_keeps _ _ _ _ _) (Keeps.refl _)).trans (ih _)

theorem State.unitFailed_keeps (s : State) (u quad : Nat) : Keeps s (s.unitFailed u quad) := by
  unfold State.unitFailed
  extract_lets s1 s2 s3
  have hs1 : Keeps s s1 := Keeps.ite (State.ownRule_keeps _ _) (Keeps.refl _)
  clear_value s1
  have hs2 : Keeps s s2 := Keeps.ite (hs1.trans (State.putBit_keeps _ _ _ _)) (hs1.trans (State.putBit_keeps _ _ _ _))
  clear_value s2
  have hs3 : Keeps s s3 := (hs2.trans (State.putBit_keeps _ _ _ _)).trans (State.putBit_keeps _ _ _ _)
  clear_value s3
  exact Keeps.ite (hs3.trans (State.intakeDead_keeps _ _)) hs3

theorem State.endRemap_keeps (s : State) (n quad : Nat) : Keeps s (s.endRemap n quad) := by
  unfold State.endRemap
  refine Keeps.trans ?_ (State.bump_keeps _ _ _ _ _)
  exact ⟨rfl, id⟩

theorem State.mapNext_keeps (s : State) (n quad col : Nat) : KeepsSome s (s.mapNext n quad col) := by
  unfold State.mapNext
  extract_lets logical s1
  have hs1 : Keeps s s1 := by
    subst s1
    refine Keeps.ite (Keeps.refl _) ?_
    refine Keeps.trans ?_ (State.putBit_keeps _ _ _ _)
    exact ⟨rfl, id⟩
  clear_value s1
  split
  · exact KeepsSome.none _
  · exact KeepsSome.some ((hs1.trans (State.put_keeps _ _ _ _ _)).trans (Keeps.of_fields rfl rfl rfl rfl rfl))

theorem State.mxeDead_keeps (s : State) (n quad : Nat) (w : Window) : Keeps s (s.mxeDead n quad w) := by
  unfold State.mxeDead
  exact (State.unitFailed_keeps _ _ _).trans ((State.settleFault_inFaults _ _ _ _).keeps)

theorem State.mxeFails_keeps (s : State) (n quad : Nat) (col : Option Nat) (w : Window) : Keeps s (s.mxeFails n quad col w) := by
  unfold State.mxeFails
  extract_lets s1 s2
  have hs1 : Keeps s s1 := Keeps.ite (Keeps.refl _) (State.endRemap_keeps _ _ _)
  clear_value s1
  have hs2 : Keeps s s2 := Keeps.ite (hs1.trans (State.engineStop_keeps _ _)) hs1
  clear_value s2
  split
  · exact hs2.trans (State.mxeDead_keeps _ _ _ _)
  · refine Keeps.ite (hs2.trans (State.mxeDead_keeps _ _ _ _)) ?_
    split
    · rename_i t e
      have ht : Keeps s t := (KeepsSome.after hs2 (State.mapNext_keeps _ _ _ _)) _ e
      exact ht.trans (State.putBit_keeps _ _ _ _)
    · exact hs2.trans (State.mxeDead_keeps _ _ _ _)

theorem State.mxeTest_keeps (s : State) (n : Nat) (w : Window) (out : SelfTest) : Keeps s (s.mxeTest n w out) := by
  unfold State.mxeTest
  extract_lets quad slot s1 col
  have hs1 : Keeps s s1 := State.countPass_keeps _
  clear_value s1
  refine Keeps.ite (((hs1.trans (State.endRemap_keeps _ _ _)).trans (State.mxeBack_keeps _ _)).trans ((State.settleFault_inFaults _ _ _ _).keeps)) ?_
  dsimp -zeta only
  split
  · exact ((State.selfTest_inFaults _ _ _ _ _).keeps.trans (State.mxeBack_keeps _ _)).trans ((State.settleFault_inFaults _ _ _ _).keeps)
  · exact Keeps.ite ((State.selfTest_inFaults _ _ _ _ _).keeps.trans (State.mxeFails_keeps _ _ _ _ _)) ((State.selfTest_inFaults _ _ _ _
      _).keeps.trans (State.mxeFails_keeps _ _ _ _ _))
  · exact (State.selfTest_inFaults _ _ _ _ _).keeps.trans (State.mxeFails_keeps _ _ _ _ _)

theorem State.unitTest_keeps (s : State) (u : Nat) (w : Window) (out : SelfTest) : Keeps s (s.unitTest u w out) := by
  unfold State.unitTest
  dsimp -zeta only
  exact Keeps.ite (((State.selfTest_inFaults _ _ _ _ _).keeps.trans (State.passed_keeps _ _)).trans ((State.settleFault_inFaults _ _ _ _).keeps))
    (((State.selfTest_inFaults _ _ _ _ _).keeps.trans (State.unitFailed_keeps _ _ _)).trans ((State.settleFault_inFaults _ _ _ _).keeps))

theorem State.channelFails_keeps (s : State) (inst : Nat) (w : Window) : Keeps s (s.channelFails inst w) := by
  unfold State.channelFails
  exact (Keeps.ite (Keeps.refl _) ((State.contain_inFaults _ _ _).keeps)).trans (State.mapOut_keeps _ _ _)

theorem State.hbmTest_keeps (s : State) (inst : Nat) (w : Window) (out : SelfTest) : Keeps s (s.hbmTest inst w out) := by
  unfold State.hbmTest
  extract_lets st row
  dsimp -zeta only
  split
  · exact (State.selfTest_inFaults _ _ _ _ _).keeps.trans ((State.settleFault_inFaults _ _ _ _).keeps)
  · exact (State.selfTest_inFaults _ _ _ _ _).keeps.trans (State.channelFails_keeps _ _ _)
  · refine Keeps.ite (((State.selfTest_inFaults _ _ _ _ _).keeps.trans (State.bump_keeps _ _ _ _ _)).trans ((State.settleFault_inFaults _ _ _
      _).keeps)) ?_
    refine Keeps.ite ?_ (Keeps.ite (((State.selfTest_inFaults _ _ _ _ _).keeps.trans (State.bump_keeps _ _ _ _ _)).trans
      ((State.settleFault_inFaults _ _ _ _).keeps)) ((State.selfTest_inFaults _ _ _ _ _).keeps.trans (State.channelFails_keeps _ _ _)))
    extract_lets n s1
    have hs1 : Keeps s s1 := (State.selfTest_inFaults _ _ _ _ _).keeps.trans (Keeps.of_fields rfl rfl rfl rfl rfl)
    clear_value s1
    exact Keeps.ite (hs1.trans (State.channelFails_keeps _ _ _)) (hs1.trans ((State.settleFault_inFaults _ _ _ _).keeps))

theorem State.deepTest_keeps (s : State) (n : Nat) (w : Window) (out : SelfTest) : Keeps s (s.deepTest n w out) := by
  unfold State.deepTest
  dsimp -zeta only
  exact Keeps.ite ((State.selfTest_inFaults _ _ _ _ _).keeps.trans ((State.settleFault_inFaults _ _ _ _).keeps)) (((State.selfTest_inFaults _ _ _ _
    _).keeps.trans (State.dtcOut_keeps _ _)).trans ((State.settleFault_inFaults _ _ _ _).keeps))

theorem State.mscTest_keeps (s : State) (slice : Nat) (w : Window) (out : SelfTest) : Keeps s (s.mscTest slice w out) := by
  unfold State.mscTest
  dsimp -zeta only
  split
  · exact (State.selfTest_inFaults _ _ _ _ _).keeps.trans ((State.settleFault_inFaults _ _ _ _).keeps)
  · refine Keeps.trans ?_ ((State.settleFault_inFaults _ _ _ _).keeps)
    exact (State.selfTest_inFaults _ _ _ _ _).keeps.trans (Keeps.of_fields rfl rfl rfl rfl rfl)
  · refine Keeps.trans ?_ ((State.settleFault_inFaults _ _ _ _).keeps)
    exact (State.selfTest_inFaults _ _ _ _ _).keeps.trans (Keeps.of_fields rfl rfl rfl rfl rfl)

theorem State.bankTest_keeps (s : State) (i : Nat) (w : Window) (out : SelfTest) : Keeps s (s.bankTest i w out) := by
  unfold State.bankTest
  dsimp -zeta only
  refine Keeps.ite ((State.selfTest_inFaults _ _ _ _ _).keeps.trans ((State.settleFault_inFaults _ _ _ _).keeps)) ?_
  refine Keeps.trans ?_ ((State.settleFault_inFaults _ _ _ _).keeps)
  exact (State.selfTest_inFaults _ _ _ _ _).keeps.trans (Keeps.of_fields rfl rfl rfl rfl rfl)

theorem State.bundleTest_keeps (s : State) (b : Nat) (w : Window) (out : SelfTest) : Keeps s (s.bundleTest b w out) := by
  unfold State.bundleTest
  dsimp -zeta only
  split
  · exact (State.selfTest_inFaults _ _ _ _ _).keeps.trans ((State.settleFault_inFaults _ _ _ _).keeps)
  · exact Keeps.ite ((((State.selfTest_inFaults _ _ _ _ _).keeps.trans (State.loseLane_keeps _ _ _ _)).trans (State.bump_keeps _ _ _ _ _)).trans
      ((State.settleFault_inFaults _ _ _ _).keeps)) ((((State.selfTest_inFaults _ _ _ _ _).keeps.trans (State.loseLane_keeps _ _ _ _)).trans
      ((State.settleFault_inFaults _ _ _ _).keeps)).trans (State.bundleGone_keeps _ _ _ _))
  · exact (State.selfTest_inFaults _ _ _ _ _).keeps.trans ((State.settleFault_inFaults _ _ _ _).keeps)

theorem execTargetedSelfTest_keeps (dom inst : Nat) (out : SelfTest) (s : State) : KeepsNext s (execTargetedSelfTest dom inst out s) := by
  unfold execTargetedSelfTest
  split
  · exact KeepsNext.next (Keeps.refl _)
  · split
    · exact KeepsNext.ite (KeepsNext.next (State.mxeTest_keeps _ _ _ _)) (KeepsNext.ite (KeepsNext.next (State.unitTest_keeps _ _ _ _))
        (KeepsNext.next (Keeps.refl _)))
    · exact KeepsNext.ite (KeepsNext.next (State.hbmTest_keeps _ _ _ _)) (KeepsNext.ite (KeepsNext.next (State.deepTest_keeps _ _ _ _))
        (KeepsNext.ite (KeepsNext.next (State.mscTest_keeps _ _ _ _)) (KeepsNext.ite (KeepsNext.next (State.bankTest_keeps _ _ _ _)) (KeepsNext.next
        (Keeps.refl _)))))
    · refine KeepsNext.ite (KeepsNext.next (State.bundleTest_keeps _ _ _ _)) ?_
      refine KeepsNext.ite ?_ (KeepsNext.next (Keeps.refl _))
      dsimp -zeta only
      exact KeepsNext.next ((State.selfTest_inFaults _ _ _ _ _).keeps.trans ((State.settleFault_inFaults _ _ _ _).keeps))
    · dsimp -zeta only
      exact KeepsNext.next (Keeps.ite ((State.selfTest_inFaults _ _ _ _ _).keeps) ((State.selfTest_inFaults _ _ _ _ _).keeps.trans (Keeps.of_fields
        rfl rfl rfl rfl rfl)))
    · dsimp -zeta only
      exact KeepsNext.next (Keeps.ite ((State.selfTest_inFaults _ _ _ _ _).keeps.trans (Keeps.of_fields rfl rfl rfl rfl rfl))
        ((State.selfTest_inFaults _ _ _ _ _).keeps))
    · exact KeepsNext.next (Keeps.refl _)

theorem State.retest_keeps (s : State) (bad : List Nat) (u : Nat) : Keeps s (s.retest bad u) := by
  unfold State.retest
  refine Keeps.ite (Keeps.refl _) ?_
  extract_lets quad out f
  dsimp -zeta only
  split
  · exact Keeps.ite (KeepsFst.ite (KeepsFst.mk ((State.selfTest_inFaults _ _ _ _ _).keeps.trans (State.passed_keeps _ _))) (KeepsFst.mk
      ((State.selfTest_inFaults _ _ _ _ _).keeps.trans (State.unitFailed_keeps _ _ _)))) ((KeepsFst.ite (KeepsFst.mk ((State.selfTest_inFaults _ _ _
      _ _).keeps.trans (State.passed_keeps _ _))) (KeepsFst.mk ((State.selfTest_inFaults _ _ _ _ _).keeps.trans (State.unitFailed_keeps _ _
      _)))).trans ((State.settleFault_inFaults _ _ _ _).keeps))
  · exact KeepsFst.ite (KeepsFst.mk ((State.selfTest_inFaults _ _ _ _ _).keeps.trans (State.passed_keeps _ _))) (KeepsFst.mk
      ((State.selfTest_inFaults _ _ _ _ _).keeps.trans (State.unitFailed_keeps _ _ _)))

theorem State.recoveryFails_keeps (s : State) (dom inst : Nat) : Keeps s (s.recoveryFails dom inst) := by
  unfold State.recoveryFails
  split
  · exact Keeps.refl _
  · exact (State.resolve_inFaults _ _ _ _ _).keeps.trans ((State.climb_inFaults _ _ _ _ _ _ _).keeps)

theorem execDieRecovery_keeps (die : Nat) (bad : List Nat) (isolated : Bool) (s : State) : KeepsNext s (execDieRecovery die bad isolated s) := by
  unfold execDieRecovery
  refine KeepsNext.ite ?_ (KeepsNext.next (Keeps.refl _))
  extract_lets us s1 s2 s3 s4 s5
  have hs1 : Keeps s s1 := Keeps.foldl _ (fun x a => State.putBit_keeps _ _ _ _) _ _
  clear_value s1
  have hs2 : Keeps s s2 := hs1.trans (Keeps.foldl _ (fun x a => State.unitOut_keeps _ _) _ _)
  clear_value s2
  have hs3 : Keeps s s3 := hs2.trans (Keeps.foldl _ (fun x a => State.retest_keeps _ _ _) _ _)
  clear_value s3
  have hs4 : Keeps s s4 := hs3.trans (Keeps.foldl _ (fun x a => Keeps.ite (Keeps.refl _) (State.queueLost_keeps _ _)) _ _)
  clear_value s4
  have hs5 : Keeps s s5 := hs4.trans (Keeps.foldl _ (fun x a => State.setBundle_keeps _ _) _ _)
  clear_value s5
  exact KeepsNext.next (Keeps.ite (hs5.trans (State.recoveryFails_keeps _ _ _)) (hs5.trans ((State.resolve_inFaults _ _ _ _ _).keeps)))

theorem execModuleRecovery_keeps (beats : Nat) (bad : List Nat) (isolated : Bool) (s : State) : KeepsNext s (execModuleRecovery beats bad isolated
  s) := by
  unfold execModuleRecovery
  refine KeepsNext.ite ?_ (KeepsNext.next (Keeps.refl _))
  extract_lets us s1 cores s2 s3
  have hs1 : Keeps s s1 := Keeps.foldl _ (fun x a => State.retest_keeps _ _ _) _ _
  clear_value s1
  have hs2 : Keeps s s2 := by
    subst s2
    refine hs1.trans (Keeps.foldl _ (fun x a => ?_) _ _)
    dsimp -zeta only
    exact Keeps.ite ((State.selfTest_inFaults _ _ _ _ _).keeps.trans (Keeps.of_fields rfl rfl rfl rfl rfl)) ((State.selfTest_inFaults _ _ _ _
      _).keeps)
  clear_value s2
  have hs3 : Keeps s s3 := hs2.trans (State.rebaseBy_keeps _ _)
  clear_value s3
  exact KeepsNext.next (Keeps.ite (hs3.trans (State.recoveryFails_keeps _ _ _)) (hs3.trans ((State.resolve_inFaults _ _ _ _ _).keeps)))

end Sys2Proof.Machine
end

section
/-! What every command keeps: taking in. -/

namespace Sys2Proof.Machine

theorem State.numberOp_keeps (s : State) (o : OpRec) : KeepsSnd s (s.numberOp o) := by
  unfold State.numberOp
  exact KeepsSnd.ite (KeepsSnd.mk (Keeps.refl _)) (KeepsSnd.mk ⟨rfl, id⟩)

theorem State.bringIn_keeps (s : State) (place : Option Wr) (gs : List Nat) : Keeps s (s.bringIn place gs) := by
  induction gs generalizing s with
  | nil => exact Keeps.refl _
  | cons g gs ih =>
    unfold State.bringIn
    extract_lets e s1
    have hs1 : Keeps s s1 := by
      refine Keeps.ite ?_ (Keeps.ite ?_ (Keeps.refl _))
      · cases place with
        | none => exact Keeps.refl _
        | some w =>
          dsimp only
          split
          · rename_i t ht
            exact State.placeGroup_keeps s g w t ht
          · exact Keeps.refl _
      · split
        · exact State.moveTo_keeps _ _ _ _
        · exact Keeps.refl _
    clear_value s1
    exact hs1.trans (ih _)

theorem State.steerTo_keeps (s : State) (o : OpRec) : Keeps s (s.steerTo o) := by
  unfold State.steerTo
  exact State.mapOp_keeps _ _ _ _

theorem State.settleGroups_keeps (s : State) (o : OpRec) : Keeps s (s.settleGroups o) := by
  unfold State.settleGroups
  refine Keeps.ite (Keeps.refl _) ?_
  split
  · split
    · exact State.bringIn_keeps _ _ _
    · exact Keeps.refl _
  · split
    · exact (State.bringIn_keeps _ _ _).trans (State.steerTo_keeps _ _)
    · exact Keeps.refl _
  · exact Keeps.refl _

theorem State.turnAway_keeps (s : State) (o : OpRec) (r : Rej) (told : Bool) : Keeps s (s.turnAway o r told) := by
  unfold State.turnAway
  extract_lets s1
  have hs1 : Keeps s s1 := by
    subst s1
    split
    · exact State.readRecord_keeps _ _ _ _ _
    · exact Keeps.ite (State.bump_keeps _ _ _ _ _) (Keeps.refl _)
  clear_value s1
  exact ((hs1.trans (State.ops_keeps _ _)).trans (State.put_keeps _ _ _ _ _)).trans (State.endOp_keeps _ _ _ _ _)

theorem State.enter_keeps (s : State) (o : OpRec) : Keeps s (s.enter o) := by
  unfold State.enter
  dsimp -zeta only
  extract_lets s1 s2
  have hs1 : Keeps s s1 := ((State.numberOp_keeps _ _).trans (State.ops_keeps _ _)).trans (State.put_keeps _ _ _ _ _)
  clear_value s1
  have hs2 : Keeps s s2 := ((hs1.trans (State.settleGroups_keeps _ _)).trans (State.noteDeps_keeps _)).trans (State.syncQ_keeps _ _)
  clear_value s2
  split
  · exact hs2.trans (State.failOp_keeps _ _ _ _ _)
  · exact Keeps.ite (hs2.trans (State.takeHeld_keeps _ _)) hs2

theorem State.takeTail_keeps (s : State) (q sn ctx : Nat) (d : Desc) (wins : List (Nat × Nat × Nat)) (r : Recs) (n : Named) (told : Bool) : Keeps s
  (s.takeTail q sn ctx d wins r n told) := by
  unfold State.takeTail
  extract_lets x o
  split
  · exact State.turnAway_keeps _ _ _ _
  · exact ⟨rfl, id⟩
  · exact State.turnAway_keeps _ _ _ _
  · exact ⟨rfl, id⟩
  · split
    · split
      · exact Keeps.refl _
      · exact State.turnAway_keeps _ _ _ _
    · exact State.enter_keeps _ _

theorem State.takeDesc_keeps (s : State) (q sn ctx : Nat) (d : Desc) (told : Bool) : Keeps s (s.takeDesc q sn ctx d told) := by
  unfold State.takeDesc
  dsimp -zeta only
  extract_lets x o
  split
  · split
    · exact Keeps.refl _
    · exact (State.bump_keeps _ _ _ _ _).trans (State.turnAway_keeps _ _ _ _)
  · split
    · exact State.takeTail_keeps _ _ _ _ _ _ _ _ _
    · exact State.takeTail_keeps _ _ _ _ _ _ _ _ _
    · exact (State.bump_keeps _ _ _ _ _).trans (State.takeTail_keeps _ _ _ _ _ _ _ _ _)

theorem execTakeIn_keeps (q : Nat) (errs : List (Nat × Nat)) (s : State) : KeepsNext s (execTakeIn q errs s) := by
  unfold execTakeIn
  refine KeepsNext.ite (KeepsNext.next (Keeps.refl _)) ?_
  extract_lets sn ctx a bad s1 told
  have hs1 : Keeps s s1 := (State.unitErrors_keeps _ _ _).trans (State.meetReads_keeps _ _ _)
  clear_value s1
  split
  · exact KeepsNext.next (hs1.trans (State.takeDesc_keeps _ _ _ _ _ _))
  · exact KeepsNext.next hs1
  · exact KeepsNext.next ((hs1.trans (State.ringRecord_keeps _ _ _ _ _)).trans (State.ringFails_keeps _ _ _ _))

end Sys2Proof.Machine
end

section
/-! What every command keeps: register writes. -/

namespace Sys2Proof.Machine

theorem State.plainWrite_keeps (s : State) (w : Wrt) : Keeps s (s.plainWrite w) := by
  unfold State.plainWrite
  split
  · exact Keeps.ite (State.wr_keeps _ _ _) (Keeps.refl _)
  · exact Keeps.refl _

theorem State.writeQctl_keeps (s : State) (q : Nat) (w : Wrt) : KeepsNext s (s.writeQctl q w) := by
  unfold State.writeQctl
  extract_lets fields s1
  have hs1 : Keeps s s1 := State.wr_keeps _ _ _
  clear_value s1
  exact KeepsNext.ite (KeepsNext.next hs1) (andThen_keeps (KeepsNext.ite (KeepsNext.after hs1 (execEnSet_keeps _ _)) (KeepsNext.ite (KeepsNext.after
    hs1 (execEnClear_keeps _ _)) (KeepsNext.next hs1))) (fun t => andThen_keeps (KeepsNext.ite (execFlush_keeps _ _) (KeepsNext.next (Keeps.refl
    _))) (fun t => KeepsNext.ite (execResume_keeps _ _) (KeepsNext.next (Keeps.refl _)))))

theorem State.writeQueue_keeps (s : State) (q off : Nat) (w : Wrt) : KeepsNext s (s.writeQueue q off w) := by
  unfold State.writeQueue
  split
  · exact KeepsNext.ite (KeepsNext.next (Keeps.refl _)) (KeepsNext.next (State.plainWrite_keeps _ _))
  · exact State.writeQctl_keeps _ _ _
  · exact KeepsNext.ite (execDoorbell_keeps _ _ _) (KeepsNext.next (Keeps.refl _))
  · exact KeepsNext.ite (KeepsNext.next (Keeps.refl _)) (KeepsNext.next (State.plainWrite_keeps _ _))
  · exact KeepsNext.next ((State.plainWrite_keeps _ _).trans (State.syncQ_keeps _ _))
  · exact KeepsNext.next (State.plainWrite_keeps _ _)

theorem State.writeMbxCmd_keeps (s : State) (m : Nat) (w : Wrt) : KeepsNext s (s.writeMbxCmd m w) := by
  unfold State.writeMbxCmd
  extract_lets seq
  refine KeepsNext.ite (KeepsNext.next (Keeps.refl _)) ?_
  split
  · exact execGetInfo_keeps _ _ _ _
  · exact execSetPipeline_keeps _ _ _ _
  · exact execGetPipeline_keeps _ _ _ _
  · exact execSetSliplim_keeps _ _ _ _
  · exact execSetMargin_keeps _ _ _ _
  · exact execReadPlan_keeps _ _ _ _
  · exact execClearCounters_keeps _ _ _ _
  · exact execRebase_keeps _ _ _ _
  · exact KeepsNext.next (State.badMail_keeps _ _ _ _)

theorem State.writeMailbox_keeps (s : State) (m off : Nat) (w : Wrt) : KeepsNext s (s.writeMailbox m off w) := by
  unfold State.writeMailbox
  exact KeepsNext.ite (State.writeMbxCmd_keeps _ _ _) (KeepsNext.ite (KeepsNext.next (State.putBit_keeps _ _ _ _)) (KeepsNext.next
    (State.plainWrite_keeps _ _)))

theorem State.writeEngineInj_keeps (s : State) (w : Wrt) : KeepsAnswer s (s.writeEngineInj w) := by
  unfold State.writeEngineInj
  extract_lets quad
  split
  · refine KeepsAnswer.some ?_
    split
    · exact execMxeInjColumnResidue_keeps _ _ _ _ _
    · exact execMxeInjWeightRegisterParity_keeps _ _ _ _
    · exact execMxeInjAStreamParity_keeps _ _ _ _
    · exact execMxeInjTurnLoaderParity_keeps _ _ _ _
    · exact KeepsNext.next (Keeps.refl _)
  · refine KeepsAnswer.some ?_
    split
    · exact execMxeAccinjOneBit_keeps _ _ _ _
    · exact execMxeAccinjTwoBits_keeps _ _ _ _
    · exact KeepsNext.next (Keeps.refl _)
  · refine KeepsAnswer.some ?_
    split
    · exact execVxeInjTqEccOneBit_keeps _ _ _
    · exact execVxeInjTqEccTwoBits_keeps _ _ _
    · exact execVxeInjLaneParity_keeps _ _ _
    · exact execVxeInjPermuteParity_keeps _ _ _
    · exact KeepsNext.next (Keeps.refl _)
  · split
    · refine KeepsAnswer.some ?_
      split
      · exact execAsqInjDirEccOneBit_keeps _ _ _
      · exact execAsqInjDirEccTwoBits_keeps _ _ _
      · exact execAsqInjExponentParity_keeps _ _ _
      · exact execAsqInjGatherParity_keeps _ _ _
      · exact KeepsNext.next (Keeps.refl _)
    · refine KeepsAnswer.some ?_
      split
      · exact execStmInjLaneResidue_keeps _ _ _
      · exact execStmInjTermParity_keeps _ _ _
      · exact execStmInjGatherParity_keeps _ _ _
      · exact KeepsNext.next (Keeps.refl _)
    · refine KeepsAnswer.some ?_
      split
      · exact execUuInjDatapathResidue_keeps _ _ _
      · exact execUuInjRecordParity_keeps _ _ _
      · exact execUuInjEncoderParity_keeps _ _ _
      · exact KeepsNext.next (Keeps.refl _)
    · refine KeepsAnswer.ite ?_ (KeepsAnswer.none _)
      refine KeepsAnswer.some ?_
      split
      · exact execItkInjHuffmanParity_keeps _ _
      · exact execItkInjTransformResidue_keeps _ _
      · exact execItkInjEccOneBit_keeps _ _
      · exact execItkInjEccTwoBits_keeps _ _
      · exact KeepsNext.next (Keeps.refl _)

theorem State.writeMemoryInj_keeps (s : State) (w : Wrt) : KeepsAnswer s (s.writeMemoryInj w) := by
  unfold State.writeMemoryInj
  split
  · refine KeepsAnswer.some ?_
    split
    · exact execHbcInjWOneSymbol_keeps _ _ _ _
    · exact execHbcInjWFourSymbols_keeps _ _ _ _
    · exact execHbcInjACrc_keeps _ _ _ _
    · exact execHbcInjReadoutFailure_keeps _ _ _
    · exact KeepsNext.next (Keeps.refl _)
  · refine KeepsAnswer.some ?_
    split
    · exact execMscInjOneBit_keeps _ _ _
    · exact execMscInjTwoBits_keeps _ _ _
    · exact KeepsNext.next (Keeps.refl _)
  · refine KeepsAnswer.some ?_
    split
    · exact execDtcInjOneSector_keeps _ _ _
    · exact execDtcInjThreeSectors_keeps _ _ _
    · exact execDtcInjClassASector_keeps _ _ _
    · exact KeepsNext.next (Keeps.refl _)
  · refine KeepsAnswer.ite ?_ (KeepsAnswer.none _)
    refine KeepsAnswer.some ?_
    split
    · exact execRigCdinjL2OneBit_keeps _ _ _
    · exact execRigCdinjL2TwoBits_keeps _ _ _
    · exact execRigCdinjL3TwoBits_keeps _ _ _
    · exact execRigCdinjDirectory_keeps _ _ _
    · exact execRigCdinjDeadAgent_keeps _ _ _
    · exact KeepsNext.next (Keeps.refl _)

theorem State.writeLinkInj_keeps (s : State) (w : Wrt) : KeepsAnswer s (s.writeLinkInj w) := by
  unfold State.writeLinkInj
  split
  · refine KeepsAnswer.some ?_
    split
    · exact execHlkInjFlitCrc_keeps _ _ _
    · exact execHlkInjCompletionTimeout_keeps _ _ _
    · exact execHlkInjForcedRecovery_keeps _ _ _
    · exact KeepsNext.next (Keeps.refl _)
  · refine KeepsAnswer.some ?_
    split
    · exact execHwpPinjUncorrectableCodeword_keeps _ _ _
    · exact execHwpPinjCrcError_keeps _ _ _
    · exact execHwpPinjForcedRetrain_keeps _ _ _
    · exact KeepsNext.next (Keeps.refl _)
  · refine KeepsAnswer.ite ?_ (KeepsAnswer.none _)
    refine KeepsAnswer.ite (KeepsAnswer.some (KeepsNext.next (Keeps.refl _))) ?_
    refine KeepsAnswer.some ?_
    split
    · exact execStlInjLaneParity_keeps _ _ _ _ _
    · exact execStlInjFlitCrc_keeps _ _ _ _ _
    · exact KeepsNext.next (Keeps.refl _)

theorem State.writeFaultInj_keeps (s : State) (w : Wrt) : KeepsAnswer s (s.writeFaultInj w) := by
  unfold State.writeFaultInj
  extract_lets t p
  refine KeepsAnswer.ite ?_ ?_
  · refine KeepsAnswer.some ?_
    split
    · exact execFltInjUnitWatchdog_keeps _ _ _
    · exact execFltInjTileStoreOneBit_keeps _ _ _
    · exact execFltInjTileStoreTwoBits_keeps _ _ _
    · exact execFltInjTcrc_keeps _ _ _
    · exact execFltInjRfmAlarm_keeps _ _ _
    · exact execFltInjLaneLockLoss_keeps _ _ _
    · exact execFltInjHostUr_keeps _ _ _
    · exact execFltInjOffset_keeps _ _ _
    · exact execFltInjCoreWatchdog_keeps _ _ _
    · exact execFltInjQueueTwoBits_keeps _ _ _
    · exact execFltInjFuse_keeps _ _ _
    · exact KeepsNext.next (Keeps.refl _)
  · refine KeepsAnswer.ite ?_ (KeepsAnswer.none _)
    refine KeepsAnswer.some ?_
    split
    · exact execPwrInjInputAlert_keeps _ _ _
    · exact execPwrInjInputFault_keeps _ _ _
    · exact execPwrInjRailFault_keeps _ _ _
    · exact execPwrInjCapfail_keeps _ _ _
    · exact execPwrInjHot_keeps _ _ _
    · exact execPwrInjTrip_keeps _ _ _
    · exact execPwrInjHbmHot_keeps _ _ _
    · exact execPwrInjCoolant_keeps _ _ _
    · exact execPwrInjSensor_keeps _ _ _
    · exact execPwrInjMezzanine_keeps _ _ _
    · exact KeepsNext.next (Keeps.refl _)

theorem State.writeInj_keeps (s : State) (w : Wrt) : KeepsAnswer s (s.writeInj w) := by
  unfold State.writeInj
  split
  · rename_i t e
    have ht : KeepsNext s t := (State.writeEngineInj_keeps _ _) _ e
    exact KeepsAnswer.some ht
  · split
    · rename_i t e
      have ht : KeepsNext s t := (State.writeMemoryInj_keeps _ _) _ e
      exact KeepsAnswer.some ht
    · split
      · rename_i t e
        have ht : KeepsNext s t := (State.writeLinkInj_keeps _ _) _ e
        exact KeepsAnswer.some ht
      · exact State.writeFaultInj_keeps _ _

theorem State.writeScrub_keeps (s : State) (w : Wrt) : Keeps s (s.writeScrub w) := by
  unfold State.writeScrub
  exact Keeps.ite (State.put_keeps _ _ _ _ _) (Keeps.refl _)

theorem State.writeCdctl_keeps (s : State) (w : Wrt) : KeepsNext s (s.writeCdctl w) := by
  unfold State.writeCdctl
  exact KeepsNext.ite (KeepsNext.next (Keeps.refl _)) (KeepsNext.ite (KeepsNext.after ((Keeps.ite (State.put_keeps _ _ _ _ _) (Keeps.refl _)).trans
    (State.wr_keeps _ _ _)) (execRelease_keeps _ _)) (KeepsNext.next ((Keeps.ite (State.put_keeps _ _ _ _ _) (Keeps.refl _)).trans (State.wr_keeps _
    _ _))))

theorem State.writeInvrng_keeps (s : State) (w : Wrt) : Keeps s (s.writeInvrng w) := by
  unfold State.writeInvrng
  exact Keeps.ite (Keeps.refl _) (Keeps.ite (State.putBit_keeps _ _ _ _) (State.wr_keeps _ _ _))

theorem State.writeBiaCmd_keeps (s : State) (w : Wrt) : Keeps s (s.writeBiaCmd w) := by
  unfold State.writeBiaCmd
  exact Keeps.ite (State.biasStart_keeps _ _ _ _ _) (Keeps.refl _)

theorem State.writeBiaArg_keeps (s : State) (w : Wrt) : Keeps s (s.writeBiaArg w) := by
  unfold State.writeBiaArg
  exact Keeps.ite (Keeps.refl _) (Keeps.ite (Keeps.ite (State.putBit_keeps _ _ _ _) ((State.plainWrite_keeps _ _).trans (Keeps.of_fields rfl rfl rfl
    rfl rfl))) ((State.plainWrite_keeps _ _).trans (Keeps.of_fields rfl rfl rfl rfl rfl)))

theorem State.writeFltStat_keeps (s : State) (w : Wrt) : KeepsNext s (s.writeFltStat w) := by
  unfold State.writeFltStat
  exact KeepsNext.ite (KeepsNext.after (State.plainWrite_keeps _ _) (execOvfClear_keeps _ _)) (KeepsNext.next (State.plainWrite_keeps _ _))

theorem State.writeBootCmd_keeps (s : State) (w : Wrt) : KeepsNext s (s.writeBootCmd w) := by
  unfold State.writeBootCmd
  exact andThen_keeps (KeepsNext.ite (execGo_keeps _ _) (KeepsNext.next (Keeps.refl _))) (fun t => KeepsNext.ite (execAbort_keeps _ _)
    (KeepsNext.next (Keeps.refl _)))

theorem State.writeSingle_keeps (s : State) (w : Wrt) : KeepsAnswer s (s.writeSingle w) := by
  unfold State.writeSingle
  extract_lets lowV
  have hlow : ∀ o, KeepsNext s o → KeepsNext s (lowV o) := fun o h => by
    subst lowV
    exact KeepsNext.ite h (KeepsNext.next (Keeps.refl s))
  clear_value lowV
  refine KeepsAnswer.ite (.some (hlow _ (execAsqDirclr_keeps _ _ _))) ?_
  refine KeepsAnswer.ite (.some (State.writeCdctl_keeps _ _)) ?_
  refine KeepsAnswer.ite (.some (execTrnInv_keeps _ _ _)) ?_
  refine KeepsAnswer.ite (.some (KeepsNext.next (State.writeInvrng_keeps _ _))) ?_
  refine KeepsAnswer.ite (.some (execTirRelease_keeps _ _ _)) ?_
  refine KeepsAnswer.ite (.some (KeepsNext.next (State.writeBiaCmd_keeps _ _))) ?_
  refine KeepsAnswer.ite (.some (KeepsNext.next (State.writeBiaArg_keeps _ _))) ?_
  refine KeepsAnswer.ite (.some (execTmbOutctl_keeps _ _ _)) ?_
  refine KeepsAnswer.ite (.some (execRscRst_keeps _ _ _)) ?_
  refine KeepsAnswer.ite (.some (hlow _ (execKick_keeps _ _ _))) ?_
  refine KeepsAnswer.ite (.some (State.writeBootCmd_keeps _ _)) ?_
  refine KeepsAnswer.ite (.some (execSecRevoke_keeps _ _ _)) ?_
  refine KeepsAnswer.ite (.some (KeepsNext.ite (execSecAttcmd_keeps _ _) (KeepsNext.next (Keeps.refl _)))) ?_
  refine KeepsAnswer.ite (.some (hlow _ (execFltQhead_keeps _ _ _))) ?_
  refine KeepsAnswer.ite (.some (State.writeFltStat_keeps _ _)) ?_
  refine KeepsAnswer.ite (.some (hlow _ (execPwrCaphost_keeps _ _ _))) ?_
  refine KeepsAnswer.ite (.some (hlow _ (execPwrCapbmc_keeps _ _ _))) ?_
  exact KeepsAnswer.ite (.some (execPwrOff_keeps _ _ _)) (KeepsAnswer.none _)

theorem State.writeGroup_keeps (s : State) (w : Wrt) : KeepsAnswer s (s.writeGroup w) := by
  unfold State.writeGroup
  refine KeepsAnswer.ite (KeepsAnswer.some (State.writeQueue_keeps _ _ _ _)) ?_
  refine KeepsAnswer.ite (KeepsAnswer.some (State.writeMailbox_keeps _ _ _ _)) ?_
  split
  · exact KeepsAnswer.some (execRigWctl_keeps _ _ _ _)
  · exact KeepsAnswer.some (KeepsNext.ite (execTrippedClear_keeps _ _ _) (KeepsNext.next (Keeps.refl _)))
  · exact KeepsAnswer.some (execMxeColmap_keeps _ _ _ _)
  · exact KeepsAnswer.some (KeepsNext.next (State.writeScrub_keeps _ _))
  · exact KeepsAnswer.none _

theorem State.writeWord_keeps (s : State) (w : Wrt) : KeepsNext s (s.writeWord w) := by
  unfold State.writeWord
  split
  · rename_i t e
    have ht : KeepsNext s t := (State.writeSingle_keeps _ _) _ e
    exact ht
  · split
    · rename_i t e
      have ht : KeepsNext s t := (State.writeGroup_keeps _ _) _ e
      exact ht
    · split
      · rename_i t e
        have ht : KeepsNext s t := (State.writeInj_keeps _ _) _ e
        exact ht
      · exact KeepsNext.next (State.plainWrite_keeps _ _)

theorem State.bar2Write_keeps (s : State) (n off width : Nat) (v : Word) : Keeps s (s.bar2Write n off width v) := by
  unfold State.bar2Write
  exact Keeps.ite (State.maskVector_keeps _ _ _) (Keeps.ite (State.maskVector_keeps _ _ _) (Keeps.refl _))

theorem execRegisterWrite_keeps (ag : Agent) (addr width : Nat) (v : Word) (s : State) : KeepsNext s (execRegisterWrite ag addr width v s) := by
  unfold execRegisterWrite
  extract_lets ok w
  split
  · exact KeepsNext.next (Keeps.refl _)
  · exact KeepsNext.ite (KeepsNext.next (State.bar2Write_keeps _ _ _ _ _)) (KeepsNext.ite (KeepsNext.next (State.bump_keeps _ _ _ _ _))
      (KeepsNext.ite (execBootWindowWrite_keeps _ _ _ _) (State.writeWord_keeps _ _)))
  · exact KeepsNext.ite (State.writeWord_keeps _ _) (KeepsNext.next (Keeps.refl _))
  · exact KeepsNext.ite (KeepsNext.next (State.addrRecord_keeps _ _ _)) (KeepsNext.ite (KeepsNext.next (Keeps.refl _)) (State.writeWord_keeps _ _))

theorem State.cboLine_keeps (s : State) (addr : Nat) (flush : Bool) : Keeps s (s.cboLine addr flush) := by
  unfold State.cboLine
  split
  · exact State.dropLine_keeps _ _ _
  · split
    · rename_i l hl
      exact State.readLine_keeps _ _ _ (fun hs => s.line_sound addr l hs hl)
    · exact Keeps.refl _

theorem State.endHold_keeps (s : State) (core addr : Nat) : Keeps s (s.endHold core addr) := by
  unfold State.endHold
  split
  · rename_i l hl
    exact State.setLine_map_keeps s addr l hl _ _ (Copy.tame_holdEnd core)
  · exact Keeps.refl _

/-- A store of a core within one line. -/
theorem State.coreStore_keeps (s : State) (core addr : Nat) (bs : List Byte) (hf : addr % 64 + bs.length ≤ 64) : Keeps s (s.coreStore core addr bs) := by
  unfold State.coreStore
  extract_lets s1 s2 s3
  have hs1 : Keeps s s1 := by
    obtain ⟨held, hl⟩ := s.line_winExcl core addr true
    exact (State.winExcl_keeps s core addr true).trans (State.copyStore_keeps _ core addr bs _ _ hl hf)
  clear_value s1
  have hs2 : Keeps s s2 := by
    refine hs1.trans (State.cond_keeps _ _ _ (fun t => ?_))
    split
    · rename_i l hl
      exact State.setLine_map_keeps t addr l hl _ _ ⟨fun _ => rfl, fun _ h => h, fun _ h => h, fun _ h => h⟩
    · exact Keeps.refl _
  clear_value s2
  have hs3 : Keeps s s3 := Keeps.ite (hs2.trans (State.dropLr_keeps _ _)) hs2
  clear_value s3
  exact hs3.trans (State.untag_keeps _ _ _)

/-- An LR's reservation, with its answer. -/
theorem State.reserve_keeps (s : State) (r : Option Word) (l : Tab Nat) : Keeps s { s with reply := r, lr := l } := ⟨rfl, id⟩

theorem State.coreMain_keeps (s : State) (core addr width : Nat) (v : Word) (kind : StoreKind) (hw : oneLine addr width = true) :
    Keeps s (s.coreMain core addr width v kind) := by
  have hfit : addr % 64 + (bytesOf width v.toNat).length ≤ 64 := by
    simp only [oneLine, Bool.and_eq_true, decide_eq_true_eq] at hw
    rw [bytesOf_length]
    exact hw.2
  have hzero : addr / 64 * 64 % 64 + (List.replicate 64 (0 : Byte)).length ≤ 64 := by simp
  unfold State.coreMain
  split
  · extract_lets s1 x
    have hs1 : Keeps s s1 := State.winExcl_keeps _ _ _ _
    clear_value s1
    exact Keeps.ite ((hs1.trans (State.poisonFault_keeps _ _ _)).trans (State.reply_keeps _ _)) (hs1.trans (State.reserve_keeps _ _ _))
  · exact State.cboLine_keeps _ _ _
  · exact State.cboLine_keeps _ _ _
  · refine Keeps.ite ((State.dropLr_keeps _ _).trans (State.reply_keeps _ _)) ?_
    split
    · exact (State.noRoom_keeps _).trans (State.coreFault_keeps _ _ _)
    · rename_i t e
      have ht : Keeps s t := (State.coreOpens_keeps _ _) _ e
      exact ((ht.trans (State.coreStore_keeps _ _ _ _ hfit)).trans (State.endHold_keeps _ _ _)).trans (State.reply_keeps _ _)
  · split
    · exact (State.noRoom_keeps _).trans (State.coreFault_keeps _ _ _)
    · rename_i t e
      have ht : Keeps s t := (State.coreOpens_keeps _ _) _ e
      exact ht.trans (State.coreStore_keeps _ _ _ _ hzero)
  · split
    · exact (State.noRoom_keeps _).trans (State.coreFault_keeps _ _ _)
    · rename_i t e
      have ht : Keeps s t := (State.coreOpens_keeps _ _) _ e
      exact ht.trans (State.coreStore_keeps _ _ _ _ hfit)

theorem execCoreWrite_keeps (core addr width : Nat) (v : Word) (kind : StoreKind) (s : State) : KeepsNext s (execCoreWrite core addr width v kind s) := by
  unfold execCoreWrite
  refine KeepsNext.ite (KeepsNext.next (Keeps.refl _)) (KeepsNext.ite ?_ ?_)
  · split
    · exact KeepsNext.next (State.coreFault_keeps _ _ _)
    · refine KeepsNext.ite (KeepsNext.next (State.coreFault_keeps _ _ _)) (KeepsNext.ite ?_ ?_)
      · exact KeepsNext.ite (KeepsNext.next (State.coreFault_keeps _ _ _)) (execRegisterWrite_keeps _ _ _ _ _)
      · split
        · rename_i t e
          exact KeepsNext.next (State.writeMem_keeps _ _ _ _ t e)
        · exact KeepsNext.next (State.coreFault_keeps _ _ _)
  · split
    · exact KeepsNext.next (Keeps.refl _)
    · rename_i hone
      refine KeepsNext.ite (KeepsNext.next (State.coreFault_keeps _ _ _)) (KeepsNext.ite (KeepsNext.next (State.coreFault_keeps _ _ _)) ?_)
      refine KeepsNext.ite (KeepsNext.next ((State.probeWaits_keeps _ _ _).trans (State.reply_keeps _ _))) ?_
      extract_lets s1
      have hs1 : Keeps s s1 := State.meetCore_keeps _ _ _
      clear_value s1
      refine KeepsNext.ite (KeepsNext.next (hs1.trans (State.reply_keeps _ _))) (KeepsNext.next (hs1.trans ?_))
      exact State.coreMain_keeps _ _ _ _ _ _ (by simpa using (not_or.1 hone).1)

theorem State.debugRead_keeps (s : State) (addr : Nat) : KeepsSnd s (s.debugRead addr) := by
  unfold State.debugRead
  exact KeepsSnd.ite (KeepsSnd.mk (State.readReg_keeps _ _ _)) (KeepsSnd.mk (State.addrRecord_keeps _ _ _))

theorem execDbgacc_keeps (code arg : Nat) (v : Word) (s : State) : KeepsNext s (execDbgacc code arg v s) := by
  unfold execDbgacc
  extract_lets s1 x
  have hs1 : Keeps s s1 := ⟨rfl, id⟩
  clear_value s1
  have hx : Keeps s x := KeepsSnd.after hs1 (State.debugRead_keeps _ _)
  clear_value x
  refine KeepsNext.ite (KeepsNext.next hs1) ?_
  split
  · exact KeepsNext.next (hs1.trans ⟨rfl, id⟩)
  · exact KeepsNext.next (hs1.trans ⟨rfl, id⟩)
  · exact KeepsNext.next (hx.trans (State.reply_keeps _ _))
  · exact KeepsNext.after hs1 (execRegisterWrite_keeps _ _ _ _ _)
  · split
    · exact KeepsNext.next (hs1.trans (State.reply_keeps _ _))
    · exact KeepsNext.next ((hs1.trans (State.failRecord_keeps _ _ _ _)).trans (State.reply_keeps _ _))
  · split
    · rename_i t e
      have ht : Keeps s t := (KeepsOk.after hs1 (State.writeMem_keeps _ _ _ _)) _ e
      exact KeepsNext.next ht
    · exact KeepsNext.next (hs1.trans (State.failRecord_keeps _ _ _ _))
  · exact KeepsNext.next (hs1.trans ⟨rfl, id⟩)
  · exact KeepsNext.next (hs1.trans ⟨rfl, id⟩)
  · exact KeepsNext.after hs1 (execDebug_keeps _)
  · exact KeepsNext.next (hs1.trans ⟨rfl, id⟩)
  · exact KeepsNext.next hs1

end Sys2Proof.Machine
end

section
/-! What every command keeps: the dispatch. -/

namespace Sys2Proof.Machine

theorem exec_keeps (i : Instr) (s : State) : KeepsNext s (exec i s) := by
  unfold exec
  split
  · exact execRegisterWrite_keeps _ _ _ _ _
  · exact execDoorbell_keeps _ _ _
  · exact execEnSet_keeps _ _
  · exact execEnClear_keeps _ _
  · exact execFlush_keeps _ _
  · exact execFlushEnd_keeps _ _
  · exact execResume_keeps _ _
  · exact execTakeIn_keeps _ _ _
  · exact execProducerTakenIn_keeps _ _
  · exact execOpStart_keeps _ _ _
  · exact execNop_keeps _ _ _
  · exact execWait_keeps _ _ _
  · exact execWaitRead_keeps _ _ _ _
  · exact execCompletionRecord_keeps _ _ _
  · exact execBeatBoundary_keeps _ _ _ _ _
  · exact execPiecePlan_keeps _ _ _ _ _ _
  · exact execPieceCommit_keeps _ _ _ _
  · exact execStaging_keeps _ _ _ _ _ _
  · exact execPieceStart_keeps _ _ _ _ _ _
  · exact execPieceEnd_keeps _ _ _ _ _ _ _
  · exact execReBase_keeps _
  · exact execGetInfo_keeps _ _ _ _
  · exact execSetPipeline_keeps _ _ _ _
  · exact execGetPipeline_keeps _ _ _ _
  · exact execSetSliplim_keeps _ _ _ _
  · exact execSetMargin_keeps _ _ _ _
  · exact execReadPlan_keeps _ _ _ _
  · exact execClearCounters_keeps _ _ _ _
  · exact execRebase_keeps _ _ _ _
  · exact execRigWctl_keeps _ _ _ _
  · exact execTrippedClear_keeps _ _ _
  · exact execMatmul_keeps _ _ _ _ _ _ _
  · exact execMatmulRows_keeps _ _ _ _ _ _ _
  · exact execMatmulBlockdiag_keeps _ _ _ _ _ _ _
  · exact execTileQueueRoom_keeps _ _
  · exact execColumnError_keeps _ _ _ _
  · exact execPassError_keeps _ _ _ _
  · exact execTargetedSelfTest_keeps _ _ _ _
  · exact execMxeColmap_keeps _ _ _ _
  · exact execMxeInjColumnResidue_keeps _ _ _ _ _
  · exact execMxeInjWeightRegisterParity_keeps _ _ _ _
  · exact execMxeInjAStreamParity_keeps _ _ _ _
  · exact execMxeInjTurnLoaderParity_keeps _ _ _ _
  · exact execInjectionExpiry_keeps _
  · exact execAccumulatorEcc_keeps _ _ _ _
  · exact execMxeAccinjOneBit_keeps _ _ _ _
  · exact execMxeAccinjTwoBits_keeps _ _ _ _
  · exact execNodeTileLost_keeps _ _ _ _
  · exact execEpilogue_keeps _ _
  · exact execEltwise_keeps _ _ _ _ _ _
  · exact execRowreduce_keeps _ _ _ _ _ _
  · exact execRownorm_keeps _ _ _ _ _ _
  · exact execPermute_keeps _ _ _ _ _ _
  · exact execShuffle_keeps _ _ _ _ _ _
  · exact execPack_keeps _ _ _ _ _ _
  · exact execUnpack_keeps _ _ _ _ _ _
  · exact execCompress_keeps _ _ _ _ _ _
  · exact execExpand_keeps _ _ _ _ _ _
  · exact execPairError_keeps _ _ _
  · exact execVxeInjTqEccOneBit_keeps _ _ _
  · exact execVxeInjTqEccTwoBits_keeps _ _ _
  · exact execVxeInjLaneParity_keeps _ _ _
  · exact execVxeInjPermuteParity_keeps _ _ _
  · exact execAttnFwd_keeps _ _ _ _ _ _
  · exact execAttnBwd_keeps _ _ _ _ _ _
  · exact execSeqset_keeps _ _ _ _ _ _
  · exact execAsqDirclr_keeps _ _ _
  · exact execAsqDirclrDone_keeps _
  · exact execDirectoryEcc_keeps _ _ _ _ _ _
  · exact execAsqError_keeps _ _ _
  · exact execAsqInjDirEccOneBit_keeps _ _ _
  · exact execAsqInjDirEccTwoBits_keeps _ _ _
  · exact execAsqInjExponentParity_keeps _ _ _
  · exact execAsqInjGatherParity_keeps _ _ _
  · exact execConvFwd_keeps _ _ _ _ _ _ _
  · exact execConvBwdData_keeps _ _ _ _ _ _ _
  · exact execConvBwdWeight_keeps _ _ _ _ _ _ _
  · exact execStemFwd_keeps _ _ _ _ _ _
  · exact execStemBwdData_keeps _ _ _ _ _ _
  · exact execStemBwdWeight_keeps _ _ _ _ _ _
  · exact execStemError_keeps _ _ _
  · exact execStmInjLaneResidue_keeps _ _ _
  · exact execStmInjTermParity_keeps _ _ _
  · exact execStmInjGatherParity_keeps _ _ _
  · exact execApply_keeps _ _ _ _ _ _
  · exact execGram_keeps _ _ _ _ _ _ _
  · exact execRoot_keeps _ _ _ _ _ _
  · exact execUuError_keeps _ _ _
  · exact execUuInjDatapathResidue_keeps _ _ _
  · exact execUuInjRecordParity_keeps _ _ _
  · exact execUuInjEncoderParity_keeps _ _ _
  · exact execSync_keeps _ _ _ _
  · exact execXallgather_keeps _ _ _ _ _
  · exact execXsend_keeps _ _ _
  · exact execXrecv_keeps _ _ _
  · exact execXallreduce_keeps _ _ _ _ _
  · exact execXreducescatter_keeps _ _ _ _ _
  · exact execCollectiveAdmit_keeps _ _ _
  · exact execLimit_keeps _ _ _ _
  · exact execData_keeps _ _ _
  · exact execNode_keeps _ _ _
  · exact execE2eack_keeps _ _ _
  · exact execReady_keeps _ _ _
  · exact execAbandon_keeps _ _ _
  · exact execAlign_keeps _ _ _ _ _ _ _ _
  · exact execAlignExchange_keeps _
  · exact execRetry_keeps _ _ _
  · exact execIdent_keeps _ _ _ _
  · exact execAdvert_keeps _ _ _ _ _
  · exact execJoin_keeps _ _ _
  · exact execElectionClose_keeps _
  · exact execAddr_keeps _ _ _ _
  · exact execRoute_keeps _ _ _ _
  · exact execNozenith_keeps _
  · exact execZenithLost_keeps _ _
  · exact execReduceAcc_keeps _ _ _ _ _ _
  · exact execContributionRelease_keeps _ _ _ _
  · exact execClassADetection_keeps _ _ _ _ _ _
  · exact execMscWrite_keeps _ _ _ _ _
  · exact execMscEcc_keeps _ _ _ _ _ _ _
  · exact execAdd_keeps _ _ _ _
  · exact execAnd_keeps _ _ _ _
  · exact execOr_keeps _ _ _ _
  · exact execXor_keeps _ _ _ _
  · exact execSwap_keeps _ _ _ _
  · exact execCas_keeps _ _ _ _ _
  · exact execSmin_keeps _ _ _ _
  · exact execSmax_keeps _ _ _ _
  · exact execUmin_keeps _ _ _ _
  · exact execUmax_keeps _ _ _ _
  · exact execFadd32_keeps _ _ _
  · exact execFadd64_keeps _ _ _
  · exact execTemperatureReadout_keeps _ _ _
  · exact execPatrolScrub_keeps _ _ _
  · exact execChannelDrained_keeps _ _ _
  · exact execHbcInjWOneSymbol_keeps _ _ _ _
  · exact execHbcInjWFourSymbols_keeps _ _ _ _
  · exact execHbcInjACrc_keeps _ _ _ _
  · exact execHbcInjReadoutFailure_keeps _ _ _
  · exact execMscInjOneBit_keeps _ _ _
  · exact execMscInjTwoBits_keeps _ _ _
  · exact execCoreRead_keeps _ _ _ _
  · exact execCoreWrite_keeps _ _ _ _ _ _
  · exact execEngineRead_keeps _ _
  · exact execEngineWrite_keeps _ _ _ _
  · exact execFarAtomic_keeps _ _ _ _ _ _ _
  · exact execFamoaddW_keeps _ _ _ _
  · exact execFamoaddD_keeps _ _ _ _
  · exact execEviction_keeps _ _ _ _
  · exact execProbe_keeps _ _ _
  · exact execHoldEnd_keeps _ _ _
  · exact execDeadAgent_keeps _ _
  · exact execUncorrectableCoherenceError_keeps _ _
  · exact execEnginesParked_keeps _ _
  · exact execRecoveryComplete_keeps _
  · exact execRelease_keeps _ _
  · exact execCoreEcc_keeps _ _ _ _
  · exact execPoisonedLineAccess_keeps _ _ _
  · exact execRigCdinjL2OneBit_keeps _ _ _
  · exact execRigCdinjL2TwoBits_keeps _ _ _
  · exact execRigCdinjL3TwoBits_keeps _ _ _
  · exact execRigCdinjDirectory_keeps _ _ _
  · exact execRigCdinjDeadAgent_keeps _ _ _
  · exact execFirstWrite_keeps _ _ _ _ _
  · exact execMigrationStart_keeps _ _ _ _
  · exact execMigrationSwitch_keeps _ _
  · exact execMigrationAbandon_keeps _ _
  · exact execTirRelease_keeps _ _ _
  · exact execTrnInv_keeps _ _ _
  · exact execRangeAck_keeps _ _
  · exact execTrnInvDone_keeps _
  · exact execCopy_keeps _ _ _ _ _ _
  · exact execFill_keeps _ _ _ _ _ _
  · exact execPlace_keeps _ _ _ _ _ _
  · exact execSectorRebuild_keeps _ _ _ _
  · exact execDeepTierScrub_keeps _ _
  · exact execDtcInjOneSector_keeps _ _ _
  · exact execDtcInjThreeSectors_keeps _ _ _
  · exact execDtcInjClassASector_keeps _ _ _
  · exact execBatch_keeps _ _ _
  · exact execItem_keeps _ _ _
  · exact execIntakeError_keeps _ _
  · exact execItkInjHuffmanParity_keeps _ _
  · exact execItkInjTransformResidue_keeps _ _
  · exact execItkInjEccOneBit_keeps _ _
  · exact execItkInjEccTwoBits_keeps _ _
  · exact execBar0AccessRefused_keeps _ _ _ _ _
  · exact execMap_keeps _ _ _
  · exact execTodevice_keeps _ _ _
  · exact execToshared_keeps _ _ _
  · exact execUnmap_keeps _ _ _
  · exact execBiaCmdComplete_keeps _
  · exact execHostSnoop_keeps _ _ _ _
  · exact execFlushingRead_keeps _ _
  · exact execCompletionTimeout_keeps _ _ _ _ _
  · exact execUnsupportedRequest_keeps _ _ _ _ _
  · exact execPerstHigh_keeps _ _
  · exact execDlActive_keeps _ _ _ _ _
  · exact execRecoveryEntered_keeps _ _
  · exact execL0Regained_keeps _ _
  · exact execHostReset_keeps _ _ _
  · exact execTmbNow_keeps _ _
  · exact execPtmDialog_keeps _ _ _ _ _ _ _ _
  · exact execPpsOut_keeps _
  · exact execTodTx_keeps _
  · exact execTmbOutctl_keeps _ _ _
  · exact execHlkInjFlitCrc_keeps _ _ _
  · exact execHlkInjCompletionTimeout_keeps _ _ _
  · exact execHlkInjForcedRecovery_keeps _ _ _
  · exact execStrandFlitCrc_keeps _ _ _ _
  · exact execLaneParityAlarm_keeps _ _ _ _ _
  · exact execStlInjLaneParity_keeps _ _ _ _ _
  · exact execStlInjFlitCrc_keeps _ _ _ _ _
  · exact execPortTraining_keeps _ _
  · exact execNoLock_keeps _ _
  · exact execUncorrectableCodewords_keeps _ _
  · exact execLockRegained_keeps _ _
  · exact execRetrainFail_keeps _ _
  · exact execHwpPinjUncorrectableCodeword_keeps _ _ _
  · exact execHwpPinjCrcError_keeps _ _ _
  · exact execHwpPinjForcedRetrain_keeps _ _ _
  · exact execPor_keeps _
  · exact execPin_keeps _ _
  · exact execRscRst_keeps _ _ _
  · exact execWdog_keeps _
  · exact execEscal_keeps _
  · exact execTherm_keeps _ _
  · exact execSupply_keeps _ _
  · exact execDebug_keeps _
  · exact execResetRelease_keeps _ _
  · exact execOptload_keeps _ _ _
  · exact execBootWindowWrite_keeps _ _ _ _
  · exact execGo_keeps _ _
  · exact execAbort_keeps _ _
  · exact execVerifyResult_keeps _
  · exact execSelfReady_keeps _
  · exact execSecAttcmd_keeps _ _
  · exact execSecRevoke_keeps _ _ _
  · exact execKick_keeps _ _ _
  · exact execFltQhead_keeps _ _ _
  · exact execOvfClear_keeps _ _
  · exact execWindowClose_keeps _ _ _
  · exact execDieRecovery_keeps _ _ _ _
  · exact execModuleRecovery_keeps _ _ _ _
  · exact execPartnerLost_keeps _ _ _
  · exact execUnitWatchdog_keeps _ _
  · exact execCoreWatchdog_keeps _ _
  · exact execTileStoreEcc_keeps _ _ _ _ _ _ _
  · exact execFltInjUnitWatchdog_keeps _ _ _
  · exact execFltInjTileStoreOneBit_keeps _ _ _
  · exact execFltInjTileStoreTwoBits_keeps _ _ _
  · exact execFltInjTcrc_keeps _ _ _
  · exact execFltInjRfmAlarm_keeps _ _ _
  · exact execFltInjLaneLockLoss_keeps _ _ _
  · exact execFltInjHostUr_keeps _ _ _
  · exact execFltInjOffset_keeps _ _ _
  · exact execFltInjCoreWatchdog_keeps _ _ _
  · exact execFltInjQueueTwoBits_keeps _ _ _
  · exact execFltInjFuse_keeps _ _ _
  · exact execWake_keeps _ _ _ _ _
  · exact execRailsInRegulation_keeps _
  · exact execRampTimeout_keeps _
  · exact execRailFault_keeps _ _
  · exact execPwrEnFall_keeps _
  · exact execPwrOff_keeps _ _ _
  · exact execInputBelow40v_keeps _
  · exact execConversionOff_keeps _
  · exact execLatchoffExit_keeps _ _ _
  · exact execPwrCaphost_keeps _ _ _
  · exact execPwrCapbmc_keeps _ _ _
  · exact execCapfail_keeps _ _
  · exact execMzloss_keeps _ _
  · exact execSensorReading_keeps _ _
  · exact execThermalTrip_keeps _ _ _
  · exact execTripClear_keeps _
  · exact execCagePresence_keeps _ _ _ _
  · exact execCageOvercurrent_keeps _ _
  · exact execSetdasa_keeps _ _
  · exact execEntdaa_keeps _ _
  · exact execExtest_keeps _
  · exact execIdcode_keeps _
  · exact execSamplePreload_keeps _
  · exact execDbgauth_keeps _ _ _ _ _
  · exact execDbgacc_keeps _ _ _ _
  · exact execBypass_keeps _
  · exact execPwrInjInputAlert_keeps _ _ _
  · exact execPwrInjInputFault_keeps _ _ _
  · exact execPwrInjRailFault_keeps _ _ _
  · exact execPwrInjCapfail_keeps _ _ _
  · exact execPwrInjHot_keeps _ _ _
  · exact execPwrInjTrip_keeps _ _ _
  · exact execPwrInjHbmHot_keeps _ _ _
  · exact execPwrInjCoolant_keeps _ _ _
  · exact execPwrInjSensor_keeps _ _ _
  · exact execPwrInjMezzanine_keeps _ _ _
  · exact execMailboxResponse_keeps _ _
  · exact execTirReleaseDone_keeps _
  · exact execAttestationQuote_keeps _
  · exact execMezzanineSupplyReturn_keeps _ _
  · exact execGlobalObservation_keeps _ _ _ _

end Sys2Proof.Machine
end

section
/-! The machine as a whole: a step takes the front command and runs it, and no command stops, adds a command or breaks soundness. -/

namespace Sys2Proof.Machine

/-- A step with a command in the queue. -/
theorem step_cons (c : Instr) (cs : List Instr) (s : State) : step { s with pending := c :: cs } = exec c { s with pending := cs } := rfl

/-- A step with an empty queue. -/
theorem step_idle (s : State) (h : s.pending = []) : step s = .next s := by
  unfold step
  rw [h]

/-- What a step comes to: nothing where no command waits, and else the front command on the rest of the state. -/
theorem step_keeps (s t : State) (h : step s = .next t) : t.pending = s.pending.tail ∧ (s.sound → t.sound) := by
  cases hp : s.pending with
  | nil =>
    rw [step_idle s hp] at h
    cases h
    exact ⟨hp, id⟩
  | cons c cs =>
    have hstep : step s = exec c { s with pending := cs } := by
      unfold step
      rw [hp]
    have hk : Keeps { s with pending := cs } t := (exec_keeps c { s with pending := cs }).of_eq (hstep.symm.trans h)
    exact ⟨hk.pending, hk.sound⟩

/-- Settles O4: each command keeps soundness (`exec_keeps`), and the queue is no part of it. -/
theorem stepKeepsSoundness : Obligations.StepKeepsSoundness := fun s t hs h => (step_keeps s t h).2 hs

/-- Settles O5. -/
theorem stepTakesOneCommand : Obligations.StepTakesOneCommand := fun s t h => (step_keeps s t h).1

/-- Settles O2: what each command is shown to keep says also that it takes effect. -/
theorem noCommandStops : Obligations.NoCommandStops := fun c s => (exec_keeps c s).imp (fun _ h => h.1)

/-- Settles O1. -/
theorem stepRunsTheFrontCommand : Obligations.StepRunsTheFrontCommand := ⟨step_cons, step_idle⟩

end Sys2Proof.Machine
end

section
/-! The fault queue (R574 to R577): what forming one record writes in control space, stage by stage. -/

namespace Sys2Proof.Machine

/-! ### Reads after a run of words, a field of one bit and a signalled vector -/

theorem State.rd_wrRun_apart (s : State) (a b : Nat) (ws : List Word) (h : ∀ i, i < ws.length → b ≠ a + 8 * i) : (s.wrRun a ws).rd b = s.rd b :=
  (State.wrRun_frame ws s a).2 b h

/-- The words of a run read back. -/
theorem State.rd_wrRun (s : State) (a : Nat) (ws : List Word) (i : Nat) (h : i < ws.length) : (s.wrRun a ws).rd (a + 8 * i) = ws.getD i 0 := by
  induction ws generalizing s a i with
  | nil => exact absurd h (Nat.not_lt_zero i)
  | cons w ws ih =>
    cases i with
    | zero =>
      have hw := (s.wr a w).rd_wrRun_apart (a + 8) a ws (fun j _ => by omega)
      rw [State.rd_wr_same] at hw
      exact hw
    | succ i =>
      have hi := ih (s.wr a w) (a + 8) i (Nat.lt_of_succ_lt_succ h)
      rw [show a + 8 * (i + 1) = a + 8 + 8 * i by omega]
      exact hi

/-- A signalled vector is counted at its link alone, where it is not sent (R496). -/
theorem State.rd_signal (s : State) (v a : Nat) (h : a ≠ Reg.hlkBar (v / 1024)) : (s.signal v).rd a = s.rd a := by
  unfold State.signal
  dsimp only
  split
  · rfl
  · split
    · split <;> rfl
    · exact s.rd_bump_other _ _ _ _ _ h

/-! ### The stages of a record -/

/-- A record formed: it takes its number, is counted under its class and held with the last records (R574, R550). -/
def State.recordFormed (s : State) (f : FaultIn) : State :=
  { ((s.put Reg.fltSeq 31 0 (s.fld Reg.fltSeq 31 0 + 1)).bump (Reg.fltLost f.cls) 63 32 1) with
    keep := (s.keep ++ [recordWords f (s.fld Reg.fltSeq 31 0) s.ns s.beat]).drop (s.keep.length + 1 - 16) }

/-- A record lost in a full ring (R576). -/
def State.recordLost (s : State) (cls seq : Nat) : State :=
  if s.flag Reg.fltStat 0 then s.bump (Reg.fltLost cls) 31 0 1
  else (((s.bump (Reg.fltLost cls) 31 0 1).putBit Reg.fltStat 0 true).put Reg.fltStat 31 28 cls).put Reg.fltStat 63 32 seq

/-- A record entered at the tail of the ring (R574). -/
def State.recordQueued (s : State) (ws : List Word) (tail : Nat) (fills : Bool) : State :=
  ((s.wrRun (Reg.fltQ (tail % 4096) 0) ws).put Reg.fltQtail 31 0 (tail + 1)).putBit Reg.fltStat 1 fills

/-- A record of the highest severity is copied to the escalation ring (R577). -/
def State.recordEscalated (s : State) (sev : Nat) (ws : List Word) : State :=
  if decide (sev = 3) then
    ((s.wrRun (Reg.fltEsc (s.fld Reg.fltEsccnt 31 0 % 32) 0) ws).put Reg.fltEsccnt 31 0 (s.fld Reg.fltEsccnt 31 0 + 1)).putBit Reg.fltStat 2 true
  else s

/-- The stage that decides what the queue holds: lost where the ring is full, queued where it has room. -/
def State.recordPlaced (s : State) (f : FaultIn) : State :=
  if s.queueFull then (s.recordFormed f).recordLost f.cls (s.fld Reg.fltSeq 31 0)
  else (s.recordFormed f).recordQueued (recordWords f (s.fld Reg.fltSeq 31 0) s.ns s.beat) (s.fld Reg.fltQtail 31 0)
    (decide ((s.fld Reg.fltQtail 31 0 + 2 ^ 32 - s.fld Reg.fltQhead 31 0) % 2 ^ 32 + 1 = 4096))

/-- Forming one record is its stages, and perhaps a signal of the vector that FLT_CTL names. -/
theorem State.formOne_stages (s : State) (f : FaultIn) :
    ∃ t, t = (s.recordPlaced f).recordEscalated f.sev (recordWords f (s.fld Reg.fltSeq 31 0) s.ns s.beat) ∧
      (s.formOne f = t ∨ s.formOne f = t.signal (t.fld Reg.fltCtl 26 16)) := by
  refine ⟨_, rfl, ?_⟩
  unfold State.formOne
  extract_lets seq ws head tail occ full s1 s2 s3 ovf s4 s5 s6 s7 escWas esc n s8 s9 thr fires
  by_cases hf : (fires && s9.flag Reg.fltCtl 14) = true
  · rw [if_pos hf]
    exact Or.inr rfl
  · rw [if_neg hf]
    exact Or.inl rfl

theorem State.fld_of_rd {s t : State} {a : Nat} (h : t.rd a = s.rd a) (hi lo : Nat) : t.fld a hi lo = s.fld a hi lo := by
  unfold State.fld
  rw [h]

theorem State.flag_of_rd {s t : State} {a : Nat} (h : t.rd a = s.rd a) (i : Nat) : t.flag a i = s.flag a i := by
  unfold State.flag
  rw [State.fld_of_rd h]

/-- A flag is a field of one bit. -/
theorem State.flag_of_fld {s t : State} {a i : Nat} (h : t.fld a i i = s.fld a i i) : t.flag a i = s.flag a i := by
  unfold State.flag
  rw [h]

/-- A register that neither the escalation ring nor a signalled vector writes. -/
def Reg.offEscalation (a : Nat) : Prop := Reg.hlkBar 1 < a ∧ a < Reg.fltEsc 0 0 ∧ a ≠ Reg.fltEsccnt

theorem Reg.offEscalation_fltStat : Reg.offEscalation Reg.fltStat := ⟨by decide, by decide, by decide⟩

theorem Reg.offEscalation_vector {a : Nat} (h : Reg.offEscalation a) (s : State) : a ≠ Reg.hlkBar (s.fld Reg.fltCtl 26 16 / 1024) := by
  have hw : s.fld Reg.fltCtl 26 16 < 2 ^ 11 := bits_lt _ 26 16
  obtain ⟨hlo, -, -⟩ := h
  unfold Reg.hlkBar at hlo ⊢
  omega

theorem Reg.offEscalation_slot {a : Nat} (h : Reg.offEscalation a) (n i : Nat) : a ≠ Reg.fltEsc n 0 + 8 * i := by
  obtain ⟨-, hhi, -⟩ := h
  unfold Reg.fltEsc at hhi ⊢
  omega

/-- What the escalation ring leaves of a register. -/
theorem State.rd_recordEscalated (s : State) (sev : Nat) (ws : List Word) {a : Nat} (ha : Reg.offEscalation a) (hst : a ≠ Reg.fltStat) :
    (s.recordEscalated sev ws).rd a = s.rd a := by
  unfold State.recordEscalated
  split
  · rw [State.rd_putBit_other _ _ _ _ _ hst, State.rd_put_other _ _ _ _ _ _ ha.2.2, State.rd_wrRun_apart _ _ _ _ (fun i _ => Reg.offEscalation_slot ha _ i)]
  · rfl

/-- The escalation ring sets bit 2 of FLT_STAT and leaves its other fields. -/
theorem State.fld_recordEscalated (s : State) (sev : Nat) (ws : List Word) {h l : Nat} (hl : l ≤ h) (h2 : h < 2 ∨ 2 < l) :
    (s.recordEscalated sev ws).fld Reg.fltStat h l = s.fld Reg.fltStat h l := by
  have hst := Reg.offEscalation_fltStat
  unfold State.recordEscalated
  split
  · rw [State.fld_putBit_apart _ _ _ _ _ _ (by decide) hl h2, State.fld_put_other _ _ _ _ _ _ _ _ hst.2.2]
    exact State.fld_of_rd (State.rd_wrRun_apart _ _ _ _ (fun i _ => Reg.offEscalation_slot hst _ i)) _ _
  · rfl

/-- Forming a record: what a register holds that its place in the queue decides. -/
theorem State.rd_formOne (s : State) (f : FaultIn) {a : Nat} (ha : Reg.offEscalation a) (hst : a ≠ Reg.fltStat) :
    (s.formOne f).rd a = (s.recordPlaced f).rd a := by
  obtain ⟨t, ht, h⟩ := s.formOne_stages f
  have he : t.rd a = (s.recordPlaced f).rd a := by rw [ht, State.rd_recordEscalated _ _ _ ha hst]
  rcases h with h | h
  · rw [h, he]
  · rw [h, State.rd_signal _ _ _ (Reg.offEscalation_vector ha _), he]

theorem State.fld_formOne (s : State) (f : FaultIn) {h l : Nat} (hl : l ≤ h) (h2 : h < 2 ∨ 2 < l) :
    (s.formOne f).fld Reg.fltStat h l = (s.recordPlaced f).fld Reg.fltStat h l := by
  obtain ⟨t, ht, hform⟩ := s.formOne_stages f
  have he : t.fld Reg.fltStat h l = (s.recordPlaced f).fld Reg.fltStat h l := by rw [ht, State.fld_recordEscalated _ _ _ hl h2]
  rcases hform with hform | hform
  · rw [hform, he]
  · rw [hform, State.fld_of_rd (State.rd_signal _ _ _ (Reg.offEscalation_vector Reg.offEscalation_fltStat _)), he]

/-! ### The record's number, its counts and its place (R574, R576) -/

theorem Reg.offEscalation_fltQ {k i : Nat} (hk : k < 4096) (hi : i < 8) : Reg.offEscalation (Reg.fltQ k i) := by
  unfold Reg.offEscalation Reg.fltQ Reg.hlkBar Reg.fltEsc Reg.fltEsccnt
  omega

theorem Reg.offEscalation_fltLost {c : Nat} (hc : c < 16) : Reg.offEscalation (Reg.fltLost c) := by
  unfold Reg.offEscalation Reg.fltLost Reg.hlkBar Reg.fltEsc Reg.fltEsccnt
  omega

/-- The registers of the queue lie apart. -/
theorem Reg.fltLost_apart {c : Nat} (hc : c < 16) :
    Reg.fltLost c ≠ Reg.fltStat ∧ Reg.fltLost c ≠ Reg.fltSeq ∧ Reg.fltLost c ≠ Reg.fltQtail ∧ Reg.fltLost c ≠ Reg.fltQhead := by
  unfold Reg.fltLost Reg.fltStat Reg.fltSeq Reg.fltQtail Reg.fltQhead
  omega

/-- A register below the ring and not of the queue's own. -/
theorem Reg.fltQ_apart (k i : Nat) {c : Nat} (hc : c < 16) :
    Reg.fltQ k i ≠ Reg.fltStat ∧ Reg.fltQ k i ≠ Reg.fltSeq ∧ Reg.fltQ k i ≠ Reg.fltQtail ∧ Reg.fltQ k i ≠ Reg.fltLost c := by
  unfold Reg.fltQ Reg.fltLost Reg.fltStat Reg.fltSeq Reg.fltQtail
  omega

theorem State.rd_withKeep (s : State) (k : List (List Word)) (a : Nat) : ({ s with keep := k } : State).rd a = s.rd a := rfl

theorem State.rd_recordFormed (s : State) (f : FaultIn) {a : Nat} (h1 : a ≠ Reg.fltSeq) (h2 : a ≠ Reg.fltLost f.cls) : (s.recordFormed f).rd a = s.rd a :=
  (State.rd_withKeep _ _ _).trans <| (State.rd_bump_other _ _ _ _ _ _ h2).trans (State.rd_put_other _ _ _ _ _ _ h1)

/-- A record lost writes its class's count and FLT_STAT. -/
theorem State.rd_recordLost (s : State) (cls seq : Nat) {a : Nat} (h1 : a ≠ Reg.fltStat) (h2 : a ≠ Reg.fltLost cls) : (s.recordLost cls seq).rd a = s.rd a := by
  unfold State.recordLost
  split
  · exact State.rd_bump_other _ _ _ _ _ _ h2
  · rw [State.rd_put_other _ _ _ _ _ _ h1, State.rd_put_other _ _ _ _ _ _ h1, State.rd_putBit_other _ _ _ _ _ h1, State.rd_bump_other _ _ _ _ _ _ h2]

theorem State.fld_recordLost (s : State) {cls : Nat} (seq : Nat) (hc : cls < 16) (h l : Nat) :
    (s.recordLost cls seq).fld (Reg.fltLost cls) h l = (s.bump (Reg.fltLost cls) 31 0 1).fld (Reg.fltLost cls) h l := by
  have hst := (Reg.fltLost_apart hc).1
  unfold State.recordLost
  split
  · rfl
  · rw [State.fld_put_other _ _ _ _ _ _ _ _ hst, State.fld_put_other _ _ _ _ _ _ _ _ hst, State.fld_putBit_other _ _ _ _ _ _ _ hst]

/-- The first record lost sets OVF, FIRSTLOST and FIRSTSEQ. -/
theorem State.recordLost_first (s : State) {cls : Nat} (hc : cls < 16) (seq : Nat) (h : s.flag Reg.fltStat 0 = false) :
    (s.recordLost cls seq).flag Reg.fltStat 0 = true ∧ (s.recordLost cls seq).fld Reg.fltStat 31 28 = cls ∧
    (s.recordLost cls seq).fld Reg.fltStat 63 32 = seq % 2 ^ 32 := by
  have hl : s.recordLost cls seq =
      (((s.bump (Reg.fltLost cls) 31 0 1).putBit Reg.fltStat 0 true).put Reg.fltStat 31 28 cls).put Reg.fltStat 63 32 seq := if_neg (by rw [h]; decide)
  rw [hl]
  refine ⟨?_, ?_, State.fld_put_same _ _ _ _ _ (by decide) (by decide)⟩
  · rw [State.flag_put_apart _ _ _ _ _ _ (by decide) (by decide) (Or.inl (by decide)),
      State.flag_put_apart _ _ _ _ _ _ (by decide) (by decide) (Or.inl (by decide)), State.flag_putBit_same _ _ _ _ (by decide)]
  · rw [State.fld_put_apart _ _ _ _ _ _ _ (by decide) (by decide) (by decide) (Or.inl (by decide)), State.fld_put_same _ _ _ _ _ (by decide) (by decide)]
    exact Nat.mod_eq_of_lt hc

/-- Any other leaves FLT_STAT. -/
theorem State.recordLost_again (s : State) (cls seq : Nat) (h : s.flag Reg.fltStat 0 = true) : (s.recordLost cls seq).rd Reg.fltStat = s.rd Reg.fltStat := by
  have hl : s.recordLost cls seq = s.bump (Reg.fltLost cls) 31 0 1 := if_pos h
  rw [hl, State.rd_bump_other]
  unfold Reg.fltStat Reg.fltLost
  omega

/-- A record queued writes its slot, FLT_QTAIL and FLT_STAT. -/
theorem State.rd_recordQueued (s : State) (ws : List Word) (tail : Nat) (fills : Bool) {a : Nat} (h1 : a ≠ Reg.fltStat) (h2 : a ≠ Reg.fltQtail)
    (h3 : ∀ i, i < ws.length → a ≠ Reg.fltQ (tail % 4096) 0 + 8 * i) : (s.recordQueued ws tail fills).rd a = s.rd a := by
  unfold State.recordQueued
  rw [State.rd_putBit_other _ _ _ _ _ h1, State.rd_put_other _ _ _ _ _ _ h2, State.rd_wrRun_apart _ _ _ _ h3]

/-! ### The whole of a record: what each register of the queue holds after it -/

theorem State.recordPlaced_full (s : State) (f : FaultIn) (h : s.queueFull = true) :
    s.recordPlaced f = (s.recordFormed f).recordLost f.cls (s.fld Reg.fltSeq 31 0) := if_pos h

theorem State.recordPlaced_room (s : State) (f : FaultIn) (h : s.queueFull = false) :
    ∃ fills, s.recordPlaced f =
      (s.recordFormed f).recordQueued (recordWords f (s.fld Reg.fltSeq 31 0) s.ns s.beat) (s.fld Reg.fltQtail 31 0) fills :=
  ⟨_, if_neg (by rw [h]; decide)⟩

/-- A register that the record's place does not decide. -/
theorem State.rd_recordPlaced (s : State) (f : FaultIn) {a : Nat} (h1 : a ≠ Reg.fltStat) (h2 : a ≠ Reg.fltQtail) (h3 : a ≠ Reg.fltLost f.cls)
    (h4 : a < Reg.fltQ 0 0) : (s.recordPlaced f).rd a = (s.recordFormed f).rd a := by
  cases h : s.queueFull with
  | true => rw [s.recordPlaced_full f h, State.rd_recordLost _ _ _ h1 h3]
  | false =>
    obtain ⟨fills, hp⟩ := s.recordPlaced_room f h
    rw [hp, State.rd_recordQueued _ _ _ _ h1 h2 (fun i _ => ?_)]
    unfold Reg.fltQ at h4 ⊢
    omega

theorem State.keep_wrRun (s : State) (a : Nat) (ws : List Word) : (s.wrRun a ws).keep = s.keep := by
  obtain ⟨⟨r, h, -⟩, -⟩ := State.wrRun_frame ws s a
  rw [h]

theorem State.keep_signal (s : State) (v : Nat) : (s.signal v).keep = s.keep := by
  unfold State.signal
  dsimp only
  split
  · rfl
  · split
    · split <;> rfl
    · exact s.bump_keep _ _ _ _

theorem State.keep_recordEscalated (s : State) (sev : Nat) (ws : List Word) : (s.recordEscalated sev ws).keep = s.keep := by
  unfold State.recordEscalated
  split
  · rw [State.putBit_keep, State.put_keep, State.keep_wrRun]
  · rfl

theorem State.keep_recordPlaced (s : State) (f : FaultIn) : (s.recordPlaced f).keep = (s.recordFormed f).keep := by
  unfold State.recordPlaced State.recordLost State.recordQueued
  split
  · split
    · rw [State.bump_keep]
    · rw [State.put_keep, State.put_keep, State.putBit_keep, State.bump_keep]
  · rw [State.putBit_keep, State.put_keep, State.keep_wrRun]

/-- The record formed is the last of those held (R550). -/
theorem State.keep_formOne (s : State) (f : FaultIn) : (s.formOne f).keep.getLast? = some (recordWords f (s.fld Reg.fltSeq 31 0) s.ns s.beat) := by
  have hk : (s.formOne f).keep = (s.recordFormed f).keep := by
    obtain ⟨t, ht, hform⟩ := s.formOne_stages f
    have hkt : t.keep = (s.recordFormed f).keep := by rw [ht, State.keep_recordEscalated, State.keep_recordPlaced]
    rcases hform with hform | hform
    · rw [hform, hkt]
    · rw [hform, State.keep_signal, hkt]
  rw [hk]
  have hd : s.keep.length + 1 - 16 ≤ s.keep.length := by omega
  unfold State.recordFormed
  rw [List.drop_append_of_le_length hd, List.getLast?_concat]

theorem State.fld_ofFormed (s : State) (f : FaultIn) (a h l : Nat) : (s.recordFormed f).fld a h l =
    ((s.put Reg.fltSeq 31 0 (s.fld Reg.fltSeq 31 0 + 1)).bump (Reg.fltLost f.cls) 63 32 1).fld a h l := State.fld_of_rd (State.rd_withKeep _ _ _) _ _

/-- A record formed adds one to its class's count of records formed, and leaves the count of those lost. -/
theorem State.fld_recordFormed (s : State) (f : FaultIn) (hc : f.cls < 16) :
    (s.recordFormed f).fld (Reg.fltLost f.cls) 63 32 = satAdd 32 (s.fld (Reg.fltLost f.cls) 63 32) 1 ∧
    (s.recordFormed f).fld (Reg.fltLost f.cls) 31 0 = s.fld (Reg.fltLost f.cls) 31 0 := by
  obtain ⟨-, hseq, -, -⟩ := Reg.fltLost_apart hc
  constructor
  · rw [State.fld_ofFormed, State.fld_bump_same _ _ _ _ _ (by decide) (by decide), State.fld_put_other _ _ _ _ _ _ _ _ hseq]
  · rw [State.fld_ofFormed, State.fld_bump_apart _ _ _ _ _ _ _ (by decide) (by decide) (by decide) (Or.inl (by decide)),
      State.fld_put_other _ _ _ _ _ _ _ _ hseq]

/-- A record formed, whatever the queue holds: it takes the next number, and the head stays. -/
theorem State.formOne_numbers (s : State) (f : FaultIn) (hc : f.cls < 16) :
    (s.formOne f).fld Reg.fltSeq 31 0 = (s.fld Reg.fltSeq 31 0 + 1) % 2 ^ 32 ∧
    (s.formOne f).fld Reg.fltQhead 31 0 = s.fld Reg.fltQhead 31 0 := by
  obtain ⟨-, hseq, -, hhead⟩ := Reg.fltLost_apart hc
  constructor
  · rw [State.fld_of_rd (s.rd_formOne f ⟨by decide, by decide, by decide⟩ (by decide)),
      State.fld_of_rd (s.rd_recordPlaced f (by decide) (by decide) hseq.symm (by decide)), State.fld_ofFormed,
      State.fld_bump_other _ _ _ _ _ _ _ _ hseq.symm, State.fld_put_same _ _ _ _ _ (by decide) (by decide)]
  · rw [State.fld_of_rd (s.rd_formOne f ⟨by decide, by decide, by decide⟩ (by decide)),
      State.fld_of_rd (s.rd_recordPlaced f (by decide) (by decide) hhead.symm (by decide)),
      State.fld_of_rd (s.rd_recordFormed f (by decide) hhead.symm)]

/-- FLT_STAT and FLT_QTAIL as the record's number leaves them. -/
theorem State.rd_recordFormed_stat (s : State) (f : FaultIn) (hc : f.cls < 16) :
    (s.recordFormed f).rd Reg.fltStat = s.rd Reg.fltStat ∧ (s.recordFormed f).rd Reg.fltQtail = s.rd Reg.fltQtail := by
  obtain ⟨hstat, -, htail, -⟩ := Reg.fltLost_apart hc
  exact ⟨s.rd_recordFormed f (by decide) hstat.symm, s.rd_recordFormed f (by decide) htail.symm⟩

/-- The counts of the record's class are those of its place in the queue. -/
theorem State.fld_formOne_lost (s : State) (f : FaultIn) (hc : f.cls < 16) (h l : Nat) :
    (s.formOne f).fld (Reg.fltLost f.cls) h l = (s.recordPlaced f).fld (Reg.fltLost f.cls) h l :=
  State.fld_of_rd (s.rd_formOne f (Reg.offEscalation_fltLost hc) (Reg.fltLost_apart hc).1) h l

theorem State.formOne_counts (s : State) (f : FaultIn) (hc : f.cls < 16) :
    (s.formOne f).fld (Reg.fltLost f.cls) 63 32 = satAdd 32 (s.fld (Reg.fltLost f.cls) 63 32) 1 := by
  obtain ⟨hstat, -, htail, -⟩ := Reg.fltLost_apart hc
  rw [s.fld_formOne_lost f hc, ← (s.fld_recordFormed f hc).1]
  cases h : s.queueFull with
  | true => rw [s.recordPlaced_full f h, State.fld_recordLost _ _ hc, State.fld_bump_apart _ _ _ _ _ _ _ (by decide) (by decide) (by decide) (Or.inr (by decide))]
  | false =>
    obtain ⟨fills, hp⟩ := s.recordPlaced_room f h
    rw [hp, State.fld_of_rd (State.rd_recordQueued _ _ _ _ hstat htail (fun i _ => ?_))]
    unfold Reg.fltLost Reg.fltQ
    omega

/-- With room, the record's words enter the slot at the tail and the tail advances; no other slot, count of lost records or OVF changes (R574). -/
theorem State.formOne_room (s : State) (f : FaultIn) (hc : f.cls < 16) (h : s.queueFull = false) :
    (∀ i, i < 8 → (s.formOne f).rd (Reg.fltQ (s.fld Reg.fltQtail 31 0 % 4096) i) = (recordWords f (s.fld Reg.fltSeq 31 0) s.ns s.beat).getD i 0) ∧
    (s.formOne f).fld Reg.fltQtail 31 0 = (s.fld Reg.fltQtail 31 0 + 1) % 2 ^ 32 ∧
    (∀ k i, k < 4096 → i < 8 → k ≠ s.fld Reg.fltQtail 31 0 % 4096 → (s.formOne f).rd (Reg.fltQ k i) = s.rd (Reg.fltQ k i)) ∧
    (s.formOne f).fld (Reg.fltLost f.cls) 31 0 = s.fld (Reg.fltLost f.cls) 31 0 ∧ (s.formOne f).flag Reg.fltStat 0 = s.flag Reg.fltStat 0 := by
  obtain ⟨hstat, -, htail, -⟩ := Reg.fltLost_apart hc
  obtain ⟨fills, hp⟩ := s.recordPlaced_room f h
  have hlen := recordWords_length f (s.fld Reg.fltSeq 31 0) s.ns s.beat
  refine ⟨fun i hi => ?_, ?_, fun k i hk hi hne => ?_, ?_, ?_⟩
  · obtain ⟨h1, -, h3, -⟩ := Reg.fltQ_apart (s.fld Reg.fltQtail 31 0 % 4096) i hc
    rw [s.rd_formOne f (Reg.offEscalation_fltQ (Nat.mod_lt _ (by decide)) hi) h1, hp]
    unfold State.recordQueued
    rw [State.rd_putBit_other _ _ _ _ _ h1, State.rd_put_other _ _ _ _ _ _ h3]
    exact State.rd_wrRun _ _ _ i (by omega)
  · rw [State.fld_of_rd (s.rd_formOne f ⟨by decide, by decide, by decide⟩ (by decide)), hp]
    unfold State.recordQueued
    rw [State.fld_putBit_other _ _ _ _ _ _ _ (by decide), State.fld_put_same _ _ _ _ _ (by decide) (by decide)]
  · obtain ⟨h1, h2, h3, h4⟩ := Reg.fltQ_apart k i hc
    rw [s.rd_formOne f (Reg.offEscalation_fltQ hk hi) h1, hp, State.rd_recordQueued _ _ _ _ h1 h3 (fun j hj => ?_), s.rd_recordFormed f h2 h4]
    unfold Reg.fltQ
    omega
  · rw [s.fld_formOne_lost f hc, hp, State.fld_of_rd (State.rd_recordQueued _ _ _ _ hstat htail (fun i _ => ?_)), (s.fld_recordFormed f hc).2]
    unfold Reg.fltLost Reg.fltQ
    omega
  · refine State.flag_of_fld ?_
    rw [s.fld_formOne f (le_refl _) (Or.inl (by decide)), hp]
    unfold State.recordQueued
    rw [State.fld_putBit_apart _ _ _ _ _ _ (by decide) (by decide) (Or.inl (by decide)), State.fld_put_other _ _ _ _ _ _ _ _ (by decide),
      State.fld_of_rd (State.rd_wrRun_apart _ _ _ _ (fun i _ => ?_)), State.fld_of_rd (s.rd_recordFormed_stat f hc).1]
    unfold Reg.fltStat Reg.fltQ
    omega

/-- In a full ring the queue is as before and the record counts as lost; OVF, FIRSTLOST and FIRSTSEQ hold the first such record (R576). -/
theorem State.formOne_full (s : State) (f : FaultIn) (hc : f.cls < 16) (h : s.queueFull = true) :
    (∀ k i, k < 4096 → i < 8 → (s.formOne f).rd (Reg.fltQ k i) = s.rd (Reg.fltQ k i)) ∧
    (s.formOne f).fld Reg.fltQtail 31 0 = s.fld Reg.fltQtail 31 0 ∧
    (s.formOne f).fld (Reg.fltLost f.cls) 31 0 = satAdd 32 (s.fld (Reg.fltLost f.cls) 31 0) 1 ∧ (s.formOne f).flag Reg.fltStat 0 = true ∧
    (s.flag Reg.fltStat 0 = false → (s.formOne f).fld Reg.fltStat 31 28 = f.cls ∧ (s.formOne f).fld Reg.fltStat 63 32 = s.fld Reg.fltSeq 31 0) ∧
    (s.flag Reg.fltStat 0 = true → (s.formOne f).fld Reg.fltStat 31 28 = s.fld Reg.fltStat 31 28 ∧
      (s.formOne f).fld Reg.fltStat 63 32 = s.fld Reg.fltStat 63 32) := by
  obtain ⟨hstat, -, htail, -⟩ := Reg.fltLost_apart hc
  have hp := s.recordPlaced_full f h
  have hst := (s.rd_recordFormed_stat f hc).1
  refine ⟨fun k i hk hi => ?_, ?_, ?_, ?_, fun hovf => ?_, fun hovf => ?_⟩
  · obtain ⟨h1, h2, -, h4⟩ := Reg.fltQ_apart k i hc
    rw [s.rd_formOne f (Reg.offEscalation_fltQ hk hi) h1, hp, State.rd_recordLost _ _ _ h1 h4, s.rd_recordFormed f h2 h4]
  · rw [State.fld_of_rd (s.rd_formOne f ⟨by decide, by decide, by decide⟩ (by decide)), hp,
      State.fld_of_rd (State.rd_recordLost _ _ _ (by decide) htail.symm), State.fld_of_rd (s.rd_recordFormed_stat f hc).2]
  · rw [s.fld_formOne_lost f hc, hp, State.fld_recordLost _ _ hc, State.fld_bump_same _ _ _ _ _ (by decide) (by decide), (s.fld_recordFormed f hc).2]
  · refine Eq.trans (State.flag_of_fld ((s.fld_formOne f (le_refl _) (Or.inl (by decide))).trans (by rw [hp]))) ?_
    cases hovf : (s.recordFormed f).flag Reg.fltStat 0 with
    | false => exact (State.recordLost_first _ hc _ hovf).1
    | true => rw [State.flag_of_rd (State.recordLost_again _ _ _ hovf), hovf]
  · obtain ⟨-, hcls, hseq⟩ := State.recordLost_first (s.recordFormed f) hc (s.fld Reg.fltSeq 31 0) ((State.flag_of_rd hst 0).trans hovf)
    rw [s.fld_formOne f (by decide) (Or.inr (by decide)), s.fld_formOne f (by decide) (Or.inr (by decide)), hp, hcls, hseq]
    exact ⟨rfl, Nat.mod_eq_of_lt (bits_lt _ 31 0)⟩
  · have hsame := State.recordLost_again (s.recordFormed f) f.cls (s.fld Reg.fltSeq 31 0) ((State.flag_of_rd hst 0).trans hovf)
    rw [s.fld_formOne f (by decide) (Or.inr (by decide)), s.fld_formOne f (by decide) (Or.inr (by decide)), hp]
    exact ⟨State.fld_of_rd (hsame.trans hst) _ _, State.fld_of_rd (hsame.trans hst) _ _⟩

/-! ### Writes to FLT_QHEAD and OVF (R575, R576) -/

section
variable {ag : Agent} (s : State) (hag : Who.barRigCore.admits ag = true)
include hag

theorem execFltQhead_taken {h : BitVec 32} (hle : ahead h.toNat (s.fld Reg.fltQhead 31 0) ≤ ahead (s.fld Reg.fltQtail 31 0) (s.fld Reg.fltQhead 31 0)) :
    execFltQhead ag h s = .next ((s.put Reg.fltQhead 31 0 h.toNat).putBit Reg.fltStat 1 (s.put Reg.fltQhead 31 0 h.toNat).queueFull) := by
  unfold execFltQhead
  rw [if_pos hag]
  exact if_pos hle

theorem execFltQhead_beyond {h : BitVec 32} (hlt : ahead (s.fld Reg.fltQtail 31 0) (s.fld Reg.fltQhead 31 0) < ahead h.toNat (s.fld Reg.fltQhead 31 0)) :
    execFltQhead ag h s = .next (s.putBit Reg.fltStat 3 true) := by
  unfold execFltQhead
  rw [if_pos hag]
  exact if_neg (Nat.not_le_of_lt hlt)

theorem execOvfClear_clears :
    execOvfClear ag s = .next (((s.putBit Reg.fltStat 0 false).put Reg.fltStat 31 28 0).put Reg.fltStat 63 32 0) := if_pos hag

end

theorem regsOnly.put {s t : State} {as : List Nat} (h : regsOnly s t as) {a : Nat} (ha : a ∈ as) (hi lo v : Nat) : regsOnly s (t.put a hi lo v) as :=
  h.wr ha _

theorem regsOnly.putBit {s t : State} {as : List Nat} (h : regsOnly s t as) {a : Nat} (ha : a ∈ as) (i : Nat) (b : Bool) : regsOnly s (t.putBit a i b) as :=
  h.wr ha _

/-- Whether the ring is full is told by FLT_QHEAD and FLT_QTAIL. -/
theorem State.queueFull_of_rd {s t : State} (h1 : t.rd Reg.fltQtail = s.rd Reg.fltQtail) (h2 : t.rd Reg.fltQhead = s.rd Reg.fltQhead) :
    t.queueFull = s.queueFull := by
  unfold State.queueFull
  rw [State.fld_of_rd h1, State.fld_of_rd h2]

/-- Settles O56: a record by its stages, and the two writes by what each stores. -/
theorem faultQueueRule : Obligations.FaultQueueRule := by
  refine ⟨?records, fun ag h s hag => ⟨fun hle => ?taken, fun hlt => ?beyond, ?cleared⟩⟩
  case records =>
    rintro s t f seq tail ws rfl rfl rfl rfl hc
    obtain ⟨hseq, hhead⟩ := s.formOne_numbers f hc
    exact ⟨hseq, s.formOne_counts f hc, hhead, s.keep_formOne f, s.formOne_room f hc, s.formOne_full f hc⟩
  case taken =>
    refine ⟨_, execFltQhead_taken s hag hle, ?_, ?_, ?_, ?_⟩
    · rw [State.fld_putBit_other _ _ _ _ _ _ _ (by decide), State.fld_put_same _ _ _ _ _ (by decide) (by decide)]
      exact Nat.mod_eq_of_lt h.isLt
    · rw [State.flag_putBit_same _ _ _ _ (by decide)]
      exact (State.queueFull_of_rd (State.rd_putBit_other _ _ _ _ _ (by decide)) (State.rd_putBit_other _ _ _ _ _ (by decide))).symm
    · rw [State.fld_putBit_apart _ _ _ _ _ _ (by decide) (by decide) (Or.inr (by decide)), State.fld_put_other _ _ _ _ _ _ _ _ (by decide)]
    · exact ((regsOnly_refl s _).put (by decide) _ _ _).putBit (by decide) _ _
  case beyond =>
    exact ⟨_, execFltQhead_beyond s hag hlt, State.flag_putBit_same _ _ _ _ (by decide),
      State.fld_putBit_apart _ _ _ _ _ _ (by decide) (by decide) (Or.inl (by decide)),
      State.fld_putBit_apart _ _ _ _ _ _ (by decide) (by decide) (Or.inr (by decide)), s.putBit_regsOnly _ _ _⟩
  case cleared =>
    refine ⟨_, execOvfClear_clears s hag, ?_, ?_, State.fld_put_same _ _ _ _ _ (by decide) (by decide), ?_, ?_⟩
    · rw [State.flag_put_apart _ _ _ _ _ _ (by decide) (by decide) (Or.inl (by decide)),
        State.flag_put_apart _ _ _ _ _ _ (by decide) (by decide) (Or.inl (by decide)), State.flag_putBit_same _ _ _ _ (by decide)]
    · rw [State.fld_put_apart _ _ _ _ _ _ _ (by decide) (by decide) (by decide) (Or.inl (by decide)), State.fld_put_same _ _ _ _ _ (by decide) (by decide)]
      rfl
    · rw [State.fld_put_apart _ _ _ _ _ _ _ (by decide) (by decide) (by decide) (Or.inl (by decide)),
        State.fld_put_apart _ _ _ _ _ _ _ (by decide) (by decide) (by decide) (Or.inl (by decide)),
        State.fld_putBit_apart _ _ _ _ _ _ (by decide) (by decide) (Or.inr (by decide))]
    · exact (((regsOnly_refl s _).putBit (by decide) _ _).put (by decide) _ _ _).put (by decide) _ _ _

end Sys2Proof.Machine
end

section
/-! Module reset (R547, R548, R550): what RSC_CAUSE and RSC_KEEP hold after one, and each source. -/

namespace Sys2Proof.Machine

/-! ### RSC_CAUSE -/

/-- A bit of the lowest byte of a word put together from its fields. -/
theorem bit_word_low (c x y i : Nat) (h : i < 8) : bit (word [(32, c), (8, x), (0, y)]) i = y.testBit i := by
  have hw : (word [(32, c), (8, x), (0, y)]).toNat = (c * 2 ^ 32 + x * 2 ^ 8 + y) % 2 ^ 64 := by
    simp [word]
  have hy : (c * 2 ^ 32 + x * 2 ^ 8 + y) % 2 ^ 64 / 2 ^ i % 2 = y / 2 ^ i % 2 := by
    interval_cases i <;> omega
  unfold bit bits
  rw [hw, Nat.add_sub_cancel_left, pow_one, hy, Nat.testBit_eq_decide_div_mod_eq]
  rfl

/-- The source is named among the causes. -/
theorem State.causeWord_names (s : State) (code : Nat) (h1 : 1 ≤ code) (h8 : code ≤ 8) : bit (s.causeWord code) (code - 1) = true := by
  unfold State.causeWord
  dsimp only
  split
  · rw [bit_word_low _ _ _ _ (by omega)]
    change Nat.testBit (_ ||| _) _ = true
    rw [Nat.testBit_or, Nat.testBit_two_pow_self, Bool.or_true]
  · rw [bit_word_low _ _ _ _ (by omega), Nat.testBit_two_pow_self]

/-! ### The state that a reset leaves -/

/-- RSC_KEEP resets to 0. -/
theorem resetWord_rscKeep (i : Nat) (h : i < 128) : resetWord (Reg.rscKeep i) = 0 := by
  have hall : ∀ j : Fin 128, resetWord (Reg.rscKeep j) = 0 := by decide +kernel
  exact hall ⟨i, h⟩

/-- A reset clears the records under POR and SUPPLY alone. -/
def clearsRecords (code : Nat) : Bool := code == 1 || code == 7

theorem clearsRecords_iff (code : Nat) : clearsRecords code = true ↔ code = 1 ∨ code = 7 := by simp [clearsRecords]

/-- What a module reset writes to RSC_KEEP. -/
def State.keptWords (s : State) (code : Nat) : List Word :=
  if clearsRecords code then []
  else if s.start != 0 || bits (s.rd Reg.rscCause) 7 0 == 0 then
    (s.resetRecord code).keep.flatten ++ List.replicate (128 - (s.resetRecord code).keep.flatten.length) 0
  else (List.range 128).map (fun i => (s.resetRecord code).rd (Reg.rscKeep i))

/-- The state of a module that was reset, before RSC_CAUSE and RSC_KEEP are written: memory, control space, ops and records are as at the first start. -/
def State.wipedBy (s : State) (code : Nat) : State :=
  { State.reset with
    pending := (s.resetRecord code).pending, hostMem := (s.resetRecord code).hostMem, fuses := (s.resetRecord code).fuses,
    revokes := (s.resetRecord code).revokes, held := (s.resetRecord code).held, sincePg := (s.resetRecord code).sincePg,
    armed := if clearsRecords code then []
      else (s.resetRecord code).armed.filter (fun (a : Armed) => a.reg == Reg.fltInj && a.kind == 11),
    power := (s.resetRecord code).power, pwrEn := (s.resetRecord code).pwrEn, perst := (s.resetRecord code).perst, mz50 := (s.resetRecord code).mz50,
    powerGood := (s.resetRecord code).powerGood, tripN := (s.resetRecord code).tripN, cooled := (s.resetRecord code).cooled,
    jtag := (s.resetRecord code).jtag, pinHigh := (s.resetRecord code).pinHigh, cagePins := (s.resetRecord code).cagePins,
    free := (s.resetRecord code).free }

theorem State.moduleReset_eq (s : State) (code : Nat) :
    s.moduleReset code = ((s.wipedBy code).wr Reg.rscCause (s.causeWord code)).wrRun (Reg.rscKeep 0) (s.keptWords code) := rfl

theorem State.keptWords_cleared (s : State) {code : Nat} (h : code = 1 ∨ code = 7) : s.keptWords code = [] :=
  if_pos ((clearsRecords_iff code).2 h)

/-- The first reset of a run keeps its last records, filled up with zeros. -/
theorem State.keptWords_fresh (s : State) {code : Nat} (h1 : code ≠ 1) (h7 : code ≠ 7) (hs : s.start ≠ 0) : s.keptWords code =
    (s.resetRecord code).keep.flatten ++ List.replicate (128 - (s.resetRecord code).keep.flatten.length) 0 := by
  unfold State.keptWords
  rw [if_neg (fun h => ((clearsRecords_iff code).1 h).elim h1 h7), if_pos (by simp [hs])]

/-- The ring of the last records fills no more than RSC_KEEP. -/
theorem State.keep_flatten_length (s : State) (h : s.sound) : s.keep.flatten.length ≤ 128 := by
  obtain ⟨-, -, -, hlen, heach⟩ := h
  have hsum : ∀ k : List (List Word), (∀ r ∈ k, r.length = 8) → k.flatten.length = 8 * k.length := by
    intro k hk
    induction k with
    | nil => rfl
    | cons r k ih =>
      rw [List.flatten_cons, List.length_append, hk r (List.mem_cons_self ..), ih (fun x hx => hk x (List.mem_cons_of_mem _ hx)), List.length_cons]
      omega
  rw [hsum _ heach]
  omega

theorem State.keptWords_length (s : State) (code : Nat) (h : s.sound) : (s.keptWords code).length ≤ 128 := by
  have hk := (s.resetRecord code).keep_flatten_length ((State.resetRecord_keeps s code).sound h)
  unfold State.keptWords
  split
  · exact Nat.zero_le _
  · split
    · rw [List.length_append, List.length_replicate]
      omega
    · rw [List.length_map, List.length_range]

/-- Other registers than RSC_CAUSE and RSC_KEEP have their reset values. -/
theorem State.rd_moduleReset (s : State) (code : Nat) (hs : s.sound) {a : Nat} (h1 : a ≠ Reg.rscCause) (h2 : ∀ i, i < 128 → a ≠ Reg.rscKeep i) :
    (s.moduleReset code).rd a = State.reset.rd a := by
  have hlen := s.keptWords_length code hs
  have hrun := State.rd_wrRun_apart ((s.wipedBy code).wr Reg.rscCause (s.causeWord code)) (Reg.rscKeep 0) a (s.keptWords code)
    (fun i hi => h2 i (by omega))
  rw [State.moduleReset_eq, hrun, State.rd_wr_other _ _ _ _ h1]
  rfl

theorem State.rd_moduleReset_cause (s : State) (code : Nat) : (s.moduleReset code).rd Reg.rscCause = s.causeWord code := by
  rw [State.moduleReset_eq, State.rd_wrRun_apart, State.rd_wr_same]
  intro i _
  unfold Reg.rscCause Reg.rscKeep
  omega

/-- RSC_KEEP after a reset. -/
theorem State.rd_moduleReset_keep (s : State) (code i : Nat) (hi : i < 128) :
    (s.moduleReset code).rd (Reg.rscKeep i) = (s.keptWords code).getD i 0 := by
  have hk : Reg.rscKeep i = Reg.rscKeep 0 + 8 * i := rfl
  rw [State.moduleReset_eq]
  by_cases h : i < (s.keptWords code).length
  · rw [hk, State.rd_wrRun _ _ _ _ h]
  · rw [State.rd_wrRun_apart _ _ _ _ (fun j hj => ?_), State.rd_wr_other _ _ _ _ ?_, List.getD_eq_default _ _ (Nat.le_of_not_lt h)]
    · exact resetWord_rscKeep i hi
    · unfold Reg.rscKeep Reg.rscCause
      omega
    · unfold Reg.rscKeep
      omega

/-- The fields that are not control space are those of the state before RSC_CAUSE and RSC_KEEP are written. -/
theorem State.moduleReset_frame (s : State) (code : Nat) : ∃ r, s.moduleReset code = { s.wipedBy code with regs := r } := by
  rw [State.moduleReset_eq]
  obtain ⟨⟨r, h, -⟩, -⟩ := State.wrRun_frame (s.keptWords code) ((s.wipedBy code).wr Reg.rscCause (s.causeWord code)) (Reg.rscKeep 0)
  exact ⟨r, h⟩

/-- Only the injection of the reset's own kind stays armed, and not under POR or SUPPLY. -/
theorem State.mem_armed_moduleReset (s : State) {code : Nat} {x : Armed} (hx : x ∈ (s.moduleReset code).armed) :
    code ≠ 1 ∧ code ≠ 7 ∧ x ∈ s.armed ∧ x.reg = Reg.fltInj ∧ x.kind = 11 := by
  obtain ⟨r, h⟩ := s.moduleReset_frame code
  have harm : (s.resetRecord code).armed = s.armed := by
    unfold State.resetRecord
    split <;> rfl
  rw [h] at hx
  have hx' : x ∈ if clearsRecords code then [] else (s.resetRecord code).armed.filter (fun (a : Armed) => a.reg == Reg.fltInj && a.kind == 11) := hx
  by_cases hc : clearsRecords code = true
  · rw [if_pos hc] at hx'
    cases hx'
  · rw [if_neg hc, List.mem_filter, harm] at hx'
    obtain ⟨hm, hk⟩ := hx'
    have hcode := (not_congr (clearsRecords_iff code)).1 hc
    simp only [Bool.and_eq_true, beq_iff_eq] at hk
    exact ⟨fun e => hcode (Or.inl e), fun e => hcode (Or.inr e), hm, hk⟩

theorem State.start_moduleReset (s : State) (code : Nat) (hs : s.sound) : (s.moduleReset code).start = 0 := by
  have hrd := s.rd_moduleReset code hs (a := Reg.rscStat) (by decide) (fun i _ => by unfold Reg.rscStat Reg.rscKeep; omega)
  unfold State.start
  rw [State.fld_of_rd hrd]
  decide +kernel

/-! ### The sources (R547) -/

/-- Settles O52: the state that a reset leaves, and each source with its condition. -/
theorem moduleResetRule : Obligations.ModuleResetRule := by
  refine ⟨fun s code hs h1 h8 => ?state, fun s => ?sources⟩
  case state =>
    obtain ⟨r, h⟩ := s.moduleReset_frame code
    have hpend : (s.resetRecord code).pending = s.pending := (State.resetRecord_keeps s code).pending
    refine ⟨_, rfl, by rw [h]; rfl, by rw [h]; rfl, by rw [h]; rfl, by rw [h]; rfl, by rw [h]; exact hpend, s.start_moduleReset code hs,
      s.rd_moduleReset_cause code, ?_, ?_, ?_, fun a => s.rd_moduleReset code hs, fun x => s.mem_armed_moduleReset⟩
    · rw [s.rd_moduleReset_cause code]
      exact s.causeWord_names code h1 h8
    · intro hc i hi
      rw [s.rd_moduleReset_keep code i hi, s.keptWords_cleared hc]
      rfl
    · intro hc1 hc7 hst i hi
      rw [s.rd_moduleReset_keep code i hi, s.keptWords_fresh hc1 hc7 hst]
      by_cases hl : i < (s.resetRecord code).keep.flatten.length
      · rw [List.getD_append _ _ _ _ hl]
      · rw [List.getD_append_right _ _ _ _ (Nat.le_of_not_lt hl), List.getD_replicate, List.getD_eq_default _ _ (Nat.le_of_not_lt hl)]
        omega
  case sources =>
    refine ⟨fun h => if_pos h, rfl, ⟨_, rfl, rfl, rfl, rfl⟩, fun ag v hag ha5 h0 => ?_, fun hon hdue => ?_, fun h => if_pos h, rfl, ⟨_, rfl, rfl, rfl, rfl⟩, rfl,
      fun hon hpg => if_pos ⟨hon, hpg⟩, fun h => if_neg (fun hn => ?_), fun h => if_pos h⟩
    · exact if_pos (by rw [hag, ha5, h0]; rfl)
    · exact if_pos (by simp only [hon, Bool.true_and, Bool.or_eq_true, bne_iff_ne, decide_eq_true_eq]; exact hdue)
    · rcases h with h | h
      · exact h hn.1
      · rw [hn.2] at h
        cases h

end Sys2Proof.Machine
end

section
/-! Errors of the coherent domain: a cache's own (R425, R426), and the domain's failure and return (R413, R428 to R431, Table 13.7). -/

namespace Sys2Proof.Machine

/-! ### Cache errors -/

/-- An error of a held copy takes its detector's injection and follows its rule. -/
theorem execCoreEcc_held {core addr : Nat} {two inj : Bool} {s u : State} {l : Line} {c : Copy} (hl : s.line addr = some l) (hc : l.copyOf core = some c)
    (ht : s.takeCd (if !two then 1 else if core = 64 then 3 else 2) (core % 64) = (inj, u)) :
    execCoreEcc core addr two s = .next (u.copyEcc l c core addr two inj) := by
  simp only [execCoreEcc, hl, hc, ht]

theorem State.copyEcc_dirty (u : State) (l : Line) {c : Copy} (core addr : Nat) (inj : Bool) (hd : c.isDirty = true) :
    u.copyEcc l c core addr true inj =
      (((u.setLine addr (some { l with copies := l.copies.map (fun (x : Copy) => if x.core = core then { x with poison := true } else x) })).bump
        Reg.cderr 47 32 1).detect
          { cls := 4, sev := 2, rtype := 0, det := 0x51, inj := inj, dom := 5, inst := 0, addr := addr / 64 * 64, info := core }).resolve 5 0 8 0 := by
  unfold State.copyEcc
  rw [if_neg (by decide), if_neg (by rw [show (c.st == .m || c.st == .o) = true from hd]; decide)]

theorem State.copyEcc_clean (u : State) (l : Line) {c : Copy} (core addr : Nat) (inj : Bool) (hd : c.isDirty = false) :
    u.copyEcc l c core addr true inj = u.setLine addr (if (l.copies.filter (fun x => x.core != core)).isEmpty then none
      else some { l with copies := l.copies.filter (fun x => x.core != core) }) := by
  unfold State.copyEcc
  rw [if_neg (by decide), if_pos (by rw [show (c.st == .m || c.st == .o) = false from hd]; rfl)]

theorem Copy.isDirty_iff (c : Copy) : c.isDirty = true ↔ c.st = .m ∨ c.st = .o := by
  unfold Copy.isDirty
  simp

theorem Copy.isDirty_eq_false (c : Copy) (h : c.st = .e ∨ c.st = .s) : c.isDirty = false := by
  unfold Copy.isDirty
  rcases h with h | h <;> rw [h] <;> rfl

/-- Settles O44: the checks by what they find. The RESOLVE record LOST that follows DET 0x51 is the model's (log entry 94). -/
theorem cacheErrorRule : Obligations.CacheErrorRule := by
  intro core addr s u l c inj hl hc
  refine ⟨fun ht => execCoreEcc_held hl hc ht, fun ht hd => ⟨_, rfl, ?_⟩, fun ht hcl => ?_, fun hrun hmain hpoison => ?_⟩
  · exact (execCoreEcc_held (two := true) hl hc ht).trans (congrArg Host.Outcome.next (u.copyEcc_dirty l core addr inj (c.isDirty_iff.2 hd)))
  · exact (execCoreEcc_held (two := true) hl hc ht).trans (congrArg Host.Outcome.next (u.copyEcc_clean l core addr inj (c.isDirty_eq_false hcl)))
  · exact if_pos (by rw [hrun, hmain, hpoison]; rfl)

/-! ### The domain's failure and return -/

theorem State.fld_parkedWith (s : State) (rs : List Nat) (a hi lo : Nat) :
    ({ s with parked := true, reverted := rs, lr := [] } : State).fld a hi lo = s.fld a hi lo := rfl

/-- A domain that is DOWN, once its engines are parked. -/
theorem execEnginesParked_down {s : State} (h : s.fld Reg.cdstat 1 0 = 1) : ∃ t, execEnginesParked false s = .next t ∧ t.fld Reg.cdstat 1 0 = 2 ∧
    t.parked = true ∧ t.lr = [] := by
  unfold execEnginesParked
  rw [if_neg (by rw [h]; decide)]
  refine ⟨_, rfl, ?_, rfl, rfl⟩
  rw [State.fld_parkedWith, State.fld_wr_other _ _ _ _ _ _ (by decide), State.fld_put_same _ _ _ _ _ (by decide) (by decide)]
  rfl

theorem execRecoveryComplete_recovering {s : State} (h : s.fld Reg.cdstat 1 0 = 2) : execRecoveryComplete s = .next
    (State.resolve { ((s.domainDown s.ops).put Reg.cdstat 1 0 3) with parked := false, downOps := [], reverted := [] } 5 0 7 0) :=
  if_neg (by rw [h]; decide)

/-! ### RELEASE (R431) -/

/-- A key reads the value listed for it, or the default. -/
theorem Tab.get_mem_or_default {α : Type} (d : Nat → α) (t : Tab α) (k : Nat) : (k, Tab.get d t k) ∈ t ∨ Tab.get d t k = d k := by
  induction t with
  | nil => exact Or.inr rfl
  | cons p t ih =>
    obtain ⟨j, v⟩ := p
    unfold Tab.get
    split
    · rename_i h
      exact Or.inl (h ▸ List.mem_cons_self ..)
    · split
      · exact Or.inr rfl
      · exact ih.imp_left (List.mem_cons_of_mem _)

/-- No row of the register map holds an address outside its run. -/
theorem rowAt_none (a : Nat) (rs : List RegRow) (h : ∀ r ∈ rs, 0 < r.stride ∧ (a < r.base ∨ r.base + r.stride * r.count ≤ a)) : rowAt a rs = none := by
  induction rs with
  | nil => rfl
  | cons r rs ih =>
    obtain ⟨hstride, hr⟩ := h r (List.mem_cons_self ..)
    unfold rowAt
    rw [if_neg, ih (fun x hx => h x (List.mem_cons_of_mem _ hx))]
    rintro ⟨hbase, -, hcount⟩
    have hlt := (Nat.div_lt_iff_lt_mul hstride).1 hcount
    rw [Nat.mul_comm] at hlt
    omega

/-- The entries of the translation table reset to 0. -/
theorem resetWord_tirMap {g : Nat} (h : g < 2 ^ 20) : resetWord (Reg.tirMap g) = 0 := by
  have hout : ∀ r ∈ regMap, 0 < r.stride ∧ (0x0F0004800000 ≤ r.base ∨ r.base + r.stride * r.count ≤ 0x0F0004000000) := by decide
  have hrow : rowAt (Reg.tirMap g) regMap = none := rowAt_none _ _ (fun r hr => by
    obtain ⟨hstride, hr⟩ := hout r hr
    unfold Reg.tirMap
    exact ⟨hstride, by omega⟩)
  unfold resetWord
  rw [hrow]

/-- A group's HELD bit cleared. -/
def State.clearHeldBit (s : State) (g : Nat) : State := s.setTir g (putBits (s.tir g) 59 59 0)

theorem Reg.tirMap_injective {g k : Nat} (h : Reg.tirMap g = Reg.tirMap k) : g = k := by
  unfold Reg.tirMap at h
  omega

theorem State.held_clearHeldBit (s : State) (k g : Nat) : bit ((s.clearHeldBit k).tir g) 59 = if g = k then false else bit (s.tir g) 59 := by
  unfold State.clearHeldBit State.setTir State.tir
  by_cases h : g = k
  · subst h
    rw [if_pos rfl, State.rd_wr_same]
    exact bit_putBits_same _ 59 false (by decide)
  · rw [if_neg h, State.rd_wr_other _ _ _ _ (fun e => h (Reg.tirMap_injective e))]

theorem State.held_clearHeldBits (gs : List Nat) (s : State) (g : Nat) :
    bit ((gs.foldl (fun s k => s.clearHeldBit k) s).tir g) 59 = if g ∈ gs then false else bit (s.tir g) 59 := by
  induction gs generalizing s with
  | nil => rfl
  | cons k gs ih =>
    rw [List.foldl_cons, ih, State.held_clearHeldBit]
    by_cases h1 : g ∈ gs
    · simp [h1]
    · simp [h1]

theorem State.clearHeldBits_frame (gs : List Nat) (s : State) : ∃ r, gs.foldl (fun s k => s.clearHeldBit k) s = { s with regs := r } := by
  induction gs generalizing s with
  | nil => exact ⟨s.regs, rfl⟩
  | cons k gs ih =>
    obtain ⟨r, h⟩ := ih (s.clearHeldBit k)
    exact ⟨r, h⟩

/-- The groups whose HELD bit is set. -/
def State.heldGroups (s : State) : List Nat := (s.tirEntries.filter (fun e => bit e.2 59)).map Prod.fst

theorem State.mem_heldGroups (s : State) {g : Nat} (hg : g < 2 ^ 20) (h : bit (s.tir g) 59 = true) : g ∈ s.heldGroups := by
  have hmem : (Reg.tirMap g, s.tir g) ∈ s.regs := by
    refine (Tab.get_mem_or_default resetWord s.regs (Reg.tirMap g)).resolve_right (fun hd => ?_)
    rw [show s.tir g = 0 from hd.trans (resetWord_tirMap hg)] at h
    exact absurd h (by decide)
  have hent : (g, s.tir g) ∈ s.tirEntries := by
    refine List.mem_map.2 ⟨_, List.mem_filter.2 ⟨hmem, ?_⟩, ?_⟩
    · unfold Reg.tirMap
      simp only [Bool.and_eq_true, decide_eq_true_eq]
      omega
    · unfold Reg.tirMap
      simp only [Prod.mk.injEq, and_true]
      omega
  exact List.mem_map.2 ⟨_, List.mem_filter.2 ⟨hent, h⟩, rfl⟩

theorem execRelease_held {ag : Agent} {s : State} (hag : Who.barRig.admits ag = true) (h : s.fld Reg.cdstat 1 0 = 3) : execRelease ag s =
    .next ((s.heldGroups.foldl (fun t g => State.clearHeldBit t g) { s with dirLines := [], lr := [] }).put Reg.cdstat 1 0 0) :=
  if_pos (by rw [hag, h]; rfl)

/-- RELEASE lets a HELD domain run: no copy, reservation or HELD group is left. -/
theorem execRelease_releases {ag : Agent} {s : State} (hag : Who.barRig.admits ag = true) (h : s.fld Reg.cdstat 1 0 = 3) :
    ∃ t, execRelease ag s = .next t ∧ t.fld Reg.cdstat 1 0 = 0 ∧ t.dirLines = [] ∧ t.lr = [] ∧
      { t with dirLines := s.dirLines, lr := s.lr, regs := s.regs } = s ∧ (s.sound → ∀ g, g < 2 ^ 20 → bit (t.tir g) 59 = false) := by
  obtain ⟨r, hr⟩ := State.clearHeldBits_frame s.heldGroups { s with dirLines := [], lr := [] }
  refine ⟨_, execRelease_held hag h, State.fld_put_same _ _ _ _ _ (by decide) (by decide), by rw [hr]; rfl, by rw [hr]; rfl, by rw [hr]; rfl, fun _ g hg => ?_⟩
  have hne : Reg.tirMap g ≠ Reg.cdstat := by
    unfold Reg.tirMap Reg.cdstat
    omega
  unfold State.tir
  rw [State.rd_put_other _ _ _ _ _ _ hne]
  have hheld := State.held_clearHeldBits s.heldGroups { s with dirLines := [], lr := [] } g
  rw [show State.rd _ (Reg.tirMap g) = State.tir _ g from rfl, hheld]
  by_cases hm : g ∈ s.heldGroups
  · exact if_pos hm
  · rw [if_neg hm]
    exact Bool.eq_false_iff.2 (fun ht => hm (s.mem_heldGroups hg ht))

/-- Settles O45: the domain's states in the order of Table 13.7. -/
theorem domainFailsAndReturns : Obligations.DomainFailsAndReturns := fun _ _ =>
  ⟨fun h => if_pos h, rfl, execEnginesParked_down, fun h => ⟨_, rfl, execRecoveryComplete_recovering h⟩, fun _ => execRelease_releases⟩

end Sys2Proof.Machine
end

section
/-! Groups placed, moved and released (R448, R450, R451, R453, Table 14.6). -/

namespace Sys2Proof.Machine

/-- A first write of a started op places its group (R448). -/
theorem execFirstWrite_places {q sn role group : Nat} {s t : State} {o : OpRec} {x : Obj} (ho : s.op? q sn = some o) (hx : o.obj role = some x)
    (hst : o.phase = .started) (hf : o.failing = none) (hw : o.writes role = true) (hg : (x.groups 0 x.size).contains group = true)
    (hun : bit (s.tir group) 63 = false) (hp : s.placeGroup group (o.wr x (role == 3)) = .ok t) : execFirstWrite q sn role group s = .next t := by
  unfold execFirstWrite
  simp only [ho, hx]
  rw [if_pos ⟨hst, hf, hw, hg, hun⟩, hp]

/-- One bit of a group's entry written. -/
theorem State.setTir_bit (s : State) (group i : Nat) (b : Bool) (hi : i < 64) :
    bit ((s.setTir group (putBits (s.tir group) i i (b2n b))).tir group) i = b := by
  unfold State.setTir State.tir
  rw [State.rd_wr_same]
  exact bit_putBits_same _ i b hi

/-- The migrations as a command leaves them: control space apart, nothing else is written. -/
theorem regsOnly_withMigs (s : State) (ms : List MigRec) (g : Nat) (w : Word) :
    regsOnly s { ({ (s.setTir g w) with migs := ms } : State) with migs := s.migs } [Reg.tirMap g] := s.wr_regsOnly (Reg.tirMap g) w

/-- A migration begins where it may (R450). -/
theorem execMigrationStart_begins {group tier stack : Nat} {s : State} (hg : group < 2 ^ 20) (ht : tier < 2) (hs : stack < 16)
    (h63 : bit (s.tir group) 63 = true) (h60 : bit (s.tir group) 60 = false)
    (hhere : (bits (s.tir group) 62 62 == tier && (tier == 1 || bits (s.tir group) 49 46 == stack)) = false) (hmay : s.mayMigrate group tier = true)
    (hroom : s.roomFor group tier stack = true) : execMigrationStart group tier stack s =
      .next { (s.setTir group (putBits (s.tir group) 60 60 (b2n true))) with migs := s.migs ++ [⟨group, tier, stack, List.range 32⟩] } :=
  if_pos ⟨hg, ht, hs, h63, h60, hhere, hmay, hroom⟩

section
variable {group : Nat} {s : State} {m : MigRec} (hm : s.migs.find? (fun m => m.group == group) = some m)
include hm

theorem execMigrationSwitch_switches (hroom : s.roomFor group m.tier m.stack = true) :
    execMigrationSwitch group s = .next (s.moveTo group m.tier m.stack) := by
  unfold execMigrationSwitch
  rw [hm]
  exact if_pos hroom

theorem execMigrationAbandon_abandons : execMigrationAbandon group s =
    .next { (s.setTir group (putBits (s.tir group) 60 60 (b2n false))) with migs := s.migs.filter (fun m => m.group != group) } :=
  if_pos (List.any_eq_true.2 ⟨m, List.mem_of_find?_eq_some hm, List.find?_some hm⟩)

end

/-- Settles O46: each command by its condition. That a switch does the copying that is left in one step is the model's (log entry 96). -/
theorem groupsArePlacedMovedAndReleased : Obligations.GroupsArePlacedMovedAndReleased := by
  refine ⟨fun q sn role group s t o x ho hx hst hf hw hg hun hp => execFirstWrite_places ho hx hst hf hw hg hun hp,
    fun group tier stack s hg ht hs h63 h60 hhere hmay hroom => ⟨_, execMigrationStart_begins hg ht hs h63 h60 hhere hmay hroom, rfl,
      s.setTir_bit group 60 true (by decide), regsOnly_withMigs s _ group _⟩,
    fun group s m hm => ⟨execMigrationSwitch_switches hm, _, execMigrationAbandon_abandons hm, rfl, s.setTir_bit group 60 false (by decide),
      regsOnly_withMigs s _ group _⟩,
    fun ag v s hag h0 hidle => if_pos (by rw [hag, h0, hidle]; rfl),
    fun s => ⟨_, rfl, State.flag_putBit_same _ _ _ _ (by decide), s.putBit_regsOnly _ _ _⟩⟩

end Sys2Proof.Machine
end

section
/-! The intake engine begins rows and items (R466, R471, R480, R489). -/

namespace Sys2Proof.Machine

/-- The op that the engine works on is the one that the queue and serial name. -/
theorem State.intakeOp_eq {q sn u : Nat} {s : State} {o p : OpRec} (ho : s.op? q sn = some o) (hp : s.intakeOp q sn u = some p) : p = o := by
  unfold State.intakeOp State.worker at hp
  rw [State.opAny_of_op? ho] at hp
  dsimp only at hp
  split at hp
  · split at hp
    · exact (Option.some.inj hp).symm
    · cases hp
  · cases hp

section
variable {q sn : Nat} {s : State} {o p : OpRec} (ho : s.op? q sn = some o) (hp : s.intakeOp q sn o.done.length = some p)
include ho hp

/-- The next row of the sample list (R466, R471). -/
theorem execBatch_begins {a : Obj} {e : List Word} (hlive : s.liveSample = none) (hmore : o.done.length < p.d.ext 0) (ha : (s.view 184 p).obj 0 = some a)
    (he : readRow p s 0 a (p.d.firstRow + o.done.length) 4 = .ok e) : execBatch q sn s = .next (s.intakePut p (sampleOn (s.view 184 p) s
      ⟨q, sn, p.d.firstRow + o.done.length, p.ax axCount, 0, 0, 0, 0, e, 0, 0, 0, 0, 0, []⟩)) := by
  unfold execBatch
  simp only [ho, hlive, hp, ha, he]
  exact if_neg (Nat.not_le_of_lt hmore)

variable {sm : Sample} (hlive : s.liveSample = some sm) (hq : sm.q = q) (hs : sm.s = sn)
include hlive hq hs

/-- The engine's own detectors stop it first (R489). -/
theorem execItem_stopped {u : State} (hmeet : s.meetItem p sm = (u, true)) : execItem q sn s = .next u := by
  unfold execItem
  simp only [hlive, ho, hp, hmeet]
  exact if_pos ⟨hq, hs⟩

/-- The next item of the running sample (R480). -/
theorem execItem_starts {u v : State} {r : OpRec} (hmeet : s.meetItem p sm = (u, false)) (hv : v = u.meetPayload (u.view 184 p) sm)
    (hr : v.intakeOp q sn o.done.length = some r) : execItem q sn s = .next (v.intakePut r (itemStep (v.view 184 r) v sm)) := by
  subst hv
  obtain rfl := State.intakeOp_eq ho hp
  unfold execItem
  simp only [hlive, ho, hp, hmeet]
  rw [if_pos ⟨hq, hs⟩, hr]

end

/-- Settles O48: the detectors come first, then the shared operation. -/
theorem intakeBeginsRowsAndItems : Obligations.IntakeBeginsRowsAndItems := fun _ _ _ _ _ ho hp =>
  ⟨fun _ _ => execBatch_begins ho hp, fun _ _ _ _ hlive hq hs => ⟨execItem_stopped ho hp hlive hq hs, execItem_starts ho hp hlive hq hs⟩⟩

end Sys2Proof.Machine
end

section
/-! Bias commands (R499 to R501) and host snoops (R503). -/

namespace Sys2Proof.Machine

/-! ### A bias command written -/

/-- The commands of Table 16.5 with a code start alike. -/
theorem exec_biasCommand {ag : Agent} {entry code : Nat} {c : Instr} (hc : (c, code) ∈ biasCommand ag entry) (s : State) :
    exec c s = .next (s.biasStart ag entry code false) ∧ 1 ≤ code ∧ code ≤ 4 := by
  simp only [biasCommand, List.mem_cons, Prod.mk.injEq, List.not_mem_nil, or_false] at hc
  obtain ⟨rfl, rfl⟩ | ⟨rfl, rfl⟩ | ⟨rfl, rfl⟩ | ⟨rfl, rfl⟩ := hc <;> exact ⟨rfl, by decide, by decide⟩

/-- The entries of the bias table are apart from HLK_BIASTAT. -/
theorem Reg.biaEnt0_ne_biaStat (entry : Nat) : Reg.biaEnt0 entry ≠ Reg.biaStat := by
  unfold Reg.biaEnt0 Reg.biaStat
  omega

/-- The outcome of the checks of a bias command with a code. -/
def State.biasResult (s : State) (entry code : Nat) : Nat :=
  if 65536 ≤ entry ∨ false = true ∨ s.biaResv ≠ 0 ∨ biasAccepts s code entry (bits (s.rd Reg.biaArgw) 19 0) = false then 2 else 0

theorem State.biasResult_cases (s : State) (entry code : Nat) : (s.biasResult entry code = 0 ∨ s.biasResult entry code = 2) ∧
    (s.biasResult entry code = 0 ↔ entry < 65536 ∧ s.biaResv = 0 ∧ biasAccepts s code entry (bits (s.rd Reg.biaArgw) 19 0) = true) := by
  unfold State.biasResult
  split
  · rename_i h
    refine ⟨Or.inr rfl, fun h2 => absurd h2 (by decide), fun ⟨h1, h2, h3⟩ => ?_⟩
    rcases h with h | h | h | h
    · omega
    · cases h
    · exact absurd h2 h
    · rw [h3] at h
      cases h
  · rename_i h
    simp only [not_or, Bool.not_eq_false, not_le, ne_eq, not_not] at h
    exact ⟨Or.inl rfl, fun _ => ⟨h.1, h.2.2⟩, fun _ => rfl⟩

/-- BUSY and the entry's PENDING raised. -/
def State.biasRaised (s : State) (entry : Nat) : State :=
  if entry < 65536 then (s.putBit Reg.biaStat 0 true).putBit (Reg.biaEnt0 entry) 59 true else s.putBit Reg.biaStat 0 true

theorem State.biasRaised_flags (s : State) (entry : Nat) : (s.biasRaised entry).flag Reg.biaStat 0 = true ∧
    (entry < 65536 → (s.biasRaised entry).flag (Reg.biaEnt0 entry) 59 = true) ∧ regsOnly s (s.biasRaised entry) [Reg.biaStat, Reg.biaEnt0 entry] := by
  have hbusy : (s.putBit Reg.biaStat 0 true).flag Reg.biaStat 0 = true := State.flag_putBit_same _ _ _ _ (by decide)
  have hstat : regsOnly s (s.putBit Reg.biaStat 0 true) [Reg.biaStat, Reg.biaEnt0 entry] := (regsOnly_refl s _).putBit (by simp) _ _
  unfold State.biasRaised
  split
  · exact ⟨(State.flag_putBit_other _ _ _ _ _ _ (Reg.biaEnt0_ne_biaStat entry).symm).trans hbusy, fun _ => State.flag_putBit_same _ _ _ _ (by decide),
      hstat.putBit (by simp) _ _⟩
  · rename_i h
    exact ⟨hbusy, fun hlt => absurd hlt h, hstat⟩

theorem regsOnly.withBias {s t : State} {as : List Nat} (h : regsOnly s t as) (b : Option BiaRec) :
    regsOnly s { ({ t with bias := b } : State) with bias := s.bias } as :=
  ⟨(congrArg (fun x : State => { x with bias := s.bias }) h.1 :), h.2⟩

theorem State.flag_withBias (s : State) (b : Option BiaRec) (a i : Nat) : ({ s with bias := b } : State).flag a i = s.flag a i := rfl
theorem State.fld_withBias (s : State) (b : Option BiaRec) (a hi lo : Nat) : ({ s with bias := b } : State).fld a hi lo = s.fld a hi lo := rfl

section
variable {ag : Agent} {entry code : Nat} {s : State} (hag : Who.barRig.admits ag = true)
include hag

theorem State.biasStart_busy (hbusy : s.flag Reg.biaStat 0 = true) : s.biasStart ag entry code false = s.putBit Reg.biaStat 1 true := by
  unfold State.biasStart
  rw [if_neg (by rw [hag]; decide), if_pos hbusy]

theorem State.biasStart_idle (hidle : s.flag Reg.biaStat 0 = false) (h1 : 1 ≤ code) (h4 : code ≤ 4) : s.biasStart ag entry code false =
    { s.biasRaised entry with bias := some ⟨entry, code, s.rd Reg.biaArg, s.rd Reg.biaArgw, s.biasResult entry code⟩ } := by
  unfold State.biasStart
  rw [if_neg (by rw [hag]; decide), if_neg (by rw [hidle]; decide)]
  have hr : (if code = 0 ∨ 4 < code then 1 else s.biasResult entry code) = s.biasResult entry code := if_neg (by omega)
  exact congrArg (fun r => ({ s.biasRaised entry with bias := some ⟨entry, code, s.rd Reg.biaArg, s.rd Reg.biaArgw, r⟩ } : State)) hr

end

/-! ### The completion of a bias command (R501) -/

theorem execBiaCmdComplete_held {s : State} {b : BiaRec} (hb : s.bias = some b) {r : Nat}
    (hr : (if b.result = 0 ∧ b.code ≠ 1 ∧ biasAccepts s b.code b.entry (bits b.argw 19 0) = false then 3 else b.result) = r) :
    execBiaCmdComplete s = .next (State.flagsOn { ((if r = 0 then s.biasEffect b else s).biasEnd b.entry r) with flagWait := [] }
      ((if r = 0 then s.biasEffect b else s).biasEnd b.entry r).flagWait) := by
  subst hr
  unfold execBiaCmdComplete
  rw [hb]

/-- BUSY, the entry's PENDING and the result as a completion leaves them. -/
def State.biasAnswered (s : State) (entry result : Nat) : State :=
  (((s.putBit (Reg.biaEnt0 entry) 59 false).putBit Reg.biaStat 0 false).put Reg.biaStat 15 8 result).bump Reg.biaStat 63 32 1

theorem State.biasEnd_eq (s : State) {entry : Nat} (result : Nat) (h : entry < 65536) :
    s.biasEnd entry result = { s.biasAnswered entry result with bias := none } := by
  unfold State.biasEnd
  rw [if_pos h]
  rfl

theorem State.biasAnswered_flags (s : State) (entry result : Nat) :
    (s.biasAnswered entry result).flag Reg.biaStat 0 = false ∧ (s.biasAnswered entry result).flag (Reg.biaEnt0 entry) 59 = false ∧
    (s.biasAnswered entry result).fld Reg.biaStat 15 8 = result % 256 ∧ regsOnly s (s.biasAnswered entry result) [Reg.biaStat, Reg.biaEnt0 entry] := by
  have hne := Reg.biaEnt0_ne_biaStat entry
  unfold State.biasAnswered
  refine ⟨?_, ?_, ?_, ((((regsOnly_refl s _).putBit (by simp) _ _).putBit (by simp) _ _).put (by simp) _ _ _).put (by simp) _ _ _⟩
  · rw [State.flag_of_fld (State.fld_bump_apart _ _ _ _ _ _ _ (by decide) (by decide) (by decide) (Or.inl (by decide))),
      State.flag_put_apart _ _ _ _ _ _ (by decide) (by decide) (Or.inl (by decide)), State.flag_putBit_same _ _ _ _ (by decide)]
  · rw [State.flag_bump_other _ _ _ _ _ _ _ hne, State.flag_put_other _ _ _ _ _ _ _ hne, State.flag_putBit_other _ _ _ _ _ _ hne,
      State.flag_putBit_same _ _ _ _ (by decide)]
  · rw [State.fld_bump_apart _ _ _ _ _ _ _ (by decide) (by decide) (by decide) (Or.inl (by decide)), State.fld_put_same _ _ _ _ _ (by decide) (by decide)]
    rfl

/-! ### Host snoops (R503) -/

section
variable {link addr a : Nat} {s : State} {l : Line} {c : Copy} (ha : s.sharedAt link addr = some a) (hl : s.line a = some l) (hd : l.dirty = some c)

/-- The word of a dirty copy that a snoop is answered with. -/
def State.snooped (s : State) (c : Copy) (a : Nat) : State :=
  { s with reply := some (BitVec.ofNat 64 (ofBytes ((c.bytes.drop (a % 64 / 8 * 8)).take 8))) }

include ha hl hd

theorem execHostSnoop_dirty (kind : Nat) : execHostSnoop link addr kind s =
    if kind = 2 then .next (s.snooped c a)
    else if kind = 1 then .next { (((s.snooped c a).writeBack a c).setLine a none) with lr := ((s.snooped c a).writeBack a c).lr.filter (fun p => p.2 != a / 64 + 1) }
    else .next (((s.snooped c a).writeBack a c).setLine a (some { l with st := .shared, copies := l.copies.map (fun (x : Copy) => { x with st := .s }) })) := by
  simp only [execHostSnoop, ha, hl, hd]
  rfl

end

/-- A SHARED page lies in the host window. -/
theorem State.sharedAt_region {s : State} {link addr a : Nat} (h : s.sharedAt link addr = some a) : region a = .host := by
  unfold State.sharedAt at h
  obtain ⟨e, he, rfl⟩ := Option.map_eq_some_iff.1 h
  obtain ⟨p, -, rfl⟩ := List.mem_map.1 (List.mem_of_find?_eq_some he)
  have hpage : s.fld (p.1 + 8) 19 0 < 2 ^ 20 := bits_lt _ 19 0
  have hoff : addr % 2 ^ 21 < 2 ^ 21 := Nat.mod_lt _ (by decide)
  unfold region hostBase
  dsimp only
  rw [if_neg (by omega), if_neg (by omega), if_pos (by omega)]

/-- In the host window a line set writes the directory alone. -/
theorem State.setLine_host (s : State) {a : Nat} (h : region a = .host) (o : Option Line) :
    s.setLine a o = { s with dirLines := s.dirLines.set (fun _ => none) (a / 64) o } := by
  unfold State.setLine State.syncHeld
  rw [h]

/-- Settles O49: the write of a command, its completion, and a snoop by its kind. Arguments checked again at completion and the kinds of a snoop are the
model's (log entries 106, 109). -/
theorem biasCommandsAndSnoops : Obligations.BiasCommandsAndSnoops := by
  refine ⟨fun ag entry code c s hag hc => ?started, fun s u b hb => ⟨fun hr hu => ?kept, fun hr hok hu => ?done⟩, fun s b hb hlt => ?ended,
    fun link addr kind s => ⟨fun hn => ?missed, fun a l c ha hl hd => ⟨s.snooped c a, rfl, ?reads, ?drops, ?probes⟩⟩⟩
  case started =>
    obtain ⟨hexec, h1, h4⟩ := exec_biasCommand hc s
    refine ⟨fun hbusy => ⟨_, hexec.trans (congrArg _ (State.biasStart_busy hag hbusy)), State.flag_putBit_same _ _ _ _ (by decide), s.putBit_regsOnly _ _ _⟩,
      fun hidle => ?_⟩
    obtain ⟨hres, hiff⟩ := s.biasResult_cases entry code
    obtain ⟨hbusy, hpend, hregs⟩ := s.biasRaised_flags entry
    exact ⟨_, _, hexec.trans (congrArg _ (State.biasStart_idle hag hidle h1 h4)), rfl, rfl, rfl, rfl, rfl, hres, hiff,
      (State.flag_withBias _ _ _ _).trans hbusy, fun hlt => (State.flag_withBias _ _ _ _).trans (hpend hlt), hregs.withBias _⟩
  case kept =>
    subst hu
    have hx := execBiaCmdComplete_held hb (r := b.result) (if_neg (fun h => hr h.1))
    rw [if_neg hr] at hx
    exact hx
  case done =>
    subst hu
    have hx := execBiaCmdComplete_held hb (r := 0) ((if_neg (fun h => hok.elim h.2.1 (fun ht => by rw [ht] at h; cases h.2.2))).trans hr)
    exact hx
  case ended =>
    obtain ⟨hbusy, hpend, hres, hregs⟩ := s.biasAnswered_flags b.entry b.result
    refine ⟨_, rfl, ?_⟩
    rw [s.biasEnd_eq b.result hlt]
    exact ⟨(State.flag_withBias _ _ _ _).trans hbusy, (State.flag_withBias _ _ _ _).trans hpend, (State.fld_withBias _ _ _ _ _).trans hres, rfl,
      hregs.withBias _⟩
  case missed =>
    show execHostSnoop link addr kind s = _
    unfold execHostSnoop
    rw [hn]
  case reads =>
    rintro rfl
    exact execHostSnoop_dirty ha hl hd 0
  case drops =>
    rintro rfl
    refine ⟨_, execHostSnoop_dirty ha hl hd 1, ?_, rfl, ?_⟩
    · exact (State.line_setLine _ a none a).trans (if_pos rfl)
    · rw [State.setLine_host _ (State.sharedAt_region ha)]
  case probes =>
    rintro rfl
    exact execHostSnoop_dirty ha hl hd 2

end Sys2Proof.Machine
end

section
/-! Host links (Table 16.7, R494, R505, R508, R510 to R512). -/

namespace Sys2Proof.Machine

theorem regsOnly.withPerst {s t : State} {as : List Nat} (h : regsOnly s t as) (p : List Bool) :
    regsOnly s { ({ t with perst := p } : State) with perst := s.perst } as :=
  ⟨(congrArg (fun x : State => { x with perst := s.perst }) h.1 :), h.2⟩

theorem regsOnly.withReply {s t : State} {as : List Nat} (h : regsOnly s t as) (r : Option Word) :
    regsOnly s { ({ t with reply := r } : State) with reply := s.reply } as :=
  ⟨(congrArg (fun x : State => { x with reply := s.reply }) h.1 :), h.2⟩

/-! ### Training and recovery (Table 16.7) -/

theorem Reg.hlkRetrain_ne_hlkStat (n : Nat) : Reg.hlkRetrain n ≠ Reg.hlkStat n := by
  unfold Reg.hlkRetrain Reg.hlkStat
  omega

theorem Reg.rscStat_ne_hlkStat {n : Nat} (h : n < 2) : Reg.rscStat ≠ Reg.hlkStat n := by
  unfold Reg.rscStat Reg.hlkStat
  omega

/-- PERST released, before the link asks whether it may train. -/
def State.perstReleased (s : State) (link : Nat) : State := State.putBit { s with perst := s.perst.set link true } (Reg.hlkStat link) 5 false

theorem execPerstHigh_trains {link : Nat} {s : State} (hdown : s.fld (Reg.hlkStat link) 1 0 = 0) (hon : s.power = .on) (h2 : 2 ≤ s.fld Reg.rscStat 2 0)
    (h5 : s.fld Reg.rscStat 2 0 ≤ 5) (hlink : link < 2) :
    execPerstHigh link s = .next ((s.perstReleased link).put (Reg.hlkStat link) 1 0 1) := by
  have hst : (s.perstReleased link).fld Reg.rscStat 2 0 = s.fld Reg.rscStat 2 0 := State.fld_putBit_other _ _ _ _ _ _ _ (Reg.rscStat_ne_hlkStat hlink)
  have hfld : (s.perstReleased link).fld (Reg.hlkStat link) 1 0 = s.fld (Reg.hlkStat link) 1 0 :=
    State.fld_putBit_apart _ _ _ _ _ _ (by decide) (by decide) (Or.inl (by decide))
  exact if_pos ⟨hfld.trans hdown, hon, hst.symm ▸ h2, hst.symm ▸ h5⟩

/-- The word of HLK_STAT of a link that is UP. -/
def linkWord (width speed pin cxl fast : Nat) : Word := word [(27, width), (24, speed), (5, pin), (4, cxl), (3, fast), (0, 2)]

theorem linkWord_toNat {width speed pin cxl fast : Nat} (hw : width < 32) (hs : speed < 8) (hp : pin < 2) (hc : cxl < 2) (hf : fast < 2) :
    (linkWord width speed pin cxl fast).toNat = width * 2 ^ 27 + speed * 2 ^ 24 + pin * 2 ^ 5 + cxl * 2 ^ 4 + fast * 2 ^ 3 + 2 := by
  simp only [linkWord, word, List.foldl_cons, List.foldl_nil, BitVec.toNat_ofNat]
  omega

/-- The fields of that word. -/
theorem bits_linkWord {width speed pin cxl fast : Nat} (hw : width < 32) (hs : speed < 8) (hp : pin < 2) (hc : cxl < 2) (hf : fast < 2) :
    bits (linkWord width speed pin cxl fast) 1 0 = 2 ∧ bits (linkWord width speed pin cxl fast) 3 3 = fast ∧
    bits (linkWord width speed pin cxl fast) 4 4 = cxl ∧ bits (linkWord width speed pin cxl fast) 26 24 = speed ∧
    bits (linkWord width speed pin cxl fast) 31 27 = width := by
  unfold bits
  rw [linkWord_toNat hw hs hp hc hf]
  omega

theorem b2n_lt (b : Bool) : b2n b < 2 := by cases b <;> decide

theorem b2n_beq_one (b : Bool) : (b2n b == 1) = b := by cases b <;> rfl

/-- A link that trained is UP with its width and speed (R505). -/
theorem execDlActive_up {link width speed : Nat} (cxl : Bool) {s : State} (htrain : s.fld (Reg.hlkStat link) 1 0 = 1) (hw : width ∈ [16, 8, 4, 2, 1])
    (h1 : 1 ≤ speed) (h6 : speed ≤ 6) : execDlActive link width speed cxl s = .next (s.wr (Reg.hlkStat link)
      (linkWord width speed (s.fld (Reg.hlkStat link) 5 5) (b2n (cxl && decide (speed = 6))) (b2n (decide (speed = 6))))) :=
  if_pos ⟨htrain, List.contains_iff_mem.2 hw, h1, h6⟩

/-! ### Reads that fail (R510, R511) -/

section
variable {link q sn : Nat} {s u : State} {o : OpRec} {inj : Bool} (ho : s.op? q sn = some o) (hp : o.phase ≠ .ended)
include ho hp

theorem execCompletionTimeout_ends (slot : Nat) (hi : s.takeInj (Reg.hlkInj link) 2 0 = (inj, u)) :
    execCompletionTimeout link q sn slot s = .next (u.readTimeout link (q, sn, o.ctx) inj) := by
  unfold execCompletionTimeout
  simp only [ho, hi]
  exact if_neg hp

theorem execUnsupportedRequest_ends (slot : Nat) (hi : s.takeInj Reg.fltInj 7 link = (inj, u)) :
    execUnsupportedRequest link q sn slot s = .next (u.readRefused link (q, sn, o.ctx) slot inj) := by
  unfold execUnsupportedRequest
  simp only [ho, hi]
  exact if_neg hp

end

/-! ### Host reset (R512) -/

/-- A link that is DOWN notes the pin alone. -/
theorem execHostReset_down {link : Nat} (perst : Bool) {s : State} (hdown : s.fld (Reg.hlkStat link) 1 0 = 0) : execHostReset link perst s =
    .next (State.putBit { s with perst := if perst then s.perst.set link false else s.perst } (Reg.hlkStat link) 5 perst) :=
  if_pos hdown

/-- Settles O50: each event of a link in the state that admits it. How a host reset reverts the bias entries is the model's reading (log entry 107). -/
theorem hostLinksRule : Obligations.HostLinksRule := by
  intro link s
  refine ⟨fun offset size w hr => ⟨_, if_pos hr, rfl, State.fld_bump_same _ _ _ _ _ (by decide) (by decide), ?refused⟩,
    fun hdown hon h2 h5 hlink => ⟨_, execPerstHigh_trains hdown hon h2 h5 hlink, ?trains⟩,
    fun width speed cxl htrain hw h1 h6 => ⟨_, execDlActive_up cxl htrain hw h1 h6, ?up⟩, fun inj u hup hi => ?recovery,
    fun hrec => ⟨_, if_pos hrec, (State.fld_bump_other _ _ _ _ _ _ _ _ (Reg.hlkRetrain_ne_hlkStat link).symm).trans
      (State.fld_put_same _ _ _ _ _ (by decide) (by decide)), ?regained⟩, fun hup => if_pos hup, fun q sn w hw => ?observed,
    fun q sn slot o inj u ho hp => ⟨execCompletionTimeout_ends ho hp slot, execUnsupportedRequest_ends ho hp slot⟩,
    fun perst hdown => ⟨_, execHostReset_down perst hdown, ?pin⟩, ?reset⟩
  case refused => exact (State.bump_regsOnly s _ _ _ _).withReply none
  case trains =>
    exact ⟨State.fld_put_same _ _ _ _ _ (by decide) (by decide), (State.flag_put_apart _ _ _ _ _ _ (by decide) (by decide) (Or.inr (by decide))).trans
      (State.flag_putBit_same _ _ _ _ (by decide)), rfl, (((s.putBit_regsOnly _ _ _).put (List.mem_singleton.2 rfl) _ _ _).withPerst _)⟩
  case up =>
    have hb := bits_linkWord ((by decide : ∀ w ∈ [16, 8, 4, 2, 1], w < 32) width hw) (show speed < 8 by omega)
      (bits_lt (s.rd (Reg.hlkStat link)) 5 5) (b2n_lt (cxl && decide (speed = 6))) (b2n_lt (decide (speed = 6)))
    obtain ⟨h2, h3, h4, hspeed, hwidth⟩ := hb
    exact ⟨(State.fld_wr_same _ _ _ _ _).trans h2, (congrArg (· == 1) ((State.fld_wr_same _ _ _ _ _).trans h3)).trans (b2n_beq_one _),
      (congrArg (· == 1) ((State.fld_wr_same _ _ _ _ _).trans h4)).trans (b2n_beq_one _), (State.fld_wr_same _ _ _ _ _).trans hspeed,
      (State.fld_wr_same _ _ _ _ _).trans hwidth, s.wr_regsOnly _ _⟩
  case recovery =>
    show execRecoveryEntered link s = _
    unfold execRecoveryEntered
    rw [if_pos hup, hi]
  case regained =>
    refine ⟨(State.fld_bump_same _ _ _ _ _ (by decide) (by decide)).trans ?_,
      ((regsOnly_refl s _).put (List.mem_cons_self ..) _ _ _).put (List.mem_cons_of_mem _ (List.mem_cons_self ..)) _ _ _⟩
    rw [State.fld_put_other _ _ _ _ _ _ _ _ (Reg.hlkRetrain_ne_hlkStat link)]
  case observed =>
    show execGlobalObservation link q sn s = _
    unfold execGlobalObservation
    rw [hw]
  case pin => exact ⟨State.flag_putBit_same _ _ _ _ (by decide), rfl, (s.putBit_regsOnly _ _ _).withPerst _⟩
  case reset =>
    rintro perst u v w x y mine hup rfl rfl rfl rfl rfl rfl
    exact if_neg hup

end Sys2Proof.Machine
end

section
/-! Module time (R517 to R522). -/

namespace Sys2Proof.Machine

/-! ### PTM dialogs (R518, R519) -/

/-- A dialog that begins, with its number taken. -/
def State.ptmBegun (s : State) : State := { s with ptmSeq := s.ptmSeq + 1 }

/-- A dialog's record in the registers and counted. -/
def State.correlated (u : State) (link host t1 t4 turn : Nat) (frac : BitVec 16) (seq : Nat) : State :=
  (u.wrRun (Reg.tmbCorr 0) (corrRecord u link host t1 t4 turn frac seq)).put Reg.tmbStat 15 0 (u.fld Reg.tmbStat 15 0 + 1)

/-- An access that succeeds goes on with its state. -/
theorem next_of_ok {r : Except Fail State} {f : Fail → Outcome} {x : State} (h : r = .ok x) :
    (match r with
      | .ok s => Host.Outcome.next s
      | .error e => f e) = Host.Outcome.next x := by
  rw [h]

section
variable {link : Nat} {s : State} (hup : s.fld (Reg.hlkStat link) 1 0 = 2) (hen : s.flag Reg.tmbPtmctl link = true)
include hup hen

theorem ptmDialog_runs : ¬ (s.fld (Reg.hlkStat link) 1 0 ≠ 2 ∨ s.flag Reg.tmbPtmctl link = false) := by
  rw [hup, hen]
  decide

variable (host t1 t4 turn : Nat) (frac : BitVec 16)

theorem execPtmDialog_failed : execPtmDialog link host t1 t4 turn frac false s = .next (s.ptmBegun.bump Reg.tmbStat 63 32 1) :=
  if_neg (ptmDialog_runs hup hen)

theorem execPtmDialog_registers (hbase : (s.ptmBegun.correlated link host t1 t4 turn frac (s.ptmSeq + 1)).flag Reg.tmbCorrbase 0 = false) :
    execPtmDialog link host t1 t4 turn frac true s = .next (s.ptmBegun.correlated link host t1 t4 turn frac (s.ptmSeq + 1)) :=
  (if_neg (ptmDialog_runs hup hen)).trans (if_neg (Bool.not_eq_true _ ▸ hbase))

theorem execPtmDialog_memory {v x : State} (hv : v = s.ptmBegun.correlated link host t1 t4 turn frac (s.ptmSeq + 1)) (hbase : v.flag Reg.tmbCorrbase 0 = true)
    (hx : v.writeMem (.plain 0) (v.fld Reg.tmbCorrbase 43 6 * 64 + 32 * ((s.ptmSeq + 1) % 2 ^ v.fld Reg.tmbCorrbase 5 2))
      (wordBytes (corrRecord s.ptmBegun link host t1 t4 turn frac (s.ptmSeq + 1))) = .ok x) :
    execPtmDialog link host t1 t4 turn frac true s = .next x := by
  subst hv
  exact (if_neg (ptmDialog_runs hup hen)).trans ((if_pos hbase).trans (next_of_ok hx))

end

/-! ### PPS_OUT and the time-of-day frames (R520, R521) -/

/-- The lowest bit of a two-bit field is its own flag. -/
theorem State.fld_low_odd (s : State) (a : Nat) : s.fld a 1 0 % 2 = s.fld a 0 0 := by
  unfold State.fld bits
  omega

/-- The outputs that run from a second on. -/
def State.outputs (s : State) : Nat := s.fld Reg.tmbOutctl 1 0 + s.outRun / 4 % 2 * 4

/-- PPS_OUT is among them where its bit is set. -/
theorem State.outputs_odd (s : State) : s.outputs % 2 = 1 ↔ s.flag Reg.tmbOutctl 0 = true := by
  have h := s.fld_low_odd Reg.tmbOutctl
  unfold State.outputs State.flag
  rw [beq_iff_eq]
  omega

section
variable {s : State} (hsec : s.ns % 1000000000 = 0) (hnew : s.ppsEdge ≠ some s.ns) (hhold : s.ppsHold ≤ s.ns)
include hsec hnew hhold

theorem execPpsOut_second : execPpsOut s = if s.outputs % 2 = 1 then
    .next { s with outRun := s.outputs, ppsHigh := true, ppsFall := s.ns + s.ppsWidth, ppsEdge := some s.ns } else .next { s with outRun := s.outputs } := by
  refine if_neg ?_
  rintro (h | h | h)
  · exact h hsec
  · exact hnew h
  · omega

end

/-- A frame not yet sent for an edge is due (R520). -/
theorem execTodTx_due {s : State} {e : Nat} (he : s.ppsEdge = some e) (hrun : s.outRun / 2 % 2 = 1) (hen : s.flag Reg.tmbOutctl 1 = true)
    (hdue : e + 10000000 ≤ s.ns) (hhold : s.ppsHold ≤ s.ns) (hnew : ∀ f, s.todSent.getLast? = some f → (f.drop 2).take 8 ≠ bytesOf 8 e) :
    execTodTx s = .next { s with todSent := s.todSent ++ [s.timeFrame e], todSeq := (s.todSeq + 1) % 256 } := by
  unfold execTodTx
  simp only [he]
  refine if_pos ⟨hrun, hen, hdue, hhold, ?_⟩
  cases hlast : s.todSent.getLast? with
  | none => rfl
  | some f => exact beq_eq_false_iff_ne.2 (hnew f hlast)

/-! ### TMB_OUTCTL (R521) -/

/-- The word of TMB_OUTCTL with a width and the enables. -/
theorem bits_outctl {width en : Nat} (hw : width < 2 ^ 16) (he : en < 8) :
    bits (word [(16, width), (0, en)]) 31 16 = width ∧ bits (word [(16, width), (0, en)]) 2 0 = en := by
  unfold bits
  simp only [word, List.foldl_cons, List.foldl_nil, BitVec.toNat_ofNat]
  omega

theorem execTmbOutctl_eq {ag : Agent} (v : Word) (s : State) (h : Who.barRig.admits ag = true) : execTmbOutctl ag v s = .next
    { s.wr Reg.tmbOutctl (word [(16, bits v 31 16), (0, bits v 2 0)]) with outRun := s.outRun.land (bits v 2 0), ppsHigh := s.ppsHigh && bit v 0 } :=
  if_pos h

theorem regsOnly.withOutputs {s t : State} {as : List Nat} (h : regsOnly s t as) (run : Nat) (high : Bool) :
    regsOnly s { ({ t with outRun := run, ppsHigh := high } : State) with outRun := s.outRun, ppsHigh := s.ppsHigh } as :=
  ⟨(congrArg (fun x : State => { x with outRun := s.outRun, ppsHigh := s.ppsHigh }) h.1 :), h.2⟩

/-- Settles O51: each output and record by its condition. How dialogs are numbered is the model's reading (log entry 110). -/
theorem moduleTimeRule : Obligations.ModuleTimeRule := by
  refine ⟨fun path s => ⟨_, rfl, rfl, Tab.get_set_same _ _ _ _, fun p hp => Tab.get_set_other _ _ _ _ _ hp, rfl⟩,
    fun link host t1 t4 turn frac s u v hup hen hu hv => ?dialog, fun s hsec hnew hhold => ?second,
    fun s e he hrun hen hdue hhold hnew => ⟨_, execTodTx_due he hrun hen hdue hhold hnew, rfl, rfl, rfl⟩, fun ag v s h => ?control⟩
  case dialog =>
    subst hu hv
    exact ⟨execPtmDialog_failed hup hen host t1 t4 turn frac, execPtmDialog_registers hup hen host t1 t4 turn frac,
      fun hbase x hx => execPtmDialog_memory hup hen host t1 t4 turn frac rfl hbase hx⟩
  case second =>
    have hrun := execPpsOut_second hsec hnew hhold
    cases hflag : s.flag Reg.tmbOutctl 0 with
    | true =>
      exact ⟨_, hrun.trans (if_pos (s.outputs_odd.2 hflag)), rfl, fun _ => ⟨rfl, rfl, rfl, rfl⟩, nofun⟩
    | false =>
      exact ⟨_, hrun.trans (if_neg (mt s.outputs_odd.1 (by simp [hflag]))), rfl, nofun, fun _ => rfl⟩
  case control =>
    obtain ⟨hwidth, hen⟩ := bits_outctl (bits_lt v 31 16) (bits_lt v 2 0)
    exact ⟨_, execTmbOutctl_eq v s h, (State.fld_wr_same s _ _ _ _).trans hwidth, (State.fld_wr_same s _ _ _ _).trans hen, rfl, rfl,
      (s.wr_regsOnly _ _).withOutputs _ _⟩

end Sys2Proof.Machine
end

section
/-! The start sequence (R551 to R564) and the security commands (R566, R568, R569). -/

namespace Sys2Proof.Machine

/-! ### Release and training (R551, R552) -/

/-- The strands trained and the lanes of the host links noted, before the first check. -/
def State.released (s : State) (b : Bringup) : State :=
  (State.each (((s.fuseSense b.softFuses).setStart 1).wr Reg.cage (word [(8, s.cagePins % 2 ^ 24)])) 2
    (fun t n => t.putBit (Reg.hlkStat n) 5 (!t.perst.getD n false))).trainStrands b.margins

/-- The stage of BUP0 that trains the memory begins, with the next start time. -/
def State.memoryBegun (v : State) : State :=
  let s := v.put Reg.bup0 63 32 (max 1 (Config.startTime v.free % 2 ^ 32))
  { s with discovered := true, free := s.free + 1 }

/-- The stage of BUP0 that wipes the memory begins, with the next start time. -/
def State.wipeBegun (w : State) : State :=
  let s := w.put Reg.bup0 31 0 (max 1 (Config.startTime w.free % 2 ^ 32))
  { s with wiped := true, free := s.free + 1 }

theorem State.memoryBegun_eq (v : State) :
    v.memoryBegun = { (v.put Reg.bup0 63 32 (max 1 (Config.startTime v.free % 2 ^ 32))) with discovered := true, free := v.free + 1 } := rfl

theorem State.wipeBegun_eq (w : State) :
    w.wipeBegun = { (w.put Reg.bup0 31 0 (max 1 (Config.startTime w.free % 2 ^ 32))) with wiped := true, free := w.free + 1 } := rfl

/-- The memory trained. -/
def State.memoryTrained (v : State) (b : Bringup) : State := v.memoryBegun.trainMemory b.hbmBad b.dtcBad

section
variable (b : Bringup) {s : State} (hstart : s.start = 0) (hheld : s.held = 0) (hon : s.power = .on) (hgood : s.powerGood = true)
include hstart hheld hon hgood

theorem execResetRelease_runs : execResetRelease b s =
    if (s.released b).strandCause b ≠ 0 then .next ((s.released b).startFail ((s.released b).strandCause b))
    else if ((s.released b).memoryTrained b).memoryFails = true then .next (((s.released b).memoryTrained b).startFail 4)
    else .next ((s.released b).memoryTrained b).wipeBegun :=
  if_neg (by simp [hstart, hheld, hon, hgood])

end

/-! ### OPTSEL (R553) -/

section
variable {s : State} {c1 k : Nat} (hstart : s.start = 1) (hk : optCode c1 = some k) (c2 : Nat)
include hstart hk

theorem execOptload_runs : execOptload c1 c2 s = if optCode c2 = some k then .next (s.takeOption k)
    else if s.fld Reg.rscStat 7 6 < 3 then .next (s.bump Reg.rscStat 7 6 1) else .next ((s.putBit Reg.rscStat 5 true).takeOption 15) := by
  unfold execOptload
  rw [if_neg (not_not.2 hstart), hk]

end

/-! ### The boot window (R554, R558) -/

theorem regsOnly.withBootWin {s t : State} {as : List Nat} (h : regsOnly s t as) (b : Tab Byte) (o : Bool) :
    regsOnly s { ({ t with bootWin := b, owned := o } : State) with bootWin := s.bootWin, owned := s.owned } as :=
  ⟨(congrArg (fun x : State => { x with bootWin := s.bootWin, owned := s.owned }) h.1 :), h.2⟩

section
variable {link offset : Nat} {data : List Byte} {s : State} (hlink : link < 2) (hup : s.fld (Reg.hlkStat link) 1 0 = 2) (hfit : offset + data.length ≤ 2 ^ 25)
include hlink hup hfit

theorem execBootWindowWrite_runs : execBootWindowWrite link offset data s =
    if s.start = 2 ∧ (s.owned = false ∨ s.fld Reg.bootStat 9 9 = link) then
      .next { (s.put Reg.bootStat 9 9 link) with owned := true, bootWin := s.bootWin.setRun (fun _ => 0) offset data }
    else .next (s.bump Reg.bootStat 47 32 1) := by
  refine if_neg ?_
  rintro (h | h | h)
  · omega
  · exact h hup
  · omega

end

/-- Where the window is not open to the link. -/
theorem window_closed {s : State} {link : Nat} (h : s.start ≠ 2 ∨ (s.owned = true ∧ s.fld Reg.bootStat 9 9 ≠ link)) :
    ¬ (s.start = 2 ∧ (s.owned = false ∨ s.fld Reg.bootStat 9 9 = link)) := by
  rintro ⟨h2, ho | ho⟩ <;> rcases h with h | ⟨h, hn⟩
  · exact h h2
  · exact Bool.false_ne_true (ho.symm.trans h)
  · exact h h2
  · exact hn ho

/-! ### GO and ABORT (R560, R562) -/

section
variable {ag : Agent} (hag : Who.barRig.admits ag = true) {s : State}
include hag

theorem execGo_runs : execGo ag s = if s.start = 2 then .next (s.setStart 3) else .next (s.putBit Reg.bootStat 8 true) :=
  if_neg (by simp [hag])

theorem execAbort_runs (h : s.start = 3) : execAbort ag s = .next s.reopenBoot := if_pos (by simp [hag, h])

end

theorem State.start_reopenBoot (s : State) : s.reopenBoot.start = 2 := by
  refine (State.fld_putBit_other _ _ _ _ _ _ _ (by decide)).trans ((State.fld_put_other _ _ _ _ _ _ _ _ (by decide)).trans ?_)
  exact State.fld_put_same _ _ _ _ _ (by decide) (by decide)

theorem State.fld_reopenBoot_result (s : State) : s.reopenBoot.fld Reg.bootStat 3 0 = 0 :=
  (State.fld_putBit_apart _ _ _ _ _ _ (by decide) (by decide) (Or.inl (by decide))).trans (State.fld_put_same _ _ _ _ _ (by decide) (by decide))

theorem State.reopenBoot_regsOnly (s : State) :
    regsOnly s { s.reopenBoot with bootWin := s.bootWin, owned := s.owned } [Reg.rscStat, Reg.bootStat] :=
  ((((regsOnly_refl s _).put (by simp) 2 0 2).put (by simp) 3 0 0).putBit (by simp) 9 false).withBootWin _ _

/-! ### Verification (R560, R561) -/

/-- The image taken, its verification recorded and the watchdog started. -/
def State.imageTaken (s : State) : State :=
  { ((s.setStart 4).put Reg.bootStat 3 0 1) with image := some s.imageOf, bootWin := [], wdogOn := true, wdogAt := s.ns }

/-- Its repairs applied. -/
def State.imageRepaired (s : State) : State :=
  ((s.imageTaken.put Reg.rscWdog 31 16 4000).repairs s.imageOf.repair (s.imageOf.repair.length / 8)).syncHfree

theorem execVerifyResult_fails {s : State} (hstart : s.start = 3) (hv : s.verify ≠ 1) :
    execVerifyResult s = .next ((s.reopenBoot.put Reg.bootStat 3 0 s.verify).bump Reg.bootStat 63 48 1) :=
  (if_neg (not_not.2 hstart)).trans (if_pos hv)

theorem execVerifyResult_loads {s : State} (hstart : s.start = 3) (hv : s.verify = 1) (hdie : s.imageRepaired.dieCut = false)
    (hpair : s.imageRepaired.pairCut = false) (hmem : s.imageRepaired.memoryFails = false) :
    execVerifyResult s = .next (s.imageRepaired.loadCores s.imageOf.cores) := by
  have hc : ¬ (if s.imageRepaired.dieCut = true then 1 else if s.imageRepaired.pairCut = true then 2
      else if s.imageRepaired.memoryFails = true then 4 else 0) ≠ 0 := by
    simp [hdie, hpair, hmem]
  exact (if_neg (not_not.2 hstart)).trans ((if_neg (not_not.2 hv)).trans (if_neg hc))

/-! ### Attestation (R568) -/

theorem regsOnly.withAttest {s t : State} {as : List Nat} (h : regsOnly s t as) (b : Bool) :
    regsOnly s { ({ t with attest := b } : State) with attest := s.attest } as :=
  ⟨(congrArg (fun x : State => { x with attest := s.attest }) h.1 :), h.2⟩

theorem execSecAttcmd_runs {ag : Agent} (hag : Who.barRig.admits ag = true) (s : State) : execSecAttcmd ag s =
    if s.attest = true then .next (s.put Reg.attStat 3 2 3) else if s.start ≠ 5 ∨ s.lc = 15 then .next (s.put Reg.attStat 3 2 2)
    else .next (({ s with attest := true } : State).putBit Reg.attStat 0 true) :=
  if_neg (by simp [hag])

/-- The bytes that answer a quote. -/
def State.quoteAnswer (s : State) (im : Image) : List Byte :=
  s.quote im ++ fit 4640 (fit 4627 (Config.mldsaSign (s.aliasSeed im) (s.quote im))) ++ fit 2592 (Config.mldsaPublic (s.aliasSeed im)) ++
    fit 4640 (fit 4627 s.aliasCert) ++ fit 2592 (Config.mldsaPublic s.deviceSeed)

theorem execAttestationQuote_answers {s : State} {im : Image} (him : s.image = some im) (ha : s.attest = true) : execAttestationQuote s =
    .next ((({ s with attest := false } : State).wrRun (Reg.secOut 0) (wordsOf (s.quoteAnswer im) 1840)).wr Reg.attStat (word [(2, 1)])) := by
  unfold execAttestationQuote
  rw [him]
  exact if_neg (by simp [ha])

theorem State.attest_wrRun (s : State) (a : Nat) (ws : List Word) : (s.wrRun a ws).attest = s.attest := by
  obtain ⟨⟨r, hr, _⟩, _⟩ := State.wrRun_frame ws s a
  exact (congrArg State.attest hr :)

theorem State.attest_wr (s : State) (a : Nat) (v : Word) : (s.wr a v).attest = s.attest := rfl

/-! ### Revocation and the watchdog (R566, R569) -/

/-- The slots that a write of SEC_REVOKE adds: those named, the slot in use left out. -/
def revokeMask (m use : Nat) : Nat := m - m.land use

theorem testBit_revokeMask_slot : ∀ m < 16, ∀ slot < 4, ∀ k < 4, (revokeMask m (2 ^ slot)).testBit k = (m.testBit k && decide (slot ≠ k)) := by decide

theorem testBit_revokeMask {m slot k : Nat} (hm : m < 16) (hk : k < 4) : (revokeMask m (2 ^ slot)).testBit k = (m.testBit k && decide (slot ≠ k)) := by
  rcases Nat.lt_or_ge slot 4 with h | h
  · exact testBit_revokeMask_slot m hm slot h k hk
  · have h0 : m.land (2 ^ slot) = 0 := by
      refine (Nat.and_two_pow m slot).trans ?_
      rw [Nat.testBit_lt_two_pow (hm.trans_le (Nat.pow_le_pow_right Nat.zero_lt_two h)), Bool.toNat_false, Nat.zero_mul]
    rw [revokeMask, h0, Nat.sub_zero, decide_eq_true (show slot ≠ k by omega), Bool.and_true]

/-- The bits of SEC_REVOKE's field. -/
theorem testBit_bits_low (v : Word) {k : Nat} (hk : k < 4) : (bits v 3 0).testBit k = bit v k := by
  unfold bit bits
  rw [Nat.testBit_mod_two_pow, decide_eq_true (show k < 3 + 1 - 0 by omega), Bool.true_and, Nat.pow_zero, Nat.div_one, Nat.testBit_eq_decide_div_mod_eq,
    show k + 1 - k = 1 by omega, Nat.pow_one]
  rfl

/-- The bit of the slot in use. -/
def State.slotInUse (s : State) : Nat :=
  match s.image with
  | some im => 2 ^ im.keyslot
  | none => 0

theorem execSecRevoke_rig (v : Word) (s : State) :
    execSecRevoke .rig v s = .next { s with revokes := s.revokes.lor (revokeMask (bits v 3 0) s.slotInUse) } := rfl

theorem State.testBit_revokeMask_in_use (s : State) (v : Word) {k : Nat} (hk : k < 4) : (revokeMask (bits v 3 0) s.slotInUse).testBit k =
    (bit v k && match s.image with
      | some im => decide (im.keyslot ≠ k)
      | none => true) := by
  unfold State.slotInUse
  cases s.image with
  | none => exact (congrArg (fun m => Nat.testBit (bits v 3 0 - m) k) (Nat.and_zero _)).trans ((testBit_bits_low v hk).trans (Bool.and_true _).symm)
  | some im => exact (testBit_revokeMask (bits_lt v 3 0) hk).trans (congrArg (· && _) (testBit_bits_low v hk))

/-- KICK's word taken: its PERIOD where it names one. -/
def State.wdogPeriod (s : State) (v : Word) : State := if bits v 31 16 = 0 then s else s.put Reg.rscWdog 31 16 (bits v 31 16)

theorem State.fld_wdogPeriod (s : State) (v : Word) :
    (s.wdogPeriod v).fld Reg.rscWdog 31 16 = if bits v 31 16 = 0 then s.fld Reg.rscWdog 31 16 else bits v 31 16 := by
  unfold State.wdogPeriod
  split
  · rfl
  · exact (State.fld_put_same _ _ _ _ _ (by decide) (by decide)).trans (Nat.mod_eq_of_lt (bits_lt v 31 16))

theorem State.wdogPeriod_regsOnly (s : State) (v : Word) : regsOnly s (s.wdogPeriod v) [Reg.rscWdog] := by
  unfold State.wdogPeriod
  split
  · exact regsOnly_refl s _
  · exact s.put_regsOnly _ _ _ _

theorem regsOnly.withWdogAt {s t : State} {as : List Nat} (h : regsOnly s t as) (n : Nat) :
    regsOnly s { ({ t with wdogAt := n } : State) with wdogAt := s.wdogAt } as :=
  ⟨(congrArg (fun x : State => { x with wdogAt := s.wdogAt }) h.1 :), h.2⟩

/-- KICK's outcome: the moment of the last kick moves where its bit is set. -/
theorem execKick_rig (v : Word) (s : State) : execKick .rig v s = .next { s.wdogPeriod v with wdogAt := if bit v 0 then s.ns else s.wdogAt } := by
  have hns : (s.wdogPeriod v).ns = s.ns ∧ (s.wdogPeriod v).wdogAt = s.wdogAt := by
    unfold State.wdogPeriod
    split <;> exact ⟨rfl, rfl⟩
  obtain ⟨hnow, hat⟩ := hns
  show Host.Outcome.next (if bit v 0 = true then { s.wdogPeriod v with wdogAt := (s.wdogPeriod v).ns } else s.wdogPeriod v) = _
  rw [← hnow, ← hat]
  split <;> rfl

/-- Settles O53: each command of the start and of security by its condition. Steps 3 to 10 of Table 18.2 in one step, the start times, and when the life-cycle
register, RESULT and OWNER change are the model's (log entries 113, 114, 120, 121). -/
theorem startAndSecurityRule : Obligations.StartAndSecurityRule := by
  refine ⟨fun s => ⟨fun b u v w h0 hheld hon hgood hu hv hw => ?release, fun c1 c2 k h1 hk => ?option, fun link offset data hl hup hfit => ?window,
    fun ag hag => ?go, fun h3 hv => execVerifyResult_fails h3 hv, fun u v h3 hv hu hvv hdie hpair hmem => ?loads,
    fun im u v w him h4 hwiped hdisc hu hv hw => ?ready⟩, fun ag s hag => ?attest, fun s im him ha => ?quote, fun v s => ⟨?revoke, ?kick⟩⟩
  case release =>
    have hv' : v = s.released b := hv.trans (congrArg (State.trainStrands · b.margins) hu)
    have hw' : w = v.memoryTrained b := hw.trans (congrArg (fun x => State.trainMemory x b.hbmBad b.dtcBad) v.memoryBegun_eq.symm)
    have hrun := execResetRelease_runs b h0 hheld hon hgood
    rw [← hv', ← hw'] at hrun
    exact ⟨fun hc => hrun.trans (if_pos hc), fun hc hm => hrun.trans ((if_neg (not_not.2 hc)).trans (if_pos hm)),
      fun hc hm => hrun.trans ((if_neg (not_not.2 hc)).trans ((if_neg (Bool.not_eq_true _ ▸ hm)).trans (congrArg Host.Outcome.next w.wipeBegun_eq)))⟩
  case option =>
    have hrun := execOptload_runs h1 hk c2
    exact ⟨fun h => hrun.trans (if_pos h), fun h hlt => hrun.trans ((if_neg h).trans (if_pos hlt)),
      fun h heq => hrun.trans ((if_neg h).trans (if_neg (heq ▸ Nat.lt_irrefl 3)))⟩
  case window =>
    have hrun := execBootWindowWrite_runs (data := data) hl hup hfit
    refine ⟨fun h2 ho => ⟨_, hrun.trans (if_pos ⟨h2, ho⟩), rfl, rfl, ?_, (s.put_regsOnly _ _ _ _).withBootWin _ _⟩,
      fun h => ⟨_, hrun.trans (if_neg (window_closed h)), State.fld_bump_same _ _ _ _ _ (by decide) (by decide), s.bump_regsOnly _ _ _ _⟩⟩
    exact (State.fld_put_same s _ _ _ _ (by decide) (by decide)).trans (Nat.mod_eq_of_lt hl)
  case go =>
    refine ⟨fun h2 => ⟨_, (execGo_runs hag).trans (if_pos h2), State.fld_put_same _ _ _ _ _ (by decide) (by decide),
        State.fld_put_apart _ _ _ _ _ _ _ (by decide) (by decide) (by decide) (Or.inr (by decide)), s.put_regsOnly _ _ _ _⟩,
      fun h2 => ⟨_, (execGo_runs hag).trans (if_neg h2), State.flag_putBit_same _ _ _ _ (by decide), s.putBit_regsOnly _ _ _⟩,
      fun h3 => ⟨_, execAbort_runs hag h3, s.start_reopenBoot, rfl, rfl, s.fld_reopenBoot_result, s.reopenBoot_regsOnly⟩⟩
  case loads =>
    subst hu hvv
    exact execVerifyResult_loads h3 hv hdie hpair hmem
  case ready =>
    subst hu hv hw
    show execSelfReady s = _
    unfold execSelfReady
    rw [him]
    exact if_neg (by simp [h4, hwiped, hdisc])
  case attest =>
    have hrun := execSecAttcmd_runs hag s
    refine ⟨fun ha => ⟨_, hrun.trans (if_pos ha), State.fld_put_same _ _ _ _ _ (by decide) (by decide), s.put_regsOnly _ _ _ _⟩,
      fun ha h => ⟨_, hrun.trans ((if_neg (by simp [ha])).trans (if_pos h)), State.fld_put_same _ _ _ _ _ (by decide) (by decide), s.put_regsOnly _ _ _ _⟩,
      fun ha h5 hlc => ⟨_, hrun.trans ((if_neg (by simp [ha])).trans (if_neg (by simp [h5, hlc]))), rfl, State.flag_putBit_same _ _ _ _ (by decide),
        (s.putBit_regsOnly Reg.attStat 0 true).withAttest true⟩⟩
  case quote =>
    exact ⟨_, _, execAttestationQuote_answers him ha, (State.attest_wr _ _ _).trans (State.attest_wrRun _ _ _), State.rd_wr_same _ _ _, rfl, rfl⟩
  case revoke =>
    refine ⟨_, execSecRevoke_rig v s, rfl, fun k hk => (Nat.testBit_lor _ _ _).trans (congrArg (_ || ·) (s.testBit_revokeMask_in_use v hk))⟩
  case kick =>
    exact ⟨_, execKick_rig v s, s.fld_wdogPeriod v, rfl, (s.wdogPeriod_regsOnly v).withWdogAt _⟩

end Sys2Proof.Machine
end

section
/-! Power (R598 to R607) and the cages (R609). -/

namespace Sys2Proof.Machine

/-! ### The power states (R598) -/

/-- The supplies' controls as WAKE finds them. -/
def State.wakePins (s : State) (en p0 p1 : Bool) : State := { s with pwrEn := en, perst := [p0, p1] }

theorem execWake_off (input : Nat) (en p0 p1 : Bool) {s : State} (hoff : s.power = .off) : execWake input en p0 p1 s =
    .next (if (s.wakePins en p0 p1).wakes input = true then { s.wakePins en p0 p1 with power := .ramp } else s.wakePins en p0 p1) :=
  if_neg (not_not.2 hoff)

theorem State.wakes_wakePins (s : State) (input : Nat) (en p0 p1 : Bool) :
    (s.wakePins en p0 p1).wakes input = true ↔ 4350 ≤ input ∧ (en = true ∨ p0 = true ∨ p1 = true) := by
  simp [State.wakes, State.wakePins]

/-- A module that may leave LATCHOFF by a cycle of PWR_EN. -/
def State.pwrCycled (s : State) : State := { s with pwrEn := true, power := .off }

theorem execLatchoffExit_cycled (input : Nat) {s : State} (h : s.power = .latchoff) :
    execLatchoffExit input true s = .next (if s.pwrCycled.wakes input = true then { s.pwrCycled with power := .ramp } else s.pwrCycled) :=
  if_neg (not_not.2 h)

theorem State.wakes_pwrCycled (s : State) (input : Nat) : s.pwrCycled.wakes input = true ↔ 4350 ≤ input := by
  simp [State.wakes, State.pwrCycled]

theorem execLatchoffExit_low {input : Nat} {s : State} (h : s.power = .latchoff) (hin : input < 500) :
    execLatchoffExit input false s = .next { s with power := .off } :=
  (if_neg (not_not.2 h)).trans ((if_neg Bool.false_ne_true).trans (if_pos hin))

theorem State.mem_moduleReset (s : State) (code : Nat) : (s.moduleReset code).mem = [] := by
  obtain ⟨r, h⟩ := s.moduleReset_frame code
  exact (congrArg State.mem h :)

theorem State.pending_resetRecord (s : State) (code : Nat) : (s.resetRecord code).pending = s.pending := by
  unfold State.resetRecord
  split <;> rfl

theorem State.pending_moduleReset (s : State) (code : Nat) : (s.moduleReset code).pending = s.pending := by
  obtain ⟨r, h⟩ := s.moduleReset_frame code
  exact (congrArg State.pending h :).trans (s.pending_resetRecord code)

/-! ### What stops a module that is ON -/

section
variable {s u : State} {inj : Bool} (hon : s.power = .on)
include hon

theorem execRailFault_on {rail : Nat} (hi : s.takeInj Reg.pwrInj (if rail = 0 then 2 else 3) 0 = (inj, u)) :
    execRailFault rail s = .next (u.railFaults rail inj) := by
  unfold execRailFault
  rw [if_neg (not_not.2 hon), hi]

theorem execThermalTrip_on {part : Nat} {temp : Int} (ht : (thresholds part).2.2 ≤ temp) (hi : s.takeInj Reg.pwrInj 6 part = (inj, u)) :
    execThermalTrip part temp s = .next (u.tripPart part inj) := by
  unfold execThermalTrip
  rw [if_pos ⟨hon, ht⟩, hi]

theorem execPwrOff_on {ag : Agent} {v : Word} (hag : Who.barRig.admits ag = true) (hkey : bits v 15 8 = 0x5A) (hgo : bit v 0 = true) :
    execPwrOff ag v s = .next (s.powerDown .off) :=
  if_pos (by simp [hag, hkey, hgo, hon])

end

theorem execCapfail_forms (p10 : Nat) {s u : State} {inj : Bool} (hi : s.takeInj Reg.pwrInj 4 0 = (inj, u)) (h : inj = true ∨ 10000 ≤ s.floorB) :
    execCapfail p10 s = .next (u.condition 0x83 0 1 (p10 % 2 ^ 16) inj) := by
  unfold execCapfail
  rw [hi]
  exact if_pos (by simpa using h)

/-! ### Sensors (R605, R607) -/

/-- The trip comparators' state after a reading. -/
def State.cooledBy (s : State) (temps : Temps) : State :=
  { s with cooled := (tempParts temps).all (fun x => decide (heldAt x + 15 ≤ (thresholds x.1).2.2)) }

/-- The holds of a reading that was taken, and its parts' alerts. -/
def State.alerted (u : State) (temps : Temps) : State :=
  (tempParts temps).foldl (fun (w : State) x => w.partAlert x)
    (State.putBit { u with hot := holdsOf u.hot ((tempParts temps).map u.reported) } Reg.pwrStat 17
      (State.thermalHold { u with hot := holdsOf u.hot ((tempParts temps).map u.reported) }))

/-- Does the coolant stand outside its limits? -/
def coolantOut (temps : Temps) (cool : Bool) : Bool := cool || decide (temps.inlet < 25) || decide (45 < temps.inlet) || decide (60 < temps.outlet)

/-- The coolant's alert and what is injected. -/
def State.coolantChecked (w : State) (temps : Temps) (cool : Bool) : State :=
  State.injectedReading (if coolantOut temps cool then w.condition 0x87 0 5 (256 * trunc 8 temps.outlet + trunc 8 temps.inlet) cool else w) (tempParts temps)

theorem execSensorReading_on {temps : Temps} {s w : State} {cool : Bool} (hon : s.power = .on) (hs : s.start ≠ 0)
    (hi : (((s.cooledBy temps).readTemps temps).alerted temps).takeInj Reg.pwrInj 8 0 = (cool, w)) :
    execSensorReading temps s = .next (w.coolantChecked temps cool) := by
  have hrun : ¬ ((s.cooledBy temps).power ≠ .on ∨ (s.cooledBy temps).start = 0) := fun h => h.elim (fun h => h hon) hs
  refine (if_neg hrun).trans ?_
  show Host.Outcome.next (State.coolantChecked ((((s.cooledBy temps).readTemps temps).alerted temps).takeInj Reg.pwrInj 8 0).2 temps
    ((((s.cooledBy temps).readTemps temps).alerted temps).takeInj Reg.pwrInj 8 0).1) = _
  rw [hi]

/-! ### Cages (R609) -/

/-- One bit of a number put together from the bits above it, itself and the bits below. -/
theorem testBit_parts {a b c k : Nat} (hb : b < 2) (hc : c < 2 ^ k) (j : Nat) :
    (2 ^ (k + 1) * a + (2 ^ k * b + c)).testBit j = if j = k then b == 1 else (2 ^ (k + 1) * a + c).testBit j := by
  have hlow : 2 ^ k * b + c < 2 ^ (k + 1) := by
    rw [Nat.pow_succ]
    nlinarith
  have hc' : c < 2 ^ (k + 1) := hc.trans (Nat.pow_lt_pow_right (by decide) (Nat.lt_succ_self k))
  rw [Nat.two_pow_add_eq_or_of_lt hlow, Nat.two_pow_add_eq_or_of_lt hc, Nat.two_pow_add_eq_or_of_lt hc']
  simp only [Nat.testBit_or, Nat.testBit_two_pow_mul]
  split
  case isTrue h =>
    subst h
    have hb' : b = 0 ∨ b = 1 := by omega
    rcases hb' with rfl | rfl <;> simp [Nat.testBit_lt_two_pow hc]
  case isFalse h =>
    rcases Nat.lt_or_gt_of_ne h with h | h
    · simp [Nat.not_le.2 h]
    · have hz : b.testBit (j - k) = false := Nat.testBit_lt_two_pow (hb.trans_le (Nat.le_self_pow (by omega) 2))
      simp [hz]

/-- A presence pin's new level among the pins. -/
def setPin (pins k : Nat) (low : Bool) : Nat := pins - pins.land (2 ^ k) + if low then 2 ^ k else 0

/-- A number is put together from the bits above one of its bits, that bit and the bits below. -/
theorem parts_of (n k : Nat) : 2 ^ (k + 1) * (n / 2 ^ (k + 1)) + (2 ^ k * (n / 2 ^ k % 2) + n % 2 ^ k) = n := by
  rw [Nat.add_comm (2 ^ k * _), ← Nat.mod_pow_succ, Nat.div_add_mod]

theorem setPin_parts (pins k : Nat) (low : Bool) : setPin pins k low = 2 ^ (k + 1) * (pins / 2 ^ (k + 1)) + (2 ^ k * low.toNat + pins % 2 ^ k) := by
  have hland : pins.land (2 ^ k) = 2 ^ k * (pins / 2 ^ k % 2) := (Nat.and_two_pow pins k).trans (by rw [Nat.toNat_testBit, Nat.mul_comm])
  have hparts := parts_of pins k
  unfold setPin
  rw [hland]
  cases low
  · simp only [Bool.false_eq_true, if_false, Bool.toNat_false]
    omega
  · simp only [if_true, Bool.toNat_true]
    omega

theorem testBit_setPin (pins k : Nat) (low : Bool) (j : Nat) : (setPin pins k low).testBit j = if j = k then low else pins.testBit j := by
  have hc : pins % 2 ^ k < 2 ^ k := Nat.mod_lt _ (Nat.two_pow_pos k)
  have hold := testBit_parts (a := pins / 2 ^ (k + 1)) (b := pins / 2 ^ k % 2) (Nat.mod_lt _ (by decide)) hc j
  rw [parts_of] at hold
  rw [setPin_parts, testBit_parts (Bool.toNat_lt low) hc]
  split
  case isTrue => cases low <;> rfl
  case isFalse h => rw [hold, if_neg h]

theorem execCagePresence_in {cage pos : Nat} (hc : cage < 8) (hp : pos < 3) (low : Bool) (s : State) : execCagePresence cage pos low s =
    .next (({ s with cagePins := setPin s.cagePins (3 * cage + pos) low } : State).putBit Reg.cage (8 + (3 * cage + pos)) low) :=
  if_neg (by omega)

theorem regsOnly.withCagePins {s t : State} {as : List Nat} (h : regsOnly s t as) (n : Nat) :
    regsOnly s { ({ t with cagePins := n } : State) with cagePins := s.cagePins } as :=
  ⟨(congrArg (fun x : State => { x with cagePins := s.cagePins }) h.1 :), h.2⟩

/-- Settles O58: each command by its condition. The reading that clears a trip and the alerts' INFO bits are the model's (log entries 136, 134). -/
theorem powerRule : Obligations.PowerRule := by
  intro s
  refine ⟨fun input en p0 p1 hoff => ?wake, fun hramp => ⟨if_pos hramp, if_pos hramp⟩, fun hon => ⟨if_pos hon, if_pos hon,
    fun ag v hag hkey hgo => execPwrOff_on hon hag hkey hgo, fun rail inj u hi => execRailFault_on hon hi,
    fun part temp inj u ht hi => execThermalTrip_on hon ht hi⟩,
    fun h => if_pos h, fun p => ⟨rfl, rfl, rfl, s.mem_moduleReset 1, s.pending_moduleReset 1⟩, fun input h => ⟨execLatchoffExit_low h, ?cycled⟩,
    fun ag v => ⟨fun h => if_pos h, fun h => if_pos h⟩, fun p10 inj u hi h => execCapfail_forms p10 hi h,
    fun n hn hon => ⟨fun h h2 => if_pos ⟨hon, hn, h, h2⟩, fun h => if_pos ⟨hon, hn, h⟩⟩, fun temps u v hon hs hu hv cool w hi => ?sensors,
    fun ht hc => if_pos (by simp [ht, hc]), fun cage pos low hc hp => ?pin, fun cage hc h => if_pos ⟨hc, h⟩⟩
  case wake =>
    have hw := s.wakes_wakePins input en p0 p1
    refine ⟨_, execWake_off input en p0 p1 hoff, ?_⟩
    split
    case isTrue h => exact ⟨rfl, rfl, iff_of_true rfl (hw.1 h), rfl⟩
    case isFalse h =>
      exact ⟨rfl, rfl, iff_of_false (fun hp => Power.noConfusion (hoff.symm.trans hp)) (mt hw.2 h), rfl⟩
  case cycled =>
    have hw := s.wakes_pwrCycled input
    refine ⟨_, execLatchoffExit_cycled input h, ?_⟩
    split
    case isTrue hk => exact ⟨(if_pos (hw.1 hk)).symm, rfl, rfl⟩
    case isFalse hk => exact ⟨(if_neg (mt hw.2 hk)).symm, rfl, rfl⟩
  case sensors =>
    subst hu hv
    exact execSensorReading_on hon hs hi
  case pin =>
    refine ⟨_, execCagePresence_in hc hp low s, (testBit_setPin _ _ _ _).trans (if_pos rfl), fun k hk => (testBit_setPin _ _ _ _).trans (if_neg hk),
      State.flag_putBit_same _ _ _ _ (by omega), (s.putBit_regsOnly _ _ _).withCagePins _⟩

end Sys2Proof.Machine
end

section
/-! Discovery waves and the election of the zenith (R539, R540, R542). -/

namespace Sys2Proof.Machine

/-! ### ADVERT -/

/-- Does the candidate change? -/
def State.newCandidate (s : State) (n : Nat) : Bool :=
  match s.best with
  | none => true
  | some b => b.serial != n

theorem State.newCandidate_iff (s : State) (n : Nat) : s.newCandidate n = true ↔ ∀ b, s.best = some b → b.serial ≠ n := by
  unfold State.newCandidate
  cases s.best <;> simp

/-- Is the close of its election new? -/
def State.newClose (s : State) (n : Nat) (closed : Bool) : Bool :=
  match s.best with
  | none => closed
  | some b => closed && (!b.closed || b.serial != n)

theorem State.newClose_iff (s : State) (n : Nat) (closed : Bool) :
    s.newClose n closed = true ↔ closed = true ∧ ∀ b, s.best = some b → b.closed = false ∨ b.serial ≠ n := by
  unfold State.newClose
  cases s.best <;> simp

/-- A candidate taken: its serial, its distance and the state of its election. -/
def State.candidateTaken (s : State) (port : Nat) (serial : Word) (hops : Nat) (closed fresh : Bool) : State :=
  (((({ s with best := some ⟨serial.toNat, hops, port, closed⟩ } : State).wr Reg.zser serial).put Reg.casc 39 35 hops).setDisc
    (if closed then 3 else 2)).closeKnown fresh

/-- Its address noted where the election is closed. -/
def State.zenithAddr (u : State) (n : Nat) (closed : Bool) : State := if closed then u.put Reg.casc 63 52 (u.addrs.get (fun _ => 0) n - 1) else u

/-- The module joins a new candidate, and passes the ADVERT on. -/
def State.passOn (v : State) (port : Nat) (change : Bool) : State :=
  State.advertise (if change then v.flood 8 (joinTag v.serial) [port] else v)
    ((if change then v.flood 8 (joinTag v.serial) [port] else v).upPorts.filter (· != port))

/-! ### The records of a JOIN and of a ROUTE -/

/-- The way to a module that joins. -/
def State.joinedBy (s : State) (port n : Nat) : State := { s with joinPort := s.joinPort.set (fun _ => 0) n (port + 1) }

/-- A JOIN recorded at the candidate. -/
def State.joinCounted (s : State) (n : Nat) : State := { s with joins := if !s.joins.contains n then s.joins ++ [n] else s.joins, joinAt := s.ns }

/-- A JOIN recorded, with its count in DISC. -/
def State.joinNoted (s : State) (n : Nat) : State := (s.joinCounted n).put Reg.disc 59 47 (s.joinCounted n).joins.length

theorem State.joins_joinNoted (s : State) (n : Nat) : (s.joinNoted n).joins = if s.joins.contains n then s.joins else s.joins ++ [n] := by
  show (if !s.joins.contains n then s.joins ++ [n] else s.joins) = _
  cases s.joins.contains n <;> rfl

theorem State.fld_joinNoted (s : State) (n : Nat) : (s.joinNoted n).fld Reg.disc 59 47 = (s.joinNoted n).joins.length % 2 ^ 13 :=
  State.fld_put_same _ _ _ _ _ (by decide) (by decide)

theorem regsOnly.withJoins {s t : State} {as : List Nat} (h : regsOnly s t as) (js : List Nat) (at' : Nat) (ps : Tab Nat) :
    regsOnly s { ({ t with joins := js, joinAt := at', joinPort := ps } : State) with joins := s.joins, joinAt := s.joinAt, joinPort := s.joinPort } as :=
  ⟨(congrArg (fun x : State => { x with joins := s.joins, joinAt := s.joinAt, joinPort := s.joinPort }) h.1 :), h.2⟩

/-- The far end of a port one hop away. -/
def State.neighbour (s : State) (port addr hops : Nat) : State := if hops = 1 then s.put (Reg.pstat port) 63 52 addr else s

/-- A route by a port noted with the fewest hops heard. -/
def State.routeNoted (u : State) (port addr hops : Nat) : State :=
  { u with routes := u.routes.set (fun _ => []) addr ((u.routesTo addr).filter (fun r => r.1 != port) ++ [(port,
    match (u.routesTo addr).find? (fun r => r.1 == port) with
    | some r => min r.2 hops
    | none => hops)]) }

section
variable {port : Nat} {serial : Word} {s : State} (hup : s.portUp port = true)
include hup

theorem execAdvert_takes {hops : Nat} {closed : Bool} (hserial : serial.toNat ≠ s.serial) (hhops : hops ≤ 16)
    (hbest : ∀ b, s.best = some b → (⟨serial.toNat, hops, port, closed⟩ : Advert).better b = true) : execAdvert port serial hops closed s =
      .next (((s.candidateTaken port serial hops closed (s.newClose serial.toNat closed)).zenithAddr serial.toNat closed).passOn port
        (s.newCandidate serial.toNat)) := by
  have hrun : ¬ ((!s.portUp port) = true ∨ serial.toNat = s.serial) := by simp [hup, hserial]
  refine (if_neg hrun).trans ((if_neg (Nat.not_lt.2 hhops)).trans (if_neg ?_))
  revert hbest
  cases s.best with
  | none => simp
  | some b => intro h; simp [h b rfl]

theorem execAdvert_ignores {hops : Nat} {closed : Bool} {b : Advert} (hbest : s.best = some b)
    (hbetter : (⟨serial.toNat, hops, port, closed⟩ : Advert).better b = false) (hhops : hops ≤ 16) : execAdvert port serial hops closed s = .next s := by
  by_cases hserial : serial.toNat = s.serial
  · exact if_pos (Or.inr hserial)
  · have hrun : ¬ ((!s.portUp port) = true ∨ serial.toNat = s.serial) := by simp [hup, hserial]
    refine (if_neg hrun).trans ((if_neg (Nat.not_lt.2 hhops)).trans (if_pos ?_))
    rw [hbest]
    simp [hbetter]

/-! ### JOIN -/

theorem execJoin_recorded {b : Advert} (hbest : s.best = some b) (hport : 96 ≤ b.port) (hclosed : b.closed = false) :
    execJoin port serial s = .next ((s.joinedBy port serial.toNat).joinNoted serial.toNat) := by
  refine (if_neg (by simp [hup])).trans ?_
  extract_lets +onlyGivenNames n t
  rw (occs := .pos [1]) [show t.best = some b from hbest]
  refine (if_neg (Nat.not_lt.2 hport)).trans ?_
  rw [hclosed]
  rfl

theorem execJoin_forwarded {b : Advert} (hbest : s.best = some b) (hport : b.port < 96) :
    execJoin port serial s = .next ((s.joinedBy port serial.toNat).flood 8 (joinTag serial.toNat) [b.port]) := by
  refine (if_neg (by simp [hup])).trans ?_
  extract_lets +onlyGivenNames n t
  rw (occs := .pos [1]) [show t.best = some b from hbest]
  exact if_pos hport

/-! ### ADDR and ROUTE -/

theorem execAddr_passes (addr : Nat) (h : serial.toNat ≠ s.serial) : execAddr port serial addr s = .next (s.sendAddr serial.toNat addr) :=
  (if_neg (by simp [hup])).trans (if_neg h)

theorem execAddr_takes (addr : Nat) (h : serial.toNat = s.serial) : execAddr port serial addr s =
    .next ((({ s with addrs := s.addrs.set (fun _ => 0) s.serial (addr + 1) } : State).setDisc 3).takeAddr addr) :=
  (if_neg (by simp [hup])).trans (if_pos h)

theorem execRoute_up (addr hops : Nat) : execRoute port addr hops s =
    .next (if hops < ((s.neighbour port addr hops).routesTo addr).foldl (fun m r => min m r.2) 4096 then
      ((s.neighbour port addr hops).routeNoted port addr hops).flood 10 (routeTag addr (hops + 1))
        (((s.neighbour port addr hops).routeNoted port addr hops).upPorts.filter (· != port))
      else (s.neighbour port addr hops).routeNoted port addr hops) :=
  (if_neg (by simp [hup])).trans (apply_ite Host.Outcome.next _ _ _).symm

end

/-! ### The election -/

theorem execElectionClose_closes {s : State} {b : Advert} {t0 : Nat} (hbest : s.best = some b) (hat : s.upAt = some t0) (hc : s.candidate = true)
    (hport : 96 ≤ b.port) (hclosed : b.closed = false) (hdue : max t0 s.joinAt + 40000000 ≤ s.ns) : execElectionClose s = .next s.becomeZenith := by
  unfold execElectionClose
  rw [hbest, hat]
  exact if_pos (by simp [hc, hport, hclosed, hdue])

theorem execNozenith_shows {s : State} {t0 : Nat} (hbest : s.best = none) (hat : s.upAt = some t0) (hst : s.fld Reg.disc 63 61 < 2)
    (hdue : t0 + 100000000 ≤ s.ns) :
    execNozenith s = .next (s.setDisc 5) := by
  unfold execNozenith
  rw [hat]
  exact if_pos (by simp [hbest, hst, hdue])

/-- A module that lost its zenith: HOLDOVER where it was ALIGNED. -/
def State.heldOver (s : State) : State := if s.alignState = 1 then s.holdover false 0 else s

/-- Discovery begins again. -/
def State.rediscovering (u : State) : State :=
  State.setDisc { u with alignOut := false, best := if u.candidate then some ⟨u.serial, 0, 128, false⟩ else none } 1

theorem execZenithLost_runs {s : State} {b : Advert} (hbest : s.best = some b) (hclosed : b.closed = true) (hport : b.port < 96) (elected : Bool) :
    execZenithLost elected s = if (elected && s.heldOver.rediscovering.candidate) = true then .next s.heldOver.rediscovering.becomeZenith
      else .next (s.heldOver.rediscovering.advertise s.heldOver.rediscovering.upPorts) := by
  unfold execZenithLost
  rw [hbest]
  exact if_neg (by simp [hclosed, hport])

/-- Settles O35: each block's command by its cases. The tags' layouts (log entry 68) and a port that comes UP after discovery (log entry 75) are the model's. -/
theorem discoveryAndElection : Obligations.DiscoveryAndElection := by
  refine ⟨fun port serial s hup => ⟨fun hops closed a change fresh u v w hserial hhops ha hbest hchange hfresh hu hv hw => ?advert,
    fun b hops closed hbest hbetter hhops => execAdvert_ignores hup hbest hbetter hhops, fun b hbest hport hclosed => ?join,
    fun b hbest hport => execJoin_forwarded hup hbest hport, fun addr => ⟨execAddr_passes hup addr, execAddr_takes hup addr⟩,
    fun addr hops u v hu hv => ?route⟩,
    fun s b t0 => ⟨execElectionClose_closes, fun hbest hat hst hdue => ?nozenith, fun hbest hclosed hport u v hu hv => ?lost⟩⟩
  case advert =>
    subst ha
    have hch : change = s.newCandidate serial.toNat := Bool.eq_iff_iff.2 (hchange.trans (s.newCandidate_iff _).symm)
    have hfr : fresh = s.newClose serial.toNat closed := Bool.eq_iff_iff.2 (hfresh.trans (s.newClose_iff _ closed).symm)
    subst hch hfr hu hv hw
    exact execAdvert_takes hup hserial hhops hbest
  case join =>
    refine ⟨_, execJoin_recorded hup hbest hport hclosed, (s.joinedBy port serial.toNat).joins_joinNoted _, rfl, Tab.get_set_same _ _ _ _,
      State.fld_joinNoted _ _, ?_⟩
    exact (s.put_regsOnly Reg.disc 59 47 _).withJoins _ _ _
  case route =>
    subst hu hv
    exact execRoute_up hup addr hops
  case nozenith =>
    exact ⟨_, execNozenith_shows hbest hat hst hdue, State.fld_put_same _ _ _ _ _ (by decide) (by decide),
      State.fld_put_apart _ _ _ _ _ _ _ (by decide) (by decide) (by decide) (Or.inl (by decide)), s.put_regsOnly _ _ _ _⟩
  case lost =>
    subst hu hv
    have hrun := execZenithLost_runs hbest hclosed hport
    exact ⟨(hrun true).trans (apply_ite Host.Outcome.next _ _ _).symm, (hrun false).trans (if_neg Bool.false_ne_true)⟩

end Sys2Proof.Machine
end

section
/-! Port states (Table 17.6, R536) and strand errors (R525, R529). -/

namespace Sys2Proof.Machine

/-! ### Training (R536) -/

theorem execPortTraining_trains {port : Nat} {s : State} (hready : s.ready? = true) (hdown : s.portState port = 0)
    (hdue : s.downAt.get (fun _ => 0) port = 0 ∨ s.downAt.get (fun _ => 0) port - 1 + 100000000 ≤ s.ns) : execPortTraining port s = .next (s.setPort port 1) :=
  if_pos (by simpa [hready, hdown] using hdue)

theorem State.portState_setPort (s : State) (port : Nat) {st : Nat} (h : st < 16) : (s.setPort port st).portState port = st :=
  (State.fld_put_same _ _ _ _ _ (by decide) (by decide)).trans (Nat.mod_eq_of_lt h)

section
variable {port : Nat} {s : State}

theorem execNoLock_faults (htrain : s.portState port = 1) (hrec : s.recovering 3 (32 + port) = false) : execNoLock port s =
    .next ((s.portDown port).detect { cls := 3, sev := 2, rtype := 0, det := 0x34, dom := 3, inst := 32 + port }) :=
  (if_neg (not_not.2 htrain)).trans (if_neg (Bool.not_eq_true _ ▸ hrec))

theorem execNoLock_recovering (htrain : s.portState port = 1) (hrec : s.recovering 3 (32 + port) = true) : execNoLock port s =
    .next ((s.portDown port).form { cls := 3, sev := 0, rtype := 3, det := 0x34, dom := 3, inst := 32 + port }) :=
  (if_neg (not_not.2 htrain)).trans (if_pos hrec)

/-! ### IDENT (R536, R539) -/

theorem execIdent_loop {farSerial : Word} (farPort : Nat) (htrain : s.portState port = 1) (hself : farSerial.toNat = s.serial) :
    execIdent port farSerial farPort s =
      .next ((((s.setPort port 4).putBit (Reg.pstat port) 44 true).detect { cls := 3, sev := 2, rtype := 0, det := 0x36, dom := 3, inst := 32 + port }).resolve
        3 (32 + port) 5 0) :=
  (if_neg (not_not.2 htrain)).trans (if_pos hself)

variable (port s) in
/-- A port that came UP, with the far end's identity and its sequence numbers at 0. -/
def State.identified (farSerial : Word) (farPort : Nat) : State :=
  ((((((s.setPort port 2).put (Reg.pstat port) 51 45 farPort).wr (Reg.pfar port) farSerial).noteTime Reg.bup1 31 0).setPseq port 0).setPseq
    (96 + port) 0).setPseq (192 + port) 0

/-- Its failures and its retry buffer forgotten. -/
def State.portFresh (u : State) (port : Nat) : State :=
  { u with downAt := u.downAt.set (fun _ => 0) port 0, retry := u.retry.filter (fun x => x.port != port), upAt := if u.upAt.isNone then some u.ns else u.upAt }

/-- A candidate that knows no other is its own best. -/
def State.standing (v : State) : State :=
  if v.best.isNone && v.candidate then { (v.wr Reg.zser (v.rd Reg.secSerial)) with best := some ⟨v.serial, 0, 128, false⟩ } else v

/-- Discovery starts on the port. -/
def State.discoveryStarts (w : State) (port : Nat) : State :=
  ((w.cond (w.fld Reg.disc 63 61 == 0) (fun s => s.setDisc 1)).resolve 3 (32 + port) 7 0).advertise [port]

theorem execIdent_up {farSerial : Word} (farPort : Nat) (htrain : s.portState port = 1) (hfar : farSerial.toNat ≠ s.serial) {x : State}
    (hx : x = (((State.identified port s farSerial farPort).portFresh port).standing).discoveryStarts port) : execIdent port farSerial farPort s =
      .next (if x.addrs.get (fun _ => 0) x.serial = 0 then x else x.flood 10 (routeTag x.selfAddr 1) [port]) := by
  subst hx
  exact (if_neg (not_not.2 htrain)).trans (if_neg hfar)

/-! ### Retraining (R536) -/

theorem execLockRegained_resends (h : s.portState port = 3) : execLockRegained port s = .next ((s.setPort port 2).resend port) := if_neg (not_not.2 h)

theorem execUncorrectableCodewords_retrains {u v : State} {inj : Bool} (hup : s.portState port = 2) (hi : s.takeInj (Reg.pinj port) 3 0 = (inj, u))
    (hv : v = if inj then u else u.bump (Reg.pcnt port) 31 16 (16 - (u.cwErr.filter (fun c => c.1 == port && decide (u.ns < c.2 + 1000000))).length)) :
    execUncorrectableCodewords port s = .next (v.retrain port inj) := by
  unfold execUncorrectableCodewords
  rw [if_neg (not_not.2 hup), hi, hv]

/-- A port whose retraining failed, with its retry buffer emptied. -/
def State.retrainFailed (s : State) (port : Nat) : State :=
  { ((s.portDown port).bump (Reg.pretry port) 15 0 1) with retry := s.retry.filter (fun x => x.port != port) }

theorem execRetrainFail_down (h : s.portState port = 3) : execRetrainFail port s =
    .next ((((s.retrainFailed port).reroute (s.retry.filter (fun x => x.port == port))).bump (Reg.pretry port) 63 32
      (s.retry.filter (fun x => x.port == port)).length).detect { cls := 3, sev := 2, rtype := 0, det := 0x34, dom := 3, inst := 32 + port }) :=
  if_neg (not_not.2 h)

end

/-! ### Strands (R525, R529) -/

section
variable {bundle dir lane : Nat} {s u v : State} {i1 i2 : Bool}

theorem execStrandFlitCrc_counts (h1 : s.takeInj Reg.stlInj 1 (128 * bundle + 64 * dir + lane) = (i1, u))
    (h2 : u.takeInj Reg.stlInj 2 (128 * bundle + 64 * dir + lane) = (i2, v)) : execStrandFlitCrc bundle dir lane s = .next (v.flitReplay bundle (i1 || i2)) := by
  unfold execStrandFlitCrc
  rw [h1]
  dsimp only
  rw [h2]

theorem execLaneParityAlarm_tests (out : SelfTest) (hin : s.laneIn bundle dir lane = true)
    (hi : s.takeInj Reg.fltInj 6 (dir * 2048 + lane * 32 + bundle) = (i1, u)) :
    execLaneParityAlarm bundle dir lane out s = .next (u.laneAlarm bundle dir lane out i1) := by
  unfold execLaneParityAlarm
  rw [if_neg (by simp [hin]), hi]

end

/-- Settles O37: each event of a port or a strand in the state that admits it. The restart of the sequence numbers, HWP_PCNT's growth and a training that fails
inside a recovery are the model's readings (log entries 73, 77, 80). -/
theorem portsAndStrandsFail : Obligations.PortsAndStrandsFail := by
  refine ⟨fun port s => ⟨fun hready hdown hdue => ⟨_, execPortTraining_trains hready hdown hdue, s.portState_setPort port (by decide),
    s.put_regsOnly _ _ _ _⟩,
    execNoLock_faults, execNoLock_recovering, execLockRegained_resends, fun hup inj u v w hi hv hw => ?codewords, fun h => ⟨_, rfl, execRetrainFail_down h⟩,
    fun farSerial farPort htrain hself => execIdent_loop farPort htrain hself, fun farSerial farPort u v w x htrain hfar hu hv hw hx => ?ident⟩,
    fun bundle dir lane out s u v i1 i2 => ⟨execStrandFlitCrc_counts, execLaneParityAlarm_tests out⟩⟩
  case codewords =>
    rw [hw]
    exact execUncorrectableCodewords_retrains hup hi hv
  case ident =>
    subst hu hv hw
    exact execIdent_up farPort htrain hfar hx

end Sys2Proof.Machine
end

section
/-! Loads, stores, reservations and cache-block operations of the server cores (R405, R410, R412, R416, R421). -/

namespace Sys2Proof.Machine

/-! ### Accesses that meet no injection -/

/-- Is an injection of this kind armed for a core's check? -/
def State.armedFor (s : State) (core k : Nat) : Bool :=
  s.armed.any (fun a => a.reg == Reg.cdinj && a.kind == k && (k == 3 || k == 4 || a.target == core / 8))

/-- One check of a core's read: the copy of `who` meets an injection of kind `k`. -/
def State.meetCheck (core addr : Nat) (s : State) (k who : Nat) (two : Bool) : State :=
  match s.line addr with
  | none => s
  | some l => match l.copyOf who with
    | none => s
    | some c => if s.armedFor core k && (k == 1 || c.st == .m || c.st == .o) then (s.takeCd k core).2.copyEcc l c who addr two true else s

theorem State.meetCore_eq (s : State) (core addr : Nat) : s.meetCore core addr =
    State.meetCheck core addr (State.meetCheck core addr (State.meetCheck core addr (s.cond (s.armedFor core 4) (fun s => s.domainFails false core)) 3 64 true)
      1 core false) 2 core true := rfl

section
variable {s : State} (harm : ∀ a ∈ s.armed, a.reg ≠ Reg.cdinj) (core addr : Nat)
include harm

theorem State.armedFor_unarmed (k : Nat) : s.armedFor core k = false := List.any_eq_false.2 (fun a ha => by simp [harm a ha])

theorem State.meetCheck_unarmed (k who : Nat) (two : Bool) : State.meetCheck core addr s k who two = s := by
  unfold State.meetCheck
  split
  · rfl
  · split
    · rfl
    · rw [State.armedFor_unarmed harm]
      rfl

theorem State.meetCore_unarmed : s.meetCore core addr = s := by
  have hcond : s.cond (s.armedFor core 4) (fun s => s.domainFails false core) = s := if_neg (by simp [State.armedFor_unarmed harm])
  rw [State.meetCore_eq, hcond]
  simp only [State.meetCheck_unarmed harm]

end

section
variable {core addr width : Nat} {s : State} (hruns : s.coreRuns core = true) (hmain : isMain addr = true) (hone : oneLine addr width = true)
  (hwait : s.hostWaits addr = false) (hok : s.mainOk addr = true) (hfree : s.mustWait addr core = false) (harm : ∀ a ∈ s.armed, a.reg ≠ Reg.cdinj)
include hruns hmain hone hwait hok hfree harm

/-- A load that no copy in its hold delays, of a line that is not poisoned. -/
theorem execCoreRead_main (hgood : ((s.winShared core addr).copyValue core addr width).2 = false) : execCoreRead core addr width s =
    .next { s.winShared core addr with reply := some (BitVec.ofNat 64 ((s.winShared core addr).copyValue core addr width).1) } := by
  unfold execCoreRead
  rw [if_neg (by simp [hruns]), if_neg (by simp [hmain]), if_neg (by simp [hone, hwait]), if_neg (by simp [hok]), if_neg (by simp [hfree]),
    State.meetCore_unarmed harm]
  refine (if_neg (by simp [hruns])).trans (if_neg (fun h => Bool.false_ne_true (hgood.symm.trans h)))

/-- A store, or another operation of its kind, that no copy in its hold delays. -/
theorem execCoreWrite_main (v : Word) {kind : StoreKind} (hkind : kind = .lr ∨ kind = .sc → (width = 4 ∨ width = 8) ∧ addr % width = 0) :
    execCoreWrite core addr width v kind s = .next (s.coreMain core addr width v kind) := by
  have haligned : ¬ ((kind = .lr ∨ kind = .sc) ∧ ((width ≠ 4 ∧ width ≠ 8) ∨ addr % width ≠ 0)) := by
    rintro ⟨hk, h⟩
    obtain ⟨hw, ha⟩ := hkind hk
    omega
  unfold execCoreWrite
  rw [if_neg (by simp [hruns]), if_neg (by simp [hmain]), if_neg (by simp [hone, hwait]), if_neg (by simp [hok]), if_neg haligned, if_neg (by simp [hfree]),
    State.meetCore_unarmed harm]
  exact if_neg (by simp [hruns])

end

/-! ### The data that a core wins -/

/-- Copies changed into ones as dirty as before, with the same bytes, hold the same data. -/
theorem dirtyBytes_map_dirty (l : Line) (st : LineState) (f : Copy → Copy) (hd : ∀ x, (f x).isDirty = x.isDirty) (hb : ∀ x, (f x).bytes = x.bytes) :
    dirtyBytes (some ⟨st, l.copies.map f⟩) = dirtyBytes (some l) := by
  have hdf : Copy.isDirty ∘ f = Copy.isDirty := funext hd
  unfold dirtyBytes
  simp only [Option.bind_some, Line.dirty_eq, List.find?_map, hdf, Option.map_map]
  exact congrArg (Option.map · _) (funext hb)

/-- A clean copy more changes nothing of it. -/
theorem dirtyBytes_append_clean (st : LineState) (cs : List Copy) (c : Copy) (hc : c.isDirty = false) :
    dirtyBytes (some ⟨st, cs ++ [c]⟩) = dirtyBytes (some ⟨st, cs⟩) := by
  unfold dirtyBytes
  simp only [Option.bind_some, Line.dirty_eq, List.find?_append, List.find?_cons, hc, List.find?_nil, Option.or_none]

theorem dirtyBytes_single (st : LineState) (c : Copy) : dirtyBytes (some ⟨st, [c]⟩) = if c.isDirty then some c.bytes else none := by
  unfold dirtyBytes
  simp only [Option.bind_some, Line.dirty_eq, List.find?_cons, List.find?_nil]
  cases c.isDirty <;> rfl

/-- A copy that a new holder joins. -/
def Copy.demoted (c : Copy) : Copy :=
  { c with st := match c.st with
    | .m => .o
    | .e => .s
    | x => x }

theorem Copy.isDirty_demoted (c : Copy) : c.demoted.isDirty = c.isDirty := by
  obtain ⟨_, st, _, _, _, _⟩ := c
  cases st <;> rfl

/-- A line won by a read holds the same data (R410). -/
theorem State.winShared_keepsData (s : State) (core a : Nat) : KeepsData s (s.winShared core a) := by
  unfold State.winShared
  generalize s.lineData a = d
  obtain ⟨bs, pz⟩ := d
  dsimp only
  cases hl : s.line a with
  | none =>
    refine KeepsData.trans ?_ (State.mscCount_keepsData _ _ _)
    exact s.setLine_keepsData a _ (by rw [hl, dirtyBytes_single]; rfl)
  | some l =>
    dsimp only
    split
    · exact KeepsData.refl s
    · refine s.setLine_keepsData a _ ?_
      rw [hl, dirtyBytes_append_clean _ _ _ rfl]
      exact dirtyBytes_map_dirty l _ Copy.demoted Copy.isDirty_demoted (fun _ => rfl)

/-- Is a line's data a dirty copy's? -/
def State.dirtyAt (s : State) (a : Nat) : Bool :=
  match s.line a with
  | some l => l.dirty.isSome
  | none => false

/-- The data of a dirty line is its dirty copy's (R414). -/
theorem State.dirtyBytes_line (s : State) (a : Nat) : dirtyBytes (s.line a) = if s.dirtyAt a then some (s.lineData a).1 else none := by
  unfold State.dirtyAt State.lineData dirtyBytes
  cases s.line a with
  | none => rfl
  | some l =>
    simp only [Option.bind_some]
    cases l.dirty <;> rfl

/-- The copy with which a core wins a line alone. -/
def State.exclCopy (s : State) (core a : Nat) (write held : Bool) : Copy :=
  ⟨core, if write || s.dirtyAt a then .m else .e, (s.lineData a).1, (s.lineData a).2, held, false⟩

theorem State.winExcl_eq (s : State) (core a : Nat) (write : Bool) : ∃ held, s.winExcl core a write =
    ((s.setLine a (some ⟨.excl, [s.exclCopy core a write held]⟩)).loseLr a core).cond (s.line a).isNone (fun t => t.mscCount a 64) := ⟨_, rfl⟩

/-- What a line won alone changes besides its own entry: reservations and counters. -/
theorem State.winExcl_setLine (s : State) (core a : Nat) (write : Bool) : ∃ held,
    KeepsData (s.setLine a (some ⟨.excl, [s.exclCopy core a write held]⟩)) (s.winExcl core a write) ∧
    (s.winExcl core a write).line a = some ⟨.excl, [s.exclCopy core a write held]⟩ ∧
    (s.winExcl core a write).lr = s.lr.filter (fun p => p.2 != a / 64 + 1 || p.1 == core) := by
  obtain ⟨held, h⟩ := s.winExcl_eq core a write
  rw [h]
  generalize hl : (some ⟨.excl, [s.exclCopy core a write held]⟩ : Option Line) = o
  obtain ⟨r, hset⟩ := s.setLine_frame a o
  have hline : ((s.setLine a o).loseLr a core).line a = o := (s.line_setLine a o a).trans (if_pos rfl)
  have hlr : ((s.setLine a o).loseLr a core).lr = s.lr.filter (fun p => p.2 != a / 64 + 1 || p.1 == core) := by
    rw [hset]
    rfl
  have hdata : KeepsData (s.setLine a o) ((s.setLine a o).loseLr a core) := KeepsData.of_eq rfl rfl
  refine ⟨held, ?_⟩
  rw [hl]
  generalize (s.setLine a o).loseLr a core = t at hline hlr hdata
  unfold State.cond
  split
  · obtain ⟨r', f, e⟩ := t.mscCount_frame a 64
    have hkeep := hdata.trans (t.mscCount_keepsData a 64)
    beta_reduce
    rw [e] at hkeep ⊢
    exact ⟨hkeep, hline, hlr⟩
  · exact ⟨hdata, hline, hlr⟩

/-- A line won alone without a write holds the same data (R412). -/
theorem State.winExcl_keepsData (s : State) (core a : Nat) : KeepsData s (s.winExcl core a false) := by
  obtain ⟨held, hdata, -, -⟩ := s.winExcl_setLine core a false
  refine (s.setLine_keepsData a _ ?_).trans hdata
  rw [dirtyBytes_single, s.dirtyBytes_line]
  unfold State.exclCopy
  cases s.dirtyAt a <;> rfl

/-! ### Stores -/

/-- A line's bytes with some of them replaced. -/
def spliceBytes (ls bs : List Byte) (off : Nat) : List Byte := ls.take off ++ bs ++ ls.drop (off + bs.length)

theorem spliceBytes_getD {ls bs : List Byte} {off : Nat} (hfit : off + bs.length ≤ ls.length) (i : Nat) :
    (spliceBytes ls bs off).getD i 0 = if off ≤ i ∧ i < off + bs.length then bs.getD (i - off) 0 else ls.getD i 0 := by
  have htake : (ls.take off).length = off := by
    rw [List.length_take]
    omega
  unfold spliceBytes
  simp only [List.getD_eq_getElem?_getD, List.append_assoc]
  rcases Nat.lt_or_ge i off with h | h
  · rw [if_neg (by omega), List.getElem?_append_left (by omega), List.getElem?_take_of_lt h]
  · rw [List.getElem?_append_right (by omega), htake]
    rcases Nat.lt_or_ge i (off + bs.length) with h2 | h2
    · rw [if_pos ⟨h, h2⟩, List.getElem?_append_left (by omega)]
    · rw [if_neg (by omega), List.getElem?_append_right (by omega), List.getElem?_drop]
      congr 2
      omega

/-- A store into the only copy of a line. -/
theorem State.copyStore_setLine (t : State) {a : Nat} {bs : List Byte} {c : Copy} {st : LineState} (hl : t.line a = some ⟨st, [c]⟩) :
    t.copyStore c.core a bs = t.setLine a (some ⟨st, [{ c with bytes := spliceBytes c.bytes bs (a % 64), st := .m }]⟩) := by
  unfold State.copyStore
  rw [hl]
  simp only [List.map_cons, List.map_nil, if_true]
  rfl

/-- The store that a core makes into the copy that it wins. -/
def State.won (s : State) (core a : Nat) (bs : List Byte) : State := (s.winExcl core a true).copyStore core a bs

theorem State.won_setLine (s : State) (core a : Nat) (bs : List Byte) : ∃ st c, c.core = core ∧ c.isDirty = true ∧
    c.bytes = spliceBytes (s.lineData a).1 bs (a % 64) ∧
    s.won core a bs = (s.winExcl core a true).setLine a (some ⟨st, [c]⟩) := by
  obtain ⟨held, -, hline, -⟩ := s.winExcl_setLine core a true
  have hstore := State.copyStore_setLine (bs := bs) _ hline
  exact ⟨_, _, rfl, rfl, rfl, hstore⟩

/-- Engines see the bytes stored, and elsewhere what they saw. -/
theorem State.seen_won (s : State) (core a : Nat) (bs : List Byte) (b : Nat) :
    (s.won core a bs).seen b = if b / 64 = a / 64 then (spliceBytes (s.lineData a).1 bs (a % 64)).getD (b % 64) 0 else s.seen b := by
  obtain ⟨st, c, -, hd, hb, hwon⟩ := s.won_setLine core a bs
  rw [hwon]
  split
  case isTrue h =>
    rw [State.seen_of_dirty _ a ⟨st, [c]⟩ c ((State.line_setLine _ _ _ _).trans (if_pos rfl)) (by rw [Line.dirty_eq]; simp [hd]) b h, hb]
  case isFalse h =>
    obtain ⟨held, hdata, -, -⟩ := s.winExcl_setLine core a true
    have hline : ((s.winExcl core a true).setLine a (some ⟨st, [c]⟩)).line b = (s.winExcl core a true).line b := (State.line_setLine _ _ _ _).trans (if_neg h)
    rw [State.seen_eq, hline, State.setLine_byte, ← State.seen_eq, hdata.seen, State.seen_eq, State.line_setLine, if_neg h, State.setLine_byte, ← State.seen_eq]

theorem State.lr_won (s : State) (core a : Nat) (bs : List Byte) :
    (s.won core a bs).lr = s.lr.filter (fun p => p.2 != a / 64 + 1 || p.1 == core) := by
  obtain ⟨st, c, -, -, -, hwon⟩ := s.won_setLine core a bs
  obtain ⟨held, -, -, hlr⟩ := s.winExcl_setLine core a true
  obtain ⟨r, hset⟩ := (s.winExcl core a true).setLine_frame a (some ⟨st, [c]⟩)
  rw [hwon, hset]
  exact hlr

/-- A line covered whole is poisoned no more (R426). -/
def State.unpoisoned (t : State) (a : Nat) : State :=
  match t.line a with
  | some l => t.setLine a (some { l with copies := l.copies.map (fun (c : Copy) => { c with poison := false }) })
  | none => t

theorem State.unpoisoned_keepsData (t : State) (a : Nat) : KeepsData t (t.unpoisoned a) := by
  unfold State.unpoisoned
  split
  case h_1 l hl => exact t.setLine_keepsData a _ (by rw [hl]; exact dirtyBytes_map l _ (fun _ => rfl) (fun _ => rfl))
  case h_2 => exact KeepsData.refl t

/-- The reservation of a core on the line that it stores into is gone. -/
def State.lrUsed (t : State) (core a : Nat) : State := if t.lr.get (fun _ => 0) core = a / 64 + 1 then t.dropLr core else t

theorem State.lrUsed_keepsData (t : State) (core a : Nat) : KeepsData t (t.lrUsed core a) := KeepsData.ite (KeepsData.of_eq rfl rfl) (KeepsData.refl t)

theorem State.coreStore_eq (s : State) (core a : Nat) (bs : List Byte) :
    s.coreStore core a bs = (((s.won core a bs).cond (decide (bs.length = 64)) (fun t => t.unpoisoned a)).lrUsed core a).untag a bs.length := rfl

/-- What engines see after a core's store. -/
theorem State.seen_coreStore (s : State) (core a : Nat) (bs : List Byte) (b : Nat) :
    (s.coreStore core a bs).seen b = if b / 64 = a / 64 then (spliceBytes (s.lineData a).1 bs (a % 64)).getD (b % 64) 0 else s.seen b := by
  have hcond : KeepsData (s.won core a bs) ((s.won core a bs).cond (decide (bs.length = 64)) (fun t => t.unpoisoned a)) :=
    KeepsData.ite (State.unpoisoned_keepsData _ _) (KeepsData.refl _)
  have hdata := (hcond.trans (State.lrUsed_keepsData _ core a)).trans (State.untag_keepsData _ a bs.length)
  rw [← State.coreStore_eq] at hdata
  rw [hdata.seen, s.seen_won]

/-- A reservation that stands outlives the loss of other cores'. -/
theorem Tab.get_filter_kept {α : Type} (d : Nat → α) (p : Nat × α → Bool) (k : Nat) {v : α} (hp : p (k, v) = true) (hv : v ≠ d k) :
    ∀ t : Tab α, Tab.get d t k = v → Tab.get d (t.filter p) k = v
  | [], h => absurd h.symm hv
  | (j, w) :: t, h => by
    rw [Tab.get] at h
    split at h
    case isTrue hj =>
      subst hj h
      rw [List.filter_cons_of_pos hp, Tab.get, if_pos rfl]
    case isFalse hj =>
      split at h
      case isTrue => exact absurd h.symm hv
      case isFalse hlt =>
        have ih := Tab.get_filter_kept d p k hp hv t h
        by_cases hw : p (j, w) = true
        · rw [List.filter_cons_of_pos hw, Tab.get, if_neg hj, if_neg hlt, ih]
        · rw [List.filter_cons_of_neg hw, ih]

@[simp] theorem State.setLine_lr (s : State) (a : Nat) (o : Option Line) : (s.setLine a o).lr = s.lr := by
  obtain ⟨r, h⟩ := s.setLine_frame a o
  rw [h]

theorem State.unpoisoned_lr (t : State) (a : Nat) : (t.unpoisoned a).lr = t.lr := by
  unfold State.unpoisoned
  split
  · exact State.setLine_lr _ _ _
  · rfl

theorem State.untag_lr (t : State) (a n : Nat) : (t.untag a n).lr = t.lr := by
  unfold State.untag
  split <;> rfl

/-- A core that stores into the line that it reserved has no reservation (R421). -/
theorem State.lr_coreStore (s : State) (core a : Nat) (bs : List Byte) (h : s.lr.get (fun _ => 0) core = a / 64 + 1) :
    (s.coreStore core a bs).lr.get (fun _ => 0) core = 0 := by
  have hlr : ((s.won core a bs).cond (decide (bs.length = 64)) (fun t => t.unpoisoned a)).lr = (s.won core a bs).lr := by
    unfold State.cond
    split
    · exact State.unpoisoned_lr _ _
    · rfl
  have hkept : ((s.won core a bs).cond (decide (bs.length = 64)) (fun t => t.unpoisoned a)).lr.get (fun _ => 0) core = a / 64 + 1 := by
    rw [hlr, s.lr_won]
    exact Tab.get_filter_kept _ _ _ (by simp) (Nat.succ_ne_zero _) _ h
  rw [State.coreStore_eq, State.untag_lr, State.lrUsed, if_pos hkept]
  exact Tab.get_set_same _ _ _ _

theorem State.endHold_keepsData (t : State) (core a : Nat) : KeepsData t (t.endHold core a) := by
  unfold State.endHold
  split
  case h_1 l hl => exact t.setLine_keepsData a _ (by rw [hl]; exact dirtyBytes_map l _ (fun x => by split <;> rfl) (fun x => by split <;> rfl))
  case h_2 => exact KeepsData.refl t

theorem State.endHold_lr (t : State) (core a : Nat) : (t.endHold core a).lr = t.lr := by
  unfold State.endHold
  split
  · exact State.setLine_lr _ _ _
  · rfl

/-- The words of a store within one line: the bytes stored, and the rest of the line as its data was. -/
theorem State.seen_coreStore_word (s : State) (hs : s.sound) (core : Nat) {addr width : Nat} (hone : oneLine addr width = true) (v b : Nat) :
    (s.coreStore core addr (bytesOf width v)).seen b = if addr ≤ b ∧ b < addr + width then (bytesOf width v).getD (b - addr) 0
      else if b / 64 = addr / 64 then (s.lineData addr).1.getD (b % 64) 0 else s.seen b := by
  have hw := bytesOf_length width v
  have hl := s.lineData_length addr hs
  have hfit : 0 < width ∧ addr % 64 + width ≤ 64 := by
    simp only [oneLine, Bool.and_eq_true, decide_eq_true_eq] at hone
    omega
  rw [s.seen_coreStore]
  by_cases hb : b / 64 = addr / 64
  · rw [if_pos hb, if_pos hb, spliceBytes_getD (by rw [hw, hl]; exact hfit.2), hw]
    by_cases hin : addr ≤ b ∧ b < addr + width
    · rw [if_pos hin, if_pos (by omega), show b % 64 - addr % 64 = b - addr by omega]
    · rw [if_neg hin, if_neg (by omega)]
  · rw [if_neg hb, if_neg hb, if_neg (by omega)]

/-- A line that no cache holds, or of which a copy is dirty, has the data that engines see. -/
theorem State.lineData_seen (s : State) {addr b : Nat} (hm : inMemRegions addr 1 = true) (hb : b / 64 = addr / 64)
    (h : s.line addr = none ∨ ∃ l, s.line addr = some l ∧ l.dirty.isSome = true) : (s.lineData addr).1.getD (b % 64) 0 = s.seen b := by
  rcases h with hl | ⟨l, hl, hd⟩
  · have hhome : s.homeBytes addr = (List.range 64).map (fun i => s.byte (addr / 64 * 64 + i)) := by
      simp only [inMemRegions, Nat.add_sub_cancel, Bool.and_self, Bool.or_eq_true, beq_iff_eq] at hm
      unfold State.homeBytes
      rcases hm with hm | hm <;> rw [hm]
    have hdata : (s.lineData addr).1 = s.homeBytes addr := by
      unfold State.lineData
      rw [hl]
    have hbyte : addr / 64 * 64 + b % 64 = b := by omega
    rw [hdata, hhome, State.seen_eq, s.line_congr addr b hb, hl, List.getD_eq_getElem?_getD, List.getElem?_map,
      List.getElem?_range (Nat.mod_lt _ (by decide)), Option.map_some, hbyte]
    rfl
  · obtain ⟨c, hc⟩ := Option.isSome_iff_exists.1 hd
    have hdata : (s.lineData addr).1 = c.bytes := by
      unfold State.lineData
      rw [hl]
      dsimp only
      rw [hc]
    rw [hdata, s.seen_of_dirty addr l c hl hc b hb]

/-- A store to a group that has its place opens none. -/
theorem State.coreOpens_placed (s : State) {addr : Nat} (hm : inMemRegions addr 1 = true) (hg : bit (s.tir (groupOf addr)) 63 = true) :
    s.coreOpens addr = some s := by
  simp only [inMemRegions, Nat.add_sub_cancel, Bool.and_self, Bool.or_eq_true, beq_iff_eq] at hm
  unfold State.coreOpens
  rcases hm with hm | hm <;> rw [hm] <;> exact if_pos hg

/-! ### Each kind of store -/

section
variable (s : State) (core addr width : Nat) (v : Word)

theorem State.coreMain_store (hm : inMemRegions addr 1 = true) (hg : bit (s.tir (groupOf addr)) 63 = true) :
    s.coreMain core addr width v .store = s.coreStore core addr (bytesOf width v.toNat) := by
  unfold State.coreMain
  dsimp only
  rw [s.coreOpens_placed hm hg]

theorem State.coreMain_zero (hm : inMemRegions addr 1 = true) (hg : bit (s.tir (groupOf addr)) 63 = true) :
    s.coreMain core addr width v .zero = s.coreStore core (addr / 64 * 64) (List.replicate 64 0) := by
  unfold State.coreMain
  dsimp only
  rw [s.coreOpens_placed hm hg]

theorem State.coreMain_lr (hgood : ((s.winExcl core addr false).copyValue core addr width).2 = false) : s.coreMain core addr width v .lr =
    { s.winExcl core addr false with reply := some (BitVec.ofNat 64 ((s.winExcl core addr false).copyValue core addr width).1),
                                     lr := (s.winExcl core addr false).lr.set (fun _ => 0) core (addr / 64 + 1) } :=
  if_neg (fun h => Bool.false_ne_true (hgood.symm.trans h))

theorem State.coreMain_sc_lost (hlr : s.lr.get (fun _ => 0) core ≠ addr / 64 + 1) :
    s.coreMain core addr width v .sc = { (s.dropLr core) with reply := some 1 } := if_pos hlr

theorem State.coreMain_sc (hlr : s.lr.get (fun _ => 0) core = addr / 64 + 1) (hm : inMemRegions addr 1 = true) (hg : bit (s.tir (groupOf addr)) 63 = true) :
    s.coreMain core addr width v .sc = { ((s.coreStore core addr (bytesOf width v.toNat)).endHold core addr) with reply := some 0 } := by
  unfold State.coreMain
  dsimp only
  rw [if_neg (not_not.2 hlr), s.coreOpens_placed hm hg]

/-- CBO.ZERO's line (R416). -/
theorem State.seen_coreZero (hs : s.sound) (b : Nat) :
    (s.coreStore core (addr / 64 * 64) (List.replicate 64 0)).seen b = if b / 64 = addr / 64 then 0 else s.seen b := by
  have hl := s.lineData_length (addr / 64 * 64) hs
  have hoff : addr / 64 * 64 % 64 = 0 := by omega
  have hline : addr / 64 * 64 / 64 = addr / 64 := by omega
  have hzero : (spliceBytes (s.lineData (addr / 64 * 64)).1 (List.replicate 64 0) 0).getD (b % 64) 0 = 0 := by
    rw [spliceBytes_getD (by rw [List.length_replicate, hl]), List.length_replicate, if_pos (by omega), List.getD_replicate _ (by omega)]
  rw [s.seen_coreStore, hline, hoff, hzero]

/-- CBO.CLEAN leaves what engines see (R405). -/
theorem State.seen_cboClean (hs : s.sound) (hm : inMemRegions addr 1 = true) (b : Nat) : (s.cboLine addr false).seen b = s.seen b := by
  have hline : addr / 64 * 64 / 64 = addr / 64 := by omega
  have hr : lineAtSlice (addr / 64 * 64) := by
    have h := lineAtSlice_of_inMemRegions addr hm
    unfold lineAtSlice at h ⊢
    rw [hline]
    exact h
  unfold State.cboLine
  rw [if_neg Bool.false_ne_true]
  split
  case h_1 l hl =>
    exact s.seen_readLine _ l hs.1 hr (fun c hc b hb => s.seen_of_dirty addr l c hl hc b (hb.trans hline)) b
  case h_2 => rfl

/-- So does CBO.FLUSH, after which no cache holds the line. -/
theorem State.cboFlush (hs : s.sound) (hm : inMemRegions addr 1 = true) :
    (s.cboLine addr true).line addr = none ∧ ∀ b, (s.cboLine addr true).seen b = s.seen b :=
  ⟨(s.line_dropLine addr false addr).trans (if_pos rfl), fun b => s.seen_dropLine addr false hs (lineAtSlice_of_inMemRegions addr hm) b nofun⟩

end

/-- Settles O42: a line won by a core holds the data that engines saw (`KeepsData`), and a store splices its bytes into the one dirty copy. LR, SC and the
cache-block operations have RISC-V's effects as the model presumes them (log entry 91). -/
theorem coreLoadsAndStores : Obligations.CoreLoadsAndStores := by
  intro core addr width v s hs hruns hmain hone hwait hok hfree harm
  have hexec {kind : StoreKind} := execCoreWrite_main hruns hmain hone hwait hok hfree harm v (kind := kind)
  refine ⟨fun hgood => ⟨_, execCoreRead_main hruns hmain hone hwait hok hfree harm hgood, rfl, (s.winShared_keepsData core addr).seen⟩,
    fun hm hg => ⟨_, hexec (by simp), ?store⟩, fun hw ha => ⟨fun hgood => ⟨_, hexec (fun _ => ⟨hw, ha⟩), ?lr⟩,
      fun hlr => (hexec (fun _ => ⟨hw, ha⟩)).trans (congrArg Host.Outcome.next (s.coreMain_sc_lost core addr width v hlr)),
      fun hlr hm hg => ⟨_, hexec (fun _ => ⟨hw, ha⟩), ?sc⟩⟩,
    fun hm => ⟨fun hg => ⟨_, hexec (by simp), ?zero⟩, ⟨_, hexec (by simp), s.seen_cboClean addr hs hm⟩,
      ⟨_, hexec (by simp), s.cboFlush addr hs hm⟩⟩⟩
  case store =>
    rw [s.coreMain_store core addr width v hm hg]
    refine ⟨fun b h1 h2 => (s.seen_coreStore_word hs core hone _ b).trans (if_pos ⟨h1, h2⟩), fun b hout hline => ?_⟩
    rw [s.seen_coreStore_word hs core hone, if_neg (by omega)]
    split
    case isTrue hb => exact s.lineData_seen hm hb (hline.resolve_left (not_not.2 hb))
    case isFalse => rfl
  case lr =>
    rw [s.coreMain_lr core addr width v hgood]
    exact ⟨rfl, Tab.get_set_same _ _ _ _, (s.winExcl_keepsData core addr).seen⟩
  case sc =>
    rw [s.coreMain_sc core addr width v hlr hm hg]
    refine ⟨rfl, ?_, fun b h1 h2 => ?_⟩
    · exact (congrArg (Tab.get (fun _ => 0) · core) (State.endHold_lr _ core addr)).trans (s.lr_coreStore core addr _ hlr)
    · exact ((State.endHold_keepsData _ core addr).seen b).trans ((s.seen_coreStore_word hs core hone _ b).trans (if_pos ⟨h1, h2⟩))
  case zero =>
    rw [s.coreMain_zero core addr width v hm hg]
    exact s.seen_coreZero core addr hs

end Sys2Proof.Machine
end
